-- ==== Sys2Proof/Word.lean ====
section
/-! DEFINITION. The word types of the LK7700 (00_scope R3, 01 R9, 06 R87). -/

namespace Sys2Proof

/-- A scalar register, CSR or 64-bit memory word. -/
abbrev Word := BitVec 64
/-- The smallest addressable unit of memory. -/
abbrev Byte := BitVec 8
/-- The data of one vector register: 1,024 bytes (R87). -/
abbrev VBits := BitVec 8192
/-- One predicate register: one bit for each byte of a vector register (R97). -/
abbrev PBits := BitVec 1024
/-- One instruction word (R42). -/
abbrev IWord := BitVec 96
/-- The six sticky flags, at the positions of R37. -/
abbrev FlagSet := BitVec 6

end Sys2Proof
end

