-- ==== Sys2Proof/Syntax.lean ====
section
/-! DEFINITION. The syntax of the LK7700: every row of the opcode table is one constructor of `Instr`.
Rows 1 to 156 are instruction words (03 R42 to R58); then the steps of the part's other agents, the steps of
collective programs (21 R356), the entries of work queues (22 R374), and the inputs of the host window and
of the management port. -/

namespace Sys2Proof

/-- The four engines of a core, indices 0 to 3 (R8). -/
inductive Eng where
  | L | M | X | S
deriving DecidableEq, Repr

/-- The header fields every word carries (R42 to R44). -/
structure Hdr where
  stop : Bool
  pop  : BitVec 3
  post : BitVec 3
  g    : BitVec 4
  gn   : Bool
deriving DecidableEq, Repr

/-- A scalar-class source operand (R45); `d k` is distance k + 1. -/
inductive SSrc where
  | s (n : Fin 32) | q (n : Fin 16) | lc (n : Fin 4) | sp (n : Fin 8) | d (k : Fin 8) | z | ones
deriving DecidableEq, Repr

/-- A scalar-class destination operand (R45). -/
inductive SDst where
  | s (n : Fin 32) | z
deriving DecidableEq, Repr

/-- A vector-class source operand (R45). -/
inductive VSrc where
  | v (n : Fin 768) | d (k : Fin 8) | z | ones
deriving DecidableEq, Repr

/-- A vector-class destination operand (R45). -/
inductive VDst where
  | v (n : Fin 768) | z
deriving DecidableEq, Repr

/-- Operand B of format VA: vector, or scalar when BS = 1 (R106). -/
inductive VSSrc where
  | vec (a : VSrc) | sc (a : SSrc)
deriving DecidableEq, Repr

/-- The type codes of R47. -/
inductive Ty where
  | i8 | i16 | i32 | i64 | n8 | n16 | n32 | n64 | f32 | f16 | bf16 | e4m3 | e5m2 | e2m1 | e8m0
deriving DecidableEq, Repr

/-- The rounding modes of R30. -/
inductive Rnd where
  | rne | rtz | rdn | rup
deriving DecidableEq, Repr

/-- The rounding field RM of R48: a mode, or "use FRM". -/
inductive RM where
  | mode (r : Rnd) | frm
deriving DecidableEq, Repr

/-- SAT and U of the additive words (R53, R60). -/
inductive SatMode where
  | wrap | sat | satn
deriving DecidableEq, Repr

/-- COND of CMP and BRC (R63). -/
inductive Cond where
  | eq | ne | lt | ge | ltn | gen
deriving DecidableEq, Repr

/-- VCOND of VCMP (R53). -/
inductive VCond where
  | eq | ne | lt | le | gt | ge | uo | ord
deriving DecidableEq, Repr

/-- The scopes of R52. -/
inductive Scope where
  | core | quad | die | pkg | pod | sys
deriving DecidableEq, Repr

/-- ORD with its scope (R53). -/
inductive Order where
  | none | acq (s : Scope) | rel (s : Scope) | ar (s : Scope)
deriving DecidableEq, Repr

/-- The buffer of a memory operand (R51). -/
inductive BufSel where
  | imm (n : BitVec 16) | reg (a : SSrc)
deriving DecidableEq, Repr

/-- A memory operand of format MA (R51). -/
structure MemOp where
  buf  : BufSel
  off  : SSrc
  disp : BitVec 11
  ord  : Order
deriving DecidableEq, Repr

/-- The memory operation codes of R54. -/
inductive AmoOp where
  | add | and | or | xor | min | max | minn | maxn | swap | fadd | fmin | fmax
deriving DecidableEq, Repr

/-- The barrier levels of BARR (R168). -/
inductive Level where
  | quad | die | pkg | pod
deriving DecidableEq, Repr

/-- A branch target: section delta and word index (R50). -/
structure Target where
  delta : BitVec 14
  word  : BitVec 16
deriving DecidableEq, Repr

/-- The barrier object an asynchronous command credits (R285): buffer, and offset in units of 16. -/
structure BoRef where
  buf : BitVec 16
  off : BitVec 14
deriving DecidableEq, Repr

/-- The CSRs of R79. -/
inductive Csr where
  | fflags | fenab | frm | cyc | gsc | band | task | core | quad | die | pkg | rank | nrank
  | waitr | pht | phtm | trapc | trapv | trappc | ctx | btbase | ptbase
deriving DecidableEq, Repr

/-- The fields of a collective step (R356), less its opcode. -/
structure StepArgs where
  slot : BitVec 8
  peer : BitVec 16
  rop  : BitVec 4
  ty   : BitVec 4
  hb   : BitVec 4
  ha   : BitVec 4
  c    : Bool
  sb   : Bool
  sa   : Bool
  ix   : Bool
  li   : Bool
  pm   : BitVec 2
  len  : BitVec 32
deriving DecidableEq, Repr

/-- An access of the host or of a peer package to this package's memory (R349, R368). -/
inductive ExtOp where
  | load (size : Nat)
  | store (bytes : List Byte)
  | atomic (op : AmoOp) (sz : BitVec 2) (operand : Word)
  | cas (sz : BitVec 2) (expect operand : Word)
deriving DecidableEq, Repr

/-- A firmware image handed to the boot ROM (R379): header fields, signature blobs and body. -/
structure Image where
  magic  : BitVec 32
  length : BitVec 32
  svn    : BitVec 16
  ver    : BitVec 32
  resv0  : Bool
  body   : List Byte
  rsaSig : List Byte
  slhSig : List Byte
deriving DecidableEq, Repr

/-- Where a write to the host window comes from (R368, R369, R383). -/
inductive Origin where
  | host | ide | tdi (n : Nat) | sideband | firmware
deriving DecidableEq, Repr

/-- Every row of the opcode table. -/
inductive Instr where
  -- control and task words (04, 10)
  | nop (h : Hdr)
  | br (h : Hdr) (t : Target)
  | brc (h : Hdr) (c : Cond) (a b : SSrc) (t : Target)
  | brp (h : Hdr) (all : Bool) (a : Fin 16) (t : Target)
  | call (h : Hdr) (t : Target)
  | ret (h : Hdr)
  | loop (h : Hdr) (lvl : Fin 4) (a : SSrc) (endw : BitVec 16)
  | loops (h : Hdr) (lvl : Fin 4) (a : SSrc) (m1 : BitVec 3) (endw : BitVec 16)
  | brkl (h : Hdr) (lvl : Fin 4)
  | suspend (h : Hdr)
  | yield (h : Hdr)
  | halt (h : Hdr)
  | watch (h : Hdr) (m : MemOp)
  | sleep (h : Hdr)
  | tfence (h : Hdr)
  | stampb (h : Hdr) (a : SSrc) (i : BitVec 30)
  | trap (h : Hdr) (code : BitVec 16)
  | bkpt (h : Hdr) (code : BitVec 16)
  | csrr (h : Hdr) (d : SDst) (r : Csr)
  | csrw (h : Hdr) (r : Csr) (a : SSrc)
  | eret (h : Hdr)
  | tlbinv (h : Hdr) (a b : SSrc)
  | bufinv (h : Hdr) (a : SSrc)
  -- scalar integer words (04)
  | add (h : Hdr) (m : SatMode) (d : SDst) (a b : SSrc)
  | addi (h : Hdr) (m : SatMode) (d : SDst) (a : SSrc) (i : BitVec 30)
  | sub (h : Hdr) (m : SatMode) (d : SDst) (a b : SSrc)
  | mul (h : Hdr) (m : SatMode) (d : SDst) (a b : SSrc)
  | madd (h : Hdr) (m : SatMode) (d : SDst) (a b c : SSrc)
  | mulh (h : Hdr) (d : SDst) (a b : SSrc)
  | mulhn (h : Hdr) (d : SDst) (a b : SSrc)
  | div (h : Hdr) (d : SDst) (a b : SSrc)
  | divn (h : Hdr) (d : SDst) (a b : SSrc)
  | rem (h : Hdr) (d : SDst) (a b : SSrc)
  | remn (h : Hdr) (d : SDst) (a b : SSrc)
  | and (h : Hdr) (d : SDst) (a b : SSrc)
  | andi (h : Hdr) (d : SDst) (a : SSrc) (i : BitVec 30)
  | or (h : Hdr) (d : SDst) (a b : SSrc)
  | ori (h : Hdr) (d : SDst) (a : SSrc) (i : BitVec 30)
  | xor (h : Hdr) (d : SDst) (a b : SSrc)
  | xori (h : Hdr) (d : SDst) (a : SSrc) (i : BitVec 30)
  | andn (h : Hdr) (d : SDst) (a b : SSrc)
  | clz (h : Hdr) (d : SDst) (a : SSrc)
  | popc (h : Hdr) (d : SDst) (a : SSrc)
  | shl (h : Hdr) (d : SDst) (a b : SSrc)
  | shli (h : Hdr) (d : SDst) (a : SSrc) (sh : BitVec 6)
  | shr (h : Hdr) (d : SDst) (a b : SSrc)
  | shri (h : Hdr) (d : SDst) (a : SSrc) (sh : BitVec 6)
  | sra (h : Hdr) (d : SDst) (a b : SSrc)
  | srai (h : Hdr) (d : SDst) (a : SSrc) (sh : BitVec 6)
  | min (h : Hdr) (d : SDst) (a b : SSrc)
  | minn (h : Hdr) (d : SDst) (a b : SSrc)
  | max (h : Hdr) (d : SDst) (a b : SSrc)
  | maxn (h : Hdr) (d : SDst) (a b : SSrc)
  | cmp (h : Hdr) (c : Cond) (d : SDst) (a b : SSrc)
  | sel (h : Hdr) (d : SDst) (a b c : SSrc)
  | li (h : Hdr) (d : SDst) (k : BitVec 50)
  | lih (h : Hdr) (d : SDst) (a : SSrc) (k : BitVec 32)
  | bext (h : Hdr) (d : SDst) (a : SSrc) (pos w1 : BitVec 6)
  | bins (h : Hdr) (d : SDst) (a b : SSrc) (pos w1 : BitVec 6)
  -- memory words (04, 12)
  | lds (h : Hdr) (sz : BitVec 2) (sx sp : Bool) (d : SDst) (m : MemOp)
  | sts (h : Hdr) (sz : BitVec 2) (a : SSrc) (m : MemOp)
  | cld (h : Hdr) (sz : BitVec 2) (sx : Bool) (d : SDst) (m : MemOp)
  | amo (h : Hdr) (op : AmoOp) (sz : BitVec 2) (d : SDst) (a : SSrc) (m : MemOp)
  | cas (h : Hdr) (sz : BitVec 2) (d : SDst) (a : SSrc) (m : MemOp)
  | vld (h : Hdr) (sp : Bool) (d : VDst) (m : MemOp)
  | vlds (h : Hdr) (sz : BitVec 2) (sp : Bool) (d : VDst) (a : SSrc) (m : MemOp)
  | vldx (h : Hdr) (sz : BitVec 2) (sp : Bool) (d : VDst) (a : VSrc) (m : MemOp)
  | vldb (h : Hdr) (sz : BitVec 2) (sp : Bool) (d : VDst) (m : MemOp)
  | vst (h : Hdr) (a : VSrc) (m : MemOp)
  | vsts (h : Hdr) (sz : BitVec 2) (a : VSrc) (d : SSrc) (m : MemOp)
  | vstx (h : Hdr) (sz : BitVec 2) (a d : VSrc) (m : MemOp)
  | vstn (h : Hdr) (a d : VSrc) (m : MemOp)
  | amov (h : Hdr) (op : AmoOp) (t : Ty) (a : VSrc) (m : MemOp)
  | fence (h : Hdr) (sc : Scope)
  | lfence (h : Hdr) (sc : Scope) (mask : BitVec 4)
  | barr (h : Hdr) (lv : Level)
  | boarm (h : Hdr) (a : SSrc) (m : MemOp)
  | boadd (h : Hdr) (a : SSrc) (m : MemOp)
  | bowait (h : Hdr) (d : SDst) (a : SSrc) (m : MemOp)
  -- launch, reuse and asynchronous words (10, 14, 16)
  | lpatch (h : Hdr) (sel : BitVec 4) (d : SDst) (a b : SSrc)
  | larm (h : Hdr) (d : SDst) (a : SSrc)
  | rchk (h : Hdr) (d : SDst) (a b : SSrc)
  | rinv (h : Hdr) (d : SDst) (a b : SSrc)
  | acpy (h : Hdr) (d : SDst) (a b c : SSrc) (bo : BoRef)
  | afill (h : Hdr) (d : SDst) (a b c : SSrc) (bo : BoRef)
  | agath (h : Hdr) (d : SDst) (a : SSrc) (bo : BoRef)
  | ascat (h : Hdr) (d : SDst) (a : SSrc) (bo : BoRef)
  | aferry (h : Hdr) (d : SDst) (a b c : SSrc) (bo : BoRef)
  | acoll (h : Hdr) (d : SDst) (a b : SSrc) (bo : BoRef)
  | astat (h : Hdr) (d : SDst) (a : SSrc)
  -- vector arithmetic words (07)
  | vadd (h : Hdr) (t : Ty) (rm : RM) (sat : Bool) (d : VDst) (a : VSrc) (b : VSSrc)
  | vsub (h : Hdr) (t : Ty) (rm : RM) (sat : Bool) (d : VDst) (a : VSrc) (b : VSSrc)
  | vmul (h : Hdr) (t : Ty) (rm : RM) (sat : Bool) (d : VDst) (a : VSrc) (b : VSSrc)
  | vmulh (h : Hdr) (t : Ty) (d : VDst) (a : VSrc) (b : VSSrc)
  | vfma (h : Hdr) (t : Ty) (rm : RM) (sat : Bool) (d : VDst) (a : VSrc) (b : VSSrc) (c : VSrc)
  | vfms (h : Hdr) (t : Ty) (rm : RM) (sat : Bool) (d : VDst) (a : VSrc) (b : VSSrc) (c : VSrc)
  | vfnma (h : Hdr) (t : Ty) (rm : RM) (sat : Bool) (d : VDst) (a : VSrc) (b : VSSrc) (c : VSrc)
  | vmin (h : Hdr) (t : Ty) (d : VDst) (a : VSrc) (b : VSSrc)
  | vmax (h : Hdr) (t : Ty) (d : VDst) (a : VSrc) (b : VSSrc)
  | vabs (h : Hdr) (t : Ty) (sat : Bool) (d : VDst) (a : VSrc)
  | vneg (h : Hdr) (t : Ty) (sat : Bool) (d : VDst) (a : VSrc)
  | vrcp (h : Hdr) (t : Ty) (rm : RM) (sat : Bool) (d : VDst) (a : VSrc)
  | vrsq (h : Hdr) (t : Ty) (rm : RM) (sat : Bool) (d : VDst) (a : VSrc)
  | vsqrt (h : Hdr) (t : Ty) (rm : RM) (sat : Bool) (d : VDst) (a : VSrc)
  | vexp2 (h : Hdr) (t : Ty) (rm : RM) (sat : Bool) (d : VDst) (a : VSrc)
  | vlog2 (h : Hdr) (t : Ty) (rm : RM) (sat : Bool) (d : VDst) (a : VSrc)
  | vsin (h : Hdr) (t : Ty) (rm : RM) (sat : Bool) (d : VDst) (a : VSrc)
  | vcos (h : Hdr) (t : Ty) (rm : RM) (sat : Bool) (d : VDst) (a : VSrc)
  | vtanh (h : Hdr) (t : Ty) (rm : RM) (sat : Bool) (d : VDst) (a : VSrc)
  | vsig (h : Hdr) (t : Ty) (rm : RM) (sat : Bool) (d : VDst) (a : VSrc)
  | vand (h : Hdr) (t : Ty) (d : VDst) (a : VSrc) (b : VSSrc)
  | vor (h : Hdr) (t : Ty) (d : VDst) (a : VSrc) (b : VSSrc)
  | vxor (h : Hdr) (t : Ty) (d : VDst) (a : VSrc) (b : VSSrc)
  | vshl (h : Hdr) (t : Ty) (d : VDst) (a : VSrc) (b : VSSrc)
  | vshr (h : Hdr) (t : Ty) (d : VDst) (a : VSrc) (b : VSSrc)
  | vsra (h : Hdr) (t : Ty) (d : VDst) (a : VSrc) (b : VSSrc)
  | vcmp (h : Hdr) (c : VCond) (t : Ty) (d : Fin 16) (a : VSrc) (b : VSSrc)
  | vsel (h : Hdr) (t : Ty) (d : VDst) (a : Fin 16) (b : VSSrc) (c : VSrc)
  | vclassV (h : Hdr) (t : Ty) (d : VDst) (a : VSrc)
  | vclassP (h : Hdr) (t : Ty) (d : Fin 16) (a : VSrc) (b : SSrc)
  | vradd (h : Hdr) (t : Ty) (rm : RM) (sat : Bool) (d : VDst) (a : VSrc)
  | vrmax (h : Hdr) (t : Ty) (d : VDst) (a : VSrc)
  | vrmin (h : Hdr) (t : Ty) (d : VDst) (a : VSrc)
  | vscan (h : Hdr) (t : Ty) (rm : RM) (sat : Bool) (d : VDst) (a : VSrc)
  -- conversion, permutation and predicate words (08)
  | vcvt (h : Hdr) (dt st : Ty) (rm : RM) (sat : Bool) (part : BitVec 3) (d : VDst) (a : VSrc)
  | vqmx (h : Hdr) (dt st : Ty) (rm : RM) (sat : Bool) (part : BitVec 3) (d : VDst) (b : VDst) (a : VSrc)
  | vdqmx (h : Hdr) (dt st : Ty) (rm : RM) (sat : Bool) (part : BitVec 3) (d : VDst) (a b : VSrc)
  | vpack (h : Hdr) (dt st : Ty) (rm : RM) (sat : Bool) (d : VDst) (a b : VSrc)
  | vunpk (h : Hdr) (dt st : Ty) (rm : RM) (sat : Bool) (part : BitVec 3) (d : VDst) (a : VSrc)
  | vldexp (h : Hdr) (t : Ty) (rm : RM) (sat : Bool) (d : VDst) (a : VSrc) (b : VSSrc)
  | vperm (h : Hdr) (t : Ty) (d : VDst) (a b : VSrc)
  | vshuf (h : Hdr) (t : Ty) (d : VDst) (a b : VSrc) (c : SSrc)
  | vbcst (h : Hdr) (t : Ty) (lane : BitVec 11) (d : VDst) (a : VSrc)
  | vins (h : Hdr) (t : Ty) (lane : BitVec 11) (d : VDst) (a : VSrc) (b : SSrc)
  | vexts (h : Hdr) (t : Ty) (lane : BitVec 11) (d : SDst) (a : VSrc)
  | vcomp (h : Hdr) (t : Ty) (d : VDst) (a : VSrc) (b : Fin 16)
  | vexpd (h : Hdr) (t : Ty) (d : VDst) (a : VSrc) (b : Fin 16)
  | vtrn (h : Hdr) (t : Ty) (d a : Fin 768)
  | vpclr (h : Hdr) (t : Ty) (d : VDst) (a : VSrc)
  | pand (h : Hdr) (t : Ty) (d a b : Fin 16)
  | por (h : Hdr) (t : Ty) (d a b : Fin 16)
  | pxor (h : Hdr) (t : Ty) (d a b : Fin 16)
  | pnot (h : Hdr) (t : Ty) (d a : Fin 16)
  | pcnt (h : Hdr) (t : Ty) (d : SDst) (a : Fin 16)
  | pfirst (h : Hdr) (t : Ty) (d : SDst) (a : Fin 16)
  | pmov (h : Hdr) (t : Ty) (d a : Fin 16) (b : SSrc)
  | vpchk (h : Hdr) (t : Ty) (d : VDst) (a : VSrc)
  -- matrix words (09)
  | mcfg (h : Hdr) (a : SSrc) (stamp : BitVec 24)
  | mldw (h : Hdr) (a : SSrc) (stamp : BitVec 24)
  | mswp (h : Hdr) (stamp : BitVec 24)
  | mlds (h : Hdr) (a : SSrc) (stamp : BitVec 24)
  | mma (h : Hdr) (k : BitVec 2) (a : Fin 768) (b : SSrc) (c : BitVec 10) (stamp : BitVec 24)
  | mza (h : Hdr) (k : BitVec 2) (stamp : BitVec 24)
  | mdrn (h : Hdr) (k : BitVec 2) (d : Fin 768) (b : SSrc) (stamp : BitVec 24)
  | mkpr (h : Hdr) (d : SDst) (stamp : BitVec 24)
  | mbswp (h : Hdr) (a : SSrc) (stamp : BitVec 24)
  -- steps of the engines that no word names (95)
  | matrixComplete (core : Nat)
  | scheduleMiss (core : Nat)
  | enterSection (core : Nat) (e : Eng)
  | tokenPost (core : Nat) (e : Eng)
  | bowaitComplete (core : Nat) (e : Eng)
  | episodeComplete (core : Nat) (lv : Level)
  | podEpisodeComplete (core : Nat)
  | batchApply (line : Nat)
  | l1Evict (core line : Nat)
  -- the dispatcher and the life of a task (10, 14, 18)
  | choose (core : Nat)
  | makeResident (slot : Nat)
  | dispatch (core : Nat)
  | agingRise (slot : Nat)
  | writeBack (core : Nat)
  | taskEnd (core : Nat)
  | probeDecision (slot : Nat)
  | watchdogExpire (core : Nat) (e : Eng)
  | phaseTimerExpire (core : Nat) (e : Eng)
  | preemptRequest (slot : Nat)
  | save (core : Nat)
  | savelate (slot : Nat)
  -- asynchronous engines (16)
  | granuleTransfer (cmd target : Nat)
  | granuleRestart (cmd target : Nat)
  | ferryExchange (cmd : Nat)
  -- the collective engine (21)
  | collProgramStart (prog : Nat)
  | send (a : StepArgs)
  | recv (a : StepArgs)
  | pushred (a : StepArgs)
  | pull (a : StepArgs)
  | collCopy (a : StepArgs)
  | wait (a : StepArgs)
  | collSignal (a : StepArgs)
  | collLoop (a : StepArgs)
  | endl (a : StepArgs)
  | countx (a : StepArgs)
  | pfxsum (a : StepArgs)
  | collEnd (a : StepArgs)
  | collStepComplete (prog : Nat)
  | peerWrite (msg : Nat)
  | contribution (msg : Nat)
  | flush (comm slot : Nat)
  | collTimeout (prog : Nat)
  -- step sequencers and page service (10, 18)
  | seqStepStart (n : Nat)
  | seqStepEnd (n : Nat)
  | sqctlResume (n : Nat)
  | sqctlAbort (n : Nat)
  | frplyResume (e : Eng) (slot : Nat)
  | frplyKill (e : Eng) (slot : Nat)
  | evqbaseWrite (v : Word)
  | evqheadWrite (v : BitVec 32)
  -- memory mechanisms (11, 20)
  | mapctlStart (newv : BitVec 4)
  | remapUnitMove
  | hbmRebuild (line : Nat)
  | bundleRetire (core layer bundle : Nat)
  | patrolScrub (line : Nat)
  | dramRefresh
  -- cryogenic operation (20)
  | tempSample
  | holdTimerExpire
  | cryoctlCool
  | cryoctlWarm
  | cryoctlPoweroff
  | cryoctlAbort
  | trainingDone (pass : Bool)
  | warmupComplete
  | warmupDeadline
  | heartbeatMiss
  -- boot and management (22)
  | powerUp (img : Image)
  | recover (img : Image)
  | rdband
  | rdpwr
  | rderr
  | cryo (cmd : BitVec 3)
  | keyld (secured : Bool) (k1 k2 : BitVec 256) (slot : BitVec 10) (erase : Bool)
  | keyldInstall (o : Origin) (slot : BitVec 10)
  | keyldErase (o : Origin) (slot : BitVec 10)
  | getMeasurements (block : BitVec 8) (nonce : BitVec 256)
  | keyExchange (peer : BitVec 256)
  -- the front end (22)
  | doorbell (o : Origin) (q : Nat) (tail : BitVec 32)
  | wqctlEnable (o : Origin) (q : Nat) (on : Bool)
  | wqctlRetry (o : Origin) (q : Nat)
  | wqctlSkip (o : Origin) (q : Nat)
  | launch (record : BitVec 16) (sett : Bool) (tiles : BitVec 32)
  | seq (n : BitVec 4) (w0 w1 w2 w3 w4 w5 : Word)
  | copy (src dst len bo : Word)
  | waitbo (bo : Word) (phase : Bool)
  | signal (bo bytes : Word) (vector : BitVec 11) (msix : Bool)
  | coll (prog arg bo : Word) (rank nrank : BitVec 20)
  | wqWaitEnd (q : Nat)
  -- links, register window and accesses from outside (21, 22, 13)
  | pcieLinkDown
  | flitRetry (port : Nat)
  | soundPortDown (port : Nat)
  | linkRekey (link : Nat)
  | registerWrite (o : Origin) (off size : Nat) (v : Word)
  | accessPerformed (core idx : Nat)
  | pageServiceRetry (idx : Nat)
  | pcieLinkUp
  | bar4Access (o : Origin) (addr : Nat) (op : ExtOp)
  | peerAccess (ctx : BitVec 16) (pa : Nat) (op : ExtOp)
  | tdispMessage (tdi : Nat) (run : Bool)
deriving DecidableEq, Repr

end Sys2Proof
end

