-- ==== Sys2Proof/WellFormed.lean ====
section
/-! DEFINITION. Which syntax trees are instructions an engine can run: the static rules of 03 R44 to R56 and of the
operand tables of 04, 07, 08, 09, 10, 12, 14, 16, and the field rules of collective steps (21 R357) and of
work-queue entries (22 R374). -/

namespace Sys2Proof

/-- The integer types (R23). -/
def Ty.isInt : Ty → Bool
  | .i8 | .i16 | .i32 | .i64 | .n8 | .n16 | .n32 | .n64 => true
  | _ => false

/-- The signed integer types (R23). -/
def Ty.isSigned : Ty → Bool
  | .i8 | .i16 | .i32 | .i64 => true
  | _ => false

/-- "Fl" of R109. -/
def Ty.isFl : Ty → Bool
  | .f32 | .f16 | .bf16 => true
  | _ => false

/-- Element width in bits (R23, R25, R27). -/
def Ty.width : Ty → Nat
  | .i8 | .n8 | .e4m3 | .e5m2 | .e8m0 => 8
  | .i16 | .n16 | .f16 | .bf16 => 16
  | .i32 | .n32 | .f32 => 32
  | .i64 | .n64 => 64
  | .e2m1 => 4

/-- Lanes of a vector register at this type (R29). -/
def Ty.lanes (t : Ty) : Nat := 8192 / t.width

/-- The ratio r of two types (08, before R125). -/
def Ty.ratio (a b : Ty) : Nat := Nat.max a.width b.width / Nat.min a.width b.width

/-- log2 of the type's size in bytes, for the SZ of AMOV (R235). -/
def Ty.szCode : Ty → BitVec 2
  | .i8 | .n8 | .e4m3 | .e5m2 | .e8m0 | .e2m1 => 0
  | .i16 | .n16 | .f16 | .bf16 => 1
  | .i32 | .n32 | .f32 => 2
  | .i64 | .n64 => 3

/-- The engines of each opcode (R56). -/
def opValidOn (e : Eng) (op : BitVec 8) : Bool :=
  let n := op.toNat
  if n == 0x03 then e == .X
  else if n == 0x0C then e == .L || e == .S
  else if n == 0x0F then e == .M
  else if n ≤ 0x0E then true
  else if n == 0x10 || n == 0x11 then true
  else if n < 0x18 then false
  else if n ≤ 0x1A then true
  else if n ≤ 0x1C then e == .L || e == .S
  else if n < 0x20 then false
  else if n ≤ 0x3E then true
  else if n < 0x40 then false
  else if n ≤ 0x44 then e == .L || e == .S
  else if n < 0x50 then false
  else if n ≤ 0x53 then e == .L
  else if n ≤ 0x58 then e == .S
  else if n < 0x60 then false
  else if n == 0x62 then true
  else if n ≤ 0x65 then e == .L || e == .S
  else if n < 0x70 then false
  else if n ≤ 0x73 then e == .L || e == .S
  else if n < 0x78 then false
  else if n ≤ 0x7E then e == .L || e == .S
  else if n < 0x80 then false
  else if n ≤ 0x8A then e == .X
  else if n < 0x90 then false
  else if n ≤ 0x98 then e == .X
  else if n < 0xA0 then false
  else if n ≤ 0xA8 then e == .X
  else if n < 0xB0 then false
  else if n ≤ 0xB3 then e == .X
  else if n < 0xC0 then false
  else if n ≤ 0xC5 then e == .X
  else if n < 0xD0 then false
  else if n ≤ 0xDD then e == .X
  else if n < 0xE0 then false
  else if n ≤ 0xE8 then e == .M
  else false

/-- The guard rule of R44. -/
def Hdr.wf (e : Eng) (h : Hdr) : Bool :=
  if e == .X then !(h.gn && h.g == 0) else !h.gn && h.g == 0

/-- The CSRs that CSRW may write (R79). -/
def Csr.writable : Csr → Bool
  | .fflags | .fenab | .frm | .pht | .phtm | .trapc | .trapv | .trappc | .ctx | .btbase | .ptbase => true
  | _ => false

/-- Which of acquire and release a word may carry (R53). -/
inductive OrdKind where
  | none | acq | rel | any
deriving DecidableEq, Repr

def Order.fits (k : OrdKind) : Order → Bool
  | .none => true
  | .acq _ => k == .acq || k == .any
  | .rel _ => k == .rel || k == .any
  | .ar _ => k == .any

/-- The operand rule of R51 with the ORD rule of R53. -/
def MemOp.wf (k : OrdKind) (m : MemOp) : Bool := m.ord.fits k

/-- SP only with ORD = 0 (R53). -/
def MemOp.wfSp (sp : Bool) (m : MemOp) : Bool := m.ord.fits .acq && (!sp || m.ord == .none)

/-- Codes 0 to 7 of R54. -/
def AmoOp.isInteger : AmoOp → Bool
  | .add | .and | .or | .xor | .min | .max | .minn | .maxn => true
  | _ => false

/-- Codes 9 to 11 of R54. -/
def AmoOp.isFloat : AmoOp → Bool
  | .fadd | .fmin | .fmax => true
  | _ => false

/-- A floating code takes SZ 1 or 2 on AMO (R54). -/
def AmoOp.fitsSz (op : AmoOp) (sz : BitVec 2) : Bool := !op.isFloat || sz == 1 || sz == 2

/-- The types an operation accepts on AMOV (R54, R235). -/
def AmoOp.fitsTy (op : AmoOp) (t : Ty) : Bool :=
  t != .e2m1 && (if op.isInteger then t.isInt else if op.isFloat then t.isFl else true)

/-- AMO's displacement is seven bits (R51). -/
def dispFits7 (d : BitVec 11) : Bool := (d.setWidth 7).signExtend 11 == d

/-- RM is used on floating types only and is 0 elsewhere (R107). -/
def RM.fitsTy (t : Ty) (rm : RM) : Bool := t.isFl || rm == .mode .rne

/-- The types of VABS and VNEG (R109). -/
def Ty.absOk (t : Ty) : Bool := t.isInt || t.isFl || t == .e4m3 || t == .e5m2 || t == .e2m1

/-- The types of VSCAN (R109). -/
def Ty.scanOk (t : Ty) : Bool := t == .i32 || t == .n32 || t == .i64 || t == .n64 || t == .f32

/-- The types of VCLASS (R109). -/
def Ty.classOk (t : Ty) : Bool := !t.isInt

/-- The element types of `.mx4` and `.mx8` (R47). -/
def Ty.isMx (t : Ty) : Bool := t == .e2m1 || t == .e4m3

def VCond.quiet (c : VCond) : Bool := c != .uo && c != .ord

/-- The unused fields of a collective step are 0 (R357). -/
def StepArgs.only (a : StepArgs) (slot pm ha hb len tr ix li sa sb c : Bool) : Bool :=
  (slot || a.slot == 0) && (pm || (a.pm == 0 && a.peer == 0)) && (!pm || a.pm != 0) &&
  (ha || a.ha == 0) && (hb || a.hb == 0) && (len || a.len == 0) && (tr || (a.rop == 0 && a.ty == 0)) &&
  (ix || !a.ix) && (li || !a.li) && (sa || !a.sa) && (sb || !a.sb) && (c || !a.c)

/-- IX takes neither SA, SB nor LEN (R359). -/
def StepArgs.ixOk (a : StepArgs) : Bool := !a.ix || (!a.sa && !a.sb && a.len == 0)

/-- Whether engine `e` can run this word; for a step of a program, whether its fields obey R357. The other rows of
the opcode table carry no word and are always well-formed. -/
def Instr.wf (e : Eng) : Instr → Bool
  | .nop h | .ret h | .brkl h _ | .suspend h | .yield h | .halt h | .sleep h | .tfence h
  | .trap h _ | .bkpt h _ | .eret h => h.wf e
  | .br h _ | .call h _ | .brc h _ _ _ _ => h.wf e
  | .brp h _ _ _ => h.wf e && e == .X
  | .loop h _ _ _ | .loops h _ _ _ _ => h.wf e
  | .watch h m => h.wf e && (e == .L || e == .S) && m.wf .none
  | .stampb h _ _ => h.wf e && e == .M
  | .csrr h _ _ => h.wf e
  | .csrw h r _ => h.wf e && r.writable
  | .tlbinv h _ _ | .bufinv h _ => h.wf e && (e == .L || e == .S)
  | .add h _ _ _ _ | .addi h _ _ _ _ | .sub h _ _ _ _ | .mul h _ _ _ _ | .madd h _ _ _ _ _ => h.wf e
  | .mulh h _ _ _ | .mulhn h _ _ _ | .div h _ _ _ | .divn h _ _ _ | .rem h _ _ _ | .remn h _ _ _ => h.wf e
  | .and h _ _ _ | .andi h _ _ _ | .or h _ _ _ | .ori h _ _ _ | .xor h _ _ _ | .xori h _ _ _ | .andn h _ _ _ => h.wf e
  | .clz h _ _ | .popc h _ _ => h.wf e
  | .shl h _ _ _ | .shli h _ _ _ | .shr h _ _ _ | .shri h _ _ _ | .sra h _ _ _ | .srai h _ _ _ => h.wf e
  | .min h _ _ _ | .minn h _ _ _ | .max h _ _ _ | .maxn h _ _ _ | .cmp h _ _ _ _ | .sel h _ _ _ _ => h.wf e
  | .li h _ _ | .lih h _ _ _ => h.wf e
  | .bext h _ _ pos w1 | .bins h _ _ _ pos w1 => h.wf e && pos.toNat + w1.toNat + 1 ≤ 64
  | .lds h sz sx sp _ m => h.wf e && (e == .L || e == .S) && m.wfSp sp && !(sx && sz == 3)
  | .sts h _ _ m => h.wf e && (e == .L || e == .S) && m.wf .rel
  | .cld h sz sx _ m => h.wf e && (e == .L || e == .S) && m.wf .none && !(sx && sz == 3)
  | .amo h op sz _ _ m => h.wf e && (e == .L || e == .S) && m.wf .any && op.fitsSz sz && dispFits7 m.disp
  | .cas h _ _ _ m => h.wf e && (e == .L || e == .S) && m.wf .any
  | .vld h sp _ m => h.wf e && e == .L && m.wfSp sp
  | .vlds h _ sp _ _ m => h.wf e && e == .L && m.wfSp sp
  | .vldx h _ sp _ _ m => h.wf e && e == .L && m.wfSp sp
  | .vldb h _ sp _ m => h.wf e && e == .L && m.wfSp sp
  | .vst h _ m => h.wf e && e == .S && m.wf .rel
  | .vsts h _ _ _ m => h.wf e && e == .S && m.wf .rel
  | .vstx h _ _ _ m => h.wf e && e == .S && m.wf .rel
  | .vstn h _ _ m => h.wf e && e == .S && m.wf .rel
  | .amov h op t _ m => h.wf e && e == .S && m.wf .any && op.fitsTy t && m.disp == 0
  | .fence h _ => h.wf e && (e == .L || e == .S)
  | .lfence h _ mask => h.wf e && (e == .L || e == .S) && mask != 0
  | .barr h _ => h.wf e
  | .boarm h _ m | .boadd h _ m => h.wf e && (e == .L || e == .S) && m.wf .rel
  | .bowait h _ _ m => h.wf e && (e == .L || e == .S) && m.wf .acq
  | .lpatch h k _ _ _ => h.wf e && (e == .L || e == .S) && k.toNat ≤ 9
  | .larm h _ _ | .rchk h _ _ _ | .rinv h _ _ _ => h.wf e && (e == .L || e == .S)
  | .acpy h _ _ _ _ _ | .afill h _ _ _ _ _ | .agath h _ _ _ | .ascat h _ _ _ | .aferry h _ _ _ _ _
  | .acoll h _ _ _ _ | .astat h _ _ => h.wf e && (e == .L || e == .S)
  | .vadd h t rm _ _ _ _ | .vsub h t rm _ _ _ _ | .vmul h t rm _ _ _ _
  | .vfma h t rm _ _ _ _ _ | .vfms h t rm _ _ _ _ _ | .vfnma h t rm _ _ _ _ _ =>
      h.wf e && e == .X && (t.isInt || t.isFl) && rm.fitsTy t
  | .vmulh h t _ _ _ => h.wf e && e == .X && t.isInt
  | .vmin h t _ _ _ | .vmax h t _ _ _ => h.wf e && e == .X && (t.isInt || t.isFl)
  | .vabs h t sat _ _ | .vneg h t sat _ _ => h.wf e && e == .X && t.absOk && (!sat || t.isInt)
  | .vrcp h t _ _ _ _ | .vrsq h t _ _ _ _ | .vsqrt h t _ _ _ _ | .vexp2 h t _ _ _ _ | .vlog2 h t _ _ _ _
  | .vsin h t _ _ _ _ | .vcos h t _ _ _ _ | .vtanh h t _ _ _ _ | .vsig h t _ _ _ _ => h.wf e && e == .X && t.isFl
  | .vand h _ _ _ _ | .vor h _ _ _ _ | .vxor h _ _ _ _ => h.wf e && e == .X
  | .vshl h t _ _ _ | .vshr h t _ _ _ | .vsra h t _ _ _ => h.wf e && e == .X && t.isInt
  | .vcmp h c t d _ _ => h.wf e && e == .X && (t.isFl || (t.isInt && c.quiet)) && d != 0
  | .vsel h _ _ _ _ _ => h.wf e && e == .X
  | .vclassV h t _ _ => h.wf e && e == .X && t.classOk
  | .vclassP h t d _ _ => h.wf e && e == .X && t.classOk && d != 0
  | .vradd h t rm _ _ _ => h.wf e && e == .X && (t.isInt || t.isFl) && rm.fitsTy t
  | .vrmax h t _ _ | .vrmin h t _ _ => h.wf e && e == .X && (t.isInt || t.isFl)
  | .vscan h t rm _ _ _ => h.wf e && e == .X && t.scanOk && rm.fitsTy t
  | .vcvt h dt st _ _ part _ _ => h.wf e && e == .X && dt.ratio st ≤ 8 && part.toNat < dt.ratio st
  | .vqmx h dt st _ _ part d b _ =>
      h.wf e && e == .X && dt.isMx && st.isFl && part.toNat < dt.ratio st && d != b
  | .vdqmx h dt st _ _ part _ _ _ => h.wf e && e == .X && dt.isFl && st.isMx && part.toNat < dt.ratio st
  | .vpack h dt st _ _ _ _ _ => h.wf e && e == .X && st.width == 2 * dt.width
  | .vunpk h dt st _ _ part _ _ => h.wf e && e == .X &&
      (dt.width == 2 * st.width || dt.width == 4 * st.width || dt.width == 8 * st.width) && part.toNat < dt.ratio st
  | .vldexp h t _ _ _ _ _ => h.wf e && e == .X && t.isFl
  | .vperm h t _ _ _ => h.wf e && e == .X && t != .e2m1
  | .vshuf h _ _ _ _ _ => h.wf e && e == .X
  | .vbcst h t lane _ _ | .vins h t lane _ _ _ | .vexts h t lane _ _ => h.wf e && e == .X && lane.toNat < t.lanes
  | .vcomp h _ _ _ _ | .vexpd h _ _ _ _ | .vpclr h _ _ _ => h.wf e && e == .X
  | .vtrn h _ d a => h.wf e && e == .X && d.val ≤ 752 && a.val ≤ 752
  | .pand h _ d _ _ | .por h _ d _ _ | .pxor h _ d _ _ => h.wf e && e == .X && d != 0
  | .pnot h _ d _ => h.wf e && e == .X && d != 0
  | .pcnt h _ _ _ | .pfirst h _ _ _ => h.wf e && e == .X
  | .pmov h _ d _ _ => h.wf e && e == .X && d != 0
  | .vpchk h _ _ _ => h.wf e && e == .X
  | .mcfg h _ _ | .mldw h _ _ | .mswp h _ | .mlds h _ _ | .mza h _ _ | .mdrn h _ _ _ _ | .mkpr h _ _
  | .mbswp h _ _ => h.wf e && e == .M
  | .mma h _ _ _ c _ => h.wf e && e == .M && (c.toNat < 768 || (1008 ≤ c.toNat && c.toNat ≤ 1017))
  | .send a => a.only false true true true true false true true true true true && a.ixOk
  | .recv a => a.only false true false false true false true true false false true && a.ixOk
  | .pushred a => a.only true false true false true true false false true false false && a.slot.toNat ≤ 63
  | .pull a => a.only true false false true true true false false false true true && a.slot.toNat ≤ 63
  | .collCopy a => a.only false false true true true false false false true true true
  | .wait a => a.only true false false false true false false false false false false && a.slot.toNat ≤ 15
  | .collSignal a => a.only true true false false false false false true false false false && a.slot.toNat ≤ 15
  | .collLoop a => a.only false false false false true false false false false false false
  | .endl a | .countx a | .pfxsum a | .collEnd a =>
      a.only false false false false false false false false false false false
  | _ => true

end Sys2Proof
end

