-- ==== Sys2Proof/Machine/Flags.lean ====
section
/-! DEFINITION. The six sticky flags (02 R37) and the integer results that set them (R23). -/

namespace Sys2Proof.Machine

/-- Flag positions of R37. -/
def fNX : FlagSet := 0x01
def fUF : FlagSet := 0x02
def fOF : FlagSet := 0x04
def fDZ : FlagSet := 0x08
def fNV : FlagSet := 0x10
def fSAT : FlagSet := 0x20

def flagIf (c : Bool) (f : FlagSet) : FlagSet := if c then f else 0

/-- SAT and NX of a clamp (R23, R34). -/
def fClamp : FlagSet := 0x21

/-- `sat(x, lo, hi)` of R7. -/
def clampInt (x lo hi : Int) : Int := if x < lo then lo else if x > hi then hi else x

/-- Bounds of an integer format of `w` bits (R23). -/
def intLo (signed : Bool) (w : Nat) : Int := if signed then -(2 ^ (w - 1) : Int) else 0
def intHi (signed : Bool) (w : Nat) : Int := if signed then 2 ^ (w - 1) - 1 else 2 ^ w - 1

/-- The low `w` bits of an exact integer. -/
def lowBits (w : Nat) (x : Int) : Nat := (x % (2 ^ w : Int)).toNat

/-- An element's bits read as an integer of its format. -/
def readInt (signed : Bool) (w : Nat) (bits : Nat) : Int :=
  if signed && bits.testBit (w - 1) then (bits : Int) - 2 ^ w else bits

/-- An exact integer delivered to a format: wrapped, or clamped with SAT and NX where the clamp changes it (R23). -/
def deliverInt (signed : Bool) (w : Nat) (sat : Bool) (x : Int) : Nat × FlagSet :=
  if sat then
    let c := clampInt x (intLo signed w) (intHi signed w)
    (lowBits w c, flagIf (c != x) fClamp)
  else (lowBits w x, 0)

end Sys2Proof.Machine
end

