-- ==== Sys2Proof/Machine/Float.lean ====
section
/-! DEFINITION. Number formats, rounding, special values and conversions (02 R24 to R36, R40), on exact dyadic numbers:
a finite value is ± m · 2^e. -/

namespace Sys2Proof.Machine

/-- The floating formats of R25. -/
inductive FFmt where
  | f32 | f16 | bf16 | e4m3 | e5m2 | e2m1
deriving DecidableEq, Repr

def FFmt.ebits : FFmt → Nat
  | .f32 => 8 | .f16 => 5 | .bf16 => 8 | .e4m3 => 4 | .e5m2 => 5 | .e2m1 => 2

def FFmt.mbits : FFmt → Nat
  | .f32 => 23 | .f16 => 10 | .bf16 => 7 | .e4m3 => 3 | .e5m2 => 2 | .e2m1 => 1

def FFmt.bias : FFmt → Nat
  | .f32 => 127 | .f16 => 15 | .bf16 => 127 | .e4m3 => 7 | .e5m2 => 15 | .e2m1 => 1

def FFmt.width (f : FFmt) : Nat := 1 + f.ebits + f.mbits

/-- Max finite without its sign (R25). -/
def FFmt.maxBits : FFmt → Nat
  | .f32 => 0x7F7FFFFF | .f16 => 0x7BFF | .bf16 => 0x7F7F | .e4m3 => 0x7E | .e5m2 => 0x7B | .e2m1 => 0x7

/-- The canonical NaN (R26); a NaN result of an E2M1 conversion is +0 (R35). -/
def FFmt.nanBits : FFmt → Nat
  | .f32 => 0x7FC00000 | .f16 => 0x7E00 | .bf16 => 0x7FC0 | .e4m3 => 0x7F | .e5m2 => 0x7E | .e2m1 => 0

/-- The formats with infinities (R25). -/
def FFmt.hasInf : FFmt → Bool
  | .f32 | .f16 | .bf16 | .e5m2 => true
  | .e4m3 | .e2m1 => false

def FFmt.infBits (f : FFmt) : Nat := (2 ^ f.ebits - 1) * 2 ^ f.mbits

def FFmt.signBit (f : FFmt) (neg : Bool) : Nat := if neg then 2 ^ (f.ebits + f.mbits) else 0

/-- Smallest normal exponent. -/
def FFmt.emin (f : FFmt) : Int := 1 - (f.bias : Int)

/-- What a word of a floating format stands for (R24 to R27). -/
inductive FVal where
  | nan (signalling : Bool)
  | inf (neg : Bool)
  | fin (neg : Bool) (m : Nat) (e : Int)
deriving DecidableEq, Repr

def FVal.isNan : FVal → Bool
  | .nan _ => true
  | _ => false

def FVal.isSnan : FVal → Bool
  | .nan s => s
  | _ => false

def FVal.isInf : FVal → Bool
  | .inf _ => true
  | _ => false

def FVal.isZero : FVal → Bool
  | .fin _ m _ => m == 0
  | _ => false

def FVal.neg : FVal → FVal
  | .nan s => .nan s
  | .inf n => .inf (!n)
  | .fin n m e => .fin (!n) m e

def FVal.isNeg : FVal → Bool
  | .nan _ => false
  | .inf n => n
  | .fin n _ _ => n

/-- The value of a word (R24, R25); a NaN of FP32, FP16 or BF16 is signalling when its top mantissa bit is 0 (R26). -/
def FFmt.read (f : FFmt) (bits : Nat) : FVal :=
  let neg := bits.testBit (f.ebits + f.mbits)
  let ex := (bits / 2 ^ f.mbits) % 2 ^ f.ebits
  let m := bits % 2 ^ f.mbits
  let allOnes := ex == 2 ^ f.ebits - 1
  if ex == 0 then .fin neg m (f.emin - f.mbits)
  else if allOnes && f.hasInf then
    if m == 0 then .inf neg else .nan (f != .e5m2 && !m.testBit (f.mbits - 1))
  else if allOnes && f == .e4m3 && m == 7 then .nan false
  else .fin neg (m + 2 ^ f.mbits) ((ex : Int) - f.bias - f.mbits)

/-- Whether rounding moves the magnitude up: `odd` is the low kept bit, `rem` against `half` the part cut off (R30). -/
def roundsUp (mode : Rnd) (neg odd : Bool) (rem half : Nat) : Bool :=
  match mode with
  | .rne => rem > half || (rem == half && odd)
  | .rtz => false
  | .rdn => neg && rem != 0
  | .rup => !neg && rem != 0

/-- ± (m + ε) · 2^e cut at the position `q`: the kept integer and whether anything was cut; ε > 0 when `sticky`. A cut
far above the number leaves less than half, however far. -/
def roundAt (mode : Rnd) (neg : Bool) (m : Nat) (e : Int) (sticky : Bool) (q : Int) : Nat × Bool :=
  let m4 := 4 * m + (if sticky then 1 else 0)
  let d := q - (e - 2)
  if d ≤ 0 then (m4 * 2 ^ (-d).toNat, false)
  else
    let p := 2 ^ Nat.min d.toNat (Nat.log2 m4 + 2)
    let kept := m4 / p
    let rem := m4 % p
    (kept + (if roundsUp mode neg (kept % 2 == 1) rem (p / 2) then 1 else 0), rem != 0)

/-- An overflowed result (R31 stage 2, R34, R35). -/
def FFmt.overflow (f : FFmt) (mode : Rnd) (sat neg : Bool) : Nat × FlagSet :=
  if sat || f == .e2m1 then (f.signBit neg + f.maxBits, fClamp)
  else
    let toInf := match mode with
      | .rne => true
      | .rtz => false
      | .rdn => neg
      | .rup => !neg
    (if !toInf then f.signBit neg + f.maxBits
     else if f.hasInf then f.signBit neg + f.infBits
     else f.nanBits, fOF ||| fNX)

/-- `round(mode, x)` to a floating format (R31, R32, R34, R35) for x = ± (m + ε) · 2^e. -/
def FFmt.round (f : FFmt) (mode : Rnd) (sat neg : Bool) (m : Nat) (e : Int) (sticky : Bool := false) : Nat × FlagSet :=
  if m == 0 && !sticky then (f.signBit neg, 0)
  else
    let top : Int := (Nat.log2 (4 * m + 1) : Int) + (e - 2)
    let q := (if top < f.emin then f.emin else top) - f.mbits
    let (n, inexact) := roundAt mode neg m e sticky q
    let (n, q) := if n == 2 ^ (f.mbits + 1) then (2 ^ f.mbits, q + 1) else (n, q)
    if n < 2 ^ f.mbits then
      (f.signBit neg + n, flagIf inexact (fUF ||| fNX))
    else
      let mag : Int := (q + f.mbits + f.bias) * (2 ^ f.mbits : Int) + ((n : Int) - 2 ^ f.mbits)
      if mag > f.maxBits then f.overflow mode sat neg
      else (f.signBit neg + mag.toNat, flagIf inexact fNX)

/-- An infinite result or source (R34, R35). -/
def FFmt.ofInf (f : FFmt) (sat neg : Bool) : Nat × FlagSet :=
  if sat || f == .e2m1 then (f.signBit neg + f.maxBits, fClamp)
  else if f.hasInf then (f.signBit neg + f.infBits, 0)
  else (f.nanBits, fNV)

/-- A NaN result (R26, R35). E2M1 has no NaN and gives +0 with NV, the NaN scale of 08 R126 too (DESIGN CHOICE, LOG 67). -/
def FFmt.ofNan (f : FFmt) (signalling : Bool) : Nat × FlagSet :=
  (f.nanBits, flagIf (signalling || f == .e2m1) fNV)

/-- A value delivered to a floating format. -/
def FFmt.deliver (f : FFmt) (mode : Rnd) (sat : Bool) : FVal → Nat × FlagSet
  | .nan s => f.ofNan s
  | .inf n => f.ofInf sat n
  | .fin n m e => f.round mode sat n m e

-- exact sums and products

/-- ± m · 2^e as an integer multiple of 2^q, q ≤ e. -/
def scaledTo (neg : Bool) (m : Nat) (e q : Int) : Int :=
  let v : Int := (m * 2 ^ (e - q).toNat : Nat)
  if neg then -v else v

def minExp : List FVal → Int → Int
  | [], q => q
  | .fin _ m e :: xs, q => minExp xs (if m != 0 && e < q then e else q)
  | _ :: xs, q => minExp xs q

def sumScaled (q : Int) : List FVal → Int → Int
  | [], acc => acc
  | .fin n m e :: xs, acc => sumScaled q xs (if m == 0 then acc else acc + scaledTo n m e q)
  | _ :: xs, acc => sumScaled q xs acc

/-- The exact sum of a list (R32, R40, R236): NaN when a term is NaN or infinities disagree (the flag of the second
case is `bad`), else the infinity, else the finite sum; an exact zero takes the sign all its terms share, if they are
all zeros of one sign, else +0, or -0 under `.rdn`. -/
def exactSum (mode : Rnd) (xs : List FVal) : FVal × Bool :=
  let pInf := xs.any (fun x => x == .inf false)
  let nInf := xs.any (fun x => x == .inf true)
  if xs.any FVal.isNan then (.nan (xs.any FVal.isSnan), false)
  else if pInf && nInf then (.nan false, true)
  else if pInf then (.inf false, false)
  else if nInf then (.inf true, false)
  else
    let q := minExp xs 0
    let s := sumScaled q xs 0
    if s == 0 then
      if xs.all (fun x => x.isZero && !x.isNeg) then (.fin false 0 0, false)
      else if xs.all (fun x => x.isZero && x.isNeg) then (.fin true 0 0, false)
      else (.fin (mode == .rdn) 0 0, false)
    else (.fin (s < 0) s.natAbs q, false)

/-- The exact product; `true` when it is 0 × ∞ (R26). -/
def exactMul (a b : FVal) : FVal × Bool :=
  match a, b with
  | .nan s, .nan t => (.nan (s || t), false)
  | .nan s, _ => (.nan s, false)
  | _, .nan t => (.nan t, false)
  | .inf n, .inf n' => (.inf (n != n'), false)
  | .inf n, .fin n' m _ => if m == 0 then (.nan false, true) else (.inf (n != n'), false)
  | .fin n m _, .inf n' => if m == 0 then (.nan false, true) else (.inf (n != n'), false)
  | .fin n m e, .fin n' m' e' => (.fin (n != n') (m * m') (e + e'), false)

/-- a + b (R110). -/
def FFmt.addV (f : FFmt) (mode : Rnd) (sat : Bool) (a b : FVal) : Nat × FlagSet :=
  let (s, bad) := exactSum mode [a, b]
  let (r, fl) := f.deliver mode sat s
  (r, fl ||| flagIf bad fNV)

def FFmt.add (f : FFmt) (mode : Rnd) (sat : Bool) (a b : Nat) : Nat × FlagSet :=
  f.addV mode sat (f.read a) (f.read b)

def FFmt.sub (f : FFmt) (mode : Rnd) (sat : Bool) (a b : Nat) : Nat × FlagSet :=
  f.addV mode sat (f.read a) (f.read b).neg

def FFmt.mul (f : FFmt) (mode : Rnd) (sat : Bool) (a b : Nat) : Nat × FlagSet :=
  let (s, bad) := exactMul (f.read a) (f.read b)
  let (r, fl) := f.deliver mode sat s
  (r, fl ||| flagIf bad fNV)

/-- a × b + c with one rounding (R112): 0 × ∞ raises NV whatever c is. -/
def FFmt.fmaV (f : FFmt) (mode : Rnd) (sat : Bool) (a b c : FVal) : Nat × FlagSet :=
  let (p, bad) := exactMul a b
  let (s, bad2) := exactSum mode [p, c]
  let (r, fl) := f.deliver mode sat s
  (r, fl ||| flagIf (bad || bad2) fNV)

-- comparison, minimum and maximum

/-- Exact order of two values that are no NaN; -0 and +0 are equal. -/
def FVal.lt (a b : FVal) : Bool :=
  match a, b with
  | .nan _, _ => false
  | _, .nan _ => false
  | .inf n, .inf n' => n && !n'
  | .inf n, .fin _ _ _ => n
  | .fin _ _ _, .inf n => !n
  | .fin n m e, .fin n' m' e' =>
    let q := if e < e' then e else e'
    scaledTo n m e q < scaledTo n' m' e' q

def FVal.eqv (a b : FVal) : Bool := !a.isNan && !b.isNan && !a.lt b && !b.lt a

/-- R113: -0 orders below +0, a lone NaN gives the other operand's bits, signalling NaNs raise NV. -/
def FFmt.minmax (f : FFmt) (isMax : Bool) (a b : Nat) : Nat × FlagSet :=
  let x := f.read a
  let y := f.read b
  let fl := flagIf (x.isSnan || y.isSnan) fNV
  if x.isNan && y.isNan then (f.nanBits, fl)
  else if x.isNan then (b, fl)
  else if y.isNan then (a, fl)
  else
    let aLess := x.lt y || (x.isZero && y.isZero && x.isNeg && !y.isNeg)
    (if aLess != isMax then a else b, fl)

-- conversions (R33, R35, R126)

/-- To an integer format (R33, R35). -/
def toIntFmt (signed : Bool) (w : Nat) (mode : Rnd) (sat : Bool) (x : FVal) : Nat × FlagSet :=
  let lo := intLo signed w
  let hi := intHi signed w
  let bad := if signed then 2 ^ (w - 1) else 2 ^ w - 1
  match x with
  | .nan _ => if sat then (0, fNV) else (bad, fNV)
  | .inf n => if sat then (lowBits w (if n then lo else hi), fClamp) else (bad, fNV)
  | .fin n m e =>
    let (k, inexact) := roundAt mode n m e false 0
    let v : Int := if n then -(k : Int) else k
    if v < lo || v > hi then
      if sat then (lowBits w (clampInt v lo hi), fClamp) else (bad, fNV)
    else (lowBits w v, flagIf inexact fNX)

/-- To E8M0 (R27): the sign is ignored and the mantissa truncated. -/
def toE8M0 (sat : Bool) : FVal → Nat × FlagSet
  | .nan s => (0xFF, flagIf s fNV)
  | .inf _ => if sat then (0xFE, fClamp) else (0xFF, fNV)
  | .fin _ m e =>
    if m == 0 then (0, fUF ||| fNX)
    else
      let top : Int := (Nat.log2 m : Int) + e
      if top < -127 then (0, fUF ||| fNX)
      else if top > 127 then (if sat then (0xFE, fClamp) else (0xFF, fNV))
      else ((top + 127).toNat, flagIf (m != 2 ^ Nat.log2 m) fNX)

/-- The value of an E8M0 code (R27). -/
def readE8M0 (c : Nat) : FVal := if c == 0xFF then .nan false else .fin false 1 ((c : Int) - 127)

/-- The floating format of a type. -/
def tyFmt : Ty → Option FFmt
  | .f32 => some .f32 | .f16 => some .f16 | .bf16 => some .bf16
  | .e4m3 => some .e4m3 | .e5m2 => some .e5m2 | .e2m1 => some .e2m1
  | _ => none

/-- The format of an Fl type. -/
def flFmt : Ty → FFmt
  | .f16 => .f16 | .bf16 => .bf16 | .e4m3 => .e4m3 | .e5m2 => .e5m2 | .e2m1 => .e2m1 | _ => .f32

def fvalOfInt (x : Int) : FVal := .fin (x < 0) x.natAbs 0

/-- The value of an element of any type. -/
def readVal (t : Ty) (bits : Nat) : FVal :=
  match t with
  | .e8m0 => readE8M0 bits
  | t => if t.isInt then fvalOfInt (readInt t.isSigned t.width bits) else (flFmt t).read bits

/-- conv of R126. -/
def convElem (dt st : Ty) (mode : Rnd) (sat : Bool) (bits : Nat) : Nat × FlagSet :=
  if dt == .e8m0 then toE8M0 sat (readVal st bits)
  else if dt.isInt then
    if st.isInt then deliverInt dt.isSigned dt.width sat (readInt st.isSigned st.width bits)
    else toIntFmt dt.isSigned dt.width mode sat (readVal st bits)
  else (flFmt dt).deliver mode sat (readVal st bits)

-- the block sums of the matrix array (R40)

/-- c := round(c + round(s · 2^shift)) for one k-block: `ps` are the pairs of the block, `scale` the exponent the MX
scales add, `none` for a NaN scale. Signalling NaNs in a block raise NV under R26, products of both infinities always. -/
def blockMac (ps : List (FVal × FVal)) (scale : Option Int) (c : Nat) : Nat × FlagSet :=
  let prods := ps.map (fun p => exactMul p.1 p.2)
  let badMul := prods.any (fun p => p.2)
  let infs (n : Bool) : Bool := prods.any (fun p => p.1 == .inf n)
  let badSum := infs false && infs true
  let (s, _) := exactSum .rne (prods.map (fun p => p.1))
  let snan := match s with
    | .nan g => g
    | _ => false
  let fl0 := flagIf (badMul || badSum || snan) fNV
  let (t, fl1) : Nat × FlagSet :=
    match scale with
    | none => (FFmt.f32.nanBits, 0)
    | some k =>
      match s with
      | .nan _ => (FFmt.f32.nanBits, 0)
      | .inf n => FFmt.f32.ofInf false n
      | .fin n m e => if m == 0 then (0, 0) else FFmt.f32.round .rne false n m (e + k)
  let (r, fl2) := FFmt.f32.add .rne false c t
  (r, fl0 ||| fl1 ||| fl2)

end Sys2Proof.Machine
end

