-- ==== Sys2Proof/Config.lean ====
section
/-! DEFINITION. What the manual leaves open, as constants without a body: no proof can see what they are
(notes/assumptions/3, 20, 22, 23). The free values are applied to the counter `State.free`. -/

namespace Sys2Proof.Config

/-- The data of a vector register, an accumulator row or a 1 KiB run of bytes the manual calls unspecified. -/
opaque freeV : Nat → BitVec 8192
/-- A byte the manual calls unspecified. -/
opaque freeByte : Nat → BitVec 8
/-- Package power in watts, averaged over 100 ms (22 R377). -/
opaque power : Nat → BitVec 64
/-- The XTS image of a byte read under another key than it was written under (22 R382): by the keys' generations, the
address and the stored byte. -/
opaque otherKey : Nat → Nat → Nat → BitVec 8 → BitVec 8
/-- Whether the RSA and the SLH-DSA signature of an image verify (22 R379, R380). -/
opaque rsaOk : Image → Bool
opaque slhOk : Image → Bool
/-- The digest of an image (22 R379). -/
opaque digestOf : Image → BitVec 384
/-- The signed answer of GET_MEASUREMENTS for a block, a nonce and the words measured (22 R381). -/
opaque measurement : BitVec 8 → BitVec 256 → List (BitVec 64) → List (BitVec 64)
/-- The digest of the boot ROM, and the fused digests of the two public keys (22 R379, R381). -/
opaque bootRom : BitVec 384
opaque rsaKey : BitVec 384
opaque slhKey : BitVec 384
/-- The signed response of KEY_EXCHANGE to the peer's share (22 R381). -/
opaque exchange : BitVec 256 → List (BitVec 64)
/-- The session key that KEY_EXCHANGE agrees with the peer's share (22 R381). -/
opaque sessionKey : BitVec 256 → Nat

/-- The parity stripe of an HBM line under a hash version and the interleave mode of its region: the XOR hash is not given
(11 R219 to R221). The line is numbered by its DRAM unit. -/
opaque stripeOf : Nat → Nat → Nat → Nat

/-- DETAIL of an event kind whose layout the manual does not give (18 R316, R390: TLBHIT, CAPACITY, CDELAY), by the kind and what it
tells of. -/
opaque openDetail : Nat → List Nat → BitVec 64

/-- The TDI that owns a 64 KiB unit of the BAR4 aperture, 64 and more for none: the ranges are not given (22 R368). -/
opaque bar4Tdi : Nat → Nat

end Sys2Proof.Config
end

