-- ==== Sys2Proof/Machine/Values.lean ====
section
/-! DEFINITION. Register values with their poison (06 R87, R99). -/

namespace Sys2Proof.Machine

/-- A scalar register: 64 bits, one poison bit, a cause field (R87). -/
structure SVal where
  val    : Word
  poison : Bool
  cause  : BitVec 4
deriving DecidableEq, Repr

/-- A vector register: 1,024 bytes, one poison bit for each 32-bit lane, a cause field (R87). -/
structure VVal where
  data   : VBits
  poison : BitVec 256
  cause  : BitVec 4
deriving DecidableEq, Repr

def SVal.clean (w : Word) : SVal := { val := w, poison := false, cause := 0 }
def SVal.zero : SVal := SVal.clean 0
/-- A poisoned scalar carries data 0 (R102). -/
def SVal.bad (cause : BitVec 4) : SVal := { val := 0, poison := true, cause := cause }
def VVal.clean (b : VBits) : VVal := { data := b, poison := 0, cause := 0 }
def VVal.zero : VVal := VVal.clean 0

/-- One result-ring entry of its class (R20, R45). -/
inductive RingEntry where
  | sc (v : SVal)
  | vec (v : VVal)
  | pred (p : PBits)
deriving DecidableEq, Repr

/-- Bits of a number, lowest first. -/
def packBits : List Bool → Nat
  | [] => 0
  | b :: bs => (if b then 1 else 0) + 2 * packBits bs

end Sys2Proof.Machine
end

