-- ==== Sys2Proof/Machine/State.lean ====
section
/-! DEFINITION. The state of the package, as plain data, and its reset (INVENTORY.md, State). Sparse files are lists of
numbered entries in rising order; an entry that is not listed has the default its reader names. -/

namespace Sys2Proof.Machine

/-- A sparse file: entries in rising order of their number. -/
abbrev Store (α : Type) := List (Nat × α)
/-- Memory: bytes at rising addresses, none equal to what an unlisted address reads as. -/
abbrev Memory := List Host.Cell

-- engines

/-- One active level of the loop unit (R69, R319): `start` and `stop` are word indices of section `sect`,
`order` numbers activations. -/
structure LoopLvl where
  staged : Bool
  sect   : Nat
  order  : Nat
  total  : Nat
  lc     : Nat
  n      : Nat
  m      : Nat
  base   : Nat
  cut    : Nat
  start  : Nat
  stop   : Nat
deriving DecidableEq, Repr

/-- The per-engine CSRs (R12, R80). -/
structure Csrs where
  fflags  : FlagSet
  fenab   : FlagSet
  frm     : BitVec 2
  blocked : Bool
  reason  : BitVec 8
  pht     : Word
  phtm    : Word
  trapc   : BitVec 8
  trapv   : Word
  trappc  : BitVec 16
deriving DecidableEq, Repr

/-- Where a stream stands: section number, stream offset of its header, LEN, and the instruction-store offset of its
word 0 (R15 to R18). -/
structure Sect where
  num  : Nat
  hdr  : Nat
  len  : Nat
  base : BitVec 16
deriving DecidableEq, Repr

/-- A trap that is taken after its group has retired (R75, R76). -/
inductive Due where
  | arith (flags : FlagSet)
  | software (code : BitVec 16)
deriving DecidableEq, Repr

/-- Where control goes when a member retires. -/
inductive Flow where
  | next                              -- the following word
  | goto (keep : Bool) (sect word : Nat)   -- a taken transfer (R17, R67); `keep`: one of CALL or RET (R71)
  | past (word : Nat)                 -- the word after a loop's end word (R69, R72)
  | suspend (wait : Option (Bool × Nat × Bool))   -- SUSPEND with the phase it read, the object's home and whether bad storage was reported, none for no object (R176)
  | yield
  | sleep
  | halt
  | eret
deriving DecidableEq, Repr

/-- The registers a restarted member reads (R91): s1 to s31, v0 to v767 and p1 to p15 as they stood when its group was
left. -/
structure Snap where
  regs : Store SVal
  v    : Store VVal
  p    : Store PBits
deriving DecidableEq, Repr

/-- The group in issue (R19): how many members, which is next, and the CSRs as they stood before it issued (R78: per engine,
then CTX, BTBASE and PTBASE, CYC, GSC, BAND and PKG); the flags earlier members ORed in (R38), a trap owed after the group
(R75, R76), where an earlier member sends control (ERET, R82), whether it is issued again after a fault, what it then
reads (R91), and `no`, its place among the groups of its core in order of issue (R81). -/
structure Grp where
  first : BitVec 16
  size  : Nat
  idx   : Nat
  csr   : Csrs
  kcsr  : BitVec 16 × BitVec 35 × BitVec 16 × BitVec 44
  cyc   : Word
  gsc   : Word
  band  : Word
  pkg   : BitVec 9
  flags : FlagSet
  owes  : Option Due
  flow  : Flow
  again : Bool
  snap  : Option Snap
  no    : Nat
deriving DecidableEq, Repr

/-- A member that has had its effects and waits for its results to land, to release its tokens and to post (R89). -/
structure Owed where
  pops  : BitVec 3
  posts : BitVec 3
  flow  : Flow
deriving DecidableEq, Repr

/-- The issued word an engine waits inside (R318, R326); `noted` says that bad storage of the object was reported (12 R387). -/
inductive Inside where
  | barr (lv : Level)
  | bowait (noted : Bool)
  | fence
  | sleep
deriving DecidableEq, Repr

inductive Phase where
  | idle | entering | running | finished
deriving DecidableEq, Repr

/-- What is set aside on entry to supervisor state (R305), and whether the engine was entering a section. -/
structure Sup where
  regs  : List SVal
  ring  : List RingEntry
  phase : Phase
deriving DecidableEq, Repr

/-- Eight bytes that an engine has read ahead of the load that will return them (13 R246 to R251): their value; whether the other
engine of the core has touched them since; whether no access of their own engine to an SO page of their layer has been made since,
and `soq` whether one of the other engine has; how near the nearest agent has been that released since (0 the same core, 1 the quad,
2 the Isle, 3 the package; 9 none); the barrier objects to which a credit that covers them was given since, each with its FLIPS at that
moment (R260); and whether only a load of a UN page may still return them. -/
structure Ahead where
  val  : Word
  late : Bool
  so   : Bool
  soq  : Bool
  rel  : Nat
  cred : List (Nat × Nat)
  un   : Bool
deriving DecidableEq, Repr

/-- An issued SLEEP that its engine waits inside (R318): its section, its PC, and the high-water register before it. -/
structure Slept where
  sect : Sect
  pc   : BitVec 16
  hwm  : BitVec 16
deriving DecidableEq, Repr

/-- One engine (R8, R87). `regrp` is the group that a restart at its member `idx` goes on with (R91); `debt` the posts owed
before the first resumed group (R326); `target` the word a branch into a section enters at; `arrived` the barrier level
of an arrival (0: finished) and one more than its cycle, or 0 once its episode is complete; `retiring` the number the
high-water register takes once M's commands have completed (R16); `wants` the lines a waiting access needs (R324);
`issued` one more than the cycle of the last issue (R148); `ahead` the 8-byte words read ahead, by number, and `early` whether the
next load returns them. -/
structure Engine where
  pc      : BitVec 16
  sect    : Sect
  phase   : Phase
  target  : Nat
  istore  : Memory
  regs    : Store SVal
  loops   : Store LoopLvl
  order   : Nat
  stack   : List (BitVec 16)
  ring    : List RingEntry
  hwm     : BitVec 16
  csr     : Csrs
  sup     : Option Sup
  resume  : Sect
  grp     : Option Grp
  regrp   : Option Grp
  owed    : Option Owed
  debt    : BitVec 3
  inside  : Option Inside
  stopped : Option Flow
  parked  : Bool
  page    : Bool
  wdog    : Nat
  phtDue  : Bool
  arrived : Option (Nat × Nat)
  retiring : Option (BitVec 16)
  slept   : Option Slept
  wants   : List Nat
  issued  : Nat
  ahead   : Store Ahead
  early   : Bool
deriving DecidableEq, Repr

-- cores

/-- A weight tile with its scales, its type and its valid bit (R145): k-blocks in order, each up to 16 KiB. -/
structure Plane where
  blocks : List (BitVec 131072)
  scales : BitVec 32768
  wcode  : BitVec 3
  valid  : Bool
deriving DecidableEq, Repr

inductive MUnit where
  | port | array | drain | none
deriving DecidableEq, Repr

/-- What a matrix command leaves behind when it issues: what later commands of M start from (R92, R148). -/
structure After where
  regs    : Store SVal
  ring    : List RingEntry
  loops   : Store LoopLvl
  stack   : List (BitVec 16)
  v       : Store VVal
  acc     : Store VBits
  active  : Plane
  preload : Plane
  scaleQ  : List (BitVec 32768)
  mcfg    : BitVec 13
  mkp     : BitVec 16
  mstb    : Word
  halves  : BitVec 2
deriving DecidableEq, Repr

/-- What an MMA in flight reads of its operand registers until its array interval ends (R155, R160): its bank, its command word,
the first registers of its runs, the block it started from, the registers as it has read them, and its rows as it found them. -/
structure Redo where
  bank  : Nat
  word  : Word
  areg  : Nat
  creg  : Nat
  first : Nat
  v     : Store VVal
  rows  : Store VBits
deriving DecidableEq, Repr

/-- A matrix command in flight (R148, R149), or another word of M that retires behind one: which units it holds until when, when it
completes at the latest (`done`) and in bands B2 and above at the earliest (`soon`), and what it then does. `owing` says that it has
completed but for its posts, which wait for room (R89); `sect` and `pc` are the word after it, `later` what its successors start from
(R92), `matrix` whether it is a matrix command, and `redo` what an MMA still reads (R160). -/
structure Flight where
  unit    : MUnit
  unit2   : MUnit
  busy    : Nat
  done    : Nat
  posts   : BitVec 3
  pops    : BitVec 3
  flags   : FlagSet
  writes  : List Nat
  reads   : List Nat
  banks   : BitVec 2
  soon    : Nat
  owing   : Bool
  sect    : Sect
  pc      : BitVec 16
  later   : After
  matrix  : Bool
  redo    : Option Redo
deriving DecidableEq, Repr

/-- A 128-byte line of an L1 (R197, R255, R256): which nibbles the core wrote, whether it is pinned, which of its 8-byte
words are uncorrectable, whether it was filled from a poisoned line, and the key generation of its context (22 R382). `joint` marks
the nibbles written in one unit with the nibble before them (R246), `first` and `last` are the fences of the core before the oldest and
the newest write it holds (R248), `rank` the widest scope below `.pkg` that its writes are performed at (R245), `stale` says
that its bytes not written are to be fetched again, and `via` names the cores that may have synchronised with the release that
performed its writes at that scope (R251). -/
structure Line where
  data   : BitVec 1024
  dirty  : BitVec 256
  pinned : Bool
  kid    : Nat
  badw   : BitVec 16
  bad    : Bool
  joint  : BitVec 256
  first  : Nat
  last   : Nat
  rank   : Nat
  stale  : Bool
  via    : List Nat
deriving DecidableEq, Repr

/-- One unit of a write of a core not yet performed beyond it (R245, R246, R248): key, byte and bit mask of each byte, the layer of its
buffer (0 H, 1 S0, 2 S1), whether its page is SO, the key generation of its context, the access it belongs to and whether that covers
its whole aligned word and its whole line (R198, R221), the fences of the core before it, the widest scope below `.pkg` that it is
performed at, and the cores that may have synchronised with the release that did so (R251). -/
structure PendW where
  cells : List (Nat × Byte × Byte)
  layer : Nat
  so    : Bool
  word  : Bool
  line  : Bool
  via   : List Nat
  kid   : Nat
  acc   : Nat
  epoch : Nat
  rank  : Nat
deriving DecidableEq, Repr

/-- A TLB entry (R214): page size as log2, frame, KIND and W. -/
structure TlbE where
  ctx   : BitVec 16
  vpage : Nat
  log   : Nat
  frame : Nat
  kind  : BitVec 2
  w     : Bool
deriving DecidableEq, Repr

/-- A cached buffer-table entry (R206). -/
structure BufE where
  ctx   : BitVec 16
  idx   : Nat
  words : List Word
deriving DecidableEq, Repr

/-- A delivery under way: the cause, the code and what the TASKFLT event will show (R307, R308). -/
structure Delivery where
  cause  : BitVec 8
  detail : Word
  code   : BitVec 16
  eng    : Nat
  pc     : BitVec 16
  page   : Bool
deriving DecidableEq, Repr

/-- The task in a run slot (R169, R173, R179); `saving` says that a save of it is under way (R320). -/
structure RunTask where
  slot     : Nat
  lrec     : BitVec 16
  tile     : BitVec 32
  rank     : BitVec 32
  nrank    : BitVec 32
  q        : List Word
  bind     : Option Nat
  cbuf     : BitVec 16
  coff     : Nat
  streams  : List Nat
  gang     : Option Nat
  sg       : BitVec 2
  livev    : Nat
  matlive  : Bool
  carry    : Word × Word
  halting  : Bool
  killing  : Bool
  delivery : List Delivery
  request  : Option Nat
  saving   : Bool
deriving DecidableEq, Repr

/-- What an engine's member has computed and not yet written (R95): lanes of vector registers, and bytes of the scratchpad
with their masks. The member retires once all of it has landed; it is `live` while it is performed. -/
structure Landing where
  eng   : Eng
  live  : Bool
  regs  : List (Nat × BitVec 256 × VVal)
  cells : List (Nat × Byte × Byte)
deriving DecidableEq, Repr

/-- One core (R8, R86, R87, R145, R184, R197, R206, R214, R229); `popped` are the scales that the last streamed MMA took
(R160), `epoch` counts the fences (13 R248), `accNo` the stores and `issueNo` the groups issued of the core, and `codeQ` the code of resume sections, by stream
offset of the header: entries 0 to 3 of the staged task, 4 to 7 of the task that runs (R184). -/
structure Core where
  task    : Option RunTask
  stage   : Option Nat
  eL      : Engine
  eM      : Engine
  eX      : Engine
  eS      : Engine
  occ     : Store Nat
  resv    : Store Nat
  v       : Store VVal
  p       : Store PBits
  acc     : Store VBits
  active  : Plane
  preload : Plane
  scaleQ  : List (BitVec 32768)
  mcfg    : BitVec 13
  mkp     : BitVec 16
  mstb    : Word
  flight  : List Flight
  halves  : BitVec 2
  ctx     : BitVec 16
  btbase  : BitVec 35
  btlast  : BitVec 16
  ptroot  : BitVec 44
  l1split : BitVec 2
  l1      : Store Line
  wq      : List PendW
  filter  : List Nat
  fsat    : Bool
  tlb     : List TlbE
  bufc    : List BufE
  landing : List Landing
  popped  : BitVec 32768
  epoch   : Nat
  accNo   : Nat
  issueNo : Nat
  codeQ   : Store (Nat × List Byte)
deriving DecidableEq, Repr

-- storage behind the cores

/-- Who gave a non-returning member of a batch, for its memory-error event (R238). -/
structure Giver where
  core : Nat
  eng  : Nat
  ctx  : Nat
  lrec : Nat
  tile : Nat
  slot : Nat
  pc   : Nat
  buf  : Nat
  off  : Nat
deriving DecidableEq, Repr

/-- An open reduction batch of a line (R236): its members in the order they arrived, the non-returning ones with their giver. -/
structure Batch where
  op  : AmoOp
  ty  : Ty
  ops : List (Nat × Word × Option Giver)
  kid : Nat
deriving DecidableEq, Repr

/-- Mechanisms of 11 and 22 beside the bytes: uncorrectable words and poisoned lines, DRAM lines that need rebuilding,
clean copies, indirection, interleave modes, keys, batches, read-only caches with the values they may still serve (13 R258), frames
held by the ferry, `moving` the units that the remapper or the firmware moves (R219, R220), the engines that waited for one in their
order (16 R293), moved pages,
moved weight-bank pages that no page service has answered for, `asked` those of them that an M has faulted on (R222), dead bundles, the firmware's reserve of HBM units, and the SLCAP registers
of slices that retirement changed (R223); `errs` when the correctable errors of a bundle's last second were (R222, 22 R370), and `cut` the
communicators whose entry has lost VALID since their epochs were counted (21 R360). -/
structure Storage where
  badWords  : List Nat
  poison    : List Nat
  dramErr   : List Nat
  clean     : Store Nat
  indirect  : Store Nat
  ilv       : Store Nat
  lineKey   : Store Nat
  batches   : Store Batch
  roCache   : Store (BitVec 1024)
  roOld     : Store (List (BitVec 1024))
  roMix     : Store (BitVec 1024)
  frames    : List Nat
  moved     : Store Nat
  unserved  : List Nat
  asked     : List Nat
  deadB     : List Nat
  reserve   : List Nat
  slNow     : Store Word
  ferryQ    : List Nat
  moving    : List Nat
  errs      : Store (List Nat)
  cut       : List Nat
deriving DecidableEq, Repr

-- tasks and dispatch

/-- A command slot of a task as ASTAT shows it (R295). -/
structure CmdSlot where
  st    : Nat
  kind  : Nat
  err   : Nat
  doneb : Nat
  cmd   : Nat
deriving DecidableEq, Repr

/-- A watched line (R177): its key, whether it has had a wake, the generation at arming; `num` is the table entry. -/
structure Watch where
  line : Nat
  gen  : Nat
  num  : Option Nat
  woke : Bool
deriving DecidableEq, Repr

/-- What the part keeps beside a used record slot. `pend` is the reuse entry that a COMPUTE decision left open: class, index and
step; `saved` the part's own copy of a save (18 R321); `fault` is four times the core, plus the engine, of a fault that waits
for a reply (18 R313); `dying` says that it is killed and waits for its event (R314). `cls` is the class entry that a probe under way read
at its start, and `early` the key elements it has read before its decision (14 R271, R276), `word0` word 0 of its entry as it read it at its start (R272),
and `begun` whether it has started. `home` is the key of the barrier object that
the record waits on, `boRef` its reference, and `boNoted` says that its bad storage was reported (12 R387). -/
structure TaskInfo where
  ready    : Nat
  rise     : Nat
  resident : Bool
  bind     : Option Nat
  q        : List Word
  toProbe  : Bool
  unit     : Option Nat
  notCore  : Option Nat
  cmds     : Store CmdSlot
  fault    : Option Nat
  watch    : Option Watch
  request  : Option Nat
  late     : Bool
  home     : Option Nat
  boRef    : Word
  boNoted  : Bool
  pend     : Option (Nat × Nat × Nat)
  saved    : Option Core
  dying    : Bool
  cls      : Option (List Word)
  early    : Store (List Byte × Bool)
  word0    : Option Word
  begun    : Bool
deriving DecidableEq, Repr

/-- A static group on its cores (R150, R151): GSC, the cores whose command slips and since when, G of an open request, the cores whose
member has ended with one more than the cycle of its end, the pod barrier it is joined to (21 R364), the cores whose late command was judged in slip mode (20 R339), for how many cycles each value of GSC was held (R154), and
the cores whose member was written back or saved and has not ended (R167). -/
structure Gang where
  cores  : List Nat
  gsc    : Word
  slip   : Store Nat
  stall  : Bool
  g      : Option Word
  shape  : BitVec 2
  pod    : Option Nat
  ended  : Store Nat
  late   : List Nat
  held   : Store Nat
  away   : List Nat
deriving DecidableEq, Repr

/-- A step sequencer (R188 to R194). `next` is 0 before a step, 1 once its PAUSE was left, 2 + g before arming graph entry g;
`phase` the phase of EBO it waits to leave, `held` the state HELD came from, `noted` that poison of EBO was reported. -/
structure Seq where
  desc    : List Word
  st      : Nat
  step    : Nat
  errec   : BitVec 16
  errc    : BitVec 4
  armst   : BitVec 4
  resume  : Bool
  abort   : Bool
  pop     : Nat
  q       : List Word
  next    : Nat
  phase   : Bool
  held    : Nat
  noted   : Bool
deriving DecidableEq, Repr

/-- An agent that waits for page service (14 R276, 12 R389). -/
inductive Waiter where
  | taskEnd (core : Nat)
  | probe (slot : Nat)
  | seq (n : Nat)
  | prog (n : Nat)
  | msg (n : Nat)
deriving DecidableEq, Repr

/-- Dispatcher, gangs, watch table and sequencers, and the agents that wait for page service; `served` is one more than the cycle
of the last choice, and its core (R185). -/
structure Sched where
  tasks   : Store TaskInfo
  ptr     : Store Nat
  used    : Store Nat
  units   : List (List Nat × List Nat)
  gangs   : Store Gang
  gangNo  : Nat
  misses  : Nat
  seqs    : Store Seq
  waits   : List Waiter
  served  : Nat × Nat
deriving DecidableEq, Repr

-- asynchronous and collective engines

/-- An accepted asynchronous command (R285 to R298). `targets` are core, half and granules done; `eng` the issuing engine, 4 and
more for a work queue; `hold` says that it is saved; `stop` is the target whose granule or credit met a translation fault, `landed` the
targets whose current granule is performed and not yet credited, `parts` the 8-byte words of current granules that are, as target and word
(13 R246), and `marred` that one of them was bad at its source; `read` holds what a fill of several targets has read of its source, by
words of its stream (R292). -/
structure Cmd where
  kind    : Nat
  slot    : Nat
  tag     : Nat
  core    : Nat
  eng     : Nat
  tile    : Nat
  ctx     : BitVec 16
  lrec    : BitVec 16
  ops     : List Word
  bo      : Word
  desc    : List Word
  targets : List (Nat × Nat × Nat)
  st      : Nat
  doneb   : Nat
  gang    : Option Nat
  queue   : Option Nat
  hold    : Bool
  stop    : Nat
  landed  : List Nat
  parts   : List (Nat × Nat)
  marred  : Bool
  read    : Store (List (Byte × Bool))
deriving DecidableEq, Repr

/-- A running collective program (R355 to R363). `phase` is 1 while step `cur` waits, 4 once it has
sent what it sends, 2 or 3 once its contribution was accepted or dropped; `owe` are credits to make and `after` what follows them: 0 the next step, 1 the end, 2 a stop; `gang` is that of the issuing
task (R297), `countNo` and `prefNo` how many COUNTX and PFXSUM steps it has completed (R359). -/
structure Prog where
  slot     : Nat
  tag      : Nat
  queue    : Option Nat
  ctx      : BitVec 16
  lrec     : BitVec 16
  tile     : Nat
  core     : Nat
  rank     : Nat
  nrank    : Nat
  cbuf     : Word
  arg      : Word
  bo       : Word
  hdr      : List Word
  comm     : Nat
  epoch    : Nat
  step     : Nat
  loops    : List (Nat × Nat × Nat)
  sig      : Store Nat
  recv     : Store Nat
  expect   : Store Nat
  rcnt     : Store Nat
  doff     : Store Nat
  status   : Option Nat
  errc     : Nat
  flags    : FlagSet
  poison   : Bool
  partly   : Bool
  missing  : Nat
  bytes    : Nat
  doneb    : Nat
  since    : Nat
  phase    : Nat
  cur      : Option Instr
  owe      : List Nat
  after    : Nat
  started  : Bool
  gang     : Option Nat
  countNo  : Nat
  prefNo   : Nat
deriving DecidableEq, Repr

/-- What passes between collective engines (R357 to R361). A write names its granule and the `len` bytes at `base` that its step forms;
a count or an offset comes with the ordinal of its step. `landed`, `raised` and `unpaid` are a count, a
signal and a credit that performed traffic still owes; `done` and `failed` answer message `no` of this package. -/
inductive Traffic where
  | write (buf off : Nat) (bytes : List Byte) (bad : List Nat) (c : Bool) (base len : Nat)
  | landed (n : Nat)
  | unpaid (n : Nat)
  | signal (n : Nat)
  | raised (n : Nat)
  | count (ord : Nat) (v : Word)
  | offset (ord : Nat) (v : Word)
  | contrib (slot gen : Nat) (sig : BitVec 32) (bytes : List Byte) (bad : List Nat) (tmo : Nat)
  | accepted
  | late (slot gen : Nat)
  | result (slot gen : Nat) (sig : BitVec 32) (bytes : List Byte) (bad : List Nat) (mask : List Bool) (flags : FlagSet)
      (partly mismatch : Bool)
  | done (no : Nat)
  | failed (no cause : Nat)
deriving DecidableEq, Repr

/-- A message from rank `src` to rank `dst`, or to external switch `dst` - 2^20; `step` is the sender's step, `no` the
number under which the sender's package waits for the answer. -/
structure Msg where
  comm  : Nat
  src   : Nat
  dst   : Nat
  epoch : Nat
  step  : Nat
  no    : Nat
  body  : Traffic
deriving DecidableEq, Repr

/-- An open reduction instance at this package's home (R353). -/
structure Instance where
  gen     : Nat
  sig     : BitVec 32
  bad     : Bool
  since   : Nat
  tmo     : Nat
  parts   : Store (List Byte × List Nat)
deriving DecidableEq, Repr

structure Coll where
  progs   : Store Prog
  nextId  : Nat
  cur     : Nat
  epochs  : Store Nat
  inbox   : Store Msg
  inNo    : Nat
  outbox  : Store Msg
  gens    : Store Nat
  pushed  : List Nat
  homeGen : Store Nat
  insts   : Store Instance
  flushN  : BitVec 16
  mismN   : BitVec 16
  lateN   : BitVec 16
  cmds    : Store Cmd
  cmdNo   : Nat
deriving DecidableEq, Repr

-- event queue

structure Event where
  kind  : BitVec 8
  words : List Word
  slot  : Nat
deriving DecidableEq, Repr

structure EvQ where
  base    : BitVec 44
  log2n   : BitVec 5
  tail    : BitVec 32
  head    : BitVec 32
  lost    : BitVec 32
  number  : BitVec 32
  waiting : List Event
  errs    : Store Nat
deriving DecidableEq, Repr

-- host window, cryogenic controller, management

/-- A work queue (R372): `cur` is the entry taken and not yet accepted, `noted` that its wait was reported and `boNoted` that of an
object with bad storage, `retry` and `skip` the
bits of WQCTL that were set while the queue was not HALTED (00 R5). -/
structure Wq where
  base    : BitVec 52
  log2n   : BitVec 5
  ctxid   : BitVec 16
  tdi     : BitVec 6
  enable  : Bool
  erridx  : BitVec 16
  errc    : BitVec 8
  st      : BitVec 2
  head    : Nat
  tail    : Nat
  cur     : Option Instr
  noted   : Bool
  boNoted : Bool
  retry   : Bool
  skip    : Bool
deriving DecidableEq, Repr

/-- Policy registers and pool bases (R370), MAPCTL and counters (R219), capacity registers (R223, R347), work queues,
KEYLD (R383) and what the host interface holds: `msix` the vectors sent, `pend` those of the pending-bit array (R369), `tdiRun` the TDIs in
RUN and `tdiCtx` the contexts each owns (R368), `answer` what the last access to BAR4 or of a peer returned, none where it carries no
data, and `other` the words of the MSI-X table. -/
structure HostWin where
  polage  : BitVec 32
  polpr   : BitVec 64
  polwd   : BitVec 64
  lpbase  : Word
  rsbase  : Word
  sdbase  : Word
  srbase  : Word
  cmbase  : Word
  ctxt    : Word
  retthr  : Word
  srhead  : BitVec 32
  srtail  : BitVec 32
  migbnd  : Nat
  newv    : BitVec 4
  curv    : BitVec 4
  mapBusy : Bool
  mapGo   : Bool
  bcnt    : Store (BitVec 32)
  caps    : Store Word
  wqs     : Store Wq
  rot     : Nat
  wqCur   : Nat
  pcieUp  : Bool
  msix    : List Nat
  tdiRun  : List Nat
  k1      : BitVec 256
  k2      : BitVec 256
  kslot   : BitVec 10
  kstat   : BitVec 8
  other   : Store Word
  pend    : List Nat
  tdiCtx  : Store (List Nat)
  answer  : Option (List Byte)
deriving DecidableEq, Repr

/-- A temperature sensor (R335). -/
structure Therm where
  valid  : Bool
  kelvin : Nat
deriving DecidableEq, Repr

/-- When something happened: the cycle, and the wall time for the clocks that stand still. -/
structure Moment where
  cyc  : Nat
  wall : Nat
deriving DecidableEq, Repr

/-- A command written to CRYOCTL, by the host or over the side-band, that waits for the next sample (R346). -/
structure Asked where
  at_  : Moment
  host : Bool
  cmd  : Nat
deriving DecidableEq, Repr

/-- The cryogenic controller (R335 to R346): `live` is what the sensors read now, `temps` the last samples; `hold` the start of
the hold timer, `offAt` a pending POWEROFF, `cmd` a COOL that waits for the running tasks,
`patrol` the line last scrubbed; `asked` the commands not yet judged, in the order they are; `polAt` when the host last wrote HOLDT,
and which bits (22 R376); `refresh` is 0 for none, 1 with cold timings, 2 standard and warm (R336). -/
structure Cryo where
  band    : BitVec 3
  slip    : Bool
  st      : BitVec 4
  holdt   : BitVec 16
  badcmd  : Bool
  temps   : Store Therm
  live    : Store Therm
  hold    : Option Nat
  warmest : BitVec 3
  sampled : Nat
  offAt   : Bool
  warmAt  : Nat
  cmd     : BitVec 3
  refresh : BitVec 2
  patrol  : Nat
  asked   : List Asked
  polAt   : Option (Moment × BitVec 16)
deriving DecidableEq, Repr

/-- A memory key slot (R382); `gen` tells keys apart (Manage.lean), 0 is the part's own. -/
structure KeySlot where
  k1  : BitVec 256
  k2  : BitVec 256
  gen : Nat
deriving DecidableEq, Repr

/-- Boot and management (R377 to R384): `svn` is the fused counter, `links` the Sound links 0 to 15 and Ethernet flows 16 to 19 that
hold a key, `sent` the invocations of each key, `ports` whether a Sound port is up (one not listed is), `reply` the last answer of the
management port, `flash` what the boot flash was rewritten with (R380), `runSvn` the SVN of the image that runs, and `refused` the packages
and contexts whose accesses the peer's key check refuses (R382). -/
structure Mgmt where
  booted  : Bool
  waiting : Bool
  svn     : BitVec 16
  digest  : BitVec 384
  keys    : Store KeySlot
  session : Option Nat
  links   : Store Nat
  ports   : Store Bool
  reply   : List Word
  pkg     : BitVec 9
  podNo   : BitVec 7
  sent    : Store Nat
  flash   : Option Image
  runSvn  : BitVec 16
  refused : List (Nat × Nat)
deriving DecidableEq, Repr

/-- One step of the outside or of the clock, or of one agent: what `step` does next (LOG 4). -/
inductive Move where
  | run (core : Nat) (e : Eng)
  | ev (i : Instr)
  | collStep (prog : Nat)
  | wqTake
  | tick
  | wall (us : Nat)
  | sensor (n kelvin : Nat) (valid : Bool)
  | sramError (key : Nat)
  | l1Error (core line word : Nat)
  | dramError (line : Nat)
  | hostStore (addr : Nat) (bytes : List Byte)
  | traffic (m : Msg)
  | firmware (bytes : List Byte) (addr : Nat)
  | supLoad (bytes : List Byte) (off : Nat)
  | capacity (reg : Nat) (v : Word)
  | setIlv (region mode : Nat)
  | setClean (unit copy : Nat)
  | setUnit (unit dram : Nat)
  | moving (unit : Nat)
  | joinPod (gang barrier : Nat)
  | setPkg (pod num : Nat)
  | setReserve (units : List Nat)
  | roDrop (quad kid line : Nat)
  | roSnap (quad kid line : Nat)
  | roServe (quad kid line n view : Nat) (mask : BitVec 256)
  | readAhead (core : Nat) (e : Eng) (key : Nat)
  | early (core : Nat) (e : Eng)
  | evictPart (core line : Nat) (mask : BitVec 256)
  | bankConflict (channel : Nat)
  | runTorn (core : Nat) (e : Eng)
  | landLanes (core : Nat) (e : Eng) (reg : Nat) (mask : BitVec 256)
  | landByte (core : Nat) (e : Eng) (key : Nat)
  | probeRead (slot elem : Nat)
  | granuleWord (cmd target word : Nat)
  | reread (core reg : Nat) (mask : BitVec 256)
  | linkUse (link : Nat)
  | bundleError (core layer bundle : Nat)
  | flashWrite (img : Image)
  | peerKeys (pkg ctx : Nat) (refused : Bool)
  | tdiOwns (tdi : Nat) (ctxs : List Nat)
deriving DecidableEq, Repr

/-- The whole package with the agenda of the model (LOG 3, LOG 4). -/
structure State where
  cores    : Store Core
  mem      : Memory
  stor     : Storage
  sched    : Sched
  coll     : Coll
  evq      : EvQ
  host     : HostWin
  cryo     : Cryo
  mgmt     : Mgmt
  supStore : Memory
  cyc      : Word
  wall     : Nat
  agenda   : List Move
  cur      : Nat × Eng
  free     : Nat
deriving DecidableEq, Repr

/-- Why the machine stops with a fault. -/
inductive Fault where
  /-- Raised by `step` on a move that names a core above 255: no such core exists (R2). Safe: no core is touched. -/
  | noSuchCore
deriving DecidableEq, Repr

/-- Why an instruction has no meaning. -/
inductive Refusal where
  /-- Raised by `exec` for a row of the opcode table that has no meaning yet. Safe: nothing is claimed of it. -/
  | notModelled (mnemonic : String)
deriving DecidableEq, Repr

-- reset

def Csrs.reset : Csrs where
  fflags := 0
  fenab := 0
  frm := 0
  blocked := false
  reason := 0
  pht := 0
  phtm := 0
  trapc := 0
  trapv := 0
  trappc := 0

def Sect.reset : Sect where
  num := 0
  hdr := 0
  len := 0
  base := 0

/-- The dispatch values of R8, which the model also takes for package reset (LOG 1). -/
def Engine.reset : Engine where
  pc := 0
  sect := Sect.reset
  phase := .idle
  target := 0
  istore := []
  regs := []
  loops := []
  order := 0
  stack := []
  ring := []
  hwm := 0xFFFF
  csr := Csrs.reset
  sup := none
  resume := Sect.reset
  grp := none
  regrp := none
  owed := none
  debt := 0
  inside := none
  stopped := none
  parked := false
  page := false
  wdog := 0
  phtDue := false
  arrived := none
  retiring := none
  slept := none
  wants := []
  issued := 0
  ahead := []
  early := false

def Plane.reset : Plane where
  blocks := []
  scales := 0
  wcode := 0
  valid := false

def Core.reset : Core where
  task := none
  stage := none
  eL := Engine.reset
  eM := Engine.reset
  eX := Engine.reset
  eS := Engine.reset
  occ := []
  resv := []
  v := []
  p := []
  acc := []
  active := Plane.reset
  preload := Plane.reset
  scaleQ := []
  mcfg := 0
  mkp := 0
  mstb := 0
  flight := []
  halves := 0
  ctx := 0
  btbase := 0
  btlast := 0
  ptroot := 0
  l1split := 0
  l1 := []
  wq := []
  filter := []
  fsat := false
  tlb := []
  bufc := []
  landing := []
  popped := 0
  epoch := 0
  accNo := 0
  issueNo := 0
  codeQ := []

def Storage.reset : Storage where
  badWords := []
  poison := []
  dramErr := []
  clean := []
  indirect := []
  ilv := []
  lineKey := []
  batches := []
  roCache := []
  roOld := []
  roMix := []
  frames := []
  moved := []
  unserved := []
  asked := []
  deadB := []
  reserve := []
  slNow := []
  ferryQ := []
  moving := []
  errs := []
  cut := []

/-- A sequencer at reset (R194). -/
def Seq.reset : Seq where
  desc := []
  st := 0
  step := 0
  errec := 0
  errc := 0
  armst := 0
  resume := false
  abort := false
  pop := 0
  q := []
  next := 0
  phase := false
  held := 0
  noted := false

def Sched.reset : Sched where
  tasks := []
  ptr := []
  used := []
  units := []
  gangs := []
  gangNo := 0
  misses := 0
  seqs := []
  waits := []
  served := (0, 0)

def Coll.reset : Coll where
  progs := []
  nextId := 0
  cur := 0
  epochs := []
  inbox := []
  inNo := 0
  outbox := []
  gens := []
  pushed := []
  homeGen := []
  insts := []
  flushN := 0
  mismN := 0
  lateN := 0
  cmds := []
  cmdNo := 0

def EvQ.reset : EvQ where
  base := 0
  log2n := 0
  tail := 0
  head := 0
  lost := 0
  number := 0
  waiting := []
  errs := []

/-- R370, R372, R219 and R383 give 0; the capacity registers are read from `caps` with the complete part as default. -/
def HostWin.reset : HostWin where
  polage := 0
  polpr := 0
  polwd := 0
  lpbase := 0
  rsbase := 0
  sdbase := 0
  srbase := 0
  cmbase := 0
  ctxt := 0
  retthr := 0
  srhead := 0
  srtail := 0
  migbnd := 0
  newv := 0
  curv := 0
  mapBusy := false
  mapGo := false
  bcnt := []
  caps := []
  wqs := []
  rot := 0
  wqCur := 0
  pcieUp := true
  msix := []
  tdiRun := []
  k1 := 0
  k2 := 0
  kslot := 0
  kstat := 0
  other := []
  pend := []
  tdiCtx := []
  answer := none

/-- Band B4 with slip on in WARM_OFF (LOG 26); HOLDT 30 (R345). -/
def Cryo.reset : Cryo where
  band := 4
  slip := true
  st := 0
  holdt := 30
  badcmd := false
  temps := []
  live := []
  hold := none
  warmest := 4
  sampled := 0
  offAt := false
  warmAt := 0
  cmd := 0
  refresh := 2
  patrol := 0
  asked := []
  polAt := none

def Mgmt.reset : Mgmt where
  booted := false
  waiting := false
  svn := 0
  digest := 0
  keys := []
  session := none
  links := []
  ports := []
  reply := []
  pkg := 0
  podNo := 0
  sent := []
  flash := none
  runSvn := 0
  refused := []

/-- The package right after reset: no task, nothing in memory, every register at its reset value (INVENTORY.md). -/
def State.reset : State where
  cores := []
  mem := []
  stor := Storage.reset
  sched := Sched.reset
  coll := Coll.reset
  evq := EvQ.reset
  host := HostWin.reset
  cryo := Cryo.reset
  mgmt := Mgmt.reset
  supStore := []
  cyc := 0
  wall := 0
  agenda := []
  cur := (0, .L)
  free := 0

end Sys2Proof.Machine
end

