-- ==== Sys2Proof/Machine/Bits.lean ====
section
/-! DEFINITION. Sparse files, canonical memory and little-endian words (00 R3). -/

namespace Sys2Proof.Machine

/-- The entry numbered `k`. -/
def Store.find? : Store α → Nat → Option α
  | [], _ => none
  | (j, a) :: xs, k => if j = k then some a else Store.find? xs k

def Store.get (xs : Store α) (k : Nat) (dflt : α) : α := (Store.find? xs k).getD dflt

/-- Replace or insert entry `k`, keeping the numbers in rising order. -/
def Store.put : Store α → Nat → α → Store α
  | [], k, a => [(k, a)]
  | (j, b) :: xs, k, a =>
    if k < j then (k, a) :: (j, b) :: xs
    else if k = j then (k, a) :: xs
    else (j, b) :: Store.put xs k a

def Store.del : Store α → Nat → Store α
  | [], _ => []
  | (j, b) :: xs, k => if j = k then xs else (j, b) :: Store.del xs k

def Store.has (xs : Store α) (k : Nat) : Bool := (Store.find? xs k).isSome

/-- A number not used as an entry: one past the last. -/
def Store.fresh : Store α → Nat
  | [] => 0
  | [(j, _)] => j + 1
  | _ :: xs => Store.fresh xs

-- canonical memory over a default byte

/-- The byte at `a`; an unlisted address reads as `dflt`. -/
def Memory.peek (dflt : Byte) (m : Memory) (a : Nat) : Byte := Store.get m a dflt

/-- Write one byte; the default byte removes the entry. -/
def Memory.poke (dflt : Byte) (m : Memory) (a : Nat) (b : Byte) : Memory :=
  if b = dflt then Store.del m a else Store.put m a b

/-- Addresses strictly rise from above `lo` and no byte is the default. -/
def Memory.wfFrom (dflt : Byte) : Option Nat → Memory → Bool
  | _, [] => true
  | lo, (a, b) :: m => (match lo with
      | none => true
      | some l => decide (l < a)) && b != dflt && Memory.wfFrom dflt (some a) m

/-- The canonical form of package memory, whose unlisted bytes read as 0 (LOG 2). -/
def Memory.wf (m : Memory) : Bool := Memory.wfFrom 0 none m

/-- Package memory: a byte nothing has written reads as 0 (LOG 2). -/
def Memory.read (m : Memory) (a : Nat) : Byte := Memory.peek 0 m a
def Memory.write (m : Memory) (a : Nat) (b : Byte) : Memory := Memory.poke 0 m a b

def Memory.readN (m : Memory) (a : Nat) : Nat → List Byte
  | 0 => []
  | n + 1 => m.read a :: Memory.readN m (a + 1) n

def Memory.writeN (m : Memory) (a : Nat) : List Byte → Memory
  | [] => m
  | b :: bs => Memory.writeN (m.write a b) (a + 1) bs

-- words

/-- Little-endian bytes as a number (R3). -/
def leNat : List Byte → Nat
  | [] => 0
  | b :: bs => b.toNat + 256 * leNat bs

/-- The `n` little-endian bytes of a number. -/
def leBytes : Nat → Nat → List Byte
  | 0, _ => []
  | n + 1, x => BitVec.ofNat 8 x :: leBytes n (x / 256)

def leWord (bs : List Byte) : Word := BitVec.ofNat 64 (leNat bs)
def wordBytes (w : Word) : List Byte := leBytes 8 w.toNat

def Memory.word (m : Memory) (a : Nat) : Word := leWord (m.readN a 8)
def Memory.putWord (m : Memory) (a : Nat) (w : Word) : Memory := m.writeN a (wordBytes w)
def Memory.putWords (m : Memory) (a : Nat) : List Word → Memory
  | [] => m
  | w :: ws => Memory.putWords (m.putWord a w) (a + 8) ws
def Memory.words (m : Memory) (a : Nat) : Nat → List Word
  | 0 => []
  | n + 1 => m.word a :: Memory.words m (a + 8) n

/-- Field `x[hi:lo]` as a number. -/
def bitsOf (w : Word) (lo n : Nat) : Nat := w.toNat / 2 ^ lo % 2 ^ n

/-- `w` with the field of `n` bits at `lo` replaced. -/
def setBits (w : Word) (lo n v : Nat) : Word :=
  BitVec.ofNat 64 (w.toNat - bitsOf w lo n * 2 ^ lo + v % 2 ^ n * 2 ^ lo)

/-- A word from fields given as (lo, n, value). -/
def mkWord : List (Nat × Nat × Nat) → Word
  | [] => 0
  | (lo, n, v) :: fs => setBits (mkWord fs) lo n v

end Sys2Proof.Machine
end

