-- ==== Sys2Proof/Machine/Records.lean ====
section
/-! DEFINITION. What the part itself keeps in memory: continuation records (10 R169, R170), the wakes of watched lines (R177) and
the leaving of WAITBO (R176), memory keys (22 R382), and a write of the part to its own memory, which wakes as any write does. -/

namespace Sys2Proof.Machine

-- tasks

def State.info (s : State) (slot : Nat) : Option TaskInfo := s.sched.tasks.find? slot
def State.setInfo (s : State) (slot : Nat) (t : TaskInfo) : State :=
  { s with sched := { s.sched with tasks := s.sched.tasks.put slot t } }
def State.modInfo (s : State) (slot : Nat) (f : TaskInfo → TaskInfo) : State :=
  match s.info slot with
  | some t => s.setInfo slot (f t)
  | none => s

-- lines

def lineOf (key : Nat) : Nat := key / 128
/-- HBM or the capacity tier (11 R213). -/
def isDram (key : Nat) : Bool := key / 2 ^ 48 ≤ 1
/-- HBM. -/
def isHbm (key : Nat) : Bool := key / 2 ^ 48 == 0

def State.setMem (s : State) (m : Memory) : State := { s with mem := m }

/-- The poison cause of the storage that holds a byte: 6 for an uncorrectable word, 7 for a poisoned line (06 R100). -/
def State.badAt (s : State) (key : Nat) : BitVec 4 :=
  if s.stor.poison.contains (lineOf key) then 7
  else if s.stor.badWords.contains (key / 8) then 6
  else 0

-- memory keys

/-- A byte as it reads under key generation `kid` (22 R382): a line written under another key reads unspecified bits. -/
def State.plain (s : State) (kid key : Nat) : Byte :=
  let b := s.mem.read key
  if isDram key then
    match s.stor.lineKey.find? (lineOf key) with
    | some g => if g = kid then b else Config.otherKey g kid key b
    | none => b
  else b

/-- A line that changes key is first read under the new one, whole. -/
def State.rekey (s : State) (kid line : Nat) : State :=
  if isDram (128 * line) then
    let s := match s.stor.lineKey.find? line with
      | some g =>
        if g = kid then s
        else s.setMem (s.mem.writeN (128 * line) ((List.range 128).map (fun i => s.plain kid (128 * line + i))))
      | none => s
    { s with stor := { s.stor with lineKey := s.stor.lineKey.put line kid } }
  else s

-- the part's own structures (22 R382)

/-- A word of them, under the part's own key. -/
def State.partWord (s : State) (a : Nat) : Word := leWord ((List.range 8).map (fun i => s.plain 0 (a + i)))

/-- The lines of `n` bytes at `a` come under the part's own key. -/
def State.partKey (s : State) (a n : Nat) : State :=
  if n = 0 then s else ((List.range ((a + n - 1) / 128 + 1 - a / 128)).map (fun i => a / 128 + i)).foldl (fun s l => s.rekey 0 l) s

/-- What a write of `n` bytes at `a` does to the storage errors of the words and lines it writes whole (11 R198, R221), and to
the clean copy of a unit (11 R220). -/
def Storage.overwrite (x : Storage) (a n : Nat) : Storage :=
  { x with
    badWords := x.badWords.filter (fun w => !(decide (a ≤ 8 * w) && decide (8 * w + 8 ≤ a + n)))
    poison := x.poison.filter (fun l => !(decide (a ≤ 128 * l) && decide (128 * l + 128 ≤ a + n)))
    clean := x.clean.filter (fun u => !(decide (a < 65536 * (u.1 + 1)) && decide (65536 * u.1 < a + n))) }

/-- Bytes that the part writes, wakes aside. -/
def State.partPut (s : State) (a : Nat) (bs : List Byte) : State :=
  let t := s.partKey a bs.length
  { s with mem := t.mem.writeN a bs, stor := t.stor.overwrite a bs.length }

-- records

def State.recAddr (s : State) (slot : Nat) : Nat := s.host.rsbase.toNat + 64 * slot
def State.recWord (s : State) (slot off : Nat) : Word := s.partWord (s.recAddr slot + off)

-- STATE codes (10 R170)
def tReady : Nat := 0
def tStaged : Nat := 1
def tRunning : Nat := 2
def tWaitBo0 : Nat := 3
def tWaitBo1 : Nat := 4
def tSleeping : Nat := 5
def tFaulted : Nat := 6
def tDone : Nat := 7

def State.recState (s : State) (slot : Nat) : Nat := bitsOf (s.recWord slot 0x20) 52 4
def State.recGen (s : State) (slot : Nat) : Nat := bitsOf (s.recWord slot 0x38) 48 16

/-- STATE and WREASON of a record, wakes aside. -/
def State.putState (s : State) (slot st reason : Nat) : State :=
  s.partPut (s.recAddr slot + 0x20) (wordBytes (setBits (setBits (s.recWord slot 0x20) 52 4 st) 56 8 reason))

/-- A record enters READY (10 R185: its ready cycle is now), wakes aside. -/
def State.putReady (s : State) (slot : Nat) : State :=
  (s.putState slot tReady 0).modInfo slot (fun t => { t with ready := s.cyc.toNat, rise := s.cyc.toNat })

/-- Whether the barrier object at a home key lets a record in WAITBO0 or WAITBO1 go (10 R170): both its words are correctable
(12 R387) and its phase has flipped. -/
def State.boLetsGo (s : State) (key st : Nat) : Bool :=
  let phase := bitsOf (leWord ((List.range 8).map (fun i => s.mem.read (key + i)))) 63 1
  s.badAt key == 0 && s.badAt (key + 8) == 0 && ((st == tWaitBo0 && phase == 1) || (st == tWaitBo1 && phase == 0))

-- wakes

/-- A wake of one task's watched line (10 R177): whether a SLEEPING record becomes READY. -/
def State.wakes (s : State) (slot : Nat) (w : Watch) : Bool :=
  s.recState slot == tSleeping && s.recGen slot == (w.gen + 1) % 65536

/-- A record that waits on a barrier object of a line leaves WAITBO; one that is being probed already has left. -/
def State.flips (s : State) (slot : Nat) (t : TaskInfo) (line : Nat) : Bool :=
  match t.home with
  | some key => lineOf key = line && bitsOf (s.recWord slot 0x20) 56 8 != 13 && s.boLetsGo key (s.recState slot)
  | none => false

/-- What leaves WAITBO enters READY, or its reuse probe starts and it keeps the state it held (14 R269). -/
def State.putLet (s : State) (slot : Nat) : State :=
  match s.info slot with
  | some t => if t.toProbe then s.putState slot (s.recState slot) 13 else s.putReady slot
  | none => s

/-- A write to a line, or its invalidation, wakes every task that watches it (R177) and lets go the records that wait on a
barrier object in it (R176); a record that this writes wakes in turn. -/
def State.wakeFrom : Nat → State → Nat → State
  | 0, s, _ => s
  | fuel + 1, s, line =>
    s.sched.tasks.foldl (fun s x =>
      let s := match x.2.watch with
        | some w =>
          if w.line = line && !w.woke then
            let s := s.modInfo x.1 (fun t => { t with watch := some { w with woke := true } })
            if s.wakes x.1 w then State.wakeFrom fuel (s.putReady x.1) (lineOf (s.recAddr x.1 + 0x20)) else s
          else s
        | none => s
      if s.flips x.1 x.2 line then State.wakeFrom fuel (s.putLet x.1) (lineOf (s.recAddr x.1 + 0x20)) else s) s

def State.wake (s : State) (line : Nat) : State := State.wakeFrom (s.sched.tasks.length + 1) s line

/-- The lines among those of `n` bytes at `a` that some task watches or waits on. -/
def State.minded (s : State) (a n : Nat) : List Nat :=
  (s.sched.tasks.flatMap (fun x => (x.2.watch.map Watch.line).toList ++ (x.2.home.map lineOf).toList)).filter
    (fun l => decide (a < 128 * (l + 1)) && decide (128 * l < a + n))

/-- The wakes of a write of `n` bytes at `a`. -/
def State.wakeSpan (s : State) (a n : Nat) : State := (s.minded a n).foldl State.wake s

/-- A write of the part to its own memory: it cures what it writes whole and wakes as any write does (R177, 11 R220). -/
def State.partWrite (s : State) (a : Nat) (bs : List Byte) : State :=
  (s.partPut a bs).wakeSpan a bs.length

def State.partWords (s : State) (a : Nat) (ws : List Word) : State := s.partWrite a (ws.flatMap wordBytes)

def State.setRecWord (s : State) (slot off : Nat) (w : Word) : State := s.partWords (s.recAddr slot + off) [w]
def State.setRecState (s : State) (slot st reason : Nat) : State :=
  s.setRecWord slot 0x20 (setBits (setBits (s.recWord slot 0x20) 52 4 st) 56 8 reason)

/-- A record enters READY. -/
def State.enterReady (s : State) (slot : Nat) : State :=
  (s.putReady slot).wake (lineOf (s.recAddr slot + 0x20))

/-- A record enters READY, or its reuse probe starts. -/
def State.letReady (s : State) (slot : Nat) : State := (s.putLet slot).wake (lineOf (s.recAddr slot + 0x20))

end Sys2Proof.Machine
end

