-- ==== Sys2Proof/Machine/Ops.lean ====
section
/-! DEFINITION. The named operations over registers and the package: access to cores and engines, waits, free values, the
event queue (18 R314 to R316), what an engine has computed and not yet written (06 R95), taking a trap and returning from one (R303 to R311). -/

namespace Sys2Proof.Machine

-- cores and engines

def State.core (s : State) (c : Nat) : Core := s.cores.get c Core.reset
def State.setCore (s : State) (c : Nat) (k : Core) : State := { s with cores := s.cores.put c k }
def State.modCore (s : State) (c : Nat) (f : Core → Core) : State := s.setCore c (f (s.core c))

def Core.eng (k : Core) : Eng → Engine
  | .L => k.eL | .M => k.eM | .X => k.eX | .S => k.eS

def Core.setEng (k : Core) : Eng → Engine → Core
  | .L, g => { k with eL := g }
  | .M, g => { k with eM := g }
  | .X, g => { k with eX := g }
  | .S, g => { k with eS := g }

def State.eng (s : State) (c : Nat) (e : Eng) : Engine := (s.core c).eng e
def State.setEng (s : State) (c : Nat) (e : Eng) (g : Engine) : State := s.setCore c ((s.core c).setEng e g)
def State.modEng (s : State) (c : Nat) (e : Eng) (f : Engine → Engine) : State := s.setEng c e (f (s.eng c e))

/-- The engine that the next word runs on. -/
def State.curEng (s : State) : Engine := s.eng s.cur.1 s.cur.2
def State.curCore (s : State) : Core := s.core s.cur.1
def State.modCur (s : State) (f : Engine → Engine) : State := s.modEng s.cur.1 s.cur.2 f

-- the cores of the part (20 R347)

/-- A capability register, by its offset in BAR0; `dflt` is that of a complete part. -/
def State.cap (s : State) (off : Nat) (dflt : Word) : Word := s.host.caps.get off dflt

def State.present (s : State) (c : Nat) : Bool :=
  c < 256 && (s.cap (8 * (c / 64)) (BitVec.allOnes 64)).getLsbD (c % 64)

def allEngs : List Eng := [.L, .M, .X, .S]

/-- Engine indices (R8). -/
def engIdx : Eng → Nat
  | .L => 0 | .M => 1 | .X => 2 | .S => 3

def engOfIdx (n : Nat) : Eng :=
  match n % 4 with
  | 0 => .L | 1 => .M | 2 => .X | _ => .S

/-- The other engine that mask bit `j` - 1 names (R43): (e + j) mod 4. -/
def engOther (e : Eng) (j : Nat) : Eng := engOfIdx (engIdx e + j)

/-- The number of the FIFO from `e` to `f` (R87). -/
def fifoNo (e f : Eng) : Nat := 4 * engIdx e + engIdx f

-- scalar registers

/-- s0 reads as zero and carries no poison (R9, R87). -/
def Engine.reg (g : Engine) (n : Nat) : SVal := if n = 0 then SVal.zero else g.regs.get n SVal.zero

/-- A write to s0 is discarded (R9). -/
def Engine.setReg (g : Engine) (n : Nat) (v : SVal) : Engine := if n = 0 then g else { g with regs := g.regs.put n v }

/-- An inactive level's lc reads zero (R11). -/
def Engine.lc (g : Engine) (l : Nat) : Word :=
  match g.loops.find? l with
  | some v => BitVec.ofNat 64 v.lc
  | none => 0

/-- The active LOOPS level. -/
def Engine.pipeline (g : Engine) : Option LoopLvl := (g.loops.map (fun x => x.2)).find? (fun l => l.staged)

/-- Stage predicate sp_k (R71 in the form of R319): k < m and B ≤ lc - k < D. -/
def Engine.stage (g : Engine) (k : Nat) : Bool :=
  match g.pipeline with
  | some l => k < l.m && l.base + k ≤ l.lc && l.lc < l.cut + k
  | none => false

/-- q registers hold the row of the arming sequencer, else zero (R10). -/
def Core.q (k : Core) (n : Nat) : Word :=
  match k.task with
  | some t => t.q.getD n 0
  | none => 0

-- vector registers and predicates (R87)

def Core.vreg (k : Core) (n : Nat) : VVal := k.v.get n VVal.zero
def Core.setV (k : Core) (n : Nat) (x : VVal) : Core := { k with v := k.v.put n x }
/-- p0 has every bit 1 and cannot be written. -/
def Core.pred (k : Core) (n : Nat) : PBits := if n = 0 then BitVec.allOnes 1024 else k.p.get n 0
def Core.setPred (k : Core) (n : Nat) (x : PBits) : Core := if n = 0 then k else { k with p := k.p.put n x }

-- waits (R323)

def rNone : BitVec 8 := 0
def rSection : BitVec 8 := 1
def rTokenPop : BitVec 8 := 2
def rTokenPost : BitVec 8 := 3
def rMatrix : BitVec 8 := 4
def rStamp : BitVec 8 := 5
def rBarrier : BitVec 8 := 6
def rFence : BitVec 8 := 7
def rBo : BitVec 8 := 8
def rWatch : BitVec 8 := 9
def rPinned : BitVec 8 := 10
def rAsync : BitVec 8 := 11
def rFerry : BitVec 8 := 12
def rReuse : BitVec 8 := 13
def rPage : BitVec 8 := 14
def rRemap : BitVec 8 := 15
def rFault : BitVec 8 := 16

def Csrs.waiting (k : Csrs) (r : BitVec 8) : Csrs := { k with blocked := true, reason := r }
def Csrs.going (k : Csrs) : Csrs := { k with blocked := false }

/-- The engine waits, with its reason. -/
def State.waitOn (s : State) (c : Nat) (e : Eng) (r : BitVec 8) : State :=
  s.modEng c e (fun g => { g with csr := g.csr.waiting r })

/-- The engine no longer waits; REASON keeps the most recent wait (R80). -/
def Engine.unblock (g : Engine) : Engine := { g with csr := g.csr.going }

-- free values (LOG 3)

def State.takeFree (s : State) : Nat × State := (s.free, { s with free := s.free + 1 })

-- tasks

def State.modTask (s : State) (c : Nat) (f : RunTask → RunTask) : State :=
  s.modCore c (fun k => { k with task := k.task.map f })
def State.setGang (s : State) (g : Nat) (x : Gang) : State :=
  { s with sched := { s.sched with gangs := s.sched.gangs.put g x } }
def State.modGang (s : State) (g : Nat) (f : Gang → Gang) : State :=
  match s.sched.gangs.find? g with
  | some x => s.setGang g (f x)
  | none => s

/-- The static group of a core's task. -/
def State.gangOf (s : State) (c : Nat) : Option Gang :=
  match (s.core c).task with
  | some t => t.gang.bind (fun g => s.sched.gangs.find? g)
  | none => none

-- the event queue

/-- What an event says (R315); `kind` of R316; `task` says that the task in `slot` waits with it for room (R314). -/
structure EvInfo where
  kind   : Nat
  cause  : Nat := 0
  core   : Nat := 0
  eng    : Nat := 0
  detail : Word := 0
  ctx    : Nat := 0
  lrec   : Nat := 0
  tile   : Nat := 0
  slot   : Nat := 0
  pc     : Nat := 0
  code   : Nat := 0
  buf    : Nat := 0
  off    : Nat := 0
  x30    : Word := 0
  x38    : Word := 0
  task   : Bool := false

/-- The ring is enabled by a LOG2N of 6 to 20 (R314). -/
def EvQ.enabled (q : EvQ) : Bool := 6 ≤ q.log2n.toNat && q.log2n.toNat ≤ 20
def EvQ.full (q : EvQ) : Bool := (q.tail - q.head).toNat ≥ 2 ^ q.log2n.toNat
def EvQ.open (q : EvQ) : Bool := q.enabled && !q.full
/-- Room for `n` entries beside those that wait. -/
def EvQ.roomFor (q : EvQ) (n : Nat) : Bool :=
  q.enabled && q.waiting.isEmpty && (q.tail - q.head).toNat + n ≤ 2 ^ q.log2n.toNat

/-- The eight words of an entry, the sequence number left out (R315). -/
def EvInfo.words (i : EvInfo) (cyc : Word) : List Word :=
  [mkWord [(0, 8, i.kind), (8, 8, i.cause), (16, 8, i.core), (24, 2, i.eng)], i.detail,
   mkWord [(0, 16, i.ctx), (16, 16, i.lrec), (32, 32, i.tile)],
   mkWord [(0, 20, i.slot), (32, 16, i.pc), (48, 16, i.code)],
   mkWord [(0, 16, i.buf), (16, 48, i.off)], cyc, i.x30, i.x38]

/-- Write one entry at the tail, then advance it. -/
def State.writeEvent (s : State) (ws : List Word) : State :=
  let at_ := s.evq.base.toNat * 4096 + 64 * (s.evq.tail.toNat % 2 ^ s.evq.log2n.toNat)
  let ws := match ws with
    | w :: rest => (w ||| (BitVec.ofNat 64 s.evq.number.toNat <<< 32)) :: rest
    | [] => []
  let s := s.partWords at_ ws
  { s with evq := { s.evq with tail := s.evq.tail + 1, number := s.evq.number + 1 } }

/-- PAGEFLT and TASKFLT wait for room; other kinds are dropped and counted (R314). -/
def State.post (s : State) (i : EvInfo) : State :=
  let ws := i.words s.cyc
  if s.evq.open && s.evq.waiting.isEmpty then s.writeEvent ws
  else if i.kind == 1 || i.kind == 2 then
    { s with evq := { s.evq with waiting := s.evq.waiting ++ [{ kind := BitVec.ofNat 8 i.kind, words := ws, slot := if i.task then i.slot else 2 ^ 20 }] } }
  else { s with evq := { s.evq with lost := s.evq.lost + 1 } }

/-- Events that waited go out, oldest first, while there is room. -/
def State.drainEvents (s : State) : Nat → State
  | 0 => s
  | n + 1 =>
    match s.evq.waiting with
    | [] => s
    | ev :: rest => if s.evq.open then State.drainEvents ({ s with evq := { s.evq with waiting := rest } }.writeEvent ev.words) n else s

/-- The event of a task waits for room in the ring, and the task with it (R314). -/
def State.heldEvent (s : State) (slot : Nat) : Bool := s.evq.waiting.any (fun e => e.slot == slot)

/-- The fields that name the task of a core. -/
def State.taskEv (s : State) (c : Nat) (i : EvInfo) : EvInfo :=
  match (s.core c).task with
  | some t => { i with core := c, ctx := (s.core c).ctx.toNat, lrec := t.lrec.toNat, tile := t.tile.toNat, slot := t.slot, task := true }
  | none => { i with core := c }

/-- Count an error of R377. -/
def State.countErr (s : State) (n : Nat) : State :=
  { s with evq := { s.evq with errs := s.evq.errs.put n (s.evq.errs.get n 0 + 1) } }

-- the supervisor store (R304)

def State.supWord (s : State) (a n : Nat) : Nat := leNat ((List.range n).map (fun i => s.supStore.read (a + i)))

/-- The handler sections in order: offset and LEN, up to the first header with LEN 0 or the end of the store. -/
def State.supSections (s : State) : Nat → Nat → List (Nat × Nat)
  | 0, _ => []
  | fuel + 1, off =>
    if off + 8 > 0x4000 then []
    else
      let len := s.supWord (off + 6) 2
      if len == 0 || off + 8 + 12 * len > 0x4000 then []
      else (off, len) :: State.supSections s fuel (off + 8 + 12 * len)

def idxOfOff : List (Nat × Nat) → Nat → Nat → Nat
  | [], _, k => k
  | (o, _) :: xs, off, k => if o == off then k else idxOfOff xs off (k + 1)

/-- The handler a cause enters, if its vector entry names one (R304). -/
def State.handler (s : State) (cause : Nat) : Option Sect :=
  let v := s.supWord (4 * cause) 4
  let off := v % 0x4000
  if cause ≥ 64 || v ≥ 0x4000 || off % 4 != 0 || off < 0x100 || off + 8 > 0x4000 then none
  else
    let len := s.supWord (off + 6) 2
    if len == 0 || off + 8 + 12 * len > 0x4000 then none
    else some { num := idxOfOff (s.supSections 820 0x100) off 0, hdr := off, len := len, base := BitVec.ofNat 16 (off + 8) }

-- cause codes (R309)

def cIllInstr : Nat := 0x01
def cIllEnc : Nat := 0x02
def cIllOperand : Nat := 0x03
def cPrivilege : Nat := 0x04
def cControl : Nat := 0x05
def cStream : Nat := 0x06
def cToken : Nat := 0x07
def cPoison : Nat := 0x08
def cArith : Nat := 0x09
def cSoftware : Nat := 0x0A
def cBreak : Nat := 0x0B
def cBounds : Nat := 0x0C
def cRights : Nat := 0x0D
def cOwner : Nat := 0x0E
def cAlign : Nat := 0x0F
def cTransl : Nat := 0x10
def cStorage : Nat := 0x11
def cSched : Nat := 0x12
def cMatrix : Nat := 0x13
def cAsync : Nat := 0x14
def cPhase : Nat := 0x15
def cWatchdog : Nat := 0x16
def cDouble : Nat := 0x17

/-- FIELD and MEMBER of TRAPV (R310). -/
def fieldVal (field member : Nat) : Word := mkWord [(4, 4, field), (0, 2, member)]
/-- TRAPV of a control-flow trap without a target: kind and MEMBER. -/
def cfVal (kind member : Nat) : Word := mkWord [(48, 16, 0xFFFF), (4, 4, kind), (0, 2, member)]
/-- TRAPV of a control-flow trap at a target. -/
def cfTarget (sect word member : Nat) : Word := mkWord [(48, 16, sect), (32, 16, word), (0, 2, member)]

-- results that have not landed (06 R95)

/-- A vector value with the lanes of `m` taken from `new`; the cause field follows R99. -/
def VVal.merge (old new : VVal) (m : BitVec 256) : VVal :=
  let wide : VBits := BitVec.ofNat 8192 ((List.range 256).foldl (fun a i => if m.getLsbD i then a + (2 ^ 32 - 1) * 2 ^ (32 * i) else a) 0)
  let poison := (old.poison &&& ~~~m) ||| (new.poison &&& m)
  { data := (old.data &&& ~~~wide) ||| (new.data &&& wide), poison := poison,
    cause := if new.poison &&& m != 0 then new.cause else if poison != 0 then old.cause else 0 }

def Core.landRegs (k : Core) : List (Nat × BitVec 256 × VVal) → Core
  | [] => k
  | (r, m, x) :: rest => Core.landRegs (k.setV r ((k.vreg r).merge x m)) rest

def landCells (m : Memory) : List (Nat × Byte × Byte) → Memory
  | [] => m
  | (a, b, mask) :: rest => landCells (m.write a ((m.read a &&& ~~~mask) ||| (b &&& mask))) rest

/-- All that engine `e` has computed is written. -/
def State.land (s : State) (c : Nat) (e : Eng) : State :=
  let mine := (s.core c).landing.filter (fun x => x.eng == e)
  if mine.isEmpty then s
  else
    let s := s.modCore c (fun k => Core.landRegs { k with landing := k.landing.filter (fun x => x.eng != e) } (mine.flatMap Landing.regs))
    let cells := mine.flatMap Landing.cells
    (spanOf cells).foldl State.wake (s.setMem (landCells s.mem cells))
where
  spanOf : List (Nat × Byte × Byte) → List Nat
    | [] => []
    | (a, _, _) :: rest => if (spanOf rest).contains (lineOf a) then spanOf rest else lineOf a :: spanOf rest

-- taking a trap

/-- The tokens that matrix commands in flight hold reserved from M's other engine `j`. -/
def Core.flightPops (k : Core) (j : Nat) : Nat := (k.flight.filter (fun f => f.pops.getLsbD (j - 1))).length

/-- The group's reserved tokens become unreserved again (R91); those of matrix commands in flight stay. -/
def Core.dropResv (k : Core) (e : Eng) : Core :=
  { k with resv := [1, 2, 3].foldl (fun r j => r.put (fifoNo (engOther e j) e) (if e == .M then k.flightPops j else 0)) k.resv }

/-- Deliver the fault of engine `e` (R307, R308): the task stops, and SAVE writes it back. -/
def State.deliver (s : State) (c : Nat) (e : Eng) (cause : Nat) (detail : Word) (code : Nat) (page : Bool) : State :=
  let g := s.eng c e
  let d : Delivery := { cause := BitVec.ofNat 8 cause, detail := detail, code := BitVec.ofNat 16 code, eng := engIdx e,
                        pc := g.csr.trappc, page := page }
  (s.modTask c (fun t => { t with delivery := t.delivery ++ [d] })).waitOn c e (if page then rPage else rFault)

/-- Enter supervisor state at a handler (R305): s24 to s31 are set aside and read 0, the ring is a fresh one. -/
def Engine.enterSup (g : Engine) (h : Sect) : Engine :=
  let aside := (List.range 8).map (fun i => g.reg (24 + i))
  let regs := (List.range 8).foldl (fun r i => r.put (24 + i) SVal.zero) g.regs
  { g with
    sup := some { regs := aside, ring := g.ring, phase := g.phase }
    regs := regs
    ring := []
    sect := h
    phase := .running
    pc := h.base
    csr := g.csr.going }

/-- A translation fault goes to page service (R311): the event names the access and its kind (LOG 55); inside a static group
the engine stays on its core and the stall wire rises, outside one the task is written back. -/
def State.pageFault (s : State) (c : Nat) (e : Eng) (v : Word) (buf off kind : Nat) : State :=
  let s := s.post (s.taskEv c { kind := 1, cause := cTransl, eng := engIdx e, detail := v, pc := (s.eng c e).csr.trappc.toNat,
                                buf := buf, off := off, x38 := BitVec.ofNat 64 kind })
  match (s.core c).task with
  | none => s
  | some t =>
    let s := s.modInfo t.slot (fun x => { x with fault := some (4 * c + engIdx e) })
    match t.gang with
    | some g => ((s.modGang g (fun x => { x with stall := true })).modEng c e (fun g => { g with page := true })).waitOn c e rPage
    | none => s.deliver c e cTransl v 0 true

/-- An engine takes a trap (R303): TRAPC, TRAPV, TRAPPC and the resume section are written; a translation fault goes to
page service, a cause with a vector entry to its handler, any other is delivered. A trap in supervisor state is a double
trap, which overwrites nothing and delivers (R306, R308). `buf`, `off` and `kind` name the access of a page
fault. -/
def State.takeTrap (s : State) (c : Nat) (e : Eng) (cause : Nat) (v : Word) (pc : BitVec 16) (buf off kind : Nat := 0) : State :=
  let s := (s.land c e).modCore c (fun k => k.dropResv e)
  let g := s.eng c e
  let g := { g with grp := none, inside := none, owed := none }
  if g.sup.isSome then
    (s.setEng c e g).deliver c e cDouble (mkWord [(8, 8, cause)]) 0 false
  else
    let csr := { g.csr with trapc := BitVec.ofNat 8 cause, trapv := v, trappc := pc }
    let g := { g with csr := csr, pc := pc, resume := g.sect }
    let s := s.setEng c e g
    if cause = cTransl then s.pageFault c e v buf off kind
    else
      match s.handler cause with
      | some h => s.setEng c e (g.enterSup h)
      | none => s.deliver c e cause v 0 false

/-- The distance of a PC from word 0 of its section, in bytes of the 64 KiB store. -/
def Sect.offOf (x : Sect) (pc : BitVec 16) : Nat := (pc - x.base).toNat
/-- The index of the word at a PC. -/
def Sect.wordOf (x : Sect) (pc : BitVec 16) : Nat := x.offOf pc / 12
/-- The PC of a word. -/
def Sect.pcOf (x : Sect) (w : Nat) : BitVec 16 := x.base + BitVec.ofNat 16 (12 * w)

/-- TRAPPC lies from word 0 to one past the last word of the resume section (R307). -/
def Sect.resumable (x : Sect) (pc : BitVec 16) : Bool := x.offOf pc % 12 == 0 && x.offOf pc ≤ 12 * x.len

/-- Leave supervisor state (R305, R307): the task's ring and s24 to s31 come back, the stream goes on at TRAPPC in the
resume section. -/
def Engine.leaveSup (g : Engine) : Engine :=
  match g.sup with
  | none => g
  | some u =>
    let regs := (u.regs.zip (List.range 8)).foldl (fun r x => r.put (24 + x.2) x.1) g.regs
    { g with sup := none, regs := regs, ring := u.ring, sect := g.resume, pc := g.csr.trappc, phase := u.phase,
             target := if u.phase == .entering then g.resume.wordOf g.csr.trappc else 0 }

end Sys2Proof.Machine
end

