-- ==== Sys2Proof/Machine/Home.lean ====
section
/-! DEFINITION. The home of every byte: where it lies (11 R196, R199, R213), reads and writes there with their storage errors
(R198, R221, 12 R225, R238), open reduction batches (12 R236) and the wakes of watched lines
(10 R177). A home key is a physical address, or a place in a scratchpad or a Shoal slice beyond the 56-bit addresses. -/

namespace Sys2Proof.Machine

/-- The key of a byte of a core's scratchpad (01 R13). -/
def spadKey (c off : Nat) : Nat := 2 ^ 56 + c * 2 ^ 22 + off
/-- The key of a byte of a core's Shoal slice (11 R199). -/
def shoalKey (c layer off : Nat) : Nat := 2 ^ 57 + (2 * c + layer) * 2 ^ 23 + off
/-- The key that a page moved by causeway retirement reads at (11 R222). -/
def State.place (s : State) (key : Nat) : Nat :=
  match s.stor.moved.find? (key / 65536) with
  | some u => u * 65536 + key % 65536
  | none => key


-- capacities (20 R347, 11 R223)

def hbmBytes : Nat := 480 * 2 ^ 30
def capBytes : Nat := 2 ^ 41
/-- 64 KiB units of HBM. -/
def hbmUnits : Nat := hbmBytes / 65536

/-- The capacity registers of a complete part below offset 0x50; those that count what others name are read from these. -/
def capFull (r : Nat) : Word :=
  match r with
  | 0x30 => 0x08FFFF
  | 0x38 => 0x0F
  | 0x40 => mkWord [(40, 8, 240), (0, 32, hbmUnits)]
  | 0x48 => mkWord [(0, 32, capBytes / 65536)]
  | _ => BitVec.allOnes 64

/-- Data channels present, 2 GiB each (11 R203). -/
def State.channels (s : State) : Nat := bitsOf (s.cap 0x40 (capFull 0x40)) 40 8
/-- HBM and capacity-tier bytes of this part; what is absent is never addressed (20 R347). -/
def State.hbmSize (s : State) : Nat := s.channels * 2 ^ 31
def State.capSize (s : State) : Nat := bitsOf (s.cap 0x48 (capFull 0x48)) 0 32 * 65536

def slcapOff (c layer : Nat) : Nat := 0x4000 + 16 * c + 8 * layer
/-- SLCAP of a complete part: both bundles, four spares, sixty latent pages. -/
def slcapFull : Word := mkWord [(16, 2, 3), (8, 8, 4), (0, 8, 60)]
/-- SLCAP as the part was made, and as it reads now. -/
def State.slcapMade (s : State) (c layer : Nat) : Word := s.cap (slcapOff c layer) slcapFull
def State.slcap (s : State) (c layer : Nat) : Word := s.stor.slNow.get (slcapOff c layer) (s.slcapMade c layer)
/-- How many latent page numbers, the highest, are spare numbers (11 R199). -/
def State.spareNos (s : State) (c layer : Nat) : Nat := Nat.min 64 (bitsOf (s.slcapMade c layer) 8 8)

-- lists without repeats

def dedup : List Nat → List Nat
  | [] => []
  | x :: xs => if xs.contains x then dedup xs else x :: dedup xs

/-- Repeats of a run of equal numbers are dropped first, so that long accesses stay short lists. -/
def runs : List Nat → List Nat
  | [] => []
  | [x] => [x]
  | x :: y :: xs => if x == y then runs (y :: xs) else x :: runs (y :: xs)

def linesOf (keys : List Nat) : List Nat := dedup (runs (keys.map lineOf))

-- storage errors

/-- The parity stripe of an HBM line: by its DRAM unit, the mode of its region, and the hash version in force for its unit, which
is the new one below the boundary of a migration (11 R219, R220). -/
def State.stripe (s : State) (line : Nat) : Nat :=
  let unit := line / 512
  let v := if s.host.mapBusy && decide (unit < s.host.migbnd) then s.host.newv else s.host.curv
  Config.stripeOf v.toNat (s.stor.ilv.get (line / 2 ^ 23) 0) (s.stor.indirect.get unit unit * 512 + line % 512)

/-- A line that cannot be read: with an uncorrectable error, or poisoned. -/
def State.lineLost (s : State) (line : Nat) : Bool := s.stor.dramErr.contains line || s.stor.poison.contains line

/-- Another line of the stripe is uncorrectable too. -/
def State.stripeLost (s : State) (line : Nat) : Bool :=
  (s.stor.dramErr ++ s.stor.poison).any (fun l => l != line && isHbm (128 * l) && s.stripe l == s.stripe line)

/-- The unit's clean copy holds the line. -/
def State.copyGood (s : State) (line : Nat) : Bool :=
  match s.stor.clean.find? (line / 512) with
  | some copy => !s.lineLost (copy * 512 + line % 512)
  | none => false

/-- An HBM line with an uncorrectable error is rebuilt when it is reached (11 R221): from its parity group, unless a
second line of the stripe is uncorrectable too; then from its unit's clean copy; else it is poisoned, as a line of the
capacity tier always is (R204). -/
def State.rebuild (s : State) (line : Nat) : State :=
  if s.stor.dramErr.contains line then
    let good := isHbm (128 * line) && (!s.stripeLost line || s.copyGood line)
    let s := { s with stor := { s.stor with dramErr := s.stor.dramErr.filter (fun l => l != line) } }
    if good then (s.post { kind := 7, detail := Config.openDetail 7 [line] }).countErr 0
    else { s with stor := { s.stor with poison := line :: s.stor.poison } }
  else s

-- writes at home

def putCells (m : Memory) : List (Nat × Byte) → Memory
  | [] => m
  | (k, b) :: cs => putCells (m.write k b) cs

/-- The word or line is written whole: `n` keys from `base` are all among `keys`. -/
def covers (keys : List Nat) (base n : Nat) : Bool := (List.range n).all (fun i => keys.contains (base + i))

/-- The communicators whose entry a write of `keys` leaves without VALID, where they have counted epochs (21 R360). -/
def State.cutBy (s : State) (keys : List Nat) : List Nat :=
  let base := s.host.cmbase.toNat
  if s.coll.epochs.isEmpty then []
  else (keys.filter (fun k => decide (base ≤ k) && decide (k < base + 64 * 4096) && (k - base) % 64 == 7 && decide ((s.plain 0 k).toNat < 128))).map
    (fun k => (k - base) / 64)

/-- What a write does to the storage errors (R198, R221), to the clean copy of an HBM unit (11 R220) and to the epochs of a
communicator (21 R360). -/
def State.cleanse (s : State) (keys : List Nat) : State :=
  let words := dedup (runs (keys.map (fun k => k / 8)))
  let lines := linesOf keys
  let stor := s.stor
  { s with stor := { stor with
      badWords := stor.badWords.filter (fun w => !(words.contains w && covers keys (8 * w) 8))
      poison := stor.poison.filter (fun l => !(lines.contains l && covers keys (128 * l) 128))
      clean := stor.clean.filter (fun u => !(lines.any (fun l => l / 512 == u.1)))
      cut := dedup (s.cutBy keys ++ stor.cut) } }

/-- Bytes written at home, batches aside. -/
def State.putHome (s : State) (kid : Nat) (cells : List (Nat × Byte)) : State :=
  let keys := cells.map (fun c => c.1)
  let lines := linesOf keys
  let s := lines.foldl (fun s l => s.rekey kid l) s
  let s := s.setMem (putCells s.mem cells)
  lines.foldl (fun s l => s.wake l) (s.cleanse keys)

-- reductions (12 R233, R236)

/-- The type of an AMO by its SZ: bytes apart, 16-bit floating operations are BF16 and 32-bit ones FP32 (R233). -/
def amoTy (op : AmoOp) (sz : BitVec 2) : Ty :=
  if op.isFloat then (if sz == 1 then .bf16 else .f32)
  else match sz with
    | 0 => .n8 | 1 => .n16 | 2 => .n32 | _ => .n64

/-- Integer types join by width alone. -/
def redTy (t : Ty) : Ty :=
  if t.isFl then t else match t.width with
    | 16 => .n16 | 32 => .n32 | 64 => .n64 | _ => .n8

/-- One integer reduction step on `w` bits (R233). -/
def amoInt (op : AmoOp) (w : Nat) (old x : Nat) : Nat :=
  match op with
  | .add => (old + x) % 2 ^ w
  | .and => old &&& x
  | .or => old ||| x
  | .xor => old ^^^ x
  | .min => if readInt true w x < readInt true w old then x else old
  | .max => if readInt true w old < readInt true w x then x else old
  | .minn => Nat.min old x
  | .maxn => Nat.max old x
  | _ => x

/-- A batch applied to one element (R236): integer codes fold; floating minima fold under R113; a floating sum is rounded
once. -/
def batchVal (op : AmoOp) (t : Ty) (old : Nat) (xs : List Nat) : Nat :=
  let w := t.width
  let xs := xs.map (fun x => x % 2 ^ w)
  match op with
  | .fadd =>
    let f := flFmt t
    if xs.isEmpty then old
    else (f.deliver .rne false (exactSum .rne (f.read old :: xs.map f.read)).1).1
  | .fmin => xs.foldl (fun a x => ((flFmt t).minmax false a x).1) old
  | .fmax => xs.foldl (fun a x => ((flFmt t).minmax true a x).1) old
  | _ => xs.foldl (fun a x => amoInt op w a x) old

def State.homeNat (s : State) (kid key n : Nat) : Nat := leNat ((List.range n).map (fun i => s.plain kid (key + i)))

def natCells (key n v : Nat) : List (Nat × Byte) :=
  (leBytes n v).zip (List.range n) |>.map (fun x => (key + x.2, x.1))

/-- The operands of one element in arrival order. -/
def opsAt (ops : List (Nat × Word × Option Giver)) (key : Nat) : List Nat :=
  (ops.filter (fun o => o.1 == key)).map (fun o => o.2.1.toNat)

/-- A memory-error event (R238, R387). -/
def State.memErr (s : State) (i : EvInfo) (buf off : Nat) : State :=
  (s.post { i with kind := 6, buf := buf, off := off }).countErr 1

def Giver.info (g : Giver) : EvInfo :=
  { kind := 6, core := g.core, eng := g.eng, ctx := g.ctx, lrec := g.lrec, tile := g.tile, slot := g.slot, pc := g.pc, task := true }

/-- Members of a batch that find storage they cannot correct write nothing; each non-returning one posts its event (R238). -/
def State.refuseOps (s : State) (ops : List (Nat × Word × Option Giver)) (key : Nat) : State :=
  (ops.filter (fun o => o.1 == key)).foldl (fun s o => match o.2.2 with
    | some g => s.memErr g.info g.buf g.off
    | none => s) s

/-- The open batch of a line is applied to every element it touches and closed. -/
def State.closeBatch (s : State) (line : Nat) : State :=
  match s.stor.batches.find? line with
  | none => s
  | some b =>
    let s := { s with stor := { s.stor with batches := s.stor.batches.del line } }
    let n := b.ty.width / 8
    (dedup (b.ops.map (fun o => o.1))).foldl (fun s key =>
      if s.badAt key != 0 then s.refuseOps b.ops key
      else s.putHome b.kid (natCells key n (batchVal b.op b.ty (s.homeNat b.kid key n) (opsAt b.ops key)))) s

/-- Any other access to lines first closes their batches and rebuilds what it reaches (R236, R221). -/
def State.reach (s : State) (lines : List Nat) : State :=
  lines.foldl (fun s l => (s.closeBatch l).rebuild l) s

/-- A read at home. -/
def State.homeRead (s : State) (kid : Nat) (keys : List Nat) : State × List Byte :=
  let s := s.reach (linesOf keys)
  (s, keys.map (s.plain kid))

/-- A write at home. -/
def State.homeWrite (s : State) (kid : Nat) (cells : List (Nat × Byte)) : State :=
  (s.reach (linesOf (cells.map (fun c => c.1)))).putHome kid cells

def State.homeWord (s : State) (kid key : Nat) : State × Word :=
  let (s, bs) := s.homeRead kid ((List.range 8).map (fun i => key + i))
  (s, leWord bs)

-- contexts

/-- A word of a communicator's entry, and its context (21 R350). -/
def State.commWord (s : State) (comm i : Nat) : Word := s.partWord (s.host.cmbase.toNat + 64 * comm + 8 * i)
def State.commCtx (s : State) (comm : Nat) : Nat := bitsOf (s.commWord comm 0) 32 16

/-- Word `i` of a context-table entry (10 R174). -/
def State.ctxWord (s : State) (ctx i : Nat) : Word := s.partWord (s.host.ctxt.toNat + 32 * ctx + 8 * i)

/-- Reserved bits of an entry are 0 and VALID is 1. -/
def State.ctxValid (s : State) (ctx : Nat) : Bool :=
  let w0 := s.ctxWord ctx 0
  let w1 := s.ctxWord ctx 1
  let w2 := s.ctxWord ctx 2
  bitsOf w0 63 1 == 1 && bitsOf w0 56 7 == 0 && bitsOf w0 16 5 == 0 && bitsOf w1 56 8 == 0 && bitsOf w1 0 12 == 0 &&
  bitsOf w2 8 8 == 0 && bitsOf w2 27 37 == 0 && s.ctxWord ctx 3 == 0

/-- The key generation of a context; none gives the rights fault of 22 R382. -/
def State.kidOf (s : State) (ctx : Nat) : Option Nat :=
  let w := s.ctxWord ctx 2
  let slot := bitsOf w 16 10
  if bitsOf w 26 1 == 1 && slot != 0 then (s.mgmt.keys.find? slot).map KeySlot.gen else none

-- the links (21 R348, R365, 22 R384)

/-- A link that holds a key, which serves for fewer than 2^32 invocations. -/
def State.keyed (s : State) (link : Nat) : Bool := s.mgmt.links.has link && decide (s.mgmt.sent.get link 0 < 2 ^ 32)

/-- A Sound port that is present and up and whose link holds a key (R348, 22 R384). -/
def State.portUp (s : State) (p : Nat) : Bool :=
  (s.cap 0x30 0x08FFFF).getLsbD p && s.mgmt.ports.get p true && s.keyed p
/-- An Ethernet port that is present and whose flow holds a key (R365). -/
def State.etherUp (s : State) : Bool := (List.range 4).any (fun p => (s.cap 0x38 0x0F).getLsbD p && s.keyed (16 + p))

def State.soundUp (s : State) : Bool := (List.range 16).any s.portUp

/-- Memory of another package, which is reached over Sound (11 R213, 21 R349). -/
def isPeer (key : Nat) : Bool := key / 2 ^ 48 == 0x40 || key / 2 ^ 48 == 0x41

-- pins (13 R256)

/-- Some other core pins the line. `self` is the accessing core, 256 for an agent that is no core. -/
def State.pinnedFor (s : State) (self line : Nat) : Bool :=
  s.cores.any (fun x => x.1 != self && (match x.2.l1.find? line with
    | some l => l.pinned
    | none => false))

/-- An accessing agent that is no core. -/
def noCore : Nat := 256

def State.anyPin (s : State) : Bool := s.cores.any (fun x => x.2.l1.any (fun l => l.2.pinned))

/-- A frame that the ferry exchanges (16 R293), or a unit that is being moved (11 R219, R220), holds every access; one to a peer waits
while no Sound port carries it (LOG 83). -/
def State.heldUnit (s : State) (u : Nat) : Bool := s.stor.frames.contains u || s.stor.moving.contains u
def State.ferried (s : State) (key : Nat) : Bool := s.heldUnit (key / 65536) || (isPeer key && !s.soundUp)
def State.noneHeld (s : State) : Bool := s.stor.frames.isEmpty && s.stor.moving.isEmpty

/-- The reason of such a wait, FERRY or REMAP (18 R323). -/
def State.heldCode (s : State) (keys : List Nat) : BitVec 8 :=
  if keys.any (fun k => s.stor.frames.contains (k / 65536)) || !keys.any s.ferried then rFerry else rRemap
def heldWait (r : BitVec 8) : Bool := r == rFerry || r == rRemap

end Sys2Proof.Machine
end

