-- ==== Sys2Proof/Machine/Access.lean ====
section
/-! DEFINITION. Forming an access: the buffer table (11 R206 to R208), the checks of R209, views (R216, R217) and
translation (R212 to R215, R220). An access is a list of access elements, each a list of places (12 R224). -/

namespace Sys2Proof.Machine

/-- Memory that is no part of this package: of the host, or of a peer (11 R213). -/
def isOutside (addr n : Nat) : Bool :=
  let tag := addr / 2 ^ 48
  (tag == 0x10 || tag == 0x40 || tag == 0x41) && (addr + n - 1) / 2 ^ 48 == tag

/-- Whose tables an access uses: an engine's core registers, or a context's table entry for an agent. -/
structure Who where
  core   : Nat
  ctx    : Nat
  lrec   : Nat
  btbase : Nat
  btlast : Nat
  ptroot : Nat
  kid    : Option Nat
  tlb    : Bool
deriving DecidableEq, Repr

def State.whoEng (s : State) (c : Nat) : Who :=
  let k := s.core c
  { core := c, ctx := k.ctx.toNat, lrec := (k.task.map (fun t => t.lrec.toNat)).getD 0,
    btbase := k.btbase.toNat * 2 ^ 21, btlast := k.btlast.toNat, ptroot := k.ptroot.toNat * 2 ^ 12,
    kid := s.kidOf k.ctx.toNat, tlb := true }

/-- An agent acting for a context (10 R174). -/
def State.whoAgent (s : State) (c ctx lrec : Nat) : Who :=
  { core := c, ctx := ctx, lrec := lrec, btbase := bitsOf (s.ctxWord ctx 0) 21 35 * 2 ^ 21,
    btlast := bitsOf (s.ctxWord ctx 0) 0 16, ptroot := bitsOf (s.ctxWord ctx 1) 12 44 * 2 ^ 12,
    kid := s.kidOf ctx, tlb := false }

/-- What right an access needs (R209). -/
inductive Need where
  | read
  | const                    -- CLD: read and constant
  | write
  | atomic (hostOk : Bool)   -- `hostOk`: one of the AtomicOps of 12 R237
  | exec
  | log (w : Bool)           -- the byte of a reuse log, which is read, and written if `w` (14 R265)
deriving DecidableEq, Repr

/-- The kind of an access as a PAGEFLT event names it (LOG 55). -/
def Need.code : Need → Nat
  | .read => 0 | .const => 1 | .write => 2 | .atomic _ => 3 | .exec => 4 | .log _ => 3

def Need.writes : Need → Bool
  | .write | .atomic _ => true
  | .log w => w
  | _ => false

/-- A failing check: its number in R209 and its cause code of R100. -/
structure Fail where
  check : Nat
  cause : Nat
deriving DecidableEq, Repr

def fTransl : Fail := { check := 7, cause := 1 }
def fRights7 : Fail := { check := 7, cause := 3 }
def fBounds (check : Nat) : Fail := { check := check, cause := 2 }
def fOwner : Fail := { check := 3, cause := 4 }
def fRights : Fail := { check := 4, cause := 3 }
def fAlign : Fail := { check := 6, cause := 5 }

/-- The trap of a failing check (18 R309). -/
def trapOf (cause : Nat) : Nat :=
  match cause with
  | 1 => cTransl | 2 => cBounds | 3 => cRights | 4 => cOwner | _ => cAlign

/-- How a byte is reached: at once in the core's scratchpad; in its Shoal slice; through the L1 (RC and UN pages of DRAM); or at its
home in layer H (SO pages, and all pages of host and peer memory). -/
inductive PKind where
  | loc | shoal | cached | direct | far
deriving DecidableEq, Repr

/-- Where half a logical byte lies: the virtual address of its byte, how that is reached, the KIND of its page (11 R213): 0 SO,
1 RC, 2 UN; and the nibbles of an element of its view, 0 in a plain buffer (13 R246). -/
structure Spot where
  va   : Nat
  kind : PKind
  page : Nat
  view : Nat := 0
deriving DecidableEq, Repr

/-- One logical byte: the nibble addresses (twice the home key, plus one for the high nibble) of its low and high halves, where the
low half lies, and where the high half lies if that is elsewhere (11 R218). -/
structure Place where
  lo   : Nat
  hi   : Nat
  at_  : Spot
  far_ : Option Spot
deriving DecidableEq, Repr

def Place.key (p : Place) : Nat := p.lo / 2
def Place.whole (p : Place) : Bool := p.hi == p.lo + 1 && p.lo % 2 == 0
def Place.hiAt (p : Place) : Spot := p.far_.getD p.at_
def Place.va (p : Place) : Nat := p.at_.va
def Place.kind (p : Place) : PKind := p.at_.kind
def Place.page (p : Place) : Nat := p.at_.page

/-- The bytes of storage a place lies in, each with its spot. -/
def Place.spots (p : Place) : List (Nat × Spot) :=
  if p.whole then [(p.key, p.at_)] else [(p.lo / 2, p.at_), (p.hi / 2, p.hiAt)]
def Place.keys (p : Place) : List Nat := p.spots.map (fun x => x.1)

def placeOn (key : Nat) (at_ : Spot) : Place := { lo := 2 * key, hi := 2 * key + 1, at_ := at_, far_ := none }
def placeAt (key va : Nat) (kind : PKind) : Place := placeOn key { va := va, kind := kind, page := 0 }

-- translation

/-- A leaf found: log2 of the page size, frame, KIND and W. -/
structure Leaf where
  log   : Nat
  frame : Nat
  kind  : Nat
  w     : Bool
deriving DecidableEq, Repr

def walkShift (level : Nat) : Nat :=
  match level with
  | 0 => 48 | 1 => 39 | 2 => 30 | 3 => 21 | _ => 16
def walkBits (level : Nat) : Nat :=
  match level with
  | 0 => 8 | 4 => 5 | _ => 9

/-- The five-level walk (R212, R213) over tables in HBM. -/
def State.walk (s : State) (va : Nat) : Nat → Nat → Nat → Option Leaf
  | 0, _, _ => none
  | fuel + 1, level, table =>
    if table ≥ s.hbmSize then none
    else
      let e := s.partWord (table + 8 * (va / 2 ^ walkShift level % 2 ^ walkBits level))
      let padr := bitsOf e 8 48 * 256
      if bitsOf e 0 1 == 0 || bitsOf e 56 8 != 0 || bitsOf e 5 3 != 0 then none
      else if bitsOf e 1 1 == 1 then
        let log := walkShift level
        if level < 2 || bitsOf e 2 2 == 3 || padr % 2 ^ log != 0 then none
        else some { log := log, frame := padr, kind := bitsOf e 2 2, w := bitsOf e 4 1 == 1 }
      else if level ≥ 4 || bitsOf e 2 3 != 0 then none
      else if level + 1 < 4 && padr % 4096 != 0 then none
      else State.walk s va fuel (level + 1) padr

def TlbE.hits (t : TlbE) (ctx va : Nat) : Bool := t.ctx.toNat == ctx && va / 2 ^ t.log == t.vpage
def TlbE.leaf (t : TlbE) : Leaf := { log := t.log, frame := t.frame, kind := t.kind.toNat, w := t.w }
def Leaf.pa (l : Leaf) (va : Nat) : Nat := l.frame + va % 2 ^ l.log

def tlbRoom (log : Nat) : Nat := if log == 16 then 1024 else if log == 21 then 256 else 32

/-- Drop the first entry of a size. -/
def tlbDrop (log : Nat) : List TlbE → List TlbE
  | [] => []
  | t :: ts => if t.log == log then ts else t :: tlbDrop log ts

/-- A new entry; the oldest of its size makes room (LOG 14). -/
def tlbAdd (ts : List TlbE) (t : TlbE) : List TlbE :=
  (if (ts.filter (fun x => x.log == t.log)).length ≥ tlbRoom t.log then tlbDrop t.log ts else ts) ++ [t]

def smallest (ts : List TlbE) : Option TlbE :=
  ts.foldl (fun a t => match a with
    | some x => if t.log < x.log then some t else a
    | none => some t) none

/-- Translation of one address (R212, R214): through the core's TLB for its engines. Entries of two sizes that disagree post a
multi-hit, and the smaller page is used. -/
def State.xlate (s : State) (w : Who) (va : Nat) : State × Option Leaf :=
  if va ≥ 2 ^ 56 then (s, none)
  else if !w.tlb then (s, s.walk va 5 0 w.ptroot)
  else
    let hits := (s.core w.core).tlb.filter (fun t => t.hits w.ctx va)
    match smallest hits with
    | some t =>
      let clash := hits.any (fun x => x.log != t.log &&
        (x.leaf.pa va != t.leaf.pa va || x.kind != t.kind || x.w != t.w))
      (if clash then s.post { s.taskEv w.core { kind := 4, detail := Config.openDetail 4 [va] } with core := 0 } else s, some t.leaf)
    | none =>
      match s.walk va 5 0 w.ptroot with
      | some l =>
        let t : TlbE := { ctx := BitVec.ofNat 16 w.ctx, vpage := va / 2 ^ l.log, log := l.log, frame := l.frame,
                          kind := BitVec.ofNat 2 l.kind, w := l.w }
        (s.modCore w.core (fun k => { k with tlb := tlbAdd k.tlb t }), some l)
      | none => (s, none)

/-- The storage a leaf names, for a buffer of layer 0 H, 1 S0, 2 S1 (R210, R213, R220) and the key rule of 22 R382; what a degraded
part lacks is never addressed (20 R347). A peer answers by its own table (22 R382). -/
def State.target (s : State) (w : Who) (layer ilv : Nat) (need : Need) (l : Leaf) (pa : Nat) : Except Fail (Nat × PKind) :=
  let low := pa % 2 ^ 48
  let tag := pa / 2 ^ 48
  let kind : PKind := if l.kind == 0 then .direct else .cached
  let outer : PKind := if l.kind == 0 then .direct else .far
  let open_ (k : PKind) : Except Fail (Nat × PKind) :=
    if need.writes && !l.w then .error fRights7 else .ok (pa, k)
  if tag == 0x02 then
    let page := low / 65536 % 64
    let lay := low / 2 ^ 40 % 2
    if layer == 0 || l.log != 16 || lay + 1 != layer || low != lay * 2 ^ 40 + low % 2 ^ 22 ||
        page ≥ 64 - s.spareNos w.core lay then .error fTransl
    else if need.writes && !l.w then .error fRights7
    else .ok (s.place (shoalKey w.core lay (2 ^ 22 + low % 2 ^ 22)), .shoal)
  else if layer != 0 then .error fTransl
  else if tag == 0x00 then
    if low ≥ s.hbmSize || (ilv != 3 && ilv != s.stor.ilv.get (pa / 2 ^ 30) 0) then .error fTransl
    else if w.kid == none then .error fRights7
    else open_ kind
  else if tag == 0x01 then
    if low ≥ s.capSize then .error fTransl
    else if w.kid == none then .error fRights7
    else open_ kind
  else if tag == 0x10 then
    match need with
    | .atomic false | .log true => .error fRights7
    | _ => open_ outer
  else if tag == 0x40 || tag == 0x41 then
    if pa / 2 ^ 40 % 512 == s.mgmt.pkg.toNat || pa % 2 ^ 40 ≥ hbmBytes then .error fTransl
    else if s.mgmt.refused.contains (pa / 2 ^ 40 % 512, w.ctx) then .error fRights7
    else open_ outer
  else .error fTransl

/-- Translation of one virtual address to its storage (check 7 of R209). -/
def State.locate (s : State) (w : Who) (layer ilv : Nat) (need : Need) (va : Nat) : State × Except Fail (Nat × Spot) :=
  let (s, l) := s.xlate w va
  match l with
  | none => (s, .error fTransl)
  | some l => (s, (s.target w layer ilv need l (l.pa va)).map (fun x => (x.1, { va := va, kind := x.2, page := l.kind })))

-- buffers

/-- A buffer as an access sees it; `layer` 3 is LOC. -/
structure Desc where
  base   : Nat
  layer  : Nat
  ilv    : Nat
  rights : Nat
  len    : Nat
  view   : Nat
  nibs   : Nat
  ld     : Nat
  tshape : Nat
  owngrp : Nat
  ownctx : Nat
  rows   : Nat
  cols   : Nat
  valid  : Bool
deriving DecidableEq, Repr

def ceilDiv (a b : Nat) : Nat := (a + b - 1) / b

def tileH (t : Nat) : Nat := match t with
  | 0 => 32 | 1 => 16 | 2 => 16 | 3 => 64 | 4 => 8 | _ => 128
def tileW (t : Nat) : Nat := match t with
  | 0 => 32 | 1 => 16 | 2 => 64 | 3 => 16 | 4 => 128 | _ => 8

/-- A buffer-table entry with its validity (R207, R208). -/
def descOf (w0 w1 w2 w3 : Word) : Desc :=
  let base := bitsOf w0 0 56
  let layer := bitsOf w1 53 2
  let rights := bitsOf w1 48 5
  let len := bitsOf w1 0 48
  let view := bitsOf w2 32 2
  let ec := bitsOf w2 34 2
  let nibs := 2 ^ ec
  let ld := bitsOf w2 39 25
  let ts := bitsOf w2 36 3
  let rows := bitsOf w3 0 32
  let cols := bitsOf w3 32 32
  let ok :=
    bitsOf w0 63 1 == 1 && bitsOf w0 56 7 == 0 && bitsOf w1 57 7 == 0 && layer != 3 && ts < 6 &&
    !(rights.testBit 1 && rights.testBit 4) && !(rights.testBit 3 && layer != 0) &&
    (if view == 0 then base % 64 == 0 && ec == 0 && ts == 0 && ld == 0 && rows == 0 && cols == 0
     else base % 4096 == 0 && rows != 0 && cols != 0 && 2 * len == ceilDiv rows 32 * ceilDiv cols 32 * 1024 * nibs) &&
    !(view == 1 && ld < cols) && !(view == 2 && ld < rows) && !(view == 3 && ld != 0) && !(view != 3 && ts != 0)
  { base := base, layer := layer, ilv := bitsOf w1 55 2, rights := rights, len := len, view := view, nibs := nibs, ld := ld,
    tshape := ts, owngrp := bitsOf w2 16 16, ownctx := bitsOf w2 0 16, rows := rows, cols := cols, valid := ok }

/-- The L1 share of a launch record's L1SPLIT (01 R13). -/
def shareBytes (split : BitVec 2) : Nat :=
  match split.toNat with
  | 0 => 0 | 1 => 0x80000 | 2 => 0x100000 | _ => 0x200000

/-- Length of the scratchpad (01 R13). -/
def Core.spadLen (k : Core) : Nat := 0x400000 - shareBytes k.l1split

/-- Buffer 0 (01 R13): no table entry, never translated; read, write and atomic. -/
def Core.spad (k : Core) : Desc :=
  { base := 0, layer := 3, ilv := 3, rights := 7, len := k.spadLen, view := 0, nibs := 1, ld := 0, tshape := 0,
    owngrp := 0xFFFF, ownctx := k.ctx.toNat, rows := 0, cols := 0, valid := true }

/-- A new entry of the buffer-entry cache; the oldest of 128 makes room (LOG 14). -/
def bufAdd (xs : List BufE) (b : BufE) : List BufE := (if xs.length ≥ 128 then xs.drop 1 else xs) ++ [b]

/-- The entry of buffer n ≥ 1, from the core's cache or from the table (R206). -/
def State.bufEntry (s : State) (w : Who) (n : Nat) : State × Except Fail Desc :=
  let toDesc (ws : List Word) : Desc := descOf (ws.getD 0 0) (ws.getD 1 0) (ws.getD 2 0) (ws.getD 3 0)
  let cached := if w.tlb then
      (s.core w.core).bufc.find? (fun b => b.ctx.toNat == w.ctx && b.idx == n)
    else none
  match cached with
  | some b => (s, .ok (toDesc b.words))
  | none =>
    let (s, r) := s.locate w 0 3 .read (w.btbase + 32 * n)
    match r with
    | .error f => (s, .error f)
    | .ok (key, _) =>
      let (s, bs) := s.homeRead (w.kid.getD 0) ((List.range 32).map (fun i => key + i))
      let ws := (List.range 4).map (fun i => leWord ((bs.drop (8 * i)).take 8))
      let s := if w.tlb then
          s.modCore w.core (fun k => { k with bufc := bufAdd k.bufc { ctx := BitVec.ofNat 16 w.ctx, idx := n, words := ws } })
        else s
      (s, .ok (toDesc ws))

/-- The right a buffer must give (check 4). A reuse log is reached with the atomic right that R265 names, or with read and write, which
are all that the log of 23 R385 has (LOG 80). -/
def Desc.grants (d : Desc) (need : Need) : Bool :=
  match need with
  | .read => d.rights.testBit 0
  | .const => d.rights.testBit 0 && d.rights.testBit 4
  | .write => d.rights.testBit 1 && !d.rights.testBit 4
  | .atomic _ => d.rights.testBit 2 && !d.rights.testBit 4
  | .exec => d.rights.testBit 3
  | .log _ => (d.rights.testBit 2 || (d.rights.testBit 0 && d.rights.testBit 1)) && !d.rights.testBit 4

/-- Checks 1 to 4 of R209; an agent of no core has no scratchpad. -/
def State.buffer (s : State) (w : Who) (n : Nat) (need : Need) : State × Except Fail Desc :=
  if n == 0 && w.core > 255 then (s, .error (fBounds 1))
  else if n == 0 then
    let d := (s.core w.core).spad
    (s, if d.grants need then .ok d else .error fRights)
  else if n > 65535 || n > w.btlast then (s, .error (fBounds 1))
  else
    let (s, r) := s.bufEntry w n
    match r with
    | .error f => (s, .error f)
    | .ok d =>
      (s, if !d.valid then .error (fBounds 2)
          else if d.ownctx != w.ctx || (d.owngrp != 0xFFFF && d.owngrp != w.lrec) then .error fOwner
          else if !d.grants need then .error fRights
          else .ok d)

-- views

/-- Logical extent of a viewed buffer in nibbles (R216). -/
def Desc.extent (d : Desc) : Nat :=
  d.nibs * (if d.view == 1 then d.rows * d.ld else if d.view == 2 then d.cols * d.ld
    else ceilDiv d.rows (tileH d.tshape) * ceilDiv d.cols (tileW d.tshape) * (tileH d.tshape * tileW d.tshape))

/-- Row and column of logical element `e` (R216). -/
def Desc.rowCol (d : Desc) (e : Nat) : Nat × Nat :=
  if d.view == 1 then (e / d.ld, e % d.ld)
  else if d.view == 2 then (e % d.ld, e / d.ld)
  else
    let th := tileH d.tshape
    let tw := tileW d.tshape
    let tpr := ceilDiv d.cols tw
    let t := e / (th * tw)
    let w := e % (th * tw)
    (t / tpr * th + w / tw, t % tpr * tw + w % tw)

/-- Element position of (row, col) in the block layout (R217). -/
def Desc.pos (d : Desc) (row col : Nat) : Nat :=
  (row / 32 * ceilDiv d.cols 32 + col / 32) * 1024 + 32 * (row % 32) + (row % 32 + col % 32) % 32

def Desc.elemIn (d : Desc) (e : Nat) : Bool :=
  let rc := d.rowCol e
  rc.1 < d.rows && rc.2 < d.cols

/-- The stored nibble, counted from VBASE, of logical nibble `n`. -/
def Desc.nibAt (d : Desc) (n : Nat) : Nat :=
  let rc := d.rowCol (n / d.nibs)
  d.pos rc.1 rc.2 * d.nibs + n % d.nibs

-- access elements

/-- How the elements of a word are checked (R224): bytes per element, the alignment of its offset, and the rules for
viewed buffers. -/
structure Form where
  need   : Need
  es     : Nat
  align  : Nat
  atom   : Bool := false
  noView : Bool := false
  nibble : Bool := false

/-- Check 6 of an element. -/
def Form.aligned (f : Form) (d : Desc) (off : Nat) : Bool :=
  off % f.align == 0 &&
  (d.view == 0 ||
    (!f.noView && 2 * f.es ≥ d.nibs && (2 * off) % d.nibs == 0 && (!f.atom || 2 * f.es == d.nibs) &&
     !(f.need.writes && d.nibs == 1 && !f.nibble)))

/-- Check 5 of an element at logical offset `off`. -/
def Form.inside (f : Form) (d : Desc) (off : Int) : Bool :=
  decide (0 ≤ off) &&
  (if d.view == 0 then decide (off + f.es ≤ d.len)
   else decide (2 * (off + f.es) ≤ d.extent) &&
     (List.range (2 * f.es)).all (fun k => d.elemIn ((2 * off.toNat + k) / d.nibs)))

/-- Places of a viewed element, nibble pair by nibble pair. -/
def State.placeView (s : State) (w : Who) (d : Desc) (need : Need) : List Nat → State × Except Fail (List Place)
  | [] => (s, .ok [])
  | b :: bs =>
    let n0 := d.nibAt (2 * b)
    let n1 := d.nibAt (2 * b + 1)
    let (s, r0) := s.locate w d.layer d.ilv need (d.base + n0 / 2)
    match r0 with
    | .error f => (s, .error f)
    | .ok (k0, at0) =>
      let (s, r1) := s.locate w d.layer d.ilv need (d.base + n1 / 2)
      match r1 with
      | .error f => (s, .error f)
      | .ok (k1, at1) =>
        let (s, rest) := State.placeView s w d need bs
        match rest with
        | .error f => (s, .error f)
        | .ok ps =>
          let at0 := { at0 with view := d.nibs }
          let at1 := { at1 with view := d.nibs }
          (s, .ok ({ lo := 2 * k0 + n0 % 2, hi := 2 * k1 + n1 % 2, at_ := at0, far_ := if at1 == at0 then none else some at1 } :: ps))

/-- Checks 5 to 7 of one element and its places. -/
def State.element (s : State) (w : Who) (d : Desc) (f : Form) (off : Int) : State × Except Fail (List Place) :=
  if !f.inside d off then (s, .error (fBounds 5))
  else if !f.aligned d off.toNat then (s, .error fAlign)
  else if d.layer == 3 then
    (s, .ok ((List.range f.es).map (fun i => placeAt (spadKey w.core (off.toNat + i)) 0 .loc)))
  else if d.view == 0 then
    let va := d.base + off.toNat
    let (s, r) := s.locate w d.layer d.ilv f.need va
    (s, r.map (fun x => (List.range f.es).map (fun i => placeOn (x.1 + i) { x.2 with va := va + i })))
  else s.placeView w d f.need ((List.range f.es).map (fun i => off.toNat + i))

/-- All elements of an access, in order, each with its outcome. -/
def State.elements (s : State) (w : Who) (d : Desc) (f : Form) : List Int → State × List (Except Fail (List Place))
  | [] => (s, [])
  | o :: os =>
    let (s, r) := s.element w d f o
    let (s, rs) := State.elements s w d f os
    (s, r :: rs)

/-- A fault of an access: the failing check, the element, its logical offset and the kind of the access. -/
structure AccFault where
  fail : Fail
  elem : Nat
  off  : Int
  kind : Nat := 0
deriving DecidableEq, Repr

def firstFail : Nat → List Int → List (Except Fail (List Place)) → Option AccFault
  | i, o :: _, .error f :: _ => some { fail := f, elem := i, off := o }
  | i, _ :: os, .ok _ :: rs => firstFail (i + 1) os rs
  | _, _, _ => none

def okPlaces : List (Except Fail (List Place)) → List (List Place)
  | [] => []
  | .ok p :: rs => p :: okPlaces rs
  | .error _ :: rs => okPlaces rs

/-- A whole access without `.sp` (R209, R224): every check of every element before any is performed. -/
def State.access (s : State) (w : Who) (buf : Nat) (f : Form) (offs : List Int) :
    State × Except AccFault (List (List Place)) :=
  let (s, r) := s.buffer w buf f.need
  match r with
  | .error e => (s, .error { fail := e, elem := 0, off := offs.headD 0, kind := f.need.code })
  | .ok d =>
    let (s, es) := s.elements w d f offs
    match firstFail 0 offs es with
    | some x => (s, .error { x with kind := f.need.code })
    | none => (s, .ok (okPlaces es))

-- frames in exchange that hold tables (16 R293)

/-- The entries that a walk reads. -/
def State.walkKeys (s : State) (va : Nat) : Nat → Nat → Nat → List Nat
  | 0, _, _ => []
  | fuel + 1, level, table =>
    let a := table + 8 * (va / 2 ^ walkShift level % 2 ^ walkBits level)
    let e := s.partWord a
    a :: (if bitsOf e 0 1 == 0 || bitsOf e 1 1 == 1 || level ≥ 4 then [] else State.walkKeys s va fuel (level + 1) (bitsOf e 8 48 * 256))

/-- The entries that a translation reads, none where the TLB holds it. -/
def State.xlateKeys (s : State) (w : Who) (va : Nat) : List Nat :=
  if w.tlb && (s.core w.core).tlb.any (fun t => t.hits w.ctx va) then [] else s.walkKeys va 5 0 w.ptroot

/-- The addresses that an element is translated at. -/
def Desc.vas (d : Desc) (es : Nat) (off : Int) : List Nat :=
  if d.layer == 3 then []
  else if d.view == 0 then [d.base + off.toNat]
  else (List.range (2 * es)).map (fun i => d.base + d.nibAt (2 * off.toNat + i) / 2)

/-- What a read of a table at a virtual address in layer H reads. -/
def State.vaKeys (s : State) (w : Who) (va : Nat) : List Nat :=
  s.xlateKeys w va ++ (match (s.locate w 0 3 .read va).2 with
    | .ok x => [x.1]
    | .error _ => [])

/-- What an access reads of the buffer table and of page tables. -/
def State.tableKeys (s : State) (w : Who) (buf : Nat) (f : Form) (offs : List Int) : List Nat :=
  if buf == 0 then []
  else
    let entry := if w.tlb && (s.core w.core).bufc.any (fun b => b.ctx.toNat == w.ctx && b.idx == buf) then []
      else s.vaKeys w (w.btbase + 32 * buf)
    match (s.buffer w buf f.need).2 with
    | .ok d => entry ++ (offs.flatMap (d.vas f.es)).flatMap (s.xlateKeys w)
    | .error _ => entry

/-- An exchange holds a table that an access reads: the access waits. -/
def State.tablesHeld (s : State) (w : Who) (buf : Nat) (f : Form) (offs : List Int) : Bool :=
  !s.noneHeld && (s.tableKeys w buf f offs).any s.ferried

/-- TRAPV of a memory fault (18 R310): offset, check, element index and member. -/
def memVal (x : AccFault) (member : Nat) : Word :=
  mkWord [(16, 48, (x.off % (2 ^ 48 : Int)).toNat), (12, 4, x.fail.check), (2, 10, x.elem), (0, 2, member)]

end Sys2Proof.Machine
end

