-- ==== Sys2Proof/Machine/Early.lean ====
section
/-! DEFINITION. Loads performed before their turn (13 R246 to R251, R260): an engine may hold 8-byte words that it has read ahead, and
a load may return them where no order of the manual stands between. The agenda takes a word (`readAhead`) and lets the next load
use what is held (`early`); every access, fence, acquire and release drops or marks what it orders. -/

namespace Sys2Proof.Machine

-- scopes (13 R244)

/-- How near core `a` is to core `b`: 0 itself, 1 its quad, 2 its Isle, 3 the package. -/
def nearness (a b : Nat) : Nat := if a == b then 0 else if a / 4 == b / 4 then 1 else if a / 128 == b / 128 then 2 else 3

/-- The nearness a scope reaches to; beyond the package no agent of this one sees a difference (R247). -/
def scopeRank : Scope → Nat
  | .core => 0
  | .quad => 1
  | .die => 2
  | _ => 3

-- what is held

/-- Neither engine that loads holds a word, nor is told to use one. -/
def Core.noAhead (k : Core) : Bool := k.eL.ahead.isEmpty && k.eS.ahead.isEmpty && !k.eL.early && !k.eS.early

def Engine.mapAhead (g : Engine) (f : Nat → Ahead → Option Ahead) : Engine :=
  { g with ahead := g.ahead.filterMap (fun x => (f x.1 x.2).map (fun y => (x.1, y))) }

def Core.mapAhead (k : Core) (f : Eng → Nat → Ahead → Option Ahead) : Core :=
  { k with eL := k.eL.mapAhead (f .L), eS := k.eS.mapAhead (f .S) }

/-- Change what core `c` holds. -/
def State.mapAhead (s : State) (c : Nat) (f : Eng → Nat → Ahead → Option Ahead) : State :=
  if (s.core c).noAhead then s else s.modCore c (fun k => k.mapAhead f)

/-- Change what every core holds. -/
def State.mapAllAhead (s : State) (f : Nat → Eng → Nat → Ahead → Option Ahead) : State :=
  if s.cores.all (fun x => x.2.noAhead) then s
  else s.cores.foldl (fun s x => s.mapAhead x.1 (f x.1)) s

/-- The layer of a key in the slices: 1 S0, 2 S1; 0, H, for any other. -/
def layerOf (key : Nat) : Nat := if key < 2 ^ 57 then 0 else 1 + (key - 2 ^ 57) / 2 ^ 23 % 2

/-- The layer of a home key as far as order goes (R250): a page that retirement has moved keeps that of its buffer (11 R210, R222). -/
def State.layerAt (s : State) (key : Nat) : Nat :=
  match List.find? (fun (x : Nat × Nat) => x.2 == key / 65536) s.stor.moved with
  | some x => layerOf (x.1 * 65536)
  | none => layerOf key

/-- The mask of an LFENCE names a layer (12 R239). -/
def named (mask : BitVec 4) (layer : Nat) : Bool := mask.getLsbD (if layer == 0 then 3 else layer)

-- what drops and marks it

/-- Engine `e` of core `c` has itself read or written words: what it held of them is older (R247). The other engine holds the older
value until something of this engine precedes it (06 R94). -/
def State.passAhead (s : State) (c : Nat) (e : Eng) (words : List Nat) : State :=
  s.mapAhead c (fun f w a => if !words.contains w then some a else if f == e then none else some { a with late := true })

/-- An access of engine `e` to SO pages of a layer: a later one of it to such pages returns nothing that was read before it (R248); for
the other engine that holds once this one precedes it. -/
def State.soAhead (s : State) (c : Nat) (e : Eng) (layers : List Nat) : State :=
  s.mapAhead c (fun f w a => some (
    if !layers.contains (s.layerAt (8 * w)) then a else if f == e then { a with so := false } else { a with soq := true }))

/-- Instructions of the other engines now precede those of engine `e` (06 R94). -/
def State.syncAhead (s : State) (c : Nat) (e : Eng) : State :=
  s.mapAhead c (fun f _ a =>
    if f != e then some a else if a.late then none else some { a with so := a.so && !a.soq, soq := false })

/-- A release or a fence of core `c` over the layers of a mask that reaches to nearness `r` (R251, R252): those it reaches may
synchronise with it. -/
def State.releaseAhead (s : State) (c : Nat) (e : Eng) (r : Nat) (mask : BitVec 4) : State :=
  s.mapAllAhead (fun d f w a => some (
    if nearness c d ≤ r && !(d == c && f == e) && named mask (s.layerAt (8 * w)) then { a with rel := Nat.min a.rel (nearness c d) }
    else a))

/-- Another agent of the package, no core, has written: a release to all. -/
def State.agentAhead (s : State) : State :=
  s.mapAllAhead (fun _ _ _ a => some { a with rel := Nat.min a.rel 3 })

/-- An acquire or a fence of engine `e` over the layers of a mask that reaches to nearness `r` (R226, R251): what was read ahead of it
stays only where no agent it can synchronise with has released since; at `.pkg` and wider only loads of UN pages may still return it
(R247). The other engine loses the same once this one precedes it. -/
def State.acquireAhead (s : State) (c : Nat) (e : Eng) (r : Nat) (mask : BitVec 4) : State :=
  s.mapAhead c (fun f w a =>
    if !named mask (s.layerAt (8 * w)) then some a
    else if a.rel ≤ r then (if f == e then none else some { a with late := true })
    else some (if r ≥ 3 && f == e then { a with un := true } else a))

/-- An acquire that observes the flip to `flips` of the barrier object at `key` synchronises with the credits of the phase that it
ended, and with nothing else (R260). -/
def State.flipAhead (s : State) (c : Nat) (e : Eng) (key flips : Nat) : State :=
  s.mapAhead c (fun f _ a =>
    if a.cred.contains (key, (flips + 65535) % 65536) then (if f == e then none else some { a with late := true }) else some a)

/-- A credit to the object at `key`, while it stands at `flips`, covers these words: bytes that an asynchronous engine wrote (R259). -/
def State.creditAhead (s : State) (key flips : Nat) (words : List Nat) : State :=
  s.mapAllAhead (fun _ _ w a => some (if words.contains w then { a with cred := (key, flips) :: a.cred } else a))

/-- A credit that is a release of all that precedes it, to the agents that `near` names (R259). -/
def State.creditAllAhead (s : State) (key flips : Nat) (near : Nat → Bool) : State :=
  s.mapAllAhead (fun d _ _ a => some (if near d then { a with cred := (key, flips) :: a.cred } else a))

/-- The contents of a frame have become those of another page (16 R293). -/
def State.dropAhead (s : State) (unit : Nat) : State :=
  s.mapAllAhead (fun _ _ w a => if w / 8192 == unit then none else some a)

-- using it

def Ahead.serves (a : Ahead) (page : Nat) : Bool := (page == 2 || !a.un) && (page != 0 || a.so)

/-- The byte that a load of the current engine returns from what was read ahead. -/
def State.aheadByte (s : State) (p : Place) : Option Byte :=
  if s.curEng.early && p.whole && p.kind != .loc then
    match s.curEng.ahead.find? (p.key / 8) with
    | some a => if a.serves p.page then some (a.val.extractLsb' (8 * (p.key % 8)) 8) else none
    | none => none
  else none

/-- The words of places beyond the scratchpad. -/
def wordsOf (ps : List Place) : List Nat := dedup (runs ((ps.filter (fun p => p.kind != .loc)).flatMap (fun p => p.keys.map (fun k => k / 8))))

/-- The layers of places on SO pages. -/
def State.soLayers (s : State) (ps : List Place) : List Nat :=
  dedup (runs ((ps.flatMap Place.spots).filterMap (fun x => if x.2.kind != .loc && x.2.page == 0 then some (s.layerAt x.1) else none)))

/-- An access of the scratchpad alone, which keeps program order. -/
def allLocal (ps : List Place) : Bool := ps.all (fun p => p.kind == .loc)

/-- What a load of the current engine leaves of the words held: those it returned; of a UN page also those it passed by (R247). -/
def State.afterLoad (s : State) (c : Nat) (ps : List Place) : State :=
  if (s.core c).noAhead || allLocal ps then s
  else
    let used := dedup (runs ((ps.filter (fun p => (s.aheadByte p).isSome)).map (fun p => p.key / 8)))
    let keep := used ++ wordsOf (ps.filter (fun p => p.page == 2))
    let e := s.cur.2
    let s := s.mapAhead c (fun f w a =>
      if !(wordsOf ps).contains w then some a
      else if f == e then (if keep.contains w then some a else none) else some { a with late := true })
    (s.soAhead c e (s.soLayers ps)).modCur (fun g => { g with early := false })

/-- What a store or an access at home of engine `e` leaves of them. -/
def State.afterStore (s : State) (c : Nat) (e : Eng) (ps : List Place) : State :=
  if (s.core c).noAhead || allLocal ps then s
  else (s.passAhead c e (wordsOf ps)).soAhead c e (s.soLayers ps)

/-- A load that waits for a pinned line is performed after the wait (R256, R262): it returns nothing that was read ahead. -/
def State.refused (s : State) (c : Nat) (ps : List Place) : State :=
  if (s.core c).noAhead then s
  else (s.mapAhead c (fun f w a => if f == s.cur.2 && (wordsOf ps).contains w then none else some a)).modCur (fun g =>
    { g with early := false })

end Sys2Proof.Machine
end

