-- ==== Sys2Proof/Machine/Cache.lean ====
section
/-! DEFINITION. What a core's loads and stores do (13 R244 to R249, R255, R256): the L1 with its dirty and pinned lines, the
write path of the core, acquires and releases at their scopes, and the written-range filter (12 R229). -/

namespace Sys2Proof.Machine

-- lines

def Core.l1On (k : Core) : Bool := k.l1split != 0
/-- Sets of the L1 (11 R197). -/
def Core.l1Sets (k : Core) : Nat := shareBytes k.l1split / 2048

def Line.byte (l : Line) (i : Nat) : Byte := l.data.extractLsb' (8 * i) 8

def bytesBits (bs : List Byte) : Nat := leNat bs

/-- `n` copies of the bit pattern of a set nibble mask: 0x3 for a whole byte. -/
def nibMask (mask : Byte) : Nat := (if mask &&& 0x0F != 0 then 1 else 0) + (if mask &&& 0xF0 != 0 then 2 else 0)

def mixByte (old val mask : Byte) : Byte := (old &&& ~~~mask) ||| (val &&& mask)

/-- Write one masked byte into a line. -/
def Line.put (l : Line) (i : Nat) (val mask : Byte) : Line :=
  let b := mixByte (l.byte i) val mask
  let cleared := l.data &&& ~~~(BitVec.ofNat 1024 (0xFF * 2 ^ (8 * i)))
  { l with data := cleared ||| BitVec.ofNat 1024 (b.toNat * 2 ^ (8 * i))
           dirty := l.dirty ||| BitVec.ofNat 256 (nibMask mask * 2 ^ (2 * i)) }

/-- A masked byte of a store: its key, value and bit mask. -/
abbrev Cell := Nat × Byte × Byte

/-- A set of nibbles of a line. -/
abbrev Nibs := BitVec 256

def nibsOf (ns : List Nat) : Nibs := ns.foldl (fun b n => b ||| (1 <<< n)) 0

/-- The nibbles of its line that a masked byte covers. -/
def Cell.nibs (c : Cell) : List Nat :=
  (if c.2.2 &&& 0x0F != 0 then [2 * (c.1 % 128)] else []) ++ (if c.2.2 &&& 0xF0 != 0 then [2 * (c.1 % 128) + 1] else [])

/-- Write one unit of a store into its line (R246). -/
def Line.putUnit (l : Line) (cs : List Cell) (epoch : Nat) : Line :=
  let m := cs.foldl (fun (l : Line) c => l.put (c.1 % 128) c.2.1 c.2.2) l
  let ns := cs.flatMap Cell.nibs
  { m with joint := (l.joint &&& ~~~(nibsOf ns)) ||| nibsOf (ns.drop 1)
           first := if l.dirty == 0 then epoch else l.first, last := epoch
           rank := if l.dirty == 0 then 0 else l.rank
           via := if l.dirty == 0 then [] else l.via }

/-- The mask of byte `i` of a set of nibbles. -/
def byteMask (d : Nibs) (i : Nat) : Byte :=
  (if d.getLsbD (2 * i) then 0x0F else 0) ||| (if d.getLsbD (2 * i + 1) then 0xF0 else 0)

/-- The nibbles of a line that go home with the units that `mask` selects by their first nibbles. -/
def Line.chosen (l : Line) (mask : Nibs) : Nibs :=
  nibsOf ((List.range 256).foldl (fun (a : List Nat × Bool) i =>
    let on := if l.joint.getLsbD i then a.2 else mask.getLsbD i
    (if on then a.1 ++ [i] else a.1, on)) ([], false) |>.1)

-- masked writes at home

/-- Resolve masked bytes against the home, in order. -/
def State.homeMasked (s : State) (kid : Nat) (cells : List Cell) : State :=
  let s := s.reach (linesOf (cells.map (fun c => c.1)))
  let full := cells.filter (fun c => c.2.2 == 0xFF)
  let part := cells.filter (fun c => c.2.2 != 0xFF)
  let s := if full.isEmpty then s else s.putHome kid (full.map (fun c => (c.1, c.2.1)))
  part.foldl (fun s c => s.putHome kid [(c.1, mixByte (s.plain kid c.1) c.2.1 c.2.2)]) s

/-- The nibbles `ns` of a dirty line go home, so that only what the core wrote changes (R255). Uncorrectable words of a
dirty line go home with their poison (11 R198), and a line filled from a poisoned one stays so unless a store covered it whole
(11 R221). -/
def State.lineBytes (s : State) (line : Nat) (l : Line) (ns : Nibs) : State :=
  let d := l.dirty &&& ns
  let cells := ((List.range 128).filter (fun i => byteMask d i != 0)).map (fun i => (128 * line + i, l.byte i, byteMask d i))
  let s := s.homeMasked l.kid cells
  let words := ((List.range 16).filter (fun j => l.badw.getLsbD j)).map (fun j => 16 * line + j)
  let s := { s with stor := { s.stor with badWords := words ++ s.stor.badWords.filter (fun w => !words.contains w) } }
  if l.bad then { s with stor := { s.stor with poison := line :: s.stor.poison.filter (fun x => x != line) } } else s

def State.writeLine (s : State) (c line : Nat) : State :=
  match (s.core c).l1.find? line with
  | none => s
  | some l =>
    if l.dirty == 0 then s
    else (s.lineBytes line l (BitVec.allOnes 256)).modCore c (fun k =>
      { k with l1 := k.l1.put line { l with dirty := 0, joint := 0, rank := 0, via := [] } })

-- the write path

def PendW.key (w : PendW) : Nat := (w.cells.headD (0, 0, 0)).1

/-- Perform one pending write; `rest` are those that still wait. The last unit of a store that covers its whole word or line makes that
correct (11 R198, R221). -/
def State.performPend (s : State) (rest : List PendW) (w : PendW) : State :=
  let s := s.homeMasked w.kid w.cells
  let last (f : Nat → Nat) : Bool := !rest.any (fun y => y.acc == w.acc && f y.key == f w.key)
  let stor := s.stor
  { s with stor := { stor with
      badWords := if w.word && last (fun k => k / 8) then stor.badWords.filter (fun x => x != w.key / 8) else stor.badWords
      poison := if w.line && last lineOf then stor.poison.filter (fun x => x != lineOf w.key) else stor.poison } }

/-- A pending write that a pin of another core or the ferry holds back. -/
def State.heldBack (s : State) (c : Nat) (w : PendW) : Bool :=
  w.cells.any (fun x => s.ferried x.1) || (linesOf (w.cells.map (fun x => x.1))).any (s.pinnedFor c)

/-- A line whose write-back a pin of another core or the ferry holds back. -/
def State.lineHeld (s : State) (c line : Nat) : Bool := s.ferried (128 * line) || s.pinnedFor c line

def PendW.touches (w : PendW) (lines : List Nat) : Bool := w.cells.any (fun x => lines.contains (lineOf x.1))

/-- A pending write can be performed before those ahead of it: none of them touches a byte of it, stands before a fence over layer H
that it follows, both being in that layer, or is of an earlier access to SO pages of its layer while it is on one too (R247, R248,
R250). -/
def mayPass (ahead : List PendW) (w : PendW) : Bool :=
  ahead.all (fun a => !(a.so && w.so && a.acc != w.acc && a.layer == w.layer) &&
    !(a.layer == 0 && w.layer == 0 && decide (a.epoch < w.epoch)) &&
    !a.cells.any (fun x => w.cells.any (fun y => x.1 == y.1)))

/-- Dirty lines other than `but` hold a write from before fence `n` of the core. -/
def Core.oldLines (k : Core) (but n : Nat) : Bool := k.l1.any (fun x => x.1 != but && x.2.dirty != 0 && decide (x.2.first < n))

/-- The fence that the oldest write of layer H held back stands after. -/
def State.stuckAt (s : State) (c : Nat) : Option Nat :=
  let k := s.core c
  (((k.l1.filter (fun x => x.2.dirty != 0 && s.lineHeld c x.1)).map (fun x => x.2.first)) ++
    ((k.wq.filter (fun w => w.layer == 0 && s.heldBack c w)).map PendW.epoch)).min?

/-- Perform what `may` allows of the pending writes of a core, in order; `kept` stay. -/
def State.drainFrom (s : State) (c : Nat) (may : PendW → Bool) : List PendW → List PendW → State
  | kept, [] => s.modCore c (fun k => { k with wq := kept })
  | kept, w :: ws =>
    if s.heldBack c w || !may w || !mayPass kept w then State.drainFrom s c may (kept ++ [w]) ws
    else State.drainFrom (s.performPend (kept ++ ws) w) c may kept ws

/-- Perform every earlier write of the core beyond it in the layers of a mask: dirty lines and pending writes (R255). -/
def State.performIn (s : State) (c : Nat) (mask : BitVec 4) : State :=
  let stuck := s.stuckAt c
  let may (n : Nat) : Bool := match stuck with
    | some m => decide (n ≤ m)
    | none => true
  let s := if named mask 0 then
      (s.core c).l1.foldl (fun s x => if s.lineHeld c x.1 || !may x.2.last then s else s.writeLine c x.1) s
    else s
  s.drainFrom c (fun w => named mask w.layer && (w.layer != 0 || may w.epoch)) [] (s.core c).wq
def State.perform (s : State) (c : Nat) : State := s.performIn c 0xF

/-- Perform the pending writes of the layers of a mask, and the lines that a fence puts before them. -/
def State.drainIn (s : State) (c : Nat) (mask : BitVec 4) : State :=
  let k := s.core c
  if k.wq.all (fun w => !named mask w.layer) then s
  else if k.wq.any (fun w => named mask w.layer && w.layer == 0 && k.oldLines (2 ^ 64) w.epoch) then s.performIn c mask
  else s.drainFrom c (fun w => named mask w.layer) [] k.wq
def State.drain (s : State) (c : Nat) : State := s.drainIn c 0xF

/-- The core has writes to these lines that are still in its write path. -/
def Core.owes (k : Core) (lines : List Nat) : Bool := k.wq.any (fun w => w.touches lines)

/-- Its own writes to lines come before its other accesses to them (R247). -/
def State.ownFirst (s : State) (c : Nat) (lines : List Nat) : State := if (s.core c).owes lines then s.drain c else s

/-- Everything in the layers of a mask is performed. -/
def Core.settledIn (k : Core) (mask : BitVec 4) : Bool :=
  k.wq.all (fun w => !named mask w.layer) && (!named mask 0 || k.l1.all (fun x => x.2.dirty == 0))
/-- Everything is performed. -/
def Core.settled (k : Core) : Bool := k.wq.isEmpty && k.l1.all (fun x => x.2.dirty == 0)

/-- A write of line `but` from fence `n` of the core may go home: nothing that a fence puts before it still waits (R248). -/
def State.mayGo (s : State) (c but n : Nat) : Bool :=
  !(s.core c).oldLines but n && !(s.core c).wq.any (fun w => w.layer == 0 && decide (w.epoch < n))

/-- Write back and drop a line, after what a fence puts before it; its pin ends with it. -/
def State.dropLine (s : State) (c line : Nat) : State :=
  let s := match (s.core c).l1.find? line with
    | some l => if l.dirty != 0 && !s.mayGo c line l.last then s.perform c else s
    | none => s
  (s.writeLine c line).modCore c (fun k => { k with l1 := k.l1.del line })

/-- A dirty line of the core cannot go home yet: what a fence puts before it is held back. -/
def State.lineStuck (s : State) (c line : Nat) : Bool :=
  match (s.core c).l1.find? line with
  | some l =>
    if l.dirty == 0 || s.mayGo c line l.last then false
    else
      let t := s.perform c
      match (t.core c).l1.find? line with
      | some l => l.dirty != 0 && !t.mayGo c line l.last
      | none => false
  | none => false

def Core.pins (k : Core) : Nat := (k.l1.filter (fun x => x.2.pinned)).length

/-- Every pin of the core ends (R256). -/
def Core.unpin (k : Core) : Core := { k with l1 := k.l1.map (fun x => (x.1, { x.2 with pinned := false })) }

-- releases and acquires (R251, R255)

/-- The earlier writes are performed at `.quad` or `.die`: whoever of that scope reaches their lines finds them performed (R245). -/
def Core.lend (k : Core) (r : Nat) : Core :=
  { k with l1 := k.l1.map (fun x => (x.1, if x.2.dirty == 0 then x.2 else { x.2 with rank := Nat.max x.2.rank r }))
           wq := k.wq.map (fun w => if w.layer == 0 then { w with rank := Nat.max w.rank r } else w) }

/-- Writes of core `d` that a release of core `c` passes on: `c` may have synchronised with the release that performed them at a
narrower scope, so that they happen before what `c` releases (R251). -/
def Core.lentVia (k : Core) (c : Nat) : Bool :=
  k.l1.any (fun x => x.2.dirty != 0 && x.2.via.contains c) || k.wq.any (fun w => w.via.contains c)

/-- They are performed at that release's scope too. -/
def State.passOn (s : State) (c r : Nat) : State :=
  s.cores.foldl (fun s x =>
    if x.1 == c || !x.2.lentVia c then s
    else if r ≥ 3 then
      let s := (x.2.l1.filter (fun y => y.2.dirty != 0 && y.2.via.contains c)).foldl (fun s y =>
        if s.lineHeld x.1 y.1 || s.lineStuck x.1 y.1 then s else s.dropLine x.1 y.1) s
      if x.2.wq.any (fun w => w.via.contains c) then s.drain x.1 else s
    else s.modCore x.1 (fun k =>
      { k with l1 := k.l1.map (fun y => (y.1, if y.2.via.contains c then { y.2 with rank := Nat.max y.2.rank r } else y.2))
               wq := k.wq.map (fun w => if w.via.contains c then { w with rank := Nat.max w.rank r } else w) })) s

/-- A release or fence at `.pkg` or wider over the layers of a mask: once every earlier write is performed the pins end (R256). -/
def State.releaseIn (s : State) (c : Nat) (mask : BitVec 4) : State :=
  let s := (s.performIn c mask).passOn c 3
  let s := if (s.core c).settledIn mask then s.modCore c Core.unpin else s
  s.mapAllAhead (fun d _ w a => some (
    if d == c || !named mask (s.layerAt (8 * w)) then a else { a with rel := Nat.min a.rel (nearness c d) }))
def State.release (s : State) (c : Nat) : State := s.releaseIn c 0xF

/-- A release over the layers of a mask that reaches to nearness `r` is done. No core may still read an older value through a pin of
its own (R245). -/
def State.released (s : State) (c r : Nat) (mask : BitVec 4) : Bool :=
  let k := s.core c
  let held (d : Nat) (k : Core) : Bool :=
    k.l1.any (fun x => x.2.dirty != 0 && (d == c || x.2.via.contains c) && s.pinnedFor d x.1) ||
    k.wq.any (fun w => w.layer == 0 && (d == c || w.via.contains c) && (linesOf (w.cells.map (fun x => x.1))).any (s.pinnedFor d))
  if r ≥ 3 then k.settledIn mask && !s.cores.any (fun x => x.1 != c && x.2.lentVia c)
  else k.wq.all (fun w => w.layer == 0 || !named mask w.layer) &&
    (r == 0 || !s.cores.any (fun x => (x.1 == c || x.2.lentVia c) && held x.1 x.2))

/-- A release over the layers of a mask that reaches to nearness `r`. At `.core` nothing is performed beyond the core (R255), but the
slices have its writes (R244). At a wider scope the pins end once it is done (R256). -/
def State.releaseAt (s : State) (c : Nat) (e : Eng) (r : Nat) (mask : BitVec 4) : State :=
  let s := if r ≥ 3 then s.releaseIn c mask
    else
      let s := s.drainIn c (mask &&& 0x6)
      if r == 0 then s
      else
        let s := (s.modCore c (fun k => k.lend r)).passOn c r
        if s.released c r mask then s.modCore c Core.unpin else s
  s.releaseAhead c e r mask

/-- An acquire at a scope wider than `.core` drops the clean lines (R255), but for pinned ones, and the clean bytes of the others
(R251, R256). -/
def Core.dropClean (k : Core) : Core :=
  { k with l1 := (k.l1.filter (fun x => x.2.dirty != 0 || x.2.pinned)).map (fun x => (x.1, { x.2 with stale := true })) }

/-- An acquire of core `c` that reaches to nearness `r` may synchronise with the releases that performed writes at a scope that takes
in `c` (R251). -/
def State.synced (s : State) (c r : Nat) : State :=
  s.cores.foldl (fun s x =>
    let near := nearness x.1 c
    let lent (rank : Nat) (via : List Nat) : Bool := decide (near ≤ rank) && !via.contains c
    if near == 0 || r < near then s
    else if !x.2.l1.any (fun y => y.2.dirty != 0 && lent y.2.rank y.2.via) && !x.2.wq.any (fun w => lent w.rank w.via) then s
    else s.modCore x.1 (fun k =>
      { k with l1 := k.l1.map (fun y => (y.1, if y.2.dirty != 0 && lent y.2.rank y.2.via then { y.2 with via := c :: y.2.via } else y.2))
               wq := k.wq.map (fun w => if lent w.rank w.via then { w with via := c :: w.via } else w) })) s

/-- What an acquire does to the L1 of its core. -/
def State.acquireL1 (s : State) (c r : Nat) : State := if r ≥ 1 then (s.modCore c Core.dropClean).synced c r else s

def State.acquireAt (s : State) (c : Nat) (e : Eng) (r : Nat) (mask : BitVec 4) : State :=
  (s.acquireL1 c r).acquireAhead c e r mask

/-- What a fence leaves once its earlier accesses are performed: later writes of layer H follow the earlier ones (R248). -/
def State.fenced (s : State) (c : Nat) (e : Eng) (r : Nat) (mask : BitVec 4) : State :=
  let s := s.acquireAt c e r mask
  if named mask 0 then s.modCore c (fun k => { k with epoch := k.epoch + 1 }) else s

/-- Writes that cores have performed at a scope that takes in an agent are there when it reaches their lines (R245); `near` is how
near each core is to the agent, 0 for the agent itself. -/
def State.lentBy (s : State) (near : Nat → Nat) (lines : List Nat) : State :=
  s.cores.foldl (fun s x =>
    if near x.1 == 0 then s
    else
      let near := near x.1
      let own := x.2.l1.filter (fun y => y.2.rank != 0 && decide (near ≤ y.2.rank) && y.2.dirty != 0 && lines.contains y.1)
      let sent := x.2.wq.any (fun w => w.rank != 0 && decide (near ≤ w.rank) && w.touches lines)
      let s := own.foldl (fun s y => if s.lineHeld x.1 y.1 || s.lineStuck x.1 y.1 then s else s.dropLine x.1 y.1) s
      if sent then s.drain x.1 else s) s

/-- Such writes cannot come yet, so that an access of the agent to their lines waits. -/
def State.lentHeldBy (s : State) (near : Nat → Nat) (lines : List Nat) : Bool :=
  s.cores.any (fun x =>
    let near := near x.1
    near != 0 && (x.2.l1.any (fun y => y.2.rank != 0 && decide (near ≤ y.2.rank) && y.2.dirty != 0 && lines.contains y.1 &&
      (s.lineHeld x.1 y.1 || s.lineStuck x.1 y.1))))

def State.lent (s : State) (c : Nat) (lines : List Nat) : State := s.lentBy (fun d => nearness d c) lines
def State.lentHeld (s : State) (c : Nat) (lines : List Nat) : Bool := s.lentHeldBy (fun d => nearness d c) lines

/-- How near core `d` is to the copy engine that carries a command of core `c`: of its quad, whichever of its cores that is (R244). -/
def quadNear (c d : Nat) : Nat := Nat.max 1 (nearness d c)

-- filling

/-- The lines of the L1 in the set of a line. -/
def Core.inSet (k : Core) (line : Nat) : List (Nat × Line) := k.l1.filter (fun x => x.1 % k.l1Sets == line % k.l1Sets)

/-- A line of the set that can be evicted now: unpinned, and clean or free to go home. -/
def State.victim (s : State) (c line : Nat) : Option Nat :=
  (((s.core c).inSet line).find? (fun x =>
    !x.2.pinned && (x.2.dirty == 0 || (!s.lineHeld c x.1 && s.mayGo c x.1 x.2.last)))).map (fun x => x.1)

/-- Make room in the set of a line (R256): a victim among the unpinned lines, for which other writes may have to go first. Where every
way is pinned, the fence that the access needed has been made (`State.needsFence`) and the pins end; where none can go, the access has
waited (`State.roomHeld`). -/
def State.roomFor (s : State) (c line : Nat) : State :=
  if ((s.core c).inSet line).length < 16 then s
  else
    let s := if ((s.core c).inSet line).all (fun x => x.2.pinned) then s.modCore c Core.unpin else s
    match s.victim c line with
    | some x => s.dropLine c x
    | none =>
      let s := s.perform c
      match s.victim c line with
      | some x => s.dropLine c x
      | none => s

/-- The set of one of these lines, which the L1 lacks, has no room for them until a write that is held back has gone. -/
def State.roomHeld (s : State) (c : Nat) (lines : List Nat) : Bool :=
  let k := s.core c
  let fresh := lines.filter (fun l => !k.l1.has l)
  let crowd (l : Nat) : Bool := (k.inSet l).length + (fresh.filter (fun x => x % k.l1Sets == l % k.l1Sets)).length > 16
  if !fresh.any crowd then false
  else
    let t := (s.perform c).core c
    fresh.any (fun l => crowd l && (k.inSet l).length + (fresh.filter (fun x => x % k.l1Sets == l % k.l1Sets)).length >
      16 + ((t.inSet l).filter (fun x => !x.2.pinned && x.2.dirty == 0)).length)

/-- The data of a line from its home. -/
def State.lineBits (s : State) (kid line : Nat) : BitVec 1024 :=
  BitVec.ofNat 1024 (bytesBits ((List.range 128).map (fun i => s.plain kid (128 * line + i))))

/-- Bring a line into the L1 (12 R236: a fill closes the open batch). -/
def State.fill (s : State) (c kid line : Nat) : State :=
  if (s.core c).l1.has line then s
  else
    let s := (s.roomFor c line).reach [line]
    let badw := packBits ((List.range 16).map (fun j => s.stor.badWords.contains (16 * line + j)))
    let l : Line := { data := s.lineBits kid line, dirty := 0, pinned := false, kid := kid, badw := BitVec.ofNat 16 badw
                      bad := s.stor.poison.contains line, joint := 0, first := 0, last := 0, rank := 0, stale := false, via := [] }
    s.modCore c (fun k => { k with l1 := k.l1.put line l })

/-- An uncorrectable word of a clean line is fetched again from the L2 (11 R198); the bytes that the core did not write in a line it
kept over an acquire are fetched again too (R251). -/
def State.refetch (s : State) (c line : Nat) : State :=
  match (s.core c).l1.find? line with
  | none => s
  | some l =>
    if l.badw != 0 && l.dirty == 0 then s.modCore c (fun k => { k with l1 := k.l1.del line })
    else if l.stale then
      let s := s.reach [line]
      let m := (List.range 128).foldl (fun (m : Line) i => (m.put i (l.byte i) (byteMask l.dirty i))) { l with data := s.lineBits l.kid line }
      s.modCore c (fun k => { k with l1 := k.l1.put line { m with dirty := l.dirty, stale := false } })
    else s

-- whether an access can be performed now

/-- Whether a spot is served by the L1 of core `c`. -/
def State.viaL1 (s : State) (c : Nat) (x : Spot) : Bool := x.kind == .cached && (s.core c).l1On

/-- Its L1 holds the line of a key with all its bytes. -/
def Core.holds (k : Core) (key : Nat) : Bool :=
  match k.l1.find? (lineOf key) with
  | some l => !l.stale
  | none => false

/-- The keys an access must take to their home. -/
def State.outKeys (s : State) (c : Nat) (ps : List Place) : List Nat :=
  (ps.flatMap Place.spots).filterMap (fun x => if s.viaL1 c x.2 && (s.core c).holds x.1 then none else some x.1)

/-- Why an access waits: a frame in exchange (16 R293), or a line that another core pins (R256). -/
def State.keysBlocked (s : State) (c : Nat) (keys : List Nat) : Option (BitVec 8) :=
  if keys.any s.ferried then some (s.heldCode keys)
  else if (linesOf keys).any (s.pinnedFor c) then some rPinned
  else none

/-- An access at home, or to an SO page, of a line in the core's own L1 writes it back and drops it (R247, R257). -/
def State.unalias (s : State) (c : Nat) (lines : List Nat) : State :=
  lines.foldl (fun s l => if (s.core c).l1.has l then s.dropLine c l else s) s

/-- The lines of spots that the L1 does not serve. -/
def State.homeLines (s : State) (c : Nat) (ps : List Place) : List Nat :=
  linesOf ((ps.flatMap Place.spots).filterMap (fun x => if s.viaL1 c x.2 || x.2.kind == .loc then none else some x.1))

-- bytes that have not landed (06 R95)

/-- Those for which `p` holds land, whichever engine computed them. -/
def State.landWhere (s : State) (c : Nat) (p : Eng → Nat → Bool) : State :=
  let k := s.core c
  let cells := k.landing.flatMap (fun x => x.cells.filter (fun y => p x.eng y.1))
  if cells.isEmpty then s
  else
    let s := (linesOf (cells.map (fun x => x.1))).foldl State.wake (s.setMem (landCells s.mem cells))
    s.modCore c (fun k =>
      let left := k.landing.map (fun x => { x with cells := x.cells.filter (fun y => !p x.eng y.1) })
      { k with landing := left.filter (fun x => x.live || !(x.regs.isEmpty && x.cells.isEmpty)) })
def State.landLine (s : State) (c line : Nat) : State := s.landWhere c (fun _ k => lineOf k == line)

/-- Bytes stored to the scratchpad wait to land, if the member that stores them is performed so (`torn`). The open batches of their
lines are closed first. -/
def State.storeLoc (s : State) (c : Nat) (cells : List Cell) : State :=
  let k := s.core c
  if k.landing.any (fun x => x.live && x.eng == s.cur.2) then
    (s.reach (linesOf (cells.map (fun x => x.1)))).modCore c (fun k => { k with landing := k.landing.map (fun x =>
      if x.live && x.eng == s.cur.2 then { x with cells := x.cells ++ cells } else x) })
  else s.homeMasked 0 cells

-- loads

/-- A byte as core `c` reads it once its lines are filled. -/
def State.coreByte (s : State) (c kid key : Nat) (kind : PKind) : Byte :=
  match kind with
  | .loc => s.mem.read key
  | .shoal => s.plain 0 key
  | .cached =>
    match (s.core c).l1.find? (lineOf key) with
    | some l => l.byte (key % 128)
    | none => s.plain kid key
  | _ => s.plain kid key

/-- The poison cause of a byte as core `c` reads it. -/
def State.coreBad (s : State) (c key : Nat) (kind : PKind) : BitVec 4 :=
  match (if kind == .cached then (s.core c).l1.find? (lineOf key) else none) with
  | some l => if l.bad then 7 else if l.badw.getLsbD (key % 128 / 8) then 6 else 0
  | none => s.badAt key

/-- Fill what the L1 serves, reach the rest at home. -/
def State.prepare (s : State) (c kid : Nat) (ps : List Place) : State :=
  let l1Lines := linesOf ((ps.flatMap Place.spots).filterMap (fun x => if s.viaL1 c x.2 then some x.1 else none))
  let away := ps.filter (fun p => p.kind != .loc)
  let s := ((s.lent c (linesOf (s.outKeys c away))).unalias c (s.homeLines c away)).ownFirst c (linesOf (away.flatMap Place.keys))
  let s := l1Lines.foldl (fun s l => (s.refetch c l).fill c kid l) s
  s.reach (linesOf (s.outKeys c ps))

/-- One logical byte: two nibbles, each from its own place. -/
def State.placeByte (s : State) (c kid : Nat) (p : Place) : Byte :=
  if p.whole then s.coreByte c kid p.key p.kind
  else
    let nib (n : Nat) (k : PKind) : Nat := (s.coreByte c kid (n / 2) k).toNat / 16 ^ (n % 2) % 16
    BitVec.ofNat 8 (nib p.lo p.kind + 16 * nib p.hi p.hiAt.kind)

def State.placeBad (s : State) (c : Nat) (p : Place) : BitVec 4 :=
  let a := s.coreBad c (p.lo / 2) p.kind
  if a != 0 then a else s.coreBad c (p.hi / 2) p.hiAt.kind

/-- What a load of the current engine reads of a place: what was read ahead, or what stands there. -/
def State.loadByte (s : State) (c kid : Nat) (p : Place) : Byte × BitVec 4 :=
  match s.aheadByte p with
  | some b => (b, 0)
  | none => (s.placeByte c kid p, s.placeBad c p)

/-- A load of places: bytes, each with its poison cause. -/
def State.loadPlaces (s : State) (c kid : Nat) (ps : List Place) : State × List (Byte × BitVec 4) :=
  let s := s.prepare c kid ps
  (s.afterLoad c ps, ps.map (s.loadByte c kid))

-- stores

/-- A cell with the spot it lies in and the number of its unit in the access. -/
structure Aimed where
  cell : Cell
  at_  : Spot
  unit : Nat

def Aimed.key (x : Aimed) : Nat := x.cell.1

/-- Nibbles in a unit of a store (R246): `grain` in a plain buffer, an element through a view. -/
def Place.grain (p : Place) (grain : Nat) : Nat := if p.at_.view == 0 then grain else Nat.min grain p.at_.view

/-- Masked bytes of store place `i` of an access: by nibbles where they are units of their own or lie apart. -/
def placeCells (grain i : Nat) (p : Place) (b mask : Byte) : List Aimed :=
  let g := Nat.max 1 (p.grain grain)
  if p.whole && g ≥ 2 then [{ cell := (p.key, b, mask), at_ := p.at_, unit := 2 * i / g }]
  else
    let half (n v m : Nat) (x : Spot) (j : Nat) : Aimed :=
      { cell := (n / 2, BitVec.ofNat 8 (v * 16 ^ (n % 2)), BitVec.ofNat 8 (m * 16 ^ (n % 2))), at_ := x, unit := j / g }
    [half p.lo (b.toNat % 16) (mask.toNat % 16) p.at_ (2 * i), half p.hi (b.toNat / 16) (mask.toNat / 16) p.hiAt (2 * i + 1)]

/-- The units of a store (R246). -/
def unitsOf : List Aimed → List (List Aimed)
  | [] => []
  | x :: xs =>
    match unitsOf xs with
    | [] => [[x]]
    | u :: us =>
      match u.head? with
      | some y => if y.unit == x.unit then (x :: u) :: us else [x] :: u :: us
      | none => [x] :: us

/-- Store a unit into its line of the L1, pinning it under `.rel.core`; at a 65th pin the others end (R256). -/
def State.storeUnit (s : State) (c kid : Nat) (pin : Bool) (cs : List Cell) : State :=
  let line := lineOf ((cs.headD (0, 0, 0)).1)
  let s := s.fill c kid line
  s.modCore c (fun k =>
    match k.l1.find? line with
    | some l =>
      let k := if pin && !l.pinned && decide (k.pins ≥ 64) then k.unpin else k
      { k with l1 := k.l1.put line { l.putUnit cs k.epoch with pinned := l.pinned || pin } }
    | none => k)

/-- The bytes of a line that a store writes whole: `keys` are its bytes with a full mask. -/
def lineMask (keys : List Nat) (line : Nat) : BitVec 128 :=
  keys.foldl (fun m k => if lineOf k == line then m ||| (1 <<< (k % 128)) else m) 0

/-- The aligned words of a line that such bytes cover. -/
def wordMask (m : BitVec 128) : BitVec 16 :=
  BitVec.ofNat 16 (packBits ((List.range 16).map (fun j => (m >>> (8 * j)).setWidth 8 == BitVec.allOnes 8)))

/-- A store that covers a whole word or line makes what the L1 holds of it correct (11 R198, R221). -/
def Core.cure (k : Core) (keys : List Nat) : Core :=
  { k with l1 := (linesOf keys).foldl (fun l1 line => match l1.find? line with
      | some x =>
        let m := lineMask keys line
        if m == BitVec.allOnes 128 then l1.put line { x with bad := false, badw := 0, stale := false }
        else l1.put line { x with badw := x.badw &&& ~~~(wordMask m) }
      | none => l1) k.l1 }

/-- The written-range filter (12 R229). -/
def Core.record (k : Core) (pages : List Nat) : Core :=
  pages.foldl (fun k p =>
    if k.fsat || k.filter.contains p then k
    else if k.filter.length ≥ 64 then { k with fsat := true }
    else { k with filter := k.filter ++ [p] }) k

/-- The ranges that bytes of a store lie in. -/
def rangesOf (xs : List Aimed) : List Nat :=
  dedup (runs ((xs.filter (fun x => x.at_.kind != .loc)).map (fun x => x.at_.va / 4096)))

/-- A unit joins the core's write path; `full` are the bytes that its store writes with a full mask, `layer` gives the layer of a
key. -/
def Core.pend (k : Core) (kid : Nat) (layer : Nat → Nat) (full : List Nat) (u : List Aimed) : Core :=
  let sp := (u.head?.map Aimed.at_).getD { va := 0, kind := .far, page := 0 }
  let key := (u.head?.map Aimed.key).getD 0
  let m := lineMask full (lineOf key)
  { k with wq := k.wq ++ [{ cells := u.map Aimed.cell, layer := layer key, so := sp.page == 0
                            kid := if sp.kind == .shoal then 0 else kid, word := (wordMask m).getLsbD (key % 128 / 8)
                            line := m == BitVec.allOnes 128, via := [], acc := k.accNo, epoch := k.epoch, rank := 0 }] }

/-- The bytes that a store writes with a full mask. -/
def fullKeys (xs : List Aimed) : List Nat := (xs.filter (fun x => x.cell.2.2 == 0xFF)).map Aimed.key

/-- The store of bytes to places, in order: at once in the core's scratchpad; into the L1; or into the write path. A byte
whose mask is 0 is not written; a unit of a plain buffer has `grain` nibbles. -/
def State.storePlaces (s : State) (c kid grain : Nat) (xs : List (Place × Byte × Byte)) (pin : Bool) : State :=
  let cells := (xs.zipIdx.flatMap (fun x => placeCells grain x.2 x.1.1 x.1.2.1 x.1.2.2)).filter (fun x => x.cell.2.2 != 0)
  let s := s.modCore c (fun k => k.record (rangesOf cells))
  let now := cells.filter (fun x => x.at_.kind == .loc)
  let s := if now.isEmpty then s else s.storeLoc c (now.map Aimed.cell)
  let inL1 := cells.filter (fun x => s.viaL1 c x.at_)
  let s := if inL1.isEmpty then s
    else
      let lines := linesOf (inL1.map Aimed.key)
      let s := (unitsOf inL1).foldl (fun s u => s.storeUnit c kid pin (u.map Aimed.cell)) ((s.lent c lines).ownFirst c lines)
      s.modCore c (fun k => k.cure (fullKeys inL1))
  let out := cells.filter (fun x => x.at_.kind != .loc && !s.viaL1 c x.at_)
  let s := if out.isEmpty then s
    else
      let lines := linesOf (out.map Aimed.key)
      let full := fullKeys out
      let layer := s.layerAt
      ((s.lent c lines).unalias c lines).modCore c (fun k =>
        { (unitsOf out).foldl (fun k u => k.pend kid layer full u) k with accNo := k.accNo + 1 })
  s.afterStore c s.cur.2 (xs.map (fun x => x.1))

-- ordering roles (12 R226)

def Order.acquires : Order → Option Scope
  | .acq sc | .ar sc => some sc
  | _ => none

def Order.releases : Order → Option Scope
  | .rel sc | .ar sc => some sc
  | _ => none

/-- LOC and the slices are reached by agents of one core alone: every scope acts as `.core` (13 R244). -/
def roleRank (sc : Scope) (ps : List Place) : Nat :=
  match ps.head? with
  | some p => if p.kind == .loc || p.kind == .shoal then 0 else scopeRank sc
  | none => scopeRank sc

/-- A store with `.rel.core` pins (13 R256). -/
def pinsLine (o : Order) : Bool := o == .rel .core

/-- The lines of an access that its L1 serves. -/
def State.cachedLines (s : State) (c : Nat) (ps : List Place) : List Nat :=
  linesOf ((ps.flatMap Place.spots).filterMap (fun x => if s.viaL1 c x.2 then some x.1 else none))

/-- Why an access waits on what its core holds: writes that others lent it, a line that must go home first, or room in the L1. -/
def State.blockedOn (s : State) (c : Nat) (ps : List Place) : Option (BitVec 8) :=
  let away := ps.filter (fun p => p.kind != .loc)
  match s.keysBlocked c (s.outKeys c ps) with
  | some r => some r
  | none =>
    if (s.homeLines c away).any (s.lineStuck c) || s.lentHeld c (linesOf (s.outKeys c away)) || s.roomHeld c (s.cachedLines c away) then some rPinned
    else none

/-- The access would pin a 65th line, or allocate in a set whose every way holds a pinned line: a FENCE at `.pkg` comes before it
(R256). -/
def State.needsFence (s : State) (c : Nat) (pin : Bool) (ps : List Place) : Bool :=
  let k := s.core c
  if !pin && decide (k.pins < 16) then false
  else
    let lines := s.cachedLines c ps
    let fresh := lines.filter (fun l => match k.l1.find? l with
      | some x => !x.pinned
      | none => true)
    (pin && decide (k.pins + fresh.length > 64)) ||
      lines.any (fun l => !k.l1.has l && decide ((k.l1.filter (fun x => x.2.pinned && x.1 % k.l1Sets == l % k.l1Sets)).length ≥ 16))

end Sys2Proof.Machine
end

