-- ==== Sys2Proof/Machine/Atomic.lean ====
section
/-! DEFINITION. Atomics at their place of performance (12 R233 to R238, 13 R257) and barrier objects (12 R240 to R242, R387,
R389). -/

namespace Sys2Proof.Machine

/-- Before an atomic, the issuing core's copy of the line is written back and dropped, and its own pending writes to the
line are performed (R257, R247), as are those lent to it (R245); bytes of its scratchpad that have not landed land (06 R95). -/
def State.toHome (s : State) (c line : Nat) : State := (((s.landLine c line).lent c [line]).unalias c [line]).ownFirst c [line]

/-- Host memory does not merge (R237). -/
def merges (key : Nat) : Bool := key / 2 ^ 48 != 0x10

/-- A reduction joins the open batch of its line or opens one (R236); the answer is what its member returns: the same
computation over the old value and the members before it. `by_` names the giver of a non-returning one. -/
def State.reduce (s : State) (kid key : Nat) (op : AmoOp) (t : Ty) (x : Word) (by_ : Option Giver) : State × Nat :=
  let line := lineOf key
  let ty := redTy t
  let n := ty.width / 8
  let joins := match s.stor.batches.find? line with
    | some b => b.op == op && b.ty == ty && b.kid == kid
    | none => false
  let s := if joins then s else s.reach [line]
  let old := s.homeNat kid key n
  if !merges key then (s.putHome kid (natCells key n (batchVal op ty old [x.toNat])), old)
  else
    let b := s.stor.batches.get line { op := op, ty := ty, ops := [], kid := kid }
    let got := batchVal op ty old (opsAt b.ops key)
    ({ s with stor := { s.stor with batches := s.stor.batches.put line { b with ops := b.ops ++ [(key, x, by_)] } } }, got)

/-- One atomic on `n` bytes: what it returns, or the cause of storage that cannot be corrected, in which case it writes
nothing (R238). -/
def State.atomic (s : State) (c kid key : Nat) (op : AmoOp) (t : Ty) (x : Word) (by_ : Option Giver) : State × Except (BitVec 4) Nat :=
  let s := (s.toHome c (lineOf key)).rebuild (lineOf key)
  let bad := s.badAt key
  if bad != 0 then (s.reach [lineOf key], .error bad)
  else
    match op with
    | .swap =>
      let s := s.reach [lineOf key]
      let old := s.homeNat kid key (t.width / 8)
      (s.putHome kid (natCells key (t.width / 8) x.toNat), .ok old)
    | _ =>
      let (s, old) := s.reduce kid key op t x by_
      (s, .ok old)

/-- CAS (R234). -/
def State.compareSwap (s : State) (c kid key n : Nat) (expect x : Nat) : State × Except (BitVec 4) Nat :=
  let s := (s.toHome c (lineOf key)).reach [lineOf key]
  let bad := s.badAt key
  if bad != 0 then (s, .error bad)
  else
    let old := s.homeNat kid key n
    (if old == expect % 2 ^ (8 * n) then s.putHome kid (natCells key n x) else s, .ok old)

-- barrier objects

/-- Word 0 and word 1 of an object (R240). -/
structure BoVal where
  phase  : Nat
  expect : Nat
  flips  : Nat
  pend   : Nat
deriving DecidableEq, Repr

def BoVal.ofWords (w0 w1 : Word) : BoVal :=
  { phase := bitsOf w0 63 1, expect := bitsOf w0 0 48, flips := bitsOf w1 48 16, pend := bitsOf w1 0 48 }
def BoVal.word0 (b : BoVal) : Word := mkWord [(63, 1, b.phase), (0, 48, b.expect)]
def BoVal.word1 (b : BoVal) : Word := mkWord [(48, 16, b.flips), (0, 48, b.pend)]

/-- The test of R241: at most one flip. -/
def BoVal.test (b : BoVal) : BoVal :=
  if b.expect != 0 && b.pend ≥ b.expect then
    { b with pend := b.pend - b.expect, phase := 1 - b.phase, flips := (b.flips + 1) % 65536 }
  else b

/-- A credit of `n` bytes (R241). -/
def BoVal.credit (b : BoVal) (n : Nat) : BoVal := { b with pend := (b.pend + n % 2 ^ 48) % 2 ^ 48 }.test
/-- BOARM (R242). -/
def BoVal.arm (b : BoVal) (n : Nat) : BoVal := { b with expect := n % 2 ^ 48 }.test

def State.boAt (s : State) (kid key : Nat) : BoVal :=
  BoVal.ofWords (leWord ((List.range 8).map (fun i => s.plain kid (key + i))))
    (leWord ((List.range 8).map (fun i => s.plain kid (key + 8 + i))))

def State.boBad (s : State) (key : Nat) : Bool := s.badAt key != 0 || s.badAt (key + 8) != 0

def State.boPut (s : State) (kid key : Nat) (b : BoVal) : State :=
  s.putHome kid (natCells key 8 b.word0.toNat ++ natCells (key + 8) 8 b.word1.toNat)

/-- One operation on a whole object at its home; uncorrectable storage is left as it is and reported (R387). -/
def State.boOp (s : State) (kid key : Nat) (i : EvInfo) (buf off : Nat) (f : BoVal → BoVal) : State :=
  let s := s.reach [lineOf key]
  if s.boBad key then s.memErr i buf off
  else s.boPut kid key (f (s.boAt kid key))

/-- How a barrier object is checked (R240, R224, R388). -/
def boForm (need : Need) : Form := { need := need, es := 16, align := 16, noView := true }

/-- The key of an object after the checks of R209, for an agent. -/
def State.boKey (s : State) (w : Who) (buf off : Nat) (need : Need) : State × Except Fail Nat :=
  let (s, r) := s.access w buf (boForm need) [(off : Int)]
  match r with
  | .error x => (s, .error x.fail)
  | .ok es => (s, .ok ((es.headD []).head?.map Place.key |>.getD 0))

/-- An exchange holds a table that a check of an object reads (16 R293). -/
def State.boHeld (s : State) (w : Who) (buf off : Nat) : Bool := s.tablesHeld w buf (boForm (.atomic false)) [(off : Int)]

/-- What became of a credit that an agent makes (R389). -/
inductive Credit where
  | made
  | held       -- another core pins the line, or the ferry holds it: retried (13 R256)
  | waits      -- a translation fault: page service
  | refused (check cause : Nat)    -- another check
deriving DecidableEq, Repr

/-- A credit by an agent without an instruction (R389): source 1 task end, 2 reuse skip, 3 granule, 4 collective. `amount` is
its size by the object as it stands. A quad's copy engine is an agent of its quad (13 R244): what a core performed there at `.quad` is
there (13 R245). A credit but of a granule is a release to all (13 R259). -/
def State.creditBy (s : State) (w : Who) (source buf off : Nat) (amount : BoVal → Nat) (i : EvInfo) (tag : Word) :
    State × Credit :=
  if s.boHeld w buf off then (s, .held)
  else
  let (s, r) := s.boKey w buf off (.atomic false)
  match r with
  | .ok key =>
    if s.ferried key || s.pinnedFor 256 (lineOf key) || (source == 3 && s.lentHeldBy (quadNear w.core) [lineOf key]) then (s, .held)
    else
      let s := if source == 3 then s.lentBy (quadNear w.core) [lineOf key] else s
      let s := if source == 3 then s
        else (s.reach [lineOf key]).creditAllAhead key (s.boAt (w.kid.getD 0) key).flips (fun _ => true)
      (s.boOp (w.kid.getD 0) key { i with core := 0, eng := 0, pc := 0, x30 := 0 } buf off (fun b => b.credit (amount b)), .made)
  | .error f =>
    if f.cause == 1 then
      (s.post { i with kind := 1, cause := cTransl, core := 0, eng := 0, pc := 0, buf := buf, off := off, x30 := tag }, .waits)
    else
      (s.post { i with kind := 15, core := 0, eng := 0, pc := 0, buf := buf, off := off, x30 := tag,
                       detail := mkWord [(0, 8, source), (8, 4, f.check), (12, 4, f.cause)] }, .refused f.check f.cause)

def State.agentCredit (s : State) (w : Who) (source buf off bytes : Nat) (i : EvInfo) (tag : Word) : State × Credit :=
  s.creditBy w source buf off (fun _ => bytes) i tag

end Sys2Proof.Machine
end

