-- ==== Sys2Proof/Machine/Lanes.lean ====
section
/-! DEFINITION. The lane model: elements of a vector register (02 R29), predicates and active lanes (06 R97, R98), poison
(R99, R102) and the write of a vector or predicate result. -/

namespace Sys2Proof.Machine

/-- One source element: its bits and whether its lane is poisoned (R99). -/
structure El where
  bits : Nat
  bad  : Bool
deriving DecidableEq, Repr

/-- One result element: `none` where it is inactive, else its bits, its poison and its flags. -/
structure Res where
  bits  : Nat
  bad   : Bool
  flags : FlagSet
deriving DecidableEq, Repr

def Res.ok (p : Nat × FlagSet) : Res := { bits := p.1, bad := false, flags := p.2 }
/-- A poisoned result carries data 0 and no flag (R102). -/
def Res.poisoned : Res := { bits := 0, bad := true, flags := 0 }
/-- A result that moves an element. -/
def Res.ofEl (x : El) : Res := if x.bad then .poisoned else { bits := x.bits, bad := false, flags := 0 }

/-- `n` consecutive fields of `w` bits, the lowest first. -/
def fields (w : Nat) : Nat → Nat → List Nat
  | 0, _ => []
  | n + 1, x => x % 2 ^ w :: fields w n (x / 2 ^ w)

/-- The inverse of `fields`. -/
def packFields (w : Nat) : List Nat → Nat
  | [] => 0
  | x :: xs => x % 2 ^ w + 2 ^ w * packFields w xs

def bitList : Nat → Nat → List Bool
  | 0, _ => []
  | n + 1, x => (x % 2 == 1) :: bitList n (x / 2)

/-- Poison of each element: of its lane, or of either of its lanes at 64 bits (R99). -/
def elemPoison (w : Nat) (p : BitVec 256) : List Bool :=
  if w == 64 then (fields 2 128 p.toNat).map (fun x => x != 0)
  else (bitList 256 p.toNat).flatMap (fun b => List.replicate (32 / w) b)

def zipEl : List Nat → List Bool → List El
  | x :: xs, b :: bs => { bits := x, bad := b } :: zipEl xs bs
  | _, _ => []

/-- The elements of a register at width `w`. -/
def VVal.els (w : Nat) (v : VVal) : List El := zipEl (fields w (8192 / w) v.data.toNat) (elemPoison w v.poison)

/-- A broadcast scalar (R106): its low `w` bits in every lane, its poison in every lane. -/
def SVal.bcast (w : Nat) (v : SVal) : List El :=
  List.replicate (8192 / w) { bits := v.val.toNat % 2 ^ w, bad := v.poison }

/-- A predicate read at width `w` (R97). -/
def predLanes (w : Nat) (p : PBits) : List Bool :=
  if w == 4 then (bitList 1024 p.toNat).flatMap (fun b => [b, b])
  else (fields (w / 8) (8192 / w) p.toNat).map (fun x => x % 2 == 1)

/-- Active lanes under a guard (R98). -/
def activeLanes (w : Nat) (g : PBits) (neg : Bool) : List Bool := (predLanes w g).map (fun b => b != neg)

def allActive (w : Nat) : List Bool := List.replicate (8192 / w) true

def orPairs : List Bool → List Bool
  | a :: b :: xs => (a || b) :: orPairs xs
  | _ => []

def pickBits : List Bool → List Bool → List Bool → List Bool
  | a :: as, n :: ns, o :: os => (if a then n else o) :: pickBits as ns os
  | _, _, _ => []

/-- A predicate written at width `w` on the active lanes (R97): every bit of an element's bytes, or at E2M1 the OR of the
two lanes of a byte. -/
def predWrite (w : Nat) (old : PBits) (act res : List Bool) : PBits :=
  let spread (xs : List Bool) : List Bool :=
    if w == 4 then orPairs xs else xs.flatMap (fun b => List.replicate (w / 8) b)
  BitVec.ofNat 1024 (packBits (pickBits (spread act) (spread res) (bitList 1024 old.toNat)))

/-- Results on the active lanes only. -/
def maskRes : List Bool → List Res → List (Option Res)
  | a :: as, r :: rs => (if a then some r else none) :: maskRes as rs
  | _, _ => []

/-- One 32-bit lane from its elements of `w ≤ 32` bits (R98, R102): a poisoned active element poisons the lane and clears
all its data; a lane with every element active loses its old poison. -/
def laneOf (w : Nat) (oldData : Nat) (oldBad : Bool) (rs : List (Option Res)) : Nat × Bool :=
  if rs.any (fun r => r.any Res.bad) then (0, true)
  else
    let data := packFields w ((fields w (32 / w) oldData).zipWith (fun o r => (r.map Res.bits).getD o) rs)
    (data, oldBad && rs.any Option.isNone)

def lanesOf (w : Nat) : List El → List (Option Res) → List (Nat × Bool)
  | [], _ => []
  | o :: os, rs => laneOf w o.bits o.bad (rs.take (32 / w)) :: lanesOf w os (rs.drop (32 / w))

/-- Elements of 64 bits cover two lanes each. -/
def lanes64 : List El → List (Option Res) → List (Nat × Bool)
  | lo :: hi :: os, r :: rs =>
    match r with
    | none => (lo.bits, lo.bad) :: (hi.bits, hi.bad) :: lanes64 os rs
    | some r =>
      if r.bad then (0, true) :: (0, true) :: lanes64 os rs
      else (r.bits % 2 ^ 32, false) :: (r.bits / 2 ^ 32, false) :: lanes64 os rs
  | _, _ => []

def orFlags : List (Option Res) → FlagSet
  | [] => 0
  | none :: rs => orFlags rs
  | some r :: rs => r.flags ||| orFlags rs

/-- The write of a vector result (R98, R99, R102): data and poison lane by lane; the cause field takes `cause` where a
written element is poisoned, keeps its value where only kept lanes are poisoned, and is 0 where none is. A clean narrow element raises its flags also where it shares
a lane with a poisoned one (DESIGN CHOICE, LOG 66). -/
def vwrite (w : Nat) (old : VVal) (rs : List (Option Res)) (cause : BitVec 4) : VVal × FlagSet :=
  let lanes := if w == 64 then lanes64 (old.els 32) rs else lanesOf w (old.els 32) rs
  let poison := BitVec.ofNat 256 (packBits (lanes.map (fun l => l.2)))
  let fresh := rs.any (fun r => r.any Res.bad)
  ({ data := BitVec.ofNat 8192 (packFields 32 (lanes.map (fun l => l.1)))
     poison := poison
     cause := if fresh then cause else if poison == 0 then 0 else old.cause }, orFlags rs)

/-- Whether an operand has a poisoned element that an active result reads. -/
def readsBad : List Bool → List El → Bool
  | a :: as, x :: xs => (a && x.bad) || readsBad as xs
  | _, _ => false

/-- The cause of a poisoned result: that of the first operand, in the order A, B, C, that brings poison (R102). -/
def firstCause : List (Bool × BitVec 4) → BitVec 4
  | [] => 0
  | (b, c) :: xs => if b then c else firstCause xs

/-- An operand as a lane word reads it: its elements and its cause field. -/
structure Operand where
  els   : List El
  cause : BitVec 4
deriving DecidableEq, Repr

def VVal.operand (w : Nat) (v : VVal) : Operand := { els := v.els w, cause := v.cause }
def SVal.operand (w : Nat) (v : SVal) : Operand := { els := v.bcast w, cause := v.cause }

def lane1 (f : Nat → Nat × FlagSet) : List El → List Res
  | [] => []
  | x :: xs => (if x.bad then Res.poisoned else .ok (f x.bits)) :: lane1 f xs

def lane2 (f : Nat → Nat → Nat × FlagSet) : List El → List El → List Res
  | x :: xs, y :: ys => (if x.bad || y.bad then Res.poisoned else .ok (f x.bits y.bits)) :: lane2 f xs ys
  | _, _ => []

def lane3 (f : Nat → Nat → Nat → Nat × FlagSet) : List El → List El → List El → List Res
  | x :: xs, y :: ys, z :: zs =>
    (if x.bad || y.bad || z.bad then Res.poisoned else .ok (f x.bits y.bits z.bits)) :: lane3 f xs ys zs
  | _, _, _ => []

/-- The lane model of R105 with one, two and three sources: `old` is what the destination held. -/
def vmap1 (w : Nat) (old : VVal) (act : List Bool) (a : Operand) (f : Nat → Nat × FlagSet) : VVal × FlagSet :=
  vwrite w old (maskRes act (lane1 f a.els)) (firstCause [(readsBad act a.els, a.cause)])

def vmap2 (w : Nat) (old : VVal) (act : List Bool) (a b : Operand) (f : Nat → Nat → Nat × FlagSet) : VVal × FlagSet :=
  vwrite w old (maskRes act (lane2 f a.els b.els))
    (firstCause [(readsBad act a.els, a.cause), (readsBad act b.els, b.cause)])

def vmap3 (w : Nat) (old : VVal) (act : List Bool) (a b c : Operand) (f : Nat → Nat → Nat → Nat × FlagSet) :
    VVal × FlagSet :=
  vwrite w old (maskRes act (lane3 f a.els b.els c.els))
    (firstCause [(readsBad act a.els, a.cause), (readsBad act b.els, b.cause), (readsBad act c.els, c.cause)])

/-- A 32-bit lane holds an active element of width `w`. -/
def laneActive (w : Nat) (act : List Bool) (l : Nat) : Bool := ((act.drop (l * 32 / w)).take (Nat.max 1 (32 / w))).any id

/-- The lowest 32-bit lane with an active element, and the lowest that is poisoned (18 R310). -/
def activeLane (w : Nat) (act : List Bool) : Option Nat := (List.range 256).find? (laneActive w act)
def badLane (w : Nat) (act : List Bool) (v : VVal) : Option Nat :=
  (List.range 256).find? (fun l => v.poison.getLsbD l && laneActive w act l)

end Sys2Proof.Machine
end

