-- ==== Sys2Proof/Machine/Transcendental.lean ====
section
/-! DEFINITION. Reciprocal, roots and transcendental functions, correctly rounded (07 R115). A value is ± (m + ε) · 2^e
with 0 < ε < 1 where `sticky`; the irrational ones are summed in fixed point far past the bits a rounding needs
(notes/assumptions/20). -/

namespace Sys2Proof.Machine

/-- A positive value, exact unless `sticky`. -/
structure Approx where
  neg    : Bool
  m      : Nat
  e      : Int
  sticky : Bool
deriving DecidableEq, Repr

/-- Integer square root by bisection over `fuel` bits. -/
def isqrtAux (n : Nat) : Nat → Nat → Nat
  | 0, r => r
  | k + 1, r =>
    let c := r + 2 ^ k
    isqrtAux n k (if c * c ≤ n then c else r)

def isqrt (n : Nat) : Nat := isqrtAux n (Nat.log2 n / 2 + 1) 0

/-- 1 / (m · 2^e), m > 0. -/
def rcpVal (neg : Bool) (m : Nat) (e : Int) : Approx :=
  let k := Nat.log2 m + 80
  { neg := neg, m := 2 ^ k / m, e := -(k : Int) - e, sticky := 2 ^ k % m != 0 }

/-- The exponent made even by moving one bit into the significand. -/
def evenExp (m : Nat) (e : Int) : Nat × Int := if e % 2 == 0 then (m, e) else (2 * m, e - 1)

def sqrtVal (m : Nat) (e : Int) : Approx :=
  let (m, e) := evenExp m e
  let n := m * 2 ^ 160
  let r := isqrt n
  { neg := false, m := r, e := e / 2 - 80, sticky := r * r != n }

def rsqrtVal (m : Nat) (e : Int) : Approx :=
  let (m, e) := evenExp m e
  let k := 2 * (Nat.log2 m + 80)
  let r := isqrt (2 ^ k / m)
  { neg := false, m := r, e := -(e / 2) - (k / 2 : Nat), sticky := r * r * m != 2 ^ k }

/-- Fractional bits of the exponential and logarithm. -/
def fxF : Nat := 320
/-- Fractional bits of the trigonometric functions; arguments reach 2^128. -/
def fxG : Nat := 704

/-- ln 2 = Σ 1 / (k · 2^k), scaled by 2^fxF. -/
def ln2Sum : Nat → Nat
  | 0 => 0
  | k + 1 => ln2Sum k + 2 ^ (fxF + 32) / ((k + 1) * 2 ^ (k + 1))

def ln2Fx : Nat := ln2Sum 352 / 2 ^ 32

/-- Σ r^k / k! for 0 ≤ r < 1 scaled by 2^fxF. -/
def expSum (r : Nat) : Nat → Nat → Nat → Nat → Nat
  | 0, _, _, acc => acc
  | n + 1, k, term, acc =>
    let t := term * r / 2 ^ fxF / k
    expSum r n (k + 1) t (acc + t)

def expFrac (r : Nat) : Nat := expSum r 120 1 (2 ^ fxF) (2 ^ fxF)

/-- ± m · 2^e as a fixed-point integer with `f` fractional bits, rounded down. -/
def toFx (f : Nat) (neg : Bool) (m : Nat) (e : Int) : Int :=
  let k := e + f
  let v : Int := if k ≥ 0 then (m * 2 ^ k.toNat : Nat) else (m / 2 ^ (-k).toNat : Nat)
  if neg then -v else v

/-- 2^x for x scaled by 2^fxF. -/
def exp2Fx (x : Int) : Approx :=
  let n := x / (2 ^ fxF : Int)
  let f := (x % (2 ^ fxF : Int)).toNat
  { neg := false, m := expFrac (f * ln2Fx / 2 ^ fxF), e := n - fxF, sticky := true }

/-- e^x for x ≥ 0 scaled by 2^fxF, itself scaled by 2^fxF. -/
def expFx (x : Nat) : Nat :=
  let n := x / ln2Fx
  expFrac (x - n * ln2Fx) * 2 ^ n

/-- Below 2^-30 each function is its first term, moved by less than any rounding can see. -/
def isSmall (m : Nat) (e : Int) : Bool := (Nat.log2 m : Int) + e < -30

def isLarge (m : Nat) (e : Int) (k : Int) : Bool := (Nat.log2 m : Int) + e ≥ k

def justBelow (neg : Bool) (m : Nat) (e : Int) : Approx :=
  { neg := neg, m := m * 2 ^ 64 - 1, e := e - 64, sticky := true }
def justAbove (neg : Bool) (m : Nat) (e : Int) : Approx :=
  { neg := neg, m := m * 2 ^ 64, e := e - 64, sticky := true }

/-- 2^x, x not zero; exact where x is an integer. -/
def exp2Val (neg : Bool) (m : Nat) (e : Int) : Approx :=
  if isSmall m e then (if neg then justBelow false 1 0 else justAbove false 1 0)
  else if isLarge m e 12 then
    if neg then { neg := false, m := 1, e := -4000, sticky := true }
    else { neg := false, m := 1, e := 4000, sticky := false }
  else
    let x := toFx fxF neg m e
    if x % (2 ^ fxF : Int) == 0 then { neg := false, m := 1, e := x / (2 ^ fxF : Int), sticky := false }
    else exp2Fx x

/-- Σ t^(2k+1) / (2k+1), for atanh. -/
def atanhSum (t2 : Nat) : Nat → Nat → Nat → Nat → Nat
  | 0, _, _, acc => acc
  | n + 1, k, pw, acc => atanhSum t2 n (k + 2) (pw * t2 / 2 ^ fxF) (acc + pw / k)

/-- log2 of m · 2^e, m > 0. -/
def log2Val (m : Nat) (e : Int) : Approx :=
  let l := Nat.log2 m
  let whole : Int := (l : Int) + e
  if m == 2 ^ l then { neg := whole < 0, m := whole.natAbs, e := 0, sticky := false }
  else
    let z := m * 2 ^ fxF / 2 ^ l
    let t := (z - 2 ^ fxF) * 2 ^ fxF / (z + 2 ^ fxF)
    let lnz := 2 * atanhSum (t * t / 2 ^ fxF) 110 1 t 0
    let v : Int := whole * (2 ^ fxF : Int) + (lnz * 2 ^ fxF / ln2Fx : Nat)
    { neg := v < 0, m := v.natAbs, e := -(fxF : Int), sticky := true }

/-- arctan(1/n) scaled by 2^fxG: terms of alternating sign. -/
def atanInvSum (n2 : Nat) : Nat → Nat → Nat → Int → Int
  | 0, _, _, acc => acc
  | f + 1, k, pw, acc =>
    let t : Int := (pw / k : Nat)
    atanInvSum n2 f (k + 2) (pw / n2) (if k % 4 == 1 then acc + t else acc - t)

def atanInv (n : Nat) : Int := atanInvSum (n * n) 170 1 (2 ^ fxG / n) 0

/-- π / 2 by Machin's formula, scaled by 2^fxG. -/
def halfPiFx : Nat := ((16 * atanInv 5 - 4 * atanInv 239) / 2).toNat

/-- Alternating power series from `term` at step `k`: sine from (r, 2), cosine from (1, 1). -/
def trigSum (r2 : Nat) : Nat → Nat → Nat → Bool → Int → Int
  | 0, _, _, _, acc => acc
  | f + 1, k, term, neg, acc =>
    let t := term * r2 / 2 ^ fxG / (k * (k + 1))
    trigSum r2 f (k + 2) t (!neg) (if neg then acc - t else acc + t)

def sinFx (r : Nat) : Nat := (trigSum (r * r / 2 ^ fxG) 90 2 r true r).toNat
def cosFx (r : Nat) : Nat := (trigSum (r * r / 2 ^ fxG) 90 1 (2 ^ fxG) true (2 ^ fxG : Nat)).toNat

/-- Quadrant and remainder of a positive argument, reduced exactly (R115). -/
def reduceArg (m : Nat) (e : Int) : Nat × Nat :=
  let x := (toFx fxG false m e).toNat
  (x / halfPiFx % 4, x % halfPiFx)

def sinVal (neg : Bool) (m : Nat) (e : Int) : Approx :=
  if isSmall m e then justBelow neg m e
  else
    let (q, r) := reduceArg m e
    let v := if q % 2 == 0 then sinFx r else cosFx r
    { neg := neg != (q ≥ 2), m := v, e := -(fxG : Int), sticky := true }

def cosVal (m : Nat) (e : Int) : Approx :=
  if isSmall m e then justBelow false 1 0
  else
    let (q, r) := reduceArg m e
    let v := if q % 2 == 0 then cosFx r else sinFx r
    { neg := q == 1 || q == 2, m := v, e := -(fxG : Int), sticky := true }

def tanhVal (neg : Bool) (m : Nat) (e : Int) : Approx :=
  if isSmall m e then justBelow neg m e
  else if isLarge m e 7 then justBelow neg 1 0
  else
    let x2 := expFx (toFx fxF false (2 * m) e).toNat
    { neg := neg, m := (x2 - 2 ^ fxF) * 2 ^ fxF / (x2 + 2 ^ fxF), e := -(fxF : Int), sticky := true }

def sigVal (neg : Bool) (m : Nat) (e : Int) : Approx :=
  if isSmall m e then (if neg then justBelow false 1 (-1) else justAbove false 1 (-1))
  else if isLarge m e 8 then
    if neg then { neg := false, m := 1, e := -300, sticky := true } else justBelow false 1 0
  else
    let x := expFx (toFx fxF false m e).toNat
    let num := if neg then 2 ^ fxF else x
    { neg := false, m := num * 2 ^ (2 * fxF) / (x + 2 ^ fxF), e := -((2 * fxF : Nat) : Int), sticky := true }

/-- The nine functions of R115. -/
inductive Fun where
  | rcp | rsq | sqrt | exp2 | log2 | sin | cos | tanh | sig
deriving DecidableEq, Repr

/-- The table of R115 and the exact values behind it: the result before delivery, with the flag the row shows. -/
def Fun.apply (g : Fun) (x : FVal) : (FVal ⊕ Approx) × FlagSet :=
  let one : FVal := .fin false 1 0
  let zero (n : Bool) : FVal := .fin n 0 0
  match x with
  | .nan s => (.inl (.nan s), 0)
  | .inf true =>
    match g with
    | .rcp => (.inl (zero true), 0)
    | .exp2 | .sig => (.inl (zero false), 0)
    | .tanh => (.inl one.neg, 0)
    | _ => (.inl (.nan false), fNV)
  | .inf false =>
    match g with
    | .rcp | .rsq => (.inl (zero false), 0)
    | .sqrt | .exp2 | .log2 => (.inl (.inf false), 0)
    | .tanh | .sig => (.inl one, 0)
    | _ => (.inl (.nan false), fNV)
  | .fin neg m e =>
    if m == 0 then
      match g with
      | .rcp | .rsq => (.inl (.inf neg), fDZ)
      | .sqrt | .sin | .tanh => (.inl (zero neg), 0)
      | .exp2 | .cos => (.inl one, 0)
      | .log2 => (.inl (.inf true), fDZ)
      | .sig => (.inl (.fin false 1 (-1)), 0)
    else
      match g with
      | .rcp => (.inr (rcpVal neg m e), 0)
      | .rsq => if neg then (.inl (.nan false), fNV) else (.inr (rsqrtVal m e), 0)
      | .sqrt => if neg then (.inl (.nan false), fNV) else (.inr (sqrtVal m e), 0)
      | .exp2 => (.inr (exp2Val neg m e), 0)
      | .log2 => if neg then (.inl (.nan false), fNV) else (.inr (log2Val m e), 0)
      | .sin => (.inr (sinVal neg m e), 0)
      | .cos => (.inr (cosVal m e), 0)
      | .tanh => (.inr (tanhVal neg m e), 0)
      | .sig => (.inr (sigVal neg m e), 0)

/-- One element of a word of R115. -/
def Fun.elem (g : Fun) (f : FFmt) (mode : Rnd) (sat : Bool) (bits : Nat) : Nat × FlagSet :=
  match g.apply (f.read bits) with
  | (.inl v, fl) =>
    let (r, fl') := f.deliver mode sat v
    (r, fl ||| fl')
  | (.inr a, fl) =>
    let (r, fl') := f.round mode sat a.neg a.m a.e a.sticky
    (r, fl ||| fl')

end Sys2Proof.Machine
end

