-- ==== Sys2Proof/Machine/MatrixMath.lean ====
section
/-! DEFINITION. What the matrix array computes (09 R146, R147, R160, R162; 02 R40). -/

namespace Sys2Proof.Machine

/-- Element bits of a type code of R146. -/
def mBits (code : Nat) : Nat := if code == 3 || code == 4 then 16 else if code == 6 then 4 else 8

def mIsMx (code : Nat) : Bool := code == 5 || code == 6

/-- The value of one matrix operand: I8 is exact, MXFP8 elements are E4M3, MXFP4 elements E2M1 (R147). -/
def mVal (code bits : Nat) : FVal :=
  match code with
  | 1 => FFmt.e5m2.read bits
  | 2 => fvalOfInt (readInt true 8 bits)
  | 3 => FFmt.bf16.read bits
  | 4 => FFmt.f16.read bits
  | 6 => FFmt.e2m1.read bits
  | _ => FFmt.e4m3.read bits

/-- The pairs of R146. -/
def mPairOk (acode wcode : Nat) : Bool :=
  ((acode == 0 || acode == 1 || acode == 5) && (wcode == 0 || wcode == 1 || wcode == 5 || wcode == 6)) ||
  (acode == 2 && wcode == 2) || (acode == 3 && wcode == 3) || (acode == 4 && wcode == 4)

/-- Tile depth K and k-blocks nb (R146). -/
def mDepth (wcode : Nat) : Nat := if wcode == 6 then 512 else 256
def mBlocks (wcode : Nat) : Nat := mDepth wcode / 32

/-- Bytes of a weight tile and of one of its k-blocks (R147). -/
def mTileBytes (wcode : Nat) : Nat := mDepth wcode * 256 * mBits wcode / 8
def mBlockBytes (wcode : Nat) : Nat := 32 * 256 * mBits wcode / 8

/-- Rows per register of an activation operand (R147). -/
def mRho (acode wcode : Nat) : Nat := if mBits acode == 16 || wcode == 6 then 2 else 4

/-- Column `col` of a weight block: 32 elements, row k at element k × 256 + col. -/
def blockCol (wcode : Nat) (blk : Nat) (col : Nat) : Nat → Nat → List FVal
  | 0, _ => []
  | n + 1, k => mVal wcode (blk / 2 ^ (mBits wcode * (256 * k + col)) % 2 ^ mBits wcode) :: blockCol wcode blk col n (k + 1)

/-- The 32 activation elements of block `j` of a row whose first bit is at `bit` of `data`. -/
def rowBlock (acode data bit j : Nat) : List FVal :=
  (fields (mBits acode) 32 (data / 2 ^ (bit + mBits acode * 32 * j))).map (mVal acode)

/-- The exponent both scales add; `none` when either is the NaN code; 0 where neither operand is MX (R40, R147). -/
def scaleSum (ea eb : Nat) : Option Int := if ea == 0xFF || eb == 0xFF then none else some ((ea : Int) + eb - 254)

/-- One k-block applied to the 256 columns of one accumulator row. -/
def mmaRow (wcode : Nat) (as : List FVal) (blk : Nat) (ea : Nat) (ebs : List Nat) (cs : List Nat) : Nat → List Nat × FlagSet
  | 0 => ([], 0)
  | n + 1 =>
    let col := 256 - (n + 1)
    let (r, fl) := blockMac (as.zip (blockCol wcode blk col 32 0)) (scaleSum ea (ebs.getD col 127)) (cs.getD col 0)
    let (rs, fls) := mmaRow wcode as blk ea ebs cs n
    (r :: rs, fl ||| fls)

/-- One accumulator element delivered by a drain (R162): DTYPE 0 FP32, 1 BF16, 2 FP16. An FP32 drain is exact. -/
def drainElem (dtype : Nat) (mode : Rnd) (sat : Bool) (c : Nat) : Nat × FlagSet :=
  if dtype == 1 then FFmt.bf16.deliver mode sat (FFmt.f32.read c)
  else if dtype == 2 then FFmt.f16.deliver mode sat (FFmt.f32.read c)
  else (c, 0)

/-- A drained row as packed bits. -/
def drainRow (dtype : Nat) (mode : Rnd) (sat : Bool) (row : Nat) : Nat × FlagSet :=
  let rs := (fields 32 256 row).map (drainElem dtype mode sat)
  (packFields (if dtype == 0 then 32 else 16) (rs.map (fun r => r.1)), rs.foldr (fun r f => r.2 ||| f) 0)

end Sys2Proof.Machine
end

