-- ==== Sys2Proof/Decode.lean ====
section
/-! DEFINITION. Decoding and encoding: instruction words (03 R42 to R58), collective steps (21 R356, R357) and
work-queue entries (22 R374). A decoder refuses by name: which check of R58 fails, and in which field (18 R310). -/

namespace Sys2Proof

/-- The fields of an instruction word (R42). -/
structure Raw where
  s    : Bool
  pop  : BitVec 3
  post : BitVec 3
  g    : BitVec 4
  gn   : Bool
  op   : BitVec 8
  md   : BitVec 6
  d    : BitVec 10
  a    : BitVec 10
  b    : BitVec 10
  c    : BitVec 10
  imm  : BitVec 30
deriving DecidableEq, Repr

def Raw.ofWord (w : IWord) : Raw where
  s    := w.getLsbD 95
  pop  := w.extractLsb' 92 3
  post := w.extractLsb' 89 3
  g    := w.extractLsb' 85 4
  gn   := w.getLsbD 84
  op   := w.extractLsb' 76 8
  md   := w.extractLsb' 70 6
  d    := w.extractLsb' 60 10
  a    := w.extractLsb' 50 10
  b    := w.extractLsb' 40 10
  c    := w.extractLsb' 30 10
  imm  := w.extractLsb' 0 30

def Raw.toWord (r : Raw) : IWord :=
  BitVec.ofBool r.s ++ r.pop ++ r.post ++ r.g ++ BitVec.ofBool r.gn ++ r.op ++ r.md ++ r.d ++ r.a ++ r.b ++ r.c ++ r.imm

/-- Why a word is refused: the first failing check of R58, with FIELD as R310 numbers it. -/
inductive Bad where
  | instr                 -- check 1: illegal-instruction
  | enc (field : Nat)     -- check 2: illegal-encoding
  | operand (field : Nat) -- check 3: illegal-operand
deriving DecidableEq, Repr

abbrev Dec (α : Type) := Except Bad α

/-- FIELD numbers of R310. -/
def fG : Nat := 1
def fMod : Nat := 2
def fD : Nat := 3
def fA : Nat := 4
def fB : Nat := 5
def fC : Nat := 6
def fImm : Nat := 7

def encOk (c : Bool) (field : Nat) : Dec Unit := if c then .ok () else .error (.enc field)
def opOk {α : Type} (field : Nat) : Option α → Dec α
  | some a => .ok a
  | none => .error (.operand field)
def encSome {α : Type} (field : Nat) : Option α → Dec α
  | some a => .ok a
  | none => .error (.enc field)

-- operand codes (R45)

def decSSrc (c : BitVec 10) : Option SSrc :=
  let n := c.toNat
  if h : n < 32 then some (.s ⟨n, h⟩)
  else if h : n < 48 then some (.q ⟨n - 32, by omega⟩)
  else if h : n < 52 then some (.lc ⟨n - 48, by omega⟩)
  else if h : n < 60 then some (.sp ⟨n - 52, by omega⟩)
  else if n < 1008 then none
  else if h : n < 1016 then some (.d ⟨n - 1008, by omega⟩)
  else if n = 1016 then some .z
  else if n = 1017 then some .ones
  else none

def encSSrc : SSrc → BitVec 10
  | .s n => BitVec.ofNat 10 n.val
  | .q n => BitVec.ofNat 10 (32 + n.val)
  | .lc n => BitVec.ofNat 10 (48 + n.val)
  | .sp n => BitVec.ofNat 10 (52 + n.val)
  | .d k => BitVec.ofNat 10 (1008 + k.val)
  | .z => 1016
  | .ones => 1017

def decSDst (c : BitVec 10) : Option SDst :=
  let n := c.toNat
  if h : n < 32 then some (.s ⟨n, h⟩) else if n = 1016 then some .z else none

def encSDst : SDst → BitVec 10
  | .s n => BitVec.ofNat 10 n.val
  | .z => 1016

def decVSrc (c : BitVec 10) : Option VSrc :=
  let n := c.toNat
  if h : n < 768 then some (.v ⟨n, h⟩)
  else if n < 1008 then none
  else if h : n < 1016 then some (.d ⟨n - 1008, by omega⟩)
  else if n = 1016 then some .z
  else if n = 1017 then some .ones
  else none

def encVSrc : VSrc → BitVec 10
  | .v n => BitVec.ofNat 10 n.val
  | .d k => BitVec.ofNat 10 (1008 + k.val)
  | .z => 1016
  | .ones => 1017

def decVDst (c : BitVec 10) : Option VDst :=
  let n := c.toNat
  if h : n < 768 then some (.v ⟨n, h⟩) else if n = 1016 then some .z else none

def encVDst : VDst → BitVec 10
  | .v n => BitVec.ofNat 10 n.val
  | .z => 1016

def decPred (c : BitVec 10) : Option (Fin 16) :=
  if h : c.toNat < 16 then some ⟨c.toNat, h⟩ else none

/-- A predicate destination: p0 is refused (R45). -/
def decPDst (c : BitVec 10) : Option (Fin 16) :=
  if h : c.toNat < 16 then (if c.toNat = 0 then none else some ⟨c.toNat, h⟩) else none

def encPred (p : Fin 16) : BitVec 10 := BitVec.ofNat 10 p.val

/-- The first register of a run of M (R155): no ring code, `z` or `ones`. -/
def decVReg (c : BitVec 10) : Option (Fin 768) :=
  if h : c.toNat < 768 then some ⟨c.toNat, h⟩ else none

def encVReg (v : Fin 768) : BitVec 10 := BitVec.ofNat 10 v.val

/-- The first register of a range of VTRN (R138). -/
def decVRange (c : BitVec 10) : Option (Fin 768) :=
  if h : c.toNat < 768 then (if c.toNat ≤ 752 then some ⟨c.toNat, h⟩ else none) else none

-- codes of R47, R48, R52 to R54, R63, R79, R168

def decTy (c : BitVec 4) : Option Ty :=
  match c.toNat with
  | 0 => some .i8 | 1 => some .i16 | 2 => some .i32 | 3 => some .i64
  | 4 => some .n8 | 5 => some .n16 | 6 => some .n32 | 7 => some .n64
  | 8 => some .f32 | 9 => some .f16 | 10 => some .bf16 | 11 => some .e4m3
  | 12 => some .e5m2 | 13 => some .e2m1 | 14 => some .e8m0 | _ => none

def encTy : Ty → BitVec 4
  | .i8 => 0 | .i16 => 1 | .i32 => 2 | .i64 => 3 | .n8 => 4 | .n16 => 5 | .n32 => 6 | .n64 => 7
  | .f32 => 8 | .f16 => 9 | .bf16 => 10 | .e4m3 => 11 | .e5m2 => 12 | .e2m1 => 13 | .e8m0 => 14

def decRnd (c : BitVec 2) : Rnd :=
  match c.toNat with
  | 0 => .rne | 1 => .rtz | 2 => .rdn | _ => .rup

def encRnd : Rnd → BitVec 2
  | .rne => 0 | .rtz => 1 | .rdn => 2 | .rup => 3

def decRM (c : BitVec 3) : Option RM :=
  match c.toNat with
  | 0 => some (.mode .rne) | 1 => some (.mode .rtz) | 2 => some (.mode .rdn) | 3 => some (.mode .rup)
  | 7 => some .frm | _ => none

def encRM : RM → BitVec 3
  | .mode .rne => 0 | .mode .rtz => 1 | .mode .rdn => 2 | .mode .rup => 3 | .frm => 7

/-- SAT, U of the additive words; U without SAT is reserved (R53). -/
def decSatMode (c : BitVec 6) : Option SatMode :=
  match c.toNat with
  | 0 => some .wrap | 2 => some .sat | 3 => some .satn | _ => none

def encSatMode : SatMode → BitVec 6
  | .wrap => 0 | .sat => 2 | .satn => 3

def decCond (c : BitVec 6) : Option Cond :=
  match c.toNat with
  | 0 => some .eq | 1 => some .ne | 2 => some .lt | 3 => some .ge | 4 => some .ltn | 5 => some .gen | _ => none

def encCond : Cond → BitVec 6
  | .eq => 0 | .ne => 1 | .lt => 2 | .ge => 3 | .ltn => 4 | .gen => 5

def decVCond (c : BitVec 6) : Option VCond :=
  match c.toNat with
  | 0 => some .eq | 1 => some .ne | 2 => some .lt | 3 => some .le | 4 => some .gt | 5 => some .ge
  | 6 => some .uo | 7 => some .ord | _ => none

def encVCond : VCond → BitVec 6
  | .eq => 0 | .ne => 1 | .lt => 2 | .le => 3 | .gt => 4 | .ge => 5 | .uo => 6 | .ord => 7

def decScope (c : BitVec 3) : Option Scope :=
  match c.toNat with
  | 0 => some .core | 1 => some .quad | 2 => some .die | 3 => some .pkg | 4 => some .pod | 5 => some .sys | _ => none

def encScope : Scope → BitVec 3
  | .core => 0 | .quad => 1 | .die => 2 | .pkg => 3 | .pod => 4 | .sys => 5

/-- ORD with the scope field, which must be 0 where ORD is 0 (R53). -/
def decOrder (o : BitVec 2) (sc : BitVec 3) : Option Order :=
  match o.toNat with
  | 0 => if sc = 0 then some .none else none
  | 1 => (decScope sc).map .acq
  | 2 => (decScope sc).map .rel
  | _ => (decScope sc).map .ar

def encOrd : Order → BitVec 2
  | .none => 0 | .acq _ => 1 | .rel _ => 2 | .ar _ => 3

def encOrdScope : Order → BitVec 3
  | .none => 0 | .acq s | .rel s | .ar s => encScope s

def decAmoOp (c : BitVec 4) : Option AmoOp :=
  match c.toNat with
  | 0 => some .add | 1 => some .and | 2 => some .or | 3 => some .xor | 4 => some .min | 5 => some .max
  | 6 => some .minn | 7 => some .maxn | 8 => some .swap | 9 => some .fadd | 10 => some .fmin | 11 => some .fmax
  | _ => none

def encAmoOp : AmoOp → BitVec 4
  | .add => 0 | .and => 1 | .or => 2 | .xor => 3 | .min => 4 | .max => 5 | .minn => 6 | .maxn => 7
  | .swap => 8 | .fadd => 9 | .fmin => 10 | .fmax => 11

def decLevel (c : BitVec 6) : Option Level :=
  match c.toNat with
  | 1 => some .quad | 2 => some .die | 3 => some .pkg | 4 => some .pod | _ => none

def encLevel : Level → BitVec 6
  | .quad => 1 | .die => 2 | .pkg => 3 | .pod => 4

def decCsr (c : BitVec 12) : Option Csr :=
  match c.toNat with
  | 0x000 => some .fflags | 0x001 => some .fenab | 0x002 => some .frm | 0x010 => some .cyc | 0x011 => some .gsc
  | 0x012 => some .band | 0x020 => some .task | 0x021 => some .core | 0x022 => some .quad | 0x023 => some .die
  | 0x024 => some .pkg | 0x025 => some .rank | 0x026 => some .nrank | 0x030 => some .waitr | 0x031 => some .pht
  | 0x032 => some .phtm | 0x040 => some .trapc | 0x041 => some .trapv | 0x042 => some .trappc | 0x100 => some .ctx
  | 0x101 => some .btbase | 0x102 => some .ptbase | _ => none

def encCsr : Csr → BitVec 12
  | .fflags => 0x000 | .fenab => 0x001 | .frm => 0x002 | .cyc => 0x010 | .gsc => 0x011 | .band => 0x012
  | .task => 0x020 | .core => 0x021 | .quad => 0x022 | .die => 0x023 | .pkg => 0x024 | .rank => 0x025
  | .nrank => 0x026 | .waitr => 0x030 | .pht => 0x031 | .phtm => 0x032 | .trapc => 0x040 | .trapv => 0x041
  | .trappc => 0x042 | .ctx => 0x100 | .btbase => 0x101 | .ptbase => 0x102

-- the checks each format shares

/-- The header, with the guard rule of R44. -/
def decHdr (e : Eng) (r : Raw) : Dec Hdr :=
  let h : Hdr := { stop := r.s, pop := r.pop, post := r.post, g := r.g, gn := r.gn }
  if h.wf e then .ok h else .error (.enc fG)

def mod0 (r : Raw) : Dec Unit := encOk (r.md == 0) fMod
def imm0 (r : Raw) : Dec Unit := encOk (r.imm == 0) fImm
def d0 (r : Raw) : Dec Unit := encOk (r.d == 0) fD
def a0 (r : Raw) : Dec Unit := encOk (r.a == 0) fA
def b0 (r : Raw) : Dec Unit := encOk (r.b == 0) fB
def c0 (r : Raw) : Dec Unit := encOk (r.c == 0) fC

def dS (r : Raw) : Dec SDst := opOk fD (decSDst r.d)
def aS (r : Raw) : Dec SSrc := opOk fA (decSSrc r.a)
def bS (r : Raw) : Dec SSrc := opOk fB (decSSrc r.b)
def cS (r : Raw) : Dec SSrc := opOk fC (decSSrc r.c)
def dV (r : Raw) : Dec VDst := opOk fD (decVDst r.d)
def aV (r : Raw) : Dec VSrc := opOk fA (decVSrc r.a)
def bV (r : Raw) : Dec VSrc := opOk fB (decVSrc r.b)
def cV (r : Raw) : Dec VSrc := opOk fC (decVSrc r.c)
def aP (r : Raw) : Dec (Fin 16) := opOk fA (decPred r.a)
def bP (r : Raw) : Dec (Fin 16) := opOk fB (decPred r.b)
def dP (r : Raw) : Dec (Fin 16) := opOk fD (decPDst r.d)

/-- Format N without a code. -/
def decN (r : Raw) (mk : Instr) : Dec Instr := do
  mod0 r; imm0 r; d0 r; a0 r; b0 r; c0 r
  pure mk

/-- TRAP and BKPT (R76). -/
def decCode (r : Raw) (mk : BitVec 16 → Instr) : Dec Instr := do
  mod0 r; encOk (r.imm.extractLsb' 16 14 == 0) fImm; d0 r; a0 r; b0 r; c0 r
  pure (mk (r.imm.extractLsb' 0 16))

def immTarget (i : BitVec 30) : Target := { delta := i.extractLsb' 16 14, word := i.extractLsb' 0 16 }

/-- BR and CALL. -/
def decBT (r : Raw) (mk : Target → Instr) : Dec Instr := do
  mod0 r; d0 r; a0 r; b0 r; c0 r
  pure (mk (immTarget r.imm))

/-- Three scalar operands, after the check of MOD. -/
def decS2 (r : Raw) (mk : SDst → SSrc → SSrc → Instr) : Dec Instr := do
  imm0 r; c0 r
  let d ← dS r
  let a ← aS r
  let b ← bS r
  pure (mk d a b)

/-- One scalar source. -/
def decS1 (r : Raw) (mk : SDst → SSrc → Instr) : Dec Instr := do
  mod0 r; imm0 r; b0 r; c0 r
  let d ← dS r
  let a ← aS r
  pure (mk d a)

/-- SI with the full immediate. -/
def decSI (r : Raw) (mk : SDst → SSrc → Instr) : Dec Instr := do
  b0 r; c0 r
  let d ← dS r
  let a ← aS r
  pure (mk d a)

/-- SHLI, SHRI, SRAI. -/
def decSh (r : Raw) (mk : SDst → SSrc → BitVec 6 → Instr) : Dec Instr := do
  mod0 r; encOk (r.imm.extractLsb' 6 24 == 0) fImm; b0 r; c0 r
  let d ← dS r
  let a ← aS r
  pure (mk d a (r.imm.extractLsb' 0 6))

/-- MOD U of R53: signed or unsigned mnemonic. -/
def decU (r : Raw) : Dec Bool :=
  if r.md = 0 then .ok false else if r.md = 1 then .ok true else .error (.enc fMod)

/-- The MOD fields of an MA word. -/
def maBI (r : Raw) : Bool := r.md.getLsbD 5
def maOrd (r : Raw) : BitVec 2 := r.md.extractLsb' 3 2
def maSP (r : Raw) : Bool := r.md.getLsbD 2
def maSZ (r : Raw) : BitVec 2 := r.md.extractLsb' 0 2

/-- MOD and the scope of an MA word: ORD as `k` allows, SP as `sp` allows, SZ as `sz` allows (R53). -/
def decMaMod (r : Raw) (k : OrdKind) (sp sz : Bool) : Dec Order := do
  let o ← encSome fMod (decOrder (maOrd r) (r.imm.extractLsb' 11 3))
  encOk (o.fits k) fMod
  encOk (!maSP r || (sp && o == .none)) fMod
  encOk (sz || maSZ r == 0) fMod
  pure o

/-- The unused half of the buffer selection must be 0 (R51). -/
def decMaBuf (r : Raw) : Dec Unit :=
  if maBI r then b0 r else encOk (r.imm.extractLsb' 14 16 == 0) fImm

/-- The memory operand of an MA word (R51). -/
def decMem (r : Raw) (o : Order) (disp : BitVec 11) : Dec MemOp := do
  let buf ← if maBI r then .ok (.imm (r.imm.extractLsb' 14 16)) else (bS r).map .reg
  let off ← cS r
  pure { buf := buf, off := off, disp := disp, ord := o }

def maDisp (r : Raw) : BitVec 11 := r.imm.extractLsb' 0 11

/-- RM of VA and VC. -/
def immRM (r : Raw) : Dec RM := encSome fImm (decRM (r.imm.extractLsb' 23 3))
def immTy (r : Raw) : Dec Ty := encSome fImm (decTy (r.imm.extractLsb' 26 4))
def immSat (r : Raw) : Bool := r.imm.getLsbD 22
def immBS (r : Raw) : Bool := r.imm.getLsbD 21

/-- RM is 0 where the word does not round (R107). -/
def immRM0 (r : Raw) : Dec Unit := encOk (r.imm.extractLsb' 23 3 == 0) fImm
def immSat0 (r : Raw) : Dec Unit := encOk (!immSat r) fImm
def immBS0 (r : Raw) : Dec Unit := encOk (!immBS r) fImm
def va0 (r : Raw) : Dec Unit := encOk (r.imm.extractLsb' 0 21 == 0) fImm
def vp0 (r : Raw) : Dec Unit := encOk (r.imm.extractLsb' 0 26 == 0) fImm

/-- Operand B of format VA under BS (R106). -/
def bVS (r : Raw) : Dec VSSrc := if immBS r then (bS r).map .sc else (bV r).map .vec

/-- VA word of two sources. -/
def decVa2 (r : Raw) (tyOk : Ty → Bool) (mk : Ty → VDst → VSrc → VSSrc → Instr) : Dec Instr := do
  mod0 r; va0 r; c0 r
  let t ← immTy r
  encOk (tyOk t) fImm
  immRM0 r; immSat0 r
  let d ← dV r
  let a ← aV r
  let b ← bVS r
  pure (mk t d a b)

/-- VA word of two sources that rounds. -/
def decVa2r (r : Raw) (mk : Ty → RM → Bool → VDst → VSrc → VSSrc → Instr) : Dec Instr := do
  mod0 r; va0 r; c0 r
  let t ← immTy r
  encOk (t.isInt || t.isFl) fImm
  let rm ← immRM r
  encOk (rm.fitsTy t) fImm
  let d ← dV r
  let a ← aV r
  let b ← bVS r
  pure (mk t rm (immSat r) d a b)

/-- The fused words. -/
def decVa3r (r : Raw) (mk : Ty → RM → Bool → VDst → VSrc → VSSrc → VSrc → Instr) : Dec Instr := do
  mod0 r; va0 r
  let t ← immTy r
  encOk (t.isInt || t.isFl) fImm
  let rm ← immRM r
  encOk (rm.fitsTy t) fImm
  let d ← dV r
  let a ← aV r
  let b ← bVS r
  let c ← cV r
  pure (mk t rm (immSat r) d a b c)

/-- VA word of one source that rounds. -/
def decVa1r (r : Raw) (tyOk : Ty → Bool) (mk : Ty → RM → Bool → VDst → VSrc → Instr) : Dec Instr := do
  mod0 r; va0 r; b0 r; c0 r; immBS0 r
  let t ← immTy r
  encOk (tyOk t) fImm
  let rm ← immRM r
  encOk (rm.fitsTy t) fImm
  let d ← dV r
  let a ← aV r
  pure (mk t rm (immSat r) d a)

/-- VABS and VNEG. -/
def decVabs (r : Raw) (mk : Ty → Bool → VDst → VSrc → Instr) : Dec Instr := do
  mod0 r; va0 r; b0 r; c0 r; immBS0 r
  let t ← immTy r
  encOk t.absOk fImm
  immRM0 r
  encOk (!immSat r || t.isInt) fImm
  let d ← dV r
  let a ← aV r
  pure (mk t (immSat r) d a)

/-- VRMAX and VRMIN. -/
def decVrm (r : Raw) (mk : Ty → VDst → VSrc → Instr) : Dec Instr := do
  mod0 r; va0 r; b0 r; c0 r; immBS0 r
  let t ← immTy r
  encOk (t.isInt || t.isFl) fImm
  immRM0 r; immSat0 r
  let d ← dV r
  let a ← aV r
  pure (mk t d a)

/-- The fields of a VC word after MOD and C (R125). -/
def decVc (r : Raw) : Dec (Ty × Ty × RM × Bool × BitVec 3) := do
  encOk (r.imm.extractLsb' 0 15 == 0) fImm
  c0 r
  let dt ← immTy r
  let st ← encSome fImm (decTy (r.imm.extractLsb' 18 4))
  let rm ← immRM r
  pure (dt, st, rm, immSat r, r.imm.extractLsb' 15 3)

/-- VP and PD words take only a type in IMM, and LANE where the word has one (R133, R140). -/
def decLane (r : Raw) : Dec (Ty × BitVec 11) := do
  encOk (r.imm.extractLsb' 11 15 == 0) fImm
  let t ← immTy r
  let l := r.imm.extractLsb' 0 11
  encOk (l.toNat < t.lanes) fImm
  pure (t, l)

def asBo (r : Raw) : BoRef := { buf := r.imm.extractLsb' 14 16, off := r.imm.extractLsb' 0 14 }
def mcStamp (r : Raw) : BitVec 24 := r.imm.extractLsb' 0 24
def mcAcc (r : Raw) : BitVec 2 := r.imm.extractLsb' 24 2
def mc0 (r : Raw) : Dec Unit := encOk (r.imm.extractLsb' 24 6 == 0) fImm
def mcK (r : Raw) : Dec Unit := encOk (r.imm.extractLsb' 26 4 == 0) fImm

/-- Matrix words with one scalar operand A. -/
def decMcA (r : Raw) (mk : SSrc → BitVec 24 → Instr) : Dec Instr := do
  mod0 r; mc0 r; d0 r; b0 r; c0 r
  let a ← aS r
  pure (mk a (mcStamp r))

/-- Opcodes 0x00 to 0x1F. -/
def decCtl (r : Raw) (h : Hdr) : Dec Instr :=
  match r.op.toNat with
  | 0x00 => decN r (.nop h)
  | 0x01 => decBT r (.br h)
  | 0x02 => do
    let c ← encSome fMod (decCond r.md)
    d0 r; c0 r
    let a ← aS r
    let b ← bS r
    pure (.brc h c a b (immTarget r.imm))
  | 0x03 => do
    encOk (r.md.extractLsb' 1 5 == 0) fMod
    d0 r; b0 r; c0 r
    let a ← aP r
    pure (.brp h (r.md.getLsbD 0) a (immTarget r.imm))
  | 0x04 => decBT r (.call h)
  | 0x05 => decN r (.ret h)
  | 0x06 => do
    encOk (r.md.extractLsb' 2 4 == 0) fMod
    encOk (r.imm.extractLsb' 16 14 == 0) fImm
    d0 r; b0 r; c0 r
    let a ← aS r
    pure (.loop h (Fin.ofNat 4 (r.md.extractLsb' 0 2).toNat) a (r.imm.extractLsb' 0 16))
  | 0x07 => do
    encOk (r.md.extractLsb' 2 4 == 0) fMod
    encOk (r.imm.extractLsb' 19 11 == 0) fImm
    d0 r; b0 r; c0 r
    let a ← aS r
    pure (.loops h (Fin.ofNat 4 (r.md.extractLsb' 0 2).toNat) a (r.imm.extractLsb' 16 3) (r.imm.extractLsb' 0 16))
  | 0x08 => do
    encOk (r.md.extractLsb' 2 4 == 0) fMod
    imm0 r; d0 r; a0 r; b0 r; c0 r
    pure (.brkl h (Fin.ofNat 4 (r.md.extractLsb' 0 2).toNat))
  | 0x09 => decN r (.suspend h)
  | 0x0A => decN r (.yield h)
  | 0x0B => decN r (.halt h)
  | 0x0C => do
    let o ← decMaMod r .none false false
    decMaBuf r; d0 r; a0 r
    let m ← decMem r o (maDisp r)
    pure (.watch h m)
  | 0x0D => decN r (.sleep h)
  | 0x0E => decN r (.tfence h)
  | 0x0F => do
    mod0 r; d0 r; b0 r; c0 r
    let a ← aS r
    pure (.stampb h a r.imm)
  | 0x10 => decCode r (.trap h)
  | 0x11 => decCode r (.bkpt h)
  | 0x18 => do
    mod0 r; encOk (r.imm.extractLsb' 12 18 == 0) fImm
    let n ← encSome fImm (decCsr (r.imm.extractLsb' 0 12))
    a0 r; b0 r; c0 r
    let d ← dS r
    pure (.csrr h d n)
  | 0x19 => do
    mod0 r; encOk (r.imm.extractLsb' 12 18 == 0) fImm
    let n ← encSome fImm (decCsr (r.imm.extractLsb' 0 12))
    encOk n.writable fImm
    d0 r; b0 r; c0 r
    let a ← aS r
    pure (.csrw h n a)
  | 0x1A => decN r (.eret h)
  | 0x1B => do
    mod0 r; imm0 r; d0 r; c0 r
    let a ← aS r
    let b ← bS r
    pure (.tlbinv h a b)
  | 0x1C => do
    mod0 r; imm0 r; d0 r; b0 r; c0 r
    let a ← aS r
    pure (.bufinv h a)
  | _ => .error .instr

/-- Opcodes 0x20 to 0x3F (R60 to R65). -/
def decScalar (r : Raw) (h : Hdr) : Dec Instr :=
  match r.op.toNat with
  | 0x20 => do
    let m ← encSome fMod (decSatMode r.md)
    decS2 r (.add h m)
  | 0x21 => do
    let m ← encSome fMod (decSatMode r.md)
    decSI r (fun d a => .addi h m d a r.imm)
  | 0x22 => do
    let m ← encSome fMod (decSatMode r.md)
    decS2 r (.sub h m)
  | 0x23 => do
    let m ← encSome fMod (decSatMode r.md)
    decS2 r (.mul h m)
  | 0x24 => do
    let u ← decU r
    decS2 r (if u then .mulhn h else .mulh h)
  | 0x25 => do
    let u ← decU r
    decS2 r (if u then .divn h else .div h)
  | 0x26 => do
    let u ← decU r
    decS2 r (if u then .remn h else .rem h)
  | 0x27 => do
    let m ← encSome fMod (decSatMode r.md)
    imm0 r
    let d ← dS r
    let a ← aS r
    let b ← bS r
    let c ← cS r
    pure (.madd h m d a b c)
  | 0x28 => do mod0 r; decS2 r (.and h)
  | 0x29 => do mod0 r; decSI r (fun d a => .andi h d a r.imm)
  | 0x2A => do mod0 r; decS2 r (.or h)
  | 0x2B => do mod0 r; decSI r (fun d a => .ori h d a r.imm)
  | 0x2C => do mod0 r; decS2 r (.xor h)
  | 0x2D => do mod0 r; decSI r (fun d a => .xori h d a r.imm)
  | 0x2E => do mod0 r; decS2 r (.andn h)
  | 0x2F => decS1 r (.clz h)
  | 0x30 => do mod0 r; decS2 r (.shl h)
  | 0x31 => decSh r (.shli h)
  | 0x32 => do mod0 r; decS2 r (.shr h)
  | 0x33 => decSh r (.shri h)
  | 0x34 => do mod0 r; decS2 r (.sra h)
  | 0x35 => decSh r (.srai h)
  | 0x36 => do
    let u ← decU r
    decS2 r (if u then .minn h else .min h)
  | 0x37 => do
    let u ← decU r
    decS2 r (if u then .maxn h else .max h)
  | 0x38 => do
    let c ← encSome fMod (decCond r.md)
    decS2 r (.cmp h c)
  | 0x39 => do
    mod0 r; imm0 r
    let d ← dS r
    let a ← aS r
    let b ← bS r
    let c ← cS r
    pure (.sel h d a b c)
  | 0x3A => do
    mod0 r; a0 r
    let d ← dS r
    pure (.li h d (r.b ++ r.c ++ r.imm))
  | 0x3B => do
    mod0 r
    encOk ((r.b ++ r.c ++ r.imm).extractLsb' 32 18 == 0) fImm
    let d ← dS r
    let a ← aS r
    pure (.lih h d a ((r.b ++ r.c ++ r.imm).extractLsb' 0 32))
  | 0x3C => decS1 r (.popc h)
  | 0x3D => do
    mod0 r; encOk (r.imm.extractLsb' 12 18 == 0) fImm
    let pos := r.imm.extractLsb' 0 6
    let w1 := r.imm.extractLsb' 6 6
    encOk (pos.toNat + w1.toNat + 1 ≤ 64) fImm
    b0 r; c0 r
    let d ← dS r
    let a ← aS r
    pure (.bext h d a pos w1)
  | 0x3E => do
    mod0 r; encOk (r.imm.extractLsb' 12 18 == 0) fImm
    let pos := r.imm.extractLsb' 0 6
    let w1 := r.imm.extractLsb' 6 6
    encOk (pos.toNat + w1.toNat + 1 ≤ 64) fImm
    c0 r
    let d ← dS r
    let a ← aS r
    let b ← bS r
    pure (.bins h d a b pos w1)
  | _ => .error .instr

/-- Field A of LDS and CLD selects the extension (R66). -/
def decSx (r : Raw) : Dec Bool :=
  if r.a = 0 then .ok false
  else if r.a = 1 then (if maSZ r = 3 then .error (.enc fA) else .ok true)
  else .error (.enc fA)

/-- Opcodes 0x40 to 0x65: memory, atomics, fences and barrier objects (R51, R53, R66, R228 to R242). -/
def decMemory (r : Raw) (h : Hdr) : Dec Instr :=
  match r.op.toNat with
  | 0x40 => do
    let o ← decMaMod r .acq true true
    decMaBuf r
    let sx ← decSx r
    let d ← dS r
    let m ← decMem r o (maDisp r)
    pure (.lds h (maSZ r) sx (maSP r) d m)
  | 0x41 => do
    let o ← decMaMod r .rel false true
    decMaBuf r; d0 r
    let a ← aS r
    let m ← decMem r o (maDisp r)
    pure (.sts h (maSZ r) a m)
  | 0x42 => do
    let o ← decMaMod r .none false true
    decMaBuf r
    let sx ← decSx r
    let d ← dS r
    let m ← decMem r o (maDisp r)
    pure (.cld h (maSZ r) sx d m)
  | 0x43 => do
    let o ← decMaMod r .any false true
    let op ← encSome fImm (decAmoOp (r.imm.extractLsb' 7 4))
    encOk (op.fitsSz (maSZ r)) fImm
    decMaBuf r
    let d ← dS r
    let a ← aS r
    let m ← decMem r o ((r.imm.extractLsb' 0 7).signExtend 11)
    pure (.amo h op (maSZ r) d a m)
  | 0x44 => do
    let o ← decMaMod r .any false true
    decMaBuf r
    let d ← dS r
    let a ← aS r
    let m ← decMem r o (maDisp r)
    pure (.cas h (maSZ r) d a m)
  | 0x50 => do
    let o ← decMaMod r .acq true false
    decMaBuf r; a0 r
    let d ← dV r
    let m ← decMem r o (maDisp r)
    pure (.vld h (maSP r) d m)
  | 0x51 => do
    let o ← decMaMod r .acq true true
    decMaBuf r
    let d ← dV r
    let a ← aS r
    let m ← decMem r o (maDisp r)
    pure (.vlds h (maSZ r) (maSP r) d a m)
  | 0x52 => do
    let o ← decMaMod r .acq true true
    decMaBuf r
    let d ← dV r
    let a ← aV r
    let m ← decMem r o (maDisp r)
    pure (.vldx h (maSZ r) (maSP r) d a m)
  | 0x53 => do
    let o ← decMaMod r .acq true true
    decMaBuf r; a0 r
    let d ← dV r
    let m ← decMem r o (maDisp r)
    pure (.vldb h (maSZ r) (maSP r) d m)
  | 0x54 => do
    let o ← decMaMod r .rel false false
    decMaBuf r; d0 r
    let a ← aV r
    let m ← decMem r o (maDisp r)
    pure (.vst h a m)
  | 0x55 => do
    let o ← decMaMod r .rel false true
    decMaBuf r
    let d ← opOk fD (decSSrc r.d)
    let a ← aV r
    let m ← decMem r o (maDisp r)
    pure (.vsts h (maSZ r) a d m)
  | 0x56 => do
    let o ← decMaMod r .rel false true
    decMaBuf r
    let d ← opOk fD (decVSrc r.d)
    let a ← aV r
    let m ← decMem r o (maDisp r)
    pure (.vstx h (maSZ r) a d m)
  | 0x57 => do
    let o ← decMaMod r .rel false false
    decMaBuf r
    let d ← opOk fD (decVSrc r.d)
    let a ← aV r
    let m ← decMem r o (maDisp r)
    pure (.vstn h a d m)
  | 0x58 => do
    let o ← decMaMod r .any false true
    let op ← encSome fImm (decAmoOp (r.imm.extractLsb' 7 4))
    encOk (r.imm.extractLsb' 0 3 == 0) fImm
    decMaBuf r; d0 r
    let t ← encSome fImm (decTy (r.imm.extractLsb' 3 4))
    encOk (op.fitsTy t) fImm
    encOk (maSZ r == t.szCode) fMod
    let a ← aV r
    let m ← decMem r o 0
    pure (.amov h op t a m)
  | 0x60 => do
    encOk (r.md.extractLsb' 3 3 == 0) fMod
    let sc ← encSome fMod (decScope (r.md.extractLsb' 0 3))
    imm0 r; d0 r; a0 r; b0 r; c0 r
    pure (.fence h sc)
  | 0x61 => do
    encOk (r.md.extractLsb' 3 3 == 0) fMod
    let sc ← encSome fMod (decScope (r.md.extractLsb' 0 3))
    encOk (r.imm.extractLsb' 4 26 == 0) fImm
    encOk (r.imm.extractLsb' 0 4 != 0) fImm
    d0 r; a0 r; b0 r; c0 r
    pure (.lfence h sc (r.imm.extractLsb' 0 4))
  | 0x62 => do
    let lv ← encSome fMod (decLevel r.md)
    imm0 r; d0 r; a0 r; b0 r; c0 r
    pure (.barr h lv)
  | 0x63 => do
    let o ← decMaMod r .rel false false
    decMaBuf r; d0 r
    let a ← aS r
    let m ← decMem r o (maDisp r)
    pure (.boarm h a m)
  | 0x64 => do
    let o ← decMaMod r .rel false false
    decMaBuf r; d0 r
    let a ← aS r
    let m ← decMem r o (maDisp r)
    pure (.boadd h a m)
  | 0x65 => do
    let o ← decMaMod r .acq false false
    decMaBuf r
    let d ← dS r
    let a ← aS r
    let m ← decMem r o (maDisp r)
    pure (.bowait h d a m)
  | _ => .error .instr

/-- Opcodes 0x70 to 0x7E: launch, reuse and asynchronous words (R181, R278, R285). -/
def decAsync (r : Raw) (h : Hdr) : Dec Instr :=
  match r.op.toNat with
  | 0x70 => do
    mod0 r
    encOk (r.imm.extractLsb' 4 26 == 0) fImm
    encOk ((r.imm.extractLsb' 0 4).toNat ≤ 9) fImm
    c0 r
    let d ← dS r
    let a ← aS r
    let b ← bS r
    pure (.lpatch h (r.imm.extractLsb' 0 4) d a b)
  | 0x71 => decS1 r (.larm h)
  | 0x72 => do mod0 r; decS2 r (.rchk h)
  | 0x73 => do mod0 r; decS2 r (.rinv h)
  | 0x78 => do
    mod0 r
    let d ← dS r
    let a ← aS r
    let b ← bS r
    let c ← cS r
    pure (.acpy h d a b c (asBo r))
  | 0x79 => do
    mod0 r
    let d ← dS r
    let a ← aS r
    let b ← bS r
    let c ← cS r
    pure (.afill h d a b c (asBo r))
  | 0x7A => do
    mod0 r; b0 r; c0 r
    let d ← dS r
    let a ← aS r
    pure (.agath h d a (asBo r))
  | 0x7B => do
    mod0 r; b0 r; c0 r
    let d ← dS r
    let a ← aS r
    pure (.ascat h d a (asBo r))
  | 0x7C => do
    mod0 r
    let d ← dS r
    let a ← aS r
    let b ← bS r
    let c ← cS r
    pure (.aferry h d a b c (asBo r))
  | 0x7D => do
    mod0 r; c0 r
    let d ← dS r
    let a ← aS r
    let b ← bS r
    pure (.acoll h d a b (asBo r))
  | 0x7E => decS1 r (.astat h)
  | _ => .error .instr

/-- Opcodes 0x80 to 0xB3: format VA (R109). -/
def decVector (r : Raw) (h : Hdr) : Dec Instr :=
  match r.op.toNat with
  | 0x80 => decVa2r r (.vadd h)
  | 0x81 => decVa2r r (.vsub h)
  | 0x82 => decVa2r r (.vmul h)
  | 0x83 => decVa2 r Ty.isInt (.vmulh h)
  | 0x84 => decVa3r r (.vfma h)
  | 0x85 => decVa3r r (.vfms h)
  | 0x86 => decVa3r r (.vfnma h)
  | 0x87 => decVa2 r (fun t => t.isInt || t.isFl) (.vmin h)
  | 0x88 => decVa2 r (fun t => t.isInt || t.isFl) (.vmax h)
  | 0x89 => decVabs r (.vabs h)
  | 0x8A => decVabs r (.vneg h)
  | 0x90 => decVa1r r Ty.isFl (.vrcp h)
  | 0x91 => decVa1r r Ty.isFl (.vrsq h)
  | 0x92 => decVa1r r Ty.isFl (.vsqrt h)
  | 0x93 => decVa1r r Ty.isFl (.vexp2 h)
  | 0x94 => decVa1r r Ty.isFl (.vlog2 h)
  | 0x95 => decVa1r r Ty.isFl (.vsin h)
  | 0x96 => decVa1r r Ty.isFl (.vcos h)
  | 0x97 => decVa1r r Ty.isFl (.vtanh h)
  | 0x98 => decVa1r r Ty.isFl (.vsig h)
  | 0xA0 => decVa2 r (fun _ => true) (.vand h)
  | 0xA1 => decVa2 r (fun _ => true) (.vor h)
  | 0xA2 => decVa2 r (fun _ => true) (.vxor h)
  | 0xA3 => decVa2 r Ty.isInt (.vshl h)
  | 0xA4 => decVa2 r Ty.isInt (.vshr h)
  | 0xA5 => decVa2 r Ty.isInt (.vsra h)
  | 0xA6 => do
    let c ← encSome fMod (decVCond r.md)
    va0 r; c0 r
    let t ← immTy r
    encOk (t.isInt || t.isFl) fImm
    encOk (t.isFl || c.quiet) fMod
    immRM0 r; immSat0 r
    let d ← dP r
    let a ← aV r
    let b ← bVS r
    pure (.vcmp h c t d a b)
  | 0xA7 => do
    mod0 r; va0 r
    let t ← immTy r
    immRM0 r; immSat0 r
    let d ← dV r
    let a ← aP r
    let b ← bVS r
    let c ← cV r
    pure (.vsel h t d a b c)
  | 0xA8 => do
    mod0 r; va0 r; c0 r
    encOk (immBS r || r.b == 0) fB
    let t ← immTy r
    encOk t.classOk fImm
    immRM0 r; immSat0 r
    if immBS r then do
      let d ← dP r
      let a ← aV r
      let b ← bS r
      pure (.vclassP h t d a b)
    else do
      let d ← dV r
      let a ← aV r
      pure (.vclassV h t d a)
  | 0xB0 => decVa1r r (fun t => t.isInt || t.isFl) (.vradd h)
  | 0xB1 => decVrm r (.vrmax h)
  | 0xB2 => decVrm r (.vrmin h)
  | 0xB3 => decVa1r r Ty.scanOk (.vscan h)
  | _ => .error .instr

/-- Opcodes 0xC0 to 0xDD: conversion, permutation and predicates (R125, R133, R140). -/
def decConvert (r : Raw) (h : Hdr) : Dec Instr :=
  match r.op.toNat with
  | 0xC0 => do
    mod0 r; b0 r
    let (dt, st, rm, sat, part) ← decVc r
    encOk (dt.ratio st ≤ 8 && part.toNat < dt.ratio st) fImm
    let d ← dV r
    let a ← aV r
    pure (.vcvt h dt st rm sat part d a)
  | 0xC1 => do
    mod0 r
    let (dt, st, rm, sat, part) ← decVc r
    encOk (dt.isMx && st.isFl && part.toNat < dt.ratio st) fImm
    encOk (r.b != r.d) fB
    let d ← dV r
    let a ← aV r
    let b ← opOk fB (decVDst r.b)
    pure (.vqmx h dt st rm sat part d b a)
  | 0xC2 => do
    mod0 r
    let (dt, st, rm, sat, part) ← decVc r
    encOk (dt.isFl && st.isMx && part.toNat < dt.ratio st) fImm
    let d ← dV r
    let a ← aV r
    let b ← bV r
    pure (.vdqmx h dt st rm sat part d a b)
  | 0xC3 => do
    mod0 r
    let (dt, st, rm, sat, part) ← decVc r
    encOk (st.width == 2 * dt.width && part == 0) fImm
    let d ← dV r
    let a ← aV r
    let b ← bV r
    pure (.vpack h dt st rm sat d a b)
  | 0xC4 => do
    mod0 r; b0 r
    let (dt, st, rm, sat, part) ← decVc r
    encOk ((dt.width == 2 * st.width || dt.width == 4 * st.width || dt.width == 8 * st.width) &&
      part.toNat < dt.ratio st) fImm
    let d ← dV r
    let a ← aV r
    pure (.vunpk h dt st rm sat part d a)
  | 0xC5 => do
    mod0 r; va0 r; c0 r
    let t ← immTy r
    encOk t.isFl fImm
    let rm ← immRM r
    let d ← dV r
    let a ← aV r
    let b ← bVS r
    pure (.vldexp h t rm (immSat r) d a b)
  | 0xD0 => do
    mod0 r; vp0 r; c0 r
    let t ← immTy r
    encOk (t != .e2m1) fImm
    let d ← dV r
    let a ← aV r
    let b ← bV r
    pure (.vperm h t d a b)
  | 0xD1 => do
    mod0 r; vp0 r
    let t ← immTy r
    let d ← dV r
    let a ← aV r
    let b ← bV r
    let c ← cS r
    pure (.vshuf h t d a b c)
  | 0xD2 => do
    mod0 r
    let (t, l) ← decLane r
    b0 r; c0 r
    let d ← dV r
    let a ← aV r
    pure (.vbcst h t l d a)
  | 0xD3 => do
    mod0 r
    let (t, l) ← decLane r
    c0 r
    let d ← dV r
    let a ← aV r
    let b ← bS r
    pure (.vins h t l d a b)
  | 0xD4 => do
    mod0 r
    let (t, l) ← decLane r
    b0 r; c0 r
    let d ← dS r
    let a ← aV r
    pure (.vexts h t l d a)
  | 0xD5 => do
    mod0 r; vp0 r; c0 r
    let t ← immTy r
    let d ← dV r
    let a ← aV r
    let b ← bP r
    pure (.vcomp h t d a b)
  | 0xD6 => do
    mod0 r; vp0 r; c0 r
    let t ← immTy r
    let d ← dV r
    let a ← aV r
    let b ← bP r
    pure (.vexpd h t d a b)
  | 0xD7 => do
    mod0 r; vp0 r; b0 r; c0 r
    let t ← immTy r
    let d ← opOk fD (decVRange r.d)
    let a ← opOk fA (decVRange r.a)
    pure (.vtrn h t d a)
  | 0xD8 => do
    encOk (r.md.extractLsb' 2 4 == 0) fMod
    vp0 r; c0 r
    encOk (r.md != 3 || r.b == 0) fB
    let t ← immTy r
    let d ← dP r
    let a ← aP r
    if r.md == 3 then pure (.pnot h t d a)
    else do
      let b ← bP r
      pure (if r.md == 0 then .pand h t d a b else if r.md == 1 then .por h t d a b else .pxor h t d a b)
  | 0xD9 => do
    mod0 r; vp0 r; b0 r; c0 r
    let t ← immTy r
    let d ← dS r
    let a ← aP r
    pure (.pcnt h t d a)
  | 0xDA => do
    mod0 r; vp0 r; b0 r; c0 r
    let t ← immTy r
    let d ← dS r
    let a ← aP r
    pure (.pfirst h t d a)
  | 0xDB => do
    mod0 r; vp0 r; c0 r
    let t ← immTy r
    let d ← dP r
    let a ← aP r
    let b ← bS r
    pure (.pmov h t d a b)
  | 0xDC => do
    mod0 r; vp0 r; b0 r; c0 r
    let t ← immTy r
    let d ← dV r
    let a ← aV r
    pure (.vpchk h t d a)
  | 0xDD => do
    mod0 r; vp0 r; b0 r; c0 r
    let t ← immTy r
    let d ← dV r
    let a ← aV r
    pure (.vpclr h t d a)
  | _ => .error .instr

/-- C of MMA: any code of the vector class, judged at issue (R155). -/
def decMmaC (r : Raw) : Dec (BitVec 10) :=
  if r.c.toNat < 768 || (1008 ≤ r.c.toNat && r.c.toNat ≤ 1017) then .ok r.c else .error (.operand fC)

/-- Opcodes 0xE0 to 0xE8: format MC (R155). -/
def decMatrix (r : Raw) (h : Hdr) : Dec Instr :=
  match r.op.toNat with
  | 0xE0 => decMcA r (.mcfg h)
  | 0xE1 => decMcA r (.mldw h)
  | 0xE2 => do
    mod0 r; mc0 r; d0 r; a0 r; b0 r; c0 r
    pure (.mswp h (mcStamp r))
  | 0xE3 => decMcA r (.mlds h)
  | 0xE4 => do
    mod0 r; mcK r; d0 r
    let a ← opOk fA (decVReg r.a)
    let b ← bS r
    let c ← decMmaC r
    pure (.mma h (mcAcc r) a b c (mcStamp r))
  | 0xE5 => do
    mod0 r; mcK r; d0 r; a0 r; b0 r; c0 r
    pure (.mza h (mcAcc r) (mcStamp r))
  | 0xE6 => do
    mod0 r; mcK r; a0 r; c0 r
    let d ← opOk fD (decVReg r.d)
    let b ← bS r
    pure (.mdrn h (mcAcc r) d b (mcStamp r))
  | 0xE7 => do
    mod0 r; mc0 r; a0 r; b0 r; c0 r
    let d ← dS r
    pure (.mkpr h d (mcStamp r))
  | 0xE8 => decMcA r (.mbswp h)
  | _ => .error .instr

/-- Checks 1 to 3 of R58 on one word of engine `e`. -/
def decodeRaw (e : Eng) (r : Raw) : Dec Instr :=
  if !opValidOn e r.op then .error .instr
  else do
    let h ← decHdr e r
    match (r.op.extractLsb' 5 3).toNat with
    | 0 => decCtl r h
    | 1 => decScalar r h
    | 2 | 3 => if r.op.toNat < 0x70 then decMemory r h else decAsync r h
    | 4 | 5 => decVector r h
    | _ => if r.op.toNat < 0xE0 then decConvert r h else decMatrix r h

def decodeWord (e : Eng) (w : IWord) : Dec Instr := decodeRaw e (Raw.ofWord w)

-- encoding, from the same tables

/-- A word with only its header, opcode and MOD. -/
def rawOf (h : Hdr) (op : BitVec 8) (md : BitVec 6 := 0) : Raw where
  s := h.stop
  pop := h.pop
  post := h.post
  g := h.g
  gn := h.gn
  op := op
  md := md
  d := 0
  a := 0
  b := 0
  c := 0
  imm := 0

def immOfTarget (t : Target) : BitVec 30 := t.delta ++ t.word

def encS2 (h : Hdr) (op : BitVec 8) (md : BitVec 6) (d : SDst) (a b : SSrc) : Raw :=
  { rawOf h op md with d := encSDst d, a := encSSrc a, b := encSSrc b }

def encS1 (h : Hdr) (op : BitVec 8) (d : SDst) (a : SSrc) : Raw :=
  { rawOf h op with d := encSDst d, a := encSSrc a }

def encSI (h : Hdr) (op : BitVec 8) (md : BitVec 6) (d : SDst) (a : SSrc) (i : BitVec 30) : Raw :=
  { rawOf h op md with d := encSDst d, a := encSSrc a, imm := i }

def encSh (h : Hdr) (op : BitVec 8) (d : SDst) (a : SSrc) (sh : BitVec 6) : Raw :=
  { rawOf h op with d := encSDst d, a := encSSrc a, imm := (0 : BitVec 24) ++ sh }

def bufBI : BufSel → Bool
  | .imm _ => true
  | .reg _ => false
def bufImm : BufSel → BitVec 16
  | .imm n => n
  | .reg _ => 0
def bufB : BufSel → BitVec 10
  | .imm _ => 0
  | .reg a => encSSrc a

/-- An MA word (R51, R53). -/
def encMA (h : Hdr) (op : BitVec 8) (sp : Bool) (sz : BitVec 2) (m : MemOp) (low : BitVec 11) (d a : BitVec 10) : Raw :=
  { rawOf h op (BitVec.ofBool (bufBI m.buf) ++ encOrd m.ord ++ BitVec.ofBool sp ++ sz) with
    d := d, a := a, b := bufB m.buf, c := encSSrc m.off, imm := bufImm m.buf ++ encOrdScope m.ord ++ low }

def encSxA (sx : Bool) : BitVec 10 := if sx then 1 else 0

def vsBS : VSSrc → Bool
  | .vec _ => false
  | .sc _ => true
def vsB : VSSrc → BitVec 10
  | .vec a => encVSrc a
  | .sc a => encSSrc a

/-- The immediate of format VA. -/
def immVA (t : Ty) (rm : BitVec 3) (sat bs : Bool) : BitVec 30 :=
  encTy t ++ rm ++ BitVec.ofBool sat ++ BitVec.ofBool bs ++ (0 : BitVec 21)

def immVC (dt st : Ty) (rm : RM) (sat : Bool) (part : BitVec 3) : BitVec 30 :=
  encTy dt ++ encRM rm ++ BitVec.ofBool sat ++ encTy st ++ part ++ (0 : BitVec 15)

def immVP (t : Ty) (lane : BitVec 11) : BitVec 30 := encTy t ++ (0 : BitVec 15) ++ lane

def immMC (k : BitVec 2) (stamp : BitVec 24) : BitVec 30 := (0 : BitVec 4) ++ k ++ stamp

def immBo (b : BoRef) : BitVec 30 := b.buf ++ b.off

def encVa2 (h : Hdr) (op : BitVec 8) (t : Ty) (rm : BitVec 3) (sat : Bool) (d : VDst) (a : VSrc) (b : VSSrc) : Raw :=
  { rawOf h op with d := encVDst d, a := encVSrc a, b := vsB b, imm := immVA t rm sat (vsBS b) }

def encVa1 (h : Hdr) (op : BitVec 8) (t : Ty) (rm : BitVec 3) (sat : Bool) (d : VDst) (a : VSrc) : Raw :=
  { rawOf h op with d := encVDst d, a := encVSrc a, imm := immVA t rm sat false }

def encVa3 (h : Hdr) (op : BitVec 8) (t : Ty) (rm : BitVec 3) (sat : Bool) (d : VDst) (a : VSrc) (b : VSSrc) (c : VSrc) : Raw :=
  { encVa2 h op t rm sat d a b with c := encVSrc c }

def encMc (h : Hdr) (op : BitVec 8) (a : BitVec 10) (k : BitVec 2) (stamp : BitVec 24) : Raw :=
  { rawOf h op with a := a, imm := immMC k stamp }

/-- The word of an instruction; the rows of the table that are no words have none. -/
def encodeRaw : Instr → Option Raw
  | .nop h => some (rawOf h 0x00)
  | .br h t => some { rawOf h 0x01 with imm := immOfTarget t }
  | .brc h c a b t => some { rawOf h 0x02 (encCond c) with a := encSSrc a, b := encSSrc b, imm := immOfTarget t }
  | .brp h al a t => some { rawOf h 0x03 ((0 : BitVec 5) ++ BitVec.ofBool al) with a := encPred a, imm := immOfTarget t }
  | .call h t => some { rawOf h 0x04 with imm := immOfTarget t }
  | .ret h => some (rawOf h 0x05)
  | .loop h l a e => some { rawOf h 0x06 ((0 : BitVec 4) ++ BitVec.ofNat 2 l.val) with a := encSSrc a, imm := (0 : BitVec 14) ++ e }
  | .loops h l a m e =>
      some { rawOf h 0x07 ((0 : BitVec 4) ++ BitVec.ofNat 2 l.val) with a := encSSrc a, imm := (0 : BitVec 11) ++ m ++ e }
  | .brkl h l => some (rawOf h 0x08 ((0 : BitVec 4) ++ BitVec.ofNat 2 l.val))
  | .suspend h => some (rawOf h 0x09)
  | .yield h => some (rawOf h 0x0A)
  | .halt h => some (rawOf h 0x0B)
  | .watch h m => some (encMA h 0x0C false 0 m m.disp 0 0)
  | .sleep h => some (rawOf h 0x0D)
  | .tfence h => some (rawOf h 0x0E)
  | .stampb h a i => some { rawOf h 0x0F with a := encSSrc a, imm := i }
  | .trap h code => some { rawOf h 0x10 with imm := (0 : BitVec 14) ++ code }
  | .bkpt h code => some { rawOf h 0x11 with imm := (0 : BitVec 14) ++ code }
  | .csrr h d r => some { rawOf h 0x18 with d := encSDst d, imm := (0 : BitVec 18) ++ encCsr r }
  | .csrw h r a => some { rawOf h 0x19 with a := encSSrc a, imm := (0 : BitVec 18) ++ encCsr r }
  | .eret h => some (rawOf h 0x1A)
  | .tlbinv h a b => some { rawOf h 0x1B with a := encSSrc a, b := encSSrc b }
  | .bufinv h a => some { rawOf h 0x1C with a := encSSrc a }
  | .add h m d a b => some (encS2 h 0x20 (encSatMode m) d a b)
  | .addi h m d a i => some (encSI h 0x21 (encSatMode m) d a i)
  | .sub h m d a b => some (encS2 h 0x22 (encSatMode m) d a b)
  | .mul h m d a b => some (encS2 h 0x23 (encSatMode m) d a b)
  | .mulh h d a b => some (encS2 h 0x24 0 d a b)
  | .mulhn h d a b => some (encS2 h 0x24 1 d a b)
  | .div h d a b => some (encS2 h 0x25 0 d a b)
  | .divn h d a b => some (encS2 h 0x25 1 d a b)
  | .rem h d a b => some (encS2 h 0x26 0 d a b)
  | .remn h d a b => some (encS2 h 0x26 1 d a b)
  | .madd h m d a b c => some { encS2 h 0x27 (encSatMode m) d a b with c := encSSrc c }
  | .and h d a b => some (encS2 h 0x28 0 d a b)
  | .andi h d a i => some (encSI h 0x29 0 d a i)
  | .or h d a b => some (encS2 h 0x2A 0 d a b)
  | .ori h d a i => some (encSI h 0x2B 0 d a i)
  | .xor h d a b => some (encS2 h 0x2C 0 d a b)
  | .xori h d a i => some (encSI h 0x2D 0 d a i)
  | .andn h d a b => some (encS2 h 0x2E 0 d a b)
  | .clz h d a => some (encS1 h 0x2F d a)
  | .shl h d a b => some (encS2 h 0x30 0 d a b)
  | .shli h d a i => some (encSh h 0x31 d a i)
  | .shr h d a b => some (encS2 h 0x32 0 d a b)
  | .shri h d a i => some (encSh h 0x33 d a i)
  | .sra h d a b => some (encS2 h 0x34 0 d a b)
  | .srai h d a i => some (encSh h 0x35 d a i)
  | .min h d a b => some (encS2 h 0x36 0 d a b)
  | .minn h d a b => some (encS2 h 0x36 1 d a b)
  | .max h d a b => some (encS2 h 0x37 0 d a b)
  | .maxn h d a b => some (encS2 h 0x37 1 d a b)
  | .cmp h c d a b => some (encS2 h 0x38 (encCond c) d a b)
  | .sel h d a b c => some { encS2 h 0x39 0 d a b with c := encSSrc c }
  | .li h d k => some { rawOf h 0x3A with d := encSDst d, b := k.extractLsb' 40 10, c := k.extractLsb' 30 10, imm := k.extractLsb' 0 30 }
  | .lih h d a k =>
      some { rawOf h 0x3B with d := encSDst d, a := encSSrc a, c := (0 : BitVec 8) ++ k.extractLsb' 30 2, imm := k.extractLsb' 0 30 }
  | .popc h d a => some (encS1 h 0x3C d a)
  | .bext h d a pos w1 => some { encS1 h 0x3D d a with imm := (0 : BitVec 18) ++ w1 ++ pos }
  | .bins h d a b pos w1 => some { encS2 h 0x3E 0 d a b with imm := (0 : BitVec 18) ++ w1 ++ pos }
  | .lds h sz sx sp d m => some (encMA h 0x40 sp sz m m.disp (encSDst d) (encSxA sx))
  | .sts h sz a m => some (encMA h 0x41 false sz m m.disp 0 (encSSrc a))
  | .cld h sz sx d m => some (encMA h 0x42 false sz m m.disp (encSDst d) (encSxA sx))
  | .amo h op sz d a m => some (encMA h 0x43 false sz m (encAmoOp op ++ m.disp.extractLsb' 0 7) (encSDst d) (encSSrc a))
  | .cas h sz d a m => some (encMA h 0x44 false sz m m.disp (encSDst d) (encSSrc a))
  | .vld h sp d m => some (encMA h 0x50 sp 0 m m.disp (encVDst d) 0)
  | .vlds h sz sp d a m => some (encMA h 0x51 sp sz m m.disp (encVDst d) (encSSrc a))
  | .vldx h sz sp d a m => some (encMA h 0x52 sp sz m m.disp (encVDst d) (encVSrc a))
  | .vldb h sz sp d m => some (encMA h 0x53 sp sz m m.disp (encVDst d) 0)
  | .vst h a m => some (encMA h 0x54 false 0 m m.disp 0 (encVSrc a))
  | .vsts h sz a d m => some (encMA h 0x55 false sz m m.disp (encSSrc d) (encVSrc a))
  | .vstx h sz a d m => some (encMA h 0x56 false sz m m.disp (encVSrc d) (encVSrc a))
  | .vstn h a d m => some (encMA h 0x57 false 0 m m.disp (encVSrc d) (encVSrc a))
  | .amov h op t a m => some (encMA h 0x58 false t.szCode m (encAmoOp op ++ encTy t ++ (0 : BitVec 3)) 0 (encVSrc a))
  | .fence h sc => some (rawOf h 0x60 ((0 : BitVec 3) ++ encScope sc))
  | .lfence h sc mask => some { rawOf h 0x61 ((0 : BitVec 3) ++ encScope sc) with imm := (0 : BitVec 26) ++ mask }
  | .barr h lv => some (rawOf h 0x62 (encLevel lv))
  | .boarm h a m => some (encMA h 0x63 false 0 m m.disp 0 (encSSrc a))
  | .boadd h a m => some (encMA h 0x64 false 0 m m.disp 0 (encSSrc a))
  | .bowait h d a m => some (encMA h 0x65 false 0 m m.disp (encSDst d) (encSSrc a))
  | .lpatch h sel d a b => some { encS2 h 0x70 0 d a b with imm := (0 : BitVec 26) ++ sel }
  | .larm h d a => some (encS1 h 0x71 d a)
  | .rchk h d a b => some (encS2 h 0x72 0 d a b)
  | .rinv h d a b => some (encS2 h 0x73 0 d a b)
  | .acpy h d a b c bo => some { encS2 h 0x78 0 d a b with c := encSSrc c, imm := immBo bo }
  | .afill h d a b c bo => some { encS2 h 0x79 0 d a b with c := encSSrc c, imm := immBo bo }
  | .agath h d a bo => some { encS1 h 0x7A d a with imm := immBo bo }
  | .ascat h d a bo => some { encS1 h 0x7B d a with imm := immBo bo }
  | .aferry h d a b c bo => some { encS2 h 0x7C 0 d a b with c := encSSrc c, imm := immBo bo }
  | .acoll h d a b bo => some { encS2 h 0x7D 0 d a b with imm := immBo bo }
  | .astat h d a => some (encS1 h 0x7E d a)
  | .vadd h t rm sat d a b => some (encVa2 h 0x80 t (encRM rm) sat d a b)
  | .vsub h t rm sat d a b => some (encVa2 h 0x81 t (encRM rm) sat d a b)
  | .vmul h t rm sat d a b => some (encVa2 h 0x82 t (encRM rm) sat d a b)
  | .vmulh h t d a b => some (encVa2 h 0x83 t 0 false d a b)
  | .vfma h t rm sat d a b c => some (encVa3 h 0x84 t (encRM rm) sat d a b c)
  | .vfms h t rm sat d a b c => some (encVa3 h 0x85 t (encRM rm) sat d a b c)
  | .vfnma h t rm sat d a b c => some (encVa3 h 0x86 t (encRM rm) sat d a b c)
  | .vmin h t d a b => some (encVa2 h 0x87 t 0 false d a b)
  | .vmax h t d a b => some (encVa2 h 0x88 t 0 false d a b)
  | .vabs h t sat d a => some (encVa1 h 0x89 t 0 sat d a)
  | .vneg h t sat d a => some (encVa1 h 0x8A t 0 sat d a)
  | .vrcp h t rm sat d a => some (encVa1 h 0x90 t (encRM rm) sat d a)
  | .vrsq h t rm sat d a => some (encVa1 h 0x91 t (encRM rm) sat d a)
  | .vsqrt h t rm sat d a => some (encVa1 h 0x92 t (encRM rm) sat d a)
  | .vexp2 h t rm sat d a => some (encVa1 h 0x93 t (encRM rm) sat d a)
  | .vlog2 h t rm sat d a => some (encVa1 h 0x94 t (encRM rm) sat d a)
  | .vsin h t rm sat d a => some (encVa1 h 0x95 t (encRM rm) sat d a)
  | .vcos h t rm sat d a => some (encVa1 h 0x96 t (encRM rm) sat d a)
  | .vtanh h t rm sat d a => some (encVa1 h 0x97 t (encRM rm) sat d a)
  | .vsig h t rm sat d a => some (encVa1 h 0x98 t (encRM rm) sat d a)
  | .vand h t d a b => some (encVa2 h 0xA0 t 0 false d a b)
  | .vor h t d a b => some (encVa2 h 0xA1 t 0 false d a b)
  | .vxor h t d a b => some (encVa2 h 0xA2 t 0 false d a b)
  | .vshl h t d a b => some (encVa2 h 0xA3 t 0 false d a b)
  | .vshr h t d a b => some (encVa2 h 0xA4 t 0 false d a b)
  | .vsra h t d a b => some (encVa2 h 0xA5 t 0 false d a b)
  | .vcmp h c t d a b =>
      some { rawOf h 0xA6 (encVCond c) with d := encPred d, a := encVSrc a, b := vsB b, imm := immVA t 0 false (vsBS b) }
  | .vsel h t d a b c =>
      some { rawOf h 0xA7 with d := encVDst d, a := encPred a, b := vsB b, c := encVSrc c, imm := immVA t 0 false (vsBS b) }
  | .vclassV h t d a => some (encVa1 h 0xA8 t 0 false d a)
  | .vclassP h t d a b =>
      some { rawOf h 0xA8 with d := encPred d, a := encVSrc a, b := encSSrc b, imm := immVA t 0 false true }
  | .vradd h t rm sat d a => some (encVa1 h 0xB0 t (encRM rm) sat d a)
  | .vrmax h t d a => some (encVa1 h 0xB1 t 0 false d a)
  | .vrmin h t d a => some (encVa1 h 0xB2 t 0 false d a)
  | .vscan h t rm sat d a => some (encVa1 h 0xB3 t (encRM rm) sat d a)
  | .vcvt h dt st rm sat part d a => some { rawOf h 0xC0 with d := encVDst d, a := encVSrc a, imm := immVC dt st rm sat part }
  | .vqmx h dt st rm sat part d b a =>
      some { rawOf h 0xC1 with d := encVDst d, a := encVSrc a, b := encVDst b, imm := immVC dt st rm sat part }
  | .vdqmx h dt st rm sat part d a b =>
      some { rawOf h 0xC2 with d := encVDst d, a := encVSrc a, b := encVSrc b, imm := immVC dt st rm sat part }
  | .vpack h dt st rm sat d a b =>
      some { rawOf h 0xC3 with d := encVDst d, a := encVSrc a, b := encVSrc b, imm := immVC dt st rm sat 0 }
  | .vunpk h dt st rm sat part d a => some { rawOf h 0xC4 with d := encVDst d, a := encVSrc a, imm := immVC dt st rm sat part }
  | .vldexp h t rm sat d a b => some (encVa2 h 0xC5 t (encRM rm) sat d a b)
  | .vperm h t d a b => some { rawOf h 0xD0 with d := encVDst d, a := encVSrc a, b := encVSrc b, imm := immVP t 0 }
  | .vshuf h t d a b c =>
      some { rawOf h 0xD1 with d := encVDst d, a := encVSrc a, b := encVSrc b, c := encSSrc c, imm := immVP t 0 }
  | .vbcst h t l d a => some { rawOf h 0xD2 with d := encVDst d, a := encVSrc a, imm := immVP t l }
  | .vins h t l d a b => some { rawOf h 0xD3 with d := encVDst d, a := encVSrc a, b := encSSrc b, imm := immVP t l }
  | .vexts h t l d a => some { rawOf h 0xD4 with d := encSDst d, a := encVSrc a, imm := immVP t l }
  | .vcomp h t d a b => some { rawOf h 0xD5 with d := encVDst d, a := encVSrc a, b := encPred b, imm := immVP t 0 }
  | .vexpd h t d a b => some { rawOf h 0xD6 with d := encVDst d, a := encVSrc a, b := encPred b, imm := immVP t 0 }
  | .vtrn h t d a => some { rawOf h 0xD7 with d := encVReg d, a := encVReg a, imm := immVP t 0 }
  | .pand h t d a b => some { rawOf h 0xD8 0 with d := encPred d, a := encPred a, b := encPred b, imm := immVP t 0 }
  | .por h t d a b => some { rawOf h 0xD8 1 with d := encPred d, a := encPred a, b := encPred b, imm := immVP t 0 }
  | .pxor h t d a b => some { rawOf h 0xD8 2 with d := encPred d, a := encPred a, b := encPred b, imm := immVP t 0 }
  | .pnot h t d a => some { rawOf h 0xD8 3 with d := encPred d, a := encPred a, imm := immVP t 0 }
  | .pcnt h t d a => some { rawOf h 0xD9 with d := encSDst d, a := encPred a, imm := immVP t 0 }
  | .pfirst h t d a => some { rawOf h 0xDA with d := encSDst d, a := encPred a, imm := immVP t 0 }
  | .pmov h t d a b => some { rawOf h 0xDB with d := encPred d, a := encPred a, b := encSSrc b, imm := immVP t 0 }
  | .vpchk h t d a => some { rawOf h 0xDC with d := encVDst d, a := encVSrc a, imm := immVP t 0 }
  | .vpclr h t d a => some { rawOf h 0xDD with d := encVDst d, a := encVSrc a, imm := immVP t 0 }
  | .mcfg h a st => some (encMc h 0xE0 (encSSrc a) 0 st)
  | .mldw h a st => some (encMc h 0xE1 (encSSrc a) 0 st)
  | .mswp h st => some (encMc h 0xE2 0 0 st)
  | .mlds h a st => some (encMc h 0xE3 (encSSrc a) 0 st)
  | .mma h k a b c st => some { encMc h 0xE4 (encVReg a) k st with b := encSSrc b, c := c }
  | .mza h k st => some (encMc h 0xE5 0 k st)
  | .mdrn h k d b st => some { encMc h 0xE6 0 k st with d := encVReg d, b := encSSrc b }
  | .mkpr h d st => some { encMc h 0xE7 0 0 st with d := encSDst d }
  | .mbswp h a st => some (encMc h 0xE8 (encSSrc a) 0 st)
  | _ => none

/-- The 96-bit word of an instruction. -/
def encode (i : Instr) : Option IWord := (encodeRaw i).map Raw.toWord

-- collective steps (R356, R357)

/-- The fields of a step's two words. -/
def decStepArgs (w0 w1 : Word) : StepArgs where
  slot := w0.extractLsb' 48 8
  peer := w0.extractLsb' 32 16
  rop  := w0.extractLsb' 28 4
  ty   := w0.extractLsb' 24 4
  hb   := w0.extractLsb' 20 4
  ha   := w0.extractLsb' 16 4
  c    := w0.getLsbD 14
  sb   := w0.getLsbD 13
  sa   := w0.getLsbD 12
  ix   := w0.getLsbD 11
  li   := w0.getLsbD 10
  pm   := w0.extractLsb' 8 2
  len  := w1.extractLsb' 0 32

/-- The reserved bits of a step are 0 (R356). -/
def stepReservedOk (w0 w1 : Word) : Bool :=
  w0.extractLsb' 56 8 == 0 && !w0.getLsbD 15 && w1.extractLsb' 32 32 == 0

/-- A step by its opcode; the fields are checked by `Instr.wf` (R362: ENCODING). -/
def decodeStep (w0 w1 : Word) : Option Instr :=
  let a := decStepArgs w0 w1
  let i : Option Instr :=
    match (w0.extractLsb' 0 8).toNat with
    | 0x01 => some (.send a) | 0x02 => some (.recv a) | 0x03 => some (.pushred a) | 0x04 => some (.pull a)
    | 0x05 => some (.collCopy a) | 0x06 => some (.wait a) | 0x07 => some (.collSignal a) | 0x08 => some (.collLoop a)
    | 0x09 => some (.endl a) | 0x0A => some (.countx a) | 0x0B => some (.pfxsum a) | 0x0F => some (.collEnd a)
    | _ => none
  match i with
  | some i => if stepReservedOk w0 w1 && i.wf .L then some i else none
  | none => none

def encStep0 (opc : BitVec 8) (a : StepArgs) : Word :=
  (0 : BitVec 8) ++ a.slot ++ a.peer ++ a.rop ++ a.ty ++ a.hb ++ a.ha ++ (0 : BitVec 1) ++ BitVec.ofBool a.c ++
    BitVec.ofBool a.sb ++ BitVec.ofBool a.sa ++ BitVec.ofBool a.ix ++ BitVec.ofBool a.li ++ a.pm ++ opc

def encStep1 (a : StepArgs) : Word := (0 : BitVec 32) ++ a.len

def encodeStep : Instr → Option (Word × Word)
  | .send a => some (encStep0 0x01 a, encStep1 a)
  | .recv a => some (encStep0 0x02 a, encStep1 a)
  | .pushred a => some (encStep0 0x03 a, encStep1 a)
  | .pull a => some (encStep0 0x04 a, encStep1 a)
  | .collCopy a => some (encStep0 0x05 a, encStep1 a)
  | .wait a => some (encStep0 0x06 a, encStep1 a)
  | .collSignal a => some (encStep0 0x07 a, encStep1 a)
  | .collLoop a => some (encStep0 0x08 a, encStep1 a)
  | .endl a => some (encStep0 0x09 a, encStep1 a)
  | .countx a => some (encStep0 0x0A a, encStep1 a)
  | .pfxsum a => some (encStep0 0x0B a, encStep1 a)
  | .collEnd a => some (encStep0 0x0F a, encStep1 a)
  | _ => none

-- work-queue entries (R374)

/-- Why an entry is refused: the halt code of R375. -/
inductive BadEntry where
  | kind | reserved
deriving DecidableEq, Repr

/-- The kinds of R374 over the eight words of an entry; a reserved bit that is not 0 is ERRC 2 (R375). -/
def decodeEntry (w0 w1 w2 w3 w4 w5 w6 w7 : Word) : Except BadEntry Instr :=
  let rsv (c : Bool) (i : Instr) : Except BadEntry Instr := if c then .ok i else .error .reserved
  let hi := w0.extractLsb' 12 52 == 0
  let mid := w0.extractLsb' 8 4 == 0
  match (w0.extractLsb' 0 8).toNat with
  | 1 => rsv (hi && mid && w1.extractLsb' 17 15 == 0 && w2 == 0 && w3 == 0 && w4 == 0 && w5 == 0 && w6 == 0 && w7 == 0)
      (.launch (w1.extractLsb' 0 16) (w1.getLsbD 16) (w1.extractLsb' 32 32))
  | 2 => rsv (hi && w7 == 0) (.seq (w0.extractLsb' 8 4) w1 w2 w3 w4 w5 w6)
  | 3 => rsv (hi && mid && w5 == 0 && w6 == 0 && w7 == 0) (.copy w1 w2 w3 w4)
  | 4 => rsv (hi && mid && w2.extractLsb' 1 63 == 0 && w3 == 0 && w4 == 0 && w5 == 0 && w6 == 0 && w7 == 0)
      (.waitbo w1 (w2.getLsbD 0))
  | 5 => rsv (hi && mid && w3.extractLsb' 11 4 == 0 && w3.extractLsb' 16 48 == 0 && w4 == 0 && w5 == 0 && w6 == 0 && w7 == 0)
      (.signal w1 w2 (w3.extractLsb' 0 11) (w3.getLsbD 15))
  | 6 => rsv (hi && mid && w4.extractLsb' 20 12 == 0 && w4.extractLsb' 52 12 == 0 && w5 == 0 && w6 == 0 && w7 == 0)
      (.coll w1 w2 w3 (w4.extractLsb' 0 20) (w4.extractLsb' 32 20))
  | _ => .error .kind

/-- The eight words of an entry. -/
def encodeEntry : Instr → Option (List Word)
  | .launch r sett tiles => some [1, tiles ++ (0 : BitVec 15) ++ BitVec.ofBool sett ++ r, 0, 0, 0, 0, 0, 0]
  | .seq n w0 w1 w2 w3 w4 w5 => some [(0 : BitVec 52) ++ n ++ (2 : BitVec 8), w0, w1, w2, w3, w4, w5, 0]
  | .copy a b c d => some [3, a, b, c, d, 0, 0, 0]
  | .waitbo b p => some [4, b, (0 : BitVec 63) ++ BitVec.ofBool p, 0, 0, 0, 0, 0]
  | .signal b n v m => some [5, b, n, (0 : BitVec 48) ++ BitVec.ofBool m ++ (0 : BitVec 4) ++ v, 0, 0, 0, 0]
  | .coll p a b r n => some [6, p, a, b, (0 : BitVec 12) ++ n ++ (0 : BitVec 12) ++ r, 0, 0, 0]
  | _ => none

-- the host's two questions

/-- The engine on which a bare word is tried: the first on which its opcode is valid (R56). -/
def engineFor (op : BitVec 8) : Option Eng :=
  if opValidOn .L op then some .L else if opValidOn .S op then some .S
  else if opValidOn .X op then some .X else if opValidOn .M op then some .M else none

/-- Bits `lo` to `lo + 63` of a number. -/
def wordAt (w lo : Nat) : Word := BitVec.ofNat 64 (w >>> lo)

/-- The instruction the decoder reads from `nbits` bits `w`: up to 96 bits are an instruction word, up to 128 a
collective step, more a work-queue entry. -/
def decodeTableWord (nbits w : Nat) : Option Instr :=
  if nbits ≤ 96 then
    match engineFor (Raw.ofWord (BitVec.ofNat 96 w)).op with
    | some e => (decodeWord e (BitVec.ofNat 96 w)).toOption
    | none => none
  else if nbits ≤ 128 then decodeStep (wordAt w 0) (wordAt w 64)
  else (decodeEntry (wordAt w 0) (wordAt w 64) (wordAt w 128) (wordAt w 192) (wordAt w 256) (wordAt w 320)
    (wordAt w 384) (wordAt w 448)).toOption

end Sys2Proof
end

