-- ==== Sys2Proof/Machine/Operands.lean ====
section
/-! DEFINITION. Operands: what each word reads, writes, pushes and consumes (03 R45, 01 R19, R20, 06 R104), and reading and
writing them. -/

namespace Sys2Proof.Machine

/-- A register or ring operand that a word reads. -/
inductive Rd where
  | s (a : SSrc)
  | v (a : VSrc)
  | vs (first count : Nat)
  | p (n : Fin 16)
deriving DecidableEq, Repr

/-- A register that a word writes. -/
inductive Wr where
  | s (d : SDst)
  | v (d : VDst)
  | vs (first count : Nat)
  | p (n : Fin 16)
deriving DecidableEq, Repr

/-- An operand that a word consumes (R104): a scalar, a scalar that every active lane of width `w` reads (07 R106; `wide` where it
is broadcast as an element), or the first `n` elements of width `w` of a vector. -/
inductive Cons where
  | s (a : SSrc)
  | b (a : SSrc) (w : Nat) (wide : Bool)
  | v (a : VSrc) (w n : Nat)
deriving DecidableEq, Repr

def hdrOf : Instr → Option Hdr
  | .nop h | .br h _ | .brc h _ _ _ _ | .brp h _ _ _ | .call h _ | .ret h | .loop h _ _ _ | .loops h _ _ _ _ | .brkl h _
  | .suspend h | .yield h | .halt h | .watch h _ | .sleep h | .tfence h | .stampb h _ _ | .trap h _ | .bkpt h _
  | .csrr h _ _ | .csrw h _ _ | .eret h | .tlbinv h _ _ | .bufinv h _ => some h
  | .add h _ _ _ _ | .addi h _ _ _ _ | .sub h _ _ _ _ | .mul h _ _ _ _ | .madd h _ _ _ _ _ | .mulh h _ _ _
  | .mulhn h _ _ _ | .div h _ _ _ | .divn h _ _ _ | .rem h _ _ _ | .remn h _ _ _ | .and h _ _ _ | .andi h _ _ _
  | .or h _ _ _ | .ori h _ _ _ | .xor h _ _ _ | .xori h _ _ _ | .andn h _ _ _ | .clz h _ _ | .popc h _ _
  | .shl h _ _ _ | .shli h _ _ _ | .shr h _ _ _ | .shri h _ _ _ | .sra h _ _ _ | .srai h _ _ _ | .min h _ _ _
  | .minn h _ _ _ | .max h _ _ _ | .maxn h _ _ _ | .cmp h _ _ _ _ | .sel h _ _ _ _ | .li h _ _ | .lih h _ _ _
  | .bext h _ _ _ _ | .bins h _ _ _ _ _ => some h
  | .lds h _ _ _ _ _ | .sts h _ _ _ | .cld h _ _ _ _ | .amo h _ _ _ _ _ | .cas h _ _ _ _ | .vld h _ _ _
  | .vlds h _ _ _ _ _ | .vldx h _ _ _ _ _ | .vldb h _ _ _ _ | .vst h _ _ | .vsts h _ _ _ _ | .vstx h _ _ _ _
  | .vstn h _ _ _ | .amov h _ _ _ _ | .fence h _ | .lfence h _ _ | .barr h _ | .boarm h _ _ | .boadd h _ _
  | .bowait h _ _ _ => some h
  | .lpatch h _ _ _ _ | .larm h _ _ | .rchk h _ _ _ | .rinv h _ _ _ | .acpy h _ _ _ _ _ | .afill h _ _ _ _ _
  | .agath h _ _ _ | .ascat h _ _ _ | .aferry h _ _ _ _ _ | .acoll h _ _ _ _ | .astat h _ _ => some h
  | .vadd h _ _ _ _ _ _ | .vsub h _ _ _ _ _ _ | .vmul h _ _ _ _ _ _ | .vmulh h _ _ _ _ | .vfma h _ _ _ _ _ _ _
  | .vfms h _ _ _ _ _ _ _ | .vfnma h _ _ _ _ _ _ _ | .vmin h _ _ _ _ | .vmax h _ _ _ _ | .vabs h _ _ _ _
  | .vneg h _ _ _ _ | .vrcp h _ _ _ _ _ | .vrsq h _ _ _ _ _ | .vsqrt h _ _ _ _ _ | .vexp2 h _ _ _ _ _
  | .vlog2 h _ _ _ _ _ | .vsin h _ _ _ _ _ | .vcos h _ _ _ _ _ | .vtanh h _ _ _ _ _ | .vsig h _ _ _ _ _
  | .vand h _ _ _ _ | .vor h _ _ _ _ | .vxor h _ _ _ _ | .vshl h _ _ _ _ | .vshr h _ _ _ _ | .vsra h _ _ _ _
  | .vcmp h _ _ _ _ _ | .vsel h _ _ _ _ _ | .vclassV h _ _ _ | .vclassP h _ _ _ _ | .vradd h _ _ _ _ _
  | .vrmax h _ _ _ | .vrmin h _ _ _ | .vscan h _ _ _ _ _ => some h
  | .vcvt h _ _ _ _ _ _ _ | .vqmx h _ _ _ _ _ _ _ _ | .vdqmx h _ _ _ _ _ _ _ _ | .vpack h _ _ _ _ _ _ _
  | .vunpk h _ _ _ _ _ _ _ | .vldexp h _ _ _ _ _ _ | .vperm h _ _ _ _ | .vshuf h _ _ _ _ _ | .vbcst h _ _ _ _
  | .vins h _ _ _ _ _ | .vexts h _ _ _ _ | .vcomp h _ _ _ _ | .vexpd h _ _ _ _ | .vtrn h _ _ _ | .vpclr h _ _ _
  | .pand h _ _ _ _ | .por h _ _ _ _ | .pxor h _ _ _ _ | .pnot h _ _ _ | .pcnt h _ _ _ | .pfirst h _ _ _
  | .pmov h _ _ _ _ | .vpchk h _ _ _ => some h
  | .mcfg h _ _ | .mldw h _ _ | .mswp h _ | .mlds h _ _ | .mma h _ _ _ _ _ | .mza h _ _ | .mdrn h _ _ _ _
  | .mkpr h _ _ | .mbswp h _ _ => some h
  | _ => none

/-- A word's header; rows that are not words have none and take this one. -/
def Hdr.none : Hdr where
  stop := true
  pop := 0
  post := 0
  g := 0
  gn := false

def hdrD (i : Instr) : Hdr := (hdrOf i).getD Hdr.none

-- what a word reads, with the FIELD of R310

def rdMem (m : MemOp) : List (Nat × Rd) :=
  (match m.buf with
   | .reg b => [(fB, .s b)]
   | .imm _ => []) ++ [(fC, .s m.off)]

def rdVS : VSSrc → Rd
  | .vec a => .v a
  | .sc a => .s a

/-- Source operands in the order A, B, C and then a D field that is a source. -/
def readsOf : Instr → List (Nat × Rd)
  | .brc _ _ a b _ => [(fA, .s a), (fB, .s b)]
  | .brp _ _ a _ => [(fA, .p a)]
  | .loop _ _ a _ | .loops _ _ a _ _ | .stampb _ a _ | .csrw _ _ a | .bufinv _ a => [(fA, .s a)]
  | .tlbinv _ a b => [(fA, .s a), (fB, .s b)]
  | .watch _ m => rdMem m
  | .add _ _ _ a b | .sub _ _ _ a b | .mul _ _ _ a b => [(fA, .s a), (fB, .s b)]
  | .madd _ _ _ a b c => [(fA, .s a), (fB, .s b), (fC, .s c)]
  | .addi _ _ _ a _ => [(fA, .s a)]
  | .mulh _ _ a b | .mulhn _ _ a b | .div _ _ a b | .divn _ _ a b | .rem _ _ a b | .remn _ _ a b
  | .and _ _ a b | .or _ _ a b | .xor _ _ a b | .andn _ _ a b | .shl _ _ a b | .shr _ _ a b | .sra _ _ a b
  | .min _ _ a b | .minn _ _ a b | .max _ _ a b | .maxn _ _ a b => [(fA, .s a), (fB, .s b)]
  | .cmp _ _ _ a b => [(fA, .s a), (fB, .s b)]
  | .andi _ _ a _ | .ori _ _ a _ | .xori _ _ a _ | .clz _ _ a | .popc _ _ a | .shli _ _ a _ | .shri _ _ a _
  | .srai _ _ a _ | .lih _ _ a _ | .bext _ _ a _ _ => [(fA, .s a)]
  | .sel _ _ a b c => [(fA, .s a), (fB, .s b), (fC, .s c)]
  | .bins _ _ a b _ _ => [(fA, .s a), (fB, .s b)]
  | .lds _ _ _ _ _ m | .cld _ _ _ _ m | .vld _ _ _ m | .vldb _ _ _ _ m => rdMem m
  | .sts _ _ a m | .boarm _ a m | .boadd _ a m | .bowait _ _ a m => (fA, .s a) :: rdMem m
  | .amo _ _ _ _ a m => (fA, .s a) :: rdMem m
  | .cas _ _ d a m => (fA, .s a) :: rdMem m ++ (match d with
      | .s n => [(fD, .s (.s n))]
      | .z => [])
  | .vlds _ _ _ _ a m => (fA, .s a) :: rdMem m
  | .vldx _ _ _ _ a m => (fA, .v a) :: rdMem m
  | .vst _ a m | .amov _ _ _ a m => (fA, .v a) :: rdMem m
  | .vsts _ _ a d m => (fA, .v a) :: rdMem m ++ [(fD, .s d)]
  | .vstx _ _ a d m | .vstn _ a d m => (fA, .v a) :: rdMem m ++ [(fD, .v d)]
  | .lpatch _ _ _ a b | .rchk _ _ a b | .rinv _ _ a b | .acoll _ _ a b _ => [(fA, .s a), (fB, .s b)]
  | .larm _ _ a | .agath _ _ a _ | .ascat _ _ a _ | .astat _ _ a => [(fA, .s a)]
  | .acpy _ _ a b c _ | .afill _ _ a b c _ | .aferry _ _ a b c _ => [(fA, .s a), (fB, .s b), (fC, .s c)]
  | .vadd _ _ _ _ _ a b | .vsub _ _ _ _ _ a b | .vmul _ _ _ _ _ a b => [(fA, .v a), (fB, rdVS b)]
  | .vmulh _ _ _ a b | .vmin _ _ _ a b | .vmax _ _ _ a b | .vand _ _ _ a b | .vor _ _ _ a b | .vxor _ _ _ a b
  | .vshl _ _ _ a b | .vshr _ _ _ a b | .vsra _ _ _ a b => [(fA, .v a), (fB, rdVS b)]
  | .vfma _ _ _ _ _ a b c | .vfms _ _ _ _ _ a b c | .vfnma _ _ _ _ _ a b c => [(fA, .v a), (fB, rdVS b), (fC, .v c)]
  | .vabs _ _ _ _ a | .vneg _ _ _ _ a => [(fA, .v a)]
  | .vrcp _ _ _ _ _ a | .vrsq _ _ _ _ _ a | .vsqrt _ _ _ _ _ a | .vexp2 _ _ _ _ _ a | .vlog2 _ _ _ _ _ a
  | .vsin _ _ _ _ _ a | .vcos _ _ _ _ _ a | .vtanh _ _ _ _ _ a | .vsig _ _ _ _ _ a | .vradd _ _ _ _ _ a
  | .vscan _ _ _ _ _ a => [(fA, .v a)]
  | .vcmp _ _ _ _ a b => [(fA, .v a), (fB, rdVS b)]
  | .vsel _ _ _ a b c => [(fA, .p a), (fB, rdVS b), (fC, .v c)]
  | .vclassV _ _ _ a | .vrmax _ _ _ a | .vrmin _ _ _ a | .vpclr _ _ _ a | .vpchk _ _ _ a => [(fA, .v a)]
  | .vclassP _ _ _ a b => [(fA, .v a), (fB, .s b)]
  | .vcvt _ _ _ _ _ _ _ a | .vqmx _ _ _ _ _ _ _ _ a | .vunpk _ _ _ _ _ _ _ a => [(fA, .v a)]
  | .vdqmx _ _ _ _ _ _ _ a b | .vpack _ _ _ _ _ _ a b => [(fA, .v a), (fB, .v b)]
  | .vldexp _ _ _ _ _ a b => [(fA, .v a), (fB, rdVS b)]
  | .vperm _ _ _ a b => [(fA, .v a), (fB, .v b)]
  | .vshuf _ _ _ a b c => [(fA, .v a), (fB, .v b), (fC, .s c)]
  | .vbcst _ _ _ _ a | .vexts _ _ _ _ a => [(fA, .v a)]
  | .vins _ _ _ _ a b => [(fA, .v a), (fB, .s b)]
  | .vcomp _ _ _ a b | .vexpd _ _ _ a b => [(fA, .v a), (fB, .p b)]
  | .vtrn _ _ _ a => [(fA, .vs a.val 16)]
  | .pand _ _ _ a b | .por _ _ _ a b | .pxor _ _ _ a b => [(fA, .p a), (fB, .p b)]
  | .pnot _ _ _ a | .pcnt _ _ _ a | .pfirst _ _ _ a => [(fA, .p a)]
  | .pmov _ _ _ a b => [(fA, .p a), (fB, .s b)]
  | .mcfg _ a _ | .mldw _ a _ | .mlds _ a _ | .mbswp _ a _ => [(fA, .s a)]
  | .mma _ _ _ b _ _ => [(fB, .s b)]
  | .mdrn _ _ _ b _ => [(fB, .s b)]
  | _ => []

/-- The guard of a word of X as a read of a predicate (R98). -/
def guardReads (e : Eng) (i : Instr) : List (Nat × Rd) :=
  if e == .X then [(fG, .p ⟨(hdrD i).g.toNat, (hdrD i).g.isLt⟩)] else []

/-- What a word writes. -/
def writesOf : Instr → List Wr
  | .csrr _ d _ => [.s d]
  | .add _ _ d _ _ | .sub _ _ d _ _ | .mul _ _ d _ _ | .madd _ _ d _ _ _ | .addi _ _ d _ _ => [.s d]
  | .mulh _ d _ _ | .mulhn _ d _ _ | .div _ d _ _ | .divn _ d _ _ | .rem _ d _ _ | .remn _ d _ _
  | .and _ d _ _ | .or _ d _ _ | .xor _ d _ _ | .andn _ d _ _ | .shl _ d _ _ | .shr _ d _ _ | .sra _ d _ _
  | .min _ d _ _ | .minn _ d _ _ | .max _ d _ _ | .maxn _ d _ _ | .andi _ d _ _ | .ori _ d _ _ | .xori _ d _ _
  | .shli _ d _ _ | .shri _ d _ _ | .srai _ d _ _ | .lih _ d _ _ => [.s d]
  | .clz _ d _ | .popc _ d _ | .li _ d _ => [.s d]
  | .cmp _ _ d _ _ | .sel _ d _ _ _ | .bext _ d _ _ _ => [.s d]
  | .bins _ d _ _ _ _ => [.s d]
  | .lds _ _ _ _ d _ | .amo _ _ _ d _ _ => [.s d]
  | .cld _ _ _ d _ | .cas _ _ d _ _ => [.s d]
  | .bowait _ d _ _ => [.s d]
  | .lpatch _ _ d _ _ | .acoll _ d _ _ _ => [.s d]
  | .larm _ d _ | .astat _ d _ => [.s d]
  | .rchk _ d _ _ | .rinv _ d _ _ | .agath _ d _ _ | .ascat _ d _ _ => [.s d]
  | .acpy _ d _ _ _ _ | .afill _ d _ _ _ _ | .aferry _ d _ _ _ _ => [.s d]
  | .vld _ _ d _ | .vldb _ _ _ d _ => [.v d]
  | .vlds _ _ _ d _ _ | .vldx _ _ _ d _ _ => [.v d]
  | .vadd _ _ _ _ d _ _ | .vsub _ _ _ _ d _ _ | .vmul _ _ _ _ d _ _ | .vfma _ _ _ _ d _ _ _ | .vfms _ _ _ _ d _ _ _
  | .vfnma _ _ _ _ d _ _ _ => [.v d]
  | .vmulh _ _ d _ _ | .vmin _ _ d _ _ | .vmax _ _ d _ _ | .vand _ _ d _ _ | .vor _ _ d _ _ | .vxor _ _ d _ _
  | .vshl _ _ d _ _ | .vshr _ _ d _ _ | .vsra _ _ d _ _ => [.v d]
  | .vabs _ _ _ d _ | .vneg _ _ _ d _ => [.v d]
  | .vrcp _ _ _ _ d _ | .vrsq _ _ _ _ d _ | .vsqrt _ _ _ _ d _ | .vexp2 _ _ _ _ d _ | .vlog2 _ _ _ _ d _
  | .vsin _ _ _ _ d _ | .vcos _ _ _ _ d _ | .vtanh _ _ _ _ d _ | .vsig _ _ _ _ d _ | .vradd _ _ _ _ d _
  | .vscan _ _ _ _ d _ => [.v d]
  | .vcmp _ _ _ d _ _ => [.p d]
  | .vsel _ _ d _ _ _ | .vclassV _ _ d _ | .vrmax _ _ d _ | .vrmin _ _ d _ | .vpclr _ _ d _ | .vpchk _ _ d _ => [.v d]
  | .vclassP _ _ d _ _ => [.p d]
  | .vcvt _ _ _ _ _ _ d _ | .vdqmx _ _ _ _ _ _ d _ _ | .vpack _ _ _ _ _ d _ _ | .vunpk _ _ _ _ _ _ d _ => [.v d]
  | .vqmx _ _ _ _ _ _ d b _ => [.v d, .v b]
  | .vldexp _ _ _ _ d _ _ | .vperm _ _ d _ _ | .vshuf _ _ d _ _ _ => [.v d]
  | .vbcst _ _ _ d _ | .vins _ _ _ d _ _ | .vcomp _ _ d _ _ | .vexpd _ _ d _ _ => [.v d]
  | .vexts _ _ _ d _ => [.s d]
  | .vtrn _ _ d _ => [.vs d.val 16]
  | .pand _ _ d _ _ | .por _ _ d _ _ | .pxor _ _ d _ _ | .pmov _ _ d _ _ | .pnot _ _ d _ => [.p d]
  | .pcnt _ _ d _ | .pfirst _ _ d _ => [.s d]
  | .mkpr _ d _ => [.s d]
  | .mdrn _ _ d _ _ => [.vs d.val 1]
  | _ => []

/-- Result-writing words (R20): those with a destination, and those whose destination field is fixed but that push (R77,
R83). -/
def pushesOf (i : Instr) : Bool :=
  match i with
  | .stampb _ _ _ | .tlbinv _ _ _ | .bufinv _ _ => true
  | _ => !(writesOf i).isEmpty

-- what a word consumes (R104)

def consMem (m : MemOp) : List (Nat × Cons) :=
  (match m.buf with
   | .reg b => [(fB, .s b)]
   | .imm _ => []) ++ [(fC, .s m.off)]

def consVS (w : Nat) : VSSrc → Cons
  | .vec a => .v a w (8192 / w)
  | .sc a => .b a w true

/-- Elements of an indexed access (R230). -/
def idxCount (sz : BitVec 2) : Nat := Nat.min (1024 / 2 ^ sz.toNat) 256

/-- The operands that a member consumes (06 R104). TLBINV and BUFINV are not among them: a poisoned source of theirs is used for its
data, and 0 is pushed clean (DESIGN CHOICE, LOG 65). -/
def consumesOf : Instr → List (Nat × Cons)
  | .brc _ _ a b _ => [(fA, .s a), (fB, .s b)]
  | .loop _ _ a _ | .loops _ _ a _ _ | .csrw _ _ a | .stampb _ a _ => [(fA, .s a)]
  | .watch _ m => consMem m
  | .lds _ _ _ sp _ m | .vld _ sp _ m | .vldb _ _ sp _ m => if sp then [] else consMem m
  | .cld _ _ _ _ m => consMem m
  | .sts _ _ a m | .boarm _ a m | .boadd _ a m | .bowait _ _ a m => (fA, .s a) :: consMem m
  | .amo _ _ _ _ a m => (fA, .s a) :: consMem m
  | .cas _ _ d a m => (fA, .s a) :: consMem m ++ (match d with
      | .s n => [(fD, .s (.s n))]
      | .z => [])
  | .vlds _ _ sp _ a m => if sp then [] else (fA, .s a) :: consMem m
  | .vldx _ sz sp _ a m => if sp then [] else (fA, .v a 32 (idxCount sz)) :: consMem m
  | .vst _ a m | .amov _ _ _ a m => (fA, .v a 32 256) :: consMem m
  | .vsts _ _ a d m => (fA, .v a 32 256) :: consMem m ++ [(fD, .s d)]
  | .vstx _ sz a d m => (fA, .v a 8 (idxCount sz * 2 ^ sz.toNat)) :: consMem m ++ [(fD, .v d 32 (idxCount sz))]
  | .vstn _ a d m => (fA, .v a 32 256) :: consMem m ++ [(fD, .v d 32 64)]
  | .lpatch _ _ _ a b | .acoll _ _ a b _ | .rchk _ _ a b | .rinv _ _ a b => [(fA, .s a), (fB, .s b)]
  | .larm _ _ a | .agath _ _ a _ | .ascat _ _ a _ | .astat _ _ a => [(fA, .s a)]
  | .acpy _ _ a b c _ | .afill _ _ a b c _ | .aferry _ _ a b c _ => [(fA, .s a), (fB, .s b), (fC, .s c)]
  | .vcmp _ _ t _ a b => [(fA, .v a t.width (8192 / t.width)), (fB, consVS t.width b)]
  | .vclassP _ t _ a b => [(fA, .v a t.width (8192 / t.width)), (fB, .b b t.width true)]
  | .pmov _ t _ _ b => [(fB, .b b t.width false)]
  | .mcfg _ a _ | .mldw _ a _ | .mlds _ a _ | .mbswp _ a _ => [(fA, .s a)]
  | .mma _ _ _ b _ _ | .mdrn _ _ _ b _ => [(fB, .s b)]
  | _ => []

-- reading

def ones64 : Word := BitVec.allOnes 64

/-- The scalar entry k of a ring, newest first. -/
def ringSc (ring : List RingEntry) (k : Nat) : SVal :=
  match ring[k]? with
  | some (.sc v) => v
  | _ => SVal.zero

def ringVec (ring : List RingEntry) (k : Nat) : VVal :=
  match ring[k]? with
  | some (.vec v) => v
  | _ => VVal.zero

/-- A scalar source (R45). A distance counts the results pushed so far in the engine's dynamic stream, those of earlier
members of the group among them (R20). -/
def srdIn (k : Core) (g : Engine) : SSrc → SVal
  | .s n => g.reg n.val
  | .q n => SVal.clean (k.q n.val)
  | .lc n => SVal.clean (g.lc n.val)
  | .sp n => SVal.clean (if g.stage n.val then 1 else 0)
  | .d j => ringSc g.ring j.val
  | .z => SVal.zero
  | .ones => SVal.clean ones64

/-- A vector source (R45). -/
def vrdIn (k : Core) (g : Engine) : VSrc → VVal
  | .v n => k.vreg n.val
  | .d j => ringVec g.ring j.val
  | .z => VVal.zero
  | .ones => VVal.clean (BitVec.allOnes 8192)

/-- A core as a member of group `r` reads it (R91). -/
def Core.seenBy (k : Core) (r : Option Grp) : Core :=
  match r.bind Grp.snap with
  | some x => { k with v := x.v, p := x.p }
  | none => k

/-- An engine as a member of group `r` reads it (R91). -/
def Engine.seenBy (g : Engine) (r : Option Grp) : Engine :=
  match r.bind Grp.snap with
  | some x => { g with regs := x.regs }
  | none => g

/-- What the member in issue reads. -/
def State.seenCore (s : State) : Core := s.curCore.seenBy s.curEng.grp
def State.seenEng (s : State) : Engine := s.curEng.seenBy s.curEng.grp

def State.srd (s : State) (a : SSrc) : SVal := srdIn s.seenCore s.seenEng a
def State.vrd (s : State) (a : VSrc) : VVal := vrdIn s.seenCore s.seenEng a
def State.prd (s : State) (n : Fin 16) : PBits := s.seenCore.pred n.val

/-- Operand B of format VA at width `w`. -/
def State.vsrd (s : State) (w : Nat) : VSSrc → Operand
  | .vec a => (s.vrd a).operand w
  | .sc a => (s.srd a).operand w

-- writing

/-- A scalar destination; `z` discards (R45). -/
def State.swr (s : State) (d : SDst) (v : SVal) : State :=
  match d with
  | .s n => s.modCur (fun g => g.setReg n.val v)
  | .z => s

def State.vwr (s : State) (d : VDst) (v : VVal) : State :=
  match d with
  | .v n => s.modCore s.cur.1 (fun k => k.setV n.val v)
  | .z => s

def State.pwr (s : State) (d : Fin 16) (p : PBits) : State := s.modCore s.cur.1 (fun k => k.setPred d.val p)

/-- The old data of a vector destination; `z` has none (R98). Old data is no operand: what inactive lanes of a member that issues again
keep is what the register holds now, a handler's value too (DESIGN CHOICE, LOG 74). -/
def State.vold (s : State) : VDst → VVal
  | .v n => s.curCore.vreg n.val
  | .z => VVal.zero

/-- The old bits of a predicate destination, taken in the same way. -/
def State.pold (s : State) (d : Fin 16) : PBits := s.curCore.pred d.val

/-- The value a scalar destination held (R59). -/
def State.sold (s : State) : SDst → SVal
  | .s n => s.seenEng.reg n.val
  | .z => SVal.zero

-- guards

/-- The guard of a scalar word (R59): bit 0 of pG, inverted under GN, on X; always true elsewhere. -/
def State.guardTrue (s : State) (h : Hdr) : Bool :=
  s.cur.2 != .X || ((s.seenCore.pred h.g.toNat).getLsbD 0 != h.gn)

/-- The active lanes of a vector word (R98). -/
def State.act (s : State) (h : Hdr) (w : Nat) : List Bool := activeLanes w (s.seenCore.pred h.g.toNat) h.gn

end Sys2Proof.Machine
end

