-- ==== Sys2Proof/Machine/Check.lean ====
section
/-! DEFINITION. The checks before a group issues: those decided from the words alone (03 R58, 01 R19, 18 R306), and those
made as the group issues (R20, R92, R68 to R72, R168, R104, R155, R287). A failing check is a cause code and a TRAPV. -/

namespace Sys2Proof.Machine

-- fetching words

/-- The instruction word at a PC: of the instruction store, whose unwritten bytes are 0xFF (01 R8), or of the supervisor
store (18 R304). -/
def Engine.wordAt (g : Engine) (sup : Memory) (pc : BitVec 16) : IWord :=
  let byte (i : Nat) : Byte :=
    if g.sup.isSome then sup.read ((pc.toNat + i) % 0x4000) else Memory.peek 0xFF g.istore ((pc.toNat + i) % 0x10000)
  BitVec.ofNat 96 (leNat ((List.range 12).map byte))

/-- The members of the group at word `w`: up to the stop bit, the section's end, or one word too many. -/
def Engine.members (g : Engine) (sup : Memory) : Nat → Nat → List IWord
  | 0, _ => []
  | fuel + 1, w =>
    if w ≥ g.sect.len then []
    else
      let x := g.wordAt sup (g.sect.pcOf w)
      if x.getLsbD 95 then [x] else x :: Engine.members g sup fuel (w + 1)

/-- Members a group may have (R19). -/
def groupLimit : Eng → Nat
  | .X => 4 | .L => 2 | .S => 2 | .M => 1

-- checks of one word (R58, orders 1 to 4)

/-- R50 and R73: where the end of a loop lies, and the words that must end their section. -/
def placeBad (r : Raw) (w len : Nat) : Option Nat :=
  let op := r.op.toNat
  if op == 0x06 || op == 0x07 then
    let stop := (r.imm.extractLsb' 0 16).toNat
    if stop ≤ w || stop ≥ len then some fImm else none
  else if (op == 0x09 || op == 0x0A || op == 0x0D) && w + 1 != len then some 0
  else none

/-- Privileged words (R57), with the FIELD that names them. -/
def privilegeField : Instr → Option Nat
  | .eret _ | .tlbinv _ _ _ | .bufinv _ _ | .aferry _ _ _ _ _ _ => some 0
  | .csrw _ r _ => match r with
    | .trapc | .trapv | .trappc | .ctx | .btbase | .ptbase => some fImm
    | _ => none
  | _ => none

/-- Words that a handler may not hold (18 R306). -/
def supForbidden (i : Instr) : Bool :=
  (hdrD i).pop != 0 || (hdrD i).post != 0 ||
  match i with
  | .loop _ _ _ _ | .loops _ _ _ _ _ | .brkl _ _ | .call _ _ | .ret _ | .suspend _ | .yield _ | .sleep _ | .watch _ _ => true
  | _ => false

/-- The first failing check of a word at index `w` of a section of `len` words, or its instruction. -/
def checkWord (e : Eng) (sup : Bool) (w len : Nat) (x : IWord) : Except (Nat × Nat) Instr :=
  match decodeWord e x with
  | .error .instr => .error (cIllInstr, 0)
  | .error (.enc f) => .error (cIllEnc, f)
  | r =>
    match placeBad (Raw.ofWord x) w len with
    | some f => .error (cIllEnc, f)
    | none =>
      match r with
      | .error (.operand f) => .error (cIllOperand, f)
      | .error _ => .error (cIllInstr, 0)
      | .ok i =>
        match (if sup then none else privilegeField i) with
        | some f => .error (cPrivilege, f)
        | none => if sup && supForbidden i then .error (cIllEnc, 0) else .ok i

-- group rules (R19, R108, R58 order 5)

/-- The last member of its group. -/
def endsGroup : Instr → Bool
  | .br _ _ | .brc _ _ _ _ _ | .brp _ _ _ _ | .call _ _ | .ret _ | .loop _ _ _ _ | .loops _ _ _ _ _ | .brkl _ _
  | .suspend _ | .yield _ | .halt _ | .sleep _ | .trap _ _ => true
  | _ => false

/-- Registers by class and number; s0, `z`, the read-only registers and p0 are none. -/
def Rd.regs : Rd → List (Nat × Nat)
  | .s (.s n) => if n.val = 0 then [] else [(0, n.val)]
  | .v (.v n) => [(1, n.val)]
  | .vs f n => (List.range n).map (fun i => (1, f + i))
  | .p n => if n.val = 0 then [] else [(2, n.val)]
  | _ => []

def Wr.regs : Wr → List (Nat × Nat)
  | .s (.s n) => if n.val = 0 then [] else [(0, n.val)]
  | .v (.v n) => [(1, n.val)]
  | .vs f n => (List.range n).map (fun i => (1, f + i))
  | .p n => if n.val = 0 then [] else [(2, n.val)]
  | _ => []

/-- The distance a ring operand counts. -/
def Rd.dist : Rd → Option Nat
  | .s (.d k) => some (k.val + 1)
  | .v (.d k) => some (k.val + 1)
  | _ => none

/-- A member at position `m` of its group breaks a group rule: `wrote` are the registers and `pushed` the results of earlier
members, `more` says that words of the section follow it, `stop` that it carries the stop bit. -/
def groupBad (e : Eng) (m : Nat) (wrote : List (Nat × Nat)) (pushed : Nat) (stop more : Bool) (i : Instr) : Bool :=
  let reads := (readsOf i ++ guardReads e i).map (fun r => r.2)
  m ≥ groupLimit e || (endsGroup i && !stop) || (!stop && !more) ||
  (reads.flatMap Rd.regs).any wrote.contains || ((writesOf i).flatMap Wr.regs).any wrote.contains ||
  (reads.filterMap Rd.dist).any (fun k => k ≤ pushed)

/-- The members from position `m` on, each checked by the orders of R58 before the next: the first failing member decides.
MEMBER has two bits, so that a fifth word of a group of X shows as 0 (LOG 56). -/
def checkFrom (e : Eng) (sup : Bool) (len m0 : Nat) :
    Nat → Nat → List (Nat × Nat) → Nat → List IWord → Except (Nat × Word) (List Instr)
  | _, _, _, _, [] => .error (cIllInstr, fieldVal 0 m0)
  | m, w, wrote, pushed, x :: xs =>
    match checkWord e sup w len x with
    | .error (c, f) => .error (c, fieldVal f (m0 + m))
    | .ok i =>
      if groupBad e m wrote pushed (x.getLsbD 95) (!xs.isEmpty) i then .error (cIllEnc, fieldVal 8 (m0 + m))
      else if x.getLsbD 95 then .ok [i]
      else
        match checkFrom e sup len m0 (m + 1) (w + 1) (wrote ++ (writesOf i).flatMap Wr.regs)
            (pushed + (if pushesOf i then 1 else 0)) xs with
        | .error t => .error t
        | .ok is => .ok (i :: is)

/-- All static checks of a group at word `w`. -/
def checkGroup (e : Eng) (sup : Bool) (len w m0 : Nat) (xs : List IWord) : Except (Nat × Word) (List Instr) :=
  checkFrom e sup len m0 0 w [] 0 xs

-- ring slots (R20)

def ringBad (ring : List RingEntry) : Rd → Bool
  | .s (.d k) => match ring[k.val]? with
    | some (.sc _) => false
    | _ => true
  | .v (.d k) => match ring[k.val]? with
    | some (.vec _) => false
    | _ => true
  | _ => false

-- code image and branch targets (01 R15 to R18, 03 R50)

/-- The reference of a task's code image. -/
def RunTask.codeAt (t : RunTask) (e : Eng) (off : Nat) : Nat := t.coff + t.streams.getD (engIdx e) 0 + off

/-- `4 n` bytes of the code image through the code buffer, which needs the execute right (01 R18, 10 R171). -/
def State.codeBy (s : State) (w : Who) (buf off n : Nat) : State × Except AccFault (List Byte) :=
  let (s, r) := s.access w buf { need := .exec, es := 4, align := 4 } ((List.range n).map (fun i => ((off + 4 * i : Nat) : Int)))
  match r with
  | .error x => (s, .error x)
  | .ok es =>
    let (s, bs) := s.homeRead (w.kid.getD 0) (es.flatten.map Place.key)
    (s, .ok bs)

def State.code (s : State) (c : Nat) (buf off n : Nat) : State × Except AccFault (List Byte) := s.codeBy (s.whoEng c) buf off n

/-- Why a fetch of `4 n` bytes of a code image waits: a frame in exchange that holds them or the tables on the way, or a pin. -/
def State.codeBlocked (s : State) (w : Who) (self buf off n : Nat) : Option (BitVec 8) :=
  let f : Form := { need := .exec, es := 4, align := 4 }
  let offs := (List.range n).map (fun i => ((off + 4 * i : Nat) : Int))
  if s.noneHeld && !s.anyPin && s.soundUp then none
  else if s.tablesHeld w buf f offs then some (s.heldCode (s.tableKeys w buf f offs))
  else match (s.access w buf f offs).2 with
    | .ok es => s.keysBlocked self (es.flatten.map Place.key)
    | .error _ => none

/-- LEN of the section whose header lies at a stream offset; a stream with offset 0 is one end-of-stream header (R171). -/
def State.lenAt (s : State) (c : Nat) (e : Eng) (hdr : Nat) : Option Nat :=
  match (s.core c).task with
  | none => none
  | some t =>
    if t.streams.getD (engIdx e) 0 == 0 then some 0
    else match (s.code c t.cbuf.toNat (t.codeAt e hdr) 2).2 with
      | .ok bs => some (leNat (bs.drop 6))
      | .error _ => none

/-- Section `delta` places after one at `hdr` of `len` words: its header and LEN, if it is in the stream and not its end. -/
def State.seek (s : State) (c : Nat) (e : Eng) : Nat → Nat → Nat → Option (Nat × Nat)
  | 0, hdr, len => some (hdr, len)
  | d + 1, hdr, len =>
    match s.lenAt c e (hdr + 8 + 12 * len) with
    | some 0 => none
    | some n => State.seek s c e d (hdr + 8 + 12 * len) n
    | none => none

/-- Why the read of those headers waits. -/
def State.seekBlocked (s : State) (c : Nat) (e : Eng) : Nat → Nat → Nat → Option (BitVec 8)
  | 0, _, _ => none
  | d + 1, hdr, len =>
    match (s.core c).task with
    | none => none
    | some t =>
      match s.codeBlocked (s.whoEng c) c t.cbuf.toNat (t.codeAt e (hdr + 8 + 12 * len)) 2 with
      | some r => some r
      | none =>
        match s.lenAt c e (hdr + 8 + 12 * len) with
        | some n => if n == 0 then none else State.seekBlocked s c e d (hdr + 8 + 12 * len) n
        | none => none

/-- The section a target names, in the task's stream or, for a handler, in the supervisor store. -/
def State.targetSect (s : State) (c : Nat) (e : Eng) (t : Target) : Option Sect :=
  let g := s.eng c e
  let n := g.sect.num + t.delta.toNat
  if g.sup.isSome then
    match (s.supSections 820 0x100)[n]? with
    | some (off, len) => some { num := n, hdr := off, len := len, base := BitVec.ofNat 16 (off + 8) }
    | none => none
  else
    match s.seek c e t.delta.toNat g.sect.hdr g.sect.len with
    | some (hdr, len) => some { num := n, hdr := hdr, len := len, base := BitVec.ofNat 16 (hdr + 8) }
    | none => none

/-- A taken transfer to a target outside the stream traps (R17, R50). -/
def State.targetBad (s : State) (c : Nat) (e : Eng) (t : Target) (m : Nat) : Option (Nat × Word) :=
  match s.targetSect c e t with
  | some x => if t.word.toNat < x.len then none
              else some (cControl, cfTarget ((s.eng c e).sect.num + t.delta.toNat) t.word.toNat m)
  | none => some (cControl, cfTarget ((s.eng c e).sect.num + t.delta.toNat) t.word.toNat m)

/-- A RET whose return point is not in this section (R17, R68): TRAPV names the earlier section that holds it, and its
word, or no section (LOG 11). -/
def State.retVal (s : State) (c : Nat) (e : Eng) (pc : BitVec 16) (m : Nat) : Word :=
  let g := s.eng c e
  let at_ (d : Nat) : Option Sect :=
    if g.sup.isSome then
      ((s.supSections 820 0x100)[d]?).map (fun x => { num := d, hdr := x.1, len := x.2, base := BitVec.ofNat 16 (x.1 + 8) })
    else
      ((s.lenAt c e 0).bind (fun n => s.seek c e d 0 n)).map (fun x =>
        { num := d, hdr := x.1, len := x.2, base := BitVec.ofNat 16 (x.1 + 8) })
  match (List.range g.sect.num).findSome? (fun d => (at_ d).bind (fun x => if x.resumable pc then some x else none)) with
  | some x => cfTarget x.num (x.offOf pc / 12) m
  | none => cfVal 0 m

/-- COND of CMP and BRC (R63). -/
def condHolds (c : Cond) (a b : Word) : Bool :=
  match c with
  | .eq => a == b
  | .ne => a != b
  | .lt => a.slt b
  | .ge => !a.slt b
  | .ltn => a.ult b
  | .gen => !a.ult b

/-- BRP (R67): the guard selects the active bits. -/
def brpTaken (all : Bool) (n : Fin 16) (p g : PBits) (neg : Bool) : Bool :=
  let act := if neg then ~~~g else g
  n.val == 0 || (if all then p &&& act == act else p &&& act != 0)

/-- total of LOOP and LOOPS (R69). -/
def loopTotal (staged : Bool) (n m : Nat) : Nat := if staged then (if n == 0 then 0 else n + m - 1) else n

/-- The checks of LOOP and LOOPS at issue (R69), in their order. -/
def State.loopBad (s : State) (c : Nat) (e : Eng) (staged : Bool) (lvl m : Nat) (n stop : Nat) (mem : Nat) : Option (Nat × Word) :=
  let g := s.eng c e
  let levels := g.loops.map (fun x => x.2)
  if g.loops.has lvl then some (cControl, cfVal 3 mem)
  else if staged && levels.any LoopLvl.staged then some (cControl, cfVal 4 mem)
  else if !(g.wordAt s.supStore (g.sect.pcOf stop)).getLsbD 95 then some (cIllEnc, fieldVal fImm mem)
  else if levels.any (fun l => l.sect < g.sect.num || (l.sect == g.sect.num && l.stop < stop)) then some (cControl, cfVal 4 mem)
  else if loopTotal staged n m > 2 ^ 64 - 1 then some (cControl, cfVal 6 mem)
  else none

/-- Shape codes of SG cover the barrier levels quad, die and package (10 R167). -/
def levelRank : Level → Nat
  | .quad => 1 | .die => 2 | .pkg => 3 | .pod => 4

/-- A level is covered by a static group of at least that shape; the pod level by a package gang joined to it
(10 R168, 21 R364). -/
def State.barrCovered (s : State) (c : Nat) (lv : Level) : Bool :=
  match s.gangOf c with
  | some g => if lv == .pod then g.pod.isSome else levelRank lv ≤ g.shape.toNat
  | none => false

/-- The control-flow checks made as a group issues, and BKPT (R76); operands are read of `k` and `g`. -/
def State.controlBad (s : State) (c : Nat) (e : Eng) (k : Core) (g : Engine) (i : Instr) (m : Nat) : Option (Nat × Word) :=
  match i with
  | .br _ t => s.targetBad c e t m
  | .brc _ cd a b t =>
    let x := srdIn k g a
    let y := srdIn k g b
    if !x.poison && !y.poison && condHolds cd x.val y.val then s.targetBad c e t m else none
  | .brp h all a t => if brpTaken all a (k.pred a.val) (k.pred h.g.toNat) h.gn then s.targetBad c e t m else none
  | .call _ t => if g.stack.length ≥ 8 then some (cControl, cfVal 1 m) else s.targetBad c e t m
  | .ret _ =>
    match g.stack with
    | [] => some (cControl, cfVal 2 m)
    | pc :: _ => if g.sect.resumable pc then none else some (cControl, s.retVal c e pc m)
  | .loop _ l a stop => s.loopBad c e false l.val 1 (srdIn k g a).val.toNat stop.toNat m
  | .loops _ l a m1 stop => s.loopBad c e true l.val (m1.toNat + 1) (srdIn k g a).val.toNat stop.toNat m
  | .brkl _ l =>
    match g.loops.find? l.val with
    | none => some (cControl, cfVal 5 m)
    | some v => if v.sect == g.sect.num then none else some (cControl, cfTarget v.sect (v.stop + 1) m)
  | .barr _ lv => if s.barrCovered c lv then none else some (cControl, cfVal 7 m)
  | .bkpt _ code => some (cBreak, mkWord [(16, 16, code.toNat), (0, 2, m)])
  | _ => none

-- poison consumption (R104)

def poisonVal (lane cause field m : Nat) : Word := mkWord [(16, 10, lane), (8, 4, cause), (4, 4, field), (0, 2, m)]

/-- The lane and cause of a consumed operand, if it is poisoned; a scalar that lanes read is consumed where a lane is active
(06 R98). The lane shown for a scalar is 0, that of PMOV too, but for the lowest active lane of a broadcast operand (LOG 53). -/
def consBad (k : Core) (g : Engine) (act : Nat → List Bool) : Cons → Option (Nat × Nat)
  | .s a => let v := srdIn k g a; if v.poison then some (0, v.cause.toNat) else none
  | .b a w wide =>
    let v := srdIn k g a
    if v.poison then (activeLane w (act w)).map (fun l => (if wide then l else 0, v.cause.toNat)) else none
  | .v a w n => let v := vrdIn k g a; (badLane w ((act w).take n) v).map (fun l => (l, v.cause.toNat))

def firstSome : List (Option α) → Option α
  | [] => none
  | some a :: _ => some a
  | none :: xs => firstSome xs

/-- The lowest poisoned lane of the first `bytes` bytes of a run of registers. -/
def runBad (k : Core) : Nat → Nat → Nat → Option (Nat × Nat)
  | 0, _, _ => none
  | fuel + 1, r, bytes =>
    if bytes == 0 then none
    else
      let v := k.vreg r
      match badLane 8 (List.replicate bytes true) v with
      | some l => some (l, v.cause.toNat)
      | none => runBad k fuel (r + 1) (bytes - 1024)

-- matrix operands (09 R155 to R164)

/-- Configuration fields (R156). -/
def acode (cfg : BitVec 13) : Nat := (cfg.extractLsb' 0 3).toNat
def wcode (cfg : BitVec 13) : Nat := (cfg.extractLsb' 4 3).toNat
def dtype (cfg : BitVec 13) : Nat := (cfg.extractLsb' 8 2).toNat
def dmode (cfg : BitVec 13) : Rnd := decRnd (cfg.extractLsb' 10 2)
def dsat (cfg : BitVec 13) : Bool := cfg.getLsbD 12

/-- Fields of the command word of MMA (R160). -/
def mmaN (b : Word) : Nat := bitsOf b 8 9
def mmaRow0 (b : Word) : Nat := bitsOf b 0 8
def mmaZero (b : Word) : Bool := b.getLsbD 17
def mmaStrm (b : Word) : Bool := b.getLsbD 18
def mmaLayer (b : Word) : Nat := bitsOf b 19 1
def mmaOff (b : Word) : Nat := bitsOf b 20 22

/-- Bytes of one activation row and the registers `n` rows take (R147). -/
def rowBytes (ac wc : Nat) : Nat := mDepth wc * mBits ac / 8
def actRegs (ac wc n : Nat) : Nat := ceilDiv n (mRho ac wc)
def scaleRegs (wc n : Nat) : Nat := ceilDiv (n * mBlocks wc) 1024

def mcfgBad (a : Word) : Bool :=
  bitsOf a 3 1 != 0 || bitsOf a 7 1 != 0 || bitsOf a 13 51 != 0 || bitsOf a 8 2 == 3 ||
  !mPairOk (bitsOf a 0 3) (bitsOf a 4 3)

/-- A bank reference of `n` bytes at a multiple of `unit` (R157, R158). -/
def bankBad (a : Word) (n unit : Nat) : Bool :=
  bitsOf a 22 10 != 0 || bitsOf a 33 31 != 0 || bitsOf a 0 22 % unit != 0 || bitsOf a 0 22 + n > 0x200000

/-- The first operand a matrix command may not have: FIELD of the matrix-state trap. A plane that an MLDW still fills is valid
here, for commands have their effects as they issue (LOG 17). -/
def Core.matrixField (k : Core) (g : Engine) (i : Instr) : Option Nat :=
  let ac := acode k.mcfg
  let wc := wcode k.mcfg
  match i with
  | .mcfg _ a _ => if mcfgBad (srdIn k g a).val then some fA else none
  | .mldw _ a _ => if bankBad (srdIn k g a).val (mTileBytes wc) 1024 then some fA else none
  | .mlds _ a _ => if !mIsMx wc || bankBad (srdIn k g a).val (mBlocks wc * 256) 64 then some fA else none
  | .mswp _ _ => if !k.preload.valid then some 0 else none
  | .mma _ _ a b c _ =>
    let w := (srdIn k g b).val
    let n := mmaN w
    if bitsOf w 42 22 != 0 || n == 0 || n > 256 || mmaRow0 w + n > 256 then some fB
    else if !mmaStrm w && bitsOf w 19 23 != 0 then some fB
    else if mmaStrm w && (mmaOff w % 1024 != 0 || mmaOff w + mTileBytes wc > 0x200000) then some fB
    else if a.val + actRegs ac wc n > 768 then some fA
    else if ac == 5 && c.toNat + scaleRegs wc n > 768 then some fC
    else if !mmaStrm w && (!k.active.valid || k.active.wcode.toNat != wc) then some 0
    else none
  | .mdrn _ _ d b _ =>
    let w := (srdIn k g b).val
    let n := mmaN w
    let regs := if dtype k.mcfg == 0 then n else ceilDiv n 2
    if bitsOf w 18 46 != 0 || n == 0 || n > 256 || mmaRow0 w + n > 256 then some fB
    else if d.val + regs > 768 then some fD
    else none
  | .mbswp _ a _ =>
    let w := (srdIn k g a).val
    if bitsOf w 0 2 == 0 || bitsOf w 2 62 != 0 then some fA else none
  | _ => none

/-- C of MMA (R155, R160): read only when ACODE is 5. -/
def Core.mmaCBad (k : Core) (i : Instr) (m : Nat) : Option (Nat × Word) :=
  match i with
  | .mma _ _ _ _ c _ =>
    if acode k.mcfg != 5 then (if c == 0 then none else some (cIllEnc, fieldVal fC m))
    else if c.toNat ≥ 768 then some (cIllOperand, fieldVal fC m)
    else none
  | _ => none

/-- Poison of the registers that MMA reads (R155). -/
def Core.mmaPoison (k : Core) (g : Engine) (i : Instr) (m : Nat) : Option (Nat × Word) :=
  match i with
  | .mma _ _ a b c _ =>
    let ac := acode k.mcfg
    let wc := wcode k.mcfg
    let n := mmaN (srdIn k g b).val
    match runBad k 128 a.val (n * rowBytes ac wc) with
    | some (l, cs) => some (cPoison, poisonVal l cs fA m)
    | none =>
      if ac != 5 then none
      else match runBad k 8 c.toNat (n * mBlocks wc) with
        | some (l, cs) => some (cPoison, poisonVal l cs fC m)
        | none => none
  | _ => none

-- asynchronous commands (16 R287 step 1)

/-- A reference (R286). -/
def refBuf (w : Word) : Nat := bitsOf w 0 16
def refOff (w : Word) : Nat := bitsOf w 16 48

/-- A frame of AFERRY that lies in Shoal (R293). -/
def frameShoal (pa : Nat) : Bool := pa / 2 ^ 48 == 2

/-- A frame of AFERRY (R293): HBM, the capacity tier, or a latent page that is no spare, with its core field. -/
def State.frameOk (s : State) (pa core : Nat) : Bool :=
  pa % 65536 == 0 &&
  (let tag := pa / 2 ^ 48
   let low := pa % 2 ^ 48
   if tag == 0 then decide (low < s.hbmSize) && core == 0
   else if tag == 1 then decide (low < s.capSize) && core == 0
   else if tag == 2 then low == low / 2 ^ 40 % 2 * 2 ^ 40 + low % 2 ^ 22 &&
     decide (low / 65536 % 64 < 64 - s.spareNos core (low / 2 ^ 40 % 2))
   else false)

/-- The entry of a buffer as the word finds it, no state kept. -/
def State.peekBuf (s : State) (c n : Nat) : Option Desc :=
  if n == 0 then some (s.core c).spad
  else match (s.bufEntry (s.whoEng c) n).2 with
    | .ok d => if d.valid then some d else none
    | .error _ => none

/-- es of a copy between two buffers (R290), in nibbles: 2 where both are plain; unequal sizes of two views have none. -/
def copyUnit (x y : Desc) : Option Nat :=
  if x.view == 0 && y.view == 0 then some 2
  else if x.view == 0 then some y.nibs
  else if y.view == 0 then some x.nibs
  else if x.nibs == y.nibs then some x.nibs else none

/-- The four words of a row descriptor (R291). -/
structure RowDesc where
  src   : Word
  dst   : Word
  idx   : Word
  rowb  : Nat
  count : Nat

def RowDesc.of (ws : List Word) : RowDesc :=
  { src := ws.getD 0 0, dst := ws.getD 1 0, idx := ws.getD 2 0, rowb := bitsOf (ws.getD 3 0) 32 32,
    count := bitsOf (ws.getD 3 0) 0 32 }

/-- The row length may be at most 65,536, a multiple of es (R291). -/
def rowBad (s : State) (c : Nat) (d : RowDesc) : Bool :=
  d.rowb == 0 || d.rowb > 65536 ||
  (match s.peekBuf c (refBuf d.src), s.peekBuf c (refBuf d.dst) with
    | some x, some y => (match copyUnit x y with
      | some u => 2 * d.rowb % u != 0
      | none => true)
    | _, _ => false)

/-- The row descriptor that a word would read now, no state kept; none where the read faults, waits or finds poison. -/
def State.peekRows (s : State) (c : Nat) (a : Word) : Option (List Word) :=
  let w := s.whoEng c
  match s.access w (refBuf a) { need := .read, es := 32, align := 32, noView := true } [(refOff a : Int)] with
  | (_, .error _) => none
  | (s, .ok ps) =>
    let bs := (s.loadPlaces c (w.kid.getD 0) ps.flatten).2
    if bs.any (fun b => b.2 != 0) then none
    else some ((List.range 4).map (fun i => leWord (((bs.drop (8 * i)).take 8).map (fun b => b.1))))

/-- The operand that an async-command trap names (R287, 18 R309): the operand values, and the descriptor of a row command as it stands
before the group issues. -/
def State.asyncField (s : State) (c : Nat) (k : Core) (g : Engine) (i : Instr) : Option Nat :=
  let val (a : SSrc) : Word := (srdIn k g a).val
  match i with
  | .acpy _ _ a b cc _ =>
    if bitsOf (val cc) 48 16 != 0 then some fC
    else match s.peekBuf c (bitsOf (val a) 0 16), s.peekBuf c (bitsOf (val b) 0 16) with
      | some x, some y => if x.view != 0 && y.view != 0 && x.nibs != y.nibs then some fB else none
      | _, _ => none
  | .afill _ _ a b cc _ =>
    let l := bitsOf (val cc) 0 48
    let t := val b
    let sg := (k.task.map (fun t => t.sg.toNat)).getD 0
    if bitsOf (val cc) 48 16 != 0 || l % 1024 != 0 then some fC
    else if bitsOf t 22 10 != 0 || bitsOf t 35 29 != 0 || bitsOf t 0 22 % 1024 != 0 || bitsOf t 33 2 > sg then some fB
    else if bitsOf t 0 22 + l > 0x200000 then some fC
    else match s.peekBuf c (bitsOf (val a) 0 16) with
      | some x => if x.layer != 0 then some fA else none
      | none => none
  | .aferry _ _ a b cc _ =>
    let w := val cc
    if bitsOf w 0 8 != 0 || bitsOf w 24 40 != 0 then some fC
    else if !s.frameOk (val a).toNat (bitsOf w 8 8) then some fA
    else if frameShoal (val a).toNat && !s.present (bitsOf w 8 8) || frameShoal (val b).toNat && !s.present (bitsOf w 16 8) then some fC
    else if !s.frameOk (val b).toNat (bitsOf w 16 8) || (val a == val b && bitsOf w 8 8 == bitsOf w 16 8) then some fB
    else none
  | .agath _ _ a _ | .ascat _ _ a _ =>
    match s.peekRows c (val a) with
    | some ws => if rowBad s c (RowDesc.of ws) then some fA else none
    | none => none
  | .acoll _ _ a _ _ => if bitsOf (val a) 16 48 % 64 != 0 then some fA else none
  | .astat _ _ a => if (val a).toNat > 63 then some fA else none
  | _ => none

-- all checks made as a group issues

/-- Scalar words of X under a false guard trap on nothing (R59), and VEXTS whose lane is inactive (08 R136); BRP reads its
guard as its active bits. -/
def guardSkips (e : Eng) (k : Core) (i : Instr) : Bool :=
  e == .X && (match i with
    | .brp _ _ _ _ => false
    | .vexts h t lane _ _ => !((activeLanes t.width (k.pred h.g.toNat) h.gn).getD lane.toNat false)
    | _ => (readsOf i).all (fun r => match r.2 with
        | .s _ => true
        | _ => false) && (writesOf i).all (fun w => match w with
        | .s _ => true
        | _ => false) && ((k.pred (hdrD i).g.toNat).getLsbD 0 == (hdrD i).gn))

/-- A result of an earlier member of the group, which no later one may read (R19). -/
def laterSlot : RingEntry := .sc SVal.zero

/-- The engine as a member reads it that follows `before` pushing members of its group (R20). -/
def Engine.after (g : Engine) (before : Nat) : Engine := { g with ring := List.replicate before laterSlot ++ g.ring }

/-- Tokens that member list `is` needs from the engine that mask bit `j` names. -/
def popsFrom (j : Nat) (is : List Instr) : Nat := (is.filter (fun i => (hdrD i).pop.getLsbD (j - 1))).length

/-- Unreserved tokens that engine `e` can pop from its other engine `j` (R88). -/
def Core.tokens (k : Core) (e : Eng) (j : Nat) : Nat :=
  let f := fifoNo (engOther e j) e
  k.occ.get f 0 - k.resv.get f 0

/-- The token trap at issue (R92): too few tokens, and their poster has finished. -/
def State.tokenBad (s : State) (c : Nat) (e : Eng) (upTo : List Instr) (m : Nat) : Option (Nat × Word) :=
  let k := s.core c
  firstSome ([1, 2, 3].map (fun j =>
    if popsFrom j upTo > k.tokens e j && (s.eng c (engOther e j)).phase == .finished &&
       !((k.task.map RunTask.halting).getD false)
    then some (cToken, mkWord [(4, 4, engIdx (engOther e j)), (0, 2, m)])
    else none))

/-- The group that a restarted member belongs to, when the engine stands at that member (R91). -/
def Engine.restart (g : Engine) : Option Grp :=
  match g.regrp with
  | some r => if g.sup.isNone && g.pc == r.first + BitVec.ofNat 16 (12 * r.idx) then some r else none
  | none => none

/-- The dynamic checks of one member, in the order of R58's list. A restarted matrix command is not judged for poison again:
what was poisoned after it issued is read as data 0 (09 R155). -/
def State.dynBad (s : State) (c : Nat) (e : Eng) (before : Nat) (upTo : List Instr) (i : Instr) (m : Nat) : Option (Nat × Word) :=
  let seen := (s.eng c e).restart
  let k := (s.core c).seenBy seen
  let g := ((s.eng c e).seenBy seen).after before
  let off := guardSkips e k i
  let act (w : Nat) : List Bool :=
    if e == .X then activeLanes w (k.pred (hdrD i).g.toNat) (hdrD i).gn else allActive w
  firstSome [
    (if off then none else firstSome ((readsOf i).map (fun r =>
      if ringBad g.ring r.2 then some (cIllOperand, fieldVal r.1 m) else none))),
    s.tokenBad c e upTo m,
    (if off then none else s.controlBad c e k g i m),
    (if off then none else firstSome ((consumesOf i).map (fun r =>
      (consBad k g act r.2).map (fun x => (cPoison, poisonVal x.1 x.2 r.1 m))))),
    k.mmaCBad i m,
    (if seen.isSome then none else k.mmaPoison g i m),
    (k.matrixField g i).map (fun f => (cMatrix, fieldVal f m)),
    (s.asyncField c k g i).map (fun f => (cAsync, fieldVal f m))]

/-- The dynamic checks of every member in order; `m` is the number of the first. -/
def State.groupDyn (s : State) (c : Nat) (e : Eng) : Nat → Nat → List Instr → List Instr → Option (Nat × Word)
  | _, _, _, [] => none
  | m, before, done, i :: is =>
    match s.dynBad c e before (done ++ [i]) i m with
    | some t => some t
    | none => State.groupDyn s c e (m + 1) (before + (if pushesOf i then 1 else 0)) (done ++ [i]) is

end Sys2Proof.Machine
end

