-- ==== Sys2Proof/Machine/Commands.lean ====
section
/-! DEFINITION. What a command word asks for before it is accepted (16 R285 to R294): steps 1 to 5 of R287, the checks over the
ranges it names, and the room in its engine's queue. -/

namespace Sys2Proof.Machine

-- KIND is OP - 0x78 (R295)
def kCopy : Nat := 0
def kFill : Nat := 1
def kGather : Nat := 2
def kScatter : Nat := 3
def kFerry : Nat := 4
def kColl : Nat := 5

-- STATE of a command slot (R295)
def csFree : Nat := 0
def csQueued : Nat := 1
def csActive : Nat := 2
def csHeld : Nat := 3
def csFaulted : Nat := 4
def csDone : Nat := 5
def csAborted : Nat := 6

/-- The kind of a command word, its operands a, b, c and its object. -/
def cmdWord : Instr → Option (Nat × List SSrc × BoRef)
  | .acpy _ _ a b c bo => some (kCopy, [a, b, c], bo)
  | .afill _ _ a b c bo => some (kFill, [a, b, c], bo)
  | .agath _ _ a bo => some (kGather, [a], bo)
  | .ascat _ _ a bo => some (kScatter, [a], bo)
  | .aferry _ _ a b c bo => some (kFerry, [a, b, c], bo)
  | .acoll _ _ a b bo => some (kColl, [a, b], bo)
  | _ => none

/-- The object of a command as a reference. -/
def boRefWord (r : BoRef) : Word := mkWord [(0, 16, r.buf.toNat), (16, 48, 16 * r.off.toNat)]

-- step 3: checks 1 to 5 over a range (R209)

/-- A range a command names; a length of `none` is a buffer checked as a whole; `plain` refuses a viewed one (12 R388). -/
structure Range where
  buf   : Nat
  off   : Nat
  len   : Option Nat
  need  : Need
  plain : Bool

def State.rangeOk (s : State) (w : Who) (r : Range) : State × Option AccFault :=
  let (s, d) := s.buffer w r.buf r.need
  let bad (f : Fail) : Option AccFault := some { fail := f, elem := 0, off := (r.off : Int), kind := r.need.code }
  match d with
  | .error f => (s, bad f)
  | .ok d =>
    let inside := match r.len with
      | none | some 0 => true
      | some n => Form.inside { need := r.need, es := n, align := 1 } d r.off
    (s, if !inside then bad (fBounds 5) else if r.plain && d.view != 0 then bad fAlign else none)

def State.rangesOk (s : State) (w : Who) : List Range → State × Option (AccFault × Nat)
  | [] => (s, none)
  | r :: rs =>
    let (s, x) := s.rangeOk w r
    match x with
    | some x => (s, some (x, r.buf))
    | none => State.rangesOk s w rs

/-- The object of a command: atomic right over its 16 bytes in a plain buffer. -/
def boRange (bo : Word) : Range := { buf := refBuf bo, off := refOff bo, len := some 16, need := .atomic false, plain := true }

/-- The ranges a command names, in the order source, destination, index list, object. -/
def cmdRanges (kind : Nat) (ops desc : List Word) (bo : Word) : List Range :=
  let a := ops.getD 0 0
  let b := ops.getD 1 0
  let len := some (bitsOf (ops.getD 2 0) 0 48)
  let d := RowDesc.of desc
  let rows := some (d.count * d.rowb)
  (if kind = kCopy then
      [{ buf := refBuf a, off := refOff a, len := len, need := .read, plain := false },
       { buf := refBuf b, off := refOff b, len := len, need := .write, plain := false }]
    else if kind = kFill then [{ buf := refBuf a, off := refOff a, len := len, need := .read, plain := false }]
    else if kind = kGather || kind = kScatter then
      [{ buf := refBuf d.src, off := refOff d.src, len := if kind = kGather then none else rows, need := .read, plain := false },
       { buf := refBuf d.dst, off := refOff d.dst, len := if kind = kGather then rows else none, need := .write, plain := false },
       { buf := refBuf d.idx, off := refOff d.idx, len := some (4 * d.count), need := .read, plain := true }]
    else if kind = kColl then [{ buf := refBuf a, off := refOff a, len := some 192, need := .read, plain := false }]
    else []) ++ [boRange bo]

/-- What steps 1 to 3 find. -/
inductive Planned where
  | ready (desc : List Word)
  | fault (x : AccFault) (buf : Nat)
  | trap (cause : Nat) (v : Word)

/-- The descriptor of a row command once it is read (R291); what an earlier member of the group wrote into it is judged here. -/
def State.judgeRows (s : State) (c m : Nat) (ws : List Word) : Planned :=
  let d := RowDesc.of ws
  if rowBad s c d then .trap cAsync (fieldVal fA m)
  else if refOff d.idx % 4 != 0 then .fault { fail := fAlign, elem := 0, off := (refOff d.idx : Int), kind := 1 } (refBuf d.idx)
  else .ready ws

/-- Step 3; an ACOLL wants a plain buffer of layer H too (21 R355). -/
def State.planCmd (s : State) (w : Who) (c kind : Nat) (ops : List Word) (bo : Word) (desc : List Word) (m : Nat) : State × Planned :=
  let (s, x) := s.rangesOk w (cmdRanges kind ops desc bo)
  match x with
  | some (x, buf) => (s, .fault x buf)
  | none =>
    let plainH := match s.peekBuf c (refBuf (ops.getD 0 0)) with
      | some d => d.layer == 0 && d.view == 0
      | none => false
    (s, if kind = kColl && !plainH then .trap cAsync (fieldVal fA m) else .ready desc)

/-- Tables that step 3 reads are in exchange. -/
def State.rangesHeld (s : State) (w : Who) (rs : List Range) : Bool :=
  rs.any (fun r => s.tablesHeld w r.buf { need := r.need, es := 1, align := 1 } [])
def State.rangesCode (s : State) (w : Who) (rs : List Range) : BitVec 8 :=
  s.heldCode (rs.flatMap (fun r => s.tableKeys w r.buf { need := r.need, es := 1, align := 1 } []))

/-- A command word passes steps 2 and 3 as things stand. -/
def State.planned (s : State) (c kind : Nat) (ops : List Word) (bo : Word) : Bool :=
  let desc := if kind = kGather || kind = kScatter then s.peekRows c (ops.getD 0 0) else some []
  match desc with
  | none => false
  | some ws =>
    match s.judgeRows c 0 ws, (s.planCmd (s.whoEng c) c kind ops bo ws 0).2 with
    | .ready _, .ready _ => true
    | _, .ready _ => kind != kGather && kind != kScatter
    | _, _ => false

-- steps 4 and 5

/-- The lowest command slot of a task that is FREE, DONE or ABORTED. -/
def freeTag (cmds : Store CmdSlot) (skip : Nat) : Option Nat :=
  (((List.range 64).filter (fun t => match cmds.find? t with
    | some x => x.st == csFree || x.st == csDone || x.st == csAborted
    | none => true)).drop skip).head?

/-- Room in the queue of the carrying engine after `more` other commands of that kind. -/
def State.queueRoom (s : State) (c kind more : Nat) : Bool :=
  if kind = kColl then s.coll.progs.length + more < 1024
  else if kind = kFerry then (s.coll.cmds.filter (fun x => x.2.kind == kFerry)).length + more < 1024
  else (s.coll.cmds.filter (fun x => x.2.kind != kFerry && x.2.core == c && x.2.queue.isNone && !x.2.hold)).length + more < 64

/-- A command of the group has no tag or no queue entry, so that the group waits before it issues (18 R326). A word that steps 2
or 3 stop does not wait. `more` counts the commands before it in the group, `before` the pushing members (R20). -/
def State.asyncHold (s : State) (c : Nat) (e : Eng) : Nat → Nat → List Instr → Bool
  | _, _, [] => false
  | more, before, i :: is =>
    let seen := (s.eng c e).restart
    let k := (s.core c).seenBy seen
    let g := ((s.eng c e).seenBy seen).after before
    let next := before + (if pushesOf i then 1 else 0)
    match cmdWord i with
    | none => State.asyncHold s c e more next is
    | some (kind, ops, bo) =>
      if s.planned c kind (ops.map (fun a => (srdIn k g a).val)) (boRefWord bo) then
        let tags := match (s.core c).task.bind (fun t => s.info t.slot) with
          | some t => freeTag t.cmds more
          | none => some 0
        tags.isNone || !s.queueRoom c kind more || State.asyncHold s c e (more + 1) next is
      else false

end Sys2Proof.Machine
end

