-- ==== Sys2Proof/Machine/Issue.lean ====
section
/-! DEFINITION. Issue and retirement: when a group issues (06 R88, 09 R148 to R153, 18 R318), what a member's end does (R89,
R92, 02 R38), where control then goes (01 R16, R17, 04 R67 to R75, 18 R319), and what a fault or an abandoned wait leaves
(R91, 18 R326). -/

namespace Sys2Proof.Machine

/-- What a member's own effect comes to. A matrix command has its effects at issue and retires when it completes (LOG 17). -/
inductive Eff where
  | done (s : State) (push : Option RingEntry) (flags : FlagSet) (flow : Flow)
  | wait (s : State) (reason : BitVec 8)
  | fault (s : State) (x : AccFault) (buf : Nat)
  | trapAt (s : State) (cause : Nat) (v : Word)
  | flight (s : State) (push : Option RingEntry) (f : Flight)

-- tokens (R43, R88, R89)

def Core.room (k : Core) (e : Eng) (posts : BitVec 3) : Bool :=
  [1, 2, 3].all (fun j => !posts.getLsbD (j - 1) || k.occ.get (fifoNo e (engOther e j)) 0 < 32)

def Core.addTokens (k : Core) (e : Eng) (posts : BitVec 3) : Core :=
  { k with occ := [1, 2, 3].foldl (fun o j =>
      if posts.getLsbD (j - 1) then o.put (fifoNo e (engOther e j)) (o.get (fifoNo e (engOther e j)) 0 + 1) else o) k.occ }

def Core.reserve (k : Core) (e : Eng) (is : List Instr) : Core :=
  { k with resv := [1, 2, 3].foldl (fun r j =>
      r.put (fifoNo (engOther e j) e) (r.get (fifoNo (engOther e j) e) 0 + popsFrom j is)) k.resv }

/-- A member's reserved tokens leave their FIFOs as it retires. -/
def Core.dropTokens (k : Core) (e : Eng) (pops : BitVec 3) : Core :=
  [1, 2, 3].foldl (fun k j =>
    if pops.getLsbD (j - 1) then
      let f := fifoNo (engOther e j) e
      { k with occ := k.occ.put f (k.occ.get f 0 - 1), resv := k.resv.put f (k.resv.get f 0 - 1) }
    else k) k

/-- The full FIFO whose consumer has finished, by its engine index (R92). -/
def State.deadPost (s : State) (c : Nat) (e : Eng) (posts : BitVec 3) : Option Nat :=
  if ((s.core c).task.map RunTask.halting).getD false then none
  else firstSome ([1, 2, 3].map (fun j =>
    if posts.getLsbD (j - 1) && (s.core c).occ.get (fifoNo e (engOther e j)) 0 ≥ 32 && (s.eng c (engOther e j)).phase == .finished
    then some (engIdx (engOther e j)) else none))

-- requests

/-- A pre-emption request on the task of a core is open (R317). -/
def State.reqOpen (s : State) (c : Nat) : Bool :=
  match (s.core c).task with
  | some t => t.request.isSome
  | none => false

def State.inSup (s : State) (c : Nat) (e : Eng) : Bool := (s.eng c e).sup.isSome

/-- The engine stops at a point of R318 while a request is open. -/
def State.park (s : State) (c : Nat) (e : Eng) : State :=
  if s.reqOpen c && !s.inSup c e then s.modEng c e (fun g => { g with parked := true }) else s

-- issuing again (R91)

/-- The registers of an engine and its core as a group that is left reads them when it issues again. -/
def State.snap (s : State) (c : Nat) (e : Eng) : Snap :=
  { regs := (s.eng c e).regs, v := (s.core c).v, p := (s.core c).p }

/-- What is left of a group issues again, reading what it reads now; a handler's group does not. -/
def State.keep (s : State) (c : Nat) (e : Eng) (r : Option Grp) : State :=
  if s.inSup c e then s
  else
    let x := s.snap c e
    s.modEng c e (fun g => { g with regrp := r.map (fun r => { r with snap := some (r.snap.getD x) }) })

/-- A group without its members up to the one that retires. -/
def Grp.rest (g : Grp) : Option Grp := if g.idx + 1 < g.size then some { g with idx := g.idx + 1 } else none

-- commands that wait to post (R89)

/-- A completed command of M waits for room for its posts. -/
def Core.owing (k : Core) : Bool := k.flight.any Flight.owing

/-- Later members of M wait at retirement behind a command that waits to post. -/
def State.behind (s : State) (c : Nat) (e : Eng) : Bool := e == .M && (s.core c).owing

/-- The engine goes on; M stays blocked while a command waits to post. -/
def Engine.resumed (g : Engine) (behind : Bool) : Engine := if behind then g else g.unblock

/-- Results of an engine other than M are not all written (06 R95); those of M land with the command that made them. -/
def Core.unlanded (k : Core) (e : Eng) : Bool := e != .M && k.landing.any (fun x => x.eng == e)

/-- The words of M retire in program order (R89): M waits, or goes on and leaves a word behind, while earlier ones have not. -/
def State.unretired (s : State) (c : Nat) (e : Eng) : Bool := e == .M && !(s.core c).flight.isEmpty

/-- What a matrix command or word of M leaves for its successors (R92). -/
def State.after (s : State) (c : Nat) : After :=
  let k := s.core c
  let g := k.eM
  { regs := g.regs, ring := g.ring, loops := g.loops, stack := g.stack, v := k.v, acc := k.acc, active := k.active,
    preload := k.preload, scaleQ := k.scaleQ, mcfg := k.mcfg, mkp := k.mkp, mstb := k.mstb, halves := k.halves }

/-- The state that a command left, the vector registers of the commands after it as it left them (R92); numbers from 16 up to 1023 in
`writes` are vector registers. -/
def Core.backTo (k : Core) (x : After) (dropped : List Flight) : Core :=
  let written := dropped.flatMap (fun f => (f.writes.filter (fun r => 16 ≤ r && r < 1024)).map (fun r => r - 16))
  { k with
    v := written.foldl (fun v r => v.put r (x.v.get r VVal.zero)) k.v
    acc := x.acc
    active := x.active
    preload := x.preload
    scaleQ := x.scaleQ
    mcfg := x.mcfg
    mkp := x.mkp
    mstb := x.mstb
    halves := x.halves
    eM := { k.eM with regs := x.regs, ring := x.ring, loops := x.loops, stack := x.stack } }

/-- What was issued after a word of M that traps or is abandoned as it retires is discarded and issues again (R92, LOG 62). -/
def State.dropFlights (s : State) (c : Nat) (f : Flight) (later : List Flight) : State :=
  (s.modCore c (fun k => { k.backTo f.later later with flight := [] })).modEng c .M (fun g =>
    { g with sect := f.sect, phase := .running, retiring := none, regrp := none })

/-- Where control goes lets M go on before the word has retired. -/
def Flow.plain : Flow → Bool
  | .next | .goto _ _ _ | .past _ => true
  | _ => false

/-- A word of M other than a matrix command that pops or posts while commands are in flight: it retires behind them (R89). -/
def State.queueWord (s : State) (c : Nat) (pops posts : BitVec 3) (pc : BitVec 16) : State :=
  let now := s.cyc.toNat
  let f : Flight := { unit := .none, unit2 := .none, busy := now, done := now, posts := posts, pops := pops, flags := 0, writes := [],
                      reads := [], banks := 0, soon := now, owing := false, sect := (s.eng c .M).sect, pc := pc,
                      later := s.after c, matrix := false, redo := none }
  s.modCore c (fun k => { k with flight := k.flight ++ [f] })

-- where control goes

def Engine.activeAt (g : Engine) (stop : Nat) : Option (Nat × LoopLvl) :=
  g.loops.foldl (fun a x =>
    if x.2.sect == g.sect.num && x.2.stop == stop then
      match a with
      | some y => if y.2.order < x.2.order then some x else a
      | none => some x
    else a) none

/-- Deactivate a level and every level activated after it. -/
def Engine.cutLoops (g : Engine) (order : Nat) : Engine := { g with loops := g.loops.filter (fun x => x.2.order < order) }

/-- A taken branch out of the range of an active level ends it and every later one (R71). -/
def Engine.leaveLoops (g : Engine) (sect word : Nat) : Engine :=
  { g with loops := g.loops.filter (fun x =>
      !g.loops.any (fun y => y.2.order ≤ x.2.order &&
        (y.2.sect != sect || word < y.2.start || y.2.stop < word))) }

/-- What the loop unit does when the group with word `w` as its last retires (R70, R319): `none` when control falls
through, else the word control goes to and whether this is a point of R318: the loop-back of a LOOP level, or of a LOOPS level
whose drain has ended. -/
def Engine.loopBack (req : Bool) : Nat → Engine → Nat → Engine × Option (Nat × Bool)
  | 0, g, _ => (g, none)
  | fuel + 1, g, w =>
    match g.activeAt w with
    | none => (g, none)
    | some (l, v) =>
      let v := if req && v.staged && v.cut == v.n then { v with cut := Nat.max v.base (Nat.min (v.lc + 1) v.n) } else v
      let limit := if v.staged then v.cut + v.m - 1 else v.total
      if v.lc + 1 < limit && !(v.staged && v.cut < v.n && v.cut == v.base) then
        ({ g with loops := g.loops.put l { v with lc := v.lc + 1 } }, some (v.start, !v.staged))
      else if v.staged && v.cut < v.n then
        ({ g with loops := g.loops.put l { v with lc := v.cut, base := v.cut, cut := v.n } }, some (v.start, true))
      else Engine.loopBack req fuel { g with loops := g.loops.del l } w

/-- What the end of a group does to the loop unit of a task; a handler leaves it alone (R305). -/
def Engine.loopsAfter (req : Bool) (last : Nat) (flow : Flow) (g : Engine) : Engine :=
  if g.sup.isSome then g
  else match flow with
    | .next => (Engine.loopBack req 5 g last).1
    | .goto false sect word => g.leaveLoops sect word
    | _ => g

/-- Section `n` of an engine retires, for M once its commands have completed (R16). Numbers beyond 0xFFFE, which the spec does
not foresee, are taken modulo 2^16 (LOG 57). -/
def Engine.retireSect (g : Engine) (later : Bool) (n : Nat) : Engine :=
  if later then { g with retiring := some (BitVec.ofNat 16 n) } else { g with hwm := BitVec.ofNat 16 n }

/-- The engine leaves its section for the next one (R16, R17); a handler that runs past its last section takes a double
trap (R304). -/
def State.leaveSect (s : State) (c : Nat) (e : Eng) : State :=
  let g := s.eng c e
  if g.sup.isSome then
    match (s.supSections 820 0x100)[g.sect.num + 1]? with
    | some (off, len) =>
      s.setEng c e { g with sect := { num := g.sect.num + 1, hdr := off, len := len, base := BitVec.ofNat 16 (off + 8) },
                            pc := BitVec.ofNat 16 (off + 8) }
    | none => s.takeTrap c e cControl (cfTarget (g.sect.num + 1) 0 0) g.pc
  else
    let hdr := g.sect.hdr + 8 + 12 * g.sect.len
    s.setEng c e { g.retireSect (s.unretired c e) g.sect.num with
      sect := { num := g.sect.num + 1, hdr := hdr, len := 0, base := BitVec.ofNat 16 (hdr + 8) }
      phase := .entering
      target := 0
      pc := BitVec.ofNat 16 (hdr + 8)
      regrp := none }

/-- Go to a word of the current section, or past its last word. -/
def State.toWord (s : State) (c : Nat) (e : Eng) (w : Nat) : State :=
  if w ≥ (s.eng c e).sect.len then s.leaveSect c e
  else s.modEng c e (fun g => { g with pc := g.sect.pcOf w })

/-- Control leaves for a later section at once (R17). -/
def State.toSect (s : State) (c : Nat) (e : Eng) (num word : Nat) : State :=
  let g := s.eng c e
  match s.targetSect c e { delta := BitVec.ofNat 14 (num - g.sect.num), word := BitVec.ofNat 16 word } with
  | none => s
  | some x =>
    if g.sup.isSome then s.setEng c e { g with sect := x, pc := x.pcOf word }
    else s.setEng c e { g.retireSect (s.unretired c e) (num - 1) with sect := x, phase := .entering, target := word, pc := x.pcOf word, regrp := none }

/-- The task's watch, if it still sleeps soundly (R177): armed and not yet woken. -/
def State.soundSleep (s : State) (c : Nat) : Bool :=
  match (s.core c).task.bind (fun t => s.info t.slot) with
  | some t => (t.watch.map (fun w => !w.woke)).getD false
  | none => false

/-- The section of SUSPEND, YIELD or SLEEP retires with it (R73). A SLEEP that sleeps soundly, and retires while no request is
open, is one that its engine waits inside (R318). -/
def State.stopAt (s : State) (c : Nat) (e : Eng) (why : Flow) : State :=
  let g := s.eng c e
  let last := g.sect.len - 1
  if why == .sleep && !s.soundSleep c then s.leaveSect c e
  else
    let s := (s.leaveSect c e).modEng c e (fun x => { x with stopped := some why })
    if why == .sleep && !s.reqOpen c then
      (s.modEng c e (fun x => { x with slept := some { sect := g.sect, pc := g.sect.pcOf last, hwm := g.hwm } })).waitOn c e rWatch
    else s

/-- A request or a delivery ends the wait inside a SLEEP: the word is issued again (R307, R318, LOG 58). -/
def State.unsleep (s : State) (c : Nat) (e : Eng) (x : Slept) : State :=
  s.modEng c e (fun g => { g.unblock with sect := x.sect, pc := x.pc, hwm := x.hwm, phase := .running, stopped := none,
                                          slept := none, retiring := none, parked := true })

/-- The task of a core ends by HALT once its engines are quiet (R74). -/
def State.halted (s : State) (c : Nat) : Bool := ((s.core c).task.map RunTask.halting).getD false

/-- ERET (R82, R307): what issues again is what stands at TRAPPC, and nothing once HALT has retired (R74, R328); an engine that retired
a suspension word stays stopped. -/
def State.eret (s : State) (c : Nat) (e : Eng) : State :=
  let g := s.eng c e
  if g.resume.resumable g.csr.trappc then
    let g := g.leaveSup
    let s := s.setEng c e (if g.restart.isSome && !s.halted c then g else { g with regrp := none })
    if g.stopped.isSome then s.leaveSect c e else s
  else s.takeTrap c e cControl (cfVal 0 0) g.pc

/-- Where control goes when a group has retired; `last` is the index of its last word. The loop unit is the task's: a
handler's words leave it alone (R305). -/
def State.follow (s : State) (c : Nat) (e : Eng) (last : Nat) : Flow → State
  | .next =>
    if s.inSup c e then s.toWord c e (last + 1)
    else
      let (g, to_) := Engine.loopBack (s.reqOpen c) 5 (s.eng c e) last
      let s := s.setEng c e g
      match to_ with
      | some (w, point) => if point then (s.toWord c e w).park c e else s.toWord c e w
      | none => s.toWord c e (last + 1)
  | .goto keep sect word =>
    let s := if keep || s.inSup c e then s else s.modEng c e (fun g => g.leaveLoops sect word)
    if sect == (s.eng c e).sect.num then
      let s := s.toWord c e word
      if !keep && word ≤ last then s.park c e else s
    else s.toSect c e sect word
  | .past w => s.toWord c e w
  | .suspend p => s.stopAt c e (.suspend p)
  | .yield => s.stopAt c e .yield
  | .sleep => s.stopAt c e .sleep
  | .halt => (s.modEng c e (fun g => if g.sup.isSome then { g.leaveSup with regrp := none } else g)).modTask c (fun t =>
      { t with halting := true })
  | .eret => s.eret c e

-- retirement

/-- What a group does as a whole: ERET as an earlier member decides where control goes, unless the task ends (R82, LOG 59). -/
def Flow.join : Flow → Flow → Flow
  | .eret, .halt => .halt
  | .eret, _ => .eret
  | _, f => f

/-- PC of member `i` of a group. -/
def Grp.pcOf (g : Grp) (i : Nat) : BitVec 16 := g.first + BitVec.ofNat 16 (12 * i)

/-- The trap owed after a group, whose end has its effects on the loop unit (R70), on the task (R74) and on where the engine
stops (R73); TRAPPC is the word after the group (R75, R76, LOG 24). -/
def State.dueTrap (s : State) (c : Nat) (e : Eng) (d : Due) (pc : BitVec 16) (last : Nat) (flow : Flow) : State :=
  let s := s.modEng c e (fun g => g.loopsAfter (s.reqOpen c) last flow)
  let s := match flow with
    | .halt => s.modTask c (fun t => { t with halting := true })
    | .suspend _ | .yield => s.modEng c e (fun g => { g with stopped := some flow })
    | .sleep => if s.soundSleep c then s.modEng c e (fun g => { g with stopped := some flow }) else s
    | _ => s
  match d with
  | .software code =>
    if s.inSup c e then s.deliver c e (s.eng c e).csr.trapc.toNat (s.eng c e).csr.trapv code.toNat false
    else s.takeTrap c e cSoftware (mkWord [(16, 16, code.toNat)]) pc
  | .arith b => s.takeTrap c e cArith (mkWord [(16, 6, b.toNat)]) pc

/-- A member is over and its tokens are posted: the next member, or the end of its group with the trap it owes (R75, R76,
R307). -/
def State.endMember (s : State) (c : Nat) (e : Eng) (g : Grp) (flow : Flow) : State :=
  let flow := g.flow.join flow
  if g.idx + 1 < g.size then s.modEng c e (fun x => { x with grp := some { g with idx := g.idx + 1, flow := flow } })
  else
    let last := (s.eng c e).sect.wordOf (g.pcOf g.size) - 1
    let s := s.modEng c e (fun x => { x with grp := none })
    match g.owes with
    | some d => s.dueTrap c e d (g.pcOf g.size) last flow
    | none => s.follow c e last flow

/-- The token trap at retirement (R92): the member's effects stand, later members issue again. The group has not retired, so that its
loop level does not advance and a transfer or stop of its own takes no effect (LOG 24). -/
def State.postTrap (s : State) (c : Nat) (e : Eng) (g : Grp) (o : Nat) : State :=
  (s.keep c e g.rest).takeTrap c e cToken (mkWord [(8, 1, 1), (4, 4, o), (0, 2, g.idx)]) (g.pcOf (g.idx + 1))

/-- The instruction of member `i` of a group, from the words at its PC. -/
def State.memberInstr (s : State) (c : Nat) (e : Eng) (pc : BitVec 16) : Option Instr :=
  match decodeWord e ((s.eng c e).wordAt s.supStore pc) with
  | .ok i => some i
  | .error _ => none

/-- The word after a member that has not retired is a TFENCE, which waits for it (R75). -/
def State.fenceNext (s : State) (c : Nat) (e : Eng) (g : Grp) (flow : Flow) : Bool :=
  match flow, s.memberInstr c e (g.pcOf (g.idx + 1)) with
  | .next, some (.tfence _) => true
  | _, _ => false

/-- A member waits at its retirement. -/
def State.waitRetire (s : State) (c : Nat) (e : Eng) (g : Grp) (pops posts : BitVec 3) (flow : Flow) : State :=
  s.modEng c e (fun x => { x with grp := some g, owed := some { pops := pops, posts := posts, flow := flow } })

/-- A member whose tokens have been released posts and ends, waits for room, or takes the token trap (R89, R92). Once HALT has retired,
or for HALT itself, a full FIFO whose tokens nothing removes is no hindrance (R93). -/
def State.postNow (s : State) (c : Nat) (e : Eng) (g : Grp) (posts : BitVec 3) (flow : Flow) : State :=
  let done (s : State) : State := (s.modEng c e (fun x => { x.unblock with owed := none })).endMember c e g flow
  if (s.core c).room e posts then done (s.modCore c (fun k => k.addTokens e posts))
  else if s.halted c then done s
  else match s.deadPost c e posts with
    | some o => if g.flow.join flow == .halt then done s else s.postTrap c e g o
    | none => (s.waitRetire c e g 0 posts flow).waitOn c e rTokenPost

/-- The last of a member's retirement (R89): once its results have landed it releases its tokens, then posts. It waits behind a command
of M that waits to post; behind other commands of M it is left to retire after them. -/
def State.postAndEnd (s : State) (c : Nat) (e : Eng) (g : Grp) (pops posts : BitVec 3) (flow : Flow) : State :=
  if (s.core c).unlanded e then
    let s := s.waitRetire c e g pops posts flow
    if s.fenceNext c e g flow then s.waitOn c e rFence else s
  else if s.behind c e then (s.waitRetire c e g pops posts flow).waitOn c e rTokenPost
  else if s.unretired c e && (pops != 0 || posts != 0) then
    if flow.plain && g.flow == .next && g.owes.isNone then
      ((s.queueWord c pops posts (g.pcOf (g.idx + 1))).modEng c e (fun x => { x.unblock with owed := none })).endMember c e g flow
    else (s.waitRetire c e g pops posts flow).waitOn c e rMatrix
  else (s.modCore c (fun k => k.dropTokens e pops)).postNow c e g posts flow

/-- Push a result (R20). -/
def Engine.push (g : Engine) (r : Option RingEntry) : Engine :=
  match r with
  | some v => { g with ring := (v :: g.ring).take 8 }
  | none => g

/-- A member retires (R89): its push and its flags, then the release of its tokens and its posts. The group is read afresh, for the
member may have changed it. -/
def State.retire (s : State) (h : Hdr) (push : Option RingEntry) (flags : FlagSet) (flow : Flow) : State :=
  let c := s.cur.1
  let e := s.cur.2
  let s := s.modEng c e (fun x =>
    let y := (x.push push).resumed (s.behind c e)
    { y with csr := { y.csr with fflags := y.csr.fflags ||| flags }, inside := none })
  match (s.eng c e).grp with
  | some g => s.postAndEnd c e { g with flags := g.flags ||| flags } h.pop h.post flow
  | none => s

/-- A member faults as it is performed (R91): it and the members after it issue again. -/
def State.memberFault (s : State) (cause : Nat) (v : Word) (buf off kind : Nat) : State :=
  let c := s.cur.1
  let e := s.cur.2
  match (s.eng c e).grp with
  | some g => (s.keep c e (some g)).takeTrap c e cause v (g.pcOf g.idx) buf off kind
  | none => s.takeTrap c e cause v (s.eng c e).pc buf off kind

/-- The member number of the member being performed. -/
def State.memberNo (s : State) : Nat := (s.curEng.grp.map Grp.idx).getD 0

/-- What becomes of a member once its effect is known. -/
def State.settle (h : Hdr) : Eff → State
  | .done s push flags flow => s.retire h push flags flow
  | .wait s r => s.waitOn s.cur.1 s.cur.2 r
  | .fault s x buf => s.memberFault (trapOf x.fail.cause) (memVal x s.memberNo) buf (x.off % (2 ^ 48 : Int)).toNat x.kind
  | .trapAt s cause v => s.memberFault cause v 0 0 0
  | .flight s push f =>
    let c := s.cur.1
    let e := s.cur.2
    let s := s.modCur (fun x => (x.push push).resumed (s.behind c e))
    match s.curEng.grp with
    | some g =>
      let f := { f with posts := h.post, pops := h.pop, sect := s.curEng.sect, pc := g.pcOf (g.idx + 1), later := s.after c }
      (s.modCore c (fun k => { k with flight := k.flight ++ [f] })).endMember c e g .next
    | none => s

-- matrix readiness (R148, R149, R157 to R164)

/-- Numbers of what matrix commands read and write: these, v registers from 16, and rows of the accumulators from 1024 (R148). -/
def rsActive : Nat := 4
def rsPreload : Nat := 5
def rsScales : Nat := 6
def rsConfig : Nat := 7
def rsMkp : Nat := 8
/-- The active half of S0 and of S1. -/
def rsBank (layer : Nat) : Nat := 9 + layer

def vregRun (first n : Nat) : List Nat := (List.range n).map (fun i => 16 + first + i)
def accRows (bank row0 n : Nat) : List Nat := (List.range n).map (fun i => 1024 + 256 * bank + row0 + i)

/-- What a command reads, what it writes, and the unit or units it takes. -/
structure CmdUse where
  reads  : List Nat
  writes : List Nat
  unit   : MUnit
  unit2  : MUnit

def Core.cmdUse (k : Core) (g : Engine) (i : Instr) : Option CmdUse :=
  let ac := acode k.mcfg
  let wc := wcode k.mcfg
  let mx := if mIsMx wc then [rsScales] else []
  match i with
  | .mcfg _ _ _ => some { reads := [], writes := [rsConfig, rsActive, rsPreload, rsScales], unit := .none, unit2 := .none }
  | .mldw _ a _ => some { reads := [rsConfig, rsBank (bitsOf (srdIn k g a).val 32 1)], writes := [rsPreload, rsMkp] ++ mx, unit := .port, unit2 := .none }
  | .mlds _ a _ => some { reads := [rsConfig, rsBank (bitsOf (srdIn k g a).val 32 1)], writes := [rsScales, rsMkp], unit := .port, unit2 := .none }
  | .mswp _ _ => some { reads := [], writes := [rsActive, rsPreload], unit := .array, unit2 := .none }
  | .mma _ kk a b cc _ =>
    let w := (srdIn k g b).val
    let regs := vregRun a.val (actRegs ac wc (mmaN w)) ++ (if ac == 5 then vregRun cc.toNat (scaleRegs wc (mmaN w)) else [])
    let rows := accRows kk.toNat (mmaRow0 w) (mmaN w)
    if mmaStrm w then
      some { reads := rsConfig :: rsBank (mmaLayer w) :: regs, writes := rows ++ [rsMkp] ++ mx, unit := .array, unit2 := .port }
    else some { reads := [rsConfig, rsActive] ++ regs, writes := rows, unit := .array, unit2 := .none }
  | .mza _ kk _ => some { reads := [], writes := accRows kk.toNat 0 256, unit := .drain, unit2 := .none }
  | .mdrn _ kk d b _ =>
    let w := (srdIn k g b).val
    let n := mmaN w
    let rows := accRows kk.toNat (mmaRow0 w) n
    some { reads := rsConfig :: rows, writes := vregRun d.val (if dtype k.mcfg == 0 then n else ceilDiv n 2) ++
             (if mmaZero w then rows else []), unit := .drain, unit2 := .none }
  | .mkpr _ _ _ => some { reads := [rsMkp], writes := [], unit := .none, unit2 := .none }
  | .mbswp _ a _ =>
    let named := (srdIn k g a).val
    some { reads := [], writes := (if named.getLsbD 0 then [rsBank 0] else []) ++ (if named.getLsbD 1 then [rsBank 1] else []), unit := .none, unit2 := .none }
  | _ => none

def Flight.holds (f : Flight) (u : MUnit) (now : Nat) : Bool :=
  u != .none && (f.unit == u || f.unit2 == u) && now < f.busy

/-- A fill is pending to the shadow half of a named layer (R164): bit 0 names S0, bit 1 names S1. -/
def State.fillPending (s : State) (c : Nat) (layers : BitVec 2) : Bool :=
  s.coll.cmds.any (fun x =>
    let cmd := x.2
    let layer := bitsOf (cmd.ops.getD 1 0) 32 1
    cmd.kind == kFill && layers.getLsbD layer &&
    cmd.targets.zipIdx.any (fun t => t.1.1 == c && t.1.2.1 != (if (s.core c).halves.getLsbD layer then 1 else 0) &&
      (t.1.2.2 + (if cmd.landed.contains t.2 then 1 else 0)) * 65536 < bitsOf (cmd.ops.getD 2 0) 0 48))

/-- The condition that a command's own description adds. -/
def State.ownReady (s : State) (c : Nat) (g : Engine) (i : Instr) (again : Bool) : Bool :=
  let k := s.core c
  let now := s.cyc.toNat
  let mx := mIsMx (wcode k.mcfg)
  match i with
  | .mcfg _ _ _ | .mkpr _ _ _ => k.flight.all (fun f => f.done ≤ now)
  | .mldw _ _ _ => again || !mx || !k.scaleQ.isEmpty
  | .mlds _ _ _ => k.scaleQ.length < 4
  | .mswp _ _ => k.flight.all (fun f => f.done ≤ now || !f.reads.contains rsActive)
  | .mma _ _ _ b _ _ => again || !mmaStrm (srdIn k g b).val || !mx || !k.scaleQ.isEmpty
  | .mbswp _ a _ =>
    let named := ((srdIn k g a).val.extractLsb' 0 2)
    k.flight.all (fun f => f.banks &&& named == 0 || (if f.unit2 == .port then f.busy else f.done) ≤ now) && !s.fillPending c named
  | _ => true

/-- Readiness under R148. -/
def State.matrixReady (s : State) (c : Nat) (i : Instr) (again : Bool) : Bool :=
  let k := s.core c
  let g := s.eng c .M
  let now := s.cyc.toNat
  match k.cmdUse g i with
  | none => true
  | some u =>
    k.flight.all (fun f => !f.holds u.unit now && !f.holds u.unit2 now &&
      (f.done ≤ now || !f.writes.any (fun r => u.reads.contains r || u.writes.contains r))) && s.ownReady c g i again

def stampOf : Instr → Option (BitVec 24)
  | .mcfg _ _ st | .mldw _ _ st | .mswp _ st | .mlds _ _ st | .mma _ _ _ _ _ st | .mza _ _ st | .mdrn _ _ _ _ st
  | .mkpr _ _ st | .mbswp _ _ st => some st
  | _ => none

/-- The target of a command that is judged by its stamp (R152). -/
def State.target? (s : State) (c : Nat) (i : Instr) : Option Word :=
  match s.gangOf c, stampOf i with
  | some _, some st => if st == 0xFFFFFF then none else some ((s.core c).mstb + st.setWidth 64)
  | _, _ => none

def State.gsc (s : State) (c : Nat) : Word := ((s.gangOf c).map Gang.gsc).getD 0

/-- TRAPV of a schedule miss (18 R310). -/
def missVal (target gsc : Word) (late : Bool) : Word :=
  mkWord [(40, 24, bitsOf target 0 24), (16, 24, bitsOf gsc 0 24), (4, 1, if late then 1 else 0)]

-- issue

/-- What stands before a group. -/
inductive Verdict where
  | go
  | hold (reason : BitVec 8)
  | trap (cause : Nat) (v : Word)

/-- Tokens are missing for some FIFO (R88). -/
def Core.short (k : Core) (e : Eng) (is : List Instr) : Bool := [1, 2, 3].any (fun j => popsFrom j is > k.tokens e j)

/-- The late command of M on core `c` was judged in slip mode, and is not judged again (20 R339). -/
def State.judged (s : State) (c : Nat) : Bool := ((s.gangOf c).map (fun g => g.late.contains c)).getD false

/-- The stamp of a command of M, and its readiness (R148, R152, R153); TFENCE and accesses to FFLAGS wait for the commands in
flight (04 R75, 02 R38). A command issued again after a fault, MLDS too, is not judged again (LOG 60); no miss acts in a
handler (18 R306). -/
def State.gate (s : State) (c : Nat) (e : Eng) (is : List Instr) (again : Bool) : Verdict :=
  match e, is with
  | .M, i :: _ =>
    let ready : Verdict := if s.matrixReady c i again then .go else .hold rMatrix
    match (if again then none else s.target? c i) with
    | none => match i, (s.core c).flight with
      | .tfence _, f :: _ => .hold (if f.matrix then rMatrix else rFence)
      | .csrr _ _ .fflags, _ :: _ | .csrw _ .fflags _, _ :: _ => .hold rMatrix
      | _, _ => ready
    | some t =>
      let now := s.gsc c
      if now < t then .hold rStamp
      else if t < now && !s.cryo.slip && !s.inSup c e && !s.judged c then .trap cSched (missVal t now true)
      else ready
  | _, _ => .go

/-- The headers that a transfer names wait for the ferry or a pin (16 R293). -/
def State.transferHeld (s : State) (c : Nat) (e : Eng) (i : Instr) : Option (BitVec 8) :=
  let g := s.eng c e
  let far (t : Target) : Option (BitVec 8) :=
    if g.sup.isSome then none else s.seekBlocked c e t.delta.toNat g.sect.hdr g.sect.len
  match i with
  | .br _ t | .brc _ _ _ _ t | .brp _ _ _ t | .call _ t => far t
  | _ => none

/-- All that decides whether a group issues now: `m0` is the number of its first member. A group that lacks tokens and waits for
its target shows the reason TOKEN_POP (LOG 61). -/
def State.verdict (s : State) (c : Nat) (e : Eng) (is : List Instr) (m0 : Nat) (again : Bool) : Verdict :=
  let dyn : Option (Nat × Word) := s.groupDyn c e m0 0 [] is
  match s.gate c e is again with
  | .trap n v => .trap n v
  | gate =>
    if (s.core c).short e is then
      if (s.tokenBad c e is m0).isSome then
        match dyn with
        | some (n, v) => .trap n v
        | none => .hold rTokenPop
      else .hold rTokenPop
    else
      match gate with
      | .go => match firstSome (is.map (s.transferHeld c e)), dyn with
        | some r, _ => .hold r
        | none, some (n, v) => .trap n v
        | none, none => if s.asyncHold c e 0 0 is then .hold rAsync else .go
      | v => v

/-- Cycles from the cycle of a target to now: those GSC counted, and those it was held at values past the target (R154). -/
def Gang.lateness (g : Gang) (t : Word) : Nat :=
  (g.gsc - t).toNat + (g.held.filter (fun x => decide (t.toNat < x.1) && decide (x.1 ≤ g.gsc.toNat))).foldl (fun n x => n + x.2) 0

/-- A miss that slip mode lets pass is logged as its command issues (R154). -/
def State.logSlip (s : State) (c : Nat) (i : Instr) (again : Bool) : State :=
  match (if again || s.inSup c .M then none else s.target? c i), (s.core c).task.bind RunTask.gang, s.gangOf c with
  | some t, some n, some g =>
    let ev (late : Bool) (n : Nat) : EvInfo :=
      s.taskEv c { kind := 3, cause := cSched, eng := 1, detail := missVal t g.gsc late, pc := (s.eng c .M).pc.toNat,
                   x30 := BitVec.ofNat 64 n }
    if t < g.gsc then (s.post (ev true (g.lateness t))).modGang n (fun g => { g with late := g.late.filter (fun x => x != c) })
    else match g.slip.find? c with
      | some start => (s.post (ev false (s.cyc.toNat - start))).modGang n (fun g => { g with slip := g.slip.del c })
      | none => s
  | _, _, _ => s

/-- A late command waits in slip mode: it has been judged. -/
def State.noteLate (s : State) (c : Nat) (e : Eng) (is : List Instr) (again : Bool) : State :=
  match e, is, (s.core c).task.bind RunTask.gang with
  | .M, i :: _, some n =>
    match (if again || s.inSup c .M then none else s.target? c i) with
    | some t => if t < s.gsc c && s.cryo.slip && !s.judged c then s.modGang n (fun g => { g with late := c :: g.late }) else s
    | none => s
  | _, _, _ => s

/-- BAND as CSRR reads it (R80). -/
def Cryo.csr (x : Cryo) : Word := mkWord [(4, 4, x.st.toNat), (3, 1, if x.slip then 1 else 0), (0, 3, x.band.toNat)]

/-- The snapshot a group takes of the CSRs as it issues (R30, R78). -/
def State.openedGrp (s : State) (c : Nat) (e : Eng) (n : Nat) : Grp :=
  let g := s.eng c e
  let k := s.core c
  match g.restart with
  | some r => { r with size := r.idx + n, again := true, no := k.issueNo }
  | none => { first := g.pc, size := n, idx := 0, csr := (g.resumed (s.behind c e)).csr, kcsr := (k.ctx, k.btbase, k.btlast, k.ptroot), cyc := s.cyc,
              gsc := s.gsc c, band := s.cryo.csr, pkg := s.mgmt.pkg, flags := 0, owes := none, flow := .next, again := false,
              snap := none, no := k.issueNo }

/-- Issue a group: tokens are reserved, which puts what posted them before it (R94); the watchdog restarts. -/
def State.issue (s : State) (c : Nat) (e : Eng) (is : List Instr) : State :=
  let r := s.openedGrp c e is.length
  let s := match e, is with
    | .M, i :: _ => s.logSlip c i r.again
    | _, _ => s
  let s := if is.any (fun i => (hdrD i).pop != 0) then s.syncAhead c e else s
  (s.modCore c (fun k => { k.reserve e is with issueNo := k.issueNo + 1 })).modEng c e (fun g =>
    { g.resumed (s.behind c e) with grp := some r, regrp := if g.sup.isSome then g.regrp else none, wdog := 0,
                                    issued := s.cyc.toNat + 1 })

/-- Waits before issue that are points of R318: on tokens, on a stamp, and a slip of M (R328). -/
def State.pointWait (s : State) (c : Nat) (e : Eng) (r : BitVec 8) : Bool :=
  r == rTokenPop || r == rStamp || (e == .M && ((s.gangOf c).map (fun g => g.slip.has c)).getD false)

/-- A trap of another check ends the slip of a command that became ready, and its miss is logged (R154). -/
def State.endSlip (s : State) (c : Nat) (e : Eng) (is : List Instr) (cause : Nat) (again : Bool) : State :=
  match e, is with
  | .M, i :: _ => if cause == cSched then s else s.logSlip c i again
  | _, _ => s

/-- A group is opened (`true`), or it waits or traps. -/
def State.openGroup (s : State) (is : List Instr) : State × Bool :=
  let c := s.cur.1
  let e := s.cur.2
  let g := s.eng c e
  let m0 := (g.restart.map Grp.idx).getD 0
  match s.verdict c e is m0 g.restart.isSome with
  | .go => (s.issue c e is, true)
  | .hold r =>
    let s := (s.noteLate c e is g.restart.isSome).waitOn c e r
    (if s.pointWait c e r then s.park c e else s, false)
  | .trap n v => ((s.endSlip c e is n g.restart.isSome).takeTrap c e n v g.pc, false)

/-- The checks of a word that stands alone: privilege, words a handler may not hold, and where R50 and R73 place it. -/
def State.aloneBad (s : State) (i : Instr) : Option (Nat × Word) :=
  let g := s.curEng
  let w := g.sect.wordOf g.pc
  if g.sup.isSome then (if supForbidden i then some (cIllEnc, fieldVal 0 0) else none)
  else match privilegeField i with
    | some f => some (cPrivilege, fieldVal f 0)
    | none => match i with
      | .loop _ _ _ x | .loops _ _ _ _ x =>
        if x.toNat ≤ w || x.toNat ≥ g.sect.len then some (cIllEnc, fieldVal fImm 0) else none
      | .suspend _ | .yield _ | .sleep _ => if w + 1 != g.sect.len then some (cIllEnc, fieldVal 0 0) else none
      | _ => none

/-- The meaning of every word: as the member of the group in issue, or as a group of its own. What its rule's pseudocode divides into no
parts takes effect here as one step (00 R7). -/
def performWord (i : Instr) (eff : Grp → State → Eff) (s : State) : Host.Outcome State Fault Refusal :=
  match s.curEng.grp with
  | some g => .next (State.settle (hdrD i) (eff g s))
  | none =>
    match s.aloneBad i with
    | some (n, v) => .next (s.takeTrap s.cur.1 s.cur.2 n v s.curEng.pc)
    | none =>
      match s.openGroup [i] with
      | (t, false) => .next t
      | (t, true) =>
        match t.curEng.grp with
        | some g => .next (State.settle (hdrD i) (eff g t))
        | none => .next t

-- entering a section (R16, R18)

/-- The engines that the waits of a header are still for (R15). -/
def State.unmet (s : State) (c : Nat) (e : Eng) (h : Word) : List Eng :=
  ([1, 2, 3].filter (fun j =>
    let w := bitsOf h (48 - 16 * j) 16
    let o := s.eng c (engOther e j)
    !(w == 0xFFFF || o.phase == .finished || (o.hwm != 0xFFFF && o.hwm.toNat ≥ w)))).map (engOther e)

/-- The waits of a header are met. -/
def State.waitsMet (s : State) (c : Nat) (e : Eng) (h : Word) : Bool := (s.unmet c e h).isEmpty

/-- `4 n` bytes at offset `off` of the section an engine enters: as they were loaded when the task was staged (10 R184), else
fetched from the code image. -/
def State.sectCode (s : State) (c : Nat) (e : Eng) (t : RunTask) (off n : Nat) : State × Except AccFault (List Byte) :=
  let hdr := (s.eng c e).sect.hdr
  match (s.core c).codeQ.find? (4 + engIdx e) with
  | some (at_, bs) =>
    if at_ == hdr && off + 4 * n ≤ bs.length then (s, .ok ((bs.drop off).take (4 * n)))
    else s.code c t.cbuf.toNat (t.codeAt e (hdr + off)) n
  | none => s.code c t.cbuf.toNat (t.codeAt e (hdr + off)) n

/-- Why that fetch waits. -/
def State.sectBlocked (s : State) (c : Nat) (e : Eng) (t : RunTask) (off n : Nat) : Option (BitVec 8) :=
  let hdr := (s.eng c e).sect.hdr
  let there := s.codeBlocked (s.whoEng c) c t.cbuf.toNat (t.codeAt e (hdr + off)) n
  match (s.core c).codeQ.find? (4 + engIdx e) with
  | some (at_, bs) => if at_ == hdr && off + 4 * n ≤ bs.length then none else there
  | none => there

/-- Engines whose sections the header at entry still waits for (R16). -/
def State.awaits (s : State) (c : Nat) (e : Eng) : List Eng :=
  match (s.core c).task with
  | none => []
  | some t =>
    if t.streams.getD (engIdx e) 0 == 0 then []
    else match (s.sectCode c e t 0 2).2 with
      | .error _ => []
      | .ok bs => s.unmet c e (leWord bs)

/-- The stream fault of a section (R309, R310): kind 0 too long, 1 for a header or word that fails a check of R209 (R18). -/
def State.streamFault (s : State) (c : Nat) (e : Eng) (kind : Nat) : State :=
  let g := s.eng c e
  s.takeTrap c e cStream (mkWord [(16, 16, g.sect.num), (4, 4, kind)]) g.sect.base

/-- Put the words of a section into the instruction store (LOG 7). -/
def Engine.loadWords (g : Engine) (bs : List Byte) : Engine :=
  { g with istore := (bs.zip (List.range bs.length)).foldl (fun m x =>
      Memory.poke 0xFF m ((g.sect.base.toNat + x.2) % 0x10000) x.1) g.istore }

/-- One attempt to enter the section the engine stands before. -/
def State.enter (s : State) (c : Nat) (e : Eng) : State :=
  match (s.core c).task with
  | none => s
  | some t =>
    let g := s.eng c e
    let base := BitVec.ofNat 16 (g.sect.hdr + 8)
    let at_ (len : Nat) (s : State) : State := s.modEng c e (fun g => { g with sect := { g.sect with len := len, base := base } })
    let finish (s : State) : State := s.modEng c e (fun g =>
      { g.unblock with phase := .finished, arrived := some (0, s.cyc.toNat + 1) })
    if s.unretired c e then s.waitOn c e rMatrix
    else if t.streams.getD (engIdx e) 0 == 0 then finish s
    else match s.sectBlocked c e t 0 2 with
    | some r => s.waitOn c e r
    | none =>
      let (s, r) := s.sectCode c e t 0 2
      match r with
      | .error _ => (at_ 0 s).streamFault c e 1
      | .ok bs =>
        let h := leWord bs
        let len := bitsOf h 48 16
        if len > 5460 then (at_ 0 s).streamFault c e 0
        else
          let s := at_ len s
          match s.sectBlocked c e t 8 (3 * len) with
          | some r => s.waitOn c e r
          | none =>
            let (s, r) := s.sectCode c e t 8 (3 * len)
            match r with
            | .error _ => s.streamFault c e 1
            | .ok ws =>
              if !s.waitsMet c e h then s.waitOn c e rSection
              else if len == 0 then finish s
              else ((s.syncAhead c e).modCore c (fun k => { k with codeQ := k.codeQ.del (4 + engIdx e) })).modEng c e (fun g =>
                { (g.loadWords ws).unblock with phase := .running, pc := g.sect.pcOf g.target, target := 0 })

-- what keeps an engine from going on

/-- The engine has a delivery of its own under way. -/
def RunTask.delivering (t : RunTask) (e : Eng) : Bool := t.delivery.any (fun d => d.eng == engIdx e)

/-- The length of a section that the engine has yet to enter, for the resume section of a trap before it (R303, R307). -/
def State.knowSect (s : State) (c : Nat) (e : Eng) : State :=
  if (s.eng c e).phase == .entering && (s.eng c e).sup.isNone then
    s.modEng c e (fun g => { g with sect := { g.sect with len := (s.lenAt c e g.sect.hdr).getD 0 } })
  else s

/-- The engine issues nothing more for now: its task ends or is delivered, it waits for service, or it has stopped. A
handler runs on until it delivers or returns (R317, R328), and what a fault left of an issued group goes on under HALT (R74). -/
def Engine.idleNow (g : Engine) (t : RunTask) (e : Eng) : Bool :=
  t.delivering e || g.page || g.phase == .idle ||
  (g.sup.isNone && ((t.halting && g.regrp.isNone) || t.killing || !t.delivery.isEmpty || g.parked || g.stopped.isSome ||
    g.phase == .finished))

/-- The command of M that waits to post. -/
def State.owingOf (s : State) (c : Nat) (e : Eng) : Option (Flight × List Flight) :=
  match e, (s.core c).flight with
  | .M, f :: later => if f.owing then some (f, later) else none
  | _, _ => none

/-- A wait that a watchdog or phase-timer trap abandons (R326): a command of M that waits to post stands for M. -/
def State.abandon (s : State) (c : Nat) (e : Eng) (cause : Nat) (v : Word) : State :=
  let g := s.eng c e
  match s.owingOf c e, g.grp, g.owed with
  | some (f, later), _, _ =>
    ((s.dropFlights c f later).modEng c e (fun x => { x with debt := f.posts })).takeTrap c e cause v f.pc
  | none, some r, some o =>
    (((s.modCore c (fun k => k.dropTokens e o.pops)).keep c e r.rest).modEng c e (fun x =>
      { x with debt := o.posts })).takeTrap c e cause v (r.pcOf (r.idx + 1))
  | none, some r, none => (s.keep c e (some r)).takeTrap c e cause v (r.pcOf r.idx)
  | none, none, _ =>
    if g.phase == .entering then (s.knowSect c e).takeTrap c e cause v (g.sect.pcOf g.target) else s.takeTrap c e cause v g.pc

/-- The engine takes no trap of the watchdog or of the phase timer: it has stopped, or, inside an issued group, it delivers or waits for
page service (R74, R325). -/
def Engine.shut (g : Engine) (t : RunTask) (e : Eng) : Bool :=
  if g.grp.isSome then t.delivering e || g.page || t.killing else g.idleNow t e

/-- The phase timer's trap (R327): at once when the engine waits, else before its next group. -/
def State.phaseTrap (s : State) (c : Nat) (e : Eng) : State :=
  let s := s.modEng c e (fun g => { g with phtDue := false })
  s.abandon c e cPhase (mkWord [(16, 48, bitsOf (s.eng c e).csr.pht 0 48)])

/-- Whether the phase timer acts now. -/
def Engine.phaseNow (g : Engine) : Bool := g.phtDue && g.sup.isNone && (g.csr.blocked || g.grp.isNone)

/-- Posts owed from before a resumption come first (R326); a full FIFO whose engine has finished is a token trap (R92). -/
def State.payDebt (s : State) (c : Nat) (e : Eng) : State :=
  let d := (s.eng c e).debt
  let paid (s : State) : State := s.modEng c e (fun g => { g.unblock with debt := 0 })
  if (s.core c).room e d then paid (s.modCore c (fun k => k.addTokens e d))
  else match s.deadPost c e d with
    | some o => (paid s).takeTrap c e cToken (mkWord [(8, 1, 1), (4, 4, o)]) (s.eng c e).pc
    | none => s.waitOn c e rTokenPost

/-- An engine inside BOWAIT stops at once for a request or a delivery, and the word is issued again (R307, R318). -/
def State.breakOff (s : State) (c : Nat) (e : Eng) (r : Grp) : State :=
  ((s.keep c e (some r)).modCore c (fun k => k.dropResv e)).modEng c e (fun g =>
    { g with grp := none, inside := none, pc := r.pcOf r.idx, parked := true })

/-- What the current engine does next: a step of its own, or one word to perform. -/
inductive Next where
  | own (s : State)
  | word (i : Instr) (s : State)

/-- M has issued a group in this cycle, and issues no other (09, Execution order within M). -/
def State.slotTaken (s : State) (e : Eng) (g : Engine) : Bool := e == .M && g.issued == s.cyc.toNat + 1

/-- A running engine with no group open. Posts owed from before come first (R307, R322, R326). -/
def State.atGroup (s : State) (c : Nat) (e : Eng) : Next :=
  let g := s.eng c e
  let w := g.sect.wordOf g.pc
  if g.debt != 0 && g.sup.isNone then .own (s.payDebt c e)
  else if w ≥ g.sect.len then .own (s.leaveSect c e)
  else if s.slotTaken e g then .own s
  else
    let m0 := (g.restart.map Grp.idx).getD 0
    match checkGroup e g.sup.isSome g.sect.len w m0 (g.members s.supStore 5 w) with
    | .error (n, v) => .own (s.takeTrap c e n v g.pc)
    | .ok [i] => .word i s
    | .ok is =>
      match s.openGroup is with
      | (t, false) => .own t
      | (t, true) =>
        match is with
        | i :: _ => .word i t
        | [] => .own t

/-- An open group: its member, its late post, or nothing while it waits for service. -/
def State.inGroup (s : State) (c : Nat) (e : Eng) (t : RunTask) (r : Grp) : Next :=
  let g := s.eng c e
  match g.owed with
  | some o => .own ((s.land c e).postAndEnd c e r o.pops o.posts o.flow)
  | none =>
    if g.page || t.delivering e then .own s
    else if (g.inside == some (.bowait true) || g.inside == some (.bowait false)) && g.sup.isNone && (s.reqOpen c || !t.delivery.isEmpty) then .own (s.breakOff c e r)
    else match s.memberInstr c e (r.pcOf r.idx) with
      | some i => .word i s
      | none => .own s

/-- The next thing the current engine does. -/
def State.fetch (s : State) : Next :=
  let c := s.cur.1
  let e := s.cur.2
  let g := s.eng c e
  match (s.core c).task with
  | none => .own s
  | some t =>
    if g.stopped == some .sleep && !s.soundSleep c && t.delivery.isEmpty && !t.halting then
      .own (s.modEng c e (fun g => { g.unblock with stopped := none, slept := none }))
    else
      match (if s.reqOpen c || !t.delivery.isEmpty then g.slept else none) with
      | some x => .own (s.unsleep c e x)
      | none =>
        if g.phaseNow && !g.shut t e then .own (s.phaseTrap c e)
        else
          match g.grp with
          | some r => s.inGroup c e t r
          | none =>
            if g.idleNow t e then .own s
            else match g.phase with
              | .entering => if s.reqOpen c && !t.halting then .own (s.park c e) else .own (s.enter c e)
              | .running => s.atGroup c e
              | _ => .own s

end Sys2Proof.Machine
end

