-- ==== Sys2Proof/Machine/Scalar.lean ====
section
/-! DEFINITION. The scalar integer words (04 R59 to R65). -/

namespace Sys2Proof.Machine

-- values

def readWord (signed : Bool) (w : Word) : Int := readInt signed 64 w.toNat

/-- A result delivered under SAT and U (R60): both readings agree in the low 64 bits where nothing clamps. -/
def satWord (m : SatMode) (e : Int) : Word × FlagSet :=
  let (n, f) := deliverInt (m != .satn) 64 (m != .wrap) e
  (BitVec.ofNat 64 n, f)

def satRead (m : SatMode) (w : Word) : Int := readWord (m != .satn) w

def addVal (m : SatMode) (a b : Word) : Word × FlagSet := satWord m (satRead m a + satRead m b)
/-- The immediate keeps its signed value (R60). -/
def addiVal (m : SatMode) (a : Word) (i : BitVec 30) : Word × FlagSet := satWord m (satRead m a + i.toInt)
def subVal (m : SatMode) (a b : Word) : Word × FlagSet := satWord m (satRead m a - satRead m b)
def mulVal (m : SatMode) (a b : Word) : Word × FlagSet := satWord m (satRead m a * satRead m b)
def maddVal (m : SatMode) (a b c : Word) : Word × FlagSet := satWord m (satRead m a * satRead m b + satRead m c)

/-- Bits 127 to 64 of the product (R61). -/
def mulhVal (signed : Bool) (a b : Word) : Word := BitVec.ofInt 64 (readWord signed a * readWord signed b / 2 ^ 64)

/-- Quotient and remainder, truncated toward zero, with DZ (R61). -/
def divVal (signed : Bool) (a b : Word) : Word × Word × FlagSet :=
  if b = 0 then (ones64, a, flagIf (a != 0) fDZ)
  else
    let x := readWord signed a
    let y := readWord signed b
    (BitVec.ofInt 64 (Int.tdiv x y), BitVec.ofInt 64 (Int.tmod x y), 0)

def imm30 (i : BitVec 30) : Word := i.signExtend 64

def clzVal (a : Word) : Word := if a = 0 then 64 else BitVec.ofNat 64 (63 - Nat.log2 a.toNat)

def popcVal (a : Word) : Word := BitVec.ofNat 64 (countTrue (bitList 64 a.toNat))
where
  countTrue : List Bool → Nat
    | [] => 0
    | b :: bs => (if b then 1 else 0) + countTrue bs

/-- The low six bits count (R62). -/
def shCount (b : Word) : Nat := b.toNat % 64

def minVal (signed : Bool) (a b : Word) : Word := if readWord signed b < readWord signed a then b else a
def maxVal (signed : Bool) (a b : Word) : Word := if readWord signed a < readWord signed b then b else a

/-- BEXT and BINS (R65): `w1` is the width less one. -/
def bextVal (a : Word) (pos w1 : BitVec 6) : Word := BitVec.ofNat 64 (bitsOf a pos.toNat (w1.toNat + 1))
def binsVal (a b : Word) (pos w1 : BitVec 6) : Word := setBits a pos.toNat (w1.toNat + 1) b.toNat

/-- LIH (R64). -/
def lihVal (a : Word) (k : BitVec 32) : Word := k ++ a.setWidth 32

-- the shape of a scalar word

/-- The first poisoned source, in the order A, B, C. -/
def firstPoison : List SVal → Option SVal
  | [] => none
  | v :: vs => if v.poison then some v else firstPoison vs

/-- A scalar result: the old value under a false guard (R59), poison from a poisoned source (R102), else the value. -/
def scalarEff (h : Hdr) (d : SDst) (src : List SVal) (r : Word × FlagSet) (s : State) : Eff :=
  if s.guardTrue h then
    match firstPoison src with
    | some p => .done (s.swr d (.bad p.cause)) (some (.sc (.bad p.cause))) 0 .next
    | none => .done (s.swr d (.clean r.1)) (some (.sc (.clean r.1))) r.2 .next
  else .done s (some (.sc (s.sold d))) 0 .next

def scalar1 (h : Hdr) (d : SDst) (a : SSrc) (f : Word → Word × FlagSet) (s : State) : Eff :=
  scalarEff h d [s.srd a] (f (s.srd a).val) s
def scalar2 (h : Hdr) (d : SDst) (a b : SSrc) (f : Word → Word → Word × FlagSet) (s : State) : Eff :=
  scalarEff h d [s.srd a, s.srd b] (f (s.srd a).val (s.srd b).val) s
def scalar3 (h : Hdr) (d : SDst) (a b c : SSrc) (f : Word → Word → Word → Word × FlagSet) (s : State) : Eff :=
  scalarEff h d [s.srd a, s.srd b, s.srd c] (f (s.srd a).val (s.srd b).val (s.srd c).val) s

/-- A value that sets no flag. -/
def noFlag (w : Word) : Word × FlagSet := (w, 0)

-- the words

def execAdd (h : Hdr) (m : SatMode) (d : SDst) (a b : SSrc) : State → Host.Outcome State Fault Refusal :=
  performWord (.add h m d a b) (fun _ => scalar2 h d a b (addVal m))
def execAddi (h : Hdr) (m : SatMode) (d : SDst) (a : SSrc) (i : BitVec 30) : State → Host.Outcome State Fault Refusal :=
  performWord (.addi h m d a i) (fun _ => scalar1 h d a (fun x => addiVal m x i))
def execSub (h : Hdr) (m : SatMode) (d : SDst) (a b : SSrc) : State → Host.Outcome State Fault Refusal :=
  performWord (.sub h m d a b) (fun _ => scalar2 h d a b (subVal m))
def execMul (h : Hdr) (m : SatMode) (d : SDst) (a b : SSrc) : State → Host.Outcome State Fault Refusal :=
  performWord (.mul h m d a b) (fun _ => scalar2 h d a b (mulVal m))
def execMadd (h : Hdr) (m : SatMode) (d : SDst) (a b c : SSrc) : State → Host.Outcome State Fault Refusal :=
  performWord (.madd h m d a b c) (fun _ => scalar3 h d a b c (maddVal m))
def execMulh (h : Hdr) (d : SDst) (a b : SSrc) : State → Host.Outcome State Fault Refusal :=
  performWord (.mulh h d a b) (fun _ => scalar2 h d a b (fun x y => noFlag (mulhVal true x y)))
def execMulhn (h : Hdr) (d : SDst) (a b : SSrc) : State → Host.Outcome State Fault Refusal :=
  performWord (.mulhn h d a b) (fun _ => scalar2 h d a b (fun x y => noFlag (mulhVal false x y)))
def execDiv (h : Hdr) (d : SDst) (a b : SSrc) : State → Host.Outcome State Fault Refusal :=
  performWord (.div h d a b) (fun _ => scalar2 h d a b (fun x y => ((divVal true x y).1, (divVal true x y).2.2)))
def execDivn (h : Hdr) (d : SDst) (a b : SSrc) : State → Host.Outcome State Fault Refusal :=
  performWord (.divn h d a b) (fun _ => scalar2 h d a b (fun x y => ((divVal false x y).1, (divVal false x y).2.2)))
def execRem (h : Hdr) (d : SDst) (a b : SSrc) : State → Host.Outcome State Fault Refusal :=
  performWord (.rem h d a b) (fun _ => scalar2 h d a b (fun x y => (divVal true x y).2))
def execRemn (h : Hdr) (d : SDst) (a b : SSrc) : State → Host.Outcome State Fault Refusal :=
  performWord (.remn h d a b) (fun _ => scalar2 h d a b (fun x y => (divVal false x y).2))
def execAnd (h : Hdr) (d : SDst) (a b : SSrc) : State → Host.Outcome State Fault Refusal :=
  performWord (.and h d a b) (fun _ => scalar2 h d a b (fun x y => noFlag (x &&& y)))
def execAndi (h : Hdr) (d : SDst) (a : SSrc) (i : BitVec 30) : State → Host.Outcome State Fault Refusal :=
  performWord (.andi h d a i) (fun _ => scalar1 h d a (fun x => noFlag (x &&& imm30 i)))
def execOr (h : Hdr) (d : SDst) (a b : SSrc) : State → Host.Outcome State Fault Refusal :=
  performWord (.or h d a b) (fun _ => scalar2 h d a b (fun x y => noFlag (x ||| y)))
def execOri (h : Hdr) (d : SDst) (a : SSrc) (i : BitVec 30) : State → Host.Outcome State Fault Refusal :=
  performWord (.ori h d a i) (fun _ => scalar1 h d a (fun x => noFlag (x ||| imm30 i)))
def execXor (h : Hdr) (d : SDst) (a b : SSrc) : State → Host.Outcome State Fault Refusal :=
  performWord (.xor h d a b) (fun _ => scalar2 h d a b (fun x y => noFlag (x ^^^ y)))
def execXori (h : Hdr) (d : SDst) (a : SSrc) (i : BitVec 30) : State → Host.Outcome State Fault Refusal :=
  performWord (.xori h d a i) (fun _ => scalar1 h d a (fun x => noFlag (x ^^^ imm30 i)))
def execAndn (h : Hdr) (d : SDst) (a b : SSrc) : State → Host.Outcome State Fault Refusal :=
  performWord (.andn h d a b) (fun _ => scalar2 h d a b (fun x y => noFlag (x &&& ~~~y)))
def execClz (h : Hdr) (d : SDst) (a : SSrc) : State → Host.Outcome State Fault Refusal :=
  performWord (.clz h d a) (fun _ => scalar1 h d a (fun x => noFlag (clzVal x)))
def execPopc (h : Hdr) (d : SDst) (a : SSrc) : State → Host.Outcome State Fault Refusal :=
  performWord (.popc h d a) (fun _ => scalar1 h d a (fun x => noFlag (popcVal x)))
def execShl (h : Hdr) (d : SDst) (a b : SSrc) : State → Host.Outcome State Fault Refusal :=
  performWord (.shl h d a b) (fun _ => scalar2 h d a b (fun x y => noFlag (x <<< shCount y)))
def execShli (h : Hdr) (d : SDst) (a : SSrc) (sh : BitVec 6) : State → Host.Outcome State Fault Refusal :=
  performWord (.shli h d a sh) (fun _ => scalar1 h d a (fun x => noFlag (x <<< sh.toNat)))
def execShr (h : Hdr) (d : SDst) (a b : SSrc) : State → Host.Outcome State Fault Refusal :=
  performWord (.shr h d a b) (fun _ => scalar2 h d a b (fun x y => noFlag (x >>> shCount y)))
def execShri (h : Hdr) (d : SDst) (a : SSrc) (sh : BitVec 6) : State → Host.Outcome State Fault Refusal :=
  performWord (.shri h d a sh) (fun _ => scalar1 h d a (fun x => noFlag (x >>> sh.toNat)))
def execSra (h : Hdr) (d : SDst) (a b : SSrc) : State → Host.Outcome State Fault Refusal :=
  performWord (.sra h d a b) (fun _ => scalar2 h d a b (fun x y => noFlag (x.sshiftRight (shCount y))))
def execSrai (h : Hdr) (d : SDst) (a : SSrc) (sh : BitVec 6) : State → Host.Outcome State Fault Refusal :=
  performWord (.srai h d a sh) (fun _ => scalar1 h d a (fun x => noFlag (x.sshiftRight sh.toNat)))
def execMin (h : Hdr) (d : SDst) (a b : SSrc) : State → Host.Outcome State Fault Refusal :=
  performWord (.min h d a b) (fun _ => scalar2 h d a b (fun x y => noFlag (minVal true x y)))
def execMinn (h : Hdr) (d : SDst) (a b : SSrc) : State → Host.Outcome State Fault Refusal :=
  performWord (.minn h d a b) (fun _ => scalar2 h d a b (fun x y => noFlag (minVal false x y)))
def execMax (h : Hdr) (d : SDst) (a b : SSrc) : State → Host.Outcome State Fault Refusal :=
  performWord (.max h d a b) (fun _ => scalar2 h d a b (fun x y => noFlag (maxVal true x y)))
def execMaxn (h : Hdr) (d : SDst) (a b : SSrc) : State → Host.Outcome State Fault Refusal :=
  performWord (.maxn h d a b) (fun _ => scalar2 h d a b (fun x y => noFlag (maxVal false x y)))
def execCmp (h : Hdr) (c : Cond) (d : SDst) (a b : SSrc) : State → Host.Outcome State Fault Refusal :=
  performWord (.cmp h c d a b) (fun _ => scalar2 h d a b (fun x y => noFlag (if condHolds c x y then 1 else 0)))
def execSel (h : Hdr) (d : SDst) (a b c : SSrc) : State → Host.Outcome State Fault Refusal :=
  performWord (.sel h d a b c) (fun _ => scalar3 h d a b c (fun x y z => noFlag (if x = 0 then z else y)))
def execLi (h : Hdr) (d : SDst) (k : BitVec 50) : State → Host.Outcome State Fault Refusal :=
  performWord (.li h d k) (fun _ => scalarEff h d [] (noFlag (k.signExtend 64)))
def execLih (h : Hdr) (d : SDst) (a : SSrc) (k : BitVec 32) : State → Host.Outcome State Fault Refusal :=
  performWord (.lih h d a k) (fun _ => scalar1 h d a (fun x => noFlag (lihVal x k)))
def execBext (h : Hdr) (d : SDst) (a : SSrc) (pos w1 : BitVec 6) : State → Host.Outcome State Fault Refusal :=
  performWord (.bext h d a pos w1) (fun _ => scalar1 h d a (fun x => noFlag (bextVal x pos w1)))
def execBins (h : Hdr) (d : SDst) (a b : SSrc) (pos w1 : BitVec 6) : State → Host.Outcome State Fault Refusal :=
  performWord (.bins h d a b pos w1) (fun _ => scalar2 h d a b (fun x y => noFlag (binsVal x y pos w1)))

end Sys2Proof.Machine
end

