-- ==== Sys2Proof/Machine/MemOps.lean ====
section
/-! DEFINITION. The shape of a memory word: its reference (03 R51), its checks and ordering role (12 R224, R226), the waits
for a pinned line or a ferried frame (13 R256, 16 R293), and the bytes of a load with their poison (06 R100 to R102). -/

namespace Sys2Proof.Machine

/-- Whose tables the member in issue uses: those its group issued under, for a CSRW of its own group changes later accesses
(04 R81); what issues again after a fault uses those of now. -/
def State.whoCur (s : State) : Who :=
  let w := s.whoEng s.cur.1
  match s.curEng.grp with
  | none => w
  | some g =>
    if g.again then w
    else { w with ctx := g.kcsr.1.toNat, btbase := g.kcsr.2.1.toNat * 2 ^ 21, btlast := g.kcsr.2.2.1.toNat
                  ptroot := g.kcsr.2.2.2.toNat * 2 ^ 12, kid := s.kidOf g.kcsr.1.toNat }

/-- The key generation of the running context. -/
def State.curKid (s : State) : Nat := s.whoCur.kid.getD 0

/-- The lines that the access of the current engine waits for (18 R324). -/
def State.wanting (s : State) (keys : List Nat) : State := s.modCur (fun g => { g with wants := linesOf keys })

/-- Buffer index and byte offset of a memory operand whose displacement counts `unit` bytes (R51, R66). -/
def State.memRef (s : State) (m : MemOp) (unit : Nat) : Nat × Int :=
  (match m.buf with
    | .imm n => n.toNat
    | .reg a => (s.srd a).val.toNat, ((s.srd m.off).val.toNat : Int) + m.disp.toInt * unit)

/-- The line of those that wait for the ferry: an engine that waits joins it, behind those that still wait (16 R293). -/
def State.queueFerry (s : State) : State :=
  let waits (n : Nat) : Bool := (s.core (n / 4)).task.isSome && (s.eng (n / 4) ((allEngs[n % 4]?).getD .L)).csr.blocked &&
    heldWait (s.eng (n / 4) ((allEngs[n % 4]?).getD .L)).csr.reason
  let me := 4 * s.cur.1 + engIdx s.cur.2
  let live := s.stor.ferryQ.filter waits
  { s with stor := { s.stor with ferryQ := if live.contains me then live else live ++ [me] } }

/-- An engine that waited longer for a frame of these lines goes first. -/
def State.ferryTurn (s : State) (lines : List Nat) : Bool :=
  let me := 4 * s.cur.1 + engIdx s.cur.2
  (s.stor.ferryQ.takeWhile (fun n => n != me)).all (fun n =>
    let g := s.eng (n / 4) ((allEngs[n % 4]?).getD .L)
    !(g.csr.blocked && heldWait g.csr.reason && g.wants.any (fun l => lines.any (fun k => k / 512 == l / 512))))

/-- The home key of the first byte of an access. -/
def keyOf (ps : List (List Place)) : Nat := ((ps.headD []).head?.map Place.key).getD 0

/-- Why the oldest pending write of a core is held back. -/
def State.heldReason (s : State) (c : Nat) : BitVec 8 :=
  match (s.core c).wq with
  | w :: _ => if w.cells.any (fun x => s.ferried x.1) then s.heldCode (w.cells.map (fun x => x.1)) else rPinned
  | [] => rPinned

/-- Whether an access can be performed now; `home` is an access performed at its home. -/
def State.mustWait (s : State) (c : Nat) (home : Bool) (ps : List Place) : Option (BitVec 8) :=
  if !home then s.blockedOn c ps
  else match s.keysBlocked c (ps.flatMap Place.keys) with
    | some r => some r
    | none =>
      let lines := linesOf ((ps.filter (fun p => p.kind != .loc)).flatMap Place.keys)
      if lines.any (s.lineStuck c) || s.lentHeld c lines then some rPinned else none

/-- A write of the core comes before an access: one to an SO page of a layer before the access to such a page (13 R248), one to a line
of it (R247). A plain store joins them in order, but in the L1. -/
def State.writesFirst (s : State) (c : Nat) (store : Bool) (ps : List Place) (k : Core) : Bool :=
  (!store && k.wq.any (fun w => w.so && (s.soLayers ps).contains w.layer)) ||
    k.owes (if store then s.cachedLines c ps else linesOf ((ps.filter (fun p => p.kind != .loc)).flatMap Place.keys))

/-- Before an access: the release of its earlier accesses at its scope (12 R226). -/
def State.beforeRel (s : State) (o : Order) (ps : List Place) : State :=
  match Order.releases o with
  | some sc => s.releaseAt s.cur.1 s.cur.2 (roleRank sc ps) 0xF
  | none => s
def State.relDone (s : State) (o : Order) (ps : List Place) : Bool :=
  match Order.releases o with
  | some sc => s.released s.cur.1 (roleRank sc ps) 0xF
  | none => true
/-- What an acquire drops before it is performed (13 R255). -/
def State.beforeAcq (s : State) (o : Order) (ps : List Place) : State :=
  match Order.acquires o with
  | some sc => s.acquireAt s.cur.1 s.cur.2 (roleRank sc ps) 0xF
  | none => s

/-- An access goes on, or waits for a frame or a pin. -/
def State.heldEff (s : State) (r : Option (BitVec 8)) (ps : List Place) (k : State → Eff) : Eff :=
  match r with
  | some r =>
    let s := (s.refused s.cur.1 ps).wanting (ps.flatMap Place.keys)
    .wait (if heldWait r then s.queueFerry else s) r
  | none =>
    if s.stor.ferryQ.isEmpty || s.ferryTurn (linesOf (ps.flatMap Place.keys)) then k s
    else .wait (s.wanting (ps.flatMap Place.keys)).queueFerry rFerry

/-- The waits of an access that has its turn: for writes of its own core, for a frame or for a pin. -/
def State.turnEff (s : State) (home store : Bool) (ps : List Place) (k : State → Eff) : Eff :=
  let c := s.cur.1
  let s := if s.writesFirst c store ps (s.core c) then s.drain c else s
  if s.writesFirst c store ps (s.core c) then
    .wait (s.wanting ((s.core c).wq.flatMap (fun w => w.cells.map (fun x => x.1)))) (s.heldReason c)
  else s.heldEff (s.mustWait c home ps) ps k

/-- The ordering role and the waits of an access whose places are known; `store` is one that only writes. -/
def State.orderedEff (s : State) (o : Order) (home store : Bool) (ps : List Place) (k : State → Eff) : Eff :=
  let c := s.cur.1
  let s := s.beforeRel o ps
  if !s.relDone o ps then .wait s rFence
  else if !home && s.needsFence c (pinsLine o) ps then
    let s := s.releaseAt c s.cur.2 3 0xF
    if s.released c 3 0xF then ((s.fenced c s.cur.2 3 0xF).beforeAcq o ps).turnEff home store ps k else .wait s rFence
  else (s.beforeAcq o ps).turnEff home store ps k

/-- An access that faults as R209 says, or goes on with its places. -/
def State.checkedEff (s : State) (buf : Nat) (f : Form) (offs : List Int) (k : List (List Place) → State → Eff) : Eff :=
  if s.tablesHeld s.whoCur buf f offs then
    .wait (s.wanting (s.tableKeys s.whoCur buf f offs)) (s.heldCode (s.tableKeys s.whoCur buf f offs))
  else
  let (s, r) := s.access s.whoCur buf f offs
  match r with
  | .error x => .fault s x buf
  | .ok ps => k ps s

/-- One with its ordering role and its waits; `home` is one performed at its home. -/
def State.memEff (s : State) (o : Order) (buf : Nat) (f : Form) (offs : List Int) (home : Bool)
    (k : List (List Place) → State → Eff) : Eff :=
  s.checkedEff buf f offs (fun ps s => s.orderedEff o home (f.need == .write) ps.flatten (k ps))

/-- The range an atomic writes is recorded in the filter (R229). -/
def State.noteAtomic (s : State) (ps : List Place) : State :=
  (s.modCore s.cur.1 (fun k => k.record (dedup (runs ((ps.flatMap Place.spots).filterMap (fun x =>
    if x.2.kind != .loc then some (x.2.va / 4096) else none)))))).afterStore s.cur.1 s.cur.2 ps

-- what a load brings

/-- The bytes of the elements that passed their checks and the causes of those that did not (R101). -/
def State.spElements (s : State) (c kid es : Nat) : List (Except Fail (List Place)) → List (List (Byte × BitVec 4))
  | [] => []
  | .ok ps :: rs => ps.map (s.loadByte c kid) :: State.spElements s c kid es rs
  | .error f :: rs => List.replicate es (0, BitVec.ofNat 4 f.cause) :: State.spElements s c kid es rs

/-- An acquiring load of word 0 of a barrier object whose phase has flipped synchronises with the credits of that phase (13 R260);
of other words it does nothing of the kind. -/
def State.sawFlip (s : State) (o : Order) (ps : List Place) : State :=
  match Order.acquires o, ps with
  | some _, p :: _ =>
    let key := p.key / 8 * 8
    if p.whole && ps.all (fun q => (s.aheadByte q).isNone) then
      s.flipAhead s.cur.1 s.cur.2 key (bitsOf (leWord ((List.range 8).map (fun i => s.plain s.curKid (key + 8 + i)))) 48 16)
    else s
  | _, _ => s

/-- A load of elements: with `sp`, failing elements bring poison and no fault. -/
def State.loadEff (s : State) (sp : Bool) (o : Order) (buf : Nat) (f : Form) (offs : List Int)
    (k : List (List (Byte × BitVec 4)) → State → Eff) : Eff :=
  let c := s.cur.1
  let kid := s.curKid
  if sp && s.tablesHeld s.whoCur buf f offs then
    .wait (s.wanting (s.tableKeys s.whoCur buf f offs)) (s.heldCode (s.tableKeys s.whoCur buf f offs))
  else if sp then
    let w := s.whoCur
    let (s, d) := s.buffer w buf f.need
    let (s, rs) := match d with
      | .error e => (s, offs.map (fun _ => (.error e : Except Fail (List Place))))
      | .ok d => s.elements w d f offs
    let ps := (okPlaces rs).flatten
    s.orderedEff o false false ps (fun s =>
      let s := s.prepare c kid ps
      k (s.spElements c kid f.es rs) (s.afterLoad c ps))
  else
    s.memEff o buf f offs false (fun ps s =>
      let s := s.prepare c kid ps.flatten
      k (ps.map (fun e => e.map (s.loadByte c kid))) ((s.sawFlip o ps.flatten).afterLoad c ps.flatten))

def firstBad : List (Byte × BitVec 4) → BitVec 4
  | [] => 0
  | (_, c) :: bs => if c != 0 then c else firstBad bs

/-- A scalar load (R66, R100): extended, or poisoned. -/
def scalarOf (sx : Bool) (bs : List (Byte × BitVec 4)) : SVal :=
  if firstBad bs != 0 then .bad (firstBad bs)
  else .clean (BitVec.ofInt 64 (readInt sx (8 * bs.length) (leNat (bs.map (fun b => b.1)))))

def lanes4 : Nat → List (Byte × BitVec 4) → List (List (Byte × BitVec 4))
  | 0, _ => []
  | n + 1, bs => bs.take 4 :: lanes4 n (bs.drop 4)

/-- A lane that a check of a `.sp` load covers reads 0 (R101); one of uncorrectable storage holds the stored bits (08 R139). -/
def laneData (l : List (Byte × BitVec 4)) : Nat :=
  if l.any (fun b => b.2 != 0 && b.2 != 6 && b.2 != 7) then 0 else leNat (l.map (fun b => b.1))

/-- A vector of 1,024 loaded bytes: a lane that holds a bad byte is poisoned (R100). -/
def vecOf (bs : List (Byte × BitVec 4)) : VVal :=
  let lanes := lanes4 256 bs
  { data := BitVec.ofNat 8192 (packFields 32 (lanes.map laneData))
    poison := BitVec.ofNat 256 (packBits (lanes.map (fun l => firstBad l != 0)))
    cause := firstBad bs }

/-- 32-bit lanes that hold an element with a poisoned index read 0 (R102). -/
def VVal.zeroLanes (v : VVal) (on : List Bool) : VVal :=
  { v with data := BitVec.ofNat 8192 (packFields 32 (((fields 32 256 v.data.toNat).zip on).map (fun x => if x.2 then 0 else x.1))) }

/-- Every lane poisoned by an address operand of a `.sp` load (R101). -/
def vecBad (cause : BitVec 4) : VVal := { data := 0, poison := BitVec.allOnes 256, cause := cause }

/-- The poisoned address operand of a memory word, in the order A, B, C. -/
def State.addrPoison (s : State) (first : List SVal) (m : MemOp) : Option SVal :=
  firstPoison (first ++ (match m.buf with
    | .reg a => [s.srd a]
    | .imm _ => []) ++ [s.srd m.off])

end Sys2Proof.Machine
end

