-- ==== Sys2Proof/Machine/Arm.lean ====
section
/-! DEFINITION. Launch records (10 R179), their patching and arming (R182, R193), the cores present and allowed (20 R336, R347),
and record slots (R172, R178). -/

namespace Sys2Proof.Machine

-- cores (R336, R341)

/-- Cores that a band lets run. -/
def bandCores (band c : Nat) : Bool :=
  if band ≤ 2 then true else if band = 3 then 128 ≤ c else 128 ≤ c && c < 144

/-- Present and not gated. -/
def State.allowed (s : State) (c : Nat) : Bool := s.present c && bandCores s.cryo.band.toNat c

/-- Cores of a gang of a shape (R183). -/
def shapeSize (sg : Nat) : Nat := match sg with
  | 0 => 1 | 1 => 4 | 2 => 128 | _ => 256
/-- The unit of a shape that holds a core. -/
def unitOf (sg c : Nat) : List Nat := (List.range (shapeSize sg)).map (fun j => c / shapeSize sg * shapeSize sg + j)

-- records of the part

def State.lrecAddr (s : State) (n : Nat) : Nat := s.host.lpbase.toNat + 256 * n
def State.lrecWord (s : State) (n off : Nat) : Word := s.partWord (s.lrecAddr n + off)
def State.setLrec (s : State) (n off : Nat) (w : Word) : State := s.partWords (s.lrecAddr n + off) [w]

def State.lrecValid (s : State) (n : Nat) : Bool := bitsOf (s.lrecWord n 0x30) 15 1 == 1
def State.lrecTiles (s : State) (n : Nat) : Nat := bitsOf (s.lrecWord n 0x28) 0 32
def State.lrecCtx (s : State) (n : Nat) : Nat := bitsOf (s.lrecWord n 0x28) 32 16
def State.lrecSg (s : State) (n : Nat) : Nat := bitsOf (s.lrecWord n 0x30) 13 2
def State.lrecClass (s : State) (n : Nat) : Nat := bitsOf (s.lrecWord n 0x30) 16 6
def State.lrecOut (s : State) (n : Nat) : Nat := bitsOf (s.lrecWord n 0x60) 0 32
def State.setOut (s : State) (n v : Nat) : State := s.setLrec n 0x60 (setBits (s.lrecWord n 0x60) 0 32 v)

def slotCount : Nat := 1048576

/-- The part's own tables, as address and length: records, launch records, contexts, save directory and ring, communicators, events. -/
def State.partTables (s : State) : List (Nat × Nat) :=
  let h := s.host
  [(h.rsbase.toNat, 64 * slotCount), (h.lpbase.toNat, 256 * 65536), (h.ctxt.toNat, 32 * 65536), (h.sdbase.toNat, 8 * slotCount),
   (bitsOf h.srbase 12 44 * 4096, 8 * 2 ^ bitsOf h.srbase 0 5), (h.cmbase.toNat, 64 * 4096),
   (s.evq.base.toNat * 4096, 64 * 2 ^ s.evq.log2n.toNat)]

/-- An exchange holds one of them: what the part does with its tables waits (16 R293). -/
def State.partIn (s : State) (fs : List Nat) : Bool :=
  fs.any (fun f => s.partTables.any (fun t => decide (65536 * f < t.1 + t.2) && decide (t.1 < 65536 * (f + 1))))
def State.partHeld (s : State) : Bool := s.partIn (s.stor.frames ++ s.stor.moving)
/-- The reason of an engine that waits for it. -/
def State.partCode (s : State) : BitVec 8 := if s.partIn s.stor.frames then rFerry else rRemap

-- statuses (R182)

/-- Statuses 1 to 3, which LPATCH, LARM, RCHK and RINV share. -/
def State.lrecStatus (s : State) (a : Word) (ctx : Nat) : Nat :=
  if bitsOf a 16 48 != 0 || !s.lrecValid a.toNat then 1
  else if s.lrecCtx a.toNat != ctx then 2
  else if s.lrecOut a.toNat != 0 then 3
  else 0

/-- The status of LPATCH. -/
def State.patchStatus (s : State) (a b : Word) (sel ctx : Nat) : Nat :=
  let st := s.lrecStatus a ctx
  if st != 0 then st else if sel == 1 && bitsOf b 32 32 != 0 then 6 else 0

/-- The field LPATCH writes (R181). -/
def State.patch (s : State) (n sel : Nat) (b : Word) : State :=
  if sel == 0 then s.setLrec n 0x10 b
  else if sel == 1 then s.setLrec n 0x28 (setBits (s.lrecWord n 0x28) 0 32 b.toNat)
  else s.setLrec n (0xC0 + 8 * (sel - 2)) b

/-- A complete unit of a shape exists. -/
def State.unitExists (s : State) (sg : Nat) : Bool :=
  (List.range (256 / shapeSize sg)).any (fun i => (unitOf sg (i * shapeSize sg)).all s.present)

/-- The status of LARM. -/
def State.armStatus (s : State) (a : Word) (ctx : Nat) : Nat :=
  let st := s.lrecStatus a ctx
  let n := a.toNat
  if st != 0 then st
  else if slotCount - s.sched.tasks.length < s.lrecTiles n then 4
  else if s.lrecSg n != 0 && (!s.unitExists (s.lrecSg n) || s.lrecTiles n % shapeSize (s.lrecSg n) != 0) then 5
  else 0

-- the dependence object

/-- What reading word 0 of the dependence object finds. -/
inductive DboRead where
  | none                             -- DBO names no object
  | at_ (key st : Nat)               -- its home, and WAITBO0 or WAITBO1
  | fault (x : AccFault) (buf : Nat)
  | held (reason : BitVec 8)

/-- The read of DBO for an arm (R182), in the record's context; uncorrectable storage never differs and posts one event
(12 R387). -/
def State.readDbo (s : State) (c n : Nat) (agent : EvInfo) : State × DboRead :=
  let d := s.lrecWord n 0x20
  let buf := bitsOf d 0 16
  let off := bitsOf d 16 48
  if buf = 0 then (s, .none)
  else
    let w := s.whoAgent c (s.lrecCtx n) n
    let (s, r) := s.access w buf (boForm .read) [(off : Int)]
    if s.tablesHeld w buf (boForm .read) [(off : Int)] then (s, .held (s.heldCode (s.tableKeys w buf (boForm .read) [(off : Int)])))
    else match r with
    | .error x => (s, .fault x buf)
    | .ok ps =>
      let key := keyOf ps
      if s.ferried key then (s, .held (s.heldCode [key]))
      else if s.pinnedFor c (lineOf key) then (s, .held rPinned)
      else
        let s := (if c > 255 then s else s.toHome c (lineOf key)).reach [lineOf key]
        if s.boBad key then (s.memErr { agent with ctx := s.lrecCtx n, lrec := n } buf off, .at_ key tWaitBo0)
        else (s, .at_ key (if (s.boAt (w.kid.getD 0) key).phase == 1 then tWaitBo1 else tWaitBo0))

-- arming

def State.seq (s : State) (n : Nat) : Seq := s.sched.seqs.get n Seq.reset
def State.setSeq (s : State) (n : Nat) (x : Seq) : State :=
  { s with sched := { s.sched with seqs := s.sched.seqs.put n x } }
def State.modSeq (s : State) (n : Nat) (f : Seq → Seq) : State := s.setSeq n (f (s.seq n))

def TaskInfo.fresh (cyc : Nat) (bind : Option Nat) (q : List Word) (toProbe : Bool) (home : Option Nat) (ref : Word) (noted : Bool) : TaskInfo :=
  { ready := cyc, rise := cyc, resident := false, bind := bind, q := q, toProbe := toProbe, unit := none, notCore := none,
    cmds := [], fault := none, watch := none, request := none, late := false, home := home, boRef := ref, boNoted := noted, pend := none, saved := none
    dying := false, cls := none, early := [], word0 := none, begun := false }

/-- The lowest `n` free slots from `k` on (LOG 29). -/
def State.freeSlots (s : State) : Nat → Nat → Nat → List Nat
  | 0, _, _ => []
  | _, 0, _ => []
  | fuel + 1, n + 1, k =>
    if s.sched.tasks.has k then State.freeSlots s fuel (n + 1) (k + 1) else k :: State.freeSlots s fuel n (k + 1)

/-- Write the record of one tile (R182 step 3). -/
def State.writeRecord (s : State) (n slot tile st reason : Nat) : State :=
  let code := s.lrecWord n 0x00
  let w28 := s.lrecWord n 0x28
  let a := s.recAddr slot
  s.partWords a [
    mkWord [(0, 56, bitsOf code 0 56), (57, 1, if s.lrecSg n != 0 then 1 else 0)],
    s.lrecWord n 0x08, s.lrecWord n 0x10, s.lrecWord n 0x18,
    mkWord [(0, 16, n), (16, 32, tile), (48, 4, bitsOf w28 56 3), (52, 4, st), (56, 8, reason)],
    0, 0,
    mkWord [(0, 16, bitsOf w28 32 16), (16, 8, bitsOf w28 48 8)]]

/-- Steps 2 to 5 of LARM for a binding and the state its records start in. -/
def State.armRecords (s : State) (n : Nat) (bind : Option Nat) (q : List Word) (home : Option (Nat × Nat)) : State :=
  let tiles := s.lrecTiles n
  if tiles == 0 then s
  else
    let slots := s.freeSlots (tiles + s.sched.tasks.length) tiles 0
    let probe := bind.isSome && s.lrecClass n != 0
    let (st, reason) := match home with
      | some (_, st) => (st, rBo.toNat)
      | none => (tReady, if probe then rReuse.toNat else 0)
    let noted := (home.map (fun h => s.boBad h.1)).getD false
    let s := (slots.zip (List.range tiles)).foldl (fun s x =>
      (s.writeRecord n x.1 x.2 st reason).setInfo x.1
        (TaskInfo.fresh s.cyc.toNat bind q probe (home.map (fun h => h.1)) (s.lrecWord n 0x20) noted)) s
    let s := s.setLrec n 0x60 (mkWord [(0, 32, tiles), (32, 5, match bind with
      | some b => b + 1
      | none => 0)])
    match bind with
    | some b => s.modSeq b (fun x => { x with pop := x.pop + tiles })
    | none => s

-- the end of a slot

/-- A command of a slot runs on without it; one that was saved goes on (16 R298, 10 R178). -/
def Cmd.orphan (x : Cmd) (slot : Nat) : Cmd :=
  if x.slot = slot then { x with slot := slotCount, hold := false, st := if x.st == csHeld then csQueued else x.st } else x

/-- OUTST and the population fall by one, the slot becomes DONE and is freed (R178); commands run on without it. -/
def State.freeSlot (s : State) (slot : Nat) : State :=
  let n := bitsOf (s.recWord slot 0x20) 0 16
  let bind := (s.info slot).bind TaskInfo.bind
  let s := s.setOut n (s.lrecOut n - 1)
  let s := s.setRecState slot tDone 0
  let s := match bind with
    | some b => s.modSeq b (fun x => { x with pop := x.pop - 1 })
    | none => s
  let orphan (x : Nat × Cmd) : Nat × Cmd := (x.1, x.2.orphan slot)
  let lone (x : Nat × Prog) : Nat × Prog := if x.2.slot = slot then (x.1, { x.2 with slot := slotCount }) else x
  { s with sched := { s.sched with tasks := s.sched.tasks.del slot }
           coll := { s.coll with cmds := s.coll.cmds.map orphan, progs := s.coll.progs.map lone } }

end Sys2Proof.Machine
end

