-- ==== Sys2Proof/Machine/Async.lean ====
section
/-! DEFINITION. The asynchronous command words (16 R285 to R295): acceptance of a command and the status word. -/

namespace Sys2Proof.Machine

-- what a command writes, for the filter (12 R229)

/-- Up to 65 of the 4 KiB ranges a plain buffer's bytes lie in: more saturate the filter anyway. -/
def pagesFrom (va n : Nat) : List Nat :=
  if n == 0 then [] else (List.range (Nat.min 65 ((va + n - 1) / 4096 - va / 4096 + 1))).map (fun i => va / 4096 + i)

/-- The ranges that `n` bytes from `off` of a buffer lie in; those of a view lie within its whole footprint. -/
def Desc.pages (d : Desc) (off n : Nat) : List Nat :=
  if d.layer == 3 then []
  else if d.view == 0 then pagesFrom (d.base + off) n
  else dedup (runs ((List.range (2 * n)).map (fun i => (d.base + d.nibAt (2 * off + i) / 2) / 4096)))

/-- Pages of the destination of a copy command. -/
def State.cmdPages (s : State) (c kind : Nat) (ops desc : List Word) : List Nat :=
  let d := RowDesc.of desc
  let (r, n) :=
    if kind = kCopy then (ops.getD 1 0, some (bitsOf (ops.getD 2 0) 0 48))
    else if kind = kGather then (d.dst, some (d.count * d.rowb))
    else (d.dst, none)
  if kind = kFill || kind = kFerry || kind = kColl then []
  else match s.peekBuf c (refBuf r), n with
    | some x, some n => x.pages (refOff r) n
    | some x, none => pagesFrom x.base x.len
    | none, _ => []

-- targets of AFILL (R292)

/-- Present cores of the target unit with the half that is the shadow at acceptance; other commands have one target, their
own core. -/
def State.cmdTargets (s : State) (c kind : Nat) (ops : List Word) : List (Nat × Nat × Nat) :=
  if kind = kFill then
    let t := ops.getD 1 0
    let layer := bitsOf t 32 1
    ((unitOf (bitsOf t 33 2) c).filter s.present).map (fun j =>
      (j, if (s.core j).halves.getLsbD layer then 0 else 1, 0))
  else [(c, 0, 0)]

/-- An MBSWP of a target issues in this cycle: the fill, which would count as accepted first, is accepted after it (R292, R299). -/
def State.swapping (s : State) (c kind : Nat) (ops : List Word) : Bool :=
  (s.cmdTargets c kind ops).any (fun t => kind = kFill &&
    (s.core t.1).flight.any (fun f => f.writes.contains (rsBank (bitsOf (ops.getD 1 0) 32 1)) && decide (s.cyc.toNat < f.done)))

-- acceptance (R287)

def Cmd.new (kind slot tag core eng tile : Nat) (ctx lrec : BitVec 16) (ops : List Word) (bo : Word) (desc : List Word)
    (targets : List (Nat × Nat × Nat)) (gang queue : Option Nat) : Cmd :=
  { kind := kind, slot := slot, tag := tag, core := core, eng := eng, tile := tile, ctx := ctx, lrec := lrec, ops := ops, bo := bo, desc := desc,
    targets := targets, st := csQueued, doneb := 0, gang := gang, queue := queue, hold := false, stop := 0, landed := [], parts := [], marred := false, read := [] }

def State.addCmd (s : State) (x : Cmd) : State :=
  { s with coll := { s.coll with cmds := s.coll.cmds.put s.coll.cmdNo x, cmdNo := s.coll.cmdNo + 1 } }

/-- A collective program as its command is accepted. -/
def Prog.new (slot tag : Nat) (queue : Option Nat) (ctx lrec : BitVec 16) (tile core rank nrank : Nat)
    (ref arg bo : Word) : Prog :=
  { slot := slot, tag := tag, queue := queue, ctx := ctx, lrec := lrec, tile := tile, core := core, rank := rank, nrank := nrank,
    cbuf := ref, arg := arg, bo := bo, hdr := [], comm := 0, epoch := 0, step := 0, loops := [], sig := [], recv := [], expect := [],
    rcnt := [], doff := [], status := none, errc := 0, flags := 0, poison := false, partly := false, missing := 0, bytes := 0,
    doneb := 0, since := 0, phase := 0, cur := none, owe := [], after := 0, started := false, gang := none, countNo := 0, prefNo := 0 }

def State.addProg (s : State) (x : Prog) : State :=
  { s with coll := { s.coll with progs := s.coll.progs.put s.coll.nextId x, nextId := s.coll.nextId + 1 } }

def State.setSlot (s : State) (slot tag : Nat) (x : CmdSlot) : State :=
  s.modInfo slot (fun t => { t with cmds := t.cmds.put tag x })

/-- A command is accepted under a tag. -/
def State.accept (s : State) (c : Nat) (t : RunTask) (tag kind : Nat) (ops : List Word) (bo : Word) (desc : List Word) : State :=
  let ctx := (s.core c).ctx
  if kind = kColl then
    (s.setSlot t.slot tag { st := csQueued, kind := kind, err := 0, doneb := 0, cmd := s.coll.nextId }).addProg
      { (Prog.new t.slot tag none ctx t.lrec t.tile.toNat c t.rank.toNat t.nrank.toNat (ops.getD 0 0) (ops.getD 1 0) bo) with gang := t.gang }
  else
    let s := s.modCore c (fun k => k.record (s.cmdPages c kind ops desc))
    (s.setSlot t.slot tag { st := csQueued, kind := kind, err := 0, doneb := 0, cmd := s.coll.cmdNo }).addCmd
      (Cmd.new kind t.slot tag c (engIdx s.cur.2) t.tile.toNat ctx t.lrec ops bo desc (s.cmdTargets c kind ops) t.gang none)

/-- A command word, steps 3 to 5; the tag and the room are those that the word finds as it starts, in `was`. -/
def acceptEff (was : State) (kind : Nat) (d : SDst) (ops : List Word) (bo : BoRef) (desc : List Word) (s : State) : Eff :=
  let c := s.cur.1
  if s.rangesHeld s.whoCur (cmdRanges kind ops desc (boRefWord bo)) then .wait s (s.rangesCode s.whoCur (cmdRanges kind ops desc (boRefWord bo)))
  else
  let (s, p) := s.planCmd s.whoCur c kind ops (boRefWord bo) desc s.memberNo
  match p with
  | .fault x buf => .fault s x buf
  | .trap cause v => .trapAt s cause v
  | .ready desc =>
    match was.curCore.task with
    | none => .wait s rAsync
    | some t =>
      match freeTag ((was.info t.slot).map TaskInfo.cmds |>.getD []) 0 with
      | none => .wait s rAsync
      | some tag =>
        if !was.queueRoom c kind 0 || s.swapping c kind ops then .wait s rAsync
        else
          let v := SVal.clean (BitVec.ofNat 64 tag)
          .done ((s.accept c t tag kind ops (boRefWord bo) desc).swr d v) (some (.sc v)) 0 .next

/-- A row command reads its descriptor as an LDS does (step 2). -/
def rowsEff (kind : Nat) (d : SDst) (ops : List Word) (bo : BoRef) (s : State) : Eff :=
  let a := ops.getD 0 0
  let was := s
  s.loadEff false .none (refBuf a) { need := .read, es := 32, align := 32, noView := true } [(refOff a : Int)] (fun es s =>
    let bs := es.flatten
    if firstBad bs != 0 then .trapAt s cPoison (poisonVal 0 (firstBad bs).toNat fA s.memberNo)
    else
      match s.judgeRows s.cur.1 s.memberNo ((List.range 4).map (fun i => leWord (((bs.drop (8 * i)).take 8).map (fun b => b.1)))) with
      | .ready ws => acceptEff was kind d ops bo ws s
      | .fault x buf => .fault s x buf
      | .trap cause v => .trapAt s cause v)

/-- A command word, steps 2 to 5 (step 1 precedes the issue of its group). -/
def asyncEff (kind : Nat) (d : SDst) (ops : List Word) (bo : BoRef) (s : State) : Eff :=
  if kind = kGather || kind = kScatter then rowsEff kind d ops bo s else acceptEff s kind d ops bo [] s

/-- A granule or an exchange of the command of a slot is in progress, or a credit of one: it is finished before the command is HELD
(R297). -/
def State.midway (s : State) (x : CmdSlot) : Bool :=
  if x.kind = kColl then ((s.coll.progs.find? x.cmd).map (fun p => !p.owe.isEmpty)).getD false
  else ((s.coll.cmds.find? x.cmd).map (fun y => !(y.parts.isEmpty && y.landed.isEmpty) || (y.kind == kFerry && y.st == csActive))).getD false

/-- The status word of a slot (R295); while the stall wire holds GSC, the commands of a member are HELD (R297). -/
def CmdSlot.word (stall : Bool) (x : CmdSlot) : Word :=
  let st := if stall && (x.st == csQueued || x.st == csActive) then csHeld else x.st
  mkWord [(61, 3, st), (56, 5, x.kind), (48, 8, x.err), (0, 48, x.doneb)]

def astatEff (d : SDst) (a : Word) (s : State) : Eff :=
  let x := (s.curCore.task.bind (fun t => s.info t.slot)).bind (fun t => t.cmds.find? a.toNat)
  let stall := ((s.gangOf s.cur.1).map Gang.stall).getD false
  let v := SVal.clean ((x.map (fun y => y.word (stall && !s.midway y))).getD 0)
  .done (s.swr d v) (some (.sc v)) 0 .next

-- commands that run

def State.cmd (s : State) (n : Nat) : Option Cmd := s.coll.cmds.find? n
def State.setCmd (s : State) (n : Nat) (x : Cmd) : State := { s with coll := { s.coll with cmds := s.coll.cmds.put n x } }

/-- The event fields of the issuing task (R390). -/
def Cmd.ev (x : Cmd) (i : EvInfo) : EvInfo :=
  { i with ctx := x.ctx.toNat, lrec := x.lrec.toNat, tile := x.tile, slot := if x.slot < slotCount then x.slot else 0 }

/-- Word 0x30 of a COPYERR event. -/
def Cmd.hostWord (x : Cmd) : Word :=
  match x.queue with
  | some q => mkWord [(0, 12, q), (63, 1, 1)]
  | none => 0

/-- The COPYERR event of granule `g`: the slot, the tag, the failing check (R296, 18 R390). -/
def Cmd.abortEv (x : Cmd) (g : Nat) (f : AccFault) (buf : Nat) : EvInfo :=
  x.ev { kind := 10, buf := buf, off := (f.off % (2 ^ 48 : Int)).toNat, x30 := x.hostWord,
         detail := mkWord [(0, 6, x.tag), (8, 4, f.fail.check), (12, 4, f.fail.cause), (16, 48, g)] }

-- the words

def State.vals (s : State) (as : List SSrc) : List Word := as.map (fun a => (s.srd a).val)

def execAcpy (h : Hdr) (d : SDst) (a b c : SSrc) (bo : BoRef) : State → Host.Outcome State Fault Refusal :=
  performWord (.acpy h d a b c bo) (fun _ s => asyncEff kCopy d (s.vals [a, b, c]) bo s)
def execAfill (h : Hdr) (d : SDst) (a b c : SSrc) (bo : BoRef) : State → Host.Outcome State Fault Refusal :=
  performWord (.afill h d a b c bo) (fun _ s => asyncEff kFill d (s.vals [a, b, c]) bo s)
def execAgath (h : Hdr) (d : SDst) (a : SSrc) (bo : BoRef) : State → Host.Outcome State Fault Refusal :=
  performWord (.agath h d a bo) (fun _ s => asyncEff kGather d (s.vals [a]) bo s)
def execAscat (h : Hdr) (d : SDst) (a : SSrc) (bo : BoRef) : State → Host.Outcome State Fault Refusal :=
  performWord (.ascat h d a bo) (fun _ s => asyncEff kScatter d (s.vals [a]) bo s)
def execAferry (h : Hdr) (d : SDst) (a b c : SSrc) (bo : BoRef) : State → Host.Outcome State Fault Refusal :=
  performWord (.aferry h d a b c bo) (fun _ s => asyncEff kFerry d (s.vals [a, b, c]) bo s)
def execAcoll (h : Hdr) (d : SDst) (a b : SSrc) (bo : BoRef) : State → Host.Outcome State Fault Refusal :=
  performWord (.acoll h d a b bo) (fun _ s => asyncEff kColl d (s.vals [a, b]) bo s)
def execAstat (h : Hdr) (d : SDst) (a : SSrc) : State → Host.Outcome State Fault Refusal :=
  performWord (.astat h d a) (fun _ s => astatEff d (s.srd a).val s)

end Sys2Proof.Machine
end

