-- ==== Sys2Proof/Machine/Matrix.lean ====
section
/-! DEFINITION. The matrix words (09 R155 to R164). A command has its effect at issue, in program order, and stays in flight
until its completion time (LOG 17). -/

namespace Sys2Proof.Machine

-- timing (R149)

/-- The slice or causeway latency of a core's port (R149, R201): 40 cycles on Isle A, 24 on Isle B. -/
def portDelay (c : Nat) : Nat := if c < 128 then 40 else 24

/-- A command in flight from now on; in bands B2 and above it may be delivered up to `early` cycles sooner. -/
def State.flightOf (s : State) (u : CmdUse) (busy done early : Nat) (flags : FlagSet) (banks : BitVec 2) : Flight :=
  { unit := u.unit, unit2 := u.unit2, busy := s.cyc.toNat + busy, done := s.cyc.toNat + done, posts := 0, pops := 0,
    flags := flags, writes := u.writes, reads := u.reads, banks := banks
    soon := s.cyc.toNat + Nat.max busy (done - early), owing := false, sect := s.curEng.sect, pc := s.curEng.pc
    later := s.after s.cur.1, matrix := true, redo := none }

def noUse : CmdUse := { reads := [], writes := [], unit := .none, unit2 := .none }

/-- What a command reads and writes, by the operands as it issues. -/
def State.useOf (s : State) (i : Instr) : CmdUse := (s.curCore.cmdUse s.curEng i).getD noUse

def layerBank (layer : Nat) : BitVec 2 := if layer == 0 then 1 else 2

-- fetching from a weight bank (R157, 11 R199)

/-- Slice offset of a byte of the active half. -/
def State.bankOff (s : State) (c layer off : Nat) : Nat :=
  (if (s.core c).halves.getLsbD layer then 0x200000 else 0) + off

/-- A run of bytes of the active half: a page that retirement has moved and no service has answered for faults, an
uncorrectable word stops the fetch (R157, 11 R222). -/
inductive Fetched where
  | bytes (bs : List Byte)
  | moved (unit : Nat)
  | bad (off : Nat)

def State.bankKeys (s : State) (c layer off n : Nat) : List Nat :=
  (List.range n).map (fun i => shoalKey c layer (s.bankOff c layer off + i))

/-- A frame in exchange holds bytes of a fetch: it waits (16 R293). -/
def State.bankHeld (s : State) (c layer off n : Nat) : Bool := ((s.bankKeys c layer off n).map s.place).any s.ferried

/-- The wait of a fetch, which leaves everything as it is (18 R324). -/
def bankWait (c layer off n : Nat) (s : State) : Eff :=
  .wait (s.modCur (fun g => { g with wants := linesOf ((s.bankKeys c layer off n).map s.place) })) (s.heldCode ((s.bankKeys c layer off n).map s.place))

def State.fetchBank (s : State) (c layer off n : Nat) : Fetched :=
  let keys := s.bankKeys c layer off n
  match (runs (keys.map (fun k => k / 65536))).find? s.stor.unserved.contains with
  | some u => .moved u
  | none =>
    let home := keys.map s.place
    match (home.zip (List.range n)).find? (fun x => s.badAt x.1 != 0) with
    | some x => .bad ((s.bankOff c layer off + x.2) / 8 * 8)
    | none => .bytes (home.map s.mem.read)

/-- A unit lies in a slice of core `c`. -/
def unitOfSlice (c u : Nat) : Bool := shoalKey c 0 0 ≤ u * 65536 && u * 65536 < shoalKey (c + 1) 0 0

/-- The fault of a stopped fetch: page service, or the storage trap with its slice offset and layer (18 R310). -/
def bankFault (layer : Nat) (s : State) : Fetched → Eff
  | .bytes _ => .done s none 0 .next
  | .moved u =>
    let other := s.stor.asked.filter (fun v => !unitOfSlice s.cur.1 v)
    .fault { s with stor := { s.stor with asked := other ++ [u] } } { fail := fTransl, elem := 0, off := 0 } 0
  | .bad off => .trapAt s cStorage (mkWord [(16, 48, off), (8, 1, layer)])

def bitsOfBytes (n : Nat) (bs : List Byte) : BitVec n := BitVec.ofNat n (leNat bs)

-- the commands

/-- MCFG (R156): a change of WCODE invalidates both planes and empties the scale queue. -/
def mcfgEff (i : Instr) (a : SSrc) (s : State) : Eff :=
  let w := (s.srd a).val
  let k := s.curCore
  let k' := { k with mcfg := w.setWidth 13 }
  let k' := if wcode k'.mcfg == wcode k.mcfg then k'
    else { k' with active := { k.active with valid := false }, preload := { k.preload with valid := false }, scaleQ := [] }
  .flight (s.setCore s.cur.1 k') none (s.flightOf (s.useOf i) 1 1 0 0 0)

/-- The blocks of a tile fetched in order from block `j`, until one fails. -/
def State.loadBlocks (s : State) (c layer off size : Nat) : Nat → Nat → List (BitVec 131072) → List (BitVec 131072) × Option Fetched
  | 0, _, acc => (acc, none)
  | n + 1, j, acc =>
    match s.fetchBank c layer (off + size * j) size with
    | .bytes bs => State.loadBlocks s c layer off size n (j + 1) (acc ++ [bitsOfBytes 131072 bs])
    | f => (acc, some f)

/-- MLDW (R157): a restarted command goes on from block mkp. -/
def mldwEff (i : Instr) (a : SSrc) (again : Bool) (s : State) : Eff :=
  let c := s.cur.1
  let k := s.curCore
  let w := (s.srd a).val
  let wc := wcode k.mcfg
  let layer := bitsOf w 32 1
  let first := if again then k.mkp.toNat else 0
  let scales := if again || !mIsMx wc then k.preload.scales else k.scaleQ.headD 0
  let queue := if again || !mIsMx wc then k.scaleQ else k.scaleQ.drop 1
  let held := if again then k.preload.blocks.take first else []
  let left := (mBlocks wc - first) * mBlockBytes wc
  let from_ := bitsOf w 0 22 + mBlockBytes wc * first
  if s.bankHeld c layer from_ left then bankWait c layer from_ left s
  else
  let (blocks, stop) := s.loadBlocks c layer (bitsOf w 0 22) (mBlockBytes wc) (mBlocks wc - first) first held
  let plane : Plane := { blocks := blocks, scales := scales, wcode := BitVec.ofNat 3 wc, valid := stop.isNone }
  let t := s.setCore c { k with preload := plane, scaleQ := queue, mkp := BitVec.ofNat 16 blocks.length }
  match stop with
  | some f => bankFault layer t f
  | none =>
    let busy := ceilDiv ((mBlocks wc - first) * mBlockBytes wc) 500
    .flight t none (s.flightOf (s.useOf i) busy (busy + portDelay c) (portDelay c) 0 (layerBank layer))

/-- MLDS (R158): a fault pushes nothing and leaves mkp at 0. -/
def mldsEff (i : Instr) (a : SSrc) (s : State) : Eff :=
  let c := s.cur.1
  let k := s.curCore
  let w := (s.srd a).val
  let layer := bitsOf w 32 1
  let n := mBlocks (wcode k.mcfg) * 256
  if s.bankHeld c layer (bitsOf w 0 22) n then bankWait c layer (bitsOf w 0 22) n s
  else
  match s.fetchBank c layer (bitsOf w 0 22) n with
  | .bytes bs =>
    let busy := ceilDiv n 500
    .flight (s.setCore c { k with scaleQ := k.scaleQ ++ [bitsOfBytes 32768 bs], mkp := 0 }) none
      (s.flightOf (s.useOf i) busy (busy + portDelay c) (portDelay c) 0 (layerBank layer))
  | f => bankFault layer (s.setCore c { k with mkp := 0 }) f

/-- MSWP (R159). -/
def mswpEff (i : Instr) (s : State) : Eff :=
  .flight (s.modCore s.cur.1 (fun k => { k with active := k.preload, preload := k.active })) none
    (s.flightOf (s.useOf i) 1 1 0 0 0)

-- MMA (R160)

/-- Byte `n` of the run of registers that starts at `first`. -/
def runByte (v : Store VVal) (first n : Nat) : Nat := (v.get (first + n / 1024) VVal.zero).data.toNat / 2 ^ (8 * (n % 1024)) % 256

/-- One k-block applied to rows `i` onward, the registers being those of `v`: `fresh` rows start from +0. -/
def mmaRows (v : Store VVal) (ac wc bank row0 areg creg blk : Nat) (data : Nat) (scales : Nat) (fresh : Bool) :
    Nat → Nat → Core → FlagSet → Core × FlagSet
  | 0, _, k, fl => (k, fl)
  | n + 1, i, k, fl =>
    let rho := mRho ac wc
    let bit := i % rho * rowBytes ac wc * 8
    let as := rowBlock ac (v.get (areg + i / rho) VVal.zero).data.toNat bit blk
    let ea := if ac == 5 then runByte v creg (i * mBlocks wc + blk) else 127
    let ebs := if mIsMx wc then fields 8 256 (scales / 2 ^ (2048 * blk)) else List.replicate 256 127
    let key := 256 * bank + row0 + i
    let cs := if fresh then List.replicate 256 0 else fields 32 256 (k.acc.get key 0).toNat
    let (r, f) := mmaRow wc as data ea ebs cs 256
    mmaRows v ac wc bank row0 areg creg blk data scales fresh n (i + 1)
      { k with acc := k.acc.put key (BitVec.ofNat 8192 (packFields 32 r)) } (fl ||| f)

/-- Non-MX operands on both sides leave no scale (R40, R147): the scale code 127 of both adds nothing. -/
def mmaBlock (v : Store VVal) (k : Core) (bank : Nat) (b : Word) (areg creg blk : Nat) (data scales : Nat) (fl : FlagSet) : Core × FlagSet :=
  mmaRows v (acode k.mcfg) (wcode k.mcfg) bank (mmaRow0 b) areg creg blk data scales (blk == 0 && mmaZero b) (mmaN b) 0 k fl

/-- A stationary MMA: every block of the active plane. -/
def mmaPlane (v : Store VVal) (bank : Nat) (b : Word) (areg creg : Nat) : Nat → Nat → Core → FlagSet → Core × FlagSet
  | 0, _, k, fl => (k, fl)
  | n + 1, blk, k, fl =>
    let (k, fl) := mmaBlock v k bank b areg creg blk (k.active.blocks.getD blk 0).toNat k.active.scales.toNat fl
    mmaPlane v bank b areg creg n (blk + 1) k fl

/-- A streamed MMA: blocks fetched from the bank, mkp counting those applied. -/
def mmaStream (s : State) (v : Store VVal) (c bank : Nat) (b : Word) (areg creg scales : Nat) :
    Nat → Nat → Core → FlagSet → Core × FlagSet × Option Fetched
  | 0, _, k, fl => (k, fl, none)
  | n + 1, blk, k, fl =>
    let size := mBlockBytes (wcode k.mcfg)
    match s.fetchBank c (mmaLayer b) (mmaOff b + size * blk) size with
    | .bytes bs =>
      let (k, fl) := mmaBlock v k bank b areg creg blk (leNat bs) scales fl
      mmaStream s v c bank b areg creg scales n (blk + 1) { k with mkp := BitVec.ofNat 16 (blk + 1) } fl
    | f => (k, fl, some f)

/-- The registers of the runs that an MMA reads (R147). -/
def mmaRegs (ac wc n areg creg : Nat) : List Nat :=
  (List.range (actRegs ac wc n)).map (fun i => areg + i) ++
    (if ac == 5 then (List.range (scaleRegs wc n)).map (fun i => creg + i) else [])

/-- What an MMA may still read (R160): its operand registers as `v` holds them, and its rows before it. -/
def Core.redoOf (k : Core) (v : Store VVal) (bank : Nat) (w : Word) (areg creg first : Nat) : Redo :=
  { bank := bank, word := w, areg := areg, creg := creg, first := first
    v := (mmaRegs (acode k.mcfg) (wcode k.mcfg) (mmaN w) areg creg).foldl (fun m r => m.put r (v.get r VVal.zero)) []
    rows := (List.range (mmaN w)).foldl (fun m i =>
      m.put (256 * bank + mmaRow0 w + i) (k.acc.get (256 * bank + mmaRow0 w + i) 0)) [] }

/-- MMA. A streamed command with MX weights takes the head of the scale queue as it issues; a restart goes on with it. -/
def mmaEff (i : Instr) (bank areg : Nat) (b : SSrc) (creg : Nat) (again : Bool) (s : State) : Eff :=
  let c := s.cur.1
  let k := s.curCore
  let w := (s.srd b).val
  let wc := wcode k.mcfg
  let rows := mmaN w * (if mBits (acode k.mcfg) == 16 then 2 else 1)
  let redo (first : Nat) : Redo := k.redoOf s.seenCore.v bank w areg creg first
  if mmaStrm w then
    let first := if again then k.mkp.toNat else 0
    let left := (mBlocks wc - first) * mBlockBytes wc
    let from_ := mmaOff w + mBlockBytes wc * first
    if s.bankHeld c (mmaLayer w) from_ left then bankWait c (mmaLayer w) from_ left s
    else
    let k := { k with mkp := BitVec.ofNat 16 first }
    let k := if again || !mIsMx wc then k else { k with popped := k.scaleQ.headD 0, scaleQ := k.scaleQ.drop 1 }
    let (k', fl, stop) := mmaStream s s.seenCore.v c bank w areg creg k.popped.toNat (mBlocks wc - first) first k 0
    match stop with
    | some f => bankFault (mmaLayer w) ((s.setCore c k').modCur (fun g => { g with csr := { g.csr with fflags := g.csr.fflags ||| fl } })) f
    | none =>
      let fetch := ceilDiv ((mBlocks wc - first) * mBlockBytes wc) 500
      let busy := Nat.max (fetch + portDelay c) rows
      .flight (s.setCore c k') none
        { s.flightOf (s.useOf i) busy (busy + 36) (busy - Nat.max fetch rows) fl (layerBank (mmaLayer w)) with redo := some (redo first) }
  else
    let (k', fl) := mmaPlane s.seenCore.v bank w areg creg (mBlocks wc) 0 k 0
    .flight (s.setCore c k') none { s.flightOf (s.useOf i) rows (rows + 36) 0 fl 0 with redo := some (redo 0) }

/-- The rows that an MMA in flight leaves, and its flags, when it reads its registers as `x` has them; the blocks of a streamed one are
fetched as they stand. -/
def State.redone (s : State) (c : Nat) (x : Redo) : Option (Core × FlagSet) :=
  let k := s.core c
  let k := { k with acc := x.rows.foldl (fun a r => a.put r.1 r.2) k.acc }
  let n := mBlocks (wcode k.mcfg)
  if mmaStrm x.word then
    match mmaStream s x.v c x.bank x.word x.areg x.creg k.popped.toNat (n - x.first) x.first k 0 with
    | (k, fl, none) => some (k, fl)
    | _ => none
  else some (mmaPlane x.v x.bank x.word x.areg x.creg n 0 k 0)

/-- The accumulator rows `rows` of `a`, taken from `b`. -/
def takeRows (rows : List Nat) (a b : Store VBits) : Store VBits := rows.foldl (fun m r => m.put r (b.get r 0)) a

/-- An MMA reads its A and C registers during its array interval (R160): until it ends, it may read lanes of one of them as they stand
now, written by a word unordered with it (06 R95), a poisoned lane as data 0 (R155). A register that a later command of M writes is
read as it stood before (R148). -/
def State.reread (s : State) (c reg : Nat) (mask : BitVec 256) : State :=
  let k := s.core c
  let due (f : Flight) : Bool := decide (s.cyc.toNat < f.busy) && ((f.redo.map (fun x => x.v.has reg)).getD false)
  match k.flight.findIdx? due with
  | none => s
  | some j =>
    match k.flight[j]?.bind Flight.redo with
    | none => s
    | some x =>
      if (k.flight.drop (j + 1)).any (fun f => f.writes.contains (16 + reg)) then s else
      let now := k.vreg reg
      let lanes := (List.range 256).map (fun i => now.poison.getLsbD i)
      let x := { x with v := x.v.put reg { (x.v.get reg VVal.zero).merge (now.zeroLanes lanes) mask with poison := 0, cause := 0 } }
      match s.redone c x with
      | none => s
      | some (k', fl) =>
        let rows := x.rows.map (fun r => r.1)
        s.modCore c (fun k => { k with
          acc := takeRows rows k.acc k'.acc
          flight := k.flight.zipIdx.map (fun (f, i) =>
            if i < j then f
            else
              let f := { f with later := { f.later with acc := takeRows rows f.later.acc k'.acc } }
              if i == j then { f with flags := fl, redo := some x } else f) })

/-- MZA (R161): an unlisted accumulator row is +0. -/
def mzaEff (i : Instr) (bank : Nat) (s : State) : Eff :=
  .flight (s.modCore s.cur.1 (fun k => { k with acc := k.acc.filter (fun x => x.1 / 256 != bank) })) none
    (s.flightOf (s.useOf i) 64 64 0 0 0)

-- MDRN (R162)

/-- A drained row put into its register: whole for FP32, else its half; poison of the lanes written is cleared. -/
def drainPut (dt i : Nat) (old : VVal) (row : Nat) : VVal :=
  if dt == 0 then VVal.clean (BitVec.ofNat 8192 row)
  else
    let sh := 4096 * (i % 2)
    let keep := old.data &&& ~~~(BitVec.ofNat 8192 ((2 ^ 4096 - 1) * 2 ^ sh))
    let pz := old.poison &&& ~~~(BitVec.ofNat 256 ((2 ^ 128 - 1) * 2 ^ (128 * (i % 2))))
    { data := keep ||| BitVec.ofNat 8192 (row * 2 ^ sh), poison := pz, cause := if pz == 0 then 0 else old.cause }

def drainRows (bank row0 vd : Nat) (clear : Bool) : Nat → Nat → Core → FlagSet → Core × FlagSet
  | 0, _, k, fl => (k, fl)
  | n + 1, i, k, fl =>
    let dt := dtype k.mcfg
    let key := 256 * bank + row0 + i
    let (row, f) := drainRow dt (dmode k.mcfg) (dsat k.mcfg) (k.acc.get key 0).toNat
    let r := vd + (if dt == 0 then i else i / 2)
    let k := k.setV r (drainPut dt i (k.vreg r) row)
    let k := if clear then { k with acc := k.acc.put key 0 } else k
    drainRows bank row0 vd clear n (i + 1) k (fl ||| f)

def mdrnEff (i : Instr) (bank vd : Nat) (b : SSrc) (s : State) : Eff :=
  let w := (s.srd b).val
  let n := mmaN w
  let (k, fl) := drainRows bank (mmaRow0 w) vd (mmaZero w) n 0 s.curCore 0
  .flight (s.setCore s.cur.1 k) (some (.vec (k.vreg vd))) (s.flightOf (s.useOf i) n (n + 8) 0 fl 0)

/-- MKPR (R163). -/
def mkprEff (i : Instr) (d : SDst) (s : State) : Eff :=
  let v := SVal.clean (s.curCore.mkp.setWidth 64)
  .flight (s.swr d v) (some (.sc v)) (s.flightOf (s.useOf i) 1 1 0 0 0)

/-- MBSWP (R164): bit 0 exchanges the halves of S0, bit 1 those of S1. -/
def mbswpEff (i : Instr) (a : SSrc) (s : State) : Eff :=
  .flight (s.modCore s.cur.1 (fun k => { k with halves := k.halves ^^^ (s.srd a).val.setWidth 2 })) none
    (s.flightOf (s.useOf i) 1 1 0 0 0)

-- the words

def execMcfg (h : Hdr) (a : SSrc) (st : BitVec 24) : State → Host.Outcome State Fault Refusal :=
  performWord (.mcfg h a st) (fun _ => mcfgEff (.mcfg h a st) a)
def execMldw (h : Hdr) (a : SSrc) (st : BitVec 24) : State → Host.Outcome State Fault Refusal :=
  performWord (.mldw h a st) (fun g => mldwEff (.mldw h a st) a g.again)
def execMswp (h : Hdr) (st : BitVec 24) : State → Host.Outcome State Fault Refusal :=
  performWord (.mswp h st) (fun _ => mswpEff (.mswp h st))
def execMlds (h : Hdr) (a : SSrc) (st : BitVec 24) : State → Host.Outcome State Fault Refusal :=
  performWord (.mlds h a st) (fun _ => mldsEff (.mlds h a st) a)
def execMma (h : Hdr) (k : BitVec 2) (a : Fin 768) (b : SSrc) (c : BitVec 10) (st : BitVec 24) :
    State → Host.Outcome State Fault Refusal :=
  performWord (.mma h k a b c st) (fun g => mmaEff (.mma h k a b c st) k.toNat a.val b c.toNat g.again)
def execMza (h : Hdr) (k : BitVec 2) (st : BitVec 24) : State → Host.Outcome State Fault Refusal :=
  performWord (.mza h k st) (fun _ => mzaEff (.mza h k st) k.toNat)
def execMdrn (h : Hdr) (k : BitVec 2) (d : Fin 768) (b : SSrc) (st : BitVec 24) :
    State → Host.Outcome State Fault Refusal :=
  performWord (.mdrn h k d b st) (fun _ => mdrnEff (.mdrn h k d b st) k.toNat d.val b)
def execMkpr (h : Hdr) (d : SDst) (st : BitVec 24) : State → Host.Outcome State Fault Refusal :=
  performWord (.mkpr h d st) (fun _ => mkprEff (.mkpr h d st) d)
def execMbswp (h : Hdr) (a : SSrc) (st : BitVec 24) : State → Host.Outcome State Fault Refusal :=
  performWord (.mbswp h a st) (fun _ => mbswpEff (.mbswp h a st) a)

end Sys2Proof.Machine
end

