-- ==== Sys2Proof/Machine/Memory.lean ====
section
/-! DEFINITION. The memory and synchronisation words (04 R66, 12 R227 to R242, 10 R168, 13 R256). -/

namespace Sys2Proof.Machine

def pow2 (sz : BitVec 2) : Nat := 2 ^ sz.toNat

def rForm (need : Need) (es : Nat) : Form := { need := need, es := es, align := es }

-- scalar loads and stores (R66, R227)

/-- A scalar result of a load. -/
def loadedScalar (d : SDst) (v : SVal) (s : State) : Eff := .done (s.swr d v) (some (.sc v)) 0 .next

def ldsEff (sz : BitVec 2) (sx sp : Bool) (d : SDst) (m : MemOp) (s : State) : Eff :=
  match (if sp then s.addrPoison [] m else none) with
  | some p => loadedScalar d (.bad p.cause) s
  | none =>
    let (buf, off) := s.memRef m (pow2 sz)
    s.loadEff sp m.ord buf (rForm .read (pow2 sz)) [off] (fun es s => loadedScalar d (scalarOf sx es.flatten) s)

/-- The bytes of a store with a whole mask. -/
def wholeBytes (ps : List Place) (bs : List Byte) : List (Place × Byte × Byte) :=
  (ps.zip bs).map (fun x => (x.1, x.2, (0xFF : Byte)))


def stsEff (sz : BitVec 2) (a : SSrc) (m : MemOp) (s : State) : Eff :=
  let (buf, off) := s.memRef m (pow2 sz)
  let v := (s.srd a).val
  s.memEff m.ord buf (rForm .write (pow2 sz)) [off] false (fun ps s =>
    .done (s.storePlaces s.cur.1 s.curKid (2 * pow2 sz) (wholeBytes ps.flatten (leBytes (pow2 sz) v.toNat)) (pinsLine m.ord)) none 0 .next)

-- CLD (R228, R229)

/-- A line of a quad's read-only cache, as it reads under a key generation. -/
def roKey (quad kid line : Nat) : Nat := (kid * 64 + quad) * 2 ^ 52 + line

/-- The value of a line at its home. -/
def State.homeLine (s : State) (kid line : Nat) : BitVec 1024 := s.lineBits kid line

/-- Fill a line of the read-only cache; the lowest-numbered of 2,048 makes room (LOG 15). -/
def State.roFill (s : State) (quad kid line : Nat) : State :=
  if s.stor.roCache.has (roKey quad kid line) then s
  else
    let s := s.reach [line]
    let mine := s.stor.roCache.filter (fun x => x.1 / 2 ^ 52 % 64 == quad)
    let ro := if mine.length ≥ 2048 then (match mine with
        | x :: _ => s.stor.roCache.del x.1
        | [] => s.stor.roCache) else s.stor.roCache
    { s with stor := { s.stor with roCache := ro.put (roKey quad kid line) (s.homeLine kid line) } }

/-- The value a line holds now is one that a later CLD of the quad may return (R258). -/
def State.roSnap (s : State) (quad kid line : Nat) : State :=
  if (isDram (128 * line) || isOutside (128 * line) 128) && decide (quad < 64) then
    let old := s.stor.roOld.get (roKey quad kid line) []
    { s with stor := { s.stor with roOld := s.stor.roOld.put (roKey quad kid line) (s.homeLine kid line :: old) } }
  else s

/-- A line as the accesses through views of `view`-nibble elements find it. -/
def mixKey (quad kid line view : Nat) : Nat := roKey quad kid line * 16 + view

/-- The bits of a line in the units of `g` nibbles whose first nibble `mask` names. -/
def unitBits (g : Nat) (mask : Nibs) : BitVec 1024 :=
  BitVec.ofNat 1024 (packFields 4 ((List.range 256).map (fun i => if mask.getLsbD (i / g * g) then 15 else 0)))

/-- The read-only cache of a quad serves value `n` of those in the units that `mask` names: 8-byte words, or through a view its
elements (R246). -/
def State.roServe (s : State) (quad kid line n view : Nat) (mask : Nibs) : State :=
  match (s.stor.roOld.get (roKey quad kid line) [])[n]? with
  | none => s
  | some l =>
    let cur := s.stor.roCache.get (roKey quad kid line) (s.homeLine kid line)
    if view == 0 then
      let m := unitBits 16 mask
      { s with stor := { s.stor with roCache := s.stor.roCache.put (roKey quad kid line) ((cur &&& ~~~m) ||| (l &&& m)) } }
    else if view < 16 then
      let m := unitBits view mask
      let cur := s.stor.roMix.get (mixKey quad kid line view) cur
      { s with stor := { s.stor with roMix := s.stor.roMix.put (mixKey quad kid line view) ((cur &&& ~~~m) ||| (l &&& m)) } }
    else s

def State.roByte (s : State) (quad kid view key : Nat) : Byte :=
  match (match s.stor.roMix.find? (mixKey quad kid (lineOf key) view) with
    | some l => some l
    | none => s.stor.roCache.find? (roKey quad kid (lineOf key))) with
  | some l => l.extractLsb' (8 * (key % 128)) 8
  | none => s.plain kid key

/-- One byte of a CLD on the read-only path. -/
def State.roPlace (s : State) (quad kid : Nat) (p : Place) : Byte × BitVec 4 :=
  let bad := if s.badAt (p.lo / 2) != 0 then s.badAt (p.lo / 2) else s.badAt (p.hi / 2)
  if p.whole then (s.roByte quad kid p.at_.view p.key, bad)
  else
    let nib (n : Nat) : Nat := (s.roByte quad kid p.at_.view (n / 2)).toNat / 16 ^ (n % 2) % 16
    (BitVec.ofNat 8 (nib p.lo + 16 * nib p.hi), bad)

/-- Why a CLD on the read-only path waits: for a line that its cache lacks. -/
def State.roBlocked (s : State) (c kid : Nat) (ps : List Place) : Option (BitVec 8) :=
  s.keysBlocked c ((ps.flatMap Place.keys).filter (fun k => !s.stor.roCache.has (roKey (c / 4) kid (lineOf k))))

/-- A CLD whose bytes lie in a recorded range takes the coherent path (R229). -/
def Core.coherent (k : Core) (ps : List Place) : Bool :=
  k.fsat || ps.any (fun p => p.kind == .loc || p.kind == .shoal || p.spots.any (fun x => k.filter.contains (x.2.va / 4096)))

def cldEff (sz : BitVec 2) (sx : Bool) (d : SDst) (m : MemOp) (s : State) : Eff :=
  let (buf, off) := s.memRef m (pow2 sz)
  s.checkedEff buf (rForm .const (pow2 sz)) [off] (fun es s =>
    let c := s.cur.1
    let ps := es.flatten
    let kid := s.curKid
    if s.curCore.coherent ps then
      s.orderedEff .none false false ps (fun s =>
        let s := s.prepare c kid ps
        loadedScalar d (scalarOf sx (ps.map (s.loadByte c kid))) (s.afterLoad c ps))
    else
      s.heldEff (s.roBlocked c kid ps) ps (fun s =>
        let lines := (linesOf (ps.flatMap Place.keys)).filter (fun l => isDram (128 * l))
        let s := lines.foldl (fun s l => s.roFill (c / 4) kid l) s
        let s := s.reach ((linesOf (ps.map Place.key)).filter (fun l => !isDram (128 * l)))
        loadedScalar d (scalarOf sx (ps.map (s.roPlace (c / 4) kid))) s))

-- vector loads and stores (R230 to R232)

def pieces16 (off : Int) : List Int := (List.range 16).map (fun j => off + (64 * j : Nat))
def strided (off stride : Int) (n : Nat) : List Int := (List.range n).map (fun (i : Nat) => off + (i : Int) * stride)
/-- Signed 32-bit index lanes times the element size. -/
def indexed (off : Int) (es : Nat) (ix : List El) : List Int := ix.map (fun x => off + readInt true 32 x.bits * es)

def loadedVec (d : VDst) (v : VVal) (s : State) : Eff := .done (s.vwr d v) (some (.vec v)) 0 .next

def padBytes (bs : List (Byte × BitVec 4)) : List (Byte × BitVec 4) := bs ++ List.replicate (1024 - bs.length) (0, 0)

def pieceForm (need : Need) (nibble : Bool) : Form := { need := need, es := 64, align := 64, nibble := nibble }

def vldEff (sp : Bool) (d : VDst) (m : MemOp) (s : State) : Eff :=
  match (if sp then s.addrPoison [] m else none) with
  | some p => loadedVec d (vecBad p.cause) s
  | none =>
    let (buf, off) := s.memRef m 64
    s.loadEff sp m.ord buf (pieceForm .read false) (pieces16 off) (fun es s => loadedVec d (vecOf es.flatten) s)

def vldsEff (sz : BitVec 2) (sp : Bool) (d : VDst) (a : SSrc) (m : MemOp) (s : State) : Eff :=
  match (if sp then s.addrPoison [s.srd a] m else none) with
  | some p => loadedVec d (vecBad p.cause) s
  | none =>
    let (buf, off) := s.memRef m 64
    s.loadEff sp m.ord buf (rForm .read (pow2 sz)) (strided off (s.srd a).val.toInt (1024 / pow2 sz))
      (fun es s => loadedVec d (vecOf es.flatten) s)

/-- Whether lane `i` holds an element whose index is poisoned. -/
def badIndexLane (sz : BitVec 2) (ix : List El) (i : Nat) : Bool :=
  let per := Nat.max 1 (4 / pow2 sz)
  if sz == 3 then ((ix[i / 2]?).map El.bad).getD false
  else ((ix.drop (per * i)).take per).any El.bad

/-- The elements whose index is not poisoned are loaded; the others have no address (R101). A poisoned buffer or offset register leaves
the bytes behind the elements 0 and clean (R231); the cause is that of the lowest lane, where the index vector comes first (06 R102). -/
def vldxEff (sz : BitVec 2) (sp : Bool) (d : VDst) (a : VSrc) (m : MemOp) (s : State) : Eff :=
  match (if sp then s.addrPoison [] m else none) with
  | some p =>
    let v := s.vrd a
    let cause := if badIndexLane sz ((v.els 32).take (idxCount sz)) 0 then v.cause else p.cause
    loadedVec d { data := 0, poison := BitVec.ofNat 256 (2 ^ (idxCount sz * pow2 sz / 4) - 1), cause := cause } s
  | none =>
    let (buf, off) := s.memRef m 64
    let v := s.vrd a
    let ix := (v.els 32).take (idxCount sz)
    let good := ix.filter (fun x => !x.bad)
    s.loadEff sp m.ord buf (rForm .read (pow2 sz)) (indexed off (pow2 sz) good) (fun es s =>
      loadedVec d ((vecOf (padBytes (spread ix es v.cause).flatten)).zeroLanes ((List.range 256).map (badIndexLane sz ix))) s)
where
  spread : List El → List (List (Byte × BitVec 4)) → BitVec 4 → List (List (Byte × BitVec 4))
    | [], _, _ => []
    | x :: xs, bs, c =>
      if x.bad then List.replicate (pow2 sz) (0, c) :: spread xs bs c
      else match bs with
        | b :: rest => b :: spread xs rest c
        | [] => []

def vldbEff (sz : BitVec 2) (sp : Bool) (d : VDst) (m : MemOp) (s : State) : Eff :=
  match (if sp then s.addrPoison [] m else none) with
  | some p => loadedVec d (vecBad p.cause) s
  | none =>
    let (buf, off) := s.memRef m 64
    s.loadEff sp m.ord buf (rForm .read (pow2 sz)) [off] (fun es s =>
      loadedVec d (vecOf (List.replicate (1024 / pow2 sz) es.flatten).flatten) s)

/-- The data bytes of a vector register. -/
def vecBytes (v : VVal) : List Byte := (fields 8 1024 v.data.toNat).map (BitVec.ofNat 8)

/-- `grain` is the number of nibbles in a unit of the store (13 R246). -/
def vstoreEff (s : State) (o : Order) (buf : Nat) (f : Form) (grain : Nat) (offs : List Int) (bs : List Byte) : Eff :=
  s.memEff o buf f offs false (fun ps s =>
    .done (s.storePlaces s.cur.1 s.curKid grain (wholeBytes ps.flatten bs) (pinsLine o)) none 0 .next)

def vstEff (a : VSrc) (m : MemOp) (s : State) : Eff :=
  let (buf, off) := s.memRef m 64
  vstoreEff s m.ord buf (pieceForm .write false) 16 (pieces16 off) (vecBytes (s.vrd a))
def vstsEff (sz : BitVec 2) (a : VSrc) (d : SSrc) (m : MemOp) (s : State) : Eff :=
  let (buf, off) := s.memRef m 64
  vstoreEff s m.ord buf (rForm .write (pow2 sz)) (2 * pow2 sz) (strided off (s.srd d).val.toInt (1024 / pow2 sz)) (vecBytes (s.vrd a))
def vstxEff (sz : BitVec 2) (a d : VSrc) (m : MemOp) (s : State) : Eff :=
  let (buf, off) := s.memRef m 64
  vstoreEff s m.ord buf (rForm .write (pow2 sz)) (2 * pow2 sz) (indexed off (pow2 sz) (((s.vrd d).els 32).take (idxCount sz)))
    ((vecBytes (s.vrd a)).take (idxCount sz * pow2 sz))

/-- The byte masks of VSTN: bit k of vD selects nibble k (R232). -/
def nibMasks (v : VVal) : List Byte :=
  (fields 2 1024 v.data.toNat).map (fun b => (if b % 2 == 1 then 0x0F else 0) ||| (if b / 2 == 1 then 0xF0 else 0))

def vstnEff (a d : VSrc) (m : MemOp) (s : State) : Eff :=
  let (buf, off) := s.memRef m 64
  let bs := vecBytes (s.vrd a)
  let ms := nibMasks (s.vrd d)
  s.memEff m.ord buf (pieceForm .write true) (pieces16 off) false (fun ps s =>
    .done (s.storePlaces s.cur.1 s.curKid 1 ((ps.flatten.zip (bs.zip ms)).map (fun x => (x.1, x.2.1, x.2.2))) (pinsLine m.ord))
      none 0 .next)

-- atomics (R233 to R238)

def atomForm (host : Bool) (es : Nat) : Form := { need := .atomic host, es := es, align := es, atom := true }

/-- The AtomicOps that reach host memory (R237). -/
def amoHost (op : AmoOp) (sz : BitVec 2) : Bool := (op == .add || op == .swap) && (sz == 2 || sz == 3)

/-- D = s0 makes an atomic non-returning (R233, R234). -/
def SDst.silent : SDst → Bool
  | .s n => n.val == 0
  | .z => false

/-- The current engine's word as the giver of a reduction that returns nothing. -/
def State.giver (s : State) (buf off : Nat) : Giver :=
  let i := s.taskEv s.cur.1 { kind := 6 }
  { core := s.cur.1, eng := engIdx s.cur.2, ctx := i.ctx, lrec := i.lrec, tile := i.tile, slot := i.slot, pc := s.curEng.pc.toNat,
    buf := buf, off := off }

/-- What an atomic leaves in sD, or the event of a silent one (R238). -/
def atomicDone (s : State) (d : SDst) (buf : Nat) (off : Int) (r : Except (BitVec 4) SVal) : Eff :=
  match r with
  | .ok v => if SDst.silent d then .done s (some (.sc SVal.zero)) 0 .next else loadedScalar d v s
  | .error c =>
    if SDst.silent d then
      .done (s.memErr (s.taskEv s.cur.1 { kind := 6, eng := engIdx s.cur.2, pc := s.curEng.pc.toNat }) buf off.toNat)
        (some (.sc SVal.zero)) 0 .next
    else loadedScalar d (.bad c) s

def amoEff (op : AmoOp) (sz : BitVec 2) (d : SDst) (a : SSrc) (m : MemOp) (s : State) : Eff :=
  let (buf, off) := s.memRef m (pow2 sz)
  let x := (s.srd a).val
  s.memEff m.ord buf (atomForm (amoHost op sz) (pow2 sz)) [off] true (fun ps s =>
    let s := s.noteAtomic ps.flatten
    let (s, r) := s.atomic s.cur.1 s.curKid (keyOf ps) op (amoTy op sz) x (if SDst.silent d then some (s.giver buf off.toNat) else none)
    atomicDone s d buf off (r.map (fun old =>
      SVal.clean (BitVec.ofInt 64 (readInt (op == .min || op == .max) (8 * pow2 sz) old)))))

def casEff (sz : BitVec 2) (d : SDst) (a : SSrc) (m : MemOp) (s : State) : Eff :=
  let (buf, off) := s.memRef m (pow2 sz)
  let x := (s.srd a).val
  let expect := (s.sold d).val
  s.memEff m.ord buf (atomForm (sz == 2 || sz == 3) (pow2 sz)) [off] true (fun ps s =>
    let s := s.noteAtomic ps.flatten
    let (s, r) := s.compareSwap s.cur.1 s.curKid (keyOf ps) (pow2 sz) expect.toNat x.toNat
    atomicDone s d buf off (r.map (fun old => SVal.clean (BitVec.ofNat 64 old))))

/-- The elements of AMOV in element order (R235): each an independent atomic, with an event where its storage is bad. -/
def State.amovRun (s : State) (op : AmoOp) (t : Ty) (buf : Nat) (off : Int) (es : Nat) :
    Nat → List Nat → List (List Place) → State
  | i, x :: xs, ps :: rest =>
    let (s, r) := s.atomic s.cur.1 s.curKid (keyOf [ps]) op t (BitVec.ofNat 64 x) (some (s.giver buf (off + (es * i : Nat)).toNat))
    let s := match r with
      | .ok _ => s
      | .error _ => s.memErr (s.taskEv s.cur.1 { kind := 6, eng := engIdx s.cur.2, pc := s.curEng.pc.toNat }) buf
          (off + (es * i : Nat)).toNat
    State.amovRun s op t buf off es (i + 1) xs rest
  | _, _, _ => s

def amovEff (op : AmoOp) (t : Ty) (a : VSrc) (m : MemOp) (s : State) : Eff :=
  let (buf, off) := s.memRef m 0
  let es := t.width / 8
  let xs := ((s.vrd a).els t.width).map El.bits
  s.memEff m.ord buf (atomForm false es) (strided off es (1024 / es)) true (fun ps s =>
    .done ((s.noteAtomic ps.flatten).amovRun op t buf off es 0 xs ps) none 0 .next)

-- fences (R239) and BARR (10 R168)

/-- How far a fence over the layers of a mask reaches: only layer H has observers beyond the core (13 R244). -/
def fenceRank (sc : Scope) (mask : BitVec 4) : Nat := if mask.getLsbD 3 then scopeRank sc else 0

/-- A fence over the layers of a mask: the earlier accesses are performed at its scope, and later ones follow them (R239, 13 R248,
R251, R255, R256). The scratchpad keeps program order. -/
def fenceEff (sc : Scope) (mask : BitVec 4) (s : State) : Eff :=
  if mask &&& 0xE == 0 then .done s none 0 .next
  else
    let r := fenceRank sc mask
    let s := s.releaseAt s.cur.1 s.cur.2 r mask
    if s.released s.cur.1 r mask then .done (s.fenced s.cur.1 s.cur.2 r mask) none 0 .next
    else .wait (s.modCur (fun x => { x with inside := some .fence })) rFence

def barrEff (lv : Level) (s : State) : Eff :=
  match s.curEng.arrived with
  | some (_, 0) => .done ((s.syncAhead s.cur.1 s.cur.2).modCur (fun x => { x with arrived := none })) none 0 .next
  | some _ => .wait (s.modCur (fun x => { x with inside := some (.barr lv) })) rBarrier
  | none => .wait (s.modCur (fun x => { x with inside := some (.barr lv), arrived := some (levelRank lv, s.cyc.toNat + 1) })) rBarrier

-- barrier objects (R242)

def boWordEff (a : SSrc) (m : MemOp) (f : Nat → BoVal → BoVal) (s : State) : Eff :=
  let (buf, off) := s.memRef m 16
  let x := (s.srd a).val
  s.memEff m.ord buf (boForm (.atomic false)) [off] true (fun ps s =>
    let s := (s.noteAtomic ps.flatten).toHome s.cur.1 (lineOf (keyOf ps))
    let key := keyOf ps
    let s := match Order.releases m.ord with
      | some sc =>
        let s := s.reach [lineOf key]
        s.creditAllAhead key (s.boAt s.curKid key).flips (fun d => nearness s.cur.1 d ≤ roleRank sc ps.flatten)
      | none => s
    .done (s.boOp s.curKid key (s.taskEv s.cur.1 { kind := 6, eng := engIdx s.cur.2, pc := s.curEng.pc.toNat }) buf
      off.toNat (f (bitsOf x 0 48))) none 0 .next)

/-- BOWAIT reads the object at its home; while its storage is bad its phase never differs, and that is reported when it is first read
(R387). One that acquires synchronises with the credits of the phase alone (13 R260): its core's clean lines go when the phase has
flipped (13 R255). -/
def bowaitEff (d : SDst) (a : SSrc) (m : MemOp) (s : State) : Eff :=
  let (buf, off) := s.memRef m 16
  let left := bitsOf (s.srd a).val 0 1
  s.memEff .none buf (boForm .read) [off] true (fun ps s =>
    let key := keyOf ps
    let s := (s.toHome s.cur.1 (lineOf key)).reach [lineOf key]
    let noted := s.curEng.inside == some (.bowait true)
    let stay (s : State) (bad : Bool) : Eff := .wait (s.modCur (fun x => { x with inside := some (.bowait (bad || noted)) })) rBo
    if s.boBad key then
      stay (if noted then s
        else s.memErr (s.taskEv s.cur.1 { kind := 6, eng := engIdx s.cur.2, pc := s.curEng.pc.toNat }) buf off.toNat) true
    else if (s.boAt s.curKid key).phase != left then
      let s := match Order.acquires m.ord with
        | some sc =>
          (s.acquireL1 s.cur.1 (roleRank sc ps.flatten)).flipAhead s.cur.1 s.cur.2 key (s.boAt s.curKid key).flips
        | none => s
      let s := s.afterStore s.cur.1 s.cur.2 ps.flatten
      loadedScalar d (.clean (leWord ((List.range 8).map (fun i => s.plain s.curKid (key + i))))) s
    else stay s false)

-- the words

def execLds (h : Hdr) (sz : BitVec 2) (sx sp : Bool) (d : SDst) (m : MemOp) : State → Host.Outcome State Fault Refusal :=
  performWord (.lds h sz sx sp d m) (fun _ => ldsEff sz sx sp d m)
def execSts (h : Hdr) (sz : BitVec 2) (a : SSrc) (m : MemOp) : State → Host.Outcome State Fault Refusal :=
  performWord (.sts h sz a m) (fun _ => stsEff sz a m)
def execCld (h : Hdr) (sz : BitVec 2) (sx : Bool) (d : SDst) (m : MemOp) : State → Host.Outcome State Fault Refusal :=
  performWord (.cld h sz sx d m) (fun _ => cldEff sz sx d m)
def execAmo (h : Hdr) (op : AmoOp) (sz : BitVec 2) (d : SDst) (a : SSrc) (m : MemOp) :
    State → Host.Outcome State Fault Refusal :=
  performWord (.amo h op sz d a m) (fun _ => amoEff op sz d a m)
def execCas (h : Hdr) (sz : BitVec 2) (d : SDst) (a : SSrc) (m : MemOp) : State → Host.Outcome State Fault Refusal :=
  performWord (.cas h sz d a m) (fun _ => casEff sz d a m)
def execVld (h : Hdr) (sp : Bool) (d : VDst) (m : MemOp) : State → Host.Outcome State Fault Refusal :=
  performWord (.vld h sp d m) (fun _ => vldEff sp d m)
def execVlds (h : Hdr) (sz : BitVec 2) (sp : Bool) (d : VDst) (a : SSrc) (m : MemOp) :
    State → Host.Outcome State Fault Refusal :=
  performWord (.vlds h sz sp d a m) (fun _ => vldsEff sz sp d a m)
def execVldx (h : Hdr) (sz : BitVec 2) (sp : Bool) (d : VDst) (a : VSrc) (m : MemOp) :
    State → Host.Outcome State Fault Refusal :=
  performWord (.vldx h sz sp d a m) (fun _ => vldxEff sz sp d a m)
def execVldb (h : Hdr) (sz : BitVec 2) (sp : Bool) (d : VDst) (m : MemOp) : State → Host.Outcome State Fault Refusal :=
  performWord (.vldb h sz sp d m) (fun _ => vldbEff sz sp d m)
def execVst (h : Hdr) (a : VSrc) (m : MemOp) : State → Host.Outcome State Fault Refusal :=
  performWord (.vst h a m) (fun _ => vstEff a m)
def execVsts (h : Hdr) (sz : BitVec 2) (a : VSrc) (d : SSrc) (m : MemOp) : State → Host.Outcome State Fault Refusal :=
  performWord (.vsts h sz a d m) (fun _ => vstsEff sz a d m)
def execVstx (h : Hdr) (sz : BitVec 2) (a d : VSrc) (m : MemOp) : State → Host.Outcome State Fault Refusal :=
  performWord (.vstx h sz a d m) (fun _ => vstxEff sz a d m)
def execVstn (h : Hdr) (a d : VSrc) (m : MemOp) : State → Host.Outcome State Fault Refusal :=
  performWord (.vstn h a d m) (fun _ => vstnEff a d m)
def execAmov (h : Hdr) (op : AmoOp) (t : Ty) (a : VSrc) (m : MemOp) : State → Host.Outcome State Fault Refusal :=
  performWord (.amov h op t a m) (fun _ => amovEff op t a m)
def execFence (h : Hdr) (sc : Scope) : State → Host.Outcome State Fault Refusal :=
  performWord (.fence h sc) (fun _ => fenceEff sc 0xF)
def execLfence (h : Hdr) (sc : Scope) (mask : BitVec 4) : State → Host.Outcome State Fault Refusal :=
  performWord (.lfence h sc mask) (fun _ => fenceEff sc mask)
def execBarr (h : Hdr) (lv : Level) : State → Host.Outcome State Fault Refusal :=
  performWord (.barr h lv) (fun _ s => if s.guardTrue h then barrEff lv s else .done s none 0 .next)
def execBoarm (h : Hdr) (a : SSrc) (m : MemOp) : State → Host.Outcome State Fault Refusal :=
  performWord (.boarm h a m) (fun _ => boWordEff a m (fun n b => b.arm n))
def execBoadd (h : Hdr) (a : SSrc) (m : MemOp) : State → Host.Outcome State Fault Refusal :=
  performWord (.boadd h a m) (fun _ => boWordEff a m (fun n b => b.credit n))
def execBowait (h : Hdr) (d : SDst) (a : SSrc) (m : MemOp) : State → Host.Outcome State Fault Refusal :=
  performWord (.bowait h d a m) (fun _ => bowaitEff d a m)

end Sys2Proof.Machine
end

