-- ==== Sys2Proof/Machine/Engines.lean ====
section
/-! DEFINITION. The steps of the engines that no word names (95): the completion of a matrix command (09 R149), a schedule miss
(09 R153, R154), entering a section (01 R16), a late post (06 R89), the end of a BOWAIT and of a barrier episode (12 R242, 10
R167), the closing of a batch (12 R236), an eviction (13 R255), the watchdog and the phase timer (18 R324 to R327), and the
arithmetic clock (09 R150). An event whose condition does not hold does nothing (LOG 21). -/

namespace Sys2Proof.Machine

-- matrix commands

/-- M left its section while commands were in flight: the section retires with the last of them (R16). -/
def Engine.lastRetired (g : Engine) : Engine :=
  match g.retiring with
  | some n => { g with hwm := n, retiring := none }
  | none => g

/-- The token trap of a command as it retires (R92): TRAPPC is the word after it, and what M issued after it is discarded and issues
again (LOG 62). In supervisor state it is a double trap (18 R306). -/
def State.commandTrap (s : State) (c : Nat) (f : Flight) (later : List Flight) (o : Nat) : State :=
  let s := if s.inSup c .M then s.modCore c (fun k => { k with flight := [] }) else s.dropFlights c f later
  s.takeTrap c .M cToken (mkWord [(8, 1, 1), (4, 4, o)]) f.pc

/-- The oldest word of M in flight retires (R89): its results have landed, its flags join FFLAGS (02 R38), its tokens leave their FIFOs,
and it posts, or waits for room. `early` lets a command complete at its earliest cycle (R149). Once HALT has retired, a full FIFO does
not hold it (06 R93). -/
def State.completeMatrix (s : State) (early : Bool) (c : Nat) : State :=
  match (s.core c).flight with
  | [] => s
  | f :: later =>
    let now := s.cyc.toNat
    if !(f.owing || decide (f.done ≤ now) || (early && decide (f.soon ≤ now))) then s
    else
      let s := if f.owing then s
        else ((s.land c .M).modEng c .M (fun g => { g with csr := { g.csr with fflags := g.csr.fflags ||| f.flags } })).modCore c (fun k =>
          k.dropTokens .M f.pops)
      let room := (s.core c).room .M f.posts
      if room || s.halted c then
        (s.modCore c (fun k => { (if room then k.addTokens .M f.posts else k) with flight := later })).modEng c .M (fun g =>
          let g := if f.owing then g.unblock else g
          if later.isEmpty then g.lastRetired else g)
      else match s.deadPost c .M f.posts with
        | some o => s.commandTrap c f later o
        | none => (s.modCore c (fun k => { k with flight := { f with owing := true } :: later })).waitOn c .M rTokenPost

/-- Bands B2 and above, where the latencies are upper bounds (20 R337). -/
def State.earlyBand (s : State) : Bool := 2 ≤ s.cryo.band.toNat

/-- Every word of M in flight whose cycle has come retires, the oldest first. -/
def State.completeDue : Nat → State → Nat → State
  | 0, s, _ => s
  | n + 1, s, c =>
    match (s.core c).flight with
    | f :: _ => if !f.owing && decide (f.done ≤ s.cyc.toNat) then State.completeDue n (s.completeMatrix false c) c else s
    | [] => s

def execMatrixComplete (core : Nat) (s : State) : Host.Outcome State Fault Refusal :=
  .next (s.completeMatrix s.earlyBand core)

-- schedule misses

/-- M as it will be in the section it enters, when the code image gives that section. -/
def State.entered (s : State) (c : Nat) (t : RunTask) : Option Engine :=
  let g := s.eng c .M
  if t.streams.getD 1 0 == 0 then none
  else match (s.sectCode c .M t 0 2).2 with
    | .error _ => none
    | .ok bs =>
      let len := bitsOf (leWord bs) 48 16
      if len == 0 || len > 5460 then none
      else match (s.sectCode c .M t 8 (3 * len)).2 with
        | .error _ => none
        | .ok ws =>
          let g := { g with sect := { g.sect with len := len, base := BitVec.ofNat 16 (g.sect.hdr + 8) } }
          some { g.loadWords ws with phase := .running, pc := g.sect.pcOf g.target }

/-- M as it stands before its next group: that of the section it enters too, which waits like any other (R153). In the cycle of its
last issue it has not yet reached the next one (17 R301). -/
def State.beforeNext (s : State) (c : Nat) : Option Engine :=
  let g := s.eng c .M
  match (s.core c).task with
  | none => none
  | some t =>
    if g.grp.isSome || g.sup.isSome || g.idleNow t .M || g.debt != 0 || s.slotTaken .M g then none
    else match g.phase with
      | .running => some g
      | .entering => s.entered c t
      | _ => none

/-- M's next group, when M stands before one. -/
def State.nextOfM (s : State) (c : Nat) : Option Instr :=
  match s.beforeNext c with
  | none => none
  | some g =>
    let w := g.sect.wordOf g.pc
    if w ≥ g.sect.len then none
    else match checkGroup .M false g.sect.len w ((g.restart.map Grp.idx).getD 0) (g.members s.supStore 5 w) with
      | .ok [i] => some i
      | _ => none

/-- The stamped command M has reached, with its target. -/
def State.stamped (s : State) (c : Nat) : Option (Instr × Word) :=
  match s.nextOfM c with
  | some i =>
    if (s.eng c .M).restart.isSome then none else (s.target? c i).map (fun t => (i, t))
  | none => none

/-- M can act on its next command in this cycle: it issues, or takes the trap of a check of R58. A section wait keeps it from it. -/
def State.acts (s : State) (c : Nat) (i : Instr) : Bool :=
  let g := s.eng c .M
  if g.phase == .entering && (s.unretired c .M || !(s.awaits c .M).isEmpty) then false
  else match (s.setEng c .M ((s.beforeNext c).getD g)).verdict c .M [i] 0 false with
    | .hold _ => false
    | _ => true

/-- A miss of the command M has reached: it traps with BAND.SLIP 0, and holds GSC or issues late with BAND.SLIP 1. It is judged
once (20 R339). -/
def State.miss (s : State) (c : Nat) : State :=
  match s.stamped c, (s.core c).task.bind RunTask.gang with
  | some (i, t), some n =>
    let now := s.gsc c
    let late := t < now
    if now < t || (now == t && s.acts c i) || s.judged c || ((s.gangOf c).map (fun g => g.slip.has c)).getD false then s
    else if s.cryo.slip then
      s.modGang n (fun g => if late then { g with late := c :: g.late } else { g with slip := g.slip.put c s.cyc.toNat })
    else (s.knowSect c .M).takeTrap c .M cSched (missVal t now late) (match s.beforeNext c with
      | some g => g.pc
      | none => (s.eng c .M).pc)
  | _, _ => s

def execScheduleMiss (core : Nat) (s : State) : Host.Outcome State Fault Refusal := .next (s.miss core)

-- sections and posts

def execEnterSection (core : Nat) (e : Eng) (s : State) : Host.Outcome State Fault Refusal :=
  let g := s.eng core e
  match (s.core core).task with
  | none => .next s
  | some t =>
    if g.phase != .entering || g.sup.isSome || g.grp.isSome || g.idleNow t e then .next s
    else if s.reqOpen core && !t.halting then .next (s.park core e)
    else .next (s.enter core e)

def execTokenPost (core : Nat) (e : Eng) (s : State) : Host.Outcome State Fault Refusal :=
  match (s.eng core e).grp, (s.eng core e).owed with
  | some r, some o => .next ((s.land core e).postAndEnd core e r o.pops o.posts o.flow)
  | _, _ => .next s

-- BOWAIT

def back (cur : Nat × Eng) : Host.Outcome State Fault Refusal → Host.Outcome State Fault Refusal
  | .next s => .next { s with cur := cur }
  | o => o

/-- An issued BOWAIT looks at its object again. -/
def execBowaitComplete (core : Nat) (e : Eng) (s : State) : Host.Outcome State Fault Refusal :=
  let g := s.eng core e
  match g.inside, g.grp with
  | some (.bowait _), some r =>
    match s.memberInstr core e (r.pcOf r.idx) with
    | some (.bowait h d a m) => back s.cur (execBowait h d a m { s with cur := (core, e) })
    | _ => .next s
  | _, _ => .next s

-- barrier episodes

/-- Arithmetic cycles from the last arrival (R167). -/
def levelLat : Level → Nat
  | .quad => 8 | .die => 40 | .pkg => 120 | .pod => 0

def levelUnit (lv : Level) (c : Nat) : List Nat :=
  match lv with
  | .quad => unitOf 1 c
  | .die => unitOf 2 c
  | _ => unitOf 3 c

/-- The cycle after an engine's arrival at a level, if it has arrived or finished. -/
def Engine.arrivedAt (g : Engine) (lv : Level) : Option Nat :=
  match g.arrived with
  | some (r, n) => if n == 0 then none else if r == levelRank lv || g.phase == .finished then some n else none
  | none => if g.phase == .finished then some 0 else none

/-- The cycle after the arrival of a core of gang `n`: a participant whose task has ended counts, one whose task has only left
its core does not (R167). -/
def State.coreArrived (s : State) (n c : Nat) (lv : Level) : Option Nat :=
  if (s.core c).task.bind RunTask.gang == some n then
    allEngs.foldl (fun a e => match a, (s.eng c e).arrivedAt lv with
      | some x, some y => some (Nat.max x y)
      | _, _ => none) (some 0)
  else match s.sched.gangs.find? n with
    | some g => if g.away.contains c then none else some (g.ended.get c 0)
    | none => none

/-- Every BARR counted in the episode may retire. -/
def Engine.released (g : Engine) (lv : Level) : Engine :=
  match g.arrived with
  | some (r, n) => if n != 0 && r == levelRank lv then { g with arrived := some (r, 0) } else g
  | none => g

/-- The open episode of the level that holds a core completes once every participant has arrived and its latency has
passed. -/
def State.episode (s : State) (c : Nat) (lv : Level) : State :=
  match (s.core c).task.bind RunTask.gang with
  | none => s
  | some n =>
    match s.sched.gangs.find? n with
    | none => s
    | some g =>
      let parts := g.cores.filter (fun x => (levelUnit lv c).contains x)
      match parts.foldl (fun a x => match a, s.coreArrived n x lv with
        | some x, some y => some (Nat.max x y)
        | _, _ => none) (some 0) with
      | none => s
      | some last =>
        if s.cyc.toNat + 1 < last + levelLat lv then s
        else parts.foldl (fun s x =>
          if ((s.core x).task.bind RunTask.gang) == some n then
            allEngs.foldl (fun s e => s.modEng x e (fun g => g.released lv)) s
          else s) s

def execEpisodeComplete (core : Nat) (lv : Level) (s : State) : Host.Outcome State Fault Refusal :=
  if lv == .pod then .next s else .next (s.episode core lv)

/-- A pod episode (21 R364): the other packages have arrived. -/
def execPodEpisodeComplete (core : Nat) (s : State) : Host.Outcome State Fault Refusal :=
  if ((s.gangOf core).bind Gang.pod).isSome then .next (s.episode core .pod) else .next s

-- memory

def execBatchApply (line : Nat) (s : State) : Host.Outcome State Fault Refusal := .next (s.closeBatch line)

def execL1Evict (core line : Nat) (s : State) : Host.Outcome State Fault Refusal :=
  match (s.core core).l1.find? line with
  | some l => if l.pinned || s.lineHeld core line || (l.dirty != 0 && !s.mayGo core line l.last) then .next s
    else .next (s.dropLine core line)
  | none => .next s

-- the clock

/-- GSC of a gang is frozen: the stall wire, a slip, or an open request. -/
def Gang.frozen (g : Gang) : Bool := g.stall || !g.slip.isEmpty || g.g.isSome

/-- An engine is in supervisor state, which it leaves as it delivers (R307), or has a page fault in service. -/
def State.inService (s : State) (c : Nat) (e : Eng) : Bool :=
  let g := s.eng c e
  let mine := ((s.core c).task.map (fun t => t.delivery.filter (fun d => d.eng == engIdx e))).getD []
  (g.sup.isSome && mine.isEmpty) || g.page || mine.any Delivery.page

/-- The words of the group an engine stands before. -/
def State.nextGroup (s : State) (c : Nat) (e : Eng) : List Instr :=
  let g := s.eng c e
  let w := g.sect.wordOf g.pc
  match checkGroup e g.sup.isSome g.sect.len w ((g.restart.map Grp.idx).getD 0) (g.members s.supStore 5 w) with
  | .ok is => is
  | .error _ => []

/-- The posts an engine waits to make: of a member, of a command of M, or owed from before. -/
def State.waitingPosts (s : State) (c : Nat) (e : Eng) : BitVec 3 :=
  let g := s.eng c e
  match s.owingOf c e, g.owed with
  | some (f, _), _ => f.posts
  | none, some o => o.posts
  | none, none => g.debt

/-- The engines that a wait of `e` is for (R324). -/
def State.awaited (s : State) (c : Nat) (e : Eng) : List Eng :=
  let k := s.core c
  let r := (s.eng c e).csr.reason
  if r == rSection then s.awaits c e
  else if r == rTokenPop then
    let is := s.nextGroup c e
    ([1, 2, 3].filter (fun j => popsFrom j is > k.tokens e j)).map (engOther e)
  else if r == rTokenPost then
    let p := s.waitingPosts c e
    ([1, 2, 3].filter (fun j => p.getLsbD (j - 1) && k.occ.get (fifoNo e (engOther e j)) 0 ≥ 32)).map (engOther e)
  else []

/-- A save of the task of a core is under way. -/
def Core.saveUnderWay (k : Core) : Bool :=
  match k.task with
  | some t => t.saving || t.request.isSome || !t.delivery.isEmpty
  | none => false

/-- The context for which an agent waits for page service. -/
def State.waiterCtx (s : State) : Waiter → Nat
  | .taskEnd c => (s.core c).ctx.toNat
  | .probe slot => bitsOf (s.recWord slot 0x38) 0 16
  | .seq n => bitsOf ((s.seq n).desc.getD 3 0) 16 16
  | .prog n => ((s.coll.progs.find? n).map (fun p => p.ctx.toNat)).getD 0
  | .msg n => ((s.coll.inbox.find? n).map (fun m => s.commCtx m.comm)).getD 0

/-- A page fault of a context is in service somewhere in the package: of an engine, a command, a task written back, an agent or
a work queue. -/
def State.paging (s : State) (ctx : Nat) : Bool :=
  s.cores.any (fun x => x.2.ctx.toNat == ctx && x.2.task.isSome && allEngs.any (fun f => (x.2.eng f).page)) ||
  s.coll.cmds.any (fun x => x.2.ctx.toNat == ctx && x.2.st == csFaulted) ||
  s.sched.tasks.any (fun x => s.recState x.1 == tFaulted && bitsOf (s.recWord x.1 0x20) 56 8 == rPage.toNat &&
    bitsOf (s.recWord x.1 0x38) 0 16 == ctx) ||
  s.sched.waits.any (fun w => s.waiterCtx w == ctx) ||
  s.host.wqs.any (fun q => q.2.noted && q.2.ctxid.toNat == ctx)

/-- The watchdog counts (R324): the engine waits, and no freeze holds. -/
def State.wdogRuns (s : State) (c : Nat) (e : Eng) : Bool :=
  let g := s.eng c e
  let r := g.csr.reason
  let gscHeld := ((s.gangOf c).map Gang.frozen).getD false
  let holders := s.cores.any (fun x => x.1 != c && x.2.saveUnderWay && g.wants.any (fun l => match x.2.l1.find? l with
    | some y => y.pinned
    | none => false))
  g.csr.blocked && g.sup.isNone &&
  !((s.awaited c e).any (s.inService c)) &&
  !((r == rStamp || r == rMatrix) && gscHeld) &&
  !((r == rBarrier || r == rBo || r == rFerry) && s.paging (s.core c).ctx.toNat) &&
  !(r == rPinned && holders)

/-- Waits that never raise the watchdog (R325). -/
def unwatched (r : BitVec 8) : Bool := r == rWatch || r == rReuse || r == rPage || r == rRemap || r == rFault || r == rNone

/-- One cycle on an engine: its watchdog, and PHT with the crossing of PHTM (R327). -/
def Engine.tick (runs counts : Bool) (g : Engine) : Engine :=
  let g := if runs then { g with wdog := g.wdog + 1 } else g
  if counts then
    let p := g.csr.pht + 1
    { g with csr := { g.csr with pht := p }, phtDue := g.phtDue || (g.csr.phtm != 0 && p == g.csr.phtm) }
  else g

def State.tickEng (s : State) (c : Nat) (e : Eng) : State :=
  let runs := s.wdogRuns c e
  s.modEng c e (fun g => g.tick runs (g.sup.isNone && g.phase != .finished && g.phase != .idle))

/-- Clocks are stopped in WARM_OFF and SAFE (20 R342). -/
def State.clocked (s : State) : Bool := s.cryo.st != 0 && s.cryo.st != 7

/-- A stamped command that M can issue, or that traps, at its target does so in that cycle (R152): the clock waits for it. -/
def State.dueNow (s : State) (c : Nat) : Bool :=
  match s.stamped c with
  | some (i, t) => s.gsc c == t && s.acts c i
  | none => false

/-- Faults of a gang are in service: of its engines, or of those of its commands that `which` names. -/
def State.gangFaults (s : State) (n : Nat) (which : Nat → Bool) : Bool :=
  s.cores.any (fun x => (x.2.task.bind RunTask.gang) == some n && allEngs.any (fun e => (x.2.eng e).page)) ||
    s.coll.cmds.any (fun x => which x.1 && x.2.gang == some n && x.2.st == csFaulted && !x.2.hold)

/-- The stall wire of a gang is raised while faults are in service; it falls with the next cycle (18 R312). -/
def State.restall (s : State) (n : Nat) : State :=
  s.modGang n (fun g => { g with stall := g.stall || s.gangFaults n (fun _ => true) })

/-- A frozen GSC is held for this cycle. -/
def Gang.tick (g : Gang) : Gang :=
  if g.frozen then { g with held := g.held.put g.gsc.toNat (g.held.get g.gsc.toNat 0 + 1) } else { g with gsc := g.gsc + 1 }

/-- One arithmetic cycle passes: misses are judged in their target cycle, then every counter moves, and what is due in the
new cycle completes. -/
def State.tick (s : State) : State :=
  let busy := s.cores.filterMap (fun x => x.2.task.map (fun _ => x.1))
  if !s.clocked || busy.any s.dueNow then s
  else
    let s := busy.foldl (fun s c => match s.stamped c with
      | some (_, t) => if t ≤ s.gsc c then s.miss c else s
      | none => s) s
    let s := busy.foldl (fun s c => allEngs.foldl (fun s e => s.tickEng c e) s) s
    let s := { s with cyc := s.cyc + 1, sched := { s.sched with gangs := s.sched.gangs.map (fun (x : Nat × Gang) =>
      (x.1, { x.2.tick with stall := x.2.stall && s.gangFaults x.1 (fun _ => true) })) } }
    s.cores.foldl (fun s (x : Nat × Core) => State.completeDue x.2.flight.length s x.1) s

-- watchdog and phase timer

/-- TRAPV of a watchdog trap (R310): cycles waited, the reason, the member. -/
def wdogVal (g : Engine) : Word :=
  mkWord [(16, 48, g.wdog), (8, 8, g.csr.reason.toNat), (0, 2, (g.grp.map Grp.idx).getD 0)]

/-- The wait of an engine is over, so that it goes on and takes no watchdog trap (R328). -/
def State.waitOver (s : State) (c : Nat) (e : Eng) : Bool :=
  let g := s.eng c e
  match g.grp, g.owed with
  | some _, some o => !s.behind c e && ((s.core c).room e o.posts || s.halted c)
  | some _, none =>
    match g.inside with
    | some (.barr _) => match g.arrived with
      | some (_, n) => n == 0
      | none => false
    | some .fence =>
      let r := match g.grp.bind (fun r => s.memberInstr c e (r.pcOf r.idx)) with
        | some (.fence _ sc) => (fenceRank sc 0xF, 0xF)
        | some (.lfence _ sc mask) => (fenceRank sc mask, mask)
        | _ => (3, 0xF)
      (s.releaseAt c e r.1 r.2).released c r.1 r.2
    | some (.bowait _) => match execBowaitComplete c e s with
      | .next t => !(t.eng c e).csr.blocked
      | _ => false
    | _ => (g.csr.reason == rPinned && !g.wants.any (s.pinnedFor c)) || (heldWait g.csr.reason && !g.wants.any (fun l => s.ferried (128 * l)))
  | none, _ =>
    if g.debt != 0 then (s.core c).room e g.debt
    else if g.phase == .entering then !((s.enter c e).eng c e).csr.blocked
    else match s.verdict c e (s.nextGroup c e) ((g.restart.map Grp.idx).getD 0) g.restart.isSome with
      | .hold _ => false
      | _ => true

def State.wdogExpire (s : State) (c : Nat) (e : Eng) : State :=
  let limit := bitsOf s.host.polwd 0 48
  let g := s.eng c e
  let idle := match (s.core c).task with
    | some t => g.shut t e
    | none => true
  if limit == 0 || g.wdog < limit || !s.wdogRuns c e || unwatched g.csr.reason || idle || s.waitOver c e then s
  else (s.modEng c e (fun x => { x.unblock with wdog := 0 })).abandon c e cWatchdog (wdogVal g)

def execWatchdogExpire (core : Nat) (e : Eng) (s : State) : Host.Outcome State Fault Refusal := .next (s.wdogExpire core e)

def execPhaseTimerExpire (core : Nat) (e : Eng) (s : State) : Host.Outcome State Fault Refusal :=
  let g := s.eng core e
  match (s.core core).task with
  | some t => if g.phaseNow && !g.shut t e then .next (s.phaseTrap core e) else .next s
  | none => .next s

end Sys2Proof.Machine
end

