-- ==== Sys2Proof/Machine/Save.lean ====
section
/-! DEFINITION. The save block and what a save keeps (18 R320 to R322, 09 R165, 16 R298). A restore reads the image of R321; what
has no place there comes from the part's own copy, `TaskInfo.saved` (LOG 30). -/

namespace Sys2Proof.Machine

-- the free-block ring (R321, 22 R370)

def State.srBase (s : State) : Nat := bitsOf s.host.srbase 12 44 * 4096
def State.srSize (s : State) : Nat := 2 ^ bitsOf s.host.srbase 0 5

/-- The next free block, if any. -/
def State.takeBlock (s : State) : Option (Nat × State) :=
  if s.host.srhead == s.host.srtail then none
  else
    let a := (s.partWord (s.srBase + 8 * (s.host.srhead.toNat % s.srSize))).toNat
    some (a, { s with host := { s.host with srhead := s.host.srhead + 1 } })

/-- A block goes back to the ring. -/
def State.giveBlock (s : State) (a : Nat) : State :=
  let s := s.partWords (s.srBase + 8 * (s.host.srtail.toNat % s.srSize)) [BitVec.ofNat 64 a]
  { s with host := { s.host with srtail := s.host.srtail + 1 } }

def State.dirAddr (s : State) (slot : Nat) : Nat := s.host.sdbase.toNat + 8 * slot

-- the image (R321)

def loopWords (l : Option LoopLvl) : List Word :=
  match l with
  | none => List.replicate 8 0
  | some v => [mkWord [(0, 1, 1), (1, 1, if v.staged then 1 else 0), (8, 32, v.order), (40, 8, v.m), (48, 16, v.sect)],
      BitVec.ofNat 64 v.total, BitVec.ofNat 64 v.lc, BitVec.ofNat 64 v.n, BitVec.ofNat 64 v.base, BitVec.ofNat 64 v.cut,
      BitVec.ofNat 64 v.start, BitVec.ofNat 64 v.stop]

def ringWords (r : Option RingEntry) : List Word :=
  match r with
  | none => [0, 0]
  | some (.sc v) => [mkWord [(0, 2, 1), (2, 1, if v.poison then 1 else 0), (4, 4, v.cause.toNat)], v.val]
  | some (.vec v) => [mkWord [(0, 2, 2), (4, 4, v.cause.toNat)], 0]
  | some (.pred _) => [mkWord [(0, 2, 3)], 0]

def stackWords (st : List (BitVec 16)) : List Word :=
  let at_ (i : Nat) : Nat := (st.getD i 0).toNat
  [mkWord [(0, 16, at_ 0), (16, 16, at_ 1), (32, 16, at_ 2), (48, 16, at_ 3)],
   mkWord [(0, 16, at_ 4), (16, 16, at_ 5), (32, 16, at_ 6), (48, 16, at_ 7)], BitVec.ofNat 64 st.length]

def Csrs.saveWords (k : Csrs) : List Word :=
  [k.fflags.setWidth 64, k.fenab.setWidth 64, k.frm.setWidth 64, k.pht, k.phtm, k.trapc.setWidth 64, k.trapv,
   k.trappc.setWidth 64, mkWord [(8, 1, if k.blocked then 1 else 0), (0, 8, k.reason.toNat)]]

/-- The 96 words of an engine. -/
def Engine.saveWords (g : Engine) : List Word :=
  let rs := (List.range 31).map (fun i => g.reg (i + 1))
  let causes := packFields 4 (rs.map (fun r => r.cause.toNat))
  [mkWord [(0, 16, g.pc.toNat), (16, 16, g.sect.num), (32, 16, g.hwm.toNat), (48, 1, if g.phase == .finished then 1 else 0),
           (49, 3, g.debt.toNat)]] ++
  rs.map SVal.val ++
  [BitVec.ofNat 64 (2 * packBits (rs.map SVal.poison)), BitVec.ofNat 64 causes, BitVec.ofNat 64 (causes / 2 ^ 64)] ++
  stackWords g.stack ++
  ((List.range 4).flatMap (fun l => loopWords (g.loops.find? l))) ++
  ((List.range 8).flatMap (fun i => ringWords g.ring[i]?)) ++
  g.csr.saveWords

/-- Bytes of the vector and predicate values of a ring: 1,024 for each slot. -/
def ringBytes (ring : List RingEntry) : List Byte :=
  (List.range 8).flatMap (fun i => match (ring[i]? : Option RingEntry) with
    | some (.vec v) => leBytes 1024 v.data.toNat
    | some (.pred p) => leBytes 1024 p.toNat
    | _ => List.replicate 1024 0)

/-- The FIFOs in the header's order (R321). -/
def headFifos : List (Eng × Eng) :=
  [(.L, .M), (.L, .X), (.L, .S), (.M, .X), (.M, .S), (.M, .L), (.X, .S), (.X, .L), (.X, .M), (.S, .L), (.S, .M), (.S, .X)]

/-- The k-blocks of a plane, one after another (09 R147). -/
def Plane.bytes (p : Plane) : List Byte := p.blocks.flatMap (fun b => leBytes (mBlockBytes p.wcode.toNat) b.toNat)

/-- A command that moves rows (R291). -/
def Cmd.rows (x : Cmd) : Bool := x.kind == kGather || x.kind == kScatter

/-- The 64 bytes of a saved command (R298): tag and status, bytes credited, object, then the row descriptor or the operands with the
resume offsets of further targets, and the resume offset of the first. Their layout is no rule's; the resume offsets of a fill's targets
beyond nine do not fit, and are in the part's own copy alone (LOG 30). -/
def Cmd.saveWords (x : Cmd) : List Word :=
  [mkWord [(0, 8, x.kind), (8, 8, x.st), (16, 6, x.tag)], mkWord [(0, 48, x.doneb)], x.bo] ++
  (if x.rows then (List.range 4).map (fun i => x.desc.getD i 0)
    else (List.range 3).map (fun i => x.ops.getD i 0) ++
      [BitVec.ofNat 64 (packFields 8 ((List.range 8).map (fun i => (x.targets.getD (i + 1) (0, 0, 0)).2.2)))]) ++
  [BitVec.ofNat 64 (65536 * (x.targets.headD (0, 0, 0)).2.2)]

/-- A saved command as its 64 bytes `w` say (R298). -/
def Cmd.ofImage (x : Cmd) (w : Nat → Word) : Cmd :=
  let done (i own : Nat) : Nat :=
    if i = 0 then (w 7).toNat / 65536 else if i < 9 && !x.rows then bitsOf (w 6) (8 * (i - 1)) 8 else own
  { x with doneb := bitsOf (w 1) 0 48
           bo := w 2
           ops := if x.rows then x.ops else [w 3, w 4, w 5]
           desc := if x.rows then [w 3, w 4, w 5, w 6] else x.desc
           targets := x.targets.mapIdx (fun i t => (t.1, t.2.1, done i t.2.2)) }

def Memory.putBytes (m : Memory) (a : Nat) (bs : List Byte) : Memory := m.writeN a bs

/-- Memory as the part has written it in `parts` of a block at `a`. -/
def State.partDone (s : State) (a : Nat) (parts : List (Nat × Nat)) (m : Memory) : State :=
  parts.foldl (fun s p => s.wakeSpan (a + p.1) p.2)
    { s with mem := m, stor := parts.foldl (fun x p => x.overwrite (a + p.1) p.2) s.stor }

/-- The parts of a save block that are written, as offset and length (R321). -/
def blockParts (k : Core) (count : Nat) (mat : Bool) : List (Nat × Nat) :=
  [(0, 0x20)] ++ allEngs.map (fun e => (0x100 + 0x300 * engIdx e, 0x300)) ++
  [(0x1000, 0x8000), (0xA000, 0x780), (0xA800, 0x180), (0xB000, 0x6000), (0x11000, 0x20), (0x60000, 1024 * count)] ++
  (if mat then [(0x12000, 0x6000), (0x20000, k.active.bytes.length), (0x40000, k.preload.bytes.length), (0x200000, 0x100000)] else [])

/-- Write the image of a core's task: `count` vector registers, the matrix state if it is saved. -/
def State.writeBlock (s : State) (a : Nat) (k : Core) (count : Nat) (mat full gang : Bool) (g : Word) : State :=
  let parts := blockParts k count mat
  let s := parts.foldl (fun s p => s.partKey (a + p.1) p.2) s
  let m := s.mem
  let m := m.putWords a [mkWord [(0, 10, count), (10, 1, if mat then 1 else 0), (11, 1, if full then 1 else 0),
    (12, 1, if gang then 1 else 0)], g]
  let m := m.putBytes (a + 0x10) (headFifos.map (fun f => BitVec.ofNat 8 (k.occ.get (fifoNo f.1 f.2) 0)))
  let m := allEngs.foldl (fun m e => m.putWords (a + 0x100 + 0x300 * engIdx e) (k.eng e).saveWords) m
  let m := allEngs.foldl (fun m e => m.putBytes (a + 0x1000 + 0x2000 * engIdx e) (ringBytes (k.eng e).ring)) m
  let m := (List.range 15).foldl (fun m i => m.putBytes (a + 0xA000 + 128 * i) (leBytes 128 (k.pred (i + 1)).toNat)) m
  let m := m.putBytes (a + 0xA800) (leBytes 384 (packFields 4 ((List.range 768).map (fun i => (k.vreg i).cause.toNat))))
  let m := (List.range 768).foldl (fun m i => m.putBytes (a + 0xB000 + 32 * i) (leBytes 32 (k.vreg i).poison.toNat)) m
  let m := m.putWords (a + 0x11000) [k.mcfg.setWidth 64, k.mkp.setWidth 64, k.mstb,
    mkWord [(0, 1, if k.active.valid then 1 else 0), (1, 1, if k.preload.valid then 1 else 0), (4, 3, k.active.wcode.toNat),
            (8, 3, k.preload.wcode.toNat), (16, 3, k.scaleQ.length)]]
  let m := (List.range count).foldl (fun m i => m.putBytes (a + 0x60000 + 1024 * i) (leBytes 1024 (k.vreg i).data.toNat)) m
  s.partDone a parts (if mat then
    let m := (List.range 4).foldl (fun m i => m.putBytes (a + 0x12000 + 4096 * i) (leBytes 4096 (k.scaleQ.getD i 0).toNat)) m
    let m := m.putBytes (a + 0x16000) (leBytes 4096 k.active.scales.toNat)
    let m := m.putBytes (a + 0x17000) (leBytes 4096 k.preload.scales.toNat)
    let m := m.putBytes (a + 0x20000) k.active.bytes
    let m := m.putBytes (a + 0x40000) k.preload.bytes
    (List.range 1024).foldl (fun m i => m.putBytes (a + 0x200000 + 1024 * i) (leBytes 1024 (k.acc.get i 0).toNat)) m
  else m)

-- reading the image back (R322)

/-- Bytes `a` to `a + n - 1` of memory as one number. -/
def Memory.blob (m : Memory) (a n : Nat) : Nat :=
  m.foldl (fun x c => if a ≤ c.1 && c.1 < a + n then x + c.2.toNat * 2 ^ (8 * (c.1 - a)) else x) 0

/-- Memory as the part reads the `n` bytes at `a`, under its own key (22 R382). -/
def State.partImage (s : State) (a n : Nat) : Memory :=
  ((s.stor.lineKey.filter (fun x => x.2 != 0 && decide (a ≤ 128 * x.1) && decide (128 * x.1 < a + n))).map (fun x => x.1)).foldl
    (fun m l => m.writeN (128 * l) ((List.range 128).map (fun i => s.plain 0 (128 * l + i)))) s.mem

/-- `n` bits of a number from bit `lo` of byte `off` on. -/
def fieldAt (x off lo n : Nat) : Nat := x / 2 ^ (8 * off + lo) % 2 ^ n

def loopOf (x off : Nat) : Option LoopLvl :=
  let w (i : Nat) : Nat := fieldAt x (off + 8 * i) 0 64
  if fieldAt x off 0 1 == 0 then none
  else some { staged := fieldAt x off 1 1 == 1, sect := fieldAt x off 48 16, order := fieldAt x off 8 32, total := w 1,
              lc := w 2, n := w 3, m := fieldAt x off 40 8, base := w 4, cut := w 5, start := w 6, stop := w 7 }

/-- A ring slot: the poison bits of a vector, which have no place in the image, are those of the part's own copy. -/
def ringOf (x off data : Nat) (own : Option RingEntry) : Option RingEntry :=
  let cause := BitVec.ofNat 4 (fieldAt x off 4 4)
  match fieldAt x off 0 2 with
  | 1 => some (.sc { val := BitVec.ofNat 64 (fieldAt x off 64 64), poison := fieldAt x off 2 1 == 1, cause := cause })
  | 2 => some (.vec { data := BitVec.ofNat 8192 data, cause := cause, poison := match own with
      | some (.vec v) => v.poison
      | _ => 0 })
  | 3 => some (.pred (BitVec.ofNat 1024 data))
  | _ => none

def Csrs.ofImage (x : Nat) : Csrs :=
  let w (i : Nat) : Nat := fieldAt x (0x2B0 + 8 * i) 0 64
  { fflags := BitVec.ofNat 6 (w 0), fenab := BitVec.ofNat 6 (w 1), frm := BitVec.ofNat 2 (w 2), pht := BitVec.ofNat 64 (w 3),
    phtm := BitVec.ofNat 64 (w 4), trapc := BitVec.ofNat 8 (w 5), trapv := BitVec.ofNat 64 (w 6),
    trappc := BitVec.ofNat 16 (w 7), reason := BitVec.ofNat 8 (w 8), blocked := fieldAt x 0x2F1 0 1 == 1 }

/-- An engine restored from its 0x300 bytes `x`, its ring values at `rings`. -/
def Engine.ofImage (g : Engine) (img : Memory) (x rings : Nat) : Engine :=
  let done := fieldAt x 0 48 1 == 1
  { g with
    pc := BitVec.ofNat 16 (fieldAt x 0 0 16)
    sect := { g.sect with num := fieldAt x 0 16 16 }
    hwm := BitVec.ofNat 16 (fieldAt x 0 32 16)
    phase := if done then .finished else if g.phase == .finished then .entering else g.phase
    debt := BitVec.ofNat 3 (fieldAt x 0 49 3)
    regs := (List.range 31).map (fun i =>
      (i + 1, ⟨BitVec.ofNat 64 (fieldAt x (8 * (i + 1)) 0 64), fieldAt x 0x100 (i + 1) 1 == 1, BitVec.ofNat 4 (fieldAt x 0x108 (4 * i) 4)⟩))
    stack := (List.range (Nat.min (fieldAt x 0x128 0 64) 8)).map (fun i => BitVec.ofNat 16 (fieldAt x 0x118 (16 * i) 16))
    loops := (List.range 4).filterMap (fun l => (loopOf x (0x130 + 64 * l)).map (fun v => (l, v)))
    ring := (List.range 8).filterMap (fun i => ringOf x (0x230 + 16 * i) (img.blob (rings + 1024 * i) 1024) g.ring[i]?)
    csr := Csrs.ofImage x }

def Plane.ofImage (img : Memory) (at_ scales : Nat) (valid : Bool) (wcode : Nat) : Plane :=
  let size := mBlockBytes wcode
  { blocks := (List.range (mBlocks wcode)).map (fun j => BitVec.ofNat 131072 (img.blob (at_ + size * j) size))
    scales := BitVec.ofNat 32768 (img.blob scales 4096), wcode := BitVec.ofNat 3 wcode, valid := valid }

/-- The core of a save block at `a`: what R321 lists comes from the block, the rest from the part's own copy `k`. -/
def Core.ofImage (k : Core) (m : Memory) (a : Nat) : Core :=
  let img : Memory := m.filter (fun c => a ≤ c.1 && c.1 < a + 0x400000)
  let head := img.blob a 0x20
  let conf := img.blob (a + 0x11000) 0x20
  let poison := img.blob (a + 0xB000) 0x6000
  let cause := img.blob (a + 0xA800) 0x180
  let eng (e : Eng) : Engine :=
    (k.eng e).ofImage img (img.blob (a + 0x100 + 0x300 * engIdx e) 0x300) (a + 0x1000 + 0x2000 * engIdx e)
  let k := { k with
    eL := eng .L
    eM := eng .M
    eX := eng .X
    eS := eng .S
    occ := headFifos.zipIdx.foldl (fun o f => o.put (fifoNo f.1.1 f.1.2) (fieldAt head (0x10 + f.2) 0 8)) k.occ
    p := (List.range 15).map (fun i => (i + 1, BitVec.ofNat 1024 (img.blob (a + 0xA000 + 128 * i) 128)))
    v := (List.range (Nat.min (fieldAt head 0 0 10) 768)).foldl (fun v i => v.put i
      ⟨BitVec.ofNat 8192 (img.blob (a + 0x60000 + 1024 * i) 1024), BitVec.ofNat 256 (fieldAt poison (32 * i) 0 256),
        BitVec.ofNat 4 (fieldAt cause 0 (4 * i) 4)⟩) k.v
    mcfg := BitVec.ofNat 13 conf
    mkp := BitVec.ofNat 16 (fieldAt conf 8 0 16)
    mstb := BitVec.ofNat 64 (fieldAt conf 16 0 64) }
  if fieldAt head 0 10 1 == 1 then
    { k with
      active := Plane.ofImage img (a + 0x20000) (a + 0x16000) (fieldAt conf 24 0 1 == 1) (fieldAt conf 24 4 3)
      preload := Plane.ofImage img (a + 0x40000) (a + 0x17000) (fieldAt conf 24 1 1 == 1) (fieldAt conf 24 8 3)
      scaleQ := (List.range (fieldAt conf 24 16 3)).map (fun i => BitVec.ofNat 32768 (img.blob (a + 0x12000 + 4096 * i) 4096))
      acc := (List.range 1024).map (fun i => (i, BitVec.ofNat 8192 (img.blob (a + 0x200000 + 1024 * i) 1024))) }
  else k

-- what is unspecified afterwards

/-- Vector registers from `from_` on and, with `mat`, the accumulators hold unspecified data (LOG 3). -/
def Core.scramble (k : Core) (free from_ : Nat) (mat : Bool) : Core :=
  let v := (List.range (768 - from_)).foldl (fun (v : Store VVal) i =>
    v.put (from_ + i) (VVal.clean (Config.freeV (free + i)))) k.v
  let acc := if mat then (List.range 1024).map (fun i => (i, Config.freeV (free + 768 + i))) else k.acc
  { k with v := v, acc := acc }

/-- The free values that `scramble` may take. -/
def scrambleUse : Nat := 768 + 1024

-- the snapshot

/-- An engine as it is saved: at its PC in its section, which it enters again (R322); one that stands before a section is at the
word it enters at. What issues again reads what it read before the save (06 R91), from the part's own copy (LOG 30). -/
def Engine.atRest (g : Engine) : Engine :=
  let g := g.leaveSup
  let at_ := { g.sect with base := BitVec.ofNat 16 (g.sect.hdr + 8) }
  { g with
    pc := if g.phase == .entering then at_.pcOf g.target else g.pc
    phase := if g.phase == .running then .entering else g.phase
    target := if g.phase == .running then g.sect.wordOf g.pc else g.target
    istore := []
    stopped := none
    parked := false
    page := false
    inside := none
    grp := none
    owed := none
    arrived := none
    wdog := 0
    retiring := none
    slept := none
    wants := []
    ahead := []
    early := false
    csr := g.csr.going }

def Core.atRest (k : Core) : Core :=
  { k with eL := k.eL.atRest, eM := k.eM.atRest, eX := k.eX.atRest, eS := k.eS.atRest, resv := [], l1 := [], wq := [],
           tlb := [], bufc := [], filter := [], stage := none }

/-- Matrix state that is not saved: both planes invalid, the queue empty (R165). -/
def Core.dropMatrix (k : Core) : Core := { k with active := Plane.reset, preload := Plane.reset, scaleQ := [] }

/-- An engine whose task has left: its registers stay as they are until the next dispatch (10 R173). -/
def Engine.vacated (g : Engine) : Engine :=
  let g := g.leaveSup
  { g with
    phase := .idle
    loops := []
    grp := none
    regrp := none
    owed := none
    debt := 0
    inside := none
    stopped := none
    parked := false
    page := false
    wdog := 0
    phtDue := false
    arrived := none
    retiring := none
    slept := none
    wants := []
    ahead := []
    early := false
    csr := g.csr.going }

/-- A core with no task: tokens and loop units are discarded (04 R74). -/
def Core.vacate (k : Core) : Core :=
  { k with task := none, eL := k.eL.vacated, eM := k.eM.vacated, eX := k.eX.vacated, eS := k.eS.vacated, occ := [], resv := [],
           flight := [], landing := [], codeQ := k.codeQ.filter (fun x => x.1 < 4) }

-- commands of a task that leaves its core (16 R298)

/-- A granule of a command of the slot is under way: it is finished and credited before the command is saved (R298). -/
def State.cmdsUnder (s : State) (slot : Nat) : Bool :=
  s.coll.cmds.any (fun x => x.2.slot == slot && x.2.kind != kFerry && !(x.2.parts.isEmpty && x.2.landed.isEmpty) && x.2.st != csFaulted)

def State.holdCmds (s : State) (slot : Nat) : State :=
  let one (x : Nat × Cmd) : Nat × Cmd :=
    if x.2.slot = slot && x.2.kind != kFerry then
      (x.1, { x.2 with hold := true, st := if x.2.st == csFaulted then csFaulted else csHeld })
    else x
  let s := { s with coll := { s.coll with cmds := s.coll.cmds.map one } }
  s.modInfo slot (fun t => { t with cmds := t.cmds.map (fun x =>
    if (x.2.st == csQueued || x.2.st == csActive || x.2.st == csFaulted) && x.2.kind != kFerry && x.2.kind != kColl then
      (x.1, { x.2 with st := csHeld }) else x) })

/-- Commands of a slot run on without it. -/
def State.orphanCmds (s : State) (slot : Nat) : State :=
  let one (x : Nat × Cmd) : Nat × Cmd := (x.1, x.2.orphan slot)
  let lone (x : Nat × Prog) : Nat × Prog := if x.2.slot = slot then (x.1, { x.2 with slot := slotCount }) else x
  ({ s with coll := { s.coll with cmds := s.coll.cmds.map one, progs := s.coll.progs.map lone } }).modInfo slot
    (fun t => { t with cmds := [] })

end Sys2Proof.Machine
end

