-- ==== Sys2Proof/Machine/Choose.lean ====
section
/-! DEFINITION. The dispatcher: residence, the choice, staging and aging (10 R171, R174, R183 to R187, 20 R341, R342, 18
R314). -/

namespace Sys2Proof.Machine

-- record fields (R169)

def State.slotCtx (s : State) (slot : Nat) : Nat := bitsOf (s.recWord slot 0x38) 0 16
def State.slotAff (s : State) (slot : Nat) : Nat := bitsOf (s.recWord slot 0x38) 16 8
def State.slotLrec (s : State) (slot : Nat) : Nat := bitsOf (s.recWord slot 0x20) 0 16
def State.slotTile (s : State) (slot : Nat) : Nat := bitsOf (s.recWord slot 0x20) 16 32
def State.slotPrio (s : State) (slot : Nat) : Nat := bitsOf (s.recWord slot 0x20) 48 4
def State.slotReason (s : State) (slot : Nat) : Nat := bitsOf (s.recWord slot 0x20) 56 8
def State.slotGang (s : State) (slot : Nat) : Bool := bitsOf (s.recWord slot 0x00) 57 1 == 1
def State.slotSaved (s : State) (slot : Nat) : Bool := bitsOf (s.recWord slot 0x00) 56 1 == 1

/-- The event fields of a task that is on no core (R390: the slot and PC are 0 there). -/
def State.recEv (s : State) (slot : Nat) (i : EvInfo) : EvInfo :=
  { i with ctx := s.slotCtx slot, lrec := s.slotLrec slot, tile := s.slotTile slot }

/-- The same for an event that its task waits with. -/
def State.heldEv (s : State) (slot : Nat) (i : EvInfo) : EvInfo := { s.recEv slot i with slot := slot, task := true }

-- when the dispatcher works

/-- States with dispatch (20 R342); none while a COOL waits for the running tasks (R343). -/
def State.dispatchOn (s : State) : Bool := (s.cryo.st == 1 && s.cryo.cmd == 0) || s.cryo.st == 4 || s.cryo.st == 5

/-- No base register is 0 (22 R370) and the event ring is enabled (18 R314). -/
def State.mayStage (s : State) : Bool :=
  s.dispatchOn && s.evq.enabled && s.srBase != 0 &&
  [s.host.lpbase, s.host.rsbase, s.host.sdbase, s.host.ctxt].all (fun w => w != 0)

-- residence (R184)

/-- READY, not being probed (14 R269) and not killed. -/
def State.isReady (s : State) (slot : Nat) : Bool :=
  s.recState slot == tReady && s.slotReason slot != rReuse.toNat && !((s.info slot).map TaskInfo.dying).getD false

/-- Ready, resident, of a context that may be staged. -/
def State.eligible (s : State) (slot : Nat) (t : TaskInfo) : Bool :=
  t.resident && s.isReady slot && s.ctxValid (s.slotCtx slot)

-- gangs (R183, R185)

/-- The slots of the gang of a slot, by rising tile. -/
def State.gangSlots (s : State) (slot : Nat) : List Nat :=
  let n := s.slotLrec slot
  let size := shapeSize (s.lrecSg n)
  let g := s.slotTile slot / size
  (List.range size).filterMap (fun j =>
    (s.sched.tasks.filter (fun x => s.slotLrec x.1 == n && s.slotTile x.1 == g * size + j)).head?.map (fun x => x.1))

/-- The unit that would take the gang for core `c`. -/
def State.gangUnit (s : State) (slot c : Nat) : List Nat := unitOf (s.lrecSg (s.slotLrec slot)) c

def State.reserved (s : State) (c : Nat) : Option (List Nat × List Nat) := s.sched.units.find? (fun u => u.1.contains c)

/-- A gang that is passed over for `c` (R185). -/
def State.passedOver (s : State) (slot c : Nat) (t : TaskInfo) : Bool :=
  let u := s.gangUnit slot c
  s.sched.units.any (fun r => r.1.any u.contains) || !u.all s.allowed ||
  (match t.unit with
    | some first => u.headD 0 != first
    | none => false)

-- the choice (R185)

/-- AFFQ, 0xFF where the quad is absent: where none of its four cores is present and allowed (DESIGN CHOICE, LOG 75). -/
def State.affinity (s : State) (slot : Nat) : Nat :=
  let q := s.slotAff slot
  if q < 64 && (unitOf 1 (4 * q)).any s.allowed then q else 0xFF

/-- Another eligible task, none of the gang `own`, keeps a yielded task from going back to core `c` (R175). Which tasks exist "for
that core" is the model's choice: every eligible one but those that may themselves not go back to it, a gang tile that the core could
not take now included (DESIGN CHOICE, LOG 75). -/
def State.yieldBars (s : State) (own : List Nat) (slot c : Nat) : Bool :=
  ((s.info slot).bind TaskInfo.notCore) == some c &&
  s.sched.tasks.any (fun x => !own.contains x.1 && x.2.notCore != some c && s.eligible x.1 x.2)

/-- A slot is a candidate for core `c`. -/
def State.isCand (s : State) (c slot : Nat) (t : TaskInfo) : Bool :=
  s.eligible slot t &&
  (if s.slotGang slot then
    let sg := s.lrecSg (s.slotLrec slot)
    let all := s.gangSlots slot
    s.slotTile slot % shapeSize sg == 0 && all.length == shapeSize sg &&
    all.all (fun x => match s.info x with
      | some y => s.eligible x y
      | none => false) && !s.passedOver slot c t &&
    !((all.zip (s.gangUnit slot c)).any (fun x => s.yieldBars all x.1 x.2))
  else !s.yieldBars [slot] slot c)

/-- The order of cand: ready cycle, then launch record, then tile. -/
def candLe (s : State) (a b : Nat × TaskInfo) : Bool :=
  if a.2.ready != b.2.ready then a.2.ready < b.2.ready
  else if s.slotLrec a.1 != s.slotLrec b.1 then s.slotLrec a.1 < s.slotLrec b.1
  else s.slotTile a.1 ≤ s.slotTile b.1

def insertBy (le : α → α → Bool) (x : α) : List α → List α
  | [] => [x]
  | y :: ys => if le x y then x :: y :: ys else y :: insertBy le x ys

def sortBy (le : α → α → Bool) : List α → List α
  | [] => []
  | x :: xs => insertBy le x (sortBy le xs)

/-- Contexts with a resident ready task at a level, rising. -/
def State.levelCtxs (s : State) (lvl : Nat) : List Nat :=
  sortBy (fun a b => decide (a ≤ b)) (dedup ((s.sched.tasks.filter (fun x =>
    s.slotPrio x.1 == lvl && s.eligible x.1 x.2)).map (fun x => s.slotCtx x.1)))

def State.weight (s : State) (ctx : Nat) : Nat := Nat.max 1 (bitsOf (s.ctxWord ctx 2) 0 8)

/-- The choice within one context: the slot, and whether it is an affinity miss. -/
def State.pickIn (s : State) (c lvl ctx : Nat) : Option (Nat × Bool) :=
  let cand := sortBy (candLe s) (s.sched.tasks.filter (fun x =>
    s.slotPrio x.1 == lvl && s.slotCtx x.1 == ctx && s.isCand c x.1 x.2))
  match (cand.take 8).find? (fun x => s.affinity x.1 == c / 4 || s.affinity x.1 == 0xFF) with
  | some x => some (x.1, false)
  | none => cand.head?.map (fun x => (x.1, true))

/-- Contexts `m` places after the rotation pointer, until one has a candidate. -/
def State.pickCtx (s : State) (c lvl : Nat) (ctxs : List Nat) : Nat → Nat → Option (Nat × Bool × Nat)
  | 0, _ => none
  | fuel + 1, m =>
    let pos := (s.sched.ptr.get lvl 0 + m) % ctxs.length
    match s.pickIn c lvl (ctxs.getD pos 0) with
    | some (slot, missed) => some (slot, missed, pos)
    | none => State.pickCtx s c lvl ctxs fuel (m + 1)

/-- The rotation after a choice. -/
def State.rotate (s : State) (lvl ctx pos : Nat) (missed : Bool) : State :=
  let used := s.sched.used.get ctx 0 + 1
  let s := { s with sched := { s.sched with misses := s.sched.misses + (if missed then 1 else 0) } }
  if used ≥ s.weight ctx then
    { s with sched := { s.sched with used := s.sched.used.put ctx 0, ptr := s.sched.ptr.put lvl (pos + 1) } }
  else { s with sched := { s.sched with used := s.sched.used.put ctx used, ptr := s.sched.ptr.put lvl pos } }

/-- Levels from 7 down. -/
def State.pickLevel (s : State) (c : Nat) : Nat → Option (Nat × State)
  | 0 => none
  | lvl + 1 =>
    let ctxs := s.levelCtxs lvl
    match s.pickCtx c lvl ctxs ctxs.length 0 with
    | some (slot, missed, pos) => some (slot, s.rotate lvl (ctxs.getD pos 0) pos missed)
    | none => State.pickLevel s c lvl

-- residence (R184)

/-- The ready tasks that are not resident, in the order of the choice: level, context from the rotation pointer on, cand. -/
def State.wanting512 (s : State) : List Nat :=
  let ready := s.sched.tasks.filter (fun x => !x.2.resident && s.isReady x.1)
  let ctxs (lvl : Nat) : List Nat :=
    let xs := sortBy (fun a b => decide (a ≤ b)) (dedup ((ready.filter (fun x => s.slotPrio x.1 == lvl)).map (fun x => s.slotCtx x.1)))
    let p := s.sched.ptr.get lvl 0 % Nat.max 1 xs.length
    xs.drop p ++ xs.take p
  (List.range 8).reverse.flatMap (fun lvl => (ctxs lvl).flatMap (fun ctx =>
    (sortBy (candLe s) (ready.filter (fun x => s.slotPrio x.1 == lvl && s.slotCtx x.1 == ctx))).map (fun x => x.1)))

/-- The resume sections and the argument block of a ready task are in the L2: one of the first 512 in progress. -/
def execMakeResident (slot : Nat) (s : State) : Host.Outcome State Fault Refusal :=
  if !s.partHeld && (s.wanting512.take 512).contains slot then .next (s.modInfo slot (fun t => { t with resident := true })) else .next s

-- staging

/-- A word of the code image header is in order (R171). -/
def headerOk (w : Word) : Bool := bitsOf w 40 24 == 0 && w.toNat % 4 == 0

/-- The stream fault found as a task is staged: kind 2 for a missing execute right, 1 for the rest. -/
def State.stageFault (s : State) (slot : Nat) : State × Option Nat :=
  let w := s.whoAgent 0 (s.slotCtx slot) (s.slotLrec slot)
  let code := s.recWord slot 0x00
  let (s, r) := s.access w (bitsOf code 0 16) { need := .exec, es := 32, align := 8 } [(bitsOf code 16 40 : Int)]
  match r with
  | .error x => (s, some (if x.fail.check == 4 then 2 else 1))
  | .ok es =>
    let (s, bs) := s.homeRead (w.kid.getD 0) (es.flatten.map Place.key)
    let ws := (List.range 4).map (fun i => leWord ((bs.drop (8 * i)).take 8))
    (s, if ws.all headerOk then none else some 1)

/-- A staged task goes back to the pool (20 R341). -/
def State.unstage (s : State) (c : Nat) : State :=
  match (s.core c).stage with
  | some slot => (s.modCore c (fun k => { k with stage := none, codeQ := k.codeQ.filter (fun x => 4 ≤ x.1) })).setRecState slot tReady 0
  | none => s

/-- A gang whose unit is given up goes back whole (20 R341). -/
def State.dropUnit (s : State) (u : List Nat × List Nat) : State :=
  let s := u.1.foldl (fun s c => match (s.core c).stage with
    | some slot => if u.2.contains slot then s.unstage c else s
    | none => s) s
  { s with sched := { s.sched with units := s.sched.units.filter (fun x => x != u) } }

/-- The stream offset of the header `n` sections on, as the agent `w` reads the image of a slot; a header that cannot be read
or ends the stream ends the walk. -/
def State.walkBy (s : State) (w : Who) (buf coff : Nat) : Nat → Nat → Nat
  | 0, hdr => hdr
  | n + 1, hdr =>
    match (s.codeBy w buf (coff + hdr) 2).2 with
    | .ok bs => if leNat (bs.drop 6) == 0 then hdr else State.walkBy s w buf coff n (hdr + 8 + 12 * leNat (bs.drop 6))
    | .error _ => hdr

/-- The resume section of engine `e` of a slot: its header and words, which are loaded as the task is staged (R184). A section that
cannot be read is fetched, and faults, when its engine reaches it (01 R18). -/
def State.stagedCode (s : State) (slot : Nat) (e : Eng) : Option (Nat × List Byte) :=
  let w := s.whoAgent 0 (s.slotCtx slot) (s.slotLrec slot)
  let code := s.recWord slot 0x00
  let buf := bitsOf code 0 16
  let res := bitsOf (s.recWord slot 0x08) (16 * engIdx e) 16
  match (s.codeBy w buf (bitsOf code 16 40 + 8 * engIdx e) 2).2 with
  | .error _ => none
  | .ok o =>
    let off := bitsOf (leWord o) 0 40
    let coff := bitsOf code 16 40 + off
    if off == 0 || res == 0xFFFF then none
    else
      let hdr := s.walkBy w buf coff res 0
      match (s.codeBy w buf (coff + hdr) 2).2 with
      | .error _ => none
      | .ok h =>
        if leNat (h.drop 6) > 5460 || (s.codeBlocked w noCore buf (coff + hdr) (2 + 3 * leNat (h.drop 6))).isSome then none
        else match (s.codeBy w buf (coff + hdr) (2 + 3 * leNat (h.drop 6))).2 with
          | .error _ => none
          | .ok bs => some (hdr, bs)

/-- Stage a slot on core `c` (R171, R184). A staging fault leaves the other staged tasks of its gang where they are: a staged
task returns to the pool only when the band gates its core (LOG 31). -/
def State.stageOn (s : State) (c slot : Nat) : State :=
  let (s, bad) := s.stageFault slot
  match bad with
  | none =>
    let codes := allEngs.filterMap (fun e => (s.stagedCode slot e).map (fun x => (engIdx e, x)))
    (s.modCore c (fun k => { k with stage := some slot, codeQ := codes ++ k.codeQ.filter (fun x => 4 ≤ x.1) })).setRecState slot tStaged 0
  | some kind =>
    let s := (s.setRecState slot tFaulted rFault.toNat).modInfo slot (fun t => { t with fault := some 0 })
    s.post (s.heldEv slot { kind := 2, cause := cStream, detail := mkWord [(4, 4, kind)] })

/-- The code image header of a slot waits for the ferry or a pin (16 R293). -/
def State.headHeld (s : State) (slot : Nat) : Bool :=
  let code := s.recWord slot 0x00
  (s.codeBlocked (s.whoAgent 0 (s.slotCtx slot) (s.slotLrec slot)) noCore (bitsOf code 0 16) (bitsOf code 16 40) 8).isSome

/-- A header on the way from `hdr` to the `n`th section after it waits for the ferry or a pin. -/
def State.walkHeld (s : State) (w : Who) (buf coff : Nat) : Nat → Nat → Bool
  | 0, _ => false
  | n + 1, hdr =>
    (s.codeBlocked w noCore buf (coff + hdr) 2).isSome ||
      (match (s.codeBy w buf (coff + hdr) 2).2 with
        | .ok bs => leNat (bs.drop 6) != 0 && State.walkHeld s w buf coff n (hdr + 8 + 12 * leNat (bs.drop 6))
        | .error _ => false)

/-- What a start of the slot reads of its code image waits: the image's header, or a section header on the way to the section at which
an engine goes on, by the record or by the save block (R173, 18 R321). -/
def State.startHeld (s : State) (slot : Nat) : Bool :=
  let w := s.whoAgent 0 (s.slotCtx slot) (s.slotLrec slot)
  let buf := bitsOf (s.recWord slot 0x00) 0 16
  let coff := bitsOf (s.recWord slot 0x00) 16 40
  let block := (s.partWord (s.dirAddr slot)).toNat
  let sect (e : Eng) : Nat :=
    if s.slotSaved slot then bitsOf (s.partWord (block + 0x100 + 0x300 * engIdx e)) 16 16
    else bitsOf (s.recWord slot 0x08) (16 * engIdx e) 16
  let held (e : Eng) : Bool :=
    match (s.codeBy w buf (coff + 8 * engIdx e) 2).2 with
    | .ok o =>
      let off := bitsOf (leWord o) 0 40
      off != 0 && sect e != 0xFFFF && s.walkHeld w buf (coff + off) (sect e) 0
    | .error _ => false
  s.headHeld slot || (!(s.noneHeld && !s.anyPin && s.soundUp) && allEngs.any held)

/-- Cores below this one have had their turn in this cycle. -/
def State.servedTo (s : State) : Nat := if s.sched.served.1 == s.cyc.toNat + 1 then s.sched.served.2 + 1 else 0

/-- Core `c` requests, and its choice would give it a task. -/
def State.wouldTake (s : State) (c : Nat) : Bool :=
  s.allowed c && (s.core c).stage.isNone &&
  (match s.reserved c with
    | some u => (u.1.zip u.2).any (fun x => x.1 == c && s.isReady x.2 && s.ctxValid (s.slotCtx x.2))
    | none => (s.pickLevel c 8).isSome)

/-- Requests of one cycle are served in ascending core number (R185): a core whose turn is past waits for the next, and one waits for
each lower core that still takes a task. -/
def State.mayServe (s : State) (c : Nat) : Bool :=
  s.servedTo ≤ c && !(List.range c).any (fun b => s.servedTo ≤ b && s.wouldTake b)

/-- One request of core `c`. -/
def State.choose (s : State) (c : Nat) : State :=
  let begun : State := { s with sched := { s.sched with served := (s.cyc.toNat + 1, c) } }
  let stage (s : State) (slot : Nat) : State := if s.headHeld slot then begun else s.stageOn c slot
  if !s.mayStage || !s.allowed c || (s.core c).stage.isSome || !s.mayServe c then s
  else
    let s := begun
    match s.reserved c with
    | some u =>
      match (u.1.zip u.2).find? (fun x => x.1 == c) with
      | some (_, slot) => if s.isReady slot && s.ctxValid (s.slotCtx slot) then stage s slot else s
      | none => s
    | none =>
      match s.pickLevel c 8 with
      | none => s
      | some (slot, s) =>
        if s.slotGang slot then
          let u := (s.gangUnit slot c, s.gangSlots slot)
          let s := { s with sched := { s.sched with units := s.sched.units ++ [u] } }
          match (u.1.zip u.2).find? (fun x => x.1 == c) with
          | some (_, mine) => stage s mine
          | none => s
        else stage s slot

def execChoose (core : Nat) (s : State) : Host.Outcome State Fault Refusal := .next (if s.partHeld then s else s.choose core)

-- aging (R186)

/-- A task that has waited AGE cycles in READY, or since its last rise, rises one level. -/
def State.ageTask (s : State) (slot : Nat) : State :=
  match s.info slot with
  | some t =>
    if s.host.polage != 0 && s.isReady slot && s.slotPrio slot < 7 && t.rise + s.host.polage.toNat ≤ s.cyc.toNat then
      (s.setRecWord slot 0x20 (setBits (s.recWord slot 0x20) 48 4 (s.slotPrio slot + 1))).modInfo slot
        (fun t => { t with rise := s.cyc.toNat })
    else s
  | none => s

/-- Every task whose AGE cycles have passed rises in that cycle. -/
def State.ageAll (s : State) : State := s.sched.tasks.foldl (fun s x => s.ageTask x.1) s

def execAgingRise (slot : Nat) (s : State) : Host.Outcome State Fault Refusal := .next (s.ageTask slot)

end Sys2Proof.Machine
end

