-- ==== Sys2Proof/Machine/Dispatcher.lean ====
section
/-! DEFINITION. Dispatch: setting a task up from its record, fresh or from a save (01 R8, 06 R87, 09 R145, 10 R173, R174, R184, 11
R197, 18 R322), and the requeueing of its saved commands (16 R298). -/

namespace Sys2Proof.Machine

-- streams

/-- Walk from a header to section `n` (01 R15): where its header lies, or the first header that cannot be passed. -/
def State.walkTo (s : State) (c : Nat) (e : Eng) : Nat → Nat → Nat
  | 0, hdr => hdr
  | n + 1, hdr =>
    match s.lenAt c e hdr with
    | some 0 => hdr
    | some len => State.walkTo s c e n (hdr + 8 + 12 * len)
    | none => hdr

/-- The scalar registers of a fresh dispatch (R8). -/
def freshRegs (c0 c1 : Word) (tile : Nat) (arg : Word) : Store SVal :=
  [(1, .clean c0), (2, .clean c1), (3, .clean (BitVec.ofNat 64 tile)), (4, .clean (BitVec.ofNat 64 (refOff arg))),
   (5, .clean (BitVec.ofNat 64 (refBuf arg)))]

/-- An engine of a fresh dispatch, before resume section `res` (R173); the header is set once the task's streams can be
read. -/
def Engine.fresh (regs : Store SVal) (phtm : Word) (res cyc : Nat) : Engine :=
  if res = 0xFFFF then
    { Engine.reset with regs := regs, phase := .finished, csr := { Csrs.reset with phtm := phtm }, arrived := some (0, cyc + 1) }
  else
    { Engine.reset with regs := regs, phase := .entering, csr := { Csrs.reset with phtm := phtm }
                        sect := { Sect.reset with num := res, base := 8 }, pc := 8
                        hwm := if res = 0 then 0xFFFF else BitVec.ofNat 16 (res - 1) }

-- scratchpad bytes that become unspecified

/-- Bytes `from_` to `to_` - 1 of a scratchpad hold unspecified data (LOG 3). -/
def State.forget (s : State) (c from_ to_ : Nat) : State :=
  let n := to_ - from_
  let m := s.mem.writeN (spadKey c from_) ((List.range n).map (fun i => Config.freeByte (s.free + i)))
  { s with mem := m, free := s.free + n }

-- the task

def State.newTask (s : State) (slot : Nat) (gang : Option Nat) : RunTask :=
  let n := s.slotLrec slot
  let code := s.recWord slot 0x00
  let w30 := s.lrecWord n 0x30
  let t := s.info slot
  { slot := slot, lrec := BitVec.ofNat 16 n, tile := BitVec.ofNat 32 (s.slotTile slot)
    rank := BitVec.ofNat 32 (bitsOf (s.lrecWord n 0x48) 0 32 + s.slotTile slot)
    nrank := BitVec.ofNat 32 (bitsOf (s.lrecWord n 0x48) 32 32)
    q := (t.map TaskInfo.q).getD [], bind := t.bind TaskInfo.bind
    cbuf := BitVec.ofNat 16 (bitsOf code 0 16), coff := bitsOf code 16 40, streams := []
    gang := gang, sg := BitVec.ofNat 2 (bitsOf w30 13 2), livev := bitsOf w30 0 10, matlive := bitsOf w30 10 1 == 1
    carry := (s.recWord slot 0x28, s.recWord slot 0x30), halting := false, killing := false, delivery := [], request := none
    saving := false }

/-- The stream offsets in the code image header, read in the task's context. -/
def State.readStreams (s : State) (c : Nat) (t : RunTask) : State :=
  let (s, r) := s.code c t.cbuf.toNat t.coff 8
  match r with
  | .ok bs => s.modTask c (fun t => { t with streams := (List.range 4).map (fun i =>
      bitsOf (leWord ((bs.drop (8 * i)).take 8)) 0 40) })
  | .error _ => s.modTask c (fun t => { t with streams := [0, 0, 0, 0] })

/-- The state of a core that the task finds there whatever it was: its context's registers (R174), the L1 share (11 R197), the
filter cleared (12 R229), an acquire at `.pkg` (13 R253). -/
def State.bindCore (s : State) (c slot : Nat) : State :=
  let ctx := s.slotCtx slot
  let split := BitVec.ofNat 2 (bitsOf (s.lrecWord (s.slotLrec slot) 0x30) 11 2)
  let old := (s.core c).spadLen
  let s := (s.release c).acquireL1 c 3
  let s := s.modCore c (fun k => { k with
    ctx := BitVec.ofNat 16 ctx
    btbase := BitVec.ofNat 35 (bitsOf (s.ctxWord ctx 0) 21 35)
    btlast := BitVec.ofNat 16 (bitsOf (s.ctxWord ctx 0) 0 16)
    ptroot := BitVec.ofNat 44 (bitsOf (s.ctxWord ctx 1) 12 44)
    l1split := split
    filter := []
    fsat := false })
  let new := (s.core c).spadLen
  if old < new then s.forget c old new else s

-- the record at dispatch

/-- GEN rises, the watch ends, SAVED is taken, STATE is RUNNING (R169, R177). -/
def State.recordRun (s : State) (slot : Nat) : State :=
  let w := s.recWord slot 0x38
  let s := s.setRecWord slot 0x38 (setBits (setBits w 24 24 0) 48 16 (s.recGen slot + 1))
  let s := s.setRecWord slot 0x00 (setBits (s.recWord slot 0x00) 56 1 0)
  (s.setRecState slot tRunning 0).modInfo slot (fun t =>
    { t with watch := none, notCore := none, resident := false, fault := none, home := none })

-- fresh and resumed set-up

/-- A core at a fresh dispatch: four engines, vector data and accumulators unspecified (R87, R145). -/
def Core.freshFor (k : Core) (t : RunTask) (eng : Eng → Engine) (mstb : Word) (free : Nat) : Core :=
  Core.scramble { k with
    task := some t
    stage := none
    eL := eng .L
    eM := eng .M
    eX := eng .X
    eS := eng .S
    occ := []
    resv := []
    p := []
    active := Plane.reset
    preload := Plane.reset
    scaleQ := []
    mcfg := 0
    mkp := 0
    mstb := mstb
    flight := [] } free 0 true

def State.startFresh (s : State) (c slot : Nat) (t : RunTask) : State :=
  let n := s.slotLrec slot
  let regs := freshRegs t.carry.1 t.carry.2 t.tile.toNat (s.recWord slot 0x10)
  let eng (e : Eng) : Engine :=
    Engine.fresh regs (s.lrecWord n 0x40) (bitsOf (s.recWord slot 0x08) (16 * engIdx e) 16) s.cyc.toNat
  let s := s.modCore c (fun k => k.freshFor t eng (s.lrecWord n 0x38) s.free)
  let s := ({ s with free := s.free + scrambleUse }).orphanCmds slot
  let s := s.readStreams c t
  allEngs.foldl (fun s e =>
    let hdr := s.walkTo c e (s.eng c e).sect.num 0
    s.modEng c e (fun g => { g with sect := { g.sect with hdr := hdr, base := BitVec.ofNat 16 (hdr + 8) }, pc := BitVec.ofNat 16 (hdr + 8) })) s

/-- A saved command is queued again on the core's quad after checks 1 to 5, once its queue has room and no table that they read is in
exchange; it is then a command of the resumed task's gang (16 R287, R293, R297, R298). -/
def State.requeue (s : State) (c slot : Nat) (no : Nat) (x : Cmd) : State :=
  if !s.queueRoom c x.kind 0 || s.rangesHeld (s.whoEng c) (cmdRanges x.kind x.ops x.desc x.bo) then s.setCmd no { x with core := c }
  else
  let (s, r) := s.rangesOk (s.whoEng c) (cmdRanges x.kind x.ops x.desc x.bo)
  match r with
  | none =>
    let targets := if x.kind = kFill then x.targets else x.targets.map (fun t => (c, t.2.1, t.2.2))
    let y := { x with core := c, hold := false, st := csQueued, targets := targets, gang := (s.core c).task.bind RunTask.gang }
    (s.setCmd no y).modInfo slot (fun t =>
      { t with cmds := t.cmds.put x.tag { st := csQueued, kind := x.kind, err := 0, doneb := x.doneb, cmd := no } })
  | some (f, buf) =>
    let s := s.post (x.abortEv (x.targets.headD (0, 0, 0)).2.2 f buf)
    ({ s with coll := { s.coll with cmds := s.coll.cmds.del no } }).modInfo slot (fun t =>
      { t with cmds := t.cmds.put x.tag { st := csAborted, kind := x.kind, err := f.fail.cause, doneb := x.doneb, cmd := no } })

/-- The commands of a task that resumes: those of the ferry and of the collective engine were never saved (16 R298), and one that was
saved as FAULTED waits for its service (R299). -/
def State.requeueAll (s : State) (c slot : Nat) : State :=
  let gang := (s.core c).task.bind RunTask.gang
  let cmds := s.coll.cmds.map (fun x => (x.1, if x.2.slot == slot && !x.2.hold then { x.2 with gang := gang } else x.2))
  let progs := s.coll.progs.map (fun x => (x.1, if x.2.slot == slot then { x.2 with gang := gang } else x.2))
  let s := { s with coll := { s.coll with cmds := cmds, progs := progs } }
  (s.coll.cmds.filter (fun x => x.2.slot == slot && x.2.hold && x.2.st != csFaulted)).foldl (fun s x => s.requeue c slot x.1 x.2) s

/-- The saved commands of a slot, as its save block at `block` has them (16 R298, 18 R321). -/
def State.readCmds (s : State) (slot block : Nat) : State :=
  let one (x : Nat × Cmd) : Nat × Cmd :=
    if x.2.slot == slot && x.2.hold then (x.1, x.2.ofImage (fun i => s.partWord (block + 0x9000 + 64 * x.2.tag + 8 * i))) else x
  { s with coll := { s.coll with cmds := s.coll.cmds.map one } }

/-- An engine of a restored task stands before the section and the word that its image names (R322). -/
def State.findSect (s : State) (c : Nat) (e : Eng) : State :=
  let hdr := s.walkTo c e (s.eng c e).sect.num 0
  s.modEng c e (fun g =>
    let at_ : Sect := { g.sect with hdr := hdr, base := BitVec.ofNat 16 (hdr + 8) }
    if g.phase == .entering then { g with sect := at_, target := at_.wordOf g.pc } else { g with sect := at_ })

/-- Restore a save (R322): the items of the image on the core as it stands, mstb moved by the image's G for a gang. -/
def State.startSaved (s : State) (c slot : Nat) (t : RunTask) (own : Core) : State :=
  let block := (s.partWord (s.dirAddr slot)).toNat
  let k := own.ofImage (s.partImage block 0x400000) block
  let s := s.modCore c (fun o => { k with
    task := some { t with halting := (own.task.map RunTask.halting).getD false }, stage := none, resv := [], flight := []
    mstb := if t.gang.isSome then k.mstb - s.partWord (block + 8) else k.mstb
    halves := o.halves, ctx := o.ctx, btbase := o.btbase, btlast := o.btlast, ptroot := o.ptroot, l1split := o.l1split,
    l1 := o.l1, wq := o.wq, filter := o.filter, fsat := o.fsat, tlb := o.tlb, bufc := o.bufc, codeQ := o.codeQ })
  let s := allEngs.foldl (fun s e => s.findSect c e) (s.readStreams c t)
  let s := ((s.readCmds slot block).requeueAll c slot).giveBlock block
  s.modInfo slot (fun t => { t with saved := none })

/-- The staged task moves into the run slot. -/
def State.start (s : State) (c slot : Nat) (gang : Option Nat) : State :=
  let t := s.newTask slot gang
  let s := s.bindCore c slot
  let saved := (s.info slot).bind TaskInfo.saved
  let wasSaved := s.slotSaved slot
  let s := s.modCore c (fun k => { k with codeQ := (k.codeQ.filter (fun x => x.1 < 4)).map (fun x => (x.1 + 4, x.2)) })
  let s := s.recordRun slot
  match wasSaved, saved with
  | true, some k => s.startSaved c slot t k
  | _, _ => s.startFresh c slot t

/-- A staged core whose run slot is empty. -/
def State.canStart (s : State) (c : Nat) : Bool :=
  (match (s.core c).stage with
    | some slot => !s.startHeld slot
    | none => false) && (s.core c).task.isNone && s.allowed c && s.dispatchOn

/-- A gang starts whole, in one cycle (R183); its GSC is 0 (09 R151). -/
def State.startGang (s : State) (u : List Nat × List Nat) : State :=
  let n := s.sched.gangNo
  let shape := match u.2 with
    | slot :: _ => s.lrecSg (s.slotLrec slot)
    | [] => 0
  let g : Gang := { cores := u.1, gsc := 0, slip := [], stall := false, g := none, shape := BitVec.ofNat 2 shape,
                    pod := none, ended := [], late := [], held := [], away := [] }
  let s := { s with sched := { s.sched with gangs := s.sched.gangs.put n g, gangNo := n + 1
                                            units := s.sched.units.filter (fun x => x != u) } }
  (u.1.zip u.2).foldl (fun s x => s.start x.1 x.2 (some n)) s

def State.dispatch (s : State) (c : Nat) : State :=
  match (s.core c).stage with
  | none => s
  | some slot =>
    if !s.canStart c then s
    else match s.reserved c with
      | some u => if u.2.contains slot then (if u.1.all s.canStart then s.startGang u else s) else s.start c slot none
      | none => s.start c slot none

def execDispatch (core : Nat) (s : State) : Host.Outcome State Fault Refusal := .next (if s.partHeld then s else s.dispatch core)

end Sys2Proof.Machine
end

