-- ==== Sys2Proof/Machine/Reuse.lean ====
section
/-! DEFINITION. Reuse classes (14 R263 to R268) and the words LPATCH, LARM, RCHK and RINV (10 R181, R182, 14 R278 to R280). -/

namespace Sys2Proof.Machine

-- class entries (R264)

/-- The eight words of a class entry. -/
structure RClass where
  ws : List Word

def RClass.field (x : RClass) (word lo n : Nat) : Nat := bitsOf (x.ws.getD word 0) lo n
def RClass.thr (x : RClass) : Nat := x.field 0 32 32
def RClass.nbr (x : RClass) : Nat := x.field 0 16 8
def RClass.kmax (x : RClass) : Nat := x.field 0 8 8
def RClass.mode (x : RClass) : Nat := x.field 0 4 2
def RClass.ktype (x : RClass) : Nat := x.field 0 2 2
def RClass.relmax (x : RClass) : Bool := x.field 0 1 1 == 1
def RClass.ogen (x : RClass) : Nat := x.field 1 32 32
def RClass.floor (x : RClass) : Nat := x.field 1 0 32
def RClass.koff (x : RClass) : Int := readInt true 48 (x.field 2 16 48)
def RClass.kbuf (x : RClass) : Nat := x.field 2 0 16
def RClass.kpitch (x : RClass) : Nat := x.field 3 32 32
def RClass.ktstr (x : RClass) : Nat := x.field 3 0 32
def RClass.nlay (x : RClass) : Nat := x.field 4 48 16
def RClass.tpl (x : RClass) : Nat := x.field 4 32 16
def RClass.kcols (x : RClass) : Nat := x.field 4 16 16
def RClass.krows (x : RClass) : Nat := x.field 4 0 16
def RClass.ebuf (x : RClass) : Nat := x.field 5 0 16
def RClass.eoff (x : RClass) : Nat := x.field 5 16 48
def RClass.abuf (x : RClass) : Nat := x.field 6 0 16
def RClass.aoff (x : RClass) : Nat := x.field 6 16 48
def RClass.lbuf (x : RClass) : Nat := x.field 7 0 16
def RClass.loff (x : RClass) : Nat := x.field 7 16 48
/-- Bytes of a key element. -/
def RClass.es (x : RClass) : Nat := if x.ktype = 0 then 4 else 2

/-- A NaN, an infinity or a negative FP32 code. -/
def f32Bad (x : Nat) : Bool := x / 2 ^ 23 % 256 == 255 || (x / 2 ^ 31 == 1 && x % 2 ^ 31 != 0)

/-- The entry of a buffer under checks 1 and 2 alone. -/
def State.entryOf (s : State) (w : Who) (n : Nat) : State × Except Fail Desc :=
  if n == 0 then (s, .ok (s.core w.core).spad)
  else if n > w.btlast then (s, .error (fBounds 1))
  else
    let (s, r) := s.bufEntry w n
    match r with
    | .error f => (s, .error f)
    | .ok d => (s, if d.valid then .ok d else .error (fBounds 2))

/-- Conditions 1 to 4 of R265. -/
def RClass.bad4 (x : RClass) : Option Nat :=
  if x.field 0 0 1 == 0 || x.field 0 24 8 != 0 || x.field 0 6 2 != 0 || x.mode ≥ 2 || x.ktype == 3 then some 1
  else if f32Bad x.thr || f32Bad x.floor then some 2
  else if x.nbr == 0 || x.tpl == 0 || x.nlay == 0 || x.krows == 0 || x.kcols == 0 then some 3
  else if x.krows * x.kcols * x.es > 2 ^ 20 then some 4
  else none

def Desc.may (d : Desc) (need : Need) : Bool := d.view == 0 && d.grants need

/-- Conditions 5 to 8 over the entries of EBUF, ABUF, LBUF and KBUF. -/
def bad8 (sg : Nat) (x : RClass) (e a l k : Except Fail Desc) : Option Nat :=
  let inH (d : Except Fail Desc) : Bool := match d with
    | .ok d => d.layer == 0
    | .error _ => false
  let shoal (d : Except Fail Desc) : Bool := match d with
    | .ok d => d.layer == 1 || d.layer == 2
    | .error _ => false
  let lacks (d : Except Fail Desc) (p : Desc → Bool) : Bool := match d with
    | .ok d => !p d
    | .error _ => false
  if !inH e || !inH l then some 5
  else if x.kbuf == 0 || x.abuf == 0 then some 6
  else if (shoal k || shoal a) && sg == 0 then some 7
  else if lacks e (fun d => d.may .read && d.may (.atomic false)) || lacks a (fun d => d.may .read && d.may .write) ||
    lacks l (fun d => d.may (.log true)) || lacks k (fun d => d.grants .read) then some 8
  else none

/-- What reading a class finds; `bad` is the first failing condition of R265. -/
inductive ClassRead where
  | ok (x : RClass)
  | bad (x : RClass) (cond : Nat)
  | fault (f : Fail)

def isTransl (d : Except Fail Desc) : Bool := match d with
  | .error f => f.cause == 1
  | .ok _ => false

/-- The eight words of a class entry, read afresh (R263). -/
def State.classWords (s : State) (w : Who) (n : Nat) : State × Except Fail (List Word) :=
  let (s, r) := s.locate w 0 3 .read (w.btbase + 0x200000 + 64 * n)
  match r with
  | .error f => (s, .error f)
  | .ok (key, _) =>
    let (s, bs) := s.homeRead (w.kid.getD 0) ((List.range 64).map (fun i => key + i))
    (s, .ok ((List.range 8).map (fun i => leWord ((bs.drop (8 * i)).take 8))))

/-- Conditions 1 to 8 on a class entry that was read. -/
def State.judgeClass (s : State) (w : Who) (sg : Nat) (ws : List Word) : State × ClassRead :=
  let x : RClass := { ws := ws }
  match x.bad4 with
  | some c => (s, .bad x c)
  | none =>
    let (s, e) := s.entryOf w x.ebuf
    let (s, a) := s.entryOf w x.abuf
    let (s, l) := s.entryOf w x.lbuf
    let (s, k) := s.entryOf w x.kbuf
    if [e, a, l, k].any isTransl then (s, .fault fTransl)
    else match bad8 sg x e a l k with
      | some c => (s, .bad x c)
      | none => (s, .ok x)

/-- The class entry and what its conditions find. -/
def State.readClass (s : State) (w : Who) (n sg : Nat) : State × ClassRead :=
  match s.classWords w n with
  | (s, .error f) => (s, .fault f)
  | (s, .ok ws) => s.judgeClass w sg ws

/-- The entry index (R266): layer and branch of the launch record, tile of the record. -/
def State.entryIndex (s : State) (x : RClass) (lrec tile : Nat) : Option Nat :=
  let layer := bitsOf (s.lrecWord lrec 0x50) 0 16
  let branch := bitsOf (s.lrecWord lrec 0x50) 16 8
  if layer < x.nlay && branch < x.nbr && tile < x.tpl then some ((layer * x.nbr + branch) * x.tpl + tile) else none

/-- Every entry with the record's layer and branch (R280). -/
def State.entryIndices (s : State) (x : RClass) (lrec : Nat) : List Nat :=
  match s.entryIndex x lrec 0 with
  | some i => (List.range x.tpl).map (fun t => i + t)
  | none => []

def entryForm (need : Need) : Form := { need := need, es := 8, align := 8, noView := true }

-- RCHK and RINV

/-- d of a failed RCHK or RINV (R279, R280). -/
def statusWord (st : Nat) : Word := mkWord [(56, 8, st)]

/-- The steps that RCHK and RINV share (R278): a status, a fault of a read, or the class. -/
def State.reuseSteps (s : State) (a : Word) (fail : State → Nat → Eff) (ok : State → RClass → Eff) : Eff :=
  let st := s.lrecStatus a s.curCore.ctx.toNat
  let n := a.toNat
  if st == 1 || st == 2 then fail s st
  else if s.lrecClass n == 0 then fail s 8
  else if s.partHeld then .wait s s.partCode
  else if !s.noneHeld && (s.vaKeys s.whoCur (s.whoCur.btbase + 0x200000 + 64 * s.lrecClass n)).any s.ferried then
    .wait s (s.heldCode (s.vaKeys s.whoCur (s.whoCur.btbase + 0x200000 + 64 * s.lrecClass n)))
  else
    let (s, r) := s.readClass s.whoCur (s.lrecClass n) (s.lrecSg n)
    match r with
    | .fault f => .fault s { fail := f, elem := 0, off := 0 } 0
    | .bad _ _ => fail s 9
    | .ok x => ok s x

def giveScalar (d : SDst) (v : SVal) (s : State) : Eff := .done (s.swr d v) (some (.sc v)) 0 .next

def rchkEff (d : SDst) (a b : Word) (s : State) : Eff :=
  s.reuseSteps a (fun s st => giveScalar d (.clean (statusWord st)) s) (fun s x =>
    match (if bitsOf b 32 32 != 0 then none else s.entryIndex x a.toNat b.toNat) with
    | none => giveScalar d (.clean (statusWord 10)) s
    | some i => s.memEff .none x.ebuf (entryForm .read) [((x.eoff + 32 * i : Nat) : Int)] false (fun ps s =>
        let (s, bs) := s.loadPlaces s.cur.1 s.curKid ps.flatten
        giveScalar d (if firstBad bs != 0 then .bad (firstBad bs)
          else .clean (mkWord [(0, 48, bitsOf (leWord (bs.map (fun x => x.1))) 0 48)])) s))

/-- Word 0 of an entry that RINV leaves (R280). -/
def invalidated (w : Word) : Word := setBits (setBits (setBits w 40 1 0) 42 1 0) 32 8 0

/-- One atomic write of an entry at home; uncorrectable storage is left as it is, with an event (12 R238). -/
def State.invalidate (s : State) (kid key buf off : Nat) : State :=
  let s := (s.toHome s.cur.1 (lineOf key)).reach [lineOf key]
  if s.badAt key != 0 then s.memErr (s.taskEv s.cur.1 { kind := 6, eng := engIdx s.cur.2, pc := s.curEng.pc.toNat }) buf off
  else
    let w := invalidated (leWord ((List.range 8).map (fun i => s.plain kid (key + i))))
    s.putHome kid (natCells key 8 w.toNat)

/-- RINV on the entries it names, once its engine's earlier accesses are performed (R280). -/
def rinvThen (d : SDst) (a b : Word) (s : State) : Eff :=
  s.reuseSteps a (fun s st => giveScalar d (.clean (statusWord st)) s) (fun s x =>
    let all := b == BitVec.allOnes 64
    let which := if all then some (s.entryIndices x a.toNat)
      else if bitsOf b 32 32 != 0 then none
      else (s.entryIndex x a.toNat b.toNat).map (fun i => [i])
    match which with
    | none => giveScalar d (.clean (statusWord 10)) s
    | some is => s.memEff .none x.ebuf (entryForm (.atomic false)) (is.map (fun i => ((x.eoff + 32 * i : Nat) : Int))) true
        (fun ps s => giveScalar d (.clean 0) ((ps.zip is).foldl (fun s p => (s.noteAtomic (p.1.take 8)).invalidate s.curKid (keyOf [p.1]) x.ebuf (x.eoff + 32 * p.2)) s)))

def rinvEff (d : SDst) (a b : Word) (s : State) : Eff :=
  let s := s.releaseAt s.cur.1 s.cur.2 3 0xF
  if s.released s.cur.1 3 0xF then rinvThen d a b s else .wait s rFence

-- LPATCH and LARM

def lpatchEff (sel : Nat) (d : SDst) (a b : Word) (s : State) : Eff :=
  let st := s.patchStatus a b sel s.curCore.ctx.toNat
  if s.partHeld then .wait s s.partCode
  else giveScalar d (.clean (BitVec.ofNat 64 st)) (if st == 0 then s.patch a.toNat sel b else s)

/-- LARM (R182): the status, the read of DBO, then the records, which take the arming task's binding (R193). -/
def larmEff (d : SDst) (a : Word) (s : State) : Eff :=
  let c := s.cur.1
  let e := s.cur.2
  let st := s.armStatus a s.curCore.ctx.toNat
  let n := a.toNat
  if s.partHeld then .wait s s.partCode
  else if st != 0 then giveScalar d (.clean (BitVec.ofNat 64 st)) s
  else
    let s := s.releaseAt c e 3 0xF
    if !s.released c 3 0xF then .wait s rFence
    else if s.lrecTiles n == 0 then giveScalar d (.clean 0) s
    else
      let (s, r) := s.readDbo c n (s.taskEv c { kind := 6, eng := engIdx e, pc := (s.eng c e).pc.toNat })
      let go (home : Option (Nat × Nat)) : Eff :=
        let bind := (s.core c).task.bind RunTask.bind
        let q := match bind with
          | some b => (s.seq b).q
          | none => []
        giveScalar d (.clean 0) ((s.acquireAt c e 3 0xF).armRecords n bind q home)
      match r with
      | .fault x buf => .fault s x buf
      | .held reason => .wait s reason
      | .none => go none
      | .at_ key st => go (some (key, st))

-- the words

def execLpatch (h : Hdr) (sel : BitVec 4) (d : SDst) (a b : SSrc) : State → Host.Outcome State Fault Refusal :=
  performWord (.lpatch h sel d a b) (fun _ s => lpatchEff sel.toNat d (s.srd a).val (s.srd b).val s)
def execLarm (h : Hdr) (d : SDst) (a : SSrc) : State → Host.Outcome State Fault Refusal :=
  performWord (.larm h d a) (fun _ s => larmEff d (s.srd a).val s)
def execRchk (h : Hdr) (d : SDst) (a b : SSrc) : State → Host.Outcome State Fault Refusal :=
  performWord (.rchk h d a b) (fun _ s => rchkEff d (s.srd a).val (s.srd b).val s)
def execRinv (h : Hdr) (d : SDst) (a b : SSrc) : State → Host.Outcome State Fault Refusal :=
  performWord (.rinv h d a b) (fun _ s => rinvEff d (s.srd a).val (s.srd b).val s)

end Sys2Proof.Machine
end

