-- ==== Sys2Proof/Machine/Tasks.lean ====
section
/-! DEFINITION. How a task leaves its core: written back (10 R175 to R177), saved (18 R317 to R321), ended (10 R178, 14 R272) or
killed (18 R313). -/

namespace Sys2Proof.Machine

-- stopping (R175)

/-- Engines that have stopped by their own word or are finished, then those that wait for one of them. -/
def State.stoppedEngs (s : State) (c : Nat) : Nat → List Eng
  | 0 => allEngs.filter (fun e =>
      let g := s.eng c e
      g.sup.isNone && g.grp.isNone && !g.page && (g.stopped.isSome || g.phase == .finished))
  | n + 1 =>
    let before := State.stoppedEngs s c n
    allEngs.filter (fun e =>
      before.contains e ||
      (let g := s.eng c e
       g.sup.isNone && g.grp.isNone && !g.page && g.phase == .entering && !s.unretired c e && (s.awaits c e).any before.contains))

/-- All four engines have stopped under R175. -/
def State.allStopped (s : State) (c : Nat) : Bool := (s.stoppedEngs c 4).length == 4

/-- The carry engine: the lowest that retired a suspension word. -/
def State.carryEng (s : State) (c : Nat) : Option (Eng × Flow) :=
  firstSome (allEngs.map (fun e => (s.eng c e).stopped.map (fun f => (e, f))))

def State.allFinished (s : State) (c : Nat) : Bool :=
  allEngs.all (fun e => let g := s.eng c e; g.phase == .finished && g.sup.isNone && g.grp.isNone && !g.page)

-- records

/-- The resume section an engine leaves (R175). -/
def Engine.resumeNo (g : Engine) : Nat := if g.phase == .finished then 0xFFFF else g.sect.num % 65536

/-- Words 0x08 and, with the carry engine, 0x28 and 0x30; GEN rises. -/
def State.recordStop (s : State) (c slot : Nat) (carry : Option Eng) (saved : Bool) : State :=
  let eng (e : Eng) : Engine := (s.eng c e).leaveSup
  let s1 := s.setRecWord slot 0x08 (mkWord (allEngs.map (fun e => (16 * engIdx e, 16, (eng e).resumeNo))))
  let s2 := match carry with
    | some e => (s1.setRecWord slot 0x28 ((eng e).reg 1).val).setRecWord slot 0x30 ((eng e).reg 2).val
    | none => s1
  let s3 := s2.setRecWord slot 0x00 (setBits (s2.recWord slot 0x00) 56 1 (if saved then 1 else 0))
  s3.setRecWord slot 0x38 (setBits (s3.recWord slot 0x38) 48 16 (s3.recGen slot + 1))

/-- The STATE that the carry engine's word gives (R175 to R177). -/
def State.stopState (s : State) (c slot : Nat) (f : Flow) : State :=
  match f with
  | .suspend (some (phase, key, noted)) =>
    let st := if phase then tWaitBo1 else tWaitBo0
    let s := (s.setRecState slot st rBo.toNat).modInfo slot (fun t =>
      { t with home := some key, boRef := s.recWord slot 0x30, boNoted := noted })
    if s.boLetsGo key st then s.enterReady slot else s
  | .yield => (s.enterReady slot).modInfo slot (fun t => { t with notCore := some c })
  | .sleep =>
    if s.soundSleep c then s.setRecState slot tSleeping rWatch.toNat else s.enterReady slot
  | _ => s.enterReady slot

/-- COOL takes effect once no task runs (20 R343). -/
def State.coolDown (s : State) : State :=
  if s.cryo.st == 1 && s.cryo.cmd == 1 && !s.cores.any (fun x => x.2.task.isSome) then
    { s with cryo := { s.cryo with st := 2, cmd := 0 } }
  else s

/-- The core is empty; a gang without tasks is gone. A member that has not ended is away (R167). -/
def State.leaveCore (s : State) (c : Nat) (gang : Option Nat) (ended : Bool) : State :=
  let s := (s.modCore c Core.vacate).coolDown
  match gang with
  | none => s
  | some n =>
    let left := s.cores.any (fun x => (x.2.task.bind RunTask.gang) == some n)
    if left then s.modGang n (fun g => { g with ended := if ended then g.ended.put c (s.cyc.toNat + 1) else g.ended, slip := g.slip.del c,
                                                away := if ended then g.away else c :: g.away })
    else { s with sched := { s.sched with gangs := s.sched.gangs.del n } }

-- write-back

def State.writeBack (s : State) (c : Nat) : State :=
  match (s.core c).task with
  | none => s
  | some t =>
    match s.carryEng c with
    | none => s
    | some (e, f) =>
      if t.halting || t.killing || !t.delivery.isEmpty || !s.allStopped c || !(s.core c).flight.isEmpty then s
      else
        let s := s.release c
        if !s.released c 3 0xF then s
        else
          let s := (s.recordStop c t.slot (some e) false).stopState c t.slot f
          (s.modInfo t.slot (fun x => { x with resident := false, request := none, late := false })).leaveCore c t.gang false

def execWriteBack (core : Nat) (s : State) : Host.Outcome State Fault Refusal := .next (if s.partHeld then s else s.writeBack core)

-- pre-emption (R317)

/-- Open a request on the task of core `c`. -/
def State.request1 (s : State) (c : Nat) : State :=
  match (s.core c).task with
  | none => s
  | some t =>
    if t.request.isSome then s
    else (s.modTask c (fun t => { t with request := some s.cyc.toNat })).modInfo t.slot (fun x =>
      { x with request := some s.cyc.toNat, late := false })

/-- A request to one member is a request to the whole gang, whose GSC is frozen at G. -/
def State.requestCore (s : State) (c : Nat) : State :=
  match (s.core c).task with
  | none => s
  | some t =>
    match t.gang with
    | none => s.request1 c
    | some n =>
      let members := (s.cores.filter (fun x => (x.2.task.bind RunTask.gang) == some n)).map (fun x => x.1)
      members.foldl (fun s x => s.request1 x) (s.modGang n (fun g =>
        if g.g.isSome then g else { g with g := some g.gsc }))

/-- The core whose run slot holds a slot. -/
def State.coreOf (s : State) (slot : Nat) : Option Nat :=
  (s.cores.filter (fun x => (x.2.task.map RunTask.slot) == some slot)).head?.map (fun x => x.1)

def execPreemptRequest (slot : Nat) (s : State) : Host.Outcome State Fault Refusal :=
  match s.coreOf slot with
  | some c => .next (s.requestCore c)
  | none => .next s

-- save (R320, R321)

/-- An engine stands at a point of R318 or R175. -/
def Engine.halted (g : Engine) : Bool :=
  g.grp.isNone && g.sup.isNone && !g.page && g.slept.isNone && (g.parked || g.stopped.isSome || g.phase == .finished)

/-- An engine stands before a group, or has delivered. -/
def Engine.stands (g : Engine) (t : RunTask) (e : Eng) : Bool :=
  g.grp.isNone && !g.page && (g.sup.isNone || t.delivering e)

/-- A member of the task's gang has a page fault in service (R317). -/
def State.gangPaging (s : State) (t : RunTask) : Bool :=
  match t.gang.bind (fun n => s.sched.gangs.find? n) with
  | some g => g.stall
  | none => false

inductive SaveWhy where
  | request | fault

/-- Why the task of core `c` can be saved now. Under HALT only a page fault of an issued group is saved, to be serviced
before the task ends (04 R74); a KILL does not stop a save under way (R328); a task waits with the events it posts (R314). -/
def State.saveNow (s : State) (c : Nat) (t : RunTask) : Option SaveWhy :=
  if !(s.core c).flight.isEmpty || s.heldEvent t.slot || (t.killing && !t.saving) ||
     (t.halting && !t.delivery.any Delivery.page) then none
  else if !t.delivery.isEmpty then
    if allEngs.all (fun e => (s.eng c e).stands t e) && s.evq.roomFor (t.delivery.filter (fun d => !d.page)).length then some .fault
    else none
  else if t.request.isSome && allEngs.all (fun e => (s.eng c e).halted) && !s.allStopped c && !s.gangPaging t then some .request
  else none

/-- The TASKFLT event of one delivery (R307, R308). -/
def State.postFault (s : State) (c : Nat) (d : Delivery) : State :=
  if d.page then s
  else s.post (s.taskEv c { kind := 2, cause := d.cause.toNat, eng := d.eng, detail := d.detail, pc := d.pc.toNat,
                            code := d.code.toNat })

/-- A page fault that was answered before its save leaves the task READY (R313). -/
def State.saveTask (s : State) (c : Nat) (t : RunTask) (why : SaveWhy) (block : Nat) : State :=
  let full := match why with
    | .fault => true
    | .request => false
  let carry := match why with
    | .fault => none
    | .request => s.carryEng c
  let g := ((s.gangOf c).map (fun g => g.g.getD g.gsc)).getD 0
  let count := if full then 768 else Nat.min t.livev 768
  let mat := full || t.matlive
  let k := (s.core c).atRest
  let s := s.partWords (s.dirAddr t.slot) [BitVec.ofNat 64 block]
  let s := s.writeBlock block k count mat full t.gang.isSome g
  let s := (s.coll.cmds.filter (fun x => x.2.slot == t.slot && x.2.kind != kFerry)).foldl (fun s x =>
    s.partWords (block + 0x9000 + 64 * x.2.tag) x.2.saveWords) s
  let kept := (if mat then k else k.dropMatrix).scramble s.free count (!mat)
  let s := { s with free := s.free + scrambleUse }
  let first := t.gang.map (fun _ => (unitOf t.sg.toNat c).headD 0)
  let s := (s.recordStop c t.slot (carry.map (fun x => x.1)) true).modInfo t.slot (fun x =>
    { x with saved := some kept, resident := false, request := none, late := false
             unit := match first with
               | some u => some u
               | none => x.unit })
  let s := s.holdCmds t.slot
  let s := match why with
    | .request => match carry with
      | some (_, f) => s.stopState c t.slot f
      | none => s.enterReady t.slot
    | .fault =>
      let page := t.delivery.all (fun d => d.page)
      if page && ((s.info t.slot).bind TaskInfo.fault).isNone then s.enterReady t.slot
      else
        (t.delivery.foldl (fun (s : State) d => s.postFault c d)
          (s.setRecState t.slot tFaulted (if page then rPage else rFault).toNat)).modInfo t.slot (fun x =>
            { x with fault := some (4 * c + (t.delivery.head?.map Delivery.eng |>.getD 0)) })
  s.leaveCore c t.gang false

-- kill

/-- The event that records a kill (R313). -/
def killEv (i : EvInfo) : EvInfo := { i with kind := 2, code := 0xFFFF }

/-- A task that is on no core ends at once, or once its event has room (R314). -/
def State.killAway (s : State) (slot : Nat) : State :=
  match s.info slot with
  | none => s
  | some t =>
    if s.evq.roomFor 1 && !s.heldEvent slot then
      let s := s.post (killEv (s.heldEv slot { kind := 2 }))
      let s := if t.saved.isSome then s.giveBlock (s.partWord (s.dirAddr slot)).toNat else s
      s.freeSlot slot
    else s.modInfo slot (fun t => { t with dying := true })

/-- A task on its core ends when its engines have stopped. -/
def State.kill (s : State) (slot : Nat) : State :=
  match s.coreOf slot with
  | some c => s.modTask c (fun t => { t with killing := true })
  | none => s.killAway slot

/-- A save happens when every engine has stopped; it acts as a FENCE at `.pkg` and waits for a free block. -/
def State.save (s : State) (c : Nat) : State :=
  match (s.core c).task with
  | none => s
  | some t =>
    match s.saveNow c t with
    | none => s
    | some why =>
      let s := s.release c
      let wait (s : State) : State := s.modTask c (fun t => { t with saving := true })
      if !s.released c 3 0xF || s.cmdsUnder t.slot then wait s
      else match s.takeBlock with
        | none => wait s
        | some (block, s) =>
          let s := s.saveTask c t why block
          if t.killing then s.killAway t.slot else s

def execSave (core : Nat) (s : State) : Host.Outcome State Fault Refusal := .next (if s.partHeld then s else s.save core)

-- the end of a task (R178)

/-- Two agents' waits for page service. -/
def State.addWaiter (s : State) (w : Waiter) : State :=
  if s.sched.waits.contains w then s else { s with sched := { s.sched with waits := s.sched.waits ++ [w] } }
def State.hasWaiter (s : State) (w : Waiter) : Bool := s.sched.waits.contains w

/-- A reuse-class event (R265, R390). -/
def reuseEv (i : EvInfo) (cls cond k : Nat) (index : Option Nat) : EvInfo :=
  { i with kind := 8, detail := mkWord [(0, 6, cls), (8, 4, cond), (32, 32, k)],
           x30 := match index with
             | some n => BitVec.ofNat 64 n
             | none => BitVec.allOnes 64 }

/-- The DONE update of a reuse entry (14 R272); `false` while it waits for page service. -/
def State.doneUpdate (s : State) (c : Nat) (t : RunTask) : State × Bool :=
  match (s.info t.slot).bind TaskInfo.pend with
  | none => (s, true)
  | some (i, k, r) =>
    let w := s.whoAgent c (s.core c).ctx.toNat t.lrec.toNat
    let buf := r % 65536
    let off := r / 65536 + 32 * i
    let ev : EvInfo := { s.taskEv c { kind := 8 } with core := 0, task := false }
    let clear (s : State) : State := s.modInfo t.slot (fun x => { x with pend := none })
    let (s, a) := s.access w buf (entryForm (.atomic false)) [(off : Int)]
    match a with
    | .error x =>
      if x.fail.cause == 1 then
        ((s.post { ev with kind := 1, cause := cTransl, buf := buf, off := off }).addWaiter (.taskEnd c), false)
      else
        (clear (s.post { (reuseEv ev (s.lrecClass t.lrec.toNat) 9 k (some i)) with buf := buf, off := off }), true)
    | .ok ps =>
      let key := keyOf ps
      if (s.mustWait 256 true ps.flatten).isSome then (s, false) else
      let s := s.reach [lineOf key]
      if s.badAt key != 0 then (clear (s.memErr ev buf off), true)
      else
        let kid := w.kid.getD 0
        let w0 := leWord ((List.range 8).map (fun j => s.plain kid (key + j)))
        let mine := bitsOf w0 42 1 == 1 && bitsOf w0 48 16 == t.lrec.toNat && bitsOf w0 0 32 == k
        (clear (if mine then s.putHome kid (natCells key 8 (setBits (setBits w0 42 1 0) 40 1 1).toNat) else s), true)

/-- The credit of the output object (R178, 12 R389); `false` while it waits for page service. -/
def State.outputCredit (s : State) (c : Nat) (t : RunTask) : State × Bool :=
  let o := s.recWord t.slot 0x18
  if refBuf o == 0 then (s, true)
  else
    let w := s.whoAgent c (s.core c).ctx.toNat t.lrec.toNat
    let (s, r) := s.agentCredit w 1 (refBuf o) (refOff o) (bitsOf (s.lrecWord t.lrec.toNat 0x58) 0 32)
      { s.taskEv c { kind := 1 } with core := 0, task := false } 0
    match r with
    | .waits => (s.addWaiter (.taskEnd c), false)
    | .held => (s, false)
    | _ => (s, true)

/-- Engines of an ending task have retired what they issued, what a fault left of it included, and no handler runs. -/
def State.quietEngs (s : State) (c : Nat) (t : RunTask) : Bool :=
  (s.core c).flight.isEmpty &&
  allEngs.all (fun e => let g := s.eng c e
    (g.grp.isNone || t.delivering e) && !g.page && (g.sup.isNone || t.delivering e) &&
    (g.regrp.isNone || g.parked || t.delivering e))

/-- A killed task waits for its handlers and for M's commands. -/
def State.killable (s : State) (c : Nat) (t : RunTask) : Bool :=
  (s.core c).flight.isEmpty && allEngs.all (fun e => (s.eng c e).sup.isNone || t.delivering e)

/-- The task leaves for good. -/
def State.endTask (s : State) (c : Nat) (t : RunTask) : State := (s.leaveCore c t.gang true).freeSlot t.slot

def State.taskEnd (s : State) (c : Nat) : State :=
  match (s.core c).task with
  | none => s
  | some t =>
    let ends := if t.killing then !t.saving && s.killable c t
      else (t.halting || (s.allFinished c && t.delivery.isEmpty)) && s.quietEngs c t && !t.delivery.any Delivery.page
    let events := if t.killing then 1 else t.delivery.length
    if !ends || s.hasWaiter (.taskEnd c) || s.heldEvent t.slot || !(events == 0 || s.evq.roomFor events) then s
    else
      let s := s.release c
      if !s.released c 3 0xF then s
      else if t.killing then (s.post (killEv { s.taskEv c { kind := 2 } with core := 0 })).endTask c t
      else
        let (s, done) := s.doneUpdate c t
        if !done then s
        else
          let (s, paid) := s.outputCredit c t
          if !paid then s
          else (t.delivery.foldl (fun s d => s.postFault c d) s).endTask c t

def execTaskEnd (core : Nat) (s : State) : Host.Outcome State Fault Refusal := .next (if s.partHeld then s else s.taskEnd core)

-- SAVELATE (R317)

/-- PRLIM cycles have passed since the request: one event, and in band B4 or state WARMUP the task ends as KILL does, also one that
missed the limit before (20 R344). The part posts: the event names no core (R390). -/
def State.saveLate (s : State) (slot : Nat) : State :=
  let limit := bitsOf s.host.polpr 0 48
  match s.info slot, s.coreOf slot with
  | some t, some c =>
    match t.request with
    | some at_ =>
      if limit == 0 || s.cyc.toNat < at_ + limit then s
      else
        let s := if t.late then s
          else (s.post { s.taskEv c { kind := 11 } with core := 0 }).modInfo slot (fun t => { t with late := true })
        if s.cryo.band == 4 || s.cryo.st == 6 then s.kill slot else s
    | none => s
  | _, _ => s

def execSavelate (slot : Nat) (s : State) : Host.Outcome State Fault Refusal := .next (s.saveLate slot)

end Sys2Proof.Machine
end

