-- ==== Sys2Proof/Machine/Transfer.lean ====
section
/-! DEFINITION. The copy engines and the ferry engine: one granule of a command (16 R288 to R292, R296, R297, 12 R389), and the
exchange of two frames (R293). -/

namespace Sys2Proof.Machine

def granule : Nat := 65536

-- commands and their slots

/-- The slot of a command shows its state. -/
def State.showCmd (s : State) (n : Nat) (x : Cmd) (err : Nat) : State :=
  let slot : CmdSlot := { st := x.st, kind := x.kind, err := err, doneb := x.doneb, cmd := n }
  s.modInfo x.slot (fun t => match t.cmds.find? x.tag with
    | some y => if y.cmd == n then { t with cmds := t.cmds.put x.tag slot } else t
    | none => t)

def State.keepCmd (s : State) (n : Nat) (x : Cmd) : State := (s.setCmd n x).showCmd n x 0

/-- DONE or ABORTED: the entry is free. -/
def State.closeCmd (s : State) (n : Nat) (x : Cmd) (st err : Nat) : State :=
  ({ s with coll := { s.coll with cmds := s.coll.cmds.del n } }).showCmd n { x with st := st } err

/-- The launch record id an owner check compares with: none for a host entry (22 R374). -/
def Cmd.who (x : Cmd) (s : State) : Who := s.whoAgent x.core x.ctx.toNat (if x.queue.isSome then 65536 else x.lrec.toNat)

/-- A translation fault of target `i`: FAULTED, a PAGEFLT event with the tag, the stall wire (R296). `landed` says that it was the
credit's, once the bytes of the granule were performed (12 R389). -/
def State.cmdPage (s : State) (n : Nat) (x : Cmd) (i buf off : Nat) (posted landed : Bool) : State :=
  let s := if posted then s else s.post (x.ev { kind := 1, cause := cTransl, buf := buf, off := off, x30 := BitVec.ofNat 64 x.tag })
  let s := s.keepCmd n { x with st := csFaulted, stop := i, parts := x.parts.filter (fun p => p.1 != i), marred := false
                                landed := if landed && !x.landed.contains i then x.landed ++ [i] else x.landed }
  match x.gang with
  | some g => s.restall g
  | none => s

/-- Any other failing check: ABORTED and a COPYERR event. -/
def State.cmdAbort (s : State) (n : Nat) (x : Cmd) (g : Nat) (f : AccFault) (buf : Nat) : State :=
  (s.post (x.abortEv g f buf)).closeCmd n x csAborted f.fail.cause

-- what a granule moves

/-- Bytes of one target's destination stream. -/
def Cmd.total (x : Cmd) : Nat :=
  if x.kind = kGather || x.kind = kScatter then (RowDesc.of x.desc).count * (RowDesc.of x.desc).rowb
  else bitsOf (x.ops.getD 2 0) 0 48

def Cmd.src (x : Cmd) : Word := if x.kind = kGather || x.kind = kScatter then (RowDesc.of x.desc).src else x.ops.getD 0 0
def Cmd.dst (x : Cmd) : Word := if x.kind = kGather || x.kind = kScatter then (RowDesc.of x.desc).dst else x.ops.getD 1 0

/-- Whether an agent that is no core must wait for places; a copy engine waits too for what cores performed at its quad or Isle. -/
def State.agentHeld (s : State) (ps : List Place) : Bool := (s.mustWait noCore true ps).isSome
def State.engineHeld (s : State) (x : Cmd) (ps : List Place) : Bool :=
  s.agentHeld ps || s.lentHeldBy (quadNear x.core) (linesOf (ps.flatMap Place.keys))

/-- Before a copy engine reaches lines: what cores performed at its quad or at its Isle is there (13 R244, R245). -/
def State.lentTo (s : State) (x : Cmd) (ps : List Place) : State := s.lentBy (quadNear x.core) (linesOf (ps.flatMap Place.keys))

/-- How the index list of a row command is read. -/
def idxForm : Form := { need := .read, es := 4, align := 4, noView := true }

/-- The rows that bytes `lo` to `hi` - 1 of the stream lie in, and where their index entries are. -/
def Cmd.idxOffs (x : Cmd) (lo hi : Nat) : List Nat × List Int :=
  let d := RowDesc.of x.desc
  if (x.kind != kGather && x.kind != kScatter) || d.rowb == 0 then ([], [])
  else
    let rows := (List.range (ceilDiv hi d.rowb - lo / d.rowb)).map (fun i => lo / d.rowb + i)
    (rows, rows.map (fun j => ((refOff d.idx + 4 * j : Nat) : Int)))

/-- A granule's index entries: row to index (R291); `.error none` where an entry cannot be read yet. -/
def State.rowIndex (s : State) (w : Who) (x : Cmd) (lo hi : Nat) : State × Except (Option AccFault) (Store Nat) :=
  let (rows, offs) := x.idxOffs lo hi
  if rows.isEmpty then (s, .ok [])
  else
    let (s, r) := s.access w (refBuf (RowDesc.of x.desc).idx) idxForm offs
    match r with
    | .error f => (s, .error (some f))
    | .ok ps =>
      if s.engineHeld x ps.flatten then (s, .error none)
      else
        let (s, bs) := (s.lentTo x ps.flatten).homeRead (w.kid.getD 0) (ps.flatten.map Place.key)
        (s, .ok ((rows.zip (List.range rows.length)).map (fun (p : Nat × Nat) => (p.1, leNat ((bs.drop (4 * p.2)).take 4)))))

/-- Offsets on the contiguous and on the indexed side of unit `p` of the stream. -/
def rowOff (base rowb : Nat) (idx : Store Nat) (p : Nat) : Int := ((base + idx.get (p / rowb) 0 * rowb + p % rowb : Nat) : Int)

/-- Source and destination offsets of the units of a granule. -/
def Cmd.offs (x : Cmd) (idx : Store Nat) (ps : List Nat) : List Int × List Int :=
  let d := RowDesc.of x.desc
  let flat (r : Word) : List Int := ps.map (fun p => ((refOff r + p : Nat) : Int))
  if x.kind = kGather then (ps.map (rowOff (refOff d.src) d.rowb idx), flat d.dst)
  else if x.kind = kScatter then (flat d.src, ps.map (rowOff (refOff d.dst) d.rowb idx))
  else (flat x.src, flat x.dst)

/-- es of the command in bytes, at least 1 (R290); a fill reads a viewed source by its elements. -/
def State.unitOfCmd (s : State) (w : Who) (x : Cmd) : State × Nat :=
  let (s, a) := s.entryOf w (refBuf x.src)
  if x.kind = kFill then
    (s, match a with
      | .ok a => if a.view == 0 then 1 else Nat.max 1 (a.nibs / 2)
      | .error _ => 1)
  else
    let (s, b) := s.entryOf w (refBuf x.dst)
    match a, b with
    | .ok a, .ok b => (s, Nat.max 1 ((copyUnit a b).getD 2 / 2))
    | _, _ => (s, 1)

/-- Places of an AFILL's target (R292): its shadow half at acceptance, moved pages at their new place (11 R222). -/
def State.fillPlaces (s : State) (x : Cmd) (t : Nat × Nat × Nat) (ps : List Nat) : List (List Place) :=
  let b := x.ops.getD 1 0
  ps.map (fun p => [placeAt (s.place (shoalKey t.1 (bitsOf b 32 1) (t.2.1 * 2 ^ 21 + bitsOf b 0 22 + p))) 0 .loc])

/-- The marks of bad source units follow the data to the places they land in: 8-byte words in local SRAM and Shoal, whole lines in
layer H (R289). -/
def State.markBad (s : State) (ps : List Place) : State :=
  (ps.flatMap Place.keys).foldl (fun (s : State) (k : Nat) =>
    let st := s.stor
    if 2 ^ 56 ≤ k then { s with stor := { st with badWords := (k / 8) :: st.badWords.filter (fun w => w != k / 8) } }
    else { s with stor := { st with poison := lineOf k :: st.poison.filter (fun l => l != lineOf k) } }) s

def State.placeIsBad (s : State) (p : Place) : Bool := s.badAt (p.lo / 2) != 0 || s.badAt (p.hi / 2) != 0

/-- A logical byte at home. -/
def State.homeByte (s : State) (kid : Nat) (p : Place) : Byte :=
  let nib (n : Nat) : Nat := (s.plain kid (n / 2)).toNat / 16 ^ (n % 2) % 16
  BitVec.ofNat 8 (nib p.lo + 16 * nib p.hi)

/-- Bytes written to places, at home, in order. -/
def State.homePlaces (s : State) (kid : Nat) (xs : List (Place × Byte)) : State :=
  s.homeMasked kid (xs.flatMap (fun x => (placeCells 16 0 x.1 x.2 0xFF).map Aimed.cell))

/-- Bytes read at home, each with whether its storage cannot be corrected. -/
def State.takePlaces (s : State) (kid : Nat) (src : List Place) : State × List (Byte × Bool) :=
  let s := s.reach (linesOf (src.flatMap Place.keys))
  (s, src.map (fun p => (s.homeByte kid p, s.placeIsBad p)))

/-- Bytes written at home, the bad ones as poison. -/
def State.putPlaces (s : State) (kid : Nat) (dst : List Place) (bs : List (Byte × Bool)) : State :=
  let s := s.homePlaces kid (dst.zip (bs.map (fun b => b.1)))
  s.markBad (((dst.zip bs).filter (fun x => x.2.2)).map (fun x => x.1))

/-- Move bytes from places to places, at home; says whether a source was bad. -/
def State.movePlaces (s : State) (kid : Nat) (src dst : List Place) : State × Bool :=
  let (s, bs) := s.takePlaces kid src
  (s.putPlaces kid dst bs, bs.any (fun b => b.2))

-- one granule

/-- What a granule came to. -/
inductive Moved where
  | landed                        -- its bytes are performed
  | stays                         -- a pin or the ferry holds it
  | fault (x : AccFault) (buf : Nat)

/-- A word of a stream that a fill has read of its source is kept until every target has it (R292). -/
def Cmd.keepRead (x : Cmd) (ps : List Nat) (bs : List (Byte × Bool)) : Cmd :=
  if x.kind = kFill && x.targets.length > 1 then
    { x with read := (dedup (runs (ps.map (fun p => p / 8)))).foldl (fun r j =>
        r.put j (((ps.zip bs).filter (fun y => y.1 / 8 == j)).map (fun y => y.2))) x.read }
  else x

/-- Bytes `lo` to `hi` - 1 of a stream, unit by unit of `es` bytes. -/
def unitsIn (es lo hi : Nat) : List Nat := (List.range ((hi - lo) / es)).map (fun i => lo + es * i)

/-- The places of units of a stream at its source and destination, or the access that fails; none while an index cannot be read. -/
def State.granulePlaces (s : State) (w : Who) (x : Cmd) (t : Nat × Nat × Nat) (es lo hi : Nat) (units : List Nat) :
    State × Except (Option (AccFault × Nat)) (List Place × List Place) :=
  let (s, r) := s.rowIndex w x lo hi
  match r with
  | .error f => (s, .error (f.map (fun f => (f, refBuf (RowDesc.of x.desc).idx))))
  | .ok idx =>
    let offs := x.offs idx units
    let (s, a) := s.access w (refBuf x.src) { need := .read, es := es, align := es } offs.1
    match a with
    | .error f => (s, .error (some (f, refBuf x.src)))
    | .ok src =>
      let bytes := units.flatMap (fun p => (List.range es).map (fun i => p + i))
      let (s, d) := if x.kind = kFill then (s, .ok (s.fillPlaces x t bytes))
        else s.access w (refBuf x.dst) { need := .write, es := es, align := es, nibble := true } offs.2
      (s, match d with
        | .error f => .error (some (f, refBuf x.dst))
        | .ok dst => .ok (src.flatten, dst.flatten))

/-- Tables of a granule's buffers are in exchange (R293). -/
def State.granuleHeld (s : State) (w : Who) (x : Cmd) (lo hi : Nat) : Bool :=
  let offs := x.offs [] ((List.range (hi - lo)).map (fun i => lo + i))
  !s.noneHeld &&
    (s.tablesHeld w (refBuf x.src) { need := .read, es := 1, align := 1 } offs.1 ||
      (x.kind != kFill && s.tablesHeld w (refBuf x.dst) { need := .write, es := 1, align := 1 } offs.2) ||
      ((x.kind == kGather || x.kind == kScatter) && s.tablesHeld w (refBuf (RowDesc.of x.desc).idx) idxForm (x.idxOffs lo hi).2))

/-- A byte of a stream: its offset, source and destination. -/
abbrev Carried := Nat × Place × Place

/-- Where a scatter writes a byte from several rows, the highest wins (R291): the others are not written. -/
def lastWins (xs : List Carried) : List Carried :=
  xs.filter (fun x => !xs.any (fun y => y.1 > x.1 && y.2.2.lo == x.2.2.lo && y.2.2.hi == x.2.2.hi))

/-- The mark of a granule's words, for what engines hold read ahead (13 R259). -/
def granuleTag (no i g : Nat) : Nat × Nat := (2 ^ 64 + no, i * 2 ^ 32 + g)

/-- The 8-byte words `sel` of target `i`'s stream among its bytes `lo` to `hi` - 1 (13 R246). A length that is no multiple of es fails
check 6 in granule 0 (R290). The command as it stands afterwards comes with what became of them. -/
def State.moveGranule (s : State) (no : Nat) (x : Cmd) (i : Nat) (t : Nat × Nat × Nat) (lo hi : Nat) (sel : Nat → Bool) : State × Cmd × Moved :=
  let w := x.who s
  let (s, es) := s.unitOfCmd w x
  let kid := w.kid.getD 0
  let sel (p : Nat) : Bool := sel (p / 8)
  let put (s : State) (dst : List Place) (bs : List (Byte × Bool)) : State :=
    ((s.lentTo x dst).putPlaces kid dst bs).creditAhead (granuleTag no i t.2.2).1 (granuleTag no i t.2.2).2 (wordsOf dst)
  if s.granuleHeld w x lo hi then (s, x, .stays)
  else if x.total % es != 0 then (s, x, .fault { fail := fAlign, elem := 0, off := (refOff x.src : Int) } (refBuf x.src))
  else
    let known := (unitsIn 8 lo hi).filter (fun p => sel p && x.read.has (p / 8))
    let dst := (s.fillPlaces x t (known.flatMap (fun p => (List.range 8).map (fun j => p + j)))).flatten
    let units := (unitsIn es lo hi).filter (fun p => x.kind == kScatter || (sel p && !x.read.has (p / 8)))
    match s.granulePlaces w x t es lo hi units with
    | (s, .error none) => (s, x, .stays)
    | (s, .error (some (f, buf))) => (s, x, .fault f buf)
    | (s, .ok (src, dests)) =>
      let bytes := units.flatMap (fun p => (List.range es).map (fun j => p + j))
      let all := bytes.zip (src.zip dests)
      let all := (if x.kind == kScatter then lastWins all else all).filter (fun y => sel y.1)
      if s.engineHeld x (dst ++ all.flatMap (fun y => [y.2.1, y.2.2])) then (s, x, .stays)
      else
        let s := if known.isEmpty then s else put s dst (known.flatMap (fun p => x.read.get (p / 8) []))
        let (s, bs) := (s.lentTo x (all.map (fun y => y.2.1))).takePlaces kid (all.map (fun y => y.2.1))
        let s := put s (all.map (fun y => y.2.2)) bs
        let bad := bs.any (fun b => b.2)
        (if bad && !x.marred then s.memErr (x.ev { kind := 6 }) (refBuf x.src) (refOff x.src + lo) else s,
          { x.keepRead (all.map (fun y => y.1)) bs with marred := x.marred || bad }, .landed)

/-- Put one target's progress. -/
def Cmd.setTarget (x : Cmd) (i : Nat) (done : Nat) : Cmd :=
  { x with targets := x.targets.mapIdx (fun j t => if j = i then (t.1, t.2.1, done) else t) }

def Cmd.granules (x : Cmd) : Nat := Nat.max 1 (ceilDiv x.total granule)

/-- What a fill read goes once every target has it. -/
def Cmd.dropRead (x : Cmd) : Cmd := { x with read := x.read.filter (fun r => x.targets.any (fun t => t.2.2 ≤ r.1 / 8192)) }

/-- The bytes of a granule become those that a credit covers (13 R259, R260). -/
def State.coverAhead (s : State) (no : Nat) (x : Cmd) (i g : Nat) : State :=
  let w := x.who s
  match s.boKey w (refBuf x.bo) (refOff x.bo) (.atomic false) with
  | (t, .ok key) =>
    let flips := (t.boAt (w.kid.getD 0) key).flips
    t.mapAllAhead (fun _ _ _ a => some { a with cred := a.cred.map (fun y => if y == granuleTag no i g then (key, flips) else y) })
  | (t, .error _) => t

/-- The credit of `n` bytes and what follows it (R288, R389). Bytes that are performed wait for it while a pin or the ferry holds the
object. -/
def State.creditCmd (s : State) (no : Nat) (x : Cmd) (i n doneTo : Nat) (finished : Cmd → Bool) : State :=
  let (s1, r) := (s.coverAhead no x i (doneTo - 1)).agentCredit (x.who s) 3 (refBuf x.bo) (refOff x.bo) n (x.ev { kind := 15 })
    (BitVec.ofNat 64 x.tag)
  match r with
  | .made =>
    let y := { (x.setTarget i doneTo).dropRead with doneb := (x.doneb + n) % 2 ^ 48, st := csActive, marred := false
                                                    landed := x.landed.filter (fun j => j != i)
                                                    parts := x.parts.filter (fun p => p.1 != i) }
    if finished y then s1.closeCmd no y csDone 0 else s1.keepCmd no y
  | .held =>
    s.keepCmd no { x with st := csActive, landed := if x.landed.contains i || x.total = 0 then x.landed else x.landed ++ [i]
                          parts := x.parts.filter (fun p => p.1 != i) }
  | .waits => s1.cmdPage no x i (refBuf x.bo) (refOff x.bo) true true
  | .refused _ cause => s1.closeCmd no x csAborted cause

/-- Commands of one issuing engine start in acceptance order (R287), those that wait to be queued again among them. -/
def State.mayStart (s : State) (no : Nat) (x : Cmd) : Bool :=
  x.st != csQueued || !s.coll.cmds.any (fun y => y.1 < no && (y.2.st == csQueued || (y.2.hold && y.2.slot == x.slot)) && y.2.kind != kFerry &&
    y.2.core == x.core && y.2.eng == x.eng)

/-- The stall wire holds GSC for a task (R297). -/
def State.stalled (s : State) (gang : Option Nat) : Bool :=
  match gang.bind (fun g => s.sched.gangs.find? g) with
  | some g => g.stall
  | none => false

/-- It would without command `no`: another fault of the gang is in service. -/
def State.stalledBut (s : State) (no : Nat) (x : Cmd) : Bool :=
  match x.gang with
  | some g => s.gangFaults g (fun k => k != no)
  | none => false

/-- Granule `done` of a target: its bytes, then its credit. An empty stream makes one credit of 0 bytes (R288); bytes that have landed
before their credit met a fault are not moved again. -/
def State.runGranule (s : State) (no : Nat) (x : Cmd) (i : Nat) (t : Nat × Nat × Nat) : State :=
  let lo := t.2.2 * granule
  let hi := Nat.min x.total (lo + granule)
  let ends (y : Cmd) : Bool := y.targets.all (fun u => u.2.2 ≥ y.granules)
  if x.total = 0 then (if i = 0 then s.creditCmd no x i 0 1 (fun _ => true) else s)
  else if t.2.2 ≥ x.granules then s
  else if x.landed.contains i then s.creditCmd no x i (hi - lo) (t.2.2 + 1) ends
  else
    match s.moveGranule no x i t lo hi (fun j => !x.parts.contains (i, j)) with
    | (s1, _, .stays) => s1
    | (s1, y, .fault f buf) =>
      if f.fail.cause == 1 then s1.cmdPage no y i buf (f.off % (2 ^ 48 : Int)).toNat false false
      else s1.cmdAbort no y t.2.2 f buf
    | (s1, y, .landed) => s1.creditCmd no y i (hi - lo) (t.2.2 + 1) ends

/-- One 8-byte word of the stream of a target moves before the rest of its granule does (13 R246). -/
def State.runWord (s : State) (no : Nat) (x : Cmd) (i : Nat) (t : Nat × Nat × Nat) (j : Nat) : State :=
  let lo := t.2.2 * granule
  let hi := Nat.min x.total (lo + granule)
  if t.2.2 ≥ x.granules || j < lo / 8 || hi ≤ 8 * j || x.landed.contains i || x.parts.contains (i, j) then s
  else
    match s.moveGranule no x i t lo hi (fun k => k == j) with
    | (s1, y, .landed) =>
      let y := { y with st := csActive, parts := y.parts ++ [(i, j)] }
      if (y.parts.filter (fun p => p.1 == i)).length ≥ ceilDiv (hi - lo) 8 then
        s1.keepCmd no { y with parts := y.parts.filter (fun p => p.1 != i), landed := y.landed ++ [i] }
      else s1.keepCmd no y
    | _ => s

/-- A granule of a target is under way. -/
def Cmd.under (x : Cmd) (i : Nat) : Bool := x.landed.contains i || x.parts.any (fun p => p.1 == i)

/-- A saved command of a task that is on a core waits for room in the queue (R287, R298), and for the end of its fault's service (R299). -/
def State.queueAgain (s : State) (no : Nat) (x : Cmd) : State :=
  match s.coreOf x.slot with
  | some c =>
    if x.hold && x.st != csFaulted && x.slot < slotCount && s.queueRoom c x.kind 0 && !((s.info x.slot).bind TaskInfo.saved).isSome then
      s.requeue c x.slot no x else s
  | none => s

/-- A command may move bytes of target `i` now: while the stall wire holds GSC, only those of a granule under way (R297). -/
def State.mayMove (s : State) (no : Nat) (x : Cmd) (i : Nat) : Bool :=
  !(x.hold || x.kind == kFerry || x.st == csFaulted || (s.stalled x.gang && !x.under i) || !s.mayStart no x)

def execGranuleTransfer (cmd target : Nat) (s : State) : Host.Outcome State Fault Refusal :=
  match s.cmd cmd with
  | some x =>
    match x.targets[target]? with
    | some t =>
      if x.hold then .next (s.queueAgain cmd x)
      else .next (if s.mayMove cmd x target then s.runGranule cmd x target t else s)
    | none => .next s
  | none => .next s

/-- One word of a granule of a command. -/
def State.granuleWord (s : State) (cmd target word : Nat) : State :=
  match s.cmd cmd with
  | some x =>
    match x.targets[target]? with
    | some t => if s.mayMove cmd x target then s.runWord cmd x target t word else s
    | none => s
  | none => s

/-- After page service a FAULTED command goes on with its granule, or its credit, from the first byte (R296); while the fault
stands nothing happens. Where the stall wire holds for another fault, it is HELD (R299); one that is saved is queued again (R298). -/
def execGranuleRestart (cmd target : Nat) (s : State) : Host.Outcome State Fault Refusal :=
  match s.cmd cmd with
  | some x =>
    match x.targets[target]? with
    | some t =>
      if x.st != csFaulted || x.stop != target then .next s
      else
        let y := { x with st := csActive }
        let after := if x.kind = kFerry then s.creditCmd cmd y target 131072 2 (fun _ => true) else s.runGranule cmd y target t
        let still := match after.cmd cmd with
          | some z => z.st == csFaulted
          | none => false
        if still then .next s
        else if x.hold then
          let y := { x with st := csHeld }
          .next ((s.setCmd cmd y).queueAgain cmd y)
        else
          let after := if s.stalledBut cmd x then s.keepCmd cmd y else after
          .next (match x.gang with
            | some g => after.restall g
            | none => after)
    | none => .next s
  | none => .next s

-- the ferry engine (R293)

/-- The home key of a frame: a physical address, or a latent page of a core's slice. -/
def State.frameKey (s : State) (a : Word) (core : Nat) : Nat :=
  if a.toNat / 2 ^ 48 == 2 then s.place (shoalKey core (bitsOf a 40 1) (2 ^ 22 + bitsOf a 0 22)) else a.toNat

/-- Frames of a ferry command, as unit numbers. -/
def State.framesOf (s : State) (x : Cmd) : List Nat :=
  let c := x.ops.getD 2 0
  [s.frameKey (x.ops.getD 0 0) (bitsOf c 8 8) / granule, s.frameKey (x.ops.getD 1 0) (bitsOf c 16 8) / granule]

def frameLines (f : Nat) : List Nat := (List.range 512).map (fun i => 512 * f + i)

/-- Write back and drop every cached copy of lines, in every L1 and read-only cache, and close their batches. -/
def State.flushLines (s : State) (ls : List Nat) : State :=
  let s := s.cores.foldl (fun s x => (x.2.l1.filter (fun l => ls.contains l.1)).foldl (fun s l => s.dropLine x.1 l.1) s) s
  let s := s.reach ls
  let stor := s.stor
  { s with stor := { stor with
      roCache := stor.roCache.filter (fun x => !ls.contains (x.1 % 2 ^ 52))
      roOld := stor.roOld.filter (fun x => !ls.contains (x.1 % 2 ^ 52))
      roMix := stor.roMix.filter (fun x => !ls.contains (x.1 / 16 % 2 ^ 52)) } }

/-- Exchange the numbers of two frames in a list of line or word numbers; `per` of them lie in a frame. -/
def swapNo (per p q n : Nat) : Nat :=
  if n / per == p then q * per + n % per else if n / per == q then p * per + n % per else n

/-- Line marks of layer H and word marks of Shoal turn into each other as the data moves. -/
def State.swapMarks (s : State) (p q : Nat) : State :=
  let inShoal (f : Nat) : Bool := f * granule ≥ 2 ^ 56
  let here (f : Nat) : Bool := f == p || f == q
  let words := s.stor.badWords.map (swapNo 8192 p q)
  let lines := s.stor.poison.map (swapNo 512 p q)
  let upWords := (words.filter (fun w => here (w / 8192) && !inShoal (w / 8192))).map (fun w => w / 16)
  let downLines := (lines.filter (fun l => here (l / 512) && inShoal (l / 512))).flatMap (fun l =>
    (List.range 16).map (fun i => 16 * l + i))
  { s with stor := { s.stor with
      badWords := dedup (words.filter (fun w => !here (w / 8192) || inShoal (w / 8192)) ++ downLines)
      poison := dedup (lines.filter (fun l => !here (l / 512) || !inShoal (l / 512)) ++ upWords)
      lineKey := (((frameLines p ++ frameLines q).map (fun l => (swapNo 512 p q l, s.stor.lineKey.find? l))).foldl
        (fun (k : Store Nat) (x : Nat × Option Nat) => match x.2 with
          | some g => if inShoal (x.1 / 512) then k.del x.1 else k.put x.1 g
          | none => k.del x.1) s.stor.lineKey) } }

/-- The contents of two frames change places; their watched lines wake. -/
def State.swapFrames (s : State) (p q : Nat) : State :=
  let bp := s.mem.readN (p * granule) granule
  let bq := s.mem.readN (q * granule) granule
  let s := (s.setMem ((s.mem.writeN (p * granule) bq).writeN (q * granule) bp)).swapMarks p q
  let clean := s.stor.clean.filter (fun x => x.1 != p && x.1 != q)
  let s := { s with stor := { s.stor with clean := clean } }
  (frameLines p ++ frameLines q).foldl (fun s l => s.wake l) ((s.dropAhead p).dropAhead q)

def State.pinnedAny (s : State) (ls : List Nat) : Bool := ls.any (s.pinnedFor noCore)

/-- Units of two frames that storage cannot correct are reported as the ferry engine carries them (R289). -/
def State.ferryBad (s : State) (x : Cmd) (fs : List Nat) : State :=
  let bad (f : Nat) : Bool := s.stor.badWords.any (fun w => w / 8192 == f) || s.stor.poison.any (fun l => l / 512 == f)
  (fs.zip (List.range fs.length)).foldl (fun s f => if bad f.1 then s.memErr (x.ev { kind := 6 }) 0 (bitsOf (x.ops.getD f.2 0) 0 48) else s) s

/-- The exchange of a ferry command: it takes a remap entry, waits for pins, exchanges and credits. While the stall wire holds GSC a
command that waits in the queue is HELD (R297). -/
def State.ferry (orig : State) (no : Nat) (x : Cmd) : State :=
  let s := orig
  let fs := s.framesOf x
  let done := (x.targets.headD (0, 0, 0)).2.2
  if x.kind != kFerry || x.st == csFaulted then s
  else if x.st == csQueued && s.stalled x.gang then s
  else if done != 0 then s.creditCmd no x 0 131072 2 (fun _ => true)
  else
    let held := x.st == csActive
    if !held && (s.stor.frames.length ≥ 32 || fs.any s.heldUnit) then s
    else
      let s := if held then s
        else ({ s with stor := { s.stor with frames := s.stor.frames ++ fs } }).keepCmd no { x with st := csActive }
      let x := { x with st := csActive }
      let ls := fs.flatMap frameLines
      if s.pinnedAny ls then s
      else
        let s := ((s.flushLines ls).ferryBad x fs).swapFrames (fs.headD 0) (fs.getD 1 0)
        let s := { s with stor := { s.stor with frames := s.stor.frames.filter (fun f => !fs.contains f) } }
        let x := x.setTarget 0 1
        (s.keepCmd no x).creditCmd no x 0 131072 2 (fun _ => true)

def execFerryExchange (cmd : Nat) (s : State) : Host.Outcome State Fault Refusal :=
  match s.cmd cmd with
  | some x => .next (s.ferry cmd x)
  | none => .next s

end Sys2Proof.Machine
end

