-- ==== Sys2Proof/Machine/CollCore.lean ====
section
/-! DEFINITION. The collective engine: communicators (21 R350, R351), programs and their blocks (R355, R360), messages between
ranks, credits, completion records and stops (R361 to R363, 12 R389). -/

namespace Sys2Proof.Machine

-- programs

def State.prog? (s : State) (no : Nat) : Option Prog := s.coll.progs.find? no
def State.setProg (s : State) (no : Nat) (p : Prog) : State := { s with coll := { s.coll with progs := s.coll.progs.put no p } }

/-- A host entry acts for no core and no launch record (22 R374). -/
def Prog.who (p : Prog) (s : State) : Who :=
  if p.queue.isSome then s.whoAgent noCore p.ctx.toNat 65536 else s.whoAgent p.core p.ctx.toNat p.lrec.toNat
def Prog.ev (p : Prog) (i : EvInfo) : EvInfo := { i with ctx := p.ctx.toNat, lrec := p.lrec.toNat, tile := p.tile }

def Prog.word (p : Prog) (i : Nat) : Word := p.hdr.getD i 0
def Prog.tmo (p : Prog) : Nat := bitsOf (p.word 0) 32 16
def Prog.nstep (p : Prog) : Nat := bitsOf (p.word 0) 0 16
def Prog.crec (p : Prog) : Word := p.word 1
def Prog.xref (p : Prog) : Word := p.word 2
def Prog.mref (p : Prog) : Word := p.word 3
/-- Handle `k`; h15 is the argument. -/
def Prog.handle (p : Prog) (k : BitVec 4) : Word := if k.toNat = 15 then p.arg else p.word (4 + k.toNat)
/-- Index of the innermost active LOOP. -/
def Prog.loopIdx (p : Prog) : Nat := ((p.loops.head?).map (fun l => l.2.1)).getD 0
def Prog.next (p : Prog) : Prog := { p with step := p.step + 1 }

/-- Steps may run: the program has started, has not stopped, and owes nothing. -/
def Prog.runnable (p : Prog) : Bool := p.started && p.status.isNone && p.owe.isEmpty && p.after == 0

-- communicators

def State.commRanks (s : State) (comm : Nat) : Nat := bitsOf (s.commWord comm 0) 0 20
def State.commRpp (s : State) (comm : Nat) : Nat := bitsOf (s.commWord comm 1) 0 20
def State.commHome (s : State) (comm : Nat) : Nat := bitsOf (s.commWord comm 1) 32 16
/-- Entry `i` of PKGLIST: pod and package number. -/
def State.pkgEntry (s : State) (comm i : Nat) : Nat :=
  leNat ((List.range 2).map (fun j => s.plain 0 (bitsOf (s.commWord comm 2) 0 56 + 2 * i + j)))
def State.pkgOf (s : State) (comm rank : Nat) : Nat := s.pkgEntry comm (rank / s.commRpp comm)
def State.ownPkg (s : State) : Nat := s.mgmt.podNo.toNat * 512 + s.mgmt.pkg.toNat
def State.rankHere (s : State) (comm rank : Nat) : Bool := s.pkgOf comm rank == s.ownPkg

/-- The packages that hold ranks. -/
def State.commPkgs (s : State) (comm : Nat) : List Nat :=
  (List.range (ceilDiv (s.commRanks comm) (s.commRpp comm))).map (s.pkgEntry comm)

/-- A communicator that cannot reduce (R351). -/
def State.noReduce (s : State) (comm : Nat) : Bool :=
  (s.commPkgs comm).any (fun p => p / 512 != s.mgmt.podNo.toNat) ||
  (s.commHome comm == 0xFFFF && (s.commPkgs comm).any (fun p => p != s.ownPkg))

/-- Some path to a package: Sound in the own pod, Ethernet beyond it (R351). -/
def State.hasPath (s : State) (pk : Nat) : Bool :=
  if pk == s.ownPkg then true
  else if pk / 512 == s.mgmt.podNo.toNat then s.soundUp
  else s.etherUp

-- reading and writing as an agent

/-- An agent's access: its outcome, held back by a pin or the ferry, or a failing check's cause. -/
inductive Got (α : Type) where
  | ok (a : α)
  | held
  | bad (cause : Nat)

/-- How a stream of bytes is reached: by the elements, of `es` bytes, of a viewed buffer (11 R216, 16 R290). -/
def streamForm (need : Need) (es : Nat) : Form := { need := need, es := es, align := es, nibble := true }
def plainForm (need : Need) (es : Nat) : Form := { need := need, es := es, align := es, noView := true }
def offsFrom (off step n : Nat) : List Int := (List.range n).map (fun i => ((off + step * i : Nat) : Int))

/-- Bytes, each with whether its storage is uncorrectable. -/
def State.agentRead (s : State) (w : Who) (buf : Nat) (f : Form) (offs : List Int) : State × Got (List (Byte × Bool)) :=
  if s.tablesHeld w buf f offs then (s, .held)
  else
  let (s, r) := s.access w buf f offs
  match r with
  | .error x => (s, .bad x.fail.cause)
  | .ok es =>
    let ps := es.flatten
    if s.agentHeld ps then (s, .held)
    else
      let (s, bs) := s.takePlaces (w.kid.getD 0) ps
      (s, .ok bs)

/-- Bytes of an element of a viewed buffer, at least 1; a plain one is bytes. -/
def State.elemOf (s : State) (w : Who) (buf : Nat) : State × Nat :=
  let (s, d) := s.entryOf w buf
  (s, match d with
    | .ok d => if d.view == 0 then 1 else Nat.max 1 (d.nibs / 2)
    | .error _ => 1)

/-- `len` bytes of a stream; a length that is no multiple of its elements fails check 6. -/
def State.streamRead (s : State) (w : Who) (buf off len : Nat) : State × Got (List (Byte × Bool)) :=
  let (t, es) := s.elemOf w buf
  match t.agentRead w buf (streamForm .read es) (offsFrom off es (len / es)) with
  | (_, .held) => (s, .held)
  | (t, .bad c) => (t, .bad c)
  | (t, .ok bs) => (t, if len % es != 0 then .bad 5 else .ok bs)

/-- The buffer lies in layer H, as writes of the collective engine must (R357). -/
def State.inH (s : State) (w : Who) (buf : Nat) : State × Bool :=
  let (s, d) := s.entryOf w buf
  (s, match d with
    | .ok d => d.layer == 0
    | .error _ => true)

/-- Bytes written to places; those marked go as poison (R289). -/
def State.putBytes (s : State) (w : Who) (ps : List Place) (bytes : List (Byte × Bool)) : State × Got Unit :=
  if s.agentHeld ps then (s, .held) else ((s.putPlaces (w.kid.getD 0) ps bytes).agentAhead, .ok ())

def State.agentWrite (s : State) (w : Who) (buf : Nat) (f : Form) (offs : List Int) (bytes : List (Byte × Bool)) : State × Got Unit :=
  if s.tablesHeld w buf f offs then (s, .held)
  else
    match s.access w buf f offs with
    | (s, .error x) => (s, .bad x.fail.cause)
    | (s, .ok es) => s.putBytes w es.flatten bytes

/-- The places of `len` bytes of a stream that are written, all of its checks made; another layer than H fails check 6 (R357). -/
def State.streamPlaces (s : State) (w : Who) (buf off len : Nat) : State × Got (List Place) :=
  let (t, es) := s.elemOf w buf
  let f := streamForm .write es
  let offs := offsFrom off es (len / es)
  if t.tablesHeld w buf f offs then (s, .held)
  else
    let (t, h) := t.inH w buf
    match t.access w buf f offs with
    | (t, .error x) => (t, .bad x.fail.cause)
    | (t, .ok ps) => (t, if !h || len % es != 0 then .bad 5 else .ok ps.flatten)

def State.streamWrite (s : State) (w : Who) (buf off : Nat) (bytes : List (Byte × Bool)) : State × Got Unit :=
  match s.streamPlaces w buf off bytes.length with
  | (s, .ok ps) => s.putBytes w ps bytes
  | (s, .held) => (s, .held)
  | (s, .bad c) => (s, .bad c)

def State.readWords (s : State) (w : Who) (ref : Word) (off n : Nat) : State × Got (List Word) :=
  let (s, r) := s.agentRead w (refBuf ref) (plainForm .read 8) (offsFrom (refOff ref + off) 8 n)
  (s, match r with
    | .ok bs => .ok ((List.range n).map (fun i => leWord (((bs.drop (8 * i)).take 8).map (fun b => b.1))))
    | .held => .held
    | .bad c => .bad c)

def State.writeWords (s : State) (w : Who) (ref : Word) (off : Nat) (ws : List Word) : State × Got Unit :=
  s.agentWrite w (refBuf ref) (plainForm .write 8) (offsFrom (refOff ref + off) 8 ws.length)
    ((ws.flatMap wordBytes).map (fun b => (b, false)))

-- the slot of a program

def State.showProg (s : State) (no : Nat) (p : Prog) (st err : Nat) : State :=
  let slot : CmdSlot := { st := st, kind := kColl, err := err, doneb := p.doneb, cmd := no }
  s.modInfo p.slot (fun t => match t.cmds.find? p.tag with
    | some y => if y.cmd == no && y.kind == kColl then { t with cmds := t.cmds.put p.tag slot } else t
    | none => t)

/-- The program ends: its entry is free, and ASTAT shows how it went (R362). -/
def State.closeProg (s : State) (no : Nat) (p : Prog) : State :=
  let coll := { s.coll with progs := s.coll.progs.del no, pushed := s.coll.pushed.filter (fun k => k / 64 != no) }
  ({ s with coll := coll }).showProg no p (if p.status == some 0 then csDone else csAborted) p.errc

-- completion records (R363)

def Prog.record (p : Prog) (cyc : Word) : List Word :=
  [mkWord [(32, 16, p.epoch), (16, 16, p.step), (10, 6, p.flags.toNat), (9, 1, if p.poison then 1 else 0),
           (8, 1, if p.partly then 1 else 0), (0, 8, p.status.getD 0)],
   BitVec.ofNat 64 p.missing, BitVec.ofNat 64 p.bytes, cyc]

def State.writeRec (s : State) (p : Prog) : State × Got Unit :=
  if p.hdr.isEmpty then (s, .bad p.errc)
  else s.agentWrite (p.who s) (refBuf p.crec) (plainForm .write 32) [(refOff p.crec : Int)]
    (((p.record s.cyc).flatMap wordBytes).map (fun b => (b, false)))

-- credits

/-- Bytes of the closing credit: EXPECT - PEND, or 0 when EXPECT is 0 (R362). -/
def closingAmount (b : BoVal) : Nat := if b.expect = 0 then 0 else (b.expect + 2 ^ 48 - b.pend) % 2 ^ 48

/-- What an amount comes to on the object as it stands. -/
def State.amountAt (s : State) (w : Who) (bo : Word) (amount : BoVal → Nat) : Nat :=
  match (s.boKey w (refBuf bo) (refOff bo) (.atomic false)).2 with
  | .ok key => amount (s.boAt (w.kid.getD 0) key)
  | .error _ => 0

def State.creditProg (s : State) (p : Prog) (amount : BoVal → Nat) : State × Credit :=
  s.creditBy (p.who s) 4 (refBuf p.bo) (refOff p.bo) amount (p.ev { kind := 15 })
    (if p.queue.isSome then 0 else BitVec.ofNat 64 p.tag)

/-- A refused credit: the program stops with CHECK and makes no further one (12 R389). -/
def State.stopBare (s : State) (no : Nat) (p : Prog) (cause : Nat) : State :=
  let p := { p with status := some 4, errc := cause, phase := 0, cur := none, owe := [], after := 4 }
  match s.writeRec p with
  | (s, .held) => (s.setProg no p).addWaiter (.prog no)
  | (s, _) => s.closeProg no p

/-- Make the credits a step owes, in order; then go on as `after` says. -/
def State.payAll (s : State) (no : Nat) (p : Prog) : List Nat → State
  | [] => if p.after = 0 then s.setProg no { p with owe := [], phase := 0, cur := none }
    else s.closeProg no { p with owe := [] }
  | n :: ns =>
    let amount : BoVal → Nat := if p.after = 2 then closingAmount else fun _ => n
    let got := s.amountAt (p.who s) p.bo amount
    let (s, r) := s.creditProg p amount
    match r with
    | .made =>
      let p := { p with doneb := (p.doneb + got) % 2 ^ 48 }
      State.payAll (s.showProg no p csActive 0) no p ns
    | .held | .waits => (s.setProg no { p with owe := n :: ns }).addWaiter (.prog no)
    | .refused _ cause => if p.after = 2 then s.closeProg no { p with owe := [] } else s.stopBare no { p with step := if p.after = 0 then p.step - 1 else p.step } cause

/-- A program stops (R362): the completion record, then the closing credit. -/
def State.stopProg (s : State) (no : Nat) (p : Prog) (status cause : Nat) : State :=
  let p := { p with status := some status, errc := cause, phase := 0, cur := none, owe := [], after := 3 }
  match s.writeRec p with
  | (s, .held) => (s.setProg no p).addWaiter (.prog no)
  | (s, .bad c) => s.payAll no { p with errc := c, after := 2 } [0]
  | (s, .ok _) => s.payAll no { p with after := 2 } [0]

/-- Go on after page service, or once a pin has gone. -/
def State.retryProg (s : State) (no : Nat) : State :=
  match s.prog? no with
  | none => s
  | some p =>
    if p.after = 4 then s.stopBare no p p.errc
    else if p.after = 3 then s.stopProg no p (p.status.getD 0) p.errc
    else if p.owe.isEmpty then s
    else s.payAll no p p.owe

-- messages

/-- Hand a message to a rank: one of this package by the inbox, another by its link. -/
def State.sendMsg (s : State) (m : Msg) : State :=
  let no := s.coll.inNo
  let m := { m with no := no }
  if m.dst < 2 ^ 20 && s.rankHere m.comm m.dst then
    { s with coll := { s.coll with inbox := s.coll.inbox.put no m, inNo := no + 1 } }
  else { s with coll := { s.coll with outbox := s.coll.outbox.put no m, inNo := no + 1 } }

def Prog.msg (p : Prog) (dst : Nat) (body : Traffic) : Msg :=
  { comm := p.comm, src := p.rank, dst := dst, epoch := p.epoch, step := p.step, no := 0, body := body }

def State.dropMsg (s : State) (no : Nat) : State := { s with coll := { s.coll with inbox := s.coll.inbox.del no } }
def State.putMsg (s : State) (no : Nat) (m : Msg) : State := { s with coll := { s.coll with inbox := s.coll.inbox.put no m } }

def isWrite : Traffic → Bool
  | .write _ _ _ _ _ _ _ => true
  | _ => false

/-- Traffic that END waits for. -/
def isOpen : Traffic → Bool
  | .write _ _ _ _ _ _ _ | .signal _ | .unpaid _ => true
  | _ => false

/-- Messages of the program that are not performed yet. -/
def State.openMsgs (s : State) (p : Prog) (which : Traffic → Bool) : Bool :=
  (s.coll.inbox ++ s.coll.outbox).any (fun x => x.2.comm == p.comm && x.2.src == p.rank && x.2.epoch == p.epoch && which x.2.body)

/-- The running program of a rank in an epoch. -/
def State.progAt (s : State) (comm rank epoch : Nat) : Option (Nat × Prog) :=
  (s.coll.progs.filter (fun x => x.2.started && x.2.status.isNone && x.2.comm == comm && x.2.rank == rank &&
    x.2.epoch == epoch)).head?

-- epochs (R360)

def rankKey (comm rank : Nat) : Nat := comm * 2 ^ 20 + rank

inductive Gate where
  | current | next | old | later
deriving DecidableEq, Repr

/-- The epochs a rank of this package has begun since the communicator's entry became valid. -/
def State.epochOf (s : State) (comm rank : Nat) : Nat :=
  if s.stor.cut.contains comm then 0 else s.coll.epochs.get (rankKey comm rank) 0

/-- An epoch against the one a rank of this package is in. -/
def State.epochGate (s : State) (comm rank epoch : Nat) : Gate :=
  let started := s.epochOf comm rank
  let d := (epoch + 65537 - started % 65536) % 65536
  if d == 1 then .next
  else if started == 0 then .later
  else if d == 0 then .current
  else if d ≥ 32768 then .old
  else .later

-- starting (R360)

/-- The communicator checks. -/
def State.commOk (s : State) (p : Prog) : Bool :=
  p.comm < 4096 && bitsOf (s.commWord p.comm 0) 63 1 == 1 && s.commCtx p.comm == p.ctx.toNat && p.rank < p.nrank &&
  p.nrank == s.commRanks p.comm && s.commRpp p.comm != 0 && s.rankHere p.comm p.rank

/-- An earlier program of the rank on the communicator, or one whose communicator is not known yet, goes first. -/
def State.progBehind (s : State) (no : Nat) (p : Prog) : Bool :=
  s.coll.progs.any (fun x => x.1 < no && x.2.rank == p.rank && (x.2.hdr.isEmpty || x.2.comm == p.comm))

def State.startProg (s : State) (no : Nat) (p : Prog) : State :=
  let e := s.epochOf p.comm p.rank
  let old : Store Nat := if s.stor.cut.contains p.comm then s.coll.epochs.filter (fun x => x.1 / 2 ^ 20 != p.comm) else s.coll.epochs
  let p := { p with started := true, epoch := e % 65536 }
  (({ s with coll := { s.coll with epochs := old.put (rankKey p.comm p.rank) (e + 1) }
             stor := { s.stor with cut := s.stor.cut.filter (fun c => c != p.comm) } }).setProg no p).showProg no p csActive 0

def State.collStart (s : State) (no : Nat) : State :=
  match s.prog? no with
  | none => s
  | some p =>
    if p.started || p.status.isSome || s.stalled p.gang then s
    else
      let (s, r) := if p.hdr.isEmpty then s.readWords (p.who s) p.cbuf 0 24 else (s, .ok p.hdr)
      match r with
      | .held => s
      | .bad c => s.stopProg no p 4 c
      | .ok ws =>
        let p := { p with hdr := ws, comm := bitsOf (ws.getD 0 0) 16 16 }
        if s.progBehind no p then s.setProg no p
        else if s.commOk p then s.startProg no p
        else s.stopProg no p 7 0

def execCollProgramStart (prog : Nat) (s : State) : Host.Outcome State Fault Refusal := .next (s.collStart prog)

/-- Fetch step `j` of a program (R355, R362): the step, or the stop it causes. While the stall wire holds GSC for its task, it is HELD
before its next step (16 R297). -/
def State.fetchStep (s : State) (no : Nat) : State × Option Instr :=
  match s.prog? no with
  | none => (s, none)
  | some p =>
    if !p.runnable || p.phase != 0 || s.stalled p.gang then (s, none)
    else if p.step ≥ p.nstep || p.nstep > 4096 then (s.stopProg no p 5 0, none)
    else
      let (s, r) := s.readWords (p.who s) p.cbuf (0xC0 + 16 * p.step) 2
      match r with
      | .held => (s, none)
      | .bad c => (s.stopProg no p 4 c, none)
      | .ok ws =>
        match Sys2Proof.decodeStep (ws.getD 0 0) (ws.getD 1 0) with
        | some i => ({ s with coll := { s.coll with cur := no } }, some i)
        | none => (s.stopProg no p 5 0, none)

end Sys2Proof.Machine
end

