-- ==== Sys2Proof/Machine/Collective.lean ====
section
/-! DEFINITION. The steps of collective programs (21 R356 to R362). A step acts on the program `coll.cur`; one that waits is run
again by COLL_STEP_COMPLETE. -/

namespace Sys2Proof.Machine

/-- How a step ends: complete, with the credits it owes; waiting; or stopping its program. -/
inductive StepEnd where
  | done (p : Prog) (owe : List Nat)
  | stay (p : Prog)
  | stop (p : Prog) (status cause : Nat)

/-- Granules of a stream (16 R288): one of 0 bytes for an empty one. -/
def chunkSizes (n : Nat) : List Nat :=
  (List.range (Nat.max 1 (ceilDiv n granule))).map (fun i => Nat.min granule (n - i * granule))

/-- The credits of a step with C. -/
def owed (c : Bool) (n : Nat) : List Nat := if c then chunkSizes n else []

/-- Run a step of the program, unless another is in progress, or the stall wire holds its task's GSC: it is then HELD (16 R297). LI, SA
and SB need an active LOOP (R356). -/
def State.doStep (s : State) (no : Nat) (i : Instr) (a : StepArgs) (f : State → Prog → State × StepEnd) : State :=
  match s.prog? no with
  | none => s
  | some p =>
    if !p.runnable || s.stalled p.gang || !(p.phase == 0 || p.cur == some i) then s
    else if !i.wf .L || ((a.li || a.sa || a.sb) && p.loops.isEmpty) then s.stopProg no p 5 0
    else
      match f s p with
      | (s, .done q owe) => s.payAll no q owe
      | (s, .stay q) =>
        s.setProg no { q with phase := Nat.max 1 q.phase, cur := some i, since := if p.phase = 0 then s.wall else p.since }
      | (s, .stop q status cause) => s.stopProg no q status cause

-- peers (R356, R358)

/-- The peer of a step; none where PM 3 names no rank. -/
def Prog.peerOf (p : Prog) (a : StepArgs) : Option Nat :=
  let n := p.nrank
  let d := (a.peer.toNat + (if a.li then p.loopIdx else 0)) % 65536
  match a.pm.toNat with
  | 1 => some ((p.rank + d) % n)
  | 2 => some (((p.rank : Int) - d) % n).toNat
  | 3 => if p.rank ^^^ d < n then some (p.rank ^^^ d) else none
  | _ => none

/-- Traffic for an epoch later than the next waits at its sender (R360). -/
def State.epochHeld (s : State) (p : Prog) (dst : Nat) : Bool :=
  s.rankHere p.comm dst && s.epochGate p.comm dst p.epoch == .later

-- the exchange area (R359)

/-- Entry `i` of array `arr`: 0 SCNT, 1 RCNT, 2 SOFF, 3 ROFF, 4 DOFF. Without an area the check fails (LOG 35). -/
def State.xchg (s : State) (p : Prog) (arr i n : Nat) : State × Got (List Word) :=
  if p.xref == 0 then (s, .bad 2) else s.readWords (p.who s) p.xref (8 * (arr * p.nrank + i)) n

def State.xchgPut (s : State) (p : Prog) (arr : Nat) (ws : List Word) : State × Got Unit :=
  if p.xref == 0 then (s, .bad 2) else s.writeWords (p.who s) p.xref (8 * arr * p.nrank) ws

/-- Go on with a value read, wait, or stop with CHECK. -/
def andThen {α : Type} (r : State × Got α) (p : Prog) (k : State → α → State × StepEnd) : State × StepEnd :=
  match r with
  | (s, .ok x) => k s x
  | (s, .held) => (s, .stay p)
  | (s, .bad c) => (s, .stop p 4 c)

def head0 (ws : List Word) : Nat := (ws.headD 0).toNat

-- SEND and RECV

/-- One message for each granule of the `len` bytes at `base`. -/
def State.sendAll (s : State) (p : Prog) (dst buf : Nat) (c : Bool) (base len : Nat) : Nat → List (List (Byte × Bool)) → State
  | _, [] => s
  | off, g :: gs =>
    let bad := (g.zip (List.range g.length)).filterMap (fun (x : (Byte × Bool) × Nat) => if x.1.2 then some x.2 else none)
    State.sendAll (s.sendMsg (p.msg dst (.write buf off (g.map (fun b => b.1)) bad c base len))) p dst buf c base len (off + g.length) gs

def splitGranules (bs : List (Byte × Bool)) : List (List (Byte × Bool)) :=
  (List.range (Nat.max 1 (ceilDiv bs.length granule))).map (fun i => (bs.drop (i * granule)).take granule)

/-- Source data that storage cannot correct is carried as poison, with an event (16 R289). -/
def State.noteBad (s : State) (p : Prog) (ref : Word) (off : Nat) (bs : List (Byte × Bool)) : State :=
  if bs.any (fun b => b.2) then s.memErr (p.ev { kind := 6 }) (refBuf ref) off else s

def State.sendBytes (s : State) (p : Prog) (a : StepArgs) (peer len soff doff : Nat) : State × StepEnd :=
  let src := p.handle a.ha
  let dst := p.handle a.hb
  andThen (s.streamRead (p.who s) (refBuf src) (refOff src + soff) len) p (fun s bs =>
    let s := s.noteBad p src (refOff src + soff) bs
    let s := s.sendAll p peer (refBuf dst) a.c (refOff dst + doff) len (refOff dst + doff) (splitGranules bs)
    (s, .done p.next []))

def State.sendStep (s : State) (p : Prog) (a : StepArgs) : State × StepEnd :=
  match p.peerOf a with
  | none => (s, .done p.next [])
  | some d =>
    if !s.hasPath (s.pkgOf p.comm d) then (s, .stop p 6 0)
    else if s.epochHeld p d then (s, .stay p)
    else if a.ix then
      andThen (s.xchg p 0 d 1) p (fun s n =>
        if head0 n ≥ 2 ^ 32 then (s, .stop p 4 0)
        else andThen (s.xchg p 2 d 1) p (fun s so =>
          andThen (s.xchg p 4 d 1) p (fun s dof => s.sendBytes p a d (head0 n) (head0 so) (head0 dof))))
    else
      let off (b : Bool) : Nat := if b then p.loopIdx * a.len.toNat else 0
      s.sendBytes p a d a.len.toNat (off a.sa) (off a.sb)

def execSend (a : StepArgs) (s : State) : Host.Outcome State Fault Refusal :=
  .next (s.doStep s.coll.cur (.send a) a (fun s p => s.sendStep p a))

def State.recvLen (s : State) (p : Prog) (a : StepArgs) (d : Nat) : State × Got Nat :=
  if a.ix then
    match s.xchg p 1 d 1 with
    | (s, .ok n) => (s, .ok (head0 n))
    | (s, .held) => (s, .held)
    | (s, .bad c) => (s, .bad c)
  else (s, .ok a.len.toNat)

def State.recvStep (s : State) (p : Prog) (a : StepArgs) : State × StepEnd :=
  match p.peerOf a with
  | none => (s, .done p.next [])
  | some d =>
    if !s.hasPath (s.pkgOf p.comm d) then (s, .stop p 6 0)
    else andThen (s.recvLen p a d) p (fun s n =>
      if n ≥ 2 ^ 32 then (s, .stop p 4 0)
      else
        let p := if p.phase = 4 then p
          else { p with expect := p.expect.put d ((p.expect.get d 0 + n) % 2 ^ 32), phase := 4 }
        if p.recv.get d 0 ≥ p.expect.get d 0 then (s, .done p.next (owed a.c n)) else (s, .stay p))

def execRecv (a : StepArgs) (s : State) : Host.Outcome State Fault Refusal :=
  .next (s.doStep s.coll.cur (.recv a) a (fun s p => s.recvStep p a))

-- reductions (R352, R353)

/-- Bytes of an element of a reduction type, where the operation is one it accepts. -/
def redSize (ty op : Nat) : Option Nat :=
  if ty = 2 then (if op = 0 || op = 4 || op = 5 then some 4 else none)
  else if ty = 8 || ty = 10 then (if op = 9 || op = 10 || op = 11 then some (if ty = 8 then 4 else 2) else none)
  else none

def signature (ty op count : Nat) : BitVec 32 := BitVec.ofNat 32 (op * 2 ^ 28 + ty * 2 ^ 24 + count % 2 ^ 24)

/-- Bytes of an element, and whether TYPE, ROP and LEN obey R352. -/
def redFields (a : StepArgs) : Option Nat :=
  match redSize a.ty.toNat a.rop.toNat with
  | some n => if a.len.toNat ≤ 2 ^ 20 && a.len.toNat % n == 0 then some n else none
  | none => none

def slotKey (comm slot : Nat) : Nat := comm * 64 + slot
def genKey (comm rank slot : Nat) : Nat := rankKey comm rank * 64 + slot

def State.setGen (s : State) (comm rank slot g : Nat) : State :=
  { s with coll := { s.coll with gens := s.coll.gens.put (genKey comm rank slot) (g % 65536) } }

/-- Results of a slot that a rank of this package has not pulled are dropped. -/
def State.dropResults (s : State) (comm rank slot : Nat) : State :=
  let keep (x : Nat × Msg) : Bool := match x.2.body with
    | .result sl _ _ _ _ _ _ _ _ => !(x.2.comm == comm && x.2.dst == rank && sl == slot)
    | _ => true
  { s with coll := { s.coll with inbox := s.coll.inbox.filter keep } }

def State.pushStep (s : State) (no : Nat) (p : Prog) (a : StepArgs) : State × StepEnd :=
  if p.phase = 2 then (s, .done p.next [])
  else if p.phase = 3 then (s, .stop p 2 0)
  else if p.phase = 4 then (s, .stay p)
  else match redFields a with
    | none => (s, .stop p 5 0)
    | some n =>
      let slot := a.slot.toNat
      if s.coll.pushed.contains (no * 64 + slot) then (s, .stop p 5 0)
      else if s.noReduce p.comm then (s, .stop p 7 0)
      else
        let home := s.commHome p.comm
        let src := p.handle a.ha
        let off := refOff src + (if a.sa then p.loopIdx * a.len.toNat else 0)
        if home != 0xFFFF && !s.soundUp then (s, .stop p 6 0)
        else andThen (s.streamRead (p.who s) (refBuf src) off a.len.toNat) p (fun s bs =>
          let s := s.noteBad p src off bs
          let bad := (List.range (a.len.toNat / n)).filter (fun e => ((bs.drop (n * e)).take n).any (fun b => b.2))
          let g := s.coll.gens.get (genKey p.comm p.rank slot) 0
          let m := p.msg (if home = 0xFFFF then p.rank else 2 ^ 20 + home)
            (.contrib slot g (signature a.ty.toNat a.rop.toNat (a.len.toNat / n)) (bs.map (fun b => b.1)) bad p.tmo)
          let s := s.sendMsg m
          ({ s with coll := { s.coll with pushed := (no * 64 + slot) :: s.coll.pushed } }, .stay { p with phase := 4 }))

def execPushred (a : StepArgs) (s : State) : Host.Outcome State Fault Refusal :=
  .next (s.doStep s.coll.cur (.pushred a) a (fun s p => s.pushStep s.coll.cur p a))

/-- The result that a rank's generation of a slot waits for. -/
def State.resultFor (s : State) (p : Prog) (slot : Nat) : Option Msg :=
  let g := s.coll.gens.get (genKey p.comm p.rank slot) 0
  ((s.coll.inbox.filter (fun x => match x.2.body with
    | .result sl gen _ _ _ _ _ _ _ => x.2.comm == p.comm && x.2.dst == p.rank && sl == slot && gen == g
    | _ => false)).head?).map (fun x => x.2)

/-- Where the contributor mask of `n` ranks goes, in layer H; nowhere if MREF is 0 (R357). -/
def State.maskPlaces (s : State) (p : Prog) (n : Nat) : State × Got (List Place) :=
  if p.mref == 0 then (s, .ok [])
  else
    let w := p.who s
    let f := plainForm .write 1
    let offs := offsFrom (refOff p.mref) 1 (ceilDiv n 8)
    if s.tablesHeld w (refBuf p.mref) f offs then (s, .held)
    else
      let (s, h) := s.inH w (refBuf p.mref)
      match s.access w (refBuf p.mref) f offs with
      | (s, .error x) => (s, .bad x.fail.cause)
      | (s, .ok es) => (s, if !h then .bad 5 else if s.agentHeld es.flatten then .held else .ok es.flatten)

/-- The contributor mask at MREF: bit r of n bits (R357). -/
def State.writeMask (s : State) (p : Prog) (ps : List Place) (mask : List Bool) : State :=
  let byte (i : Nat) : Byte := BitVec.ofNat 8 (packBits ((mask.drop (8 * i)).take 8))
  let m (i : Nat) : Byte := BitVec.ofNat 8 (2 ^ Nat.min 8 (mask.length - 8 * i) - 1)
  (s.homeMasked (((p.who s).kid).getD 0) ((ps.zip (List.range ps.length)).map (fun (x : Place × Nat) => (x.1.key, byte x.2, m x.2)))).agentAhead

def State.pullStep (s : State) (no : Nat) (p : Prog) (a : StepArgs) : State × StepEnd :=
  match redFields a with
  | none => (s, .stop p 5 0)
  | some n =>
    let slot := a.slot.toNat
    if s.noReduce p.comm then (s, .stop p 7 0)
    else match s.resultFor p slot with
      | none => (s, .stay p)
      | some m =>
        match m.body with
        | .result _ g sig bytes bad mask flags partly mismatch =>
          if mismatch || sig != signature a.ty.toNat a.rop.toNat (a.len.toNat / n) then
            (s.dropResults p.comm p.rank slot, .stop p 1 0)
          else
            let dst := p.handle a.hb
            let off := refOff dst + (if a.sb then p.loopIdx * a.len.toNat else 0)
            let marked := (bytes.zip (List.range bytes.length)).map (fun (x : Byte × Nat) => (x.1, bad.contains (x.2 / n)))
            andThen (s.maskPlaces p mask.length) p (fun s ps =>
              andThen (s.streamWrite (p.who s) (refBuf dst) off marked) p (fun s _ =>
                let s := ((s.writeMask p ps mask).dropResults p.comm p.rank slot).setGen p.comm p.rank slot (g + 1)
                let s := { s with coll := { s.coll with pushed := s.coll.pushed.filter (fun k => k != no * 64 + slot) } }
                (s, .done { p.next with
                  flags := p.flags ||| flags, poison := p.poison || !bad.isEmpty, partly := p.partly || partly
                  missing := (mask.filter (fun b => !b)).length, bytes := p.bytes + a.len.toNat } (owed a.c a.len.toNat))))
        | _ => (s, .stay p)

def execPull (a : StepArgs) (s : State) : Host.Outcome State Fault Refusal :=
  .next (s.doStep s.coll.cur (.pull a) a (fun s p => s.pullStep s.coll.cur p a))

-- COPY

def State.copyStep (s : State) (p : Prog) (a : StepArgs) : State × StepEnd :=
  let w := p.who s
  let n := a.len.toNat
  let off (b : Bool) : Nat := if b then p.loopIdx * n else 0
  let src := p.handle a.ha
  let dst := p.handle a.hb
  let (s, x) := s.entryOf w (refBuf src)
  let (s, y) := s.entryOf w (refBuf dst)
  let unit := match x, y with
    | .ok x, .ok y => copyUnit x y
    | _, _ => some 2
  match unit with
  | none => (s, .stop p 4 5)
  | some u =>
    let es := Nat.max 1 (u / 2)
    let offs (r : Word) (d : Nat) : List Int := offsFrom (refOff r + d) es (n / es)
    let (s, r) := s.access w (refBuf src) { need := .read, es := es, align := es } (offs src (off a.sa))
    match r with
    | .error f => (s, .stop p 4 f.fail.cause)
    | .ok sp =>
      let (s, r) := s.access w (refBuf dst) { need := .write, es := es, align := es, nibble := true } (offs dst (off a.sb))
      match r with
      | .error f => (s, .stop p 4 f.fail.cause)
      | .ok dp =>
        let (s, h) := s.inH w (refBuf dst)
        if n % es != 0 || !h then (s, .stop p 4 5)
        else if s.agentHeld (sp.flatten ++ dp.flatten) then (s, .stay p)
        else
          let (s, bad) := s.movePlaces (w.kid.getD 0) sp.flatten dp.flatten
          let s := if bad then s.memErr (p.ev { kind := 6 }) (refBuf src) (refOff src + off a.sa) else s
          (s, .done { p.next with bytes := p.bytes + n } (owed a.c n))

def execCollCopy (a : StepArgs) (s : State) : Host.Outcome State Fault Refusal :=
  .next (s.doStep s.coll.cur (.collCopy a) a (fun s p => s.copyStep p a))

-- WAIT and SIGNAL

def State.waitStep (s : State) (p : Prog) (a : StepArgs) : State × StepEnd :=
  if p.sig.get a.slot.toNat 0 ≥ a.len.toNat then (s, .done p.next []) else (s, .stay p)

def execWait (a : StepArgs) (s : State) : Host.Outcome State Fault Refusal :=
  .next (s.doStep s.coll.cur (.wait a) a (fun s p => s.waitStep p a))

/-- A release: every earlier SEND is performed first (R361). -/
def State.signalStep (s : State) (p : Prog) (a : StepArgs) : State × StepEnd :=
  match p.peerOf a with
  | none => (s, .done p.next [])
  | some d =>
    if !s.hasPath (s.pkgOf p.comm d) then (s, .stop p 6 0)
    else if s.openMsgs p isWrite || s.epochHeld p d then (s, .stay p)
    else (s.sendMsg (p.msg d (.signal a.slot.toNat)), .done p.next [])

def execCollSignal (a : StepArgs) (s : State) : Host.Outcome State Fault Refusal :=
  .next (s.doStep s.coll.cur (.collSignal a) a (fun s p => s.signalStep p a))

-- LOOP and ENDL

/-- Skip to the step after the ENDL that closes a LOOP: `depth` loops are open, `fuel` steps are left. -/
def State.skipLoop (s : State) (p : Prog) : Nat → Nat → Nat → State × Got Nat
  | 0, j, _ => (s, .ok j)
  | fuel + 1, j, depth =>
    let (s, r) := s.readWords (p.who s) p.cbuf (0xC0 + 16 * j) 2
    match r with
    | .held => (s, .held)
    | .bad c => (s, .bad c)
    | .ok ws =>
      let opc := bitsOf (ws.getD 0 0) 0 8
      if opc = 0x08 then State.skipLoop s p fuel (j + 1) (depth + 1)
      else if opc = 0x09 then
        (match depth with
          | 0 => (s, .ok (j + 1))
          | d + 1 => State.skipLoop s p fuel (j + 1) d)
      else State.skipLoop s p fuel (j + 1) depth

def State.loopStep (s : State) (p : Prog) (a : StepArgs) : State × StepEnd :=
  if p.loops.length ≥ 4 then (s, .stop p 5 0)
  else if a.len == 0 then
    andThen (s.skipLoop p (p.nstep - (p.step + 1)) (p.step + 1) 0) p (fun s j => (s, .done { p with step := j } []))
  else (s, .done { p.next with loops := (p.step + 1, 0, a.len.toNat) :: p.loops } [])

def execCollLoop (a : StepArgs) (s : State) : Host.Outcome State Fault Refusal :=
  .next (s.doStep s.coll.cur (.collLoop a) a (fun s p => s.loopStep p a))

def State.endlStep (s : State) (p : Prog) : State × StepEnd :=
  match p.loops with
  | [] => (s, .stop p 5 0)
  | (start, i, n) :: ls =>
    if i + 1 < n then (s, .done { p with step := start, loops := (start, i + 1, n) :: ls } [])
    else (s, .done { p.next with loops := ls } [])

def execEndl (a : StepArgs) (s : State) : Host.Outcome State Fault Refusal :=
  .next (s.doStep s.coll.cur (.endl a) a (fun s p => s.endlStep p))

-- COUNTX and PFXSUM (R359)

/-- Send one value to every rank. -/
def State.sendVals (s : State) (p : Prog) (body : Word → Traffic) : Nat → List Word → State
  | _, [] => s
  | d, v :: vs => State.sendVals (s.sendMsg (p.msg d (body v))) p body (d + 1) vs

def Prog.allIn (p : Prog) (xs : Store Nat) : Bool := (List.range p.nrank).all xs.has
def Prog.column (p : Prog) (xs : Store Nat) : List Word := (List.range p.nrank).map (fun r => BitVec.ofNat 64 (xs.get r 0))
def State.allPaths (s : State) (p : Prog) : Bool := (s.commPkgs p.comm).all s.hasPath

def State.countStep (s : State) (p : Prog) : State × StepEnd :=
  if p.phase ≤ 1 then
    if !s.allPaths p then (s, .stop p 6 0)
    else andThen (s.xchg p 0 0 p.nrank) p (fun s ws => (s.sendVals p (.count p.countNo) 0 ws, .stay { p with phase := 4 }))
  else if p.allIn p.rcnt then
    andThen (s.xchgPut p 1 (p.column p.rcnt)) p (fun s _ => (s, .done { p.next with rcnt := [], countNo := p.countNo + 1 } []))
  else (s, .stay p)

def execCountx (a : StepArgs) (s : State) : Host.Outcome State Fault Refusal :=
  .next (s.doStep s.coll.cur (.countx a) a (fun s p => s.countStep p))

/-- Sums of the values before each. -/
def prefixSums : Nat → List Word → List Nat
  | _, [] => []
  | acc, w :: ws => acc :: prefixSums (acc + w.toNat) ws

def State.pfxStep (s : State) (p : Prog) : State × StepEnd :=
  if p.phase ≤ 1 then
    if !s.allPaths p then (s, .stop p 6 0)
    else andThen (s.xchg p 0 0 p.nrank) p (fun s sc =>
      andThen (s.xchg p 1 0 p.nrank) p (fun s rc =>
        let so := prefixSums 0 sc
        let ro := prefixSums 0 rc
        if (so ++ ro).any (fun x => x ≥ 2 ^ 48) then (s, .stop p 4 0)
        else andThen (s.xchgPut p 2 (so.map (BitVec.ofNat 64))) p (fun s _ =>
          andThen (s.xchgPut p 3 (ro.map (BitVec.ofNat 64))) p (fun s _ =>
            (s.sendVals p (.offset p.prefNo) 0 (ro.map (BitVec.ofNat 64)), .stay { p with phase := 4 })))))
  else if p.allIn p.doff then
    andThen (s.xchgPut p 4 (p.column p.doff)) p (fun s _ => (s, .done { p.next with doff := [], prefNo := p.prefNo + 1 } []))
  else (s, .stay p)

def execPfxsum (a : StepArgs) (s : State) : Host.Outcome State Fault Refusal :=
  .next (s.doStep s.coll.cur (.pfxsum a) a (fun s p => s.pfxStep p))

-- END (R361)

def State.endStep (s : State) (p : Prog) : State × StepEnd :=
  if s.openMsgs p isOpen then (s, .stay p)
  else
    let q := { p with status := some 0 }
    andThen (s.writeRec q) p (fun s _ => (s, .done { q with after := 1 } [32]))

def execCollEnd (a : StepArgs) (s : State) : Host.Outcome State Fault Refusal :=
  .next (s.doStep s.coll.cur (.collEnd a) a (fun s p => s.endStep p))

-- waiting steps

/-- Run the step in progress of a program again. -/
def execCollStepComplete (prog : Nat) (s : State) : Host.Outcome State Fault Refusal :=
  let s := { s with coll := { s.coll with cur := prog } }
  match (s.prog? prog).bind Prog.cur with
  | some (.send a) => execSend a s
  | some (.recv a) => execRecv a s
  | some (.pushred a) => execPushred a s
  | some (.pull a) => execPull a s
  | some (.collCopy a) => execCollCopy a s
  | some (.wait a) => execWait a s
  | some (.collSignal a) => execCollSignal a s
  | some (.collLoop a) => execCollLoop a s
  | some (.countx a) => execCountx a s
  | some (.pfxsum a) => execPfxsum a s
  | some (.collEnd a) => execCollEnd a s
  | _ => .next s

/-- A step that has waited TMO µs stops its program (R362). -/
def execCollTimeout (prog : Nat) (s : State) : Host.Outcome State Fault Refusal :=
  match s.prog? prog with
  | some p =>
    if p.runnable && p.phase != 0 && p.tmo != 0 && p.since + p.tmo ≤ s.wall then .next (s.stopProg prog p 3 0) else .next s
  | none => .next s

end Sys2Proof.Machine
end

