-- ==== Sys2Proof/Machine/Control.lean ====
section
/-! DEFINITION. The control words: transfers, loops, suspension, TFENCE, traps, CSRs and the privileged words (04 R67 to R83,
10 R175 to R177). -/

namespace Sys2Proof.Machine

/-- A word without a result, which a false guard makes a word of tokens only (R59). -/
def plainEff (h : Hdr) (f : State → Eff) (s : State) : Eff := if s.guardTrue h then f s else .done s none 0 .next

-- transfers (R67, R68)

/-- The transfer to a target of the current stream. -/
def State.gotoFlow (s : State) (keep : Bool) (t : Target) : Flow :=
  .goto keep (s.curEng.sect.num + t.delta.toNat) t.word.toNat

/-- BRC: a poisoned operand has been consumed before issue. -/
def brcTakes (c : Cond) (x y : SVal) : Bool := !x.poison && !y.poison && condHolds c x.val y.val

def callEff (t : Target) (g : Grp) (s : State) : Eff :=
  .done (s.modCur (fun x => { x with stack := g.pcOf (g.idx + 1) :: x.stack })) none 0 (s.gotoFlow true t)

def retEff (s : State) : Eff :=
  match s.curEng.stack with
  | pc :: rest => .done (s.modCur (fun x => { x with stack := rest })) none 0
      (.goto true s.curEng.sect.num (s.curEng.sect.wordOf pc))
  | [] => .done s none 0 .next

-- loops (R69, R72)

/-- Activate level `l`, or pass the body when there is nothing to do. -/
def loopEff (staged : Bool) (l m : Nat) (a : SSrc) (stop : BitVec 16) (g : Grp) (s : State) : Eff :=
  let e := s.curEng
  let n := (s.srd a).val.toNat
  let total := loopTotal staged n m
  if total == 0 then .done s none 0 (.past (stop.toNat + 1))
  else
    let v : LoopLvl := { staged := staged, sect := e.sect.num, order := e.order + 1, total := total, lc := 0, n := n, m := m,
                         base := 0, cut := n, start := e.sect.wordOf (g.pcOf (g.idx + 1)), stop := stop.toNat }
    .done (s.modCur (fun x => { x with loops := x.loops.put l v, order := x.order + 1 })) none 0 .next

def brklEff (l : Nat) (s : State) : Eff :=
  match s.curEng.loops.find? l with
  | some v => .done (s.modCur (fun x => x.cutLoops v.order)) none 0 (.past (v.stop + 1))
  | none => .done s none 0 .next

-- suspension (10 R175 to R177)

/-- SUSPEND reads the phase of the object that s2 names, as an acquire at `.pkg` (R176); uncorrectable storage never
differs (12 R387) and posts one event. Its read of s2 is no register read of the group rules: an earlier member of its group may write
s2, and SUSPEND reads what it wrote (DESIGN CHOICE, LOG 73). -/
def suspendEff (s : State) : Eff :=
  let w := (s.seenEng.reg 2).val
  let buf := bitsOf w 0 16
  if buf = 0 then .done s none 0 (.suspend none)
  else
    s.memEff (.acq .pkg) buf (boForm .read) [(bitsOf w 16 48 : Int)] true (fun ps s =>
      let key := keyOf ps
      let s := (s.toHome s.cur.1 (lineOf key)).reach [lineOf key]
      if s.boBad key then
        .done (s.memErr (s.taskEv s.cur.1 { kind := 6, eng := engIdx s.cur.2 }) buf (bitsOf w 16 48)) none 0
          (.suspend (some (false, key, true)))
      else .done s none 0 (.suspend (some ((s.boAt s.curKid key).phase == 1, key, false))))

/-- WATCH (R177): the line of the first byte (LOG 28); a full table arms an entry that counts as woken. -/
def State.arm (s : State) (line : Nat) : State :=
  match s.curCore.task with
  | none => s
  | some t =>
    let nums := (s.sched.tasks.filter (fun x => x.1 != t.slot)).filterMap (fun x => x.2.watch.bind Watch.num)
    let num := if nums.length < 16384 then (List.range 16384).find? (fun n => !nums.contains n) else none
    let s := s.modInfo t.slot (fun x =>
      { x with watch := some { line := line, gen := s.recGen t.slot, num := num, woke := num.isNone } })
    s.setRecWord t.slot 0x38 (setBits (s.recWord t.slot 0x38) 24 24 (match num with
      | some n => n + 1
      | none => 0xFFFFFF))

def watchEff (m : MemOp) (s : State) : Eff :=
  let (buf, off) := s.memRef m 128
  s.memEff .none buf { need := .read, es := 128, align := 128, noView := true } [off] false (fun ps s =>
    .done (s.arm (lineOf (keyOf ps))) none 0 .next)

-- TFENCE and traps (R75, R76)

/-- The test of 02 R39: FFLAGS as earlier members left them, FENAB as it stood before the group. -/
def tfenceBits (g : Grp) (s : State) : FlagSet := s.curEng.csr.fflags &&& g.csr.fenab

/-- A trap that is taken after the group has retired; that of an earlier member comes first. -/
def State.owe (s : State) (d : Due) : State :=
  s.modCur (fun x => { x with grp := x.grp.map (fun g => { g with owes := some (g.owes.getD d) }) })

def tfenceEff (g : Grp) (s : State) : Eff :=
  let b := tfenceBits g s
  if b == 0 then .done s none 0 .next
  else .done (s.owe (.arith b)) none 0 .next

def trapEff (code : BitVec 16) (s : State) : Eff := .done (s.owe (.software code)) none 0 .next

-- CSRs (R78 to R81)

/-- What CSRR reads: the value at the issue of its group (R78). -/
def State.csrVal (s : State) (g : Grp) : Csr → Word
  | .fflags => g.csr.fflags.setWidth 64
  | .fenab => g.csr.fenab.setWidth 64
  | .frm => g.csr.frm.setWidth 64
  | .cyc => g.cyc
  | .gsc => g.gsc
  | .band => g.band
  | .task => match s.curCore.task with
    | some t => mkWord [(32, 16, t.lrec.toNat), (0, 32, t.tile.toNat)]
    | none => 0
  | .core => BitVec.ofNat 64 s.cur.1
  | .quad => BitVec.ofNat 64 (s.cur.1 / 4)
  | .die => BitVec.ofNat 64 (s.cur.1 / 128)
  | .pkg => g.pkg.setWidth 64
  | .rank => match s.curCore.task with
    | some t => t.rank.setWidth 64
    | none => 0
  | .nrank => match s.curCore.task with
    | some t => t.nrank.setWidth 64
    | none => 0
  | .waitr => mkWord [(8, 1, if g.csr.blocked then 1 else 0), (0, 8, g.csr.reason.toNat)]
  | .pht => g.csr.pht
  | .phtm => g.csr.phtm
  | .trapc => g.csr.trapc.setWidth 64
  | .trapv => g.csr.trapv
  | .trappc => g.csr.trappc.setWidth 64
  | .ctx => g.kcsr.1.setWidth 64
  | .btbase => mkWord [(21, 35, g.kcsr.2.1.toNat), (0, 16, g.kcsr.2.2.1.toNat)]
  | .ptbase => mkWord [(12, 44, g.kcsr.2.2.2.toNat)]

/-- A write to a per-engine CSR (R80): a write of FFLAGS keeps the flags of earlier members of its group (02 R38). -/
def Csrs.write (k : Csrs) (g : Grp) (r : Csr) (a : Word) : Csrs :=
  match r with
  | .fflags => { k with fflags := a.setWidth 6 ||| g.flags }
  | .fenab => { k with fenab := a.setWidth 6 }
  | .frm => { k with frm := a.setWidth 2 }
  | .pht => { k with pht := a }
  | .phtm => { k with phtm := a }
  | .trapc => { k with trapc := a.setWidth 8 }
  | .trapv => { k with trapv := a }
  | .trappc => { k with trappc := a.setWidth 16 }
  | _ => k

/-- A write to a per-core CSR (R80, R81). -/
def Core.csrWrite (k : Core) (r : Csr) (a : Word) : Core :=
  match r with
  | .ctx => { k with ctx := a.setWidth 16 }
  | .btbase => { k with btbase := a.extractLsb' 21 35, btlast := a.setWidth 16 }
  | .ptbase => { k with ptroot := a.extractLsb' 12 44 }
  | _ => k

def Csr.perCore : Csr → Bool
  | .ctx | .btbase | .ptbase => true
  | _ => false

/-- Words of L and S that access memory. -/
def isAccess : Instr → Bool
  | .lds _ _ _ _ _ _ | .sts _ _ _ _ | .cld _ _ _ _ _ | .amo _ _ _ _ _ _ | .cas _ _ _ _ _ | .vld _ _ _ _ | .vlds _ _ _ _ _ _
  | .vldx _ _ _ _ _ _ | .vldb _ _ _ _ _ | .vst _ _ _ | .vsts _ _ _ _ _ | .vstx _ _ _ _ _ | .vstn _ _ _ _ | .amov _ _ _ _ _
  | .boarm _ _ _ | .boadd _ _ _ | .bowait _ _ _ _ | .suspend _ | .watch _ _ | .rchk _ _ _ _ | .rinv _ _ _ _ | .agath _ _ _ _
  | .ascat _ _ _ _ => true
  | _ => false

/-- An engine has issued an access, before the group with number `no` of the core issued, that has not been performed. -/
def State.accessing (s : State) (c : Nat) (e : Eng) (no : Nat) : Bool :=
  match (s.eng c e).grp with
  | none => false
  | some g =>
    let first := if (s.eng c e).owed.isSome then g.idx + 1 else g.idx
    decide (g.no < no) && (((List.range g.size).drop first).filterMap (fun i => s.memberInstr c e (g.pcOf i))).any isAccess

/-- The accesses that L and S issued before are complete (R81, R83): their members have performed, and their writes are
performed beyond the core. While it waits, WAITR.REASON holds FENCE, which R323 lists for other waits alone (DESIGN CHOICE, LOG 73). -/
def State.quiesce (s : State) (f : State → Eff) : Eff :=
  let c := s.cur.1
  let no := (s.curEng.grp.map Grp.no).getD 0
  if [Eng.L, Eng.S].any (fun e => e != s.cur.2 && s.accessing c e no) then .wait s rFence
  else
    let s := s.perform c
    if s.curCore.settled then f s else .wait s rFence

/-- A write that makes PHT equal to a PHTM that is not 0 is a crossing (18 R327). -/
def Engine.crossing (g : Engine) (r : Csr) : Engine :=
  if (r == .pht || r == .phtm) && g.sup.isNone && g.csr.phtm != 0 && g.csr.pht == g.csr.phtm then { g with phtDue := true } else g

def csrwEff (r : Csr) (a : Word) (g : Grp) (s : State) : Eff :=
  if Csr.perCore r then s.quiesce (fun s => .done (s.modCore s.cur.1 (fun k => k.csrWrite r a)) none 0 .next)
  else .done (s.modCur (fun x => { x with csr := x.csr.write g r a }.crossing r)) none 0 .next

-- TLBINV and BUFINV (R83)

/-- The entry overlaps `n` units of 64 KiB from `lo`, in context `ctx`. -/
def TlbE.overlaps (t : TlbE) (ctx : BitVec 16) (lo n : Nat) : Bool :=
  t.ctx == ctx && (n == 0 || (t.vpage * 2 ^ t.log < lo + 65536 * n && lo < (t.vpage + 1) * 2 ^ t.log))

/-- The context is that of CTX as the word performs: an earlier member of its group may have written it (DESIGN CHOICE, LOG 73). -/
def tlbinvEff (a b : Word) (s : State) : Eff :=
  s.quiesce (fun s =>
    let lo := bitsOf a 16 40 * 65536
    .done (s.modCore s.cur.1 (fun k => { k with tlb := k.tlb.filter (fun t => !t.overlaps k.ctx lo b.toNat) }))
      (some (.sc SVal.zero)) 0 .next)

/-- BUFINV with bits of a[62:16] set takes a bounds fault; its TRAPV shows check 1, offset 0 and element 0, for which no rule gives values
(DESIGN CHOICE, LOG 73). -/
def bufinvEff (a : Word) (s : State) : Eff :=
  if bitsOf a 63 1 == 0 && bitsOf a 16 47 != 0 then .fault s { fail := fBounds 1, elem := 0, off := 0 } 0
  else
    s.quiesce (fun s =>
      .done (s.modCore s.cur.1 (fun k => { k with bufc := k.bufc.filter (fun b =>
          !(bitsOf a 63 1 == 1 || (b.ctx == k.ctx && b.idx == bitsOf a 0 16))) }))
        (some (.sc SVal.zero)) 0 .next)

-- the words

def execNop (h : Hdr) : State → Host.Outcome State Fault Refusal :=
  performWord (.nop h) (fun _ s => .done s none 0 .next)
def execBr (h : Hdr) (t : Target) : State → Host.Outcome State Fault Refusal :=
  performWord (.br h t) (fun _ => plainEff h (fun s => .done s none 0 (s.gotoFlow false t)))
def execBrc (h : Hdr) (c : Cond) (a b : SSrc) (t : Target) : State → Host.Outcome State Fault Refusal :=
  performWord (.brc h c a b t) (fun _ => plainEff h (fun s =>
    .done s none 0 (if brcTakes c (s.srd a) (s.srd b) then s.gotoFlow false t else .next)))
def execBrp (h : Hdr) (all : Bool) (a : Fin 16) (t : Target) : State → Host.Outcome State Fault Refusal :=
  performWord (.brp h all a t) (fun _ s =>
    .done s none 0 (if brpTaken all a (s.prd a) (s.seenCore.pred h.g.toNat) h.gn then s.gotoFlow false t else .next))
def execCall (h : Hdr) (t : Target) : State → Host.Outcome State Fault Refusal :=
  performWord (.call h t) (fun g => plainEff h (callEff t g))
def execRet (h : Hdr) : State → Host.Outcome State Fault Refusal :=
  performWord (.ret h) (fun _ => plainEff h retEff)
def execLoop (h : Hdr) (l : Fin 4) (a : SSrc) (stop : BitVec 16) : State → Host.Outcome State Fault Refusal :=
  performWord (.loop h l a stop) (fun g => plainEff h (loopEff false l.val 1 a stop g))
def execLoops (h : Hdr) (l : Fin 4) (a : SSrc) (m1 : BitVec 3) (stop : BitVec 16) : State → Host.Outcome State Fault Refusal :=
  performWord (.loops h l a m1 stop) (fun g => plainEff h (loopEff true l.val (m1.toNat + 1) a stop g))
def execBrkl (h : Hdr) (l : Fin 4) : State → Host.Outcome State Fault Refusal :=
  performWord (.brkl h l) (fun _ => plainEff h (brklEff l.val))
def execSuspend (h : Hdr) : State → Host.Outcome State Fault Refusal :=
  performWord (.suspend h) (fun _ => plainEff h suspendEff)
def execYield (h : Hdr) : State → Host.Outcome State Fault Refusal :=
  performWord (.yield h) (fun _ => plainEff h (fun s => .done s none 0 .yield))
def execHalt (h : Hdr) : State → Host.Outcome State Fault Refusal :=
  performWord (.halt h) (fun _ => plainEff h (fun s => .done s none 0 .halt))
def execWatch (h : Hdr) (m : MemOp) : State → Host.Outcome State Fault Refusal :=
  performWord (.watch h m) (fun _ => watchEff m)
def execSleep (h : Hdr) : State → Host.Outcome State Fault Refusal :=
  performWord (.sleep h) (fun _ => plainEff h (fun s => .done s none 0 .sleep))
def execTfence (h : Hdr) : State → Host.Outcome State Fault Refusal :=
  performWord (.tfence h) (fun g => plainEff h (tfenceEff g))
def execStampb (h : Hdr) (a : SSrc) (i : BitVec 30) : State → Host.Outcome State Fault Refusal :=
  performWord (.stampb h a i) (fun _ s =>
    let m := (s.srd a).val + imm30 i
    .done (s.modCore s.cur.1 (fun k => { k with mstb := m })) (some (.sc (.clean m))) 0 .next)
def execTrap (h : Hdr) (code : BitVec 16) : State → Host.Outcome State Fault Refusal :=
  performWord (.trap h code) (fun _ => plainEff h (trapEff code))
def execBkpt (h : Hdr) (code : BitVec 16) : State → Host.Outcome State Fault Refusal :=
  performWord (.bkpt h code) (fun _ s => .done s none 0 .next)
def execCsrr (h : Hdr) (d : SDst) (r : Csr) : State → Host.Outcome State Fault Refusal :=
  performWord (.csrr h d r) (fun g s => scalarEff h d [] (noFlag (s.csrVal g r)) s)
def execCsrw (h : Hdr) (r : Csr) (a : SSrc) : State → Host.Outcome State Fault Refusal :=
  performWord (.csrw h r a) (fun g => plainEff h (fun s => csrwEff r (s.srd a).val g s))
def execEret (h : Hdr) : State → Host.Outcome State Fault Refusal :=
  performWord (.eret h) (fun _ => plainEff h (fun s => .done s none 0 .eret))
def execTlbinv (h : Hdr) (a b : SSrc) : State → Host.Outcome State Fault Refusal :=
  performWord (.tlbinv h a b) (fun _ s => tlbinvEff (s.srd a).val (s.srd b).val s)
def execBufinv (h : Hdr) (a : SSrc) : State → Host.Outcome State Fault Refusal :=
  performWord (.bufinv h a) (fun _ s => bufinvEff (s.srd a).val s)

end Sys2Proof.Machine
end

