-- ==== Sys2Proof/Machine/VecArith.lean ====
section
/-! DEFINITION. What the words of 07 compute on the elements of vector registers (R105 to R123). -/

namespace Sys2Proof.Machine

/-- The rounding mode of an RM field (R30, R48). -/
def resolveRM (frm : BitVec 2) : RM → Rnd
  | .mode r => r
  | .frm => match frm.toNat with
    | 0 => .rne | 1 => .rtz | 2 => .rdn | _ => .rup

/-- An integer element operation, exact and then delivered (R23, R110). -/
def intElem (t : Ty) (sat : Bool) (f : Int → Int → Int) (a b : Nat) : Nat × FlagSet :=
  deliverInt t.isSigned t.width sat (f (readInt t.isSigned t.width a) (readInt t.isSigned t.width b))

def vaddElem (t : Ty) (mode : Rnd) (sat : Bool) (a b : Nat) : Nat × FlagSet :=
  if t.isInt then intElem t sat (· + ·) a b else (flFmt t).add mode sat a b
def vsubElem (t : Ty) (mode : Rnd) (sat : Bool) (a b : Nat) : Nat × FlagSet :=
  if t.isInt then intElem t sat (· - ·) a b else (flFmt t).sub mode sat a b
def vmulElem (t : Ty) (mode : Rnd) (sat : Bool) (a b : Nat) : Nat × FlagSet :=
  if t.isInt then intElem t sat (· * ·) a b else (flFmt t).mul mode sat a b

/-- VMULH (R111). -/
def vmulhElem (t : Ty) (a b : Nat) : Nat × FlagSet :=
  (lowBits t.width (readInt t.isSigned t.width a * readInt t.isSigned t.width b / 2 ^ t.width), 0)

/-- The three fused forms of R112. -/
inductive Fuse where
  | ma | ms | nma
deriving DecidableEq, Repr

def fuseElem (k : Fuse) (t : Ty) (mode : Rnd) (sat : Bool) (a b c : Nat) : Nat × FlagSet :=
  if t.isInt then
    let x := readInt t.isSigned t.width a
    let y := readInt t.isSigned t.width b
    let z := readInt t.isSigned t.width c
    deliverInt t.isSigned t.width sat (match k with
      | .ma => x * y + z
      | .ms => x * y - z
      | .nma => z - x * y)
  else
    let f := flFmt t
    match k with
    | .ma => f.fmaV mode sat (f.read a) (f.read b) (f.read c)
    | .ms => f.fmaV mode sat (f.read a) (f.read b) (f.read c).neg
    | .nma => f.fmaV mode sat (f.read a).neg (f.read b) (f.read c)

/-- VMIN and VMAX (R113). -/
def vminmaxElem (isMax : Bool) (t : Ty) (a b : Nat) : Nat × FlagSet :=
  if t.isInt then
    let less := readInt t.isSigned t.width a < readInt t.isSigned t.width b
    (if less != isMax then a else b, 0)
  else (flFmt t).minmax isMax a b

/-- VABS and VNEG (R114). -/
def vabsElem (t : Ty) (sat : Bool) (a : Nat) : Nat × FlagSet :=
  if t.isInt then
    let x := readInt t.isSigned t.width a
    deliverInt t.isSigned t.width sat (if x < 0 then -x else x)
  else (a % 2 ^ (t.width - 1), 0)
def vnegElem (t : Ty) (sat : Bool) (a : Nat) : Nat × FlagSet :=
  if t.isInt then deliverInt t.isSigned t.width sat (-(readInt t.isSigned t.width a))
  else (a ^^^ 2 ^ (t.width - 1), 0)

/-- Shifts by the low log2 w bits of b (R117). -/
def vshlElem (t : Ty) (a b : Nat) : Nat × FlagSet := (a * 2 ^ (b % t.width) % 2 ^ t.width, 0)
def vshrElem (t : Ty) (a b : Nat) : Nat × FlagSet := (a / 2 ^ (b % t.width), 0)
def vsraElem (t : Ty) (a b : Nat) : Nat × FlagSet :=
  (lowBits t.width (readInt true t.width a / 2 ^ (b % t.width)), 0)

/-- VCOND on two elements, with the NV of a signalling operand (R118). -/
def vcmpElem (c : VCond) (t : Ty) (a b : Nat) : Bool × FlagSet :=
  if t.isInt then
    let x := readInt t.isSigned t.width a
    let y := readInt t.isSigned t.width b
    (match c with
      | .eq => x == y | .ne => x != y | .lt => x < y | .le => x ≤ y | .gt => x > y | .ge => x ≥ y
      | .uo => false | .ord => true, 0)
  else
    let x := (flFmt t).read a
    let y := (flFmt t).read b
    (match c with
      | .eq => x.eqv y
      | .ne => !x.eqv y
      | .lt => x.lt y
      | .le => x.lt y || x.eqv y
      | .gt => y.lt x
      | .ge => y.lt x || x.eqv y
      | .uo => x.isNan || y.isNan
      | .ord => !x.isNan && !y.isNan, flagIf (x.isSnan || y.isSnan) fNV)

/-- The class index of R120. -/
def classOf (t : Ty) (a : Nat) : Nat :=
  if t == .e8m0 then (if a == 0xFF then 9 else 6)
  else
    let f := flFmt t
    match f.read a with
    | .nan s => if s then 8 else 9
    | .inf n => if n then 0 else 7
    | .fin n m _ =>
      if m == 0 then (if n then 3 else 4)
      else if m < 2 ^ f.mbits then (if n then 2 else 5)
      else (if n then 1 else 6)

/-- VSEL (R119): each active element takes data and poison of the chosen source. -/
def vselEls : List Bool → List El → List El → List Res
  | p :: ps, b :: bs, c :: cs => Res.ofEl (if p then b else c) :: vselEls ps bs cs
  | _, _, _ => []

def vselect (w : Nat) (old : VVal) (act pick : List Bool) (b c : Operand) : VVal × FlagSet :=
  vwrite w old (maskRes act (vselEls pick b.els c.els))
    (firstCause [(readsBad (act.zipWith (· && ·) pick) b.els, b.cause),
      (readsBad (act.zipWith (fun a p => a && !p) pick) c.els, c.cause)])

/-- VCMP on the active lanes (R118); poison has been consumed. -/
def vcompare (w : Nat) (old : PBits) (act : List Bool) (a b : Operand) (f : Nat → Nat → Bool × FlagSet) :
    PBits × FlagSet :=
  let rs := a.els.zipWith (fun x y => f x.bits y.bits) b.els
  (predWrite w old act (rs.map (fun r => r.1)),
    orFlags (maskRes act (rs.map (fun r => { bits := 0, bad := false, flags := r.2 }))))

-- reductions and scan

/-- A node of the tree of R121: absent, or a value with its poison and the flags of its subtree's additions. -/
structure Node where
  val   : FVal
  bad   : Bool
  flags : FlagSet
deriving DecidableEq, Repr

/-- comb of R121. -/
def comb (mode : Rnd) (sat : Bool) (u v : Option Node) : Option Node :=
  match u, v with
  | none, v => v
  | u, none => u
  | some u, some v =>
    if u.bad || v.bad then some { val := .fin false 0 0, bad := true, flags := 0 }
    else
      let (r, fl) := FFmt.f32.addV mode sat u.val v.val
      some { val := FFmt.f32.read r, bad := false, flags := u.flags ||| v.flags ||| fl }

def combPairs (mode : Rnd) (sat : Bool) : List (Option Node) → List (Option Node)
  | a :: b :: xs => comb mode sat a b :: combPairs mode sat xs
  | xs => xs

/-- The levels of the tree, leaves first. -/
def treeLevels (mode : Rnd) (sat : Bool) : Nat → List (Option Node) → List (List (Option Node))
  | 0, xs => [xs]
  | n + 1, xs => xs :: treeLevels mode sat n (combPairs mode sat xs)

/-- The leaves of R121: 16-bit elements convert exactly; an inactive lane is absent. -/
def leaves (f : FFmt) : List Bool → List El → List (Option Node)
  | a :: as, x :: xs =>
    (if a then some { val := if x.bad then .fin false 0 0 else f.read x.bits, bad := x.bad, flags := 0 } else none)
      :: leaves f as xs
  | _, _ => []

/-- A node delivered as an FP32 result: a carried NaN becomes canonical, with NV when it is signalling (R121). -/
def nodeRes : Option Node → Res
  | none => .ok (0, 0)
  | some n =>
    if n.bad then .poisoned
    else
      let (r, fl) := FFmt.f32.deliver .rne false n.val
      { bits := r, bad := false, flags := n.flags ||| fl }

/-- One result in element 0, zero elsewhere (R122). -/
def reduceWrite (w : Nat) (r : Res) (cause : BitVec 4) : VVal × FlagSet :=
  if r.bad then ({ data := 0, poison := if w == 64 then 3 else 1, cause := cause }, 0)
  else (VVal.clean (BitVec.ofNat 8192 (r.bits % 2 ^ w)), r.flags)

def activeEls : List Bool → List El → List El
  | a :: as, x :: xs => if a then x :: activeEls as xs else activeEls as xs
  | _, _ => []

def sumInts (t : Ty) : List El → Int
  | [] => 0
  | x :: xs => readInt t.isSigned t.width x.bits + sumInts t xs

/-- VRADD (R122). -/
def vradd (t : Ty) (mode : Rnd) (sat : Bool) (act : List Bool) (a : Operand) : VVal × FlagSet :=
  let xs := activeEls act a.els
  if t.isInt then
    reduceWrite 64 (if xs.any El.bad then .poisoned else .ok (deliverInt t.isSigned 64 sat (sumInts t xs))) a.cause
  else
    let lv := leaves (flFmt t) act a.els
    let top := (treeLevels mode sat (Nat.log2 t.lanes) lv).getLastD []
    reduceWrite 32 (nodeRes (top.headD none)) a.cause

def foldMinMax (isMax : Bool) (t : Ty) : List El → Option (Nat × FlagSet) → Option (Nat × FlagSet)
  | [], acc => acc
  | x :: xs, none => foldMinMax isMax t xs (some (x.bits, 0))
  | x :: xs, some (b, fl) =>
    let (r, f) := vminmaxElem isMax t b x.bits
    foldMinMax isMax t xs (some (r, fl ||| f))

/-- The result with no active lane (R122). -/
def minMaxEmpty (isMax : Bool) (t : Ty) : Nat :=
  if t.isInt then lowBits t.width (if isMax then intLo t.isSigned t.width else intHi t.isSigned t.width)
  else (flFmt t).signBit isMax + (flFmt t).infBits

/-- VRMAX and VRMIN (R122). -/
def vrminmax (isMax : Bool) (t : Ty) (act : List Bool) (a : Operand) : VVal × FlagSet :=
  let xs := activeEls act a.els
  if xs.any El.bad then reduceWrite t.width .poisoned a.cause
  else
    match foldMinMax isMax t xs none with
    | none => reduceWrite t.width (.ok (minMaxEmpty isMax t, 0)) a.cause
    | some (r, _) =>
      if t.isInt then reduceWrite t.width (.ok (r, 0)) a.cause
      else
        let f := flFmt t
        let snan := xs.any (fun x => (f.read x.bits).isSnan)
        reduceWrite t.width (.ok (if (f.read r).isNan then f.nanBits else r, flagIf snan fNV)) a.cause

/-- The blocks of VSCAN lane i (R123): the set bits of i + 1 from the highest down, combined left to right. -/
def scanLane (mode : Rnd) (sat : Bool) (levels : List (List (Option Node))) (l : Nat) : Nat → Nat → Option Node → Option Node
  | 0, _, acc => acc
  | j + 1, s, acc =>
    if l.testBit j then
      scanLane mode sat levels l j (s + 2 ^ j) (comb mode sat acc ((levels.getD j []).getD (s / 2 ^ j) none))
    else scanLane mode sat levels l j s acc

def scanFloat (mode : Rnd) (sat : Bool) (levels : List (List (Option Node))) : Nat → Nat → List Res
  | 0, _ => []
  | n + 1, i => nodeRes (scanLane mode sat levels (i + 1) 9 0 none) :: scanFloat mode sat levels n (i + 1)

def scanInt (t : Ty) (sat : Bool) : List Bool → List El → Int → Bool → List Res
  | a :: as, x :: xs, acc, bad =>
    let acc := if a then acc + readInt t.isSigned t.width x.bits else acc
    let bad := bad || (a && x.bad)
    (if bad then Res.poisoned else .ok (deliverInt t.isSigned t.width sat acc)) :: scanInt t sat as xs acc bad
  | _, _, _, _ => []

/-- VSCAN (R123). -/
def vscan (t : Ty) (mode : Rnd) (sat : Bool) (old : VVal) (act : List Bool) (a : Operand) : VVal × FlagSet :=
  let rs :=
    if t.isInt then scanInt t sat act a.els 0 false
    else scanFloat mode sat (treeLevels mode sat 8 (leaves .f32 act a.els)) 256 0
  vwrite t.width old (maskRes act rs) a.cause

end Sys2Proof.Machine
end

