-- ==== Sys2Proof/Machine/VecConv.lean ====
section
/-! DEFINITION. What the words of 08 compute: conversions, MX quantisation, permutation, predicates and poison words
(R124 to R144). -/

namespace Sys2Proof.Machine

def convRes (dt st : Ty) (mode : Rnd) (sat : Bool) (x : El) : Res :=
  if x.bad then .poisoned else .ok (convElem dt st mode sat x.bits)

/-- Results placed from element `lo`, `n` elements in all; elements outside are not written. -/
def placeRes (lo n : Nat) (rs : List Res) : List (Option Res) :=
  (List.replicate lo none ++ rs.map some ++ List.replicate (n - lo - rs.length) none).take n

def maskOpt : List Bool → List (Option Res) → List (Option Res)
  | a :: as, r :: rs => (if a then r else none) :: maskOpt as rs
  | _, _ => []

def anyBad (rs : List (Option Res)) : Bool := rs.any (fun r => r.any Res.bad)

/-- VCVT (R127). -/
def vcvt (dt st : Ty) (mode : Rnd) (sat : Bool) (part : Nat) (old : VVal) (act : List Bool) (a : VVal) : VVal × FlagSet :=
  let src := a.els st.width
  let rs :=
    if dt.width ≥ st.width then
      placeRes 0 dt.lanes (((src.drop (part * dt.lanes)).take dt.lanes).map (convRes dt st mode sat))
    else placeRes (part * st.lanes) dt.lanes (src.map (convRes dt st mode sat))
  vwrite dt.width old (maskOpt act rs) a.cause

def interleave : List Res → List Res → List Res
  | x :: xs, y :: ys => x :: y :: interleave xs ys
  | _, _ => []

def readsBadRes : List Bool → List Res → Bool
  | a :: as, r :: rs => (a && r.bad) || readsBadRes as rs
  | _, _ => false

def evens : List Bool → List Bool
  | a :: _ :: xs => a :: evens xs
  | _ => []
def odds : List Bool → List Bool
  | _ :: b :: xs => b :: odds xs
  | _ => []

/-- VPACK (R128). -/
def vpack (dt st : Ty) (mode : Rnd) (sat : Bool) (old : VVal) (act : List Bool) (a b : VVal) : VVal × FlagSet :=
  let ra := (a.els st.width).map (convRes dt st mode sat)
  let rb := (b.els st.width).map (convRes dt st mode sat)
  vwrite dt.width old (maskRes act (interleave ra rb))
    (firstCause [(readsBadRes (evens act) ra, a.cause), (readsBadRes (odds act) rb, b.cause)])

/-- Every `r`-th element, the first `skip` left out. -/
def everyNth (r : Nat) : Nat → List El → List El
  | _, [] => []
  | 0, x :: xs => x :: everyNth r (r - 1) xs
  | k + 1, _ :: xs => everyNth r k xs

/-- VUNPK (R129). -/
def vunpk (dt st : Ty) (mode : Rnd) (sat : Bool) (part : Nat) (old : VVal) (act : List Bool) (a : VVal) : VVal × FlagSet :=
  vwrite dt.width old (maskRes act ((everyNth (dt.ratio st) part (a.els st.width)).map (convRes dt st mode sat))) a.cause

/-- VLDEXP (R132): a × 2^b. -/
def ldexpElem (f : FFmt) (mode : Rnd) (sat : Bool) (a b : Nat) : Nat × FlagSet :=
  match f.read a with
  | .fin n m e => f.round mode sat n m (e + readInt true f.width b)
  | v => f.deliver mode sat v

-- MX blocks (R36, R130, R131)

def chunks (k : Nat) : Nat → List α → List (List α)
  | 0, _ => []
  | n + 1, xs => xs.take k :: chunks k n (xs.drop k)

/-- ⌊log2⌋ of the largest magnitude of a block; `none` when every element is zero. -/
def amaxLog : List FVal → Option Int → Option Int
  | [], acc => acc
  | .fin _ m e :: xs, acc =>
    if m == 0 then amaxLog xs acc
    else
      let l : Int := (Nat.log2 m : Int) + e
      amaxLog xs (some (match acc with
        | none => l
        | some k => if l > k then l else k))
  | _ :: xs, acc => amaxLog xs acc

/-- R36 on one block: scale, elements with their flags, and the flag of a NaN block. -/
def quantBlock (f : FFmt) (mode : Rnd) (xs : List FVal) : Nat × List (Nat × FlagSet) × FlagSet :=
  if xs.any (fun x => x.isNan || x.isInf) then (0xFF, xs.map (fun _ => (f.nanBits, 0)), fNV)
  else
    match amaxLog xs none with
    | none => (0x7F, xs.map (fun x => (f.signBit x.isNeg, 0)), 0)
    | some l =>
      let n := clampInt (l - (if f == .e2m1 then 2 else 8)) (-127) 127
      ((n + 127).toNat, xs.map (fun x => match x with
        | .fin s m e => f.round mode true s m (e - n)
        | _ => (0, 0)), 0)

/-- One computed block of VQMX: elements for D and the scale for B. -/
structure QBlock where
  elems : List Res
  scale : Res
deriving DecidableEq, Repr

def qblock (f : FFmt) (st : FFmt) (mode : Rnd) (xs : List El) : QBlock :=
  if xs.any El.bad then { elems := xs.map (fun _ => .poisoned), scale := .poisoned }
  else
    let (sc, es, fl) := quantBlock f mode (xs.map (fun x => st.read x.bits))
    { elems := es.map Res.ok, scale := { bits := sc, bad := false, flags := fl } }

/-- A block is computed when one of its destination elements is active (R130). -/
def scalesOf : List (List Bool) → List QBlock → List (Option Res)
  | a :: as, q :: qs => (if a.any id then some q.scale else none) :: scalesOf as qs
  | _, _ => []

/-- VQMX (R130): the new D and B. -/
def vqmx (dt st : Ty) (mode : Rnd) (part : Nat) (oldD oldB : VVal) (act : List Bool) (a : VVal) : VVal × VVal × FlagSet :=
  let ns := st.lanes
  let nb := ns / 32
  let qs := (chunks 32 nb (a.els st.width)).map (qblock (flFmt dt) (flFmt st) mode)
  let acts := chunks 32 nb (act.drop (part * ns))
  let el := placeRes (part * ns) dt.lanes (qs.flatMap QBlock.elems)
  let sc := scalesOf acts qs
  let scAll := (List.replicate (part * nb) none ++ sc ++ List.replicate (1024 - part * nb - nb) none)
  let (d, fd) := vwrite dt.width oldD (maskOpt act el) a.cause
  let (b, fb) := vwrite 8 oldB scAll a.cause
  (d, b, fd ||| fb)

/-- VDQMX (R131): scale times element; a NaN scale or element gives the canonical NaN and no flag. -/
def dqElem (dt : FFmt) (pf : FFmt) (mode : Rnd) (sat : Bool) (p x : Nat) : Nat × FlagSet :=
  if x == 0xFF then (dt.nanBits, 0)
  else
    match pf.read p with
    | .fin n m e => dt.round mode sat n m (e + (x : Int) - 127)
    | _ => (dt.nanBits, 0)

def vdqmx (dt st : Ty) (mode : Rnd) (sat : Bool) (part : Nat) (old : VVal) (act : List Bool) (a b : VVal) : VVal × FlagSet :=
  let nd := dt.lanes
  let ps := ((a.els st.width).drop (part * nd)).take nd
  let xs := (((b.els 8).drop (part * nd / 32)).take (nd / 32)).flatMap (fun x => List.replicate 32 x)
  vwrite dt.width old (maskRes act (lane2 (dqElem (flFmt dt) (flFmt st) mode sat) ps xs))
    (firstCause [(readsBad act ps, a.cause), (readsBad act xs, b.cause)])

-- permutation

/-- Element `j` of a register at width `w`. -/
def elAt (w : Nat) (v : VVal) (j : Nat) : El :=
  { bits := v.data.toNat / 2 ^ (w * j) % 2 ^ w
    bad := if w == 64 then v.poison.getLsbD (2 * j) || v.poison.getLsbD (2 * j + 1) else v.poison.getLsbD (w * j / 32) }

/-- The index of VPERM (R134). -/
def permIndex (w n i b : Nat) : Nat := if w == 8 then 256 * (i / 256) + b else b % n

/-- Data element chosen by each index element. -/
def permEls (w n : Nat) (a : VVal) : Nat → List El → List El
  | _, [] => []
  | i, x :: xs => elAt w a (permIndex w n i x.bits) :: permEls w n a (i + 1) xs

def orBad : List El → List El → List Res
  | x :: xs, y :: ys => (if y.bad then Res.poisoned else Res.ofEl x) :: orBad xs ys
  | _, _ => []

/-- VPERM (R134). Where an index element is poisoned, the element of A that its data picks still counts as read, and its cause comes
first (DESIGN CHOICE, LOG 68). -/
def vperm (t : Ty) (old : VVal) (act : List Bool) (a b : VVal) : VVal × FlagSet :=
  let ix := b.els t.width
  let ds := permEls t.width t.lanes a 0 ix
  vwrite t.width old (maskRes act (orBad ds ix)) (firstCause [(readsBad act ds, a.cause), (readsBad act ix, b.cause)])

/-- VSHUF (R135). Where C is poisoned, the elements of A and B that its value picks still count as read, and their causes come first
(DESIGN CHOICE, LOG 68). -/
def vshuf (t : Ty) (old : VVal) (act : List Bool) (a b : VVal) (c : SVal) : VVal × FlagSet :=
  let k := c.val.toNat % t.lanes
  let ea := (a.els t.width).drop k
  let eb := (b.els t.width).take k
  if c.poison then
    let actA := act.take (t.lanes - k)
    let actB := act.drop (t.lanes - k)
    vwrite t.width old (maskRes act (List.replicate t.lanes .poisoned))
      (firstCause [(readsBad actA ea, a.cause), (readsBad actB eb, b.cause), (true, c.cause)])
  else
    vwrite t.width old (maskRes act ((ea ++ eb).map Res.ofEl))
      (firstCause [(readsBad (act.take (t.lanes - k)) ea, a.cause), (readsBad (act.drop (t.lanes - k)) eb, b.cause)])

/-- VBCST (R136). -/
def vbcst (t : Ty) (lane : Nat) (old : VVal) (act : List Bool) (a : VVal) : VVal × FlagSet :=
  vwrite t.width old (maskRes act (List.replicate t.lanes (Res.ofEl (elAt t.width a lane)))) a.cause

def replaceAt : List El → Nat → El → List El
  | [], _, _ => []
  | _ :: xs, 0, e => e :: xs
  | x :: xs, k + 1, e => x :: replaceAt xs k e

/-- VINS (R136): A with one element replaced. -/
def vins (t : Ty) (lane : Nat) (old : VVal) (act : List Bool) (a : VVal) (b : SVal) : VVal × FlagSet :=
  let els := replaceAt (a.els t.width) lane { bits := b.val.toNat % 2 ^ t.width, bad := false }
  let rs := (replaceAt (a.els t.width) lane { bits := b.val.toNat % 2 ^ t.width, bad := b.poison }).map Res.ofEl
  vwrite t.width old (maskRes act rs)
    (firstCause [(readsBad act els, a.cause), ((act.getD lane false) && b.poison, b.cause)])

/-- VEXTS (R136): the element extended for `.i` types. -/
def vexts (t : Ty) (lane : Nat) (a : VVal) : SVal :=
  let x := elAt t.width a lane
  if x.bad then .bad a.cause else .clean (BitVec.ofInt 64 (readInt t.isSigned t.width x.bits))

/-- VCOMP and VEXPD (R137). -/
def compress : List Bool → List El → List El
  | p :: ps, x :: xs => if p then x :: compress ps xs else compress ps xs
  | _, _ => []

def expand : List Bool → List El → List El
  | [], _ => []
  | true :: ps, x :: xs => x :: expand ps xs
  | _ :: ps, xs => { bits := 0, bad := false } :: expand ps xs

def vcomp (t : Ty) (old : VVal) (act p : List Bool) (a : VVal) : VVal × FlagSet :=
  let k := compress p (a.els t.width)
  let els := k ++ List.replicate (t.lanes - k.length) { bits := 0, bad := false }
  vwrite t.width old (maskRes act (els.map Res.ofEl)) a.cause

def vexpd (t : Ty) (old : VVal) (act p : List Bool) (a : VVal) : VVal × FlagSet :=
  vwrite t.width old (maskRes act ((expand p (a.els t.width)).map Res.ofEl)) a.cause

/-- Column `c` of VTRN (R138): element 16 g + r of the result is element 16 g + c of source r. -/
def trnEls (w : Nat) (src : List VVal) (c : Nat) : Nat → Nat → List El
  | 0, _ => []
  | n + 1, g => src.map (fun v => elAt w v (16 * g + c)) ++ trnEls w src c n (g + 1)

def trnCause : List VVal → List (List Bool) → Nat → BitVec 4
  | [], _, _ => 0
  | v :: vs, bs, k => if (bs.map (fun b => b.getD k false)).any id then v.cause else trnCause vs bs (k + 1)

def vtrn1 (t : Ty) (old : VVal) (act : List Bool) (src : List VVal) (c : Nat) : VVal × FlagSet :=
  let els := trnEls t.width src c (t.lanes / 16) 0
  let badBy := chunks 16 (t.lanes / 16) (act.zipWith (fun a (x : El) => a && x.bad) els)
  vwrite t.width old (maskRes act (els.map Res.ofEl)) (trnCause src badBy 0)

-- poison words

/-- A lane is cleared when all its elements are active (R139); data passes through. -/
def pclrRes (w : Nat) (v : VVal) : List (Option Res) :=
  (fields w (8192 / w) v.data.toNat).map (fun x => some { bits := x, bad := false, flags := 0 })

def vpclr (t : Ty) (old : VVal) (act : List Bool) (a : VVal) : VVal × FlagSet :=
  vwrite t.width old (maskOpt act (pclrRes t.width a)) a.cause

/-- VPCHK (R144). Under a guard the inactive lanes keep the poison they had (DESIGN CHOICE, LOG 69). -/
def vpchk (t : Ty) (old : VVal) (act : List Bool) (a : VVal) : VVal × FlagSet :=
  vwrite t.width old (maskRes act ((elemPoison t.width a.poison).map (fun b =>
    { bits := if b then a.cause.toNat else 0, bad := false, flags := 0 }))) 0

-- predicates

def countTrue : List Bool → Nat
  | [] => 0
  | b :: bs => (if b then 1 else 0) + countTrue bs

/-- Number of the lowest true lane, or the number of lanes (R142). -/
def firstTrue : List Bool → Nat → Nat
  | [], k => k
  | b :: bs, k => if b then k else firstTrue bs (k + 1)

end Sys2Proof.Machine
end

