-- ==== Sys2Proof/Machine/Vector.lean ====
section
/-! DEFINITION. The vector arithmetic words of X (07 R105 to R123) over the lane operations of VecArith. -/

namespace Sys2Proof.Machine

/-- A vector result: written and pushed whole (R105). -/
def vecDone (d : VDst) (r : VVal × FlagSet) (s : State) : Eff := .done (s.vwr d r.1) (some (.vec r.1)) r.2 .next

/-- A predicate result. -/
def predDone (d : Fin 16) (r : PBits × FlagSet) (s : State) : Eff := .done (s.pwr d r.1) (some (.pred r.1)) r.2 .next

/-- Lane words with one, two and three sources (R105). -/
def vec1 (h : Hdr) (t : Ty) (d : VDst) (a : VSrc) (f : Nat → Nat × FlagSet) (s : State) : Eff :=
  vecDone d (vmap1 t.width (s.vold d) (s.act h t.width) ((s.vrd a).operand t.width) f) s
def vec2 (h : Hdr) (t : Ty) (d : VDst) (a : VSrc) (b : VSSrc) (f : Nat → Nat → Nat × FlagSet) (s : State) : Eff :=
  vecDone d (vmap2 t.width (s.vold d) (s.act h t.width) ((s.vrd a).operand t.width) (s.vsrd t.width b) f) s
def vec3 (h : Hdr) (t : Ty) (d : VDst) (a : VSrc) (b : VSSrc) (c : VSrc) (f : Nat → Nat → Nat → Nat × FlagSet) (s : State) : Eff :=
  vecDone d (vmap3 t.width (s.vold d) (s.act h t.width) ((s.vrd a).operand t.width) (s.vsrd t.width b)
    ((s.vrd c).operand t.width) f) s

/-- The mode an RM field names, with FRM as it stood before the group (02 R30, R38). -/
def Grp.mode (g : Grp) (rm : RM) : Rnd := resolveRM g.csr.frm rm

def vselEff (h : Hdr) (t : Ty) (d : VDst) (a : Fin 16) (b : VSSrc) (c : VSrc) (s : State) : Eff :=
  vecDone d (vselect t.width (s.vold d) (s.act h t.width) (predLanes t.width (s.prd a)) (s.vsrd t.width b)
    ((s.vrd c).operand t.width)) s

def vcmpEff (h : Hdr) (c : VCond) (t : Ty) (d : Fin 16) (a : VSrc) (b : VSSrc) (s : State) : Eff :=
  predDone d (vcompare t.width (s.pold d) (s.act h t.width) ((s.vrd a).operand t.width) (s.vsrd t.width b) (vcmpElem c t)) s

/-- VCLASS to a predicate: the bit of sB at the class index (R120). -/
def vclassPEff (h : Hdr) (t : Ty) (d : Fin 16) (a : VSrc) (b : SSrc) (s : State) : Eff :=
  let x := (s.srd b).val.toNat
  predDone d (predWrite t.width (s.pold d) (s.act h t.width) (((s.vrd a).els t.width).map (fun e => x.testBit (classOf t e.bits))), 0) s

def vraddEff (h : Hdr) (t : Ty) (mode : Rnd) (sat : Bool) (d : VDst) (a : VSrc) (s : State) : Eff :=
  vecDone d (vradd t mode sat (s.act h t.width) ((s.vrd a).operand t.width)) s
def vrminmaxEff (isMax : Bool) (h : Hdr) (t : Ty) (d : VDst) (a : VSrc) (s : State) : Eff :=
  vecDone d (vrminmax isMax t (s.act h t.width) ((s.vrd a).operand t.width)) s
def vscanEff (h : Hdr) (t : Ty) (mode : Rnd) (sat : Bool) (d : VDst) (a : VSrc) (s : State) : Eff :=
  vecDone d (vscan t mode sat (s.vold d) (s.act h t.width) ((s.vrd a).operand t.width)) s

-- the words

def execVadd (h : Hdr) (t : Ty) (rm : RM) (sat : Bool) (d : VDst) (a : VSrc) (b : VSSrc) :
    State → Host.Outcome State Fault Refusal :=
  performWord (.vadd h t rm sat d a b) (fun g => vec2 h t d a b (vaddElem t (g.mode rm) sat))
def execVsub (h : Hdr) (t : Ty) (rm : RM) (sat : Bool) (d : VDst) (a : VSrc) (b : VSSrc) :
    State → Host.Outcome State Fault Refusal :=
  performWord (.vsub h t rm sat d a b) (fun g => vec2 h t d a b (vsubElem t (g.mode rm) sat))
def execVmul (h : Hdr) (t : Ty) (rm : RM) (sat : Bool) (d : VDst) (a : VSrc) (b : VSSrc) :
    State → Host.Outcome State Fault Refusal :=
  performWord (.vmul h t rm sat d a b) (fun g => vec2 h t d a b (vmulElem t (g.mode rm) sat))
def execVmulh (h : Hdr) (t : Ty) (d : VDst) (a : VSrc) (b : VSSrc) :
    State → Host.Outcome State Fault Refusal :=
  performWord (.vmulh h t d a b) (fun _ => vec2 h t d a b (vmulhElem t))
def execVfma (h : Hdr) (t : Ty) (rm : RM) (sat : Bool) (d : VDst) (a : VSrc) (b : VSSrc) (c : VSrc) :
    State → Host.Outcome State Fault Refusal :=
  performWord (.vfma h t rm sat d a b c) (fun g => vec3 h t d a b c (fuseElem .ma t (g.mode rm) sat))
def execVfms (h : Hdr) (t : Ty) (rm : RM) (sat : Bool) (d : VDst) (a : VSrc) (b : VSSrc) (c : VSrc) :
    State → Host.Outcome State Fault Refusal :=
  performWord (.vfms h t rm sat d a b c) (fun g => vec3 h t d a b c (fuseElem .ms t (g.mode rm) sat))
def execVfnma (h : Hdr) (t : Ty) (rm : RM) (sat : Bool) (d : VDst) (a : VSrc) (b : VSSrc) (c : VSrc) :
    State → Host.Outcome State Fault Refusal :=
  performWord (.vfnma h t rm sat d a b c) (fun g => vec3 h t d a b c (fuseElem .nma t (g.mode rm) sat))
def execVmin (h : Hdr) (t : Ty) (d : VDst) (a : VSrc) (b : VSSrc) :
    State → Host.Outcome State Fault Refusal :=
  performWord (.vmin h t d a b) (fun _ => vec2 h t d a b (vminmaxElem false t))
def execVmax (h : Hdr) (t : Ty) (d : VDst) (a : VSrc) (b : VSSrc) :
    State → Host.Outcome State Fault Refusal :=
  performWord (.vmax h t d a b) (fun _ => vec2 h t d a b (vminmaxElem true t))
def execVabs (h : Hdr) (t : Ty) (sat : Bool) (d : VDst) (a : VSrc) :
    State → Host.Outcome State Fault Refusal :=
  performWord (.vabs h t sat d a) (fun _ => vec1 h t d a (vabsElem t sat))
def execVneg (h : Hdr) (t : Ty) (sat : Bool) (d : VDst) (a : VSrc) :
    State → Host.Outcome State Fault Refusal :=
  performWord (.vneg h t sat d a) (fun _ => vec1 h t d a (vnegElem t sat))
def execVrcp (h : Hdr) (t : Ty) (rm : RM) (sat : Bool) (d : VDst) (a : VSrc) :
    State → Host.Outcome State Fault Refusal :=
  performWord (.vrcp h t rm sat d a) (fun g => vec1 h t d a (Fun.elem .rcp (flFmt t) (g.mode rm) sat))
def execVrsq (h : Hdr) (t : Ty) (rm : RM) (sat : Bool) (d : VDst) (a : VSrc) :
    State → Host.Outcome State Fault Refusal :=
  performWord (.vrsq h t rm sat d a) (fun g => vec1 h t d a (Fun.elem .rsq (flFmt t) (g.mode rm) sat))
def execVsqrt (h : Hdr) (t : Ty) (rm : RM) (sat : Bool) (d : VDst) (a : VSrc) :
    State → Host.Outcome State Fault Refusal :=
  performWord (.vsqrt h t rm sat d a) (fun g => vec1 h t d a (Fun.elem .sqrt (flFmt t) (g.mode rm) sat))
def execVexp2 (h : Hdr) (t : Ty) (rm : RM) (sat : Bool) (d : VDst) (a : VSrc) :
    State → Host.Outcome State Fault Refusal :=
  performWord (.vexp2 h t rm sat d a) (fun g => vec1 h t d a (Fun.elem .exp2 (flFmt t) (g.mode rm) sat))
def execVlog2 (h : Hdr) (t : Ty) (rm : RM) (sat : Bool) (d : VDst) (a : VSrc) :
    State → Host.Outcome State Fault Refusal :=
  performWord (.vlog2 h t rm sat d a) (fun g => vec1 h t d a (Fun.elem .log2 (flFmt t) (g.mode rm) sat))
def execVsin (h : Hdr) (t : Ty) (rm : RM) (sat : Bool) (d : VDst) (a : VSrc) :
    State → Host.Outcome State Fault Refusal :=
  performWord (.vsin h t rm sat d a) (fun g => vec1 h t d a (Fun.elem .sin (flFmt t) (g.mode rm) sat))
def execVcos (h : Hdr) (t : Ty) (rm : RM) (sat : Bool) (d : VDst) (a : VSrc) :
    State → Host.Outcome State Fault Refusal :=
  performWord (.vcos h t rm sat d a) (fun g => vec1 h t d a (Fun.elem .cos (flFmt t) (g.mode rm) sat))
def execVtanh (h : Hdr) (t : Ty) (rm : RM) (sat : Bool) (d : VDst) (a : VSrc) :
    State → Host.Outcome State Fault Refusal :=
  performWord (.vtanh h t rm sat d a) (fun g => vec1 h t d a (Fun.elem .tanh (flFmt t) (g.mode rm) sat))
def execVsig (h : Hdr) (t : Ty) (rm : RM) (sat : Bool) (d : VDst) (a : VSrc) :
    State → Host.Outcome State Fault Refusal :=
  performWord (.vsig h t rm sat d a) (fun g => vec1 h t d a (Fun.elem .sig (flFmt t) (g.mode rm) sat))
def execVand (h : Hdr) (t : Ty) (d : VDst) (a : VSrc) (b : VSSrc) :
    State → Host.Outcome State Fault Refusal :=
  performWord (.vand h t d a b) (fun _ => vec2 h t d a b (fun x y => (x &&& y, 0)))
def execVor (h : Hdr) (t : Ty) (d : VDst) (a : VSrc) (b : VSSrc) :
    State → Host.Outcome State Fault Refusal :=
  performWord (.vor h t d a b) (fun _ => vec2 h t d a b (fun x y => (x ||| y, 0)))
def execVxor (h : Hdr) (t : Ty) (d : VDst) (a : VSrc) (b : VSSrc) :
    State → Host.Outcome State Fault Refusal :=
  performWord (.vxor h t d a b) (fun _ => vec2 h t d a b (fun x y => (x ^^^ y, 0)))
def execVshl (h : Hdr) (t : Ty) (d : VDst) (a : VSrc) (b : VSSrc) :
    State → Host.Outcome State Fault Refusal :=
  performWord (.vshl h t d a b) (fun _ => vec2 h t d a b (vshlElem t))
def execVshr (h : Hdr) (t : Ty) (d : VDst) (a : VSrc) (b : VSSrc) :
    State → Host.Outcome State Fault Refusal :=
  performWord (.vshr h t d a b) (fun _ => vec2 h t d a b (vshrElem t))
def execVsra (h : Hdr) (t : Ty) (d : VDst) (a : VSrc) (b : VSSrc) :
    State → Host.Outcome State Fault Refusal :=
  performWord (.vsra h t d a b) (fun _ => vec2 h t d a b (vsraElem t))
def execVcmp (h : Hdr) (c : VCond) (t : Ty) (d : Fin 16) (a : VSrc) (b : VSSrc) :
    State → Host.Outcome State Fault Refusal :=
  performWord (.vcmp h c t d a b) (fun _ => vcmpEff h c t d a b)
def execVsel (h : Hdr) (t : Ty) (d : VDst) (a : Fin 16) (b : VSSrc) (c : VSrc) :
    State → Host.Outcome State Fault Refusal :=
  performWord (.vsel h t d a b c) (fun _ => vselEff h t d a b c)
def execVclassV (h : Hdr) (t : Ty) (d : VDst) (a : VSrc) :
    State → Host.Outcome State Fault Refusal :=
  performWord (.vclassV h t d a) (fun _ => vec1 h t d a (fun x => (classOf t x, 0)))
def execVclassP (h : Hdr) (t : Ty) (d : Fin 16) (a : VSrc) (b : SSrc) :
    State → Host.Outcome State Fault Refusal :=
  performWord (.vclassP h t d a b) (fun _ => vclassPEff h t d a b)
def execVradd (h : Hdr) (t : Ty) (rm : RM) (sat : Bool) (d : VDst) (a : VSrc) :
    State → Host.Outcome State Fault Refusal :=
  performWord (.vradd h t rm sat d a) (fun g => vraddEff h t (g.mode rm) sat d a)
def execVrmax (h : Hdr) (t : Ty) (d : VDst) (a : VSrc) :
    State → Host.Outcome State Fault Refusal :=
  performWord (.vrmax h t d a) (fun _ => vrminmaxEff true h t d a)
def execVrmin (h : Hdr) (t : Ty) (d : VDst) (a : VSrc) :
    State → Host.Outcome State Fault Refusal :=
  performWord (.vrmin h t d a) (fun _ => vrminmaxEff false h t d a)
def execVscan (h : Hdr) (t : Ty) (rm : RM) (sat : Bool) (d : VDst) (a : VSrc) :
    State → Host.Outcome State Fault Refusal :=
  performWord (.vscan h t rm sat d a) (fun g => vscanEff h t (g.mode rm) sat d a)

end Sys2Proof.Machine
end

