-- ==== Sys2Proof/Machine/Convert.lean ====
section
/-! DEFINITION. The conversion, permutation, predicate and poison words of X (08 R124 to R144) over the operations of
VecConv. -/

namespace Sys2Proof.Machine

def vqmxEff (h : Hdr) (dt st : Ty) (mode : Rnd) (part : Nat) (d b : VDst) (a : VSrc) (s : State) : Eff :=
  let (x, y, fl) := vqmx dt st mode part (s.vold d) (s.vold b) (s.act h dt.width) (s.vrd a)
  .done ((s.vwr d x).vwr b y) (some (.vec x)) fl .next

/-- VEXTS under a guard that leaves its lane out is a guarded-off word (R136). -/
def vextsEff (h : Hdr) (t : Ty) (lane : Nat) (d : SDst) (a : VSrc) (s : State) : Eff :=
  if (s.act h t.width).getD lane false then
    .done (s.swr d (vexts t lane (s.vrd a))) (some (.sc (vexts t lane (s.vrd a)))) 0 .next
  else .done s (some (.sc (s.sold d))) 0 .next

/-- VTRN (R138): all sources are read before any destination is written. -/
def State.trnWrite (s : State) (t : Ty) (act : List Bool) (src : List VVal) (d : Nat) : Nat → Nat → State
  | 0, _ => s
  | n + 1, c => State.trnWrite (s.modCore s.cur.1 (fun k =>
      k.setV (d + c) (vtrn1 t (k.vreg (d + c)) act src c).1)) t act src d n (c + 1)

def vtrnEff (h : Hdr) (t : Ty) (d a : Nat) (s : State) : Eff :=
  let src := (List.range 16).map (fun r => s.seenCore.vreg (a + r))
  let s := s.trnWrite t (s.act h t.width) src d 16 0
  .done s (some (.vec (s.curCore.vreg d))) 0 .next

/-- A predicate word over the active lanes (R140, R141). -/
def predLogic (h : Hdr) (t : Ty) (d : Fin 16) (res : List Bool) (s : State) : Eff :=
  predDone d (predWrite t.width (s.pold d) (s.act h t.width) res, 0) s

def pred2 (h : Hdr) (t : Ty) (d a b : Fin 16) (f : Bool → Bool → Bool) (s : State) : Eff :=
  predLogic h t d ((predLanes t.width (s.prd a)).zipWith f (predLanes t.width (s.prd b))) s

/-- The lanes that PCNT and PFIRST look at (R142). -/
def State.counted (s : State) (h : Hdr) (t : Ty) (a : Fin 16) : List Bool :=
  (s.act h t.width).zipWith (· && ·) (predLanes t.width (s.prd a))

def scalarDone (d : SDst) (w : Word) (s : State) : Eff := .done (s.swr d (.clean w)) (some (.sc (.clean w))) 0 .next

-- the words

def execVcvt (h : Hdr) (dt : Ty) (st : Ty) (rm : RM) (sat : Bool) (part : BitVec 3) (d : VDst) (a : VSrc) :
    State → Host.Outcome State Fault Refusal :=
  performWord (.vcvt h dt st rm sat part d a) (fun g s =>
    vecDone d (vcvt dt st (g.mode rm) sat part.toNat (s.vold d) (s.act h dt.width) (s.vrd a)) s)
def execVqmx (h : Hdr) (dt : Ty) (st : Ty) (rm : RM) (sat : Bool) (part : BitVec 3) (d : VDst) (b : VDst) (a : VSrc) :
    State → Host.Outcome State Fault Refusal :=
  performWord (.vqmx h dt st rm sat part d b a) (fun g => vqmxEff h dt st (g.mode rm) part.toNat d b a)
def execVdqmx (h : Hdr) (dt : Ty) (st : Ty) (rm : RM) (sat : Bool) (part : BitVec 3) (d : VDst) (a : VSrc) (b : VSrc) :
    State → Host.Outcome State Fault Refusal :=
  performWord (.vdqmx h dt st rm sat part d a b) (fun g s =>
    vecDone d (vdqmx dt st (g.mode rm) sat part.toNat (s.vold d) (s.act h dt.width) (s.vrd a) (s.vrd b)) s)
def execVpack (h : Hdr) (dt : Ty) (st : Ty) (rm : RM) (sat : Bool) (d : VDst) (a : VSrc) (b : VSrc) :
    State → Host.Outcome State Fault Refusal :=
  performWord (.vpack h dt st rm sat d a b) (fun g s =>
    vecDone d (vpack dt st (g.mode rm) sat (s.vold d) (s.act h dt.width) (s.vrd a) (s.vrd b)) s)
def execVunpk (h : Hdr) (dt : Ty) (st : Ty) (rm : RM) (sat : Bool) (part : BitVec 3) (d : VDst) (a : VSrc) :
    State → Host.Outcome State Fault Refusal :=
  performWord (.vunpk h dt st rm sat part d a) (fun g s =>
    vecDone d (vunpk dt st (g.mode rm) sat part.toNat (s.vold d) (s.act h dt.width) (s.vrd a)) s)
def execVldexp (h : Hdr) (t : Ty) (rm : RM) (sat : Bool) (d : VDst) (a : VSrc) (b : VSSrc) :
    State → Host.Outcome State Fault Refusal :=
  performWord (.vldexp h t rm sat d a b) (fun g => vec2 h t d a b (ldexpElem (flFmt t) (g.mode rm) sat))
def execVperm (h : Hdr) (t : Ty) (d : VDst) (a : VSrc) (b : VSrc) :
    State → Host.Outcome State Fault Refusal :=
  performWord (.vperm h t d a b) (fun _ s => vecDone d (vperm t (s.vold d) (s.act h t.width) (s.vrd a) (s.vrd b)) s)
def execVshuf (h : Hdr) (t : Ty) (d : VDst) (a : VSrc) (b : VSrc) (c : SSrc) :
    State → Host.Outcome State Fault Refusal :=
  performWord (.vshuf h t d a b c) (fun _ s =>
    vecDone d (vshuf t (s.vold d) (s.act h t.width) (s.vrd a) (s.vrd b) (s.srd c)) s)
def execVbcst (h : Hdr) (t : Ty) (lane : BitVec 11) (d : VDst) (a : VSrc) :
    State → Host.Outcome State Fault Refusal :=
  performWord (.vbcst h t lane d a) (fun _ s => vecDone d (vbcst t lane.toNat (s.vold d) (s.act h t.width) (s.vrd a)) s)
def execVins (h : Hdr) (t : Ty) (lane : BitVec 11) (d : VDst) (a : VSrc) (b : SSrc) :
    State → Host.Outcome State Fault Refusal :=
  performWord (.vins h t lane d a b) (fun _ s =>
    vecDone d (vins t lane.toNat (s.vold d) (s.act h t.width) (s.vrd a) (s.srd b)) s)
def execVexts (h : Hdr) (t : Ty) (lane : BitVec 11) (d : SDst) (a : VSrc) :
    State → Host.Outcome State Fault Refusal :=
  performWord (.vexts h t lane d a) (fun _ => vextsEff h t lane.toNat d a)
def execVcomp (h : Hdr) (t : Ty) (d : VDst) (a : VSrc) (b : Fin 16) :
    State → Host.Outcome State Fault Refusal :=
  performWord (.vcomp h t d a b) (fun _ s =>
    vecDone d (vcomp t (s.vold d) (s.act h t.width) (predLanes t.width (s.prd b)) (s.vrd a)) s)
def execVexpd (h : Hdr) (t : Ty) (d : VDst) (a : VSrc) (b : Fin 16) :
    State → Host.Outcome State Fault Refusal :=
  performWord (.vexpd h t d a b) (fun _ s =>
    vecDone d (vexpd t (s.vold d) (s.act h t.width) (predLanes t.width (s.prd b)) (s.vrd a)) s)
def execVtrn (h : Hdr) (t : Ty) (d : Fin 768) (a : Fin 768) :
    State → Host.Outcome State Fault Refusal :=
  performWord (.vtrn h t d a) (fun _ => vtrnEff h t d.val a.val)
def execVpclr (h : Hdr) (t : Ty) (d : VDst) (a : VSrc) :
    State → Host.Outcome State Fault Refusal :=
  performWord (.vpclr h t d a) (fun _ s => vecDone d (vpclr t (s.vold d) (s.act h t.width) (s.vrd a)) s)
def execPand (h : Hdr) (t : Ty) (d : Fin 16) (a : Fin 16) (b : Fin 16) :
    State → Host.Outcome State Fault Refusal :=
  performWord (.pand h t d a b) (fun _ => pred2 h t d a b (fun x y => x && y))
def execPor (h : Hdr) (t : Ty) (d : Fin 16) (a : Fin 16) (b : Fin 16) :
    State → Host.Outcome State Fault Refusal :=
  performWord (.por h t d a b) (fun _ => pred2 h t d a b (fun x y => x || y))
def execPxor (h : Hdr) (t : Ty) (d : Fin 16) (a : Fin 16) (b : Fin 16) :
    State → Host.Outcome State Fault Refusal :=
  performWord (.pxor h t d a b) (fun _ => pred2 h t d a b (fun x y => x != y))
def execPnot (h : Hdr) (t : Ty) (d : Fin 16) (a : Fin 16) :
    State → Host.Outcome State Fault Refusal :=
  performWord (.pnot h t d a) (fun _ s => predLogic h t d ((predLanes t.width (s.prd a)).map not) s)
def execPcnt (h : Hdr) (t : Ty) (d : SDst) (a : Fin 16) :
    State → Host.Outcome State Fault Refusal :=
  performWord (.pcnt h t d a) (fun _ s => scalarDone d (BitVec.ofNat 64 (countTrue (s.counted h t a))) s)
def execPfirst (h : Hdr) (t : Ty) (d : SDst) (a : Fin 16) :
    State → Host.Outcome State Fault Refusal :=
  performWord (.pfirst h t d a) (fun _ s => scalarDone d (BitVec.ofNat 64 (firstTrue (s.counted h t a) 0)) s)
def execPmov (h : Hdr) (t : Ty) (d : Fin 16) (a : Fin 16) (b : SSrc) :
    State → Host.Outcome State Fault Refusal :=
  performWord (.pmov h t d a b) (fun _ s =>
    predLogic h t d ((predLanes t.width (s.prd a)).map (fun x => x && (s.srd b).val.getLsbD 0)) s)
def execVpchk (h : Hdr) (t : Ty) (d : VDst) (a : VSrc) :
    State → Host.Outcome State Fault Refusal :=
  performWord (.vpchk h t d a) (fun _ s => vecDone d (vpchk t (s.vold d) (s.act h t.width) (s.vrd a)) s)

end Sys2Proof.Machine
end

