-- ==== Sys2Proof/Machine/Probe.lean ====
section
/-! DEFINITION. The reuse probe (14 R266 to R277): one event makes the whole decision of a task, or of a gang, and acts on it. -/

namespace Sys2Proof.Machine

-- the metric (R270): FP32 codes without a sign compare as numbers

def keyFmt (ktype : Nat) : FFmt := match ktype with
  | 0 => .f32 | 1 => .bf16 | _ => .f16

def abs32 (c : Nat) : Nat := c % 2 ^ 31

/-- round(rne, |x - a|) to FP32. -/
def diff32 (x a : FVal) : Nat := abs32 (FFmt.f32.addV .rne false x a.neg).1

/-- |a| as an FP32 code: the key formats convert exactly. -/
def mag32 (a : FVal) : Nat := abs32 (FFmt.f32.deliver .rne false a).1

/-- round(rne, m / den) of two positive FP32 codes, den finite and not 0. -/
def quot32 (m den : Nat) : Nat :=
  match FFmt.f32.read m, FFmt.f32.read den with
  | .fin _ a e, .fin _ b f =>
    (FFmt.f32.round .rne false false (a * 2 ^ 64 / b) (e - f - 64) (a * 2 ^ 64 % b != 0)).1
  | _, _ => FFmt.f32.infBits

def metricOf (relmax : Bool) (floor : Nat) (xs : List (FVal × FVal)) : Nat :=
  let m := xs.foldl (fun m p => Nat.max m (diff32 p.1 p.2)) 0
  if !relmax then m
  else
    let den := Nat.max (abs32 floor) (xs.foldl (fun m p => Nat.max m (mag32 p.2)) 0)
    if den == 0 then (if m == 0 then 0 else FFmt.f32.infBits) else quot32 m den

/-- metric ≤ thr: a NaN never, zeros of both signs equal. -/
def belowThr (metric thr : Nat) : Bool :=
  match FFmt.f32.read thr with
  | .nan _ => false
  | v => if v.isZero then metric == 0 else !v.isNeg && metric ≤ thr

def cleanVal : FVal → Bool
  | .fin _ _ _ => true
  | _ => false

-- one tile

/-- What a probe of one tile found. -/
structure Found where
  slot   : Nat
  core   : Nat
  tile   : Nat
  index  : Option Nat
  cls    : RClass
  skip   : Bool
  update : Bool
  badE   : Bool
  entry  : List Nat         -- homes of the entry's words
  barred : Option (Nat × Nat)   -- what a COMPUTE would write and may not: the buffer and the offset
  words  : List Word        -- as read
  log    : Nat              -- home of the log byte
  logw   : Bool             -- its page may be written
  loff   : Nat              -- its offset in LBUF
  key    : List (Nat × List Byte)   -- home of each anchor element and the captured bytes
  dirty  : Bool             -- a key element was poisoned
  events : List EvInfo

/-- A probe of one tile ends, or it waits for a pin or the ferry, or for a page. -/
inductive Probed where
  | found (f : Found)
  | held
  | page (buf off : Nat)

/-- The k of a probe and the fields it takes from the row: q0, q7, and REFRESH of the row word the arm kept beside q15. -/
def TaskInfo.stepNo (t : TaskInfo) : Nat := bitsOf (t.q.getD 0 0) 0 32
def TaskInfo.refresh (t : TaskInfo) : Bool := (t.q.getD 16 0).getLsbD 0

/-- A key element that a pin or the ferry holds back. -/
def fHeld : Fail := { check := 0, cause := 0 }

/-- One key element (R268): `none` where it is clipped. -/
def State.keyElem (s : State) (w : Who) (d : Desc) (es : Nat) (o : Int) :
    State × Except Fail (Option (List Byte × Bool)) :=
  let (s, r) := s.element w d { need := .read, es := es, align := es } o
  match r with
  | .error f => (s, if f.check == 5 then .ok none else .error f)
  | .ok ps =>
    let keys := ps.flatMap (fun p => [p.lo / 2, p.hi / 2])
    if (s.mustWait 256 true ps).isSome then (s, .error fHeld) else
    let s := s.reach (linesOf keys)
    let kid := w.kid.getD 0
    let nib (n : Nat) : Nat := (s.plain kid (n / 2)).toNat / 16 ^ (n % 2) % 16
    (s, .ok (some (ps.map (fun p => BitVec.ofNat 8 (nib p.lo + 16 * nib p.hi)), keys.any (fun k => s.badAt k != 0))))

/-- The key elements at numbered offsets; `early` are those read before. -/
def State.keyElems (s : State) (w : Who) (d : Desc) (es : Nat) (early : Store (List Byte × Bool)) : List (Nat × Int) →
    State × Except (Fail × Int) (List (Option (List Byte × Bool)))
  | [] => (s, .ok [])
  | (i, o) :: os =>
    let (s, r) : State × Except Fail (Option (List Byte × Bool)) := match Store.find? early i with
      | some x => (s, .ok (some x))
      | none => s.keyElem w d es o
    match r with
    | .error f => (s, .error (f, o))
    | .ok x =>
      let (s, rest) := State.keyElems s w d es early os
      (s, rest.map (fun xs => x :: xs))

/-- Offsets of the key elements of a tile. -/
def RClass.keyOffs (x : RClass) (tile : Nat) : List Int :=
  (List.range (x.krows * x.kcols)).map (fun i =>
    x.koff + (tile * x.ktstr + i / x.kcols * x.kpitch + i % x.kcols * x.es : Nat))

def RClass.anchorSize (x : RClass) : Nat := ceilDiv (x.krows * x.kcols * x.es) 64 * 64
def RClass.logSize (x : RClass) : Nat := ceilDiv (x.nlay * x.nbr * x.tpl) 512 * 64

/-- The conditions of R271 on the entry, the step and the class, or of R274 in REPLAY. -/
def entryLets (x : RClass) (t : TaskInfo) (w0 w1 w2 : Word) (lrec layer branch tile : Nat) : Bool :=
  bitsOf w0 48 16 == lrec && bitsOf w1 32 16 == layer && bitsOf w1 48 8 == branch && bitsOf w1 0 32 == tile &&
  bitsOf w0 40 1 == 1 && bitsOf w0 42 1 == 0 && bitsOf w0 41 1 == 0 && bitsOf w0 0 32 < t.stepNo &&
  (x.mode == 1 || (bitsOf w0 32 8 < x.kmax && !t.refresh && x.ogen == bitsOf w2 0 32))

/-- Key and anchor side by side: the unclipped elements as values, and whether every one is clean. -/
def keyPairs (fm : FFmt) : List (Option (List Byte × Bool)) → List (List Byte × Bool) → List (FVal × FVal) × Bool
  | some (b, bad) :: ks, (a, abad) :: as =>
    let (ps, ok) := keyPairs fm ks as
    let x := fm.read (leNat b)
    let y := fm.read (leNat a)
    ((x, y) :: ps, ok && !bad && !abad && cleanVal x && cleanVal y)
  | none :: ks, _ :: as => keyPairs fm ks as
  | _, _ => ([], true)

/-- A probe that decides COMPUTE without an entry (R265, R266). -/
def Found.computeOnly (slot core tile : Nat) (x : RClass) (evs : List EvInfo) : Found :=
  { slot := slot, core := core, tile := tile, index := none, cls := x, skip := false, update := false, badE := false, entry := [],
    barred := none, words := [], log := 0, logw := false, loff := 0, key := [], dirty := false, events := evs }

def entryOffs (eoff : Nat) : List Int := (List.range 4).map (fun j => ((eoff + 8 * j : Nat) : Int))
def RClass.anchorOffs (x : RClass) (aoff : Nat) : List Int :=
  (List.range (x.krows * x.kcols)).map (fun j => ((aoff + x.es * j : Nat) : Int))
def entryAt : Form := { need := .atomic false, es := 8, align := 8 }
def RClass.anchorAt (x : RClass) (need : Need) : Form := { need := need, es := x.es, align := x.es }
def logAt (writes : Bool) : Form := { need := .log writes, es := 1, align := 1 }
def RClass.keyAt (x : RClass) : Form := { need := .read, es := x.es, align := x.es }

/-- Where a viewed key buffer does not fit the class (R268). -/
def RClass.keyMisfit (x : RClass) (d : Desc) : Bool := d.view != 0 && d.nibs != 2 * x.es

/-- Offset 0 of tile 0's key, as an event shows it. -/
def RClass.keyStart (x : RClass) : Nat := (x.koff % (2 ^ 48 : Int)).toNat

/-- What a read of a probe finds: a value; a pin or the ferry holds it back; a page fault; or another failing check. -/
inductive Reading (α : Type) where
  | ok (a : α)
  | held
  | page (buf off : Nat)
  | bad (buf off : Nat)

/-- The offset of a failing access, as an event shows it. -/
def shownOff (o : Int) : Nat := (o % (2 ^ 48 : Int)).toNat

/-- The places of an access that nothing holds back. -/
def State.reachAll (s : State) (w : Who) (buf : Nat) (f : Form) (offs : List Int) : State × Reading (List (List Place)) :=
  if s.tablesHeld w buf f offs then (s, .held)
  else
    let (s, r) := s.access w buf f offs
    match r with
    | .error x => (s, if x.fail.cause == 1 then .page buf (shownOff x.off) else .bad buf (shownOff x.off))
    | .ok ps =>
      if (s.mustWait 256 true ps.flatten).isSome then (s, .held)
      else (s.reach (linesOf (ps.flatten.map Place.key)), .ok ps)

/-- An access passes every check. -/
def State.mayReach (s : State) (w : Who) (buf : Nat) (f : Form) (offs : List Int) : Bool :=
  match (s.access w buf f offs).2 with
  | .ok _ => true
  | .error _ => false

/-- The key of a tile (R268), with what was read of it before. -/
def State.readKey (s : State) (w : Who) (x : RClass) (tile : Nat) (early : Store (List Byte × Bool)) :
    State × Reading (List (Option (List Byte × Bool))) :=
  let offs := x.keyOffs tile
  let (s, d) := s.buffer w x.kbuf .read
  match d with
  | .error f => (s, if f.cause == 1 then .page x.kbuf 0 else .bad x.kbuf x.keyStart)
  | .ok d =>
    if x.keyMisfit d then (s, .bad x.kbuf x.keyStart)
    else if s.tablesHeld w x.kbuf x.keyAt offs then (s, .held)
    else
      let (s, ks) := s.keyElems w d x.es early ((List.range offs.length).zip offs)
      match ks with
      | .ok ks => (s, .ok ks)
      | .error (f, o) =>
        (s, if f.check == 0 then .held
          else if f.cause == 1 then .page x.kbuf (shownOff o)
          else .bad x.kbuf (shownOff o))

/-- What a probe has read of its entry and of the log: the entry's words and their homes, whether its storage is bad and whether it may
be written; the home of the log byte, its bit, and whether it may be written. -/
structure Seen where
  words : List Word
  keys  : List Nat
  bad   : Bool
  ew    : Bool
  log   : Nat
  bit   : Bool
  logw  : Bool

/-- The entry and the log bit of a probe. An uncorrectable log byte reads as 0 and posts nothing here: the spec gives the case for the
write alone (DESIGN CHOICE, LOG 81). -/
def State.readReuse (s : State) (w : Who) (x : RClass) (i loff : Nat) : State × Reading Seen :=
  let offs := entryOffs (x.eoff + 32 * i)
  match s.reachAll w x.ebuf { entryAt with need := .read } offs with
  | (s, .held) => (s, .held)
  | (s, .page b o) => (s, .page b o)
  | (s, .bad b o) => (s, .bad b o)
  | (s, .ok ep) =>
    match s.reachAll w x.lbuf (logAt false) [(loff : Int)] with
    | (s, .held) => (s, .held)
    | (s, .page b o) => (s, .page b o)
    | (s, .bad b o) => (s, .bad b o)
    | (s, .ok lp) =>
      let kid := w.kid.getD 0
      let log := keyOf lp
      (s, .ok { words := ep.map (fun ps => leWord (ps.map (fun p => s.plain kid p.key)))
                keys := ep.map (fun ps => keyOf [ps])
                bad := ep.any (fun ps => ps.any (fun p => s.badAt p.key != 0))
                ew := s.mayReach w x.ebuf entryAt offs
                log := log
                bit := (s.plain kid log).getLsbD (i % 8) && s.badAt log == 0
                logw := s.mayReach w x.lbuf (logAt true) [(loff : Int)] })

/-- Go on with what was read; `bad` says what another failing check gives. -/
def readThen {α : Type} (r : State × Reading α) (bad : State → Nat → Nat → State × Probed) (k : State → α → State × Probed) : State × Probed :=
  match r with
  | (s, .held) => (s, .held)
  | (s, .page b o) => (s, .page b o)
  | (s, .bad b o) => bad s b o
  | (s, .ok a) => k s a

/-- Word 0 of the entry as the probe first read it (R272). -/
def State.keepWord (s : State) (slot : Nat) (w : Word) : State :=
  s.modInfo slot (fun t => { t with word0 := some (t.word0.getD w) })

/-- Probe one tile in the slices of core `c`; `moved` says that the unit of a gang with anchors in Shoal is not the one that holds them. A
replay that skips does not read the key and touches no anchor (R274), unless `need` says that another tile of the gang computes. A page
that may not be written is no condition of R265: a SKIP is not taken where the entry's is (LOG 79). -/
def State.probeTile (s : State) (slot c : Nat) (t : TaskInfo) (moved need : Bool) : State × Probed :=
  let n := s.slotLrec slot
  let tile := s.slotTile slot
  let k := t.stepNo
  let w := s.whoAgent c (s.slotCtx slot) n
  let cls := s.lrecClass n
  let ev (cond : Nat) (i : Option Nat) : EvInfo := reuseEv (s.recEv slot { kind := 8 }) cls cond k i
  let alone (s : State) (x : RClass) (e : EvInfo) : State × Probed := (s, .found (Found.computeOnly slot c tile x [e]))
  let (s, r) := s.judgeClass w (s.lrecSg n) (t.cls.getD [])
  match r with
  | .fault _ => (s, .page 0 0)
  | .bad x cond => alone s x (ev cond none)
  | .ok x =>
    match s.entryIndex x n tile with
    | none => alone s x (ev 11 none)
    | some i =>
      let eoff := x.eoff + 32 * i
      let aoff := x.aoff + i * x.anchorSize
      let loff := x.loff + k * x.logSize + i / 8
      let nine (s : State) (buf off : Nat) : State × Probed := alone s x { (ev 9 (some i)) with buf := buf, off := off }
      let (s, bad) := s.rangesOk w [
        { buf := x.ebuf, off := eoff, len := some 32, need := .atomic false, plain := true },
        { buf := x.abuf, off := aoff, len := some x.anchorSize, need := .write, plain := true },
        { buf := x.lbuf, off := loff, len := some 1, need := .log true, plain := true }]
      match bad with
      | some (f, buf) => if f.fail.cause == 1 then (s, .page buf f.off.toNat) else nine s buf f.off.toNat
      | none => readThen (s.readReuse w x i loff) nine (fun s e =>
        let s := if e.bad then s else s.keepWord slot (e.words.headD 0)
        let layer := bitsOf (s.lrecWord n 0x50) 0 16
        let branch := bitsOf (s.lrecWord n 0x50) 16 8
        let lets := entryLets x t (e.words.getD 0 0) (e.words.getD 1 0) (e.words.getD 2 0) n layer branch tile
        let memEv : EvInfo := { (s.recEv slot { kind := 6 }) with kind := 6, buf := x.ebuf, off := eoff }
        let diverges := x.mode == 1 && e.bit && !lets
        let evs := (if e.bad then [memEv] else []) ++
          (if diverges then [{ (ev 0 (some i)) with kind := 9, detail := mkWord [(0, 6, cls), (32, 32, k)] }] else [])
        let barred (aw : Bool) : Option (Nat × Nat) := if !e.ew then some (x.ebuf, eoff) else if !aw then some (x.abuf, aoff) else none
        let found (skip dirty aw : Bool) (cap : List (Nat × List Byte)) : Probed :=
          .found { slot := slot, core := c, tile := tile, index := some i, cls := x, skip := skip
                   update := !e.bad && (barred aw).isNone, badE := e.bad, entry := e.keys, barred := barred aw, words := e.words
                   log := e.log, logw := e.logw, loff := loff, key := cap, dirty := dirty, events := evs }
        let replay := x.mode == 1 && !e.bad && e.ew && !moved && lets && e.bit
        if replay && !need then (s, found true false true [])
        else readThen (s.reachAll w x.abuf (x.anchorAt .read) (x.anchorOffs aoff)) nine (fun s ap =>
          let kid := w.kid.getD 0
          let anchors := ap.map (fun ps => (ps.map (fun p => s.plain kid p.key), ps.any (fun p => s.badAt p.key != 0)))
          let aw := s.mayReach w x.abuf (x.anchorAt .write) (x.anchorOffs aoff)
          readThen (s.readKey w x tile t.early)
            (fun s buf off => (s, .found (Found.computeOnly slot c tile x (evs.drop (if e.bad then 1 else 0) ++
              [{ (ev 10 (some i)) with buf := buf, off := off }]))))
            (fun s ks =>
              let (pairs, clean) := keyPairs (keyFmt x.ktype) ks anchors
              let thr := (FFmt.f32.mul .rne false x.thr (bitsOf (t.q.getD 7 0) 0 32)).1
              let live := x.mode == 0 && !e.bad && e.ew && !moved && lets && clean && belowThr (metricOf x.relmax x.floor pairs) thr
              let cap := (ap.zip ks).map (fun p => ((p.1.head?.map Place.key).getD 0, match p.2 with
                | some (b, _) => b
                | none => List.replicate x.es (0 : Byte)))
              let dirty := ks.any (fun y => match y with
                | some (_, b) => b
                | none => false)
              (s, found (replay || live) dirty aw cap))))

-- acting on a decision (R272)

/-- Bit `i` of the log; an uncorrectable byte is left, with an event, and one whose page may not be written is left (LOG 79). -/
def State.logBit (s : State) (kid : Nat) (f : Found) (v : Bool) : State :=
  match f.index with
  | none => s
  | some i =>
    if f.cls.mode == 1 || !f.logw then s
    else if s.badAt f.log != 0 then s.memErr (s.recEv f.slot { kind := 6 }) f.cls.lbuf f.loff
    else
      let b := s.plain kid f.log
      let m : Byte := BitVec.ofNat 8 (2 ^ (i % 8))
      s.putHome kid [(f.log, if v then b ||| m else b &&& ~~~m)]

def State.putEntry (s : State) (kid : Nat) (keys : List Nat) (ws : List Word) : State :=
  s.putHome kid ((ws.zip keys).flatMap (fun (x : Word × Nat) => natCells x.2 8 x.1.toNat))

/-- What a COMPUTE that may not write its entry or its anchor posts, as the DONE update does (R272, LOG 79). -/
def State.postBarred (s : State) (f : Found) (k : Nat) : State :=
  match f.barred with
  | some (buf, off) =>
    if f.badE then s
    else s.post { (reuseEv (s.recEv f.slot { kind := 8 }) (s.lrecClass (s.slotLrec f.slot)) 9 k f.index) with buf := buf, off := off }
  | none => s

/-- SKIP: the entry counts it, the log says it, the object is credited, the slot is free; `false` while the credit waits. -/
def State.actSkip (s : State) (f : Found) : State × Bool :=
  let w := s.whoAgent f.core (s.slotCtx f.slot) (s.slotLrec f.slot)
  let kid := w.kid.getD 0
  let w0 := f.words.getD 0 0
  let s := s.putEntry kid f.entry (setBits w0 32 8 (bitsOf w0 32 8 + 1) :: f.words.drop 1)
  let s := s.logBit kid f true
  let o := s.recWord f.slot 0x18
  if refBuf o == 0 then (s.freeSlot f.slot, true)
  else
    let (s, r) := s.agentCredit w 2 (refBuf o) (refOff o) (bitsOf (s.lrecWord (s.slotLrec f.slot) 0x58) 0 32)
      (s.recEv f.slot { kind := 1 }) 0
    match r with
    | .waits | .held => (s, false)
    | _ => (s.freeSlot f.slot, true)

/-- The entry a COMPUTE decision writes. -/
def Found.newEntry (f : Found) (s : State) (k unit : Nat) : List Word :=
  let n := s.slotLrec f.slot
  let w50 := s.lrecWord n 0x50
  [mkWord [(48, 16, n), (42, 1, 1), (41, 1, if f.dirty then 1 else 0), (0, 32, k)],
   mkWord [(48, 8, bitsOf w50 16 8), (32, 16, bitsOf w50 0 16), (0, 32, f.tile)],
   mkWord [(32, 9, unit), (0, 32, f.cls.ogen)], 0]

/-- COMPUTE: the anchor is captured, the entry opened, the log bit cleared, the record ready. -/
def State.actCompute (s : State) (f : Found) (k unit : Nat) : State :=
  let kid := (s.whoAgent f.core (s.slotCtx f.slot) (s.slotLrec f.slot)).kid.getD 0
  let s := (f.events.foldl (fun s e => if e.kind == 6 then (s.post e).countErr 1 else s.post e) s).postBarred f k
  let s := match f.index, f.update with
    | some i, true =>
      let s := s.putHome kid (f.key.flatMap (fun (x : Nat × List Byte) => (x.2.zip (List.range x.2.length)).map (fun (y : Byte × Nat) => (x.1 + y.2, y.1))))
      (s.putEntry kid f.entry (f.newEntry s k unit)).modInfo f.slot (fun t =>
        { t with pend := some (i, k, f.cls.ebuf + 65536 * f.cls.eoff) })
    | _, _ => s
  let s := if f.index.isSome then s.logBit kid f false else s
  (s.modInfo f.slot (fun t => { t with toProbe := false, unit := if unit = 0 then t.unit else some (unit - 1) })).enterReady f.slot

-- the unit of a gang (R269)

/-- The class that a record's probe has read, if it is valid. -/
def State.heldClass (s : State) (slot : Nat) : Option RClass :=
  let n := s.slotLrec slot
  match (s.info slot).bind (fun t => t.cls) with
  | some ws =>
    match (s.judgeClass (s.whoAgent 0 (s.slotCtx slot) n) (s.lrecSg n) ws).2 with
    | .ok x => some x
    | _ => none
  | none => none

/-- Whether the anchors or keys of a gang lie in Shoal, as far as its class can be read. -/
def State.shoalGang (s : State) (slot : Nat) : Bool :=
  let n := s.slotLrec slot
  let w := s.whoAgent 0 (s.slotCtx slot) n
  s.lrecSg n != 0 &&
  (match s.heldClass slot with
    | some x =>
      let sh (b : Nat) : Bool := match (s.entryOf w b).2 with
        | .ok d => d.layer == 1 || d.layer == 2
        | .error _ => false
      sh x.kbuf || sh x.abuf
    | none => false)

/-- UNIT of the entry of the gang's first tile (R183), one more than the first core of a unit, if it can be read. -/
def State.entryUnit (s : State) (slot : Nat) : Nat :=
  let n := s.slotLrec slot
  let w := s.whoAgent 0 (s.slotCtx slot) n
  let size := shapeSize (s.lrecSg n)
  match s.heldClass slot with
  | some x =>
    match s.entryIndex x n (s.slotTile slot / size * size) with
    | some i =>
      match (s.access w x.ebuf { need := .read, es := 8, align := 8 } [((x.eoff + 32 * i + 16 : Nat) : Int)]).2 with
      | .ok ps => bitsOf (leWord (ps.flatten.map (fun p => s.plain (w.kid.getD 0) p.key))) 32 9
      | .error _ => 0
    | none => 0
  | none => 0

/-- The unit a Shoal gang is probed in, and whether it is another than the one its anchors lie in: where UNIT names none that is present,
whole and not gated, the lowest one that is (DESIGN CHOICE, LOG 82). -/
def State.probeUnit (s : State) (slot : Nat) : Option (Nat × Bool) :=
  let sg := s.lrecSg (s.slotLrec slot)
  let u := s.entryUnit slot
  if u != 0 && (u - 1) % shapeSize sg == 0 && (unitOf sg (u - 1)).all s.allowed then some (u - 1, false)
  else ((List.range (256 / shapeSize sg)).find? (fun i => (unitOf sg (i * shapeSize sg)).all s.allowed)).map (fun i =>
    (i * shapeSize sg, true))

-- the event

/-- Whether a record's probe may run: it waits in REUSE, and its sequencer is not HELD unless the probe has begun (R269, R276). -/
def State.probing (s : State) (slot : Nat) : Bool :=
  match s.info slot with
  | some t => t.toProbe && s.slotReason slot == rReuse.toNat &&
      (t.begun || ((t.bind.map (fun b => (s.seq b).st)).getD 0) != 5)
  | none => false

/-- The tiles that are probed with one: its gang's, if all of them stand in the same place, else itself. -/
def State.probeTiles (s : State) (slot : Nat) : List Nat :=
  let tiles := if s.slotGang slot then s.gangSlots slot else [slot]
  if !tiles.all s.probing || (s.slotGang slot && tiles.length != shapeSize (s.lrecSg (s.slotLrec slot))) then [] else tiles

/-- Word 0 of a tile's entry, read at the start if nothing keeps it from being read. -/
def State.startWord (s : State) (slot : Nat) : State :=
  let n := s.slotLrec slot
  let w := s.whoAgent 0 (s.slotCtx slot) n
  match s.heldClass slot with
  | none => s
  | some x =>
    match s.entryIndex x n (s.slotTile slot) with
    | none => s
    | some i =>
      match s.reachAll w x.ebuf { entryAt with need := .read } [((x.eoff + 32 * i : Nat) : Int)] with
      | (u, .ok [ps]) =>
        if ps.any (fun p => u.badAt p.key != 0) then u else u.keepWord slot (leWord (ps.map (fun p => u.plain (w.kid.getD 0) p.key)))
      | _ => s

/-- The start of a probe: its class entry and word 0 of its entry are read, once (R263, R271, R272); else nothing where the ferry holds
the class, or where a page fault is met. -/
def State.beginProbe (s : State) : List Nat → State × Except (Option (Nat × Nat × Nat)) Unit
  | [] => (s, .ok ())
  | slot :: rest =>
    let n := s.slotLrec slot
    let w := s.whoAgent 0 (s.slotCtx slot) n
    let cls := s.lrecClass n
    if (((s.info slot).bind (fun t => t.cls)).isSome) then State.beginProbe s rest
    else if !s.noneHeld && (s.vaKeys w (w.btbase + 0x200000 + 64 * cls)).any s.ferried then (s, .error none)
    else
      match s.classWords w cls with
      | (s, .error _) => (s, .error (some (slot, 0, 0)))
      | (s, .ok ws) => State.beginProbe ((s.modInfo slot (fun t => { t with cls := some ws })).startWord slot) rest

/-- The unit a probe runs in: none where any slice will do; `none` where a Shoal gang has no unit to be probed in. -/
def State.probePlace (s : State) (slot : Nat) : Option (Option (Nat × Bool)) :=
  if s.slotGang slot && s.shoalGang slot then (s.probeUnit slot).map some else some none

def State.probeAll (s : State) (unit : Option (Nat × Bool)) (need : Bool) :
    List (Nat × Nat) → State × Except (Option (Nat × Nat × Nat)) (List Found)
  | [] => (s, .ok [])
  | (slot, j) :: rest =>
    match s.info slot with
    | none => (s, .ok [])
    | some t =>
      let c := match unit with
        | some (first, _) => first + j
        | none => 0
      let (s, r) := s.probeTile slot c t ((unit.map (fun u => u.2)).getD false) need
      match r with
      | .page buf off => (s, .error (some (slot, buf, off)))
      | .held => (s, .error none)
      | .found f =>
        let (s, fs) := State.probeAll s unit need rest
        (s, fs.map (fun xs => f :: xs))

/-- Probe every tile; where not all of them skip, those that did not read their key read it now (R274). -/
def State.probeBoth (s : State) (unit : Option (Nat × Bool)) (tiles : List (Nat × Nat)) :
    State × Except (Option (Nat × Nat × Nat)) (List Found) :=
  match s.probeAll unit false tiles with
  | (t, .ok fs) => if fs.all Found.skip || !fs.any Found.skip then (t, .ok fs) else s.probeAll unit true tiles
  | r => r

/-- Skip every tile, or compute every tile; a credit that waits for a page leaves its record to be probed no more. -/
def State.actAll (s : State) (skip : Bool) (k unit : Nat) : List Found → State
  | [] => s
  | f :: fs =>
    if skip then
      match s.actSkip f with
      | (s, true) => State.actAll s skip k unit fs
      | (s, false) => State.actAll ((s.modInfo f.slot (fun t => { t with toProbe := false })).addWaiter (.probe f.slot)) skip k unit fs
    else State.actAll (s.actCompute f k unit) skip k unit fs

/-- A probe waits for page service (R276). -/
def State.probePage (s : State) (slot sl buf off : Nat) : State :=
  (s.post { (s.recEv sl { kind := 1, cause := cTransl }) with buf := buf, off := off }).addWaiter (.probe slot)

/-- A probe of these tiles has started (R276). -/
def State.beginAll (s : State) (tiles : List Nat) : State :=
  tiles.foldl (fun s x => s.modInfo x (fun t => { t with begun := true })) s

/-- Word 0 of an entry is no longer what its probe read at its start (R272). -/
def State.entryMoved (s : State) (f : Found) : Bool :=
  f.index.isSome && !f.badE && ((s.info f.slot).bind TaskInfo.word0) != some (f.words.headD 0)

/-- The probe discards what it has read and starts again (R272). -/
def State.restartProbe (s : State) (tiles : List Nat) : State :=
  tiles.foldl (fun s x => s.modInfo x (fun t => { t with cls := none, early := [], word0 := none })) s

/-- One decision for a tile, or for all tiles of a gang (R273), of which none may wait for page service. -/
def State.probe (s : State) (slot : Nat) : State :=
  let tiles := s.probeTiles slot
  if tiles.isEmpty || tiles.any (fun x => s.hasWaiter (.probe x)) then s
  else match (s.beginAll tiles).beginProbe tiles with
    | (s, .error none) => s
    | (s, .error (some (sl, buf, off))) => s.probePage slot sl buf off
    | (s, .ok ()) =>
      match s.probePlace slot with
      | none => s
      | some unit =>
        match s.probeBoth unit (tiles.zip (List.range tiles.length)) with
        | (t, .error none) => t
        | (t, .error (some (sl, buf, off))) => t.probePage slot sl buf off
        | (t, .ok fs) =>
          if fs.any t.entryMoved then t.restartProbe tiles
          else
            let k := ((s.info slot).map TaskInfo.stepNo).getD 0
            t.actAll (fs.all Found.skip) k (match unit with
              | some (first, _) => first + 1
              | none => 0) fs

/-- A probe reads one element of its key ahead of the rest, so that it may see it before a write that it does not follow (R276). -/
def State.probeRead (s : State) (slot i : Nat) : State :=
  let tiles := s.probeTiles slot
  if s.partHeld || tiles.isEmpty then s
  else match (s.beginAll tiles).beginProbe tiles with
    | (s, .error _) => s
    | (s, .ok ()) =>
      match s.info slot, s.heldClass slot, s.probePlace slot with
      | some t, some x, some unit =>
        let c := match unit with
          | some (first, _) => first + tiles.findIdx (fun y => y == slot)
          | none => 0
        let w := s.whoAgent c (s.slotCtx slot) (s.slotLrec slot)
        let offs := x.keyOffs (s.slotTile slot)
        match offs[i]?, (s.buffer w x.kbuf .read).2 with
        | some o, .ok d =>
          if t.early.has i || x.keyMisfit d || s.tablesHeld w x.kbuf x.keyAt [o] then s
          else match s.keyElem w d x.es o with
            | (s, .ok (some v)) => s.modInfo slot (fun t => { t with early := t.early.put i v })
            | _ => s
        | _, _ => s
      | _, _, _ => s

def execProbeDecision (slot : Nat) (s : State) : Host.Outcome State Fault Refusal := .next (if s.partHeld then s else s.probe slot)

end Sys2Proof.Machine
end

