-- ==== Sys2Proof/Machine/Reduction.lean ====
section
/-! DEFINITION. What arrives at the collective engine: granules, signals, counts and answers (21 R357 to R361), contributions at
this package's reduction home and its folds (R352 to R354). -/

namespace Sys2Proof.Machine

-- the fold (R352)

/-- One step of the fold on FP32 codes. -/
def foldFloat (op : Nat) (acc : Nat × FlagSet) (x : Nat) : Nat × FlagSet :=
  let (y, f) := if op = 9 then FFmt.f32.add .rne false acc.1 x else FFmt.f32.minmax (op == 11) acc.1 x
  (y, acc.2 ||| f)

/-- The elements of the present ranks, in rising rank, to one result element and the flags raised. -/
def foldElem (ty op : Nat) (xs : List Nat) : Nat × FlagSet :=
  match xs with
  | [] => (0, 0)
  | x :: xs =>
    if ty = 2 then
      (xs.foldl (fun a y => amoInt (if op = 0 then .add else if op = 4 then .min else .max) 32 a y) x, 0)
    else if ty = 8 then xs.foldl (foldFloat op) (x, 0)
    else
      let (acc, f) := (xs.map (fun y => y * 65536)).foldl (foldFloat op) (x * 65536, 0)
      let (y, g) := FFmt.bf16.deliver .rne false (FFmt.f32.read acc)
      (y, f ||| g)

def foldAll (ty op size count : Nat) (parts : List (List Byte)) : List Byte × FlagSet :=
  (List.range count).foldl (fun (a : List Byte × FlagSet) e =>
    let (v, f) := foldElem ty op (parts.map (fun b => leNat ((b.drop (size * e)).take size)))
    (a.1 ++ leBytes size v, a.2 ||| f)) ([], 0)

-- instances (R353)

/-- A saturating counter of SNDCNT (R366). -/
def bump (x : BitVec 16) : BitVec 16 := if x == BitVec.allOnes 16 then x else x + 1

/-- An instance closes: the fold over the ranks present goes to every member, and the next generation opens. A poisoned one
sends no data. -/
def State.closeInst (s : State) (comm slot : Nat) (x : Instance) (partly : Bool) : State :=
  let n := s.commRanks comm
  let ty := bitsOf (x.sig.setWidth 64) 24 4
  let op := bitsOf (x.sig.setWidth 64) 28 4
  let count := bitsOf (x.sig.setWidth 64) 0 24
  let size := (redSize ty op).getD 4
  let mask := (List.range n).map x.parts.has
  let (bytes, flags) := if x.bad then ([], 0) else foldAll ty op size count (x.parts.map (fun p => p.2.1))
  let bad := if x.bad then [] else dedup (x.parts.flatMap (fun p => p.2.2))
  let coll := s.coll
  let s := { s with coll := { coll with
    insts := coll.insts.del (slotKey comm slot)
    homeGen := coll.homeGen.put (slotKey comm slot) ((x.gen + 1) % 65536)
    mismN := if x.bad then bump coll.mismN else coll.mismN
    flushN := if partly then bump coll.flushN else coll.flushN } }
  (List.range n).foldl (fun (s : State) r =>
    s.sendMsg { comm := comm, src := r, dst := r, epoch := 0, step := 0, no := 0,
                body := .result slot x.gen x.sig bytes bad mask flags partly x.bad }) s

/-- Tell the sender's PUSHRED how it ended. -/
def State.answerPush (s : State) (m : Msg) (phase : Nat) : State :=
  match s.progAt m.comm m.src m.epoch with
  | some (no, p) =>
    match p.cur with
    | some (.pushred _) => s.setProg no { p with phase := phase }
    | _ => s
  | none => s

/-- The sender of a late contribution takes the slot's current generation. -/
def State.lateAt (s : State) (m : Msg) (slot gen : Nat) : State :=
  ((s.setGen m.comm m.src slot gen).dropResults m.comm m.src slot).answerPush m 3

/-- The timer of an instance ran out before the present microsecond: what arrives in the one in which it runs out is present (R354;
the cycle within it is not kept: LOG 85). -/
def Instance.over (x : Instance) (wall : Nat) : Bool := x.tmo != 0 && decide (x.since + x.tmo < wall)

/-- The open instance of a slot closes if its timer has run out. -/
def State.flush (s : State) (comm slot : Nat) : State :=
  match s.coll.insts.find? (slotKey comm slot) with
  | some x => if x.over s.wall then s.closeInst comm slot x true else s
  | none => s

def State.contribute (s : State) (no : Nat) (m : Msg) (slot gen : Nat) (sig : BitVec 32) (bytes : List Byte) (bad : List Nat)
    (tmo : Nat) : State :=
  let key := slotKey m.comm slot
  let s := (s.dropMsg no).flush m.comm slot
  let now := s.coll.homeGen.get key 0
  if gen != now then ({ s with coll := { s.coll with lateN := bump s.coll.lateN } }).lateAt m slot now
  else
    let x := s.coll.insts.get key { gen := gen, sig := sig, bad := false, since := s.wall, tmo := tmo, parts := [] }
    let x := { x with bad := x.bad || x.sig != sig, parts := x.parts.put m.src (bytes, bad) }
    let s := s.answerPush m 2
    if x.parts.length = s.commRanks m.comm then s.closeInst m.comm slot x false
    else { s with coll := { s.coll with insts := s.coll.insts.put key x } }

def execContribution (msg : Nat) (s : State) : Host.Outcome State Fault Refusal :=
  match s.coll.inbox.find? msg with
  | some m =>
    match m.body with
    | .contrib slot gen sig bytes bad tmo => .next (s.contribute msg m slot gen sig bytes bad tmo)
    | _ => .next s
  | none => .next s

/-- The timer of an open instance has run out. -/
def execFlush (comm slot : Nat) (s : State) : Host.Outcome State Fault Refusal := .next (s.flush comm slot)

-- answers to a sender

/-- A credit that the sender owes until it can be made, in the inbox under number `no`; it keeps the number of its granule. -/
def State.oweCredit (s : State) (m : Msg) (n no : Nat) : State :=
  { s with coll := { s.coll with inbox := s.coll.inbox.put no { m with body := .unpaid n }
                                 inNo := Nat.max s.coll.inNo (no + 1) } }

/-- Traffic that makes a credit. -/
def pays : Traffic → Bool
  | .write _ _ _ _ c _ _ => c
  | .unpaid _ => true
  | _ => false

/-- An earlier granule of the step has not been credited (R361: in increasing order). -/
def State.creditBehind (s : State) (m : Msg) : Bool :=
  (s.coll.inbox ++ s.coll.outbox).any (fun x => x.2.comm == m.comm && x.2.src == m.src && x.2.epoch == m.epoch && x.2.step == m.step &&
    decide (x.2.no < m.no) && pays x.2.body)

/-- The bytes of a SEND with C are performed: the credit is made, or owed in the inbox; one whose page is not mapped waits for page
service (12 R389). -/
def State.creditSend (s : State) (m : Msg) (n no : Nat) : State :=
  match s.progAt m.comm m.src m.epoch with
  | none => s
  | some (k, p) =>
    if !p.runnable || s.creditBehind m then s.oweCredit m n no
    else
      let (s, r) := s.creditProg p (fun _ => n)
      match r with
      | .made =>
        let p := { p with doneb := (p.doneb + n) % 2 ^ 48 }
        (s.setProg k p).showProg k p csActive 0
      | .held => s.oweCredit m n no
      | .waits => (s.oweCredit m n no).addWaiter (.msg no)
      | .refused _ cause => s.stopBare k { p with step := m.step } cause

/-- Bytes of a SEND that are written at the peer (R363). -/
def State.countSent (s : State) (m : Msg) (n : Nat) : State :=
  match s.progAt m.comm m.src m.epoch with
  | some (no, p) => s.setProg no { p with bytes := p.bytes + n }
  | none => s

/-- A failing check at the destination stops the sender with CHECK (R362). -/
def State.failSend (s : State) (m : Msg) (cause : Nat) : State :=
  match s.progAt m.comm m.src m.epoch with
  | some (no, p) => s.stopProg no { p with step := m.step } 4 cause
  | none => s

/-- The answer to a write or signal: to a program of this package at once, to another package as a message. -/
def State.answer (s : State) (m : Msg) (n : Nat) (c : Bool) (failed : Option Nat) : State :=
  if s.rankHere m.comm m.src then
    match failed with
    | some cause => s.failSend m cause
    | none =>
      let s := s.countSent m n
      if c then s.creditSend m n s.coll.inNo else s
  else
    s.sendMsg { m with src := m.dst, dst := m.src, body := match failed with
      | some cause => .failed m.no cause
      | none => .done m.no }

-- arriving traffic

/-- Hand a count or signal of performed traffic to the program it is for; one of an epoch gone by is dropped. -/
def State.handOver (s : State) (no : Nat) (m : Msg) (f : Prog → Prog) : State :=
  match s.progAt m.comm m.dst m.epoch with
  | some (k, p) => (s.setProg k (f p)).dropMsg no
  | none => if s.epochGate m.comm m.dst m.epoch == .next then s else s.dropMsg no

def addRecv (m : Msg) (n : Nat) (p : Prog) : Prog := { p with recv := p.recv.put m.src ((p.recv.get m.src 0 + n) % 2 ^ 32) }
def addSig (n : Nat) (p : Prog) : Prog := { p with sig := p.sig.put n ((p.sig.get n 0 + 1) % 2 ^ 32) }

/-- A granule is performed at the home in the communicator's context, once the whole range of its step passes its checks (R357, R361). -/
def State.performWrite (s : State) (no : Nat) (m : Msg) (buf off : Nat) (bytes : List Byte) (bad : List Nat) (c : Bool) (base len : Nat) :
    State :=
  let w := s.whoAgent noCore (s.commCtx m.comm) 65536
  let marked := (bytes.zip (List.range bytes.length)).map (fun (x : Byte × Nat) => (x.1, bad.contains x.2))
  let r := match s.streamPlaces w buf base len with
    | (s, .ok _) => s.streamWrite w buf off marked
    | (s, .held) => (s, .held)
    | (s, .bad cause) => (s, .bad cause)
  match r with
  | (s, .held) => s
  | (s, .bad cause) => (s.dropMsg no).answer m 0 false (some cause)
  | (s, .ok _) =>
    let n := bytes.length
    let landed := { m with body := .landed n }
    ((s.putMsg no landed).handOver no landed (addRecv m n)).answer m n c none

/-- A value for COUNTX or PFXSUM is taken by the step that waits for it (R359), unless `barred`: it is another's, or there already. -/
def State.takeVal (s : State) (no : Nat) (m : Msg) (wants : Instr → Bool) (barred : Prog → Bool) (f : Prog → Prog) : State :=
  match s.progAt m.comm m.dst m.epoch with
  | some (k, p) =>
    if p.phase = 4 && (p.cur.map wants).getD false && !barred p then (s.setProg k (f p)).dropMsg no else s
  | none => if s.epochGate m.comm m.dst m.epoch == .old then s.dropMsg no else s

def isCountx : Instr → Bool
  | .countx _ => true
  | _ => false
def isPfxsum : Instr → Bool
  | .pfxsum _ => true
  | _ => false

/-- The other package answers message `k` of this one. -/
def State.answered (s : State) (no k : Nat) (failed : Option Nat) : State :=
  let s := s.dropMsg no
  match s.coll.outbox.find? k with
  | none => s
  | some m =>
    let s := { s with coll := { s.coll with outbox := s.coll.outbox.del k } }
    match failed, m.body with
    | some cause, _ => s.failSend m cause
    | none, .write _ _ bytes _ c _ _ =>
      let s := s.countSent m bytes.length
      if c then s.creditSend m bytes.length s.coll.inNo else s
    | none, _ => s

def State.arrive (s : State) (no : Nat) (m : Msg) : State :=
  let may := s.epochGate m.comm m.dst m.epoch != .later
  match m.body with
  | .write buf off bytes bad c base len => if may then s.performWrite no m buf off bytes bad c base len else s
  | .signal n =>
    if may then
      let raised := { m with body := .raised n }
      ((s.putMsg no raised).handOver no raised (addSig n)).answer m 0 false none
    else s
  | .landed n => s.handOver no m (addRecv m n)
  | .raised n => s.handOver no m (addSig n)
  | .unpaid n => if s.hasWaiter (.msg no) then s else (s.dropMsg no).creditSend m n no
  | .count ord v => s.takeVal no m isCountx (fun p => p.countNo != ord || p.rcnt.has m.src) (fun p => { p with rcnt := p.rcnt.put m.src v.toNat })
  | .offset ord v => s.takeVal no m isPfxsum (fun p => p.prefNo != ord || p.doff.has m.src) (fun p => { p with doff := p.doff.put m.src v.toNat })
  | .accepted => ((s.dropMsg no).answered no m.no none).answerPush { m with src := m.dst } 2
  | .late slot gen => ((s.dropMsg no).answered no m.no none).lateAt { m with src := m.dst } slot gen
  | .done k => s.answered no k none
  | .failed k cause => s.answered no k (some cause)
  | .contrib _ _ _ _ _ _ | .result _ _ _ _ _ _ _ _ _ => s

def execPeerWrite (msg : Nat) (s : State) : Host.Outcome State Fault Refusal :=
  match s.coll.inbox.find? msg with
  | some m => .next (s.arrive msg m)
  | none => .next s

/-- A message from another package joins the inbox; it keeps the number its sender gave it. -/
def State.traffic (s : State) (m : Msg) : State :=
  { s with coll := { s.coll with inbox := s.coll.inbox.put s.coll.inNo m, inNo := s.coll.inNo + 1 } }

end Sys2Proof.Machine
end

