-- ==== Sys2Proof/Machine/Sequencer.lean ====
section
/-! DEFINITION. The step sequencers (10 R188 to R195): a step's row and its arms, its end, and SQCTL. -/

namespace Sys2Proof.Machine

-- STATE codes (R194)
def sqIdle : Nat := 0
def sqLoad : Nat := 1
def sqArm : Nat := 2
def sqRun : Nat := 3
def sqPaused : Nat := 4
def sqHeld : Nat := 5
def sqDone : Nat := 6
def sqError : Nat := 7

-- the descriptor (R188)

def Seq.word (x : Seq) (i : Nat) : Word := x.desc.getD i 0
def Seq.n (x : Seq) : Nat := bitsOf (x.word 1) 0 32
def Seq.k0 (x : Seq) : Nat := bitsOf (x.word 1) 32 32
def Seq.glen (x : Seq) : Nat := bitsOf (x.word 3) 0 16
def Seq.ctx (x : Seq) : Nat := bitsOf (x.word 3) 16 16
def Seq.ebo (x : Seq) : Word := x.word 4
def Seq.ebytes (x : Seq) : Nat := (x.word 5).toNat

/-- A sequencer acts for a context, no core and no launch record (R192). -/
def Seq.who (x : Seq) (s : State) : Who := s.whoAgent noCore x.ctx 65536

/-- SEQPAUSE and SEQDONE (18 R390). -/
def State.seqEvent (s : State) (no kind k : Nat) (x : Seq) : State :=
  s.post { kind := kind, ctx := x.ctx, detail := mkWord [(0, 4, no), (32, 32, k)] }

def Seq.fail (x : Seq) (errc rec armst : Nat) : Seq :=
  { x with st := sqError, errc := BitVec.ofNat 4 errc, errec := BitVec.ofNat 16 rec, armst := BitVec.ofNat 4 armst }

def State.seqDone (s : State) (no : Nat) (x : Seq) : State :=
  (s.setSeq no { x with st := sqDone }).seqEvent no 13 x.n x

-- reads of a sequencer

/-- What a read of a sequencer finds: a translation fault waits for page service (R192). -/
inductive SeqRead (α : Type) where
  | ok (a : α)
  | held
  | page (buf off : Nat)
  | bad

def State.seqWords (s : State) (x : Seq) (ref : Word) (off es n : Nat) : State × SeqRead (List Nat) :=
  let w := x.who s
  if s.tablesHeld w (refBuf ref) (plainForm .read es) (offsFrom (refOff ref + off) es n) then (s, .held)
  else
  let (s, r) := s.access w (refBuf ref) (plainForm .read es) (offsFrom (refOff ref + off) es n)
  match r with
  | .error f => (s, if f.fail.cause == 1 then .page (refBuf ref) (f.off % (2 ^ 48 : Int)).toNat else .bad)
  | .ok ps =>
    if s.agentHeld ps.flatten then (s, .held)
    else
      let s := s.reach (linesOf (ps.flatten.map Place.key))
      (s, .ok (ps.map (fun p => leNat (p.map (fun y => s.plain (w.kid.getD 0) y.key)))))

/-- The end object: its key. -/
def State.seqEbo (s : State) (x : Seq) (need : Need) : State × SeqRead Nat :=
  if s.boHeld (x.who s) (refBuf x.ebo) (refOff x.ebo) then (s, .held)
  else
  let (s, r) := s.boKey (x.who s) (refBuf x.ebo) (refOff x.ebo) need
  match r with
  | .error f => (s, if f.cause == 1 then .page (refBuf x.ebo) (refOff x.ebo) else .bad)
  | .ok key => if s.ferried key || s.pinnedFor noCore (lineOf key) then (s, .held) else (s.reach [lineOf key], .ok key)

/-- A wait for page service. -/
def State.seqPage (s : State) (no : Nat) (x : Seq) (buf off : Nat) : State :=
  ((s.post { kind := 1, cause := cTransl, ctx := x.ctx, buf := buf, off := off }).setSeq no x).addWaiter (.seq no)

/-- Go on with what was read; `held` leaves the sequencer where it is. -/
def State.seqThen {α : Type} (no : Nat) (x : Seq) (r : State × SeqRead α) (k : State → α → State) : State :=
  match r with
  | (s, .ok a) => k s a
  | (s, .held) => s.setSeq no x
  | (s, .page buf off) => s.seqPage no x buf off
  | (s, .bad) => s.setSeq no (x.fail 4 0 0)

-- a step (R191)

/-- Arm one record as LARM does, bound to the sequencer: TILES of 0 arms nothing and reads no object (R182). `false` where the
sequencer stops or waits there. -/
def State.seqArm (s : State) (no : Nat) (x : Seq) (rec : Nat) : State × Bool :=
  let st := s.armStatus (BitVec.ofNat 64 rec) x.ctx
  if st != 0 then (s.setSeq no (x.fail 3 rec st), false)
  else if s.lrecTiles rec == 0 then (s.setSeq no x, true)
  else
    match s.readDbo noCore rec { kind := 6 } with
    | (s, .none) => ((s.setSeq no x).armRecords rec (some no) x.q none, true)
    | (s, .at_ key st) => ((s.setSeq no x).armRecords rec (some no) x.q (some (key, st)), true)
    | (s, .held _) => (s.setSeq no x, false)
    | (s, .fault f buf) =>
      if f.fail.cause == 1 then (s.seqPage no x buf (f.off % (2 ^ 48 : Int)).toNat, false)
      else (s.setSeq no (x.fail 4 rec 0), false)

/-- Arm graph entries from `x.next` - 2 on, `fuel` of them; then RUN. -/
def State.armGraph (s : State) (no : Nat) : Nat → State
  | 0 => s.modSeq no (fun x => { x with st := sqRun, next := 0 })
  | fuel + 1 =>
    let x := s.seq no
    State.seqThen no x (s.seqWords x (x.word 2) (2 * (x.next - 2)) 2 1) (fun s ids =>
      match s.seqArm no x (ids.headD 0) with
      | (s, true) => State.armGraph (s.modSeq no (fun y => { y with next := y.next + 1 })) no fuel
      | (s, false) => s)

/-- Load the row and arm the end object; then the graph. -/
def State.loadRow (s : State) (no : Nat) (x : Seq) (row : List Nat) : State :=
  let w0 := row.getD 0 0
  if w0 ≥ 4 || row.getD 1 0 != 0 then s.setSeq no (x.fail 1 0 0)
  else if w0.testBit 1 && x.next == 0 then
    (s.setSeq no (if x.resume then { x with next := 1, resume := false, st := sqLoad } else { x with st := sqPaused })).seqEvent
      no 12 x.step x
  else
    let q := (BitVec.ofNat 64 x.step :: BitVec.ofNat 64 x.n :: (row.drop 2).map (BitVec.ofNat 64)) ++ [BitVec.ofNat 64 w0]
    State.seqThen no x (s.seqEbo x (.atomic false)) (fun s key =>
      let kid := ((x.who s).kid).getD 0
      let before := s.boAt kid key
      let bad := s.boBad key
      let s := s.boOp kid key { kind := 6, ctx := x.ctx } (refBuf x.ebo) (refOff x.ebo) (fun b => b.arm x.ebytes)
      (s.setSeq no { x with q := q, next := 2, st := sqArm, phase := before.phase == 1, noted := bad }).armGraph no x.glen)

def State.seqStart (s : State) (no : Nat) : State :=
  let x := s.seq no
  if !s.evq.enabled || s.hasWaiter (.seq no) then s
  else if x.st == sqArm then s.armGraph no (x.glen - (x.next - 2))
  else if x.st != sqLoad then s
  else if x.abort then (if x.pop == 0 then s.setSeq no { x with st := sqIdle, abort := false } else s)
  else if x.k0 > x.n then s.setSeq no (x.fail 2 0 0)
  else if x.step ≥ x.n then s.seqDone no x
  else State.seqThen no x (s.seqWords x (x.word 0) (128 * x.step) 8 16) (fun s row => s.loadRow no x row)

def execSeqStepStart (n : Nat) (s : State) : Host.Outcome State Fault Refusal :=
  if n < 16 then .next (if s.partHeld then s else s.seqStart n) else .next s

-- the end of a step

/-- The phase of the end object has flipped; uncorrectable storage never differs, and says so once (12 R387). -/
def State.seqFlip (s : State) (no : Nat) (x : Seq) : State :=
  State.seqThen no x (s.seqEbo x .read) (fun s key =>
    if s.boBad key then
      (if x.noted then s else s.memErr { kind := 6, ctx := x.ctx } (refBuf x.ebo) (refOff x.ebo)).setSeq no { x with noted := true }
    else if ((s.boAt (((x.who s).kid).getD 0) key).phase == 1) == x.phase then s
    else if x.step + 1 ≥ x.n then s.seqDone no { x with step := x.step + 1 }
    else s.setSeq no { x with step := x.step + 1, st := sqLoad, next := 0 })

def State.seqEnd (s : State) (no : Nat) : State :=
  let x := s.seq no
  if s.hasWaiter (.seq no) || x.pop != 0 then s
  else if x.abort && (x.st == sqRun || x.st == sqPaused || x.st == sqHeld) then s.setSeq no { x with st := sqIdle, abort := false }
  else if x.st != sqRun then s
  else s.seqFlip no x

def execSeqStepEnd (n : Nat) (s : State) : Host.Outcome State Fault Refusal :=
  if n < 16 then .next (if s.partHeld then s else s.seqEnd n) else .next s

-- SQCTL (R194, R195)

/-- RESUME is taken by PAUSED, and by HELD in a band colder than B4; the bit stays set until it is. -/
def State.seqResume (s : State) (no : Nat) : State :=
  let x := s.seq no
  if x.st == sqPaused then s.setSeq no { x with st := sqLoad, next := 1, resume := false }
  else if x.st == sqHeld && s.cryo.band != 4 then s.setSeq no { x with st := x.held, resume := false }
  else s.setSeq no { x with resume := true }

def execSqctlResume (n : Nat) (s : State) : Host.Outcome State Fault Refusal :=
  if n < 16 then .next (s.seqResume n) else .next s

/-- ABORT ends the sequencer in IDLE once its population has drained. The bit of one that is not working stays set, and ends the next
sequence it is started for (00 R5, LOG 76). -/
def State.seqAbort (s : State) (no : Nat) : State :=
  let x := s.seq no
  if x.pop == 0 && (x.st == sqLoad || x.st == sqPaused || x.st == sqHeld) then s.setSeq no { x with st := sqIdle, abort := false }
  else s.setSeq no { x with abort := true }

def execSqctlAbort (n : Nat) (s : State) : Host.Outcome State Fault Refusal :=
  if n < 16 then .next (s.seqAbort n) else .next s

/-- Band B4 holds every working sequencer at its step and phase (R195). -/
def State.holdSeqs (s : State) : State :=
  (List.range 16).foldl (fun s no =>
    let x := s.seq no
    if x.st == sqLoad || x.st == sqArm || x.st == sqRun || x.st == sqPaused then s.setSeq no { x with st := sqHeld, held := x.st }
    else s) s

/-- A colder band lets go the sequencers whose RESUME bit is set. -/
def State.freeSeqs (s : State) : State :=
  (List.range 16).foldl (fun s no => if (s.seq no).st == sqHeld && (s.seq no).resume then s.seqResume no else s) s

-- starting (R192, 22 R374)

/-- The fields of a descriptor are in range. -/
def Seq.fieldsOk (x : Seq) : Bool :=
  x.glen != 0 && x.glen ≤ 4096 && refOff (x.word 0) % 128 == 0 && refOff (x.word 2) % 2 == 0 && refOff x.ebo % 16 == 0 &&
    bitsOf (x.word 3) 32 32 == 0 && x.word 6 == 0 && x.word 7 == 0 && x.ebytes != 0 && x.ebytes < 2 ^ 48

/-- Whether a descriptor is valid: a range of it that fails one of checks 1 to 5 makes it invalid; a buffer-table entry whose page is
not mapped makes the entry that carries it wait (R192). -/
def State.seqValid (s : State) (ws : List Word) : State × Bool × Option (AccFault × Nat) :=
  let x : Seq := { Seq.reset with desc := ws }
  let rows := if x.k0 < x.n then x.n - x.k0 else 0
  if !x.fieldsOk then (s, false, none)
  else
    let (s, bad) := s.rangesOk (x.who s) [
      { buf := refBuf (x.word 0), off := refOff (x.word 0) + 128 * x.k0, len := some (128 * rows), need := .read, plain := true },
      { buf := refBuf (x.word 2), off := refOff (x.word 2), len := some (2 * x.glen), need := .read, plain := true },
      boRange x.ebo]
    match bad with
    | none => (s, true, none)
    | some (f, buf) => (s, false, if f.fail.check == 7 then some (f, buf) else none)

/-- IDLE, DONE or ERROR: a descriptor can be started. -/
def Seq.startable (x : Seq) : Bool := x.st == sqIdle || x.st == sqDone || x.st == sqError

/-- A start leaves the bits of SQCTL as they are: they clear when taken (R194). -/
def State.seqBegin (s : State) (no : Nat) (ws : List Word) : State :=
  let x := s.seq no
  let y : Seq := { Seq.reset with desc := ws, st := sqLoad, pop := x.pop, resume := x.resume, abort := x.abort }
  s.setSeq no { y with step := y.k0 }

end Sys2Proof.Machine
end

