-- ==== Sys2Proof/Machine/Service.lean ====
section
/-! DEFINITION. Page service and the event ring (18 R311 to R314, 14 R276, 12 R389). -/

namespace Sys2Proof.Machine

-- FRPLY (R313)

/-- The commands of a slot that wait for service go on (16 R296). -/
def State.wakeCmds (s : State) (slot : Nat) : State :=
  (s.coll.cmds.filter (fun x => x.2.slot == slot && x.2.st == csFaulted)).foldl (fun s x =>
    let s := s.keepCmd x.1 { x.2 with st := if x.2.hold then csHeld else csActive }
    match x.2.gang with
    | some g => s.restall g
    | none => s) s

/-- A slot with a fault outstanding: of its task, or of one of its commands. One whose event still waits for room is not yet
outstanding (R314). -/
def State.faultOut (s : State) (slot : Nat) : Bool :=
  !s.heldEvent slot && !((s.info slot).map TaskInfo.dying).getD false &&
  (((s.info slot).bind TaskInfo.fault).isSome || s.coll.cmds.any (fun x => x.2.slot == slot && x.2.st == csFaulted))

/-- The moved weight-bank page that M of a core faulted on is served (11 R222). -/
def State.servePages (s : State) (c : Nat) : State :=
  let done := s.stor.asked.filter (unitOfSlice c)
  { s with stor := { s.stor with unserved := s.stor.unserved.filter (fun u => !done.contains u)
                                 asked := s.stor.asked.filter (fun u => !done.contains u) } }

/-- The engine of a task on its core executes its faulting member again. -/
def State.resumeOn (s : State) (c : Nat) (e : Eng) (t : RunTask) : State :=
  if !(s.eng c e).page then s
  else
    let s := (if e == .M then s.servePages c else s).modEng c e (fun g => { g.unblock with page := false })
    let left := allEngs.any (fun f => (s.eng c f).page)
    let s := if left then s else s.modInfo t.slot (fun x => { x with fault := none })
    match t.gang with
    | some g => s.restall g
    | none => s

def State.frplyResume (s : State) (e : Eng) (slot : Nat) : State :=
  if !s.faultOut slot then s
  else
    let s := s.wakeCmds slot
    match s.coreOf slot, s.info slot with
    | some c, some _ =>
      match (s.core c).task with
      | some t =>
        if t.delivery.isEmpty then s.resumeOn c e t
        else if t.delivery.all (fun d => d.page) then (s.servePages c).modInfo slot (fun x => { x with fault := none })
        else s
      | none => s
    | none, some t =>
      match t.fault with
      | some f =>
        if s.recState slot == tFaulted then ((s.servePages (f / 4)).modInfo slot (fun x => { x with fault := none })).enterReady slot
        else s
      | none => s
    | _, none => s

def execFrplyResume (e : Eng) (slot : Nat) (s : State) : Host.Outcome State Fault Refusal := .next (s.frplyResume e slot)

def State.frplyKill (s : State) (slot : Nat) : State :=
  if !s.faultOut slot then s
  else
    let s := s.kill slot
    match s.coreOf slot with
    | some c =>
      let s := allEngs.foldl (fun s e => s.modEng c e (fun g => { g with page := false })) s
      match (s.core c).task.bind RunTask.gang with
      | some g => s.restall g
      | none => s
    | none => s

def execFrplyKill (_e : Eng) (slot : Nat) (s : State) : Host.Outcome State Fault Refusal := .next (s.frplyKill slot)

-- the event ring (R314)

/-- Room in the ring lets held events out, and tasks whose kill waited for it end. -/
def State.drainAll (s : State) : State :=
  let s := s.drainEvents s.evq.waiting.length
  s.sched.tasks.foldl (fun s x => if x.2.dying then s.killAway x.1 else s) s

def State.setEvqBase (s : State) (v : Word) : State :=
  ({ s with evq := { s.evq with base := v.extractLsb' 12 44, log2n := v.extractLsb' 0 5 } }).drainAll

def execEvqbaseWrite (v : Word) (s : State) : Host.Outcome State Fault Refusal := .next (s.setEvqBase v)

def State.setEvqHead (s : State) (v : BitVec 32) : State := ({ s with evq := { s.evq with head := v } }).drainAll

def execEvqheadWrite (v : BitVec 32) (s : State) : Host.Outcome State Fault Refusal := .next (s.setEvqHead v)

-- waits of agents

/-- The credit of a skip that waited (R272, R389). -/
def State.paySkip (s : State) (slot : Nat) : State :=
  let w := s.whoAgent 0 (s.slotCtx slot) (s.slotLrec slot)
  let o := s.recWord slot 0x18
  let (s, r) := s.agentCredit w 2 (refBuf o) (refOff o) (bitsOf (s.lrecWord (s.slotLrec slot) 0x58) 0 32)
    (s.recEv slot { kind := 1 }) 0
  match r with
  | .waits | .held => s.addWaiter (.probe slot)
  | _ => s.freeSlot slot

/-- What an agent that waits does again. -/
def State.retry (s : State) (w : Waiter) : State :=
  match w with
  | .taskEnd c => s.taskEnd c
  | .probe slot =>
    match s.info slot with
    | some t => if t.toProbe then s.probe slot else s.paySkip slot
    | none => s
  | .seq n => if (s.seq n).st == sqRun then s.seqEnd n else s.seqStart n
  | .prog n => s.retryProg n
  | .msg n =>
    match s.coll.inbox.find? n with
    | some m => s.arrive n m
    | none => s

/-- Page service has mapped the page an agent waits for: it goes on; while it has not, nothing happens. -/
def execPageServiceRetry (idx : Nat) (s : State) : Host.Outcome State Fault Refusal :=
  match s.sched.waits[idx]? with
  | none => .next s
  | some w =>
    let t := ({ s with sched := { s.sched with waits := s.sched.waits.eraseIdx idx } }).retry w
    .next (if t.hasWaiter w then s else t)

end Sys2Proof.Machine
end

