-- ==== Sys2Proof/Machine/Remap.lean ====
section
/-! DEFINITION. The mechanisms of the memory levels: hash migration (11 R219), rebuild and scrub (R221, 20 R336), refresh, and
the retirement of bundles (R222, R223). -/

namespace Sys2Proof.Machine

-- migration (R219)

/-- START is ignored while BUSY. The manual does not say when the bit clears: here when the migration is complete (DESIGN CHOICE,
LOG 63). -/
def State.migrate (s : State) (newv : BitVec 4) : State :=
  if s.host.mapBusy then s else { s with host := { s.host with newv := newv, mapBusy := true, mapGo := true, migbnd := 0 } }

def execMapctlStart (newv : BitVec 4) (s : State) : Host.Outcome State Fault Refusal := .next (s.migrate newv)

/-- The move of a unit begins: its accesses wait (R219, R220). The remapper moves the unit at the boundary, the firmware any. -/
def State.startMove (s : State) (u : Nat) : State :=
  if decide (u < s.hbmSize / granule) && !s.heldUnit u then { s with stor := { s.stor with moving := s.stor.moving ++ [u] } } else s

/-- Its accesses may go on. -/
def State.unmoving (s : State) (u : Nat) : State := { s with stor := { s.stor with moving := s.stor.moving.filter (fun x => x != u) } }

/-- One unit moves; its watched lines wake (10 R177). At the top the version changes. -/
def State.remapUnit (s : State) : State :=
  if !s.host.mapBusy then s
  else
    let u := s.host.migbnd
    let s := ((frameLines u).foldl (fun s l => s.wake l) s).unmoving u
    let host := { s.host with migbnd := u + 1 }
    if u + 1 ≥ s.hbmSize / granule then { s with host := { host with curv := host.newv, mapBusy := false, mapGo := false } } else { s with host := host }

def execRemapUnitMove (s : State) : Host.Outcome State Fault Refusal := .next s.remapUnit

-- rebuild, scrub, refresh (R221, R204, 20 R336)

def execHbmRebuild (line : Nat) (s : State) : Host.Outcome State Fault Refusal :=
  if isHbm (128 * line) then .next (s.rebuild line) else .next s

/-- Below B4 every row is scrubbed again and again; not while the part is off, or while DRAM refreshes itself (20 R336, R342). -/
def State.scrubs (s : State) : Bool := s.cryo.band.toNat < 4 && s.cryo.st != 0 && s.cryo.st != 7

def execPatrolScrub (line : Nat) (s : State) : Host.Outcome State Fault Refusal :=
  if isDram (128 * line) && s.scrubs then
    let s := s.rebuild line
    .next { s with cryo := { s.cryo with patrol := line } }
  else .next s

/-- A refresh, in the bands that have one, leaves every bit as it is; it only delays accesses (20 R336, R337). -/
def execDramRefresh (s : State) : Host.Outcome State Fault Refusal := .next s

-- capacity registers (R223, 20 R347)

def State.setCap (s : State) (off : Nat) (w : Word) : State := { s with host := { s.host with caps := s.host.caps.put off w } }

/-- A part is made with fewer units: a count that others give is not set by itself, HBM comes and goes by parity groups of 15 data
channels, and no register shows more than a complete part has. -/
def State.madeWith (s : State) (off : Nat) (w : Word) : State :=
  if off == 0x20 || off == 0x28 then s
  else if off == 0x40 then
    let dch := bitsOf w 40 8
    if dch % 15 == 0 && decide (dch ≤ 240) then s.setCap off (mkWord [(40, 8, dch), (0, 32, dch * 32768)]) else s
  else if off == 0x48 then (if decide (bitsOf w 0 32 * 65536 ≤ capBytes) then s.setCap off (w &&& 0xFFFFFFFF) else s)
  else if off == 0x30 then
    let lanes := bitsOf w 16 8
    if lanes == 4 || lanes == 8 then s.setCap off (mkWord [(16, 8, lanes), (0, 16, bitsOf w 0 16)]) else s
  else if off == 0x38 then s.setCap off (w &&& 0xF)
  else if 0x4000 ≤ off && off < 0x5000 && off % 8 == 0 then
    let spares := Nat.min 4 (bitsOf w 8 8)
    s.setCap off (mkWord [(16, 2, bitsOf w 16 2), (8, 8, spares), (0, 8, Nat.min (64 - spares) (bitsOf w 0 8))])
  else if off < 0x20 && off % 8 == 0 then s.setCap off w
  else s

-- retirement (R222)

/-- The unit of page `p` of a slice, counted over the whole slice: bank pages 0 to 63, latent pages 64 to 127. -/
def slicePage (c layer p : Nat) : Nat := shoalKey c layer 0 / granule + p

/-- Where a page lies now. -/
def State.pageAt (s : State) (u : Nat) : Nat := s.stor.moved.get u u

/-- A unit lies in the slice behind bundle `b`: even or odd pages. -/
def unitBehind (c layer b u : Nat) : Bool := slicePage c layer 0 ≤ u && u < slicePage c layer 128 && (u - slicePage c layer 0) % 2 == b

/-- Spare pages of a slice that received no page, behind bundle `b`: those of the highest numbers (R199). -/
def State.sparesBehind (s : State) (c layer b : Nat) : List Nat :=
  let n := s.spareNos c layer
  let used := s.stor.moved.map (fun x => x.2)
  ((List.range n).map (fun i => slicePage c layer (128 - n + i))).filter (fun u => unitBehind c layer b u && !used.contains u)

/-- Those of the other bundle, while that lives. -/
def State.spareUnits (s : State) (c layer b : Nat) : List Nat :=
  if (s.slcap c layer).getLsbD (16 + (1 - b)) then s.sparesBehind c layer (1 - b) else []

/-- Pages behind a bundle, rising: latent ones (not the spare numbers), then those of the bank. -/
def State.latentBehind (s : State) (c layer b : Nat) : List Nat :=
  ((List.range (64 - s.spareNos c layer)).map (fun p => slicePage c layer (64 + p))).filter (fun u => unitBehind c layer b (s.pageAt u))
def State.bankBehind (s : State) (c layer b : Nat) : List Nat :=
  ((List.range 64).map (slicePage c layer)).filter (fun u => unitBehind c layer b (s.pageAt u))

/-- The contents of page `u` go to unit `v` with their marks; open batches of its lines are applied first (12 R236), and its watched
lines wake. -/
def State.movePage (s : State) (u v : Nat) : State :=
  let now := s.pageAt u
  let s := (s.reach (frameLines now)).swapFrames now v
  { s with stor := { s.stor with moved := s.stor.moved.put u v } }

def State.retireBundle (s : State) (c layer b : Nat) : State :=
  let cap := s.slcap c layer
  let latent := s.latentBehind c layer b
  let bank := s.bankBehind c layer b
  let spares := s.spareUnits c layer b
  let toHbm := latent.drop spares.length ++ bank
  let busy := (latent ++ bank).any (fun u => s.heldUnit (s.pageAt u))
  if !s.present c || layer > 1 || b > 1 || !cap.getLsbD (16 + b) || s.stor.reserve.length < toHbm.length || busy then s
  else
    let home := s.stor.reserve.take toHbm.length
    let s := { s with stor := { s.stor with reserve := s.stor.reserve.drop toHbm.length } }
    let s := ((latent.zip spares) ++ (toHbm.zip home)).foldl (fun s (x : Nat × Nat) => s.movePage x.1 x.2) s
    let lost := s.sparesBehind c layer b
    let left := bitsOf cap 8 8 - Nat.min latent.length spares.length - lost.length
    let lat := bitsOf cap 0 8 - (latent.length - Nat.min latent.length spares.length)
    let now := setBits (setBits (setBits cap (16 + b) 1 0) 8 8 left) 0 8 lat
    let s := { s with stor := { s.stor with slNow := s.stor.slNow.put (slcapOff c layer) now, unserved := s.stor.unserved ++ bank, deadB := (4 * c + 2 * layer + b) :: s.stor.deadB } }
    s.post { kind := 5, detail := Config.openDetail 5 [c, layer, b, latent.length + bank.length] }

/-- A correctable error on a bundle: it is retired when those of the last second are more than RETTHR, unless that is 0 (22 R370). -/
def State.bundleError (s : State) (c layer b : Nat) : State :=
  let k := 4 * c + 2 * layer + b
  let now := s.wall :: (s.stor.errs.get k []).filter (fun t => decide (s.wall < t + 1000000))
  let limit := bitsOf s.host.retthr 0 32
  if c > 255 || layer > 1 || b > 1 then s
  else
    let s := { s with stor := { s.stor with errs := s.stor.errs.put k now } }
    if limit != 0 && decide (limit < now.length) then s.retireBundle c layer b else s

def execBundleRetire (core layer bundle : Nat) (s : State) : Host.Outcome State Fault Refusal :=
  .next (s.retireBundle core layer bundle)

end Sys2Proof.Machine
end

