-- ==== Sys2Proof/Machine/Cryogenic.lean ====
section
/-! DEFINITION. Bands, the hold timer and the states of the part (20 R335 to R346). Time is wall time in microseconds. -/

namespace Sys2Proof.Machine

-- samples (R335)

/-- Band of a temperature in 1/16 K. -/
def bandOf (t : Therm) : Nat :=
  if !t.valid then 4
  else if t.kelvin ≤ 90 * 16 then 0
  else if t.kelvin ≤ 110 * 16 then 1
  else if t.kelvin ≤ 150 * 16 then 2
  else if t.kelvin ≤ 250 * 16 then 3
  else 4

def noTherm : Therm := { valid := false, kelvin := 0 }

/-- Readings are compared by temperature, one that is not valid above all. -/
def heat (t : Therm) : Nat := if t.valid then t.kelvin else 65536

/-- The warmest sensor, the lowest of several. -/
def warmestSensor (xs : List (Nat × Therm)) : Nat × Therm :=
  xs.foldl (fun a x => if heat x.2 > heat a.2 then x else a) (xs.headD (0, noTherm))

def State.sensors (s : State) : List (Nat × Therm) := (List.range 12).map (fun i => (i, s.cryo.live.get i noTherm))

-- gating (R341)

def Cryo.value (c : Cryo) : Nat := c.st.toNat * 16 + (if c.slip then 8 else 0) + c.band.toNat

/-- The staged task goes back to the pool; a gang that the core is reserved for goes back whole, whichever task stands there. -/
def State.giveBack (s : State) (c : Nat) : State :=
  match s.reserved c with
  | some u => (s.dropUnit u).unstage c
  | none => s.unstage c

/-- A core that may no longer run: its L1 is written back, its staged task returned, its running task pre-empted. -/
def State.gateCore (s : State) (c : Nat) : State := ((s.release c).giveBack c).requestCore c

/-- Present cores that a band lets run and another does not. -/
def State.lostCores (s : State) (now new : Nat) : List Nat :=
  (List.range 256).filter (fun c => s.present c && bandCores now c && !bandCores new c)

/-- Cores with a running task. -/
def State.runningCores (s : State) : List Nat := (s.cores.filter (fun x => x.2.task.isSome)).map (fun x => x.1)
def State.requestAll (s : State) : State := s.runningCores.foldl (fun s c => s.requestCore c) s

/-- The scratchpad of a restored core is unspecified. -/
def State.restoreCore (s : State) (c : Nat) : State := s.forget c 0 (s.core c).spadLen

-- a change of band (R338, R339)

/-- The refresh of DRAM in a band (R336). -/
def refreshOf (band : Nat) : BitVec 2 := if band < 2 then 0 else if band < 4 then 1 else 2


/-- BAND, SLIP and refresh take the new band; gated cores are emptied, restored ones forget their scratchpad; entry into B4
holds the sequencers and pre-empts every task, leaving it lets go those told to resume. -/
def State.setBand (s : State) (new : Nat) : State :=
  let now := s.cryo.band.toNat
  if now == new then s
  else
    let lost := s.lostCores now new
    let back := s.lostCores new now
    let s := { s with cryo := { s.cryo with band := BitVec.ofNat 3 new, slip := decide (2 ≤ new), refresh := refreshOf new } }
    let s := lost.foldl (fun s c => s.gateCore c) s
    let s := back.foldl (fun s c => s.restoreCore c) s
    if new == 4 then s.holdSeqs.requestAll else if now == 4 then s.freeSeqs else s

def State.setSt (s : State) (st : Nat) : State := { s with cryo := { s.cryo with st := BitVec.ofNat 4 st } }

/-- BANDCHG, with the values before and after, the deciding sensor and its reading. -/
def State.bandEvent (s : State) (before sensor kelvin : Nat) : State :=
  s.post { kind := 14, detail := mkWord [(0, 8, before), (8, 8, s.cryo.value), (16, 8, sensor), (32, 16, kelvin)] }

/-- SAFE: clocks stopped, B4 (R340, R342); a COOL that waited for the running tasks is given up. -/
def State.toSafe (s : State) : State :=
  let s := (s.setBand 4).setSt 7
  { s with cryo := { s.cryo with hold := none, cmd := 0 } }

/-- WARMUP begins: dispatch stops, the sequencers hold, every running task is pre-empted (R344). -/
def State.toWarmup (s : State) : State :=
  let s := s.setSt 6
  ({ s with cryo := { s.cryo with warmAt := s.wall, hold := none, cmd := 0 } }).holdSeqs.requestAll

/-- States that a sample moves (R340): colder and warmer, or warmer alone. -/
def Cryo.mayCool (c : Cryo) : Bool := c.st == 2 || c.st == 3 || c.st == 4 || c.st == 5
def Cryo.mayRetreat (c : Cryo) : Bool := c.mayCool || c.st == 6

/-- A retreat, and the state it takes the part to (R343). -/
def State.retreat (s : State) (new : Nat) (w : Nat × Therm) : State :=
  let before := s.cryo.value
  let st := s.cryo.st
  let s := { s with cryo := { s.cryo with hold := none } }
  let s := if st == 4 || st == 5 then s.setSt (if new == 4 then 6 else if 2 ≤ new then 5 else 4) else s
  let s := (s.setBand new).bandEvent before w.1 w.2.kelvin
  if (st == 4 || st == 5) && new == 4 then s.toWarmup else s

-- commands (R343, R345)

/-- A command without a transition is ignored and recorded. -/
def State.badCommand (s : State) : State := { s with cryo := { s.cryo with badcmd := true } }

/-- COOL: running tasks are pre-empted first. -/
def State.cool (s : State) : State :=
  if s.cryo.st == 1 then ({ s with cryo := { s.cryo with cmd := 1 } }).requestAll.coolDown else s.badCommand

def State.warm (s : State) : State :=
  if s.cryo.st == 4 || s.cryo.st == 5 || s.cryo.st == 7 then s.toWarmup else s.badCommand

def State.powerOffCmd (s : State) : State :=
  if s.cryo.st == 6 then { s with cryo := { s.cryo with offAt := true } } else s.badCommand

def State.abortCool (s : State) : State :=
  if s.cryo.st == 2 then
    let s := { s with cryo := { s.cryo with hold := none } }
    (s.setSt 1).setBand 4
  else s.badCommand

/-- What a value of CRYOCTL.CMD commands; 0 and 5 to 7 are ignored (R345). -/
def State.cryoCmd (s : State) (cmd : Nat) : State :=
  match cmd with
  | 1 => s.cool
  | 2 => s.warm
  | 3 => s.powerOffCmd
  | 4 => s.abortCool
  | _ => s

def State.moment (s : State) : Moment := { cyc := s.cyc.toNat, wall := s.wall }

/-- A command waits for the sample of its period, which may be a retreat and is taken first (R346); without power no sample is taken,
and it is judged at once (LOG 77). Of one cycle the side-band's come first (22 R376). -/
def State.ask (s : State) (host : Bool) (cmd : Nat) : State :=
  let x : Asked := { at_ := s.moment, host := host, cmd := cmd }
  let after (y : Asked) : Bool := !host && y.at_ == x.at_ && y.host
  if s.cryo.st == 0 then s.cryoCmd cmd
  else { s with cryo := { s.cryo with asked := s.cryo.asked.filter (fun y => !after y) ++ x :: s.cryo.asked.filter after } }

/-- The commands that waited are judged in their order. -/
def State.judgeAsked (s : State) : State :=
  s.cryo.asked.foldl (fun s x => s.cryoCmd x.cmd) { s with cryo := { s.cryo with asked := [] } }

def execCryoctlCool (s : State) : Host.Outcome State Fault Refusal := .next (s.ask true 1)
def execCryoctlWarm (s : State) : Host.Outcome State Fault Refusal := .next (s.ask true 2)
def execCryoctlPoweroff (s : State) : Host.Outcome State Fault Refusal := .next (s.ask true 3)
def execCryoctlAbort (s : State) : Host.Outcome State Fault Refusal := .next (s.ask true 4)

/-- The hold timer after a sample that is no retreat (R339). -/
def Cryo.timed (c : Cryo) (band wall : Nat) : Cryo :=
  if band < c.band.toNat then
    match c.hold with
    | some _ => { c with warmest := BitVec.ofNat 3 (Nat.max c.warmest.toNat band) }
    | none => { c with hold := some wall, warmest := BitVec.ofNat 3 band }
  else { c with hold := none }

/-- A sample is due 1 ms after the last; the commands of its period are judged after what it shows (R346). -/
def State.sample (s : State) : State :=
  if s.cryo.st == 0 || s.wall < s.cryo.sampled + 1000 then s
  else
    let xs := s.sensors
    let w := warmestSensor xs
    let band := bandOf w.2
    let s := { s with cryo := { s.cryo with temps := xs, sampled := s.wall } }
    let s :=
      if band > s.cryo.band.toNat && s.cryo.mayRetreat then s.retreat band w
      else if s.cryo.mayCool then { s with cryo := s.cryo.timed band s.wall }
      else s
    (if s.cryo.st == 3 && 2 ≤ band then s.toSafe else s).judgeAsked

def execTempSample (s : State) : Host.Outcome State Fault Refusal := .next s.sample

-- the hold timer

/-- HOLDT in microseconds; 0 is read as 1 second. -/
def Cryo.holdUs (c : Cryo) : Nat := Nat.max 1 c.holdt.toNat * 1000000

/-- The part moves to the warmest band sampled since the timer started, and with it to COLD_TRAIN or COLD_RUN (R343). -/
def State.holdExpire (s : State) : State :=
  match s.cryo.hold with
  | none => s
  | some t =>
    if !s.cryo.mayCool || s.wall < t + s.cryo.holdUs then s
    else
      let new := s.cryo.warmest.toNat
      let before := s.cryo.value
      let w := warmestSensor ((List.range 12).map (fun i => (i, s.cryo.temps.get i noTherm)))
      let st := s.cryo.st
      let s := { s with cryo := { s.cryo with hold := none } }
      let s := if st == 2 && new ≤ 1 then s.setSt 3 else if st == 5 && new ≤ 1 then s.setSt 4 else s
      (s.setBand new).bandEvent before w.1 w.2.kelvin

def execHoldTimerExpire (s : State) : Host.Outcome State Fault Refusal := .next s.holdExpire

-- training and warm-up

def execTrainingDone (pass : Bool) (s : State) : Host.Outcome State Fault Refusal :=
  if s.cryo.st != 3 then .next s
  else if pass then .next (s.setSt 4)
  else .next s.toSafe

/-- Everything that WARM_OFF loses: every SRAM and DRAM content and what the part keeps beside it; fuses, the boot flash, capacities, which bundles and
units are retired (00 R5: kept), and the memory of the host and of peers stay (R344). -/
def State.powerDown (s : State) : State :=
  let hostBytes := s.mem.filter (fun x => isOutside x.1 1)
  { State.reset with
    mem := hostBytes
    stor := { Storage.reset with
      deadB := s.stor.deadB, reserve := s.stor.reserve, slNow := s.stor.slNow, moved := s.stor.moved, unserved := s.stor.unserved
      poison := s.stor.poison.filter (fun l => isOutside (128 * l) 128) }
    wall := s.wall, agenda := s.agenda, cur := s.cur, free := s.free
    host := { HostWin.reset with caps := s.host.caps, pcieUp := s.host.pcieUp }
    mgmt := { Mgmt.reset with svn := s.mgmt.svn, pkg := s.mgmt.pkg, podNo := s.mgmt.podNo, flash := s.mgmt.flash, refused := s.mgmt.refused }
    cryo := { Cryo.reset with live := s.cryo.live } }

/-- Steps 1 to 3 of R344 are complete: no task runs, and commands are saved or done. -/
def State.drained (s : State) : Bool :=
  s.runningCores.isEmpty && s.coll.cmds.all (fun x => x.2.hold || x.2.st == csFaulted) && s.coll.progs.isEmpty

/-- Steps 4 to 6: caches are written back, refresh is warm, BAND is B4. -/
def State.warmed (s : State) : State :=
  if s.cryo.st != 6 || !s.drained then s
  else
    let s := s.cores.foldl (fun s x => s.release x.1) s
    if s.cores.any (fun x => !x.2.settled) then s
    else
      let s := s.setBand 4
      if s.cryo.offAt then s.powerDown else s.setSt 1

def execWarmupComplete (s : State) : Host.Outcome State Fault Refusal := .next s.warmed

def execWarmupDeadline (s : State) : Host.Outcome State Fault Refusal :=
  if s.cryo.st == 6 && s.cryo.warmAt + 10000000 ≤ s.wall then .next s.toSafe else .next s

def execHeartbeatMiss (s : State) : Host.Outcome State Fault Refusal :=
  if s.cryo.st == 0 then .next s else .next s.toSafe

end Sys2Proof.Machine
end

