-- ==== Sys2Proof/Machine/Manage.lean ====
section
/-! DEFINITION. Boot, attestation, memory keys and the management port (22 R377 to R384). -/

namespace Sys2Proof.Machine

-- boot (R379, R380)

def maxBody : Nat := 12 * 2 ^ 20

/-- Whether an image may run: the header, both signatures, and an SVN not below the fused counter. -/
def State.imageOk (s : State) (img : Image) : Bool :=
  img.magic == 0x4B525659 && img.length.toNat ≤ maxBody && img.length.toNat == img.body.length && img.resv0 &&
  Config.rsaOk img && Config.slhOk img && decide (s.mgmt.svn.toNat ≤ img.svn.toNat)

/-- The image runs: the part enters WARM_BENCH (20 R343). -/
def State.bootWith (s : State) (img : Image) : State :=
  ({ s with mgmt := { s.mgmt with booted := true, waiting := false, digest := Config.digestOf img, runSvn := img.svn } }).setSt 1

/-- What the boot ROM loads from the boot flash: the image that the cartridge came with, or the one written there since (R380). -/
def State.flashed (s : State) (img : Image) : Image := s.mgmt.flash.getD img

def execPowerUp (img : Image) (s : State) : Host.Outcome State Fault Refusal :=
  if s.cryo.st != 0 || s.mgmt.waiting then .next s
  else if s.imageOk (s.flashed img) then .next (s.bootWith (s.flashed img))
  else .next { s with mgmt := { s.mgmt with waiting := true } }

/-- RECOVER is accepted only while the boot ROM waits. -/
def execRecover (img : Image) (s : State) : Host.Outcome State Fault Refusal :=
  if s.mgmt.waiting && s.imageOk img then .next (s.bootWith img) else .next s

-- the management port (R377)

/-- The port answers whenever the part has power, whether or not firmware runs: the boot ROM that waits for RECOVER included. -/
def State.powered (s : State) : Bool := s.cryo.st != 0 || s.mgmt.waiting
def State.replyWith (s : State) (ws : List Word) : State := { s with mgmt := { s.mgmt with reply := ws } }

/-- Seconds elapsed on the hold timer, saturating at 255 (20 R345). -/
def State.holdSecs (s : State) : Nat :=
  match s.cryo.hold with
  | some t => Nat.min 255 ((s.wall - t) / 1000000)
  | none => 0

def State.cryost (s : State) : Word :=
  mkWord [(16, 1, if s.cryo.badcmd then 1 else 0), (8, 8, s.cryo.value), (0, 8, s.holdSecs)]

def State.thtemp (s : State) (i : Nat) : Word :=
  let t := s.cryo.temps.get i noTherm
  mkWord [(16, 1, if t.valid then 1 else 0), (0, 16, t.kelvin)]

def execRdband (s : State) : Host.Outcome State Fault Refusal :=
  if s.powered then .next (s.replyWith (s.cryost :: (List.range 12).map s.thtemp)) else .next s

def execRdpwr (s : State) : Host.Outcome State Fault Refusal :=
  if s.powered then .next (({ s with free := s.free + 1 }).replyWith [Config.power s.free]) else .next s

/-- SNDCNT (21 R366). -/
def State.sndcnt (s : State) : Word :=
  mkWord [(32, 16, s.coll.flushN.toNat), (16, 16, s.coll.mismN.toNat), (0, 16, s.coll.lateN.toNat)]

def execRderr (s : State) : Host.Outcome State Fault Refusal :=
  if s.powered then
    let ws := [BitVec.ofNat 64 (s.evq.errs.get 0 0), BitVec.ofNat 64 (s.evq.errs.get 1 0), s.sndcnt, s.evq.lost.setWidth 64]
    let t := { s with evq := { s.evq with errs := [], lost := 0 }, coll := { s.coll with flushN := 0, mismN := 0, lateN := 0 } }
    .next (t.replyWith ws)
  else .next s

/-- CRYO: a write of CRYOCTL.CMD over the side-band (20 R345). -/
def execCryo (cmd : BitVec 3) (s : State) : Host.Outcome State Fault Refusal :=
  if s.powered then .next (s.ask false cmd.toNat) else .next s

-- memory keys (R382, R383)

/-- Equal key pairs are one key. -/
def keyGen (k1 k2 : BitVec 256) : Nat := k1.toNat * 2 ^ 256 + k2.toNat + 1

/-- Install or erase a slot: STATUS 1, or 2 where it is refused. -/
def State.loadKey (s : State) (k1 k2 : BitVec 256) (slot : Nat) (erase : Bool) : State × Nat :=
  if slot == 0 || (!erase && k1 == k2) then (s, 2)
  else
    let keys := if erase then s.mgmt.keys.del slot else s.mgmt.keys.put slot { k1 := k1, k2 := k2, gen := keyGen k1 k2 }
    ({ s with mgmt := { s.mgmt with keys := keys } }, 1)

/-- KEYLD over the management port: only as a secured message of a session. -/
def execKeyld (secured : Bool) (k1 k2 : BitVec 256) (slot : BitVec 10) (erase : Bool) (s : State) :
    Host.Outcome State Fault Refusal :=
  if secured && s.mgmt.session.isSome && s.powered then
    let (s, st) := s.loadKey k1 k2 slot.toNat erase
    .next (s.replyWith [BitVec.ofNat 64 st])
  else .next s

/-- A write carried on an IDE stream that may reach BAR0 (R369, R383). -/
def State.onIde (s : State) (o : Origin) : Bool :=
  match o with
  | .ide => true
  | .tdi n => !s.host.tdiRun.contains n
  | _ => false

/-- A write to the KEYLD block that is dropped: of a stream of a TDI in RUN (R369), and of the side-band, which reaches other registers. -/
def State.keyldDrops (s : State) (o : Origin) : Bool :=
  match o with
  | .tdi n => s.host.tdiRun.contains n
  | .sideband => true
  | _ => false

/-- GO through the KEYLD block; one that is performed clears K1 and K2. -/
def State.keyldGo (s : State) (o : Origin) (slot : Nat) (erase : Bool) : State :=
  if s.keyldDrops o then s
  else if !s.onIde o then { s with host := { s.host with kstat := 2 } }
  else
    let (s, st) := s.loadKey s.host.k1 s.host.k2 slot erase
    let h := { s.host with kstat := BitVec.ofNat 8 st, kslot := BitVec.ofNat 10 slot }
    { s with host := if st == 1 then { h with k1 := 0, k2 := 0 } else h }

def execKeyldInstall (o : Origin) (slot : BitVec 10) (s : State) : Host.Outcome State Fault Refusal :=
  .next (s.keyldGo o slot.toNat false)
def execKeyldErase (o : Origin) (slot : BitVec 10) (s : State) : Host.Outcome State Fault Refusal :=
  .next (s.keyldGo o slot.toNat true)

-- attestation (R381)

/-- A digest as words. -/
def digestWords (x : BitVec 384) : List Word := (List.range 6).map (fun i => x.extractLsb' (64 * i) 64)

/-- What a measurement block measures: the boot ROM, the image digest, SVN and fuses (the SVN of the image that runs, the fused counter and
the digests of both public keys), or the policy registers. -/
def State.measured (s : State) (block : Nat) : List Word :=
  match block with
  | 0 => digestWords Config.bootRom
  | 1 => digestWords s.mgmt.digest
  | 2 => [s.mgmt.runSvn.setWidth 64, s.mgmt.svn.setWidth 64] ++ digestWords Config.rsaKey ++ digestWords Config.slhKey
  | 3 => [s.host.polage.setWidth 64, s.host.polpr, s.host.polwd, s.host.lpbase, s.host.rsbase, s.host.sdbase, s.host.srbase,
      s.host.cmbase, s.host.ctxt, s.host.retthr, s.host.srhead.setWidth 64, s.host.srtail.setWidth 64]
  | _ => []

def execGetMeasurements (block : BitVec 8) (nonce : BitVec 256) (s : State) : Host.Outcome State Fault Refusal :=
  if s.powered then .next (s.replyWith (Config.measurement block nonce (s.measured block.toNat))) else .next s

/-- A secured session is set up; the response is signed. -/
def execKeyExchange (peer : BitVec 256) (s : State) : Host.Outcome State Fault Refusal :=
  if s.powered then .next (({ s with mgmt := { s.mgmt with session := some (Config.sessionKey peer) } }).replyWith (Config.exchange peer))
  else .next s

end Sys2Proof.Machine
end

