-- ==== Sys2Proof/Machine/FrontEnd.lean ====
section
/-! DEFINITION. The work queues and the front end (22 R371 to R376): doorbells, WQCTL, taking an entry, and the six kinds. -/

namespace Sys2Proof.Machine

-- queues (R372)

def wqDisabled : BitVec 2 := 0
def wqRun : BitVec 2 := 1
def wqHalted : BitVec 2 := 2
def wqWaiting : BitVec 2 := 3

def Wq.reset : Wq where
  base := 0
  log2n := 0
  ctxid := 0
  tdi := 0
  enable := false
  erridx := 0
  errc := 0
  st := wqDisabled
  head := 0
  tail := 0
  cur := none
  noted := false
  boNoted := false
  retry := false
  skip := false

def State.wq (s : State) (q : Nat) : Wq := s.host.wqs.get q Wq.reset
def State.setWq (s : State) (q : Nat) (w : Wq) : State := { s with host := { s.host with wqs := s.host.wqs.put q w } }

/-- LOG2N is read as 6 to 16. -/
def Wq.log (w : Wq) : Nat := Nat.min 16 (Nat.max 6 w.log2n.toNat)
def Wq.size (w : Wq) : Nat := 2 ^ w.log
def Wq.at_ (w : Wq) : Nat := w.head % w.size

/-- No entry is being taken. -/
def Wq.idle (w : Wq) (st : BitVec 2) : Wq := { w with st := st, cur := none, noted := false, boNoted := false }

/-- The next entry. -/
def Wq.past (w : Wq) : Wq := { w with head := (w.head + 1) % w.size }

/-- The state of a queue that is neither halted nor waiting. -/
def Wq.rest (w : Wq) : BitVec 2 := if w.enable then wqRun else wqDisabled

-- who reaches a queue (R368, R369)

/-- In RUN only the owning TDI's own stream reaches a doorbell page. -/
def State.reachesBell (s : State) (o : Origin) (q : Nat) : Bool :=
  let t := (s.wq q).tdi.toNat
  q < 4096 && (!s.host.tdiRun.contains t || o == .tdi t)

/-- A stream of a TDI in RUN reaches only the blocks of its own queues. -/
def State.reachesBlock (s : State) (o : Origin) (q : Nat) : Bool :=
  q < 4096 && (match o with
    | .tdi n => !s.host.tdiRun.contains n || (s.wq q).tdi.toNat == n
    | _ => true)

-- halting (R375)

/-- A word of the MSI-X table; Vector Control masks its vector at reset (PCI Express, LOG 84). -/
def State.msixWord (s : State) (r : Nat) : Word := s.host.other.get r (if r % 16 == 8 then 0x100000000 else 0)
def State.msixMasked (s : State) (v : Nat) : Bool := (s.msixWord (0x1000000 + 16 * v + 8)).getLsbD 32

/-- A vector is sent, or pends while it is masked (R369). -/
def State.sendMsix (s : State) (v : Nat) : State :=
  { s with host := if s.msixMasked v then { s.host with pend := v :: s.host.pend.filter (fun x => x != v) }
                   else { s.host with msix := s.host.msix ++ [v] } }

/-- A write of the table lets a pending vector go that it unmasks. -/
def State.putMsix (s : State) (r : Nat) (w : Word) : State :=
  let s := { s with host := { s.host with other := s.host.other.put r w } }
  let v := (r - 0x1000000) / 16
  if s.host.pend.contains v && !s.msixMasked v then
    { s with host := { s.host with pend := s.host.pend.filter (fun x => x != v), msix := s.host.msix ++ [v] } }
  else s

def State.haltWq (s : State) (q errc : Nat) : State :=
  let w := s.wq q
  (s.setWq q { w.idle wqHalted with erridx := BitVec.ofNat 16 w.at_, errc := BitVec.ofNat 8 errc,
                                       retry := false, skip := false }).sendMsix 2047

/-- ERRC 6 with a cause, ERRC 4 with an arm status. -/
def errRef (cause : Nat) : Nat := 6 + 16 * cause
def errArm (st : Nat) : Nat := 4 + 16 * st

-- doorbells and WQCTL (R372, R375, R376)

def State.doorbell (s : State) (o : Origin) (q tail : Nat) : State :=
  if !s.reachesBell o q then s
  else
    let w := s.wq q
    if tail < w.size then s.setWq q { w with tail := tail }
    else if w.st == wqHalted then s
    else s.haltWq q 3

def execDoorbell (o : Origin) (q : Nat) (tail : BitVec 32) (s : State) : Host.Outcome State Fault Refusal :=
  .next (s.doorbell o q tail.toNat)

/-- ENABLE. A halted queue stays halted until RETRY or SKIP; a wait is abandoned with HEAD on its entry. -/
def Wq.setEnable (w : Wq) (on : Bool) : Wq :=
  if w.st == wqHalted then { w with enable := on }
  else if on then (if w.st == wqDisabled then { w.idle wqRun with enable := true } else w)
  else { w.idle wqDisabled with enable := false }

def State.wqEnable (s : State) (o : Origin) (q : Nat) (on : Bool) : State :=
  if s.reachesBlock o q then s.setWq q ((s.wq q).setEnable on) else s

def execWqctlEnable (o : Origin) (q : Nat) (on : Bool) (s : State) : Host.Outcome State Fault Refusal :=
  .next (s.wqEnable o q on)

/-- RETRY of a queue that is not HALTED is held, as SKIP is, and counts for nothing when the queue halts (00 R5; the manual does not
say when the bit clears: DESIGN CHOICE, LOG 63). -/
def State.wqRetry (s : State) (o : Origin) (q : Nat) : State :=
  let w := s.wq q
  if !s.reachesBlock o q then s
  else if w.st == wqHalted then s.setWq q (w.idle w.rest) else s.setWq q { w with retry := true }

def execWqctlRetry (o : Origin) (q : Nat) (s : State) : Host.Outcome State Fault Refusal := .next (s.wqRetry o q)

def State.wqSkip (s : State) (o : Origin) (q : Nat) : State :=
  let w := s.wq q
  if !s.reachesBlock o q then s
  else if w.st == wqHalted then s.setWq q ((w.idle w.rest).past) else s.setWq q { w with skip := true }

def execWqctlSkip (o : Origin) (q : Nat) (s : State) : Host.Outcome State Fault Refusal := .next (s.wqSkip o q)

-- what an entry comes to

/-- The entry is accepted (R373). -/
def State.acceptWq (s : State) (q : Nat) : State := let w := s.wq q; s.setWq q ((w.idle wqRun).past)

/-- The entry waits. -/
def State.waitWq (s : State) (q : Nat) : State := s.setWq q { s.wq q with st := wqWaiting }

/-- A reference meets a translation fault: the entry waits for page service. -/
def State.waitPage (s : State) (q buf off : Nat) : State :=
  let w := s.wq q
  (if w.noted then s else s.post { kind := 1, cause := cTransl, ctx := w.ctxid.toNat, buf := buf, off := off }).setWq q
    { w with st := wqWaiting, noted := true }

/-- A reference fails a check. -/
def State.badRef (s : State) (q : Nat) (f : Fail) (buf off : Nat) : State :=
  if f.cause == 1 then s.waitPage q buf off else s.haltWq q (errRef f.cause)

/-- References of a queue are resolved in its context, owned by no launch record (R374). -/
def State.whoWq (s : State) (q : Nat) : Who := s.whoAgent noCore (s.wq q).ctxid.toNat 65536

-- LAUNCH

def State.launchEntry (s : State) (q : Nat) (record : BitVec 16) (sett : Bool) (tiles : BitVec 32) : State :=
  let ctx := (s.wq q).ctxid.toNat
  let rec_ : Word := record.setWidth 64
  let n := record.toNat
  if !s.evq.enabled || s.partHeld then s.waitWq q
  else
    let st := if sett then s.patchStatus rec_ (tiles.setWidth 64) 1 ctx else 0
    if st != 0 then s.haltWq q (errArm st)
    else
      let s := if sett then s.patch n 1 (tiles.setWidth 64) else s
      let st := s.armStatus rec_ ctx
      if st != 0 then s.haltWq q (errArm st)
      else if s.lrecTiles n == 0 then s.acceptWq q
      else
        match s.readDbo noCore n { kind := 6 } with
        | (s, .none) => (s.armRecords n none [] none).acceptWq q
        | (s, .at_ key st) => (s.armRecords n none [] (some (key, st))).acceptWq q
        | (s, .held _) => s.waitWq q
        | (s, .fault f buf) => s.badRef q f.fail buf (f.off % (2 ^ 48 : Int)).toNat

-- SEQ

def State.seqEntry (s : State) (q : Nat) (n : BitVec 4) (ws : List Word) : State :=
  let no := n.toNat
  if !s.evq.enabled || !(s.seq no).startable then s.waitWq q
  else
    let desc := ws ++ [0, 0]
    let x : Seq := { Seq.reset with desc := desc }
    if x.ctx != (s.wq q).ctxid.toNat then s.haltWq q 5
    else match s.seqValid desc with
      | (s, true, _) => (s.seqBegin no desc).acceptWq q
      | (s, false, some (f, buf)) => s.badRef q f.fail buf (f.off % (2 ^ 48 : Int)).toNat
      | (s, false, none) => s.haltWq q 5

-- COPY and COLL

/-- A copy between buffers that ACPY would refuse (16 R290). -/
def State.copyOdd (s : State) (w : Who) (src dst : Word) : State × Bool :=
  let (s, a) := s.entryOf w (refBuf src)
  let (s, b) := s.entryOf w (refBuf dst)
  match a, b with
  | .ok a, .ok b => (s, (copyUnit a b).isNone)
  | _, _ => (s, false)

def State.copyEntry (s : State) (q : Nat) (src dst len bo : Word) : State :=
  let w := s.whoWq q
  if bitsOf len 48 16 != 0 then s.haltWq q 2
  else
    match s.rangesOk w (cmdRanges kCopy [src, dst, len] [] bo) with
    | (s, some (x, buf)) => s.badRef q x.fail buf (x.off % (2 ^ 48 : Int)).toNat
    | (s, none) =>
      let (s, odd) := s.copyOdd w src dst
      if odd then s.haltWq q (errRef 5)
      else (s.addCmd (Cmd.new kCopy slotCount 0 noCore (4 + q) 0 (s.wq q).ctxid 0 [src, dst, len] bo [] [(noCore, 0, 0)] none
        (some q))).acceptWq q

def State.collEntry (s : State) (q : Nat) (prog arg bo : Word) (rank nrank : BitVec 20) : State :=
  let w := s.whoWq q
  match s.rangesOk w (cmdRanges kColl [prog] [] bo) with
  | (s, some (x, buf)) => s.badRef q x.fail buf (x.off % (2 ^ 48 : Int)).toNat
  | (s, none) =>
    let (s, d) := s.entryOf w (refBuf prog)
    let plainH := match d with
      | .ok d => d.layer == 0 && d.view == 0
      | .error _ => false
    if refOff prog % 64 != 0 || !plainH then s.haltWq q (errRef 5)
    else if !s.queueRoom noCore kColl 0 then s.waitWq q
    else (s.addProg (Prog.new slotCount 0 (some q) (s.wq q).ctxid 0 0 noCore rank.toNat nrank.toNat prog arg bo)).acceptWq q

-- WAITBO and SIGNAL

/-- The home of an object, or what stops the entry. -/
def State.wqObject (s : State) (q : Nat) (bo : Word) (need : Need) (k : State → Nat → Nat → State) : State :=
  let w := s.whoWq q
  if s.boHeld w (refBuf bo) (refOff bo) then s.waitWq q
  else match s.boKey w (refBuf bo) (refOff bo) need with
  | (s, .error f) => s.badRef q f (refBuf bo) (refOff bo)
  | (s, .ok key) =>
    if s.ferried key || s.pinnedFor noCore (lineOf key) then s.waitWq q
    else k (s.reach [lineOf key]) (w.kid.getD 0) key

def State.waitboEntry (s : State) (q : Nat) (bo : Word) (phase : Bool) : State :=
  s.wqObject q bo .read (fun s kid key =>
    if s.boBad key then
      let w := s.wq q
      (if w.boNoted then s else s.memErr { kind := 6, ctx := w.ctxid.toNat } (refBuf bo) (refOff bo)).setWq q
        { w with st := wqWaiting, boNoted := true }
    else if ((s.boAt kid key).phase == 1) == phase then s.waitWq q
    else s.acceptWq q)

/-- The vector is sent once the credit is performed (R374); bad storage takes none (12 R387). -/
def State.signalEntry (s : State) (q : Nat) (bo bytes : Word) (vector : BitVec 11) (msix : Bool) : State :=
  s.wqObject q bo (.atomic false) (fun s kid key =>
    let made := !s.boBad key
    let s := (s.creditAllAhead key (s.boAt kid key).flips (fun _ => true)).boOp kid key { kind := 6, ctx := (s.wq q).ctxid.toNat }
      (refBuf bo) (refOff bo) (fun b => b.credit bytes.toNat)
    (if msix && made then s.sendMsix vector.toNat else s).acceptWq q)

-- the entries as events

/-- The entry taken from the queue in service has its effect. -/
def State.entry (s : State) (i : Instr) (k : State → Nat → State) : State :=
  let q := s.host.wqCur
  let w := s.wq q
  if w.cur == some i && w.st == wqRun then k s q else s

def execLaunch (record : BitVec 16) (sett : Bool) (tiles : BitVec 32) (s : State) : Host.Outcome State Fault Refusal :=
  .next (s.entry (.launch record sett tiles) (fun s q => s.launchEntry q record sett tiles))

def execSeq (n : BitVec 4) (w0 w1 w2 w3 w4 w5 : Word) (s : State) : Host.Outcome State Fault Refusal :=
  .next (s.entry (.seq n w0 w1 w2 w3 w4 w5) (fun s q => s.seqEntry q n [w0, w1, w2, w3, w4, w5]))

def execCopy (src dst len bo : Word) (s : State) : Host.Outcome State Fault Refusal :=
  .next (s.entry (.copy src dst len bo) (fun s q => s.copyEntry q src dst len bo))

def execWaitbo (bo : Word) (phase : Bool) (s : State) : Host.Outcome State Fault Refusal :=
  .next (s.entry (.waitbo bo phase) (fun s q => s.waitboEntry q bo phase))

def execSignal (bo bytes : Word) (vector : BitVec 11) (msix : Bool) (s : State) : Host.Outcome State Fault Refusal :=
  .next (s.entry (.signal bo bytes vector msix) (fun s q => s.signalEntry q bo bytes vector msix))

def execColl (prog arg bo : Word) (rank nrank : BitVec 20) (s : State) : Host.Outcome State Fault Refusal :=
  .next (s.entry (.coll prog arg bo rank nrank) (fun s q => s.collEntry q prog arg bo rank nrank))

/-- The wait of a WAITING entry ends if what it waits for has come; otherwise it goes on (R373). -/
def State.wqResume (s : State) (q : Nat) : State :=
  let w := s.wq q
  if w.st != wqWaiting then s
  else
    match w.cur with
    | some (.launch r sett tiles) => s.launchEntry q r sett tiles
    | some (.seq n w0 w1 w2 w3 w4 w5) => s.seqEntry q n [w0, w1, w2, w3, w4, w5]
    | some (.copy src dst len bo) => s.copyEntry q src dst len bo
    | some (.waitbo bo phase) => s.waitboEntry q bo phase
    | some (.signal bo bytes v m) => s.signalEntry q bo bytes v m
    | some (.coll p a b r n) => s.collEntry q p a b r n
    | _ => s

def execWqWaitEnd (q : Nat) (s : State) : Host.Outcome State Fault Refusal := .next (s.wqResume q)

-- taking an entry (R373)

/-- The ring of a queue, which lies in host memory or HBM (R371). -/
def Wq.ring (w : Wq) : Nat := w.base.toNat * 4096
def Wq.hostRing (w : Wq) : Bool := w.ring / 2 ^ 48 == 0x10
def Wq.ringOk (w : Wq) : Bool := w.hostRing || w.ring / 2 ^ 48 == 0

/-- RUN with entries pending; a ring in host memory stalls while PCI Express is down (R376). -/
def State.servable (s : State) (w : Wq) : Bool :=
  w.st == wqRun && w.cur.isNone && w.at_ != w.tail % w.size && (s.host.pcieUp || !w.hostRing)

/-- The next queue of the rotation that starts after the one last served. -/
def State.nextWq (s : State) : Option Nat :=
  let qs := (s.host.wqs.filter (fun x => s.servable x.2)).map (fun x => x.1)
  match qs.find? (fun q => s.host.rot < q) with
  | some q => some q
  | none => qs.head?

/-- The entry at HEAD: the instruction, or the halt code. -/
def State.readEntry (s : State) (w : Wq) : State × Except Nat Instr :=
  let a := w.ring + 64 * w.at_
  let s := s.reach [lineOf a]
  if !w.ringOk || (List.range 8).any (fun i => s.badAt (a + 8 * i) != 0) then (s, .error 7)
  else
    let x (i : Nat) : Word := s.partWord (a + 8 * i)
    (s, match decodeEntry (x 0) (x 1) (x 2) (x 3) (x 4) (x 5) (x 6) (x 7) with
      | .ok i => .ok i
      | .error .kind => .error 1
      | .error .reserved => .error 2)

/-- The front end takes one entry: it halts its queue, or it is what the next step runs. -/
def State.takeEntry (s : State) : State × Option Instr :=
  match s.nextWq with
  | none => (s, none)
  | some q =>
    let s := { s with host := { s.host with rot := q, wqCur := q } }
    match s.readEntry (s.wq q) with
    | (s, .error e) => (s.haltWq q e, none)
    | (s, .ok i) => (s.setWq q { s.wq q with cur := some i }, some i)

end Sys2Proof.Machine
end

