-- ==== Sys2Proof/Machine/Window.lean ====
section
/-! DEFINITION. The register window (00 R5, R6, 22 R369, R370), the links (21 R348, 22 R376, R384), TDISP (R368), and the accesses
that come from outside or are performed late: BAR4 (R368), peers (21 R349), pending writes (13 R245). -/

namespace Sys2Proof.Machine

-- one register write (R5, R369)

/-- The bits a write names, over the bits there. -/
def blend (old val mask : Word) : Word := (old &&& ~~~mask) ||| (val &&& mask)
/-- Bits written 1 of a W1C field of `n` bits at `lo`. -/
def ones (val mask : Word) (lo n : Nat) : BitVec n := (val &&& mask).extractLsb' lo n

/-- A bit written 1. -/
def hit (val mask : Word) (i : Nat) : Bool := (val &&& mask).getLsbD i

/-- Naturally aligned accesses of 8 bytes, or of 4, which reach the named half. -/
def accessMask (off size : Nat) : Option Word :=
  if size = 8 && off % 8 = 0 then some (BitVec.allOnes 64)
  else if size = 4 && off % 4 = 0 then some (if off % 8 = 0 then 0xFFFFFFFF else 0xFFFFFFFF00000000)
  else none

/-- Where a write's bits stand in the 64-bit register. -/
def placed (off size : Nat) (v : Word) : Word := if size = 4 && off % 8 = 4 then v <<< 32 else v

-- the policy registers (R370)

/-- A base register is written only while no record slot is in use, and names HBM. -/
def State.mayRebase (s : State) (w : Word) : Bool := s.sched.tasks.isEmpty && bitsOf w 48 8 == 0

def baseBits : Word := 0x00FFFFFFFFFFF000

def State.policyWrite (s : State) (r : Nat) (val mask : Word) : State :=
  let h := s.host
  let base (old : Word) (keep : Word) (set : Word → HostWin) : State :=
    let w := blend old val mask &&& keep
    if s.mayRebase w then { s with host := set w } else s
  let b48 : Word := 0x0000FFFFFFFFFFFF
  match r with
  | 0x600 => { s with host := { h with polage := (blend (h.polage.setWidth 64) val mask).setWidth 32 } }
  | 0x608 => { s with host := { h with polpr := blend h.polpr val mask &&& b48 } }
  | 0x610 => { s with host := { h with polwd := blend h.polwd val mask &&& b48 } }
  | 0x618 => base h.lpbase baseBits (fun w => { h with lpbase := w })
  | 0x620 => base h.rsbase baseBits (fun w => { h with rsbase := w })
  | 0x628 => base h.sdbase baseBits (fun w => { h with sdbase := w })
  | 0x630 => base h.srbase (baseBits ||| 0x1F) (fun w => { h with srbase := w })
  | 0x638 => if s.coll.progs.isEmpty then
      { s with host := { h with cmbase := blend h.cmbase val mask &&& baseBits }, coll := { s.coll with epochs := [] } } else s
  | 0x640 => base h.ctxt baseBits (fun w => { h with ctxt := w })
  | 0x648 => { s with host := { h with retthr := blend h.retthr val mask &&& 0xFFFFFFFF } }
  | 0x658 => { s with host := { h with srtail := (blend (h.srtail.setWidth 64) val mask).setWidth 32 } }
  | _ => s

-- KEYLD (R383)

/-- K1 and K2 are written on an IDE stream only. -/
def State.keyWordWrite (s : State) (o : Origin) (r : Nat) (val mask : Word) : State :=
  if !s.onIde o then s
  else
    let h := s.host
    let put (k : BitVec 256) (i : Nat) : BitVec 256 :=
      let w := blend (k.extractLsb' (64 * i) 64) val mask
      (k &&& ~~~((BitVec.allOnes 64).setWidth 256 <<< (64 * i))) ||| (w.setWidth 256 <<< (64 * i))
    if r < 0x820 then { s with host := { h with k1 := put h.k1 ((r - 0x800) / 8) } }
    else { s with host := { h with k2 := put h.k2 ((r - 0x820) / 8) } }

def State.keyGoWrite (s : State) (o : Origin) (val mask : Word) : State :=
  if hit val mask 17 then s.keyldGo o (bitsOf (val &&& mask) 0 10) (hit val mask 16) else s

-- work-queue blocks (R372)

def State.wqWrite (s : State) (o : Origin) (q i : Nat) (val mask : Word) : State :=
  let w := s.wq q
  match i with
  | 0 =>
    let old : Word := w.base ++ (0 : BitVec 7) ++ w.log2n
    let x := blend old val mask
    s.setWq q { w with base := if w.enable then w.base else x.extractLsb' 12 52, log2n := x.extractLsb' 0 5 }
  | 1 =>
    let old : Word := mkWord [(16, 16, w.ctxid.toNat), (0, 6, w.tdi.toNat)]
    let x := blend old val mask
    s.setWq q { w with ctxid := x.extractLsb' 16 16, tdi := x.extractLsb' 0 6 }
  | 2 =>
    let s := if mask.getLsbD 0 then s.wqEnable o q (val.getLsbD 0) else s
    let s := if hit val mask 1 then s.wqRetry o q else s
    if hit val mask 2 then s.wqSkip o q else s
  | _ => s

-- registers with a behaviour of their own

/-- FRPLY (18 R313): ACT 2 and 3 are ignored. -/
def State.frplyWrite (s : State) (v : Word) : State :=
  match bitsOf v 22 2 with
  | 0 => s.frplyResume (engOfIdx (bitsOf v 20 2)) (bitsOf v 0 20)
  | 1 => s.frplyKill (bitsOf v 0 20)
  | _ => s

/-- MAPCTL (11 R219). -/
def State.mapctlWrite (s : State) (val mask : Word) : State :=
  let w := blend (mkWord [(12, 4, s.host.newv.toNat)]) val mask
  let s := { s with host := { s.host with newv := w.extractLsb' 12 4 } }
  if hit val mask 0 then s.migrate s.host.newv else s

/-- SNDCNT (21 R366). -/
def State.sndcntWrite (s : State) (val mask : Word) : State :=
  let w := blend s.sndcnt val mask
  { s with coll := { s.coll with flushN := w.extractLsb' 32 16, mismN := w.extractLsb' 16 16, lateN := w.extractLsb' 0 16 } }

/-- EVQBASE (18 R314). -/
def State.evqbaseReg (s : State) : Word := (0 : BitVec 8) ++ s.evq.base ++ (0 : BitVec 7) ++ s.evq.log2n

def State.sqctlWrite (s : State) (n : Nat) (val mask : Word) : State :=
  let s := if hit val mask 1 then s.seqAbort n else s
  if hit val mask 0 then s.seqResume n else s

/-- CRYOPOL: what the host wrote in this cycle stands over a write of the side-band, which is applied first (R376). -/
def State.holdtWrite (s : State) (host : Bool) (val mask : Word) : State :=
  let mine : BitVec 16 := mask.extractLsb' 0 16
  let theirs : BitVec 16 := match s.cryo.polAt with
    | some (m, b) => if m == s.moment then b else 0
    | none => 0
  let go := if host then mine else mine &&& ~~~theirs
  let v := (s.cryo.holdt &&& ~~~go) ||| (val.extractLsb' 0 16 &&& go)
  { s with cryo := { s.cryo with holdt := v, polAt := if host then some (s.moment, mine ||| theirs) else s.cryo.polAt } }

/-- Registers below 0x800; `host` is false for the side-band. -/
def State.ownWrite (s : State) (host : Bool) (r : Nat) (val mask : Word) : State :=
  match r with
  | 0x100 => if mask.getLsbD 0 then s.ask host (bitsOf val 0 3) else s
  | 0x108 => s.holdtWrite host val mask
  | 0x110 => if hit val mask 16 then { s with cryo := { s.cryo with badcmd := false } } else s
  | 0x200 => s.mapctlWrite val mask
  | 0x400 => s.setEvqBase (blend s.evqbaseReg val mask)
  | 0x410 => if mask.getLsbD 0 then s.setEvqHead (val.setWidth 32) else s
  | 0x418 => { s with evq := { s.evq with lost := s.evq.lost &&& ~~~ones val mask 0 32 } }
  | 0x420 => if mask.getLsbD 0 then s.frplyWrite (val &&& mask) else s
  | 0x500 => s.sndcntWrite val mask
  | r => s.policyWrite r val mask

/-- A write to the register at BAR0 offset `r`; offsets not listed ignore it. -/
def State.regPut (s : State) (o : Origin) (r : Nat) (val mask : Word) : State :=
  if r < 0x800 then s.ownWrite (o != .sideband) r val mask
  else if r < 0x840 then s.keyWordWrite o r val mask
  else if r == 0x840 then s.keyGoWrite o val mask
  else if 0x1000 ≤ r && r < 0x1100 then (if r % 16 == 8 then s.sqctlWrite ((r - 0x1000) / 16) val mask else s)
  else if 0x2000 ≤ r && r < 0x2800 then
    let c := (r - 0x2000) / 8
    let n := blend ((s.host.bcnt.get c 0).setWidth 64) val mask
    { s with host := { s.host with bcnt := s.host.bcnt.put c (n.setWidth 32) } }
  else if 0x1000000 ≤ r && r < 0x1008000 then
    s.putMsix r (blend (s.msixWord r) val mask)
  else if 0x2000000 ≤ r && r < 0x2020000 then s.wqWrite o ((r - 0x2000000) / 32) (r % 32 / 8) val mask
  else s

/-- Which offsets a write may reach: a stream of a TDI in RUN only the blocks of its own queues, the side-band only the
cryogenic registers (20 R345). -/
def State.reachesReg (s : State) (o : Origin) (r : Nat) : Bool :=
  let block := 0x2000000 ≤ r && r < 0x2020000
  match o with
  | .tdi n => if s.host.tdiRun.contains n then block && s.reachesBlock o ((r - 0x2000000) / 32) else true
  | .sideband => 0x100 ≤ r && r < 0x1A0
  | _ => true

def State.regWrite (s : State) (o : Origin) (off size : Nat) (v : Word) : State :=
  match accessMask off size with
  | none => s
  | some mask =>
    let r := off / 8 * 8
    if s.reachesReg o r then s.regPut o r (placed off size v) mask else s

def execRegisterWrite (o : Origin) (off size : Nat) (v : Word) (s : State) : Host.Outcome State Fault Refusal :=
  .next (s.regWrite o off size v)

-- links

/-- Host-memory rings stall while the link is down; everything else goes on (R376). -/
def execPcieLinkDown (s : State) : Host.Outcome State Fault Refusal := .next { s with host := { s.host with pcieUp := false } }
def execPcieLinkUp (s : State) : Host.Outcome State Fault Refusal := .next { s with host := { s.host with pcieUp := true } }

/-- A retry changes latency only (21 R348). -/
def execFlitRetry (_port : Nat) (s : State) : Host.Outcome State Fault Refusal := .next s

/-- A port whose retries are exhausted goes down (21 R348). -/
def execSoundPortDown (port : Nat) (s : State) : Host.Outcome State Fault Refusal :=
  .next (if port < 16 then { s with mgmt := { s.mgmt with ports := s.mgmt.ports.put port false } } else s)

/-- A link takes a fresh key of the session (22 R384); the count tells its keys apart. -/
def execLinkRekey (link : Nat) (s : State) : Host.Outcome State Fault Refusal :=
  .next (if link < 20 && s.mgmt.session.isSome then
    { s with mgmt := { s.mgmt with links := s.mgmt.links.put link (s.mgmt.links.get link 0 + 1), sent := s.mgmt.sent.del link } } else s)

/-- A TDI enters or leaves the TDISP state RUN (22 R368). -/
def execTdispMessage (tdi : Nat) (run : Bool) (s : State) : Host.Outcome State Fault Refusal :=
  let others := s.host.tdiRun.filter (fun t => t != tdi)
  .next (if tdi < 64 then { s with host := { s.host with tdiRun := if run then tdi :: others else others } } else s)

-- accesses from outside

/-- Bytes an access from outside names. -/
def ExtOp.count (op : ExtOp) : Nat :=
  match op with
  | .load n => n
  | .store bs => bs.length
  | .atomic _ sz _ => 2 ^ sz.toNat
  | .cas sz _ _ => 2 ^ sz.toNat

def ExtOp.isAtomic (op : ExtOp) : Bool :=
  match op with
  | .atomic _ _ _ | .cas _ _ _ => true
  | _ => false

def State.answerWith (s : State) (bs : Option (List Byte)) : State := { s with host := { s.host with answer := bs } }

/-- What an access from outside that reads returns: the bytes as it finds them, none where storage is uncorrectable (12 R238). -/
def State.foundBy (s : State) (kid key : Nat) (op : ExtOp) : Option (List Byte) :=
  let bytes := (List.range (ExtOp.count op)).map (fun i => key + i)
  let t := s.reach (linesOf bytes)
  match op with
  | .store _ => none
  | _ => if bytes.any (fun k => t.badAt k != 0) then none else some (bytes.map (t.plain kid))

/-- Perform it at home, under key generation `kid`; an atomic on bad storage writes nothing (12 R238). -/
def State.outside (s : State) (kid key : Nat) (op : ExtOp) : State :=
  let s := s.answerWith (s.foundBy kid key op)
  match op with
  | .load n => s.reach (linesOf ((List.range n).map (fun i => key + i)))
  | .store bs => s.homeWrite kid ((bs.zip (List.range bs.length)).map (fun x => (key + x.2, x.1)))
  | .atomic aop sz x =>
    let s := s.rebuild (lineOf key)
    if s.badAt key != 0 then s.reach [lineOf key]
    else if aop == .swap then
      let s := s.reach [lineOf key]
      s.putHome kid (natCells key (2 ^ sz.toNat) x.toNat)
    else (s.reduce kid key aop (amoTy aop sz) x none).1
  | .cas sz expect x =>
    let s := s.reach [lineOf key]
    let n := 2 ^ sz.toNat
    if s.badAt key == 0 && s.homeNat kid key n == expect.toNat % 2 ^ (8 * n) then s.putHome kid (natCells key n x.toNat) else s

/-- The line is in reach: no core pins it and no exchange holds it (13 R256, 16 R293). -/
def State.freeOf (s : State) (key n : Nat) : Bool :=
  !(linesOf ((List.range n).map (fun i => key + i))).any (fun l => s.pinnedFor noCore l || s.ferried (128 * l))

/-- AtomicOps of PCI Express (12 R237): FetchAdd, Swap and CAS of 32 and 64 bits. -/
def ExtOp.pcie (op : ExtOp) : Bool :=
  match op with
  | .atomic aop sz _ => (aop == .add || aop == .swap) && 2 ≤ sz.toNat
  | .cas sz _ _ => 2 ≤ sz.toNat
  | _ => true

/-- Who reaches a BAR4 range (R368). -/
def State.reachesAperture (s : State) (o : Origin) (addr n : Nat) : Bool :=
  (dedup (runs ((List.range n).map (fun i => Config.bar4Tdi ((addr + i) / granule))))).all (fun t =>
    !s.host.tdiRun.contains t || o == .tdi t)

/-- A dropped access returns all ones where it reads (R368). -/
def ExtOp.dropped (op : ExtOp) : Option (List Byte) :=
  match op with
  | .store _ => none
  | op => some (List.replicate (ExtOp.count op) 0xFF)

/-- The aperture shows the first 4 GiB of HBM; it acts under the part's own key (22 R382). -/
def State.bar4 (s : State) (o : Origin) (addr : Nat) (op : ExtOp) : State :=
  let n := ExtOp.count op
  if addr + n > Nat.min (2 ^ 32) s.hbmSize || !ExtOp.pcie op || (ExtOp.isAtomic op && addr % n != 0) || !s.host.pcieUp then s
  else if !s.reachesAperture o addr n then s.answerWith (ExtOp.dropped op)
  else if !s.freeOf addr n then s
  else (s.outside 0 addr op).agentAhead

def execBar4Access (o : Origin) (addr : Nat) (op : ExtOp) (s : State) : Host.Outcome State Fault Refusal :=
  .next (s.bar4 o addr op)

/-- A peer's access is performed at the home slice under the key slot that this package's context table gives the
context; a context without a key there answers with no data (22 R382). -/
def State.peer (s : State) (ctx pa : Nat) (op : ExtOp) : State :=
  let n := ExtOp.count op
  match s.kidOf ctx with
  | none => if s.soundUp then s.answerWith none else s
  | some kid =>
    if pa + n > s.hbmSize || (ExtOp.isAtomic op && pa % n != 0) || !s.soundUp || !s.freeOf pa n then s
    else (s.outside kid pa op).agentAhead

def execPeerAccess (ctx : BitVec 16) (pa : Nat) (op : ExtOp) (s : State) : Host.Outcome State Fault Refusal :=
  .next (s.peer ctx.toNat pa op)

-- a write performed late

def State.performAt (s : State) (c i : Nat) : State :=
  let wq := (s.core c).wq
  match wq[i]? with
  | none => s
  | some w =>
    if s.heldBack c w || !mayPass (wq.take i) w || (w.layer == 0 && (s.core c).oldLines (2 ^ 64) w.epoch) then s
    else (s.modCore c (fun k => { k with wq := k.wq.eraseIdx i })).performPend (wq.eraseIdx i) w

/-- A write a core issued earlier becomes visible at its home (13 R245). -/
def execAccessPerformed (core idx : Nat) (s : State) : Host.Outcome State Fault Refusal := .next (s.performAt core idx)

end Sys2Proof.Machine
end

