-- ==== Sys2Proof/Machine/Dispatch.lean ====
section
/-! DEFINITION. One arm per row of the opcode table: what a step of that row does. -/

namespace Sys2Proof.Machine

def exec (i : Instr) (s : State) : Host.Outcome State Fault Refusal :=
  match i with
  | .nop h => Sys2Proof.Machine.execNop h s
  | .br h t => Sys2Proof.Machine.execBr h t s
  | .brc h c a b t => Sys2Proof.Machine.execBrc h c a b t s
  | .brp h all a t => Sys2Proof.Machine.execBrp h all a t s
  | .call h t => Sys2Proof.Machine.execCall h t s
  | .ret h => Sys2Proof.Machine.execRet h s
  | .loop h lvl a endw => Sys2Proof.Machine.execLoop h lvl a endw s
  | .loops h lvl a m1 endw => Sys2Proof.Machine.execLoops h lvl a m1 endw s
  | .brkl h lvl => Sys2Proof.Machine.execBrkl h lvl s
  | .suspend h => Sys2Proof.Machine.execSuspend h s
  | .yield h => Sys2Proof.Machine.execYield h s
  | .halt h => Sys2Proof.Machine.execHalt h s
  | .watch h m => Sys2Proof.Machine.execWatch h m s
  | .sleep h => Sys2Proof.Machine.execSleep h s
  | .tfence h => Sys2Proof.Machine.execTfence h s
  | .stampb h a imm => Sys2Proof.Machine.execStampb h a imm s
  | .trap h code => Sys2Proof.Machine.execTrap h code s
  | .bkpt h code => Sys2Proof.Machine.execBkpt h code s
  | .csrr h d r => Sys2Proof.Machine.execCsrr h d r s
  | .csrw h r a => Sys2Proof.Machine.execCsrw h r a s
  | .eret h => Sys2Proof.Machine.execEret h s
  | .tlbinv h a b => Sys2Proof.Machine.execTlbinv h a b s
  | .bufinv h a => Sys2Proof.Machine.execBufinv h a s
  | .add h m d a b => Sys2Proof.Machine.execAdd h m d a b s
  | .addi h m d a imm => Sys2Proof.Machine.execAddi h m d a imm s
  | .sub h m d a b => Sys2Proof.Machine.execSub h m d a b s
  | .mul h m d a b => Sys2Proof.Machine.execMul h m d a b s
  | .madd h m d a b c => Sys2Proof.Machine.execMadd h m d a b c s
  | .mulh h d a b => Sys2Proof.Machine.execMulh h d a b s
  | .mulhn h d a b => Sys2Proof.Machine.execMulhn h d a b s
  | .div h d a b => Sys2Proof.Machine.execDiv h d a b s
  | .divn h d a b => Sys2Proof.Machine.execDivn h d a b s
  | .rem h d a b => Sys2Proof.Machine.execRem h d a b s
  | .remn h d a b => Sys2Proof.Machine.execRemn h d a b s
  | .and h d a b => Sys2Proof.Machine.execAnd h d a b s
  | .andi h d a imm => Sys2Proof.Machine.execAndi h d a imm s
  | .or h d a b => Sys2Proof.Machine.execOr h d a b s
  | .ori h d a imm => Sys2Proof.Machine.execOri h d a imm s
  | .xor h d a b => Sys2Proof.Machine.execXor h d a b s
  | .xori h d a imm => Sys2Proof.Machine.execXori h d a imm s
  | .andn h d a b => Sys2Proof.Machine.execAndn h d a b s
  | .clz h d a => Sys2Proof.Machine.execClz h d a s
  | .popc h d a => Sys2Proof.Machine.execPopc h d a s
  | .shl h d a b => Sys2Proof.Machine.execShl h d a b s
  | .shli h d a sh => Sys2Proof.Machine.execShli h d a sh s
  | .shr h d a b => Sys2Proof.Machine.execShr h d a b s
  | .shri h d a sh => Sys2Proof.Machine.execShri h d a sh s
  | .sra h d a b => Sys2Proof.Machine.execSra h d a b s
  | .srai h d a sh => Sys2Proof.Machine.execSrai h d a sh s
  | .min h d a b => Sys2Proof.Machine.execMin h d a b s
  | .minn h d a b => Sys2Proof.Machine.execMinn h d a b s
  | .max h d a b => Sys2Proof.Machine.execMax h d a b s
  | .maxn h d a b => Sys2Proof.Machine.execMaxn h d a b s
  | .cmp h c d a b => Sys2Proof.Machine.execCmp h c d a b s
  | .sel h d a b c => Sys2Proof.Machine.execSel h d a b c s
  | .li h d k => Sys2Proof.Machine.execLi h d k s
  | .lih h d a k => Sys2Proof.Machine.execLih h d a k s
  | .bext h d a pos w1 => Sys2Proof.Machine.execBext h d a pos w1 s
  | .bins h d a b pos w1 => Sys2Proof.Machine.execBins h d a b pos w1 s
  | .lds h sz sx sp d m => Sys2Proof.Machine.execLds h sz sx sp d m s
  | .sts h sz a m => Sys2Proof.Machine.execSts h sz a m s
  | .cld h sz sx d m => Sys2Proof.Machine.execCld h sz sx d m s
  | .amo h op sz d a m => Sys2Proof.Machine.execAmo h op sz d a m s
  | .cas h sz d a m => Sys2Proof.Machine.execCas h sz d a m s
  | .vld h sp d m => Sys2Proof.Machine.execVld h sp d m s
  | .vlds h sz sp d a m => Sys2Proof.Machine.execVlds h sz sp d a m s
  | .vldx h sz sp d a m => Sys2Proof.Machine.execVldx h sz sp d a m s
  | .vldb h sz sp d m => Sys2Proof.Machine.execVldb h sz sp d m s
  | .vst h a m => Sys2Proof.Machine.execVst h a m s
  | .vsts h sz a d m => Sys2Proof.Machine.execVsts h sz a d m s
  | .vstx h sz a d m => Sys2Proof.Machine.execVstx h sz a d m s
  | .vstn h a d m => Sys2Proof.Machine.execVstn h a d m s
  | .amov h op t a m => Sys2Proof.Machine.execAmov h op t a m s
  | .fence h sc => Sys2Proof.Machine.execFence h sc s
  | .lfence h sc mask => Sys2Proof.Machine.execLfence h sc mask s
  | .barr h lv => Sys2Proof.Machine.execBarr h lv s
  | .boarm h a m => Sys2Proof.Machine.execBoarm h a m s
  | .boadd h a m => Sys2Proof.Machine.execBoadd h a m s
  | .bowait h d a m => Sys2Proof.Machine.execBowait h d a m s
  | .lpatch h sel d a b => Sys2Proof.Machine.execLpatch h sel d a b s
  | .larm h d a => Sys2Proof.Machine.execLarm h d a s
  | .rchk h d a b => Sys2Proof.Machine.execRchk h d a b s
  | .rinv h d a b => Sys2Proof.Machine.execRinv h d a b s
  | .acpy h d a b c bo => Sys2Proof.Machine.execAcpy h d a b c bo s
  | .afill h d a b c bo => Sys2Proof.Machine.execAfill h d a b c bo s
  | .agath h d a bo => Sys2Proof.Machine.execAgath h d a bo s
  | .ascat h d a bo => Sys2Proof.Machine.execAscat h d a bo s
  | .aferry h d a b c bo => Sys2Proof.Machine.execAferry h d a b c bo s
  | .acoll h d a b bo => Sys2Proof.Machine.execAcoll h d a b bo s
  | .astat h d a => Sys2Proof.Machine.execAstat h d a s
  | .vadd h t rm sat d a b => Sys2Proof.Machine.execVadd h t rm sat d a b s
  | .vsub h t rm sat d a b => Sys2Proof.Machine.execVsub h t rm sat d a b s
  | .vmul h t rm sat d a b => Sys2Proof.Machine.execVmul h t rm sat d a b s
  | .vmulh h t d a b => Sys2Proof.Machine.execVmulh h t d a b s
  | .vfma h t rm sat d a b c => Sys2Proof.Machine.execVfma h t rm sat d a b c s
  | .vfms h t rm sat d a b c => Sys2Proof.Machine.execVfms h t rm sat d a b c s
  | .vfnma h t rm sat d a b c => Sys2Proof.Machine.execVfnma h t rm sat d a b c s
  | .vmin h t d a b => Sys2Proof.Machine.execVmin h t d a b s
  | .vmax h t d a b => Sys2Proof.Machine.execVmax h t d a b s
  | .vabs h t sat d a => Sys2Proof.Machine.execVabs h t sat d a s
  | .vneg h t sat d a => Sys2Proof.Machine.execVneg h t sat d a s
  | .vrcp h t rm sat d a => Sys2Proof.Machine.execVrcp h t rm sat d a s
  | .vrsq h t rm sat d a => Sys2Proof.Machine.execVrsq h t rm sat d a s
  | .vsqrt h t rm sat d a => Sys2Proof.Machine.execVsqrt h t rm sat d a s
  | .vexp2 h t rm sat d a => Sys2Proof.Machine.execVexp2 h t rm sat d a s
  | .vlog2 h t rm sat d a => Sys2Proof.Machine.execVlog2 h t rm sat d a s
  | .vsin h t rm sat d a => Sys2Proof.Machine.execVsin h t rm sat d a s
  | .vcos h t rm sat d a => Sys2Proof.Machine.execVcos h t rm sat d a s
  | .vtanh h t rm sat d a => Sys2Proof.Machine.execVtanh h t rm sat d a s
  | .vsig h t rm sat d a => Sys2Proof.Machine.execVsig h t rm sat d a s
  | .vand h t d a b => Sys2Proof.Machine.execVand h t d a b s
  | .vor h t d a b => Sys2Proof.Machine.execVor h t d a b s
  | .vxor h t d a b => Sys2Proof.Machine.execVxor h t d a b s
  | .vshl h t d a b => Sys2Proof.Machine.execVshl h t d a b s
  | .vshr h t d a b => Sys2Proof.Machine.execVshr h t d a b s
  | .vsra h t d a b => Sys2Proof.Machine.execVsra h t d a b s
  | .vcmp h c t d a b => Sys2Proof.Machine.execVcmp h c t d a b s
  | .vsel h t d a b c => Sys2Proof.Machine.execVsel h t d a b c s
  | .vclassV h t d a => Sys2Proof.Machine.execVclassV h t d a s
  | .vclassP h t d a b => Sys2Proof.Machine.execVclassP h t d a b s
  | .vradd h t rm sat d a => Sys2Proof.Machine.execVradd h t rm sat d a s
  | .vrmax h t d a => Sys2Proof.Machine.execVrmax h t d a s
  | .vrmin h t d a => Sys2Proof.Machine.execVrmin h t d a s
  | .vscan h t rm sat d a => Sys2Proof.Machine.execVscan h t rm sat d a s
  | .vcvt h dt st rm sat part d a => Sys2Proof.Machine.execVcvt h dt st rm sat part d a s
  | .vqmx h dt st rm sat part d b a => Sys2Proof.Machine.execVqmx h dt st rm sat part d b a s
  | .vdqmx h dt st rm sat part d a b => Sys2Proof.Machine.execVdqmx h dt st rm sat part d a b s
  | .vpack h dt st rm sat d a b => Sys2Proof.Machine.execVpack h dt st rm sat d a b s
  | .vunpk h dt st rm sat part d a => Sys2Proof.Machine.execVunpk h dt st rm sat part d a s
  | .vldexp h t rm sat d a b => Sys2Proof.Machine.execVldexp h t rm sat d a b s
  | .vperm h t d a b => Sys2Proof.Machine.execVperm h t d a b s
  | .vshuf h t d a b c => Sys2Proof.Machine.execVshuf h t d a b c s
  | .vbcst h t lane d a => Sys2Proof.Machine.execVbcst h t lane d a s
  | .vins h t lane d a b => Sys2Proof.Machine.execVins h t lane d a b s
  | .vexts h t lane d a => Sys2Proof.Machine.execVexts h t lane d a s
  | .vcomp h t d a b => Sys2Proof.Machine.execVcomp h t d a b s
  | .vexpd h t d a b => Sys2Proof.Machine.execVexpd h t d a b s
  | .vtrn h t d a => Sys2Proof.Machine.execVtrn h t d a s
  | .vpclr h t d a => Sys2Proof.Machine.execVpclr h t d a s
  | .pand h t d a b => Sys2Proof.Machine.execPand h t d a b s
  | .por h t d a b => Sys2Proof.Machine.execPor h t d a b s
  | .pxor h t d a b => Sys2Proof.Machine.execPxor h t d a b s
  | .pnot h t d a => Sys2Proof.Machine.execPnot h t d a s
  | .pcnt h t d a => Sys2Proof.Machine.execPcnt h t d a s
  | .pfirst h t d a => Sys2Proof.Machine.execPfirst h t d a s
  | .pmov h t d a b => Sys2Proof.Machine.execPmov h t d a b s
  | .vpchk h t d a => Sys2Proof.Machine.execVpchk h t d a s
  | .mcfg h a stamp => Sys2Proof.Machine.execMcfg h a stamp s
  | .mldw h a stamp => Sys2Proof.Machine.execMldw h a stamp s
  | .mswp h stamp => Sys2Proof.Machine.execMswp h stamp s
  | .mlds h a stamp => Sys2Proof.Machine.execMlds h a stamp s
  | .mma h k a b c stamp => Sys2Proof.Machine.execMma h k a b c stamp s
  | .mza h k stamp => Sys2Proof.Machine.execMza h k stamp s
  | .mdrn h k d b stamp => Sys2Proof.Machine.execMdrn h k d b stamp s
  | .mkpr h d stamp => Sys2Proof.Machine.execMkpr h d stamp s
  | .mbswp h a stamp => Sys2Proof.Machine.execMbswp h a stamp s
  | .matrixComplete core => Sys2Proof.Machine.execMatrixComplete core s
  | .scheduleMiss core => Sys2Proof.Machine.execScheduleMiss core s
  | .enterSection core e => Sys2Proof.Machine.execEnterSection core e s
  | .tokenPost core e => Sys2Proof.Machine.execTokenPost core e s
  | .bowaitComplete core e => Sys2Proof.Machine.execBowaitComplete core e s
  | .episodeComplete core lv => Sys2Proof.Machine.execEpisodeComplete core lv s
  | .podEpisodeComplete core => Sys2Proof.Machine.execPodEpisodeComplete core s
  | .batchApply line => Sys2Proof.Machine.execBatchApply line s
  | .l1Evict core line => Sys2Proof.Machine.execL1Evict core line s
  | .choose core => Sys2Proof.Machine.execChoose core s
  | .makeResident slot => Sys2Proof.Machine.execMakeResident slot s
  | .dispatch core => Sys2Proof.Machine.execDispatch core s
  | .agingRise slot => Sys2Proof.Machine.execAgingRise slot s
  | .writeBack core => Sys2Proof.Machine.execWriteBack core s
  | .taskEnd core => Sys2Proof.Machine.execTaskEnd core s
  | .probeDecision slot => Sys2Proof.Machine.execProbeDecision slot s
  | .watchdogExpire core e => Sys2Proof.Machine.execWatchdogExpire core e s
  | .phaseTimerExpire core e => Sys2Proof.Machine.execPhaseTimerExpire core e s
  | .preemptRequest slot => Sys2Proof.Machine.execPreemptRequest slot s
  | .save core => Sys2Proof.Machine.execSave core s
  | .savelate slot => Sys2Proof.Machine.execSavelate slot s
  | .granuleTransfer cmd target => Sys2Proof.Machine.execGranuleTransfer cmd target s
  | .granuleRestart cmd target => Sys2Proof.Machine.execGranuleRestart cmd target s
  | .ferryExchange cmd => Sys2Proof.Machine.execFerryExchange cmd s
  | .collProgramStart prog => Sys2Proof.Machine.execCollProgramStart prog s
  | .send a => Sys2Proof.Machine.execSend a s
  | .recv a => Sys2Proof.Machine.execRecv a s
  | .pushred a => Sys2Proof.Machine.execPushred a s
  | .pull a => Sys2Proof.Machine.execPull a s
  | .collCopy a => Sys2Proof.Machine.execCollCopy a s
  | .wait a => Sys2Proof.Machine.execWait a s
  | .collSignal a => Sys2Proof.Machine.execCollSignal a s
  | .collLoop a => Sys2Proof.Machine.execCollLoop a s
  | .endl a => Sys2Proof.Machine.execEndl a s
  | .countx a => Sys2Proof.Machine.execCountx a s
  | .pfxsum a => Sys2Proof.Machine.execPfxsum a s
  | .collEnd a => Sys2Proof.Machine.execCollEnd a s
  | .collStepComplete prog => Sys2Proof.Machine.execCollStepComplete prog s
  | .peerWrite msg => Sys2Proof.Machine.execPeerWrite msg s
  | .contribution msg => Sys2Proof.Machine.execContribution msg s
  | .flush comm slot => Sys2Proof.Machine.execFlush comm slot s
  | .collTimeout prog => Sys2Proof.Machine.execCollTimeout prog s
  | .seqStepStart n => Sys2Proof.Machine.execSeqStepStart n s
  | .seqStepEnd n => Sys2Proof.Machine.execSeqStepEnd n s
  | .sqctlResume n => Sys2Proof.Machine.execSqctlResume n s
  | .sqctlAbort n => Sys2Proof.Machine.execSqctlAbort n s
  | .frplyResume e slot => Sys2Proof.Machine.execFrplyResume e slot s
  | .frplyKill e slot => Sys2Proof.Machine.execFrplyKill e slot s
  | .evqbaseWrite v => Sys2Proof.Machine.execEvqbaseWrite v s
  | .evqheadWrite v => Sys2Proof.Machine.execEvqheadWrite v s
  | .mapctlStart newv => Sys2Proof.Machine.execMapctlStart newv s
  | .remapUnitMove => Sys2Proof.Machine.execRemapUnitMove s
  | .hbmRebuild line => Sys2Proof.Machine.execHbmRebuild line s
  | .bundleRetire core layer bundle => Sys2Proof.Machine.execBundleRetire core layer bundle s
  | .patrolScrub line => Sys2Proof.Machine.execPatrolScrub line s
  | .dramRefresh => Sys2Proof.Machine.execDramRefresh s
  | .tempSample => Sys2Proof.Machine.execTempSample s
  | .holdTimerExpire => Sys2Proof.Machine.execHoldTimerExpire s
  | .cryoctlCool => Sys2Proof.Machine.execCryoctlCool s
  | .cryoctlWarm => Sys2Proof.Machine.execCryoctlWarm s
  | .cryoctlPoweroff => Sys2Proof.Machine.execCryoctlPoweroff s
  | .cryoctlAbort => Sys2Proof.Machine.execCryoctlAbort s
  | .trainingDone pass => Sys2Proof.Machine.execTrainingDone pass s
  | .warmupComplete => Sys2Proof.Machine.execWarmupComplete s
  | .warmupDeadline => Sys2Proof.Machine.execWarmupDeadline s
  | .heartbeatMiss => Sys2Proof.Machine.execHeartbeatMiss s
  | .powerUp img => Sys2Proof.Machine.execPowerUp img s
  | .recover img => Sys2Proof.Machine.execRecover img s
  | .rdband => Sys2Proof.Machine.execRdband s
  | .rdpwr => Sys2Proof.Machine.execRdpwr s
  | .rderr => Sys2Proof.Machine.execRderr s
  | .cryo cmd => Sys2Proof.Machine.execCryo cmd s
  | .keyld secured k1 k2 slot erase => Sys2Proof.Machine.execKeyld secured k1 k2 slot erase s
  | .keyldInstall o slot => Sys2Proof.Machine.execKeyldInstall o slot s
  | .keyldErase o slot => Sys2Proof.Machine.execKeyldErase o slot s
  | .getMeasurements block nonce => Sys2Proof.Machine.execGetMeasurements block nonce s
  | .keyExchange peer => Sys2Proof.Machine.execKeyExchange peer s
  | .doorbell o q tail => Sys2Proof.Machine.execDoorbell o q tail s
  | .wqctlEnable o q on => Sys2Proof.Machine.execWqctlEnable o q on s
  | .wqctlRetry o q => Sys2Proof.Machine.execWqctlRetry o q s
  | .wqctlSkip o q => Sys2Proof.Machine.execWqctlSkip o q s
  | .launch record sett tiles => Sys2Proof.Machine.execLaunch record sett tiles s
  | .seq n w0 w1 w2 w3 w4 w5 => Sys2Proof.Machine.execSeq n w0 w1 w2 w3 w4 w5 s
  | .copy src dst len bo => Sys2Proof.Machine.execCopy src dst len bo s
  | .waitbo bo phase => Sys2Proof.Machine.execWaitbo bo phase s
  | .signal bo bytes vector msix => Sys2Proof.Machine.execSignal bo bytes vector msix s
  | .coll prog arg bo rank nrank => Sys2Proof.Machine.execColl prog arg bo rank nrank s
  | .wqWaitEnd q => Sys2Proof.Machine.execWqWaitEnd q s
  | .pcieLinkDown => Sys2Proof.Machine.execPcieLinkDown s
  | .flitRetry port => Sys2Proof.Machine.execFlitRetry port s
  | .soundPortDown port => Sys2Proof.Machine.execSoundPortDown port s
  | .linkRekey link => Sys2Proof.Machine.execLinkRekey link s
  | .registerWrite o off size v => Sys2Proof.Machine.execRegisterWrite o off size v s
  | .accessPerformed core idx => Sys2Proof.Machine.execAccessPerformed core idx s
  | .pageServiceRetry idx => Sys2Proof.Machine.execPageServiceRetry idx s
  | .pcieLinkUp => Sys2Proof.Machine.execPcieLinkUp s
  | .bar4Access o addr op => Sys2Proof.Machine.execBar4Access o addr op s
  | .peerAccess ctx pa op => Sys2Proof.Machine.execPeerAccess ctx pa op s
  | .tdispMessage tdi run => Sys2Proof.Machine.execTdispMessage tdi run s

end Sys2Proof.Machine
end

