-- ==== Sys2Proof/Machine/Fetch.lean ====
section
/-! DEFINITION. Placing one instruction where the next step fetches it (LOG 6): a word as word 0 of a running section of core 0, a
step of a collective program or a work-queue entry as the row itself. -/

namespace Sys2Proof.Machine

/-- A task in the run slot of core 0 with nothing but its engines. -/
def RunTask.bare : RunTask where
  slot := 0
  lrec := 0
  tile := 0
  rank := 0
  nrank := 0
  q := []
  bind := none
  cbuf := 0
  coff := 0
  streams := []
  gang := none
  sg := 0
  livev := 0
  matlive := false
  carry := (0, 0)
  halting := false
  killing := false
  delivery := []
  request := none
  saving := false

/-- `NOP $`. -/
def nopWord : IWord := BitVec.ofNat 96 (2 ^ 95)

/-- SUSPEND, YIELD and SLEEP end their section (R73). -/
def endsSection (w : IWord) : Bool :=
  match (Raw.ofWord w).op.toNat with
  | 0x09 | 0x0A | 0x0D => true
  | _ => false

/-- The bytes of words laid out from offset 0. -/
def wordsBytes (ws : List IWord) : List Byte := ws.flatMap (fun w => leBytes 12 w.toNat)

/-- An engine that runs a section of the given words, the first of them next. -/
def Engine.atWords (g : Engine) (ws : List IWord) : Engine :=
  { ({ g with sect := { num := 0, hdr := 0, len := ws.length, base := 0 } }).loadWords (wordsBytes ws) with
    phase := .running, pc := 0, grp := none, regrp := none, owed := none, inside := none, stopped := none, parked := false,
    page := false, sup := none, debt := 0, phtDue := false, retiring := none, slept := none, wants := [], issued := 0 }

def State.withWord (s : State) (w : IWord) : State :=
  let e := (engineFor (Raw.ofWord w).op).getD .L
  let ws := if endsSection w then [w] else [w, nopWord]
  let s := s.modCore 0 (fun k => { k with task := some (k.task.getD RunTask.bare) })
  { s.modEng 0 e (fun g => g.atWords ws) with agenda := [], cur := (0, e) }

/-- The step of a collective program that has started. -/
def State.withStep (s : State) (i : Instr) : State :=
  let p := { Prog.new slotCount 0 none 0 0 0 0 0 1 0 0 0 with hdr := List.replicate 24 0, started := true }
  { s.setProg 0 p with agenda := [.ev i], coll := { (s.setProg 0 p).coll with cur := 0 } }

/-- The entry that work queue 0 has taken. -/
def State.withEntry (s : State) (i : Instr) : State :=
  let t := s.setWq 0 { (s.wq 0) with enable := true, st := wqRun, cur := some i }
  { t with agenda := [.ev i], host := { t.host with wqCur := 0 } }

end Sys2Proof.Machine
end

