-- ==== Sys2Proof/Machine/Registers.lean ====
section
/-! DEFINITION. What a read from outside returns: the registers of the window (22 R369, R370), the doorbell pages (R372) and BAR4
(R368). A read of a register changes nothing. -/

namespace Sys2Proof.Machine

/-- One bit as a field value. -/
def bitVal (b : Bool) : Nat := if b then 1 else 0

-- registers of R194, R219, R223, R314, R347

def State.sqstat (s : State) (n : Nat) : Word :=
  let x := s.sched.seqs.get n Seq.reset
  mkWord [(48, 16, x.errec.toNat), (44, 4, x.errc.toNat), (40, 4, x.armst.toNat), (32, 4, x.st), (0, 32, x.step)]

def State.sqctl (s : State) (n : Nat) : Word :=
  let x := s.sched.seqs.get n Seq.reset
  mkWord [(1, 1, bitVal x.abort), (0, 1, bitVal x.resume)]

def State.mapctl (s : State) : Word :=
  mkWord [(32, 23, s.host.migbnd), (12, 4, s.host.newv.toNat), (8, 4, s.host.curv.toNat), (1, 1, bitVal s.host.mapBusy),
    (0, 1, bitVal s.host.mapGo)]

/-- Units of HBM that the firmware keeps or kept for retirement (11 R222). -/
def State.keptUnits (s : State) : Nat := s.stor.reserve.length + (s.stor.moved.filter (fun x => isHbm (x.2 * 65536))).length

/-- A capacity register below offset 0x50 (20 R347, 11 R223): CAPQUAD and CAPCNT count what CAPCORE names, and HBMCAP.UNITS is net of
the firmware's reserve. -/
def State.capReg (s : State) (r : Nat) : Word :=
  match r with
  | 0x20 => mkWord [(0, 64, packBits ((List.range 64).map (fun q => (List.range 4).all (fun i => s.present (4 * q + i)))))]
  | 0x28 => mkWord [(0, 9, ((List.range 256).filter s.present).length)]
  | 0x40 => mkWord [(40, 8, s.channels), (0, 32, s.channels * 32768 - s.keptUnits)]
  | r => s.cap r (capFull r)

/-- One register of the block of a queue (R372). -/
def Wq.reg (w : Wq) (i : Nat) : Word :=
  match i with
  | 0 => w.base ++ (0 : BitVec 7) ++ w.log2n
  | 1 => mkWord [(16, 16, w.ctxid.toNat), (0, 6, w.tdi.toNat)]
  | 2 => mkWord [(2, 1, bitVal w.skip), (1, 1, bitVal w.retry), (0, 1, bitVal w.enable)]
  | _ => mkWord [(48, 16, w.erridx.toNat), (40, 8, w.errc.toNat), (32, 2, w.st.toNat), (0, 16, w.at_)]

/-- Registers 0x100 to 0x7F8; a write-only field reads 0. -/
def State.ownReg (s : State) (r : Nat) : Word :=
  match r with
  | 0x108 => s.cryo.holdt.setWidth 64
  | 0x110 => s.cryost
  | 0x200 => s.mapctl
  | 0x400 => s.evqbaseReg
  | 0x408 => s.evq.tail.setWidth 64
  | 0x410 => s.evq.head.setWidth 64
  | 0x418 => s.evq.lost.setWidth 64
  | 0x500 => s.sndcnt
  | 0x600 => s.host.polage.setWidth 64
  | 0x608 => s.host.polpr
  | 0x610 => s.host.polwd
  | 0x618 => s.host.lpbase
  | 0x620 => s.host.rsbase
  | 0x628 => s.host.sdbase
  | 0x630 => s.host.srbase
  | 0x638 => s.host.cmbase
  | 0x640 => s.host.ctxt
  | 0x648 => s.host.retthr
  | 0x650 => s.host.srhead.setWidth 64
  | 0x658 => s.host.srtail.setWidth 64
  | r => if 0x140 ≤ r && r < 0x1A0 then s.thtemp ((r - 0x140) / 8) else 0

/-- The register at BAR0 offset `r`, a multiple of 8; offsets not listed read 0, K1, K2 and the GO word too (R383). -/
def State.regAt (s : State) (r : Nat) : Word :=
  if r < 0x50 then s.capReg r
  else if r < 0x800 then s.ownReg r
  else if r == 0x848 then s.host.kstat.setWidth 64
  else if 0x1000 ≤ r && r < 0x1100 then
    (if r % 16 == 8 then s.sqctl ((r - 0x1000) / 16) else s.sqstat ((r - 0x1000) / 16))
  else if 0x2000 ≤ r && r < 0x2800 then (s.host.bcnt.get ((r - 0x2000) / 8) 0).setWidth 64
  else if 0x4000 ≤ r && r < 0x5000 then s.slcap ((r - 0x4000) / 16) (r % 16 / 8)
  else if 0x1000000 ≤ r && r < 0x1008000 then s.msixWord r
  else if 0x1010000 ≤ r && r < 0x1010100 then
    BitVec.ofNat 64 (packBits ((List.range 64).map (fun i => s.host.pend.contains (8 * (r - 0x1010000) + i))))
  else if 0x2000000 ≤ r && r < 0x2020000 then (s.wq ((r - 0x2000000) / 32)).reg (r % 32 / 8)
  else 0

/-- The answer to a read of `size` bytes at `off`; `none` for one that is not naturally aligned. A read that is dropped returns all
ones. -/
def State.regRead (s : State) (o : Origin) (off size : Nat) : Option Word :=
  (accessMask off size).map (fun mask =>
    let r := off / 8 * 8
    let w := if s.reachesReg o r then s.regAt r else BitVec.allOnes 64
    let w := w &&& mask
    if size == 4 && off % 8 == 4 then w >>> 32 else w)

/-- A read of a doorbell page returns HEAD. -/
def State.bellRead (s : State) (o : Origin) (q : Nat) : BitVec 32 :=
  if s.reachesBell o q then BitVec.ofNat 32 (s.wq q).at_ else BitVec.allOnes 32

/-- The bytes a BAR4 read returns, little-endian. -/
def State.bar4Read (s : State) (o : Origin) (addr n : Nat) : Nat :=
  if s.reachesAperture o addr n then s.homeNat 0 addr n else 2 ^ (8 * n) - 1

end Sys2Proof.Machine
end

