-- ==== Sys2Proof/Machine/Moves.lean ====
section
/-! DEFINITION. What the moves of the agenda other than events and engines do (LOG 4, LOG 5): the clocks, the two engines that fetch
steps and entries, what the outside and the firmware do, and errors of the storage. A move that does not apply changes nothing. -/

namespace Sys2Proof.Machine

/-- What was fetched is what the next step runs. -/
def State.fetched (x : State × Option Instr) : State :=
  match x with
  | (s, some i) => { s with agenda := .ev i :: s.agenda }
  | (s, none) => s

/-- Bytes of the DRAM that this part has (20 R347). -/
def State.dramRange (s : State) (addr n : Nat) : Bool :=
  isDram addr && decide (addr % 2 ^ 48 + n ≤ (if isHbm addr then s.hbmSize else s.capSize))

def State.storeAt (s : State) (addr : Nat) (bytes : List Byte) : State :=
  (s.homeWrite 0 ((bytes.zip (List.range bytes.length)).map (fun x => (addr + x.2, x.1)))).agentAhead

/-- The host stores into its own memory, or a peer into its own. -/
def State.hostStore (s : State) (addr : Nat) (bytes : List Byte) : State :=
  if isOutside addr bytes.length && !(linesOf ((List.range bytes.length).map (fun i => addr + i))).any (s.pinnedFor noCore) then
    s.storeAt addr bytes
  else s

/-- The firmware stores into HBM or the capacity tier, under the part's own key (22 R378, R382). -/
def State.firmwareStore (s : State) (addr : Nat) (bytes : List Byte) : State :=
  if s.mgmt.booted && s.dramRange addr bytes.length && s.freeOf addr bytes.length then s.storeAt addr bytes else s

/-- The firmware fills the supervisor store (18 R304). -/
def State.supLoad (s : State) (off : Nat) (bytes : List Byte) : State :=
  if off + bytes.length ≤ 0x4000 then { s with supStore := s.supStore.writeN off bytes } else s

/-- The firmware copies a unit to the capacity tier and names the copy in its entry (11 R220). -/
def State.cleanCopy (s : State) (unit copy : Nat) : State :=
  if decide (unit < s.hbmSize / granule) && copy / 2 ^ 32 == 1 && s.dramRange (copy * granule) granule && s.freeOf (unit * granule) granule then
    let s := (s.reach (frameLines unit)).partWrite (copy * granule) (s.mem.readN (unit * granule) granule)
    let lost := ((List.range 512).filter (fun i => s.stor.poison.contains (unit * 512 + i))).map (fun i => copy * 512 + i)
    let s := { s with stor := { s.stor with poison := lost ++ s.stor.poison } }
    { s with stor := { s.stor with clean := s.stor.clean.put unit copy } }
  else s

/-- A conflict in a bank of a channel is counted (11 R219). -/
def State.bankConflict (s : State) (ch : Nat) : State :=
  if ch < 256 then { s with host := { s.host with bcnt := s.host.bcnt.put ch (s.host.bcnt.get ch 0 + 1) } } else s

/-- The firmware switches a unit's entry after copying it: the unit's own bytes stay, since they are kept by physical offset
(11 R219, R220). -/
def State.setUnit (s : State) (unit dram : Nat) : State :=
  if decide (unit < s.hbmSize / granule) && decide (dram < s.hbmSize / granule) then
    ({ s with stor := { s.stor with indirect := s.stor.indirect.put unit dram } }).unmoving unit
  else s

/-- Two bits of a word of local SRAM or Shoal flip (11 R198). -/
def State.sramError (s : State) (key : Nat) : State :=
  if 2 ^ 56 ≤ key then { s with stor := { s.stor with badWords := (key / 8) :: s.stor.badWords.filter (fun w => w != key / 8) } }
  else s

/-- The same in a line of an L1. -/
def State.l1Error (s : State) (c line word : Nat) : State :=
  match (s.core c).l1.find? line with
  | some l => if word < 16 then
      s.modCore c (fun k => { k with l1 := k.l1.put line { l with badw := l.badw ||| (1 <<< word) } }) else s
  | none => s

/-- A DRAM line becomes uncorrectable (11 R221); a line of host or peer memory reads as poison (22 R375). -/
def State.dramError (s : State) (line : Nat) : State :=
  if isDram (128 * line) then
    { s with stor := { s.stor with dramErr := line :: s.stor.dramErr.filter (fun l => l != line) } }
  else if isOutside (128 * line) 128 then
    { s with stor := { s.stor with poison := line :: s.stor.poison.filter (fun l => l != line) } }
  else s

-- early reads and partial write-backs (13 R246 to R251)

/-- An engine that loads reads eight bytes ahead, as its core would read them now. -/
def State.readAhead (s : State) (c : Nat) (e : Eng) (key : Nat) : State :=
  let line := lineOf key
  let base := key / 8 * 8
  if (e != .L && e != .S) || (s.core c).task.isNone || (s.core c).owes [line] || (s.keysBlocked c [key]).isSome then s
  else
    let kid := if base < 2 ^ 56 then (s.kidOf (s.core c).ctx.toNat).getD 0 else 0
    let s := s.lent c [line]
    let s := if (s.core c).l1.has line then s.refetch c line else s.reach [line]
    let kind : PKind := if (s.core c).l1.has line then .cached else .direct
    if s.coreBad c base kind != 0 then s
    else
      let w := leWord ((List.range 8).map (fun i => s.coreByte c kid (base + i) kind))
      let a : Ahead := { val := w, late := false, so := true, soq := false, rel := 9, cred := [], un := false }
      s.modEng c e (fun g => { g with ahead := g.ahead.put (base / 8) a })

/-- Some units of a dirty line go home before the others (R246); `mask` names them by their first nibbles. -/
def State.evictPart (s : State) (c line : Nat) (mask : Nibs) : State :=
  match (s.core c).l1.find? line with
  | none => s
  | some l =>
    let ns := l.chosen mask
    let left := l.dirty &&& ~~~ns
    if l.pinned || l.badw != 0 || l.bad || s.stor.poison.contains line || s.lineHeld c line || left == 0 || !s.mayGo c line l.last then s
    else (s.lineBytes line l ns).modCore c (fun k => { k with l1 := k.l1.put line { l with dirty := left } })

-- results that land late (06 R95)

/-- What the member that engine `e` performs next computes is not written at once. -/
def State.torn (s : State) (c : Nat) (e : Eng) : State :=
  s.modCore c (fun k => { k with landing := k.landing ++ [{ eng := e, live := true, regs := [], cells := [] }] })

/-- The 32-bit lanes in which two vector values differ. -/
def VVal.changed (a b : VVal) : BitVec 256 :=
  let lanes := (fields 32 256 a.data.toNat).zip (fields 32 256 b.data.toNat)
  BitVec.ofNat 256 (packBits (lanes.map (fun x => x.1 != x.2))) ||| (a.poison ^^^ b.poison)

/-- Engine `e` has gone from `s` to `t`: the lanes it changed wait to land, beside the scratchpad bytes it stored (`storeLoc`). -/
def State.withhold (s t : State) (c : Nat) (e : Eng) : State :=
  let old := s.core c
  let regs := ((t.core c).v.map (fun x => (x.1, (old.vreg x.1).changed x.2, x.2))).filter (fun x => x.2.1 != 0)
  let late (x : Landing) : Landing := if x.live && x.eng == e then { x with live := false, regs := regs } else x
  if !(t.core c).landing.any (fun x => x.live && x.eng == e) then t
  else t.modCore c (fun k =>
    let k := regs.foldl (fun k r => k.setV r.1 (old.vreg r.1)) k
    { k with landing := (k.landing.map late).filter (fun x => x.live || !(x.regs.isEmpty && x.cells.isEmpty)) })

/-- Some lanes of a register land, in the order the landings were made. -/
def State.landLanes (s : State) (c : Nat) (e : Eng) (reg : Nat) (mask : BitVec 256) : State :=
  s.modCore c (fun k =>
    let mine := (k.landing.filter (fun x => x.eng == e)).flatMap (fun x => x.regs.filter (fun r => r.1 == reg))
    let k := k.landRegs (mine.map (fun r => (r.1, r.2.1 &&& mask, r.2.2)))
    let cut (x : Landing) : Landing :=
      { x with regs := (x.regs.map (fun r => if r.1 == reg then (r.1, r.2.1 &&& ~~~mask, r.2.2) else r)).filter (fun r => r.2.1 != 0) }
    let left := k.landing.map (fun x => if x.eng == e then cut x else x)
    { k with landing := left.filter (fun x => x.live || !(x.regs.isEmpty && x.cells.isEmpty)) })

/-- An aligned 8-byte word of the scratchpad lands as one. -/
def State.landWord (s : State) (c : Nat) (e : Eng) (key : Nat) : State := s.landWhere c (fun f k => f == e && k / 8 == key / 8)

/-- Records that wait on an object whose storage has become bad report it once (12 R387). -/
def State.noteWaits (s : State) : State :=
  s.sched.tasks.foldl (fun s x =>
    match x.2.home with
    | some key =>
      if x.2.boNoted || !s.boBad key || (s.recState x.1 != tWaitBo0 && s.recState x.1 != tWaitBo1) then s
      else (s.memErr (s.recEv x.1 { kind := 6 }) (refBuf x.2.boRef) (refOff x.2.boRef)).modInfo x.1 (fun t => { t with boNoted := true })
    | none => s) s

/-- The firmware joins a package gang to a pod barrier (21 R364). -/
def State.joinPod (s : State) (gang barrier : Nat) : State :=
  if barrier < 16 then s.modGang gang (fun g => if g.shape == 3 then { g with pod := some barrier } else g) else s

/-- Traffic of the own pod comes over Sound, as what a switch sends does; that of another pod over Ethernet (21 R351, R365). -/
def State.comesOver (s : State) (m : Msg) : Bool :=
  match m.body with
  | .accepted | .late _ _ | .result _ _ _ _ _ _ _ _ _ => s.soundUp
  | _ => if s.pkgOf m.comm m.src / 512 == s.mgmt.podNo.toNat then s.soundUp else s.etherUp

/-- A message comes over a link that is up. -/
def State.receive (s : State) (m : Msg) : State :=
  if m.dst < 2 ^ 20 && s.rankHere m.comm m.dst && s.comesOver m then s.traffic m else s

/-- A link's key is used once more (22 R384). -/
def State.linkUse (s : State) (l : Nat) : State :=
  if s.keyed l then { s with mgmt := { s.mgmt with sent := s.mgmt.sent.put l (s.mgmt.sent.get l 0 + 1) } } else s

/-- The image that runs rewrites the boot flash (22 R380). -/
def State.flashWrite (s : State) (img : Image) : State :=
  if s.mgmt.booted then { s with mgmt := { s.mgmt with flash := some img } } else s

/-- A peer's context table gives a context a key, or none (22 R382). -/
def State.peerKeys (s : State) (pkg ctx : Nat) (refused : Bool) : State :=
  let others := s.mgmt.refused.filter (fun x => x != (pkg, ctx))
  { s with mgmt := { s.mgmt with refused := if refused then (pkg, ctx) :: others else others } }

-- clocks that stand still (20 R342)

/-- Events that need no clock of the engines: the cryogenic controller, boot and the management port, registers and doorbells that are
written, and the links (LOG 78). -/
def alwaysOn : Instr → Bool
  | .tempSample | .holdTimerExpire | .cryoctlCool | .cryoctlWarm | .cryoctlPoweroff | .cryoctlAbort | .trainingDone _ | .warmupComplete
  | .warmupDeadline | .heartbeatMiss | .powerUp _ | .recover _ | .rdband | .rdpwr | .rderr | .cryo _ | .keyld _ _ _ _ _
  | .keyldInstall _ _ | .keyldErase _ _ | .getMeasurements _ _ | .keyExchange _ | .doorbell _ _ _ | .wqctlEnable _ _ _ | .wqctlRetry _ _
  | .wqctlSkip _ _ | .sqctlResume _ | .sqctlAbort _ | .frplyResume _ _ | .frplyKill _ _ | .evqbaseWrite _ | .evqheadWrite _
  | .mapctlStart _ | .pcieLinkDown | .pcieLinkUp | .flitRetry _ | .soundPortDown _ | .linkRekey _ | .registerWrite _ _ _ _
  | .tdispMessage _ _ | .dramRefresh => true
  | _ => false

/-- Moves that a clock of the engines or an access to DRAM makes. -/
def Move.clocked : Move → Bool
  | .run _ _ | .runTorn _ _ | .collStep _ | .wqTake | .traffic _ | .firmware _ _ | .setClean _ _ | .setUnit _ _ | .moving _
  | .readAhead _ _ _ | .early _ _ | .evictPart _ _ _ | .landLanes _ _ _ _ | .landByte _ _ _ | .probeRead _ _ | .granuleWord _ _ _
  | .reread _ _ _ => true
  | .ev i => !alwaysOn i
  | _ => false

/-- In SAFE the clocks are stopped and DRAM refreshes itself: such a move does nothing. -/
def State.stands (s : State) (m : Move) : Bool := s.cryo.st == 7 && m.clocked

def State.move (s : State) : Move → State
  | .run _ _ => s
  | .ev _ => s
  | .collStep prog => State.fetched (s.fetchStep prog)
  | .wqTake => State.fetched s.takeEntry
  | .tick => s.tick.ageAll.noteWaits
  | .wall us => { s with wall := s.wall + us }
  | .sensor n kelvin valid =>
    if n < 12 && kelvin < 65536 then
      { s with cryo := { s.cryo with live := s.cryo.live.put n { valid := valid, kelvin := kelvin } } }
    else s
  | .sramError key => s.sramError key
  | .l1Error core line word => s.l1Error core line word
  | .dramError line => s.dramError line
  | .hostStore addr bytes => s.hostStore addr bytes
  | .traffic m => s.receive m
  | .firmware bytes addr => s.firmwareStore addr bytes
  | .supLoad bytes off => s.supLoad off bytes
  | .capacity reg v => s.madeWith reg v
  | .setIlv region mode =>
    if mode < 3 then { s with stor := { s.stor with ilv := s.stor.ilv.put region mode } } else s
  | .setClean unit copy => s.cleanCopy unit copy
  | .setUnit unit dram => s.setUnit unit dram
  | .moving unit => s.startMove unit
  | .joinPod gang barrier => s.joinPod gang barrier
  | .setPkg pod num => { s with mgmt := { s.mgmt with pkg := BitVec.ofNat 9 num, podNo := BitVec.ofNat 7 pod } }
  | .setReserve units => { s with stor := { s.stor with reserve := (dedup units).filter (fun u => decide (u < s.hbmSize / granule)) } }
  | .roDrop quad kid line => { s with stor := { s.stor with roCache := s.stor.roCache.del (roKey quad kid line) } }
  | .roSnap quad kid line => s.roSnap quad kid line
  | .roServe quad kid line n view mask => s.roServe quad kid line n view mask
  | .readAhead c e key => if c < 256 then s.readAhead c e key else s
  | .early c e => if (s.eng c e).ahead.isEmpty then s else s.modEng c e (fun g => { g with early := true })
  | .evictPart c line mask => s.evictPart c line mask
  | .bankConflict ch => s.bankConflict ch
  | .runTorn _ _ => s
  | .landLanes c e reg mask => s.landLanes c e reg mask
  | .landByte c e key => s.landWord c e key
  | .probeRead slot i => s.probeRead slot i
  | .reread c reg mask => if c < 256 then s.reread c reg mask else s
  | .granuleWord cmd target word => s.granuleWord cmd target word
  | .linkUse l => s.linkUse l
  | .bundleError c layer b => s.bundleError c layer b
  | .flashWrite img => s.flashWrite img
  | .peerKeys pkg ctx refused => s.peerKeys pkg ctx refused
  | .tdiOwns tdi ctxs => if tdi < 64 then { s with host := { s.host with tdiCtx := s.host.tdiCtx.put tdi ctxs } } else s

end Sys2Proof.Machine
end

