-- ==== Sys2Proof/Machine/Step.lean ====
section
/-! DEFINITION. One step of the machine: the head of the agenda, or, when nothing stands there, the current engine (LOG 4). While the
clocks are stopped no engine runs (20 R342). -/

namespace Sys2Proof.Machine

/-- A step whose vector and scratchpad results land later (06 R95). -/
def withheld (c : Nat) (e : Eng) (s : State) : Host.Outcome State Fault Refusal → Host.Outcome State Fault Refusal
  | .next t => .next (s.withhold t c e)
  | o => o

/-- One step of the current engine. -/
def runEngine (s : State) : Host.Outcome State Fault Refusal :=
  match s.fetch with
  | .own t => .next t
  | .word i t => exec i t

def step (s : State) : Host.Outcome State Fault Refusal :=
  match s.agenda with
  | [] => if s.stands (.run s.cur.1 s.cur.2) then .next s else runEngine s
  | m :: ms =>
    let s := { s with agenda := ms }
    if s.stands m then .next s
    else match m with
    | .ev i => exec i s
    | .run c e => if c > 255 then .fault .noSuchCore else runEngine { s with cur := (c, e) }
    | .runTorn c e => if c > 255 then .fault .noSuchCore else withheld c e s (runEngine { s.torn c e with cur := (c, e) })
    | m => .next (s.move m)

/-- One instruction of `nbits` bits, as word, step or entry, is what the next step runs. -/
def State.withFetchWord (s : State) (nbits w : Nat) : State :=
  if nbits ≤ 96 then s.withWord (BitVec.ofNat 96 w)
  else match Sys2Proof.decodeTableWord nbits w with
    | some i => if nbits ≤ 128 then s.withStep i else s.withEntry i
    | none => s

end Sys2Proof.Machine
end

