-- ==== Sys2Proof/Safety.lean ====
section
/-! DEFINITION. The terms the claims use: the canonical form of the package's bytes, and what a word leaves as it was. -/

namespace Sys2Proof.Machine

/-- Both stores of bytes that the package holds are in canonical form. -/
def State.canon (s : State) : Prop := s.mem.wf = true ∧ s.supStore.wf = true

/-- A task, deliveries and the mark of its end aside. -/
def RunTask.quiet (t : RunTask) : RunTask := { t with delivery := [], halting := false }

/-- Everything of the package but core `c` is as it was. -/
structure OnlyCore (s t : State) (c : Nat) : Prop where
  mem      : t.mem = s.mem
  stor     : t.stor = s.stor
  sched    : t.sched = s.sched
  coll     : t.coll = s.coll
  evq      : t.evq = s.evq
  host     : t.host = s.host
  cryo     : t.cryo = s.cryo
  mgmt     : t.mgmt = s.mgmt
  supStore : t.supStore = s.supStore
  cyc      : t.cyc = s.cyc
  wall     : t.wall = s.wall
  agenda   : t.agenda = s.agenda
  cur      : t.cur = s.cur
  free     : t.free = s.free
  others   : ∀ c', c' ≠ c → t.core c' = s.core c'

/-- The files of a core that are neither a vector or predicate register, nor tokens, nor an engine. -/
structure Core.Kept (k l : Core) : Prop where
  task    : l.task.map RunTask.quiet = k.task.map RunTask.quiet
  stage   : l.stage = k.stage
  acc     : l.acc = k.acc
  active  : l.active = k.active
  preload : l.preload = k.preload
  scaleQ  : l.scaleQ = k.scaleQ
  mcfg    : l.mcfg = k.mcfg
  mkp     : l.mkp = k.mkp
  mstb    : l.mstb = k.mstb
  flight  : l.flight = k.flight
  halves  : l.halves = k.halves
  ctx     : l.ctx = k.ctx
  btbase  : l.btbase = k.btbase
  btlast  : l.btlast = k.btlast
  ptroot  : l.ptroot = k.ptroot
  l1split : l.l1split = k.l1split
  l1      : l.l1 = k.l1
  wq      : l.wq = k.wq
  filter  : l.filter = k.filter
  fsat    : l.fsat = k.fsat
  tlb     : l.tlb = k.tlb
  bufc    : l.bufc = k.bufc
  landing : l.landing = k.landing
  popped  : l.popped = k.popped
  epoch   : l.epoch = k.epoch
  accNo   : l.accNo = k.accNo
  issueNo : l.issueNo = k.issueNo
  codeQ   : l.codeQ = k.codeQ

/-- What a word leaves of its own engine: all but the scalar registers, the ring, FFLAGS, WAITR, its loops and where its
stream stands. -/
structure Engine.Kept (g l : Engine) : Prop where
  istore  : l.istore = g.istore
  stack   : l.stack = g.stack
  sup     : l.sup = g.sup
  resume  : l.resume = g.resume
  debt    : l.debt = g.debt
  page    : l.page = g.page
  stopped : l.stopped = g.stopped
  arrived : l.arrived = g.arrived
  phtDue  : l.phtDue = g.phtDue
  slept   : l.slept = g.slept
  issued  : l.issued = g.issued
  ahead   : l.ahead = g.ahead
  early   : l.early = g.early
  fenab   : l.csr.fenab = g.csr.fenab
  frm     : l.csr.frm = g.csr.frm
  pht     : l.csr.pht = g.csr.pht
  phtm    : l.csr.phtm = g.csr.phtm
  trapc   : l.csr.trapc = g.csr.trapc
  trapv   : l.csr.trapv = g.csr.trapv
  trappc  : l.csr.trappc = g.csr.trappc

/-- The current engine ran one word: of the package only its core changed, and of that nothing that the word does not name:
the other engines, the files of `Core.Kept`, and `Engine.Kept` of the engine. -/
structure Ran (s t : State) : Prop where
  pkg  : OnlyCore s t s.cur.1
  core : Core.Kept s.curCore t.curCore
  eng  : Engine.Kept s.curEng t.curEng
  engs : ∀ e, e ≠ s.cur.2 → t.eng s.cur.1 e = s.eng s.cur.1 e

/-- `g` is the group in issue on the current engine, its current member has room for its posts, its results are written at once and
it is not behind a command that waits to post (06 R89, R95) and, if it has tokens to release or to post, behind no command of M at all,
and the group owes no trap and no ERET. -/
structure State.Issuing (s : State) (h : Hdr) (g : Grp) : Prop where
  grp    : s.curEng.grp = some g
  room   : s.curCore.room s.cur.2 h.post = true
  landed : ∀ x ∈ s.curCore.landing, x.eng = s.cur.2 → s.cur.2 = .M ∧ s.curEng.sup = none
  front  : s.behind s.cur.1 s.cur.2 = false
  alone  : s.unretired s.cur.1 s.cur.2 = false ∨ h.pop = 0 ∧ h.post = 0
  owes   : g.owes = none
  flow   : g.flow ≠ .eret

/-- The exact result `e` of an additive word as the word delivers it (04 R60): wrapped, or clamped with SAT and NX. -/
def satSpec (m : SatMode) (e : Int) : Word × FlagSet :=
  match m with
  | .wrap => (BitVec.ofInt 64 e, 0)
  | .sat =>
    if e < -(2 ^ 63) then (0x8000000000000000, 0x21)
    else if 2 ^ 63 ≤ e then (0x7FFFFFFFFFFFFFFF, 0x21)
    else (BitVec.ofInt 64 e, 0)
  | .satn =>
    if e < 0 then (0, 0x21) else if 2 ^ 64 ≤ e then (0xFFFFFFFFFFFFFFFF, 0x21) else (BitVec.ofInt 64 e, 0)

/-- A register operand of an additive word: N64 under U, else I64 (04 R60). -/
def satArg (m : SatMode) (w : Word) : Int := if m = .satn then (w.toNat : Int) else w.toInt

/-- The value of a scalar source. -/
def State.val (s : State) (a : SSrc) : Word := (s.srd a).val

/-- A scalar word has left `v` in `d` and on the ring and ORed in `f`, and its member has retired. -/
def State.wrote (s : State) (h : Hdr) (d : SDst) (v : Word) (f : FlagSet) : State :=
  (s.swr d (.clean v)).retire h (some (.sc (.clean v))) f .next

/-- COND on two words (04 R63). -/
def condSpec (c : Cond) (a b : Word) : Prop :=
  match c with
  | .eq => a = b
  | .ne => a ≠ b
  | .lt => a.toInt < b.toInt
  | .ge => b.toInt ≤ a.toInt
  | .ltn => a.toNat < b.toNat
  | .gen => b.toNat ≤ a.toNat

/-- The scalar integer words: header, destination and register sources in the order A, B, C. -/
def scalarShape : Instr → Option (Hdr × SDst × List SSrc)
  | .add h _ d a b | .sub h _ d a b | .mul h _ d a b | .mulh h d a b | .mulhn h d a b | .div h d a b | .divn h d a b
  | .rem h d a b | .remn h d a b | .and h d a b | .or h d a b | .xor h d a b | .andn h d a b | .shl h d a b | .shr h d a b
  | .sra h d a b | .min h d a b | .minn h d a b | .max h d a b | .maxn h d a b | .cmp h _ d a b | .bins h d a b _ _ =>
    some (h, d, [a, b])
  | .addi h _ d a _ | .andi h d a _ | .ori h d a _ | .xori h d a _ | .clz h d a | .popc h d a | .shli h d a _ | .shri h d a _
  | .srai h d a _ | .lih h d a _ | .bext h d a _ _ => some (h, d, [a])
  | .madd h _ d a b c | .sel h d a b c => some (h, d, [a, b, c])
  | .li h d _ => some (h, d, [])
  | _ => none

/-- None of the sources is poisoned. -/
def State.cleanSrc (s : State) (as : List SSrc) : Prop := ∀ a ∈ as, (s.srd a).poison = false

/-- An access of known places with ordering role `o` is held back by nothing (12 R226, 13 R256, 16 R293): `t` is the package when it
is performed, the earlier accesses performed that its role asks for, and those of its own core that come first. -/
def State.Ordered (s : State) (o : Order) (home store : Bool) (ps : List Place) (t : State) : Prop :=
  let r := s.beforeRel o ps
  let q := r.beforeAcq o ps
  r.relDone o ps = true ∧ (home = true ∨ r.needsFence s.cur.1 (pinsLine o) ps = false) ∧
  t = (if q.writesFirst q.cur.1 store ps (q.core q.cur.1) then q.drain q.cur.1 else q) ∧
  t.writesFirst q.cur.1 store ps (t.core q.cur.1) = false ∧ t.mustWait q.cur.1 home ps = none ∧ t.stor.ferryQ = []

/-- The access of a word passes every check of 11 R209, no table of it is in exchange, and nothing holds it back: `ps` are its
places, `t` the package when it is performed. -/
def State.Accesses (s : State) (o : Order) (buf : Nat) (f : Form) (offs : List Int) (home : Bool)
    (ps : List (List Place)) (t : State) : Prop :=
  let a := s.access s.whoCur buf f offs
  s.tablesHeld s.whoCur buf f offs = false ∧ a.2 = .ok ps ∧ a.1.Ordered o home (f.need == .write) ps.flatten t

/-- The bytes of a line take part in nothing but plain storage: no batch is open on it, no error stands in it, nothing
watches it and no record waits on an object in it. -/
def State.plainLine (s : State) (line : Nat) : Prop :=
  s.stor.batches.find? line = none ∧ s.stor.dramErr.contains line = false ∧ s.stor.poison.contains line = false ∧
  (∀ w, w / 16 = line → s.stor.badWords.contains w = false) ∧
  ∀ x ∈ s.sched.tasks, (∀ w, x.2.watch = some w → w.line ≠ line) ∧ (∀ k, x.2.home = some k → lineOf k ≠ line)

/-- A byte of a core's scratchpad that another agent holds nothing of. -/
def State.freeKey (s : State) (key : Nat) : Prop := s.ferried key = false ∧ s.pinnedFor s.cur.1 (lineOf key) = false

/-- A word without a result has had its effect on `t`, and its member has retired. -/
def State.went (t : State) (h : Hdr) (flow : Flow) : State := t.retire h none 0 flow

/-- A matrix command has had its effect on `t` and is in flight as `f`, with its tokens; the stream goes on (09 R148). -/
def State.flew (t : State) (h : Hdr) (push : Option RingEntry) (f : Flight) : State := State.settle h (.flight t push f)

/-- A loaded value stands in `d` and on the ring, and the member has retired. -/
def State.loaded (t : State) (h : Hdr) (d : SDst) (v : SVal) : State := (t.swr d v).retire h (some (.sc v)) 0 .next

/-- The same for a vector. -/
def State.loadedV (t : State) (h : Hdr) (d : VDst) (v : VVal) : State := (t.vwr d v).retire h (some (.vec v)) 0 .next

/-- In `t` the current engine of `s` has retired the section it stood in and has stopped, for the reason `f` or for none. -/
structure State.StoppedAs (s t : State) (f : Option Flow) : Prop where
  pkg     : OnlyCore s t s.cur.1
  grp     : t.curEng.grp = none
  stopped : t.curEng.stopped = f
  phase   : t.curEng.phase = .entering
  sect    : t.curEng.sect.num = s.curEng.sect.num + 1
  hwm     : t.curEng.hwm = BitVec.ofNat 16 s.curEng.sect.num

/-- Byte `i` from offset `off` of the active half of a bank of core `c` (11 R199), as retirement has moved its page (R222). -/
def State.bankByte (s : State) (c layer off i : Nat) : Byte :=
  s.mem.read (s.place (shoalKey c layer (s.bankOff c layer off + i)))

/-- `n` bytes of it can be fetched (09 R157): no page service is owed for a page of them, all are correctable, none is in exchange. -/
def State.bankClear (s : State) (c layer off n : Nat) : Prop :=
  ∀ i k, i < n → k = shoalKey c layer (s.bankOff c layer off + i) →
    s.stor.unserved.contains (k / 65536) = false ∧ s.badAt (s.place k) = 0 ∧ s.ferried (s.place k) = false

/-- CSRR of `r` reads `w`. -/
def State.Reads (s : State) (h : Hdr) (d : SDst) (r : Csr) (w : Word) : Prop :=
  exec (.csrr h d r) s = .next (s.wrote h d w 0)

/-- CSRW of `r` does `f` to the CSRs of the engine. -/
def State.Puts (s : State) (h : Hdr) (a : SSrc) (r : Csr) (f : Csrs → Csrs) : Prop :=
  exec (.csrw h r a) s = .next ((s.modCur (fun x => { x with csr := f x.csr })).went h .next)

/-- The object flipped once (12 R241), or did not. -/
def BoVal.Flipped (b c : BoVal) : Prop := c.phase = 1 - b.phase ∧ c.flips = (b.flips + 1) % 2 ^ 16
def BoVal.Still (b c : BoVal) : Prop := c.phase = b.phase ∧ c.flips = b.flips

-- vector words

/-- A vector result stands in `d` and on the ring, its flags are ORed in, and the member has retired. -/
def State.vecOut (s : State) (h : Hdr) (d : VDst) (r : VVal × FlagSet) : State :=
  (s.vwr d r.1).retire h (some (.vec r.1)) r.2 .next

/-- The same for a predicate. -/
def State.predOut (s : State) (h : Hdr) (d : Fin 16) (r : PBits × FlagSet) : State :=
  (s.pwr d r.1).retire h (some (.pred r.1)) r.2 .next

/-- Lane words of one, two and three sources (07 R105, R106): `f` on the elements of every active lane. -/
def State.lanes1 (s : State) (h : Hdr) (t : Ty) (d : VDst) (a : VSrc) (f : Nat → Nat × FlagSet) : State :=
  s.vecOut h d (vmap1 t.width (s.vold d) (s.act h t.width) ((s.vrd a).operand t.width) f)
def State.lanes2 (s : State) (h : Hdr) (t : Ty) (d : VDst) (a : VSrc) (b : VSSrc) (f : Nat → Nat → Nat × FlagSet) : State :=
  s.vecOut h d (vmap2 t.width (s.vold d) (s.act h t.width) ((s.vrd a).operand t.width) (s.vsrd t.width b) f)
def State.lanes3 (s : State) (h : Hdr) (t : Ty) (d : VDst) (a : VSrc) (b : VSSrc) (c : VSrc)
    (f : Nat → Nat → Nat → Nat × FlagSet) : State :=
  s.vecOut h d (vmap3 t.width (s.vold d) (s.act h t.width) ((s.vrd a).operand t.width) (s.vsrd t.width b)
    ((s.vrd c).operand t.width) f)

/-- An exact integer as an integer lane delivers it (02 R23): its low bits, or clamped with SAT and NX. -/
def intSpec (t : Ty) (sat : Bool) (e : Int) : Nat × FlagSet :=
  let lo : Int := if t.isSigned then -(2 ^ (t.width - 1)) else 0
  let hi : Int := if t.isSigned then 2 ^ (t.width - 1) - 1 else 2 ^ t.width - 1
  if sat && decide (e < lo) then ((lo % 2 ^ t.width).toNat, 0x21)
  else if sat && decide (hi < e) then ((hi % 2 ^ t.width).toNat, 0x21)
  else ((e % 2 ^ t.width).toNat, 0)

/-- An element's bits as an integer of type `t`. -/
def elInt (t : Ty) (x : Nat) : Int :=
  if t.isSigned && decide (2 ^ (t.width - 1) ≤ x) then (x : Int) - 2 ^ t.width else x

/-- The words with one vector destination: header and destination. -/
def vecShape : Instr → Option (Hdr × VDst)
  | .vadd h _ _ _ d _ _ | .vsub h _ _ _ d _ _ | .vmul h _ _ _ d _ _ | .vfma h _ _ _ d _ _ _ | .vfms h _ _ _ d _ _ _
  | .vfnma h _ _ _ d _ _ _ | .vmulh h _ d _ _ | .vmin h _ d _ _ | .vmax h _ d _ _ | .vand h _ d _ _ | .vor h _ d _ _
  | .vxor h _ d _ _ | .vshl h _ d _ _ | .vshr h _ d _ _ | .vsra h _ d _ _ | .vabs h _ _ d _ | .vneg h _ _ d _
  | .vrcp h _ _ _ d _ | .vrsq h _ _ _ d _ | .vsqrt h _ _ _ d _ | .vexp2 h _ _ _ d _ | .vlog2 h _ _ _ d _
  | .vsin h _ _ _ d _ | .vcos h _ _ _ d _ | .vtanh h _ _ _ d _ | .vsig h _ _ _ d _ | .vradd h _ _ _ d _
  | .vscan h _ _ _ d _ | .vsel h _ d _ _ _ | .vclassV h _ d _ | .vrmax h _ d _ | .vrmin h _ d _
  | .vcvt h _ _ _ _ _ d _ | .vdqmx h _ _ _ _ _ d _ _ | .vpack h _ _ _ _ d _ _ | .vunpk h _ _ _ _ _ d _
  | .vldexp h _ _ _ d _ _ | .vperm h _ d _ _ | .vshuf h _ d _ _ _ | .vbcst h _ _ d _ | .vins h _ _ d _ _
  | .vcomp h _ d _ _ | .vexpd h _ d _ _ | .vpclr h _ d _ | .vpchk h _ d _ => some (h, d)
  | _ => none

/-- The words with a predicate destination. -/
def predShape : Instr → Option (Hdr × Fin 16)
  | .vcmp h _ _ d _ _ | .vclassP h _ d _ _ | .pand h _ d _ _ | .por h _ d _ _ | .pxor h _ d _ _ | .pnot h _ d _
  | .pmov h _ d _ _ => some (h, d)
  | _ => none

end Sys2Proof.Machine
end

