-- ==== Sys2Proof/Certificates/Slice0/Obligations.lean ====
section
/-! DEFINITION. The statements for the provers. `s` is any state, `h` any header, `g` the group in issue on the current
engine; a word's conclusion is its whole next state: what it wrote, then the retirement of its member (MemberRetires,
StreamAdvances). -/

open Sys2Proof Sys2Proof.Machine

-- encodings and the step

/-- Decoding the word of a well-formed word of an engine gives the word back, whatever its operands (03 R42 to R58). -/
def Obligations.WordRoundTrip : Prop :=
  ∀ (e : Eng) (i : Instr) (w : IWord), i.wf e = true → encode i = some w → decodeWord e w = .ok i

/-- A word that decodes is the one encoding of what it decodes to, and that is well-formed (03 R46, R49, R58): no reserved bit
is dropped and no reserved encoding falls through to a neighbour. -/
def Obligations.WordUnique : Prop :=
  ∀ (e : Eng) (i : Instr) (w : IWord), decodeWord e w = .ok i → encode i = some w ∧ i.wf e = true

/-- The same, both ways, for the steps of collective programs (21 R356, R357) and the entries of work queues (22 R374). -/
def Obligations.StepEntryRoundTrip : Prop :=
  (∀ (i : Instr) (w0 w1 : Word), i.wf .L = true → encodeStep i = some (w0, w1) → decodeStep w0 w1 = some i) ∧
  (∀ (i : Instr) (w0 w1 : Word), decodeStep w0 w1 = some i → encodeStep i = some (w0, w1) ∧ i.wf .L = true) ∧
  (∀ (i : Instr) (w0 w1 w2 w3 w4 w5 w6 w7 : Word), encodeEntry i = some [w0, w1, w2, w3, w4, w5, w6, w7] →
    decodeEntry w0 w1 w2 w3 w4 w5 w6 w7 = .ok i) ∧
  (∀ (i : Instr) (w0 w1 w2 w3 w4 w5 w6 w7 : Word), decodeEntry w0 w1 w2 w3 w4 w5 w6 w7 = .ok i →
    encodeEntry i = some [w0, w1, w2, w3, w4, w5, w6, w7])

/-- A step is the meaning of the word that the bytes at the current engine's PC decode to (01 R8, R19; LOG 4): of the member
in issue, of a word that is a group of its own, of the first member of a group that issues. M issues one group in a cycle (09, Execution
order within M; `slotTaken`). In SAFE, STATE 7, no clock runs (20 R342). -/
def Obligations.StepRunsDecoded : Prop :=
  ∀ (s : State) (i : Instr) (t : RunTask), s.agenda = [] → s.cryo.st ≠ 7 → s.curCore.task = some t →
    s.curEng.stopped ≠ some .sleep → s.curEng.slept = none → s.curEng.phaseNow = false →
    -- the member in issue
    (∀ r : Grp, s.curEng.grp = some r → s.curEng.owed = none → s.curEng.page = false → t.delivering s.cur.2 = false →
      (∀ n, s.curEng.inside = some (.bowait n) → s.curEng.sup = none → t.request = none ∧ t.delivery = []) →
      decodeWord s.cur.2 (s.curEng.wordAt s.supStore (r.pcOf r.idx)) = .ok i → step s = exec i s) ∧
    -- a word that stands alone
    (s.curEng.grp = none → s.curEng.idleNow t s.cur.2 = false → s.curEng.phase = .running → s.curEng.debt = 0 →
      s.slotTaken s.cur.2 s.curEng = false →
      ∀ w, w = s.curEng.sect.wordOf s.curEng.pc → w < s.curEng.sect.len →
      ∀ x, x = s.curEng.wordAt s.supStore (s.curEng.sect.pcOf w) → x.getLsbD 95 = true →
        decodeWord s.cur.2 x = .ok i → placeBad (Raw.ofWord x) w s.curEng.sect.len = none →
        (s.curEng.sup = none → privilegeField i = none) → (s.curEng.sup ≠ none → supForbidden i = false) →
        step s = exec i s) ∧
    -- the first member of a longer group that issues now
    (s.curEng.grp = none → s.curEng.idleNow t s.cur.2 = false → s.curEng.phase = .running → s.curEng.debt = 0 →
      s.slotTaken s.cur.2 s.curEng = false →
      ∀ w, w = s.curEng.sect.wordOf s.curEng.pc → w < s.curEng.sect.len →
      ∀ j is u, checkGroup s.cur.2 s.curEng.sup.isSome s.curEng.sect.len w ((s.curEng.restart.map Grp.idx).getD 0)
          (s.curEng.members s.supStore 5 w) = .ok (i :: j :: is) →
        s.openGroup (i :: j :: is) = (u, true) → step s = exec i u)

/-- The agenda decides who moves (LOG 4): an event at its head is the meaning of its row, an engine at its head runs as if it
were the current one, and a core above 255 stops the machine. In SAFE, where the clocks are stopped (20 R342, LOG 78), engines and events
of clocked parts do nothing. A word that opens a group of its own issues it and then is its
one member (01 R19, 06 R88): nothing but the issue comes between. -/
def Obligations.AgendaAndLoneWords : Prop :=
  (∀ (s : State) (ms : List Move) (i : Instr) (c : Nat) (e : Eng),
     (s.agenda = .ev i :: ms → alwaysOn i = true ∨ s.cryo.st ≠ 7 → step s = exec i { s with agenda := ms }) ∧
     (s.agenda = .run c e :: ms → s.cryo.st ≠ 7 → c ≤ 255 → step s = runEngine { s with agenda := ms, cur := (c, e) }) ∧
     (s.agenda = .run c e :: ms → s.cryo.st ≠ 7 → 255 < c → step s = .fault .noSuchCore) ∧
     (s.agenda = .ev i :: ms → alwaysOn i = false → s.cryo.st = 7 → step s = .next { s with agenda := ms }) ∧
     (s.agenda = .run c e :: ms → s.cryo.st = 7 → step s = .next { s with agenda := ms }) ∧
     (s.agenda = [] → s.cryo.st = 7 → step s = .next s)) ∧
  (∀ (s : State) (i : Instr), (hdrOf i).isSome = true → s.curEng.grp = none → s.aloneBad i = none →
     s.verdict s.cur.1 s.cur.2 [i] ((s.curEng.restart.map Grp.idx).getD 0) s.curEng.restart.isSome = .go →
     exec i s = exec i (s.issue s.cur.1 s.cur.2 [i]) ∧ ((s.issue s.cur.1 s.cur.2 [i]).curEng.grp).isSome = true)

/-- A member that retires and is not the last of its group posts one token into each FIFO of its POST mask and releases the
tokens its POP mask named (06 R88, R89); the next member is in issue, the engine waits no more and its PC stays. When the last
member of a group retires without a transfer the stream goes to the next word; past the last word of its section the engine
enters the next section, and its high-water register takes the number of the one it left (01 R16, R17). When control reaches
the end word of one active LOOP level, the level's index rises and control goes to its start, or, at the last iteration, the
level is deactivated and control falls through (04 R70). -/
def Obligations.RetirementAdvances : Prop :=
  (∀ (s : State) (h : Hdr) (g : Grp) (push : Option RingEntry) (flags : FlagSet), s.Issuing h g → g.idx + 1 < g.size →
     ∀ t, t = s.retire h push flags .next →
       t.curEng.grp = some { g with idx := g.idx + 1, flags := g.flags ||| flags, flow := .next } ∧
       t.curEng.pc = s.curEng.pc ∧ t.curEng.csr.blocked = false ∧ t.curEng.owed = none ∧
       t.curEng.csr.fflags = s.curEng.csr.fflags ||| flags ∧
       (∀ v, push = some v → t.curEng.ring = (v :: s.curEng.ring).take 8) ∧ (push = none → t.curEng.ring = s.curEng.ring) ∧
       (∀ j : Nat, 1 ≤ j → j ≤ 3 →
         t.curCore.occ.get (fifoNo s.cur.2 (engOther s.cur.2 j)) 0 =
           s.curCore.occ.get (fifoNo s.cur.2 (engOther s.cur.2 j)) 0 + (if h.post.getLsbD (j - 1) then 1 else 0) ∧
         t.curCore.occ.get (fifoNo (engOther s.cur.2 j) s.cur.2) 0 =
           s.curCore.occ.get (fifoNo (engOther s.cur.2 j) s.cur.2) 0 - (if h.pop.getLsbD (j - 1) then 1 else 0))) ∧
  (∀ (s : State) (h : Hdr) (g : Grp) (push : Option RingEntry) (flags : FlagSet) (w : Nat), s.Issuing h g →
     g.idx + 1 = g.size → s.curEng.sup = none → s.curEng.loops = [] → s.curCore.flight = [] →
     w = s.curEng.sect.wordOf (g.pcOf g.size) - 1 →
     ∀ t, t = s.retire h push flags .next →
       t.curEng.grp = none ∧
       (w + 1 < s.curEng.sect.len → t.curEng.pc = s.curEng.sect.pcOf (w + 1) ∧ t.curEng.sect = s.curEng.sect ∧
         t.curEng.phase = s.curEng.phase) ∧
       (s.curEng.sect.len ≤ w + 1 → t.curEng.phase = .entering ∧ t.curEng.sect.num = s.curEng.sect.num + 1 ∧
         t.curEng.sect.hdr = s.curEng.sect.hdr + 8 + 12 * s.curEng.sect.len ∧
         t.curEng.hwm = BitVec.ofNat 16 s.curEng.sect.num)) ∧
  (∀ (s : State) (h : Hdr) (g : Grp) (l : Nat) (v : LoopLvl) (w : Nat), s.Issuing h g → g.idx + 1 = g.size →
     s.curEng.sup = none → s.reqOpen s.cur.1 = false → w = s.curEng.sect.wordOf (g.pcOf g.size) - 1 →
     s.curEng.loops = [(l, v)] → v.staged = false → v.sect = s.curEng.sect.num → v.stop = w →
     v.start < s.curEng.sect.len → w + 1 < s.curEng.sect.len →
     ∀ t, t = s.retire h none 0 .next →
       (v.lc + 1 < v.total → t.curEng.loops = [(l, { v with lc := v.lc + 1 })] ∧ t.curEng.pc = s.curEng.sect.pcOf v.start) ∧
       (v.total ≤ v.lc + 1 → t.curEng.loops = [] ∧ t.curEng.pc = s.curEng.sect.pcOf (w + 1)))

/-- Every step keeps the canonical form of the package's memory and of the supervisor store: addresses strictly rising, and no
listed byte equal to what an unlisted one reads as (the form and that value are the model's own, LOG 2). -/
def Obligations.CanonKept : Prop :=
  ∀ (s t : State), s.canon → step s = .next t → t.canon

/-- The state right after reset has the canonical form of memory (LOG 2), and so has any state with one word placed for the next step. -/
def Obligations.CanonAtReset : Prop :=
  State.reset.canon ∧ ∀ n w, (State.reset.withFetchWord n w).canon

/-- The values the spec gives for reset: the policy registers and pool bases (22 R370), the event ring (18 R314), the remapper
(11 R219), the sequencers (10 R194), the work queues (22 R372), KEYLD (22 R383), CRYOPOL and CRYOST (20 R345), CYC (04 R80).
-/
def Obligations.ResetValues : Prop :=
  (State.reset.host.polage = 0 ∧ State.reset.host.polpr = 0 ∧ State.reset.host.polwd = 0 ∧ State.reset.host.lpbase = 0 ∧
    State.reset.host.rsbase = 0 ∧ State.reset.host.sdbase = 0 ∧ State.reset.host.srbase = 0 ∧ State.reset.host.cmbase = 0 ∧
    State.reset.host.ctxt = 0 ∧ State.reset.host.retthr = 0 ∧ State.reset.host.srhead = 0 ∧ State.reset.host.srtail = 0) ∧
  (State.reset.evq.base = 0 ∧ State.reset.evq.log2n = 0 ∧ State.reset.evq.tail = 0 ∧ State.reset.evq.head = 0 ∧
    State.reset.evq.lost = 0) ∧
  (State.reset.host.migbnd = 0 ∧ State.reset.host.newv = 0 ∧ State.reset.host.curv = 0 ∧ State.reset.host.mapBusy = false ∧
    ∀ n, State.reset.host.bcnt.get n 0 = 0) ∧
  (∀ n, State.reset.seq n = Seq.reset) ∧ (Seq.reset.st = 0 ∧ Seq.reset.step = 0 ∧ Seq.reset.errec = 0 ∧ Seq.reset.errc = 0) ∧
  (∀ n, (State.reset.wq n).base = 0 ∧ (State.reset.wq n).enable = false ∧ (State.reset.wq n).st = 0 ∧
    (State.reset.wq n).head = 0 ∧ (State.reset.wq n).errc = 0) ∧
  (State.reset.host.k1 = 0 ∧ State.reset.host.k2 = 0 ∧ State.reset.host.kstat = 0) ∧
  (State.reset.cryo.holdt = 30 ∧ State.reset.cryo.badcmd = false) ∧ State.reset.cyc = 0

-- scalar integer words

/-- The additive and multiplicative words (04 R60): the exact result, wrapped, or clamped with SAT and NX. The high-product,
divide and remainder words (04 R61): truncation toward zero, and division by zero with DZ. -/
def Obligations.ArithmeticWords : Prop :=
  (∀ (s : State) (h : Hdr) (g : Grp) (m : SatMode) (d : SDst) (a b c : SSrc) (i : BitVec 30), s.curEng.grp = some g →
     s.guardTrue h = true → s.cleanSrc [a, b, c] →
     (∀ r, r = satSpec m (satArg m (s.val a) + satArg m (s.val b)) → exec (.add h m d a b) s = .next (s.wrote h d r.1 r.2)) ∧
     (∀ r, r = satSpec m (satArg m (s.val a) + i.toInt) → exec (.addi h m d a i) s = .next (s.wrote h d r.1 r.2)) ∧
     (∀ r, r = satSpec m (satArg m (s.val a) - satArg m (s.val b)) → exec (.sub h m d a b) s = .next (s.wrote h d r.1 r.2)) ∧
     (∀ r, r = satSpec m (satArg m (s.val a) * satArg m (s.val b)) → exec (.mul h m d a b) s = .next (s.wrote h d r.1 r.2)) ∧
     (∀ r, r = satSpec m (satArg m (s.val a) * satArg m (s.val b) + satArg m (s.val c)) →
       exec (.madd h m d a b c) s = .next (s.wrote h d r.1 r.2))) ∧
  (∀ (s : State) (h : Hdr) (g : Grp) (d : SDst) (a b : SSrc), s.curEng.grp = some g → s.guardTrue h = true →
     s.cleanSrc [a, b] → ∀ x y, x = s.val a → y = s.val b →
     exec (.mulh h d a b) s = .next (s.wrote h d ((x.signExtend 128 * y.signExtend 128).extractLsb' 64 64) 0) ∧
     exec (.mulhn h d a b) s = .next (s.wrote h d ((x.setWidth 128 * y.setWidth 128).extractLsb' 64 64) 0) ∧
     (y ≠ 0 →
       exec (.div h d a b) s = .next (s.wrote h d (x.sdiv y) 0) ∧ exec (.rem h d a b) s = .next (s.wrote h d (x.srem y) 0) ∧
       exec (.divn h d a b) s = .next (s.wrote h d (x / y) 0) ∧ exec (.remn h d a b) s = .next (s.wrote h d (x % y) 0)) ∧
     (y = 0 → ∀ f : FlagSet, f = (if x = 0 then 0 else 0x08) →
       exec (.div h d a b) s = .next (s.wrote h d 0xFFFFFFFFFFFFFFFF f) ∧ exec (.rem h d a b) s = .next (s.wrote h d x f) ∧
       exec (.divn h d a b) s = .next (s.wrote h d 0xFFFFFFFFFFFFFFFF f) ∧ exec (.remn h d a b) s = .next (s.wrote h d x f)))

/-- The bitwise, shift and count words (04 R62): a shift counts by the low six bits of b, and no flag is set. The constants LI
and LIH (04 R64) and the bit fields BEXT and BINS (04 R65). -/
def Obligations.BitwiseFieldWords : Prop :=
  (∀ (s : State) (h : Hdr) (g : Grp) (d : SDst) (a b : SSrc) (i : BitVec 30) (sh : BitVec 6), s.curEng.grp = some g →
     s.guardTrue h = true → s.cleanSrc [a, b] → ∀ x y, x = s.val a → y = s.val b →
     ∀ (m : Word) (n : Nat), m = i.signExtend 64 → n = (y.extractLsb' 0 6).toNat →
     (exec (.and h d a b) s = .next (s.wrote h d (x &&& y) 0) ∧ exec (.or h d a b) s = .next (s.wrote h d (x ||| y) 0) ∧
       exec (.xor h d a b) s = .next (s.wrote h d (x ^^^ y) 0) ∧ exec (.andn h d a b) s = .next (s.wrote h d (x &&& ~~~y) 0) ∧
       exec (.andi h d a i) s = .next (s.wrote h d (x &&& m) 0) ∧ exec (.ori h d a i) s = .next (s.wrote h d (x ||| m) 0) ∧
       exec (.xori h d a i) s = .next (s.wrote h d (x ^^^ m) 0)) ∧
     (exec (.shl h d a b) s = .next (s.wrote h d (x <<< n) 0) ∧ exec (.shr h d a b) s = .next (s.wrote h d (x >>> n) 0) ∧
       exec (.sra h d a b) s = .next (s.wrote h d (x.sshiftRight n) 0) ∧
       exec (.shli h d a sh) s = .next (s.wrote h d (x <<< sh.toNat) 0) ∧
       exec (.shri h d a sh) s = .next (s.wrote h d (x >>> sh.toNat) 0) ∧
       exec (.srai h d a sh) s = .next (s.wrote h d (x.sshiftRight sh.toNat) 0)) ∧
     (∀ z : Nat, (x = 0 ∧ z = 64) ∨ (z < 64 ∧ 2 ^ (63 - z) ≤ x.toNat ∧ x.toNat < 2 ^ (64 - z)) →
       exec (.clz h d a) s = .next (s.wrote h d (BitVec.ofNat 64 z) 0)) ∧
     exec (.popc h d a) s = .next (s.wrote h d (BitVec.ofNat 64 ((List.range 64).countP (fun k => x.getLsbD k))) 0)) ∧
  (∀ (s : State) (h : Hdr) (g : Grp) (d : SDst) (a b : SSrc) (k : BitVec 50) (k' : BitVec 32) (pos w1 : BitVec 6),
     s.curEng.grp = some g → s.guardTrue h = true → s.cleanSrc [a, b] → ∀ x y, x = s.val a → y = s.val b →
     exec (.li h d k) s = .next (s.wrote h d (k.signExtend 64) 0) ∧
     exec (.lih h d a k') s = .next (s.wrote h d ((k'.setWidth 64 <<< 32) ||| (x.setWidth 32).setWidth 64) 0) ∧
     (pos.toNat + w1.toNat + 1 ≤ 64 →
       exec (.bext h d a pos w1) s = .next (s.wrote h d ((x.extractLsb' pos.toNat (w1.toNat + 1)).setWidth 64) 0) ∧
       ∀ m : Word, (∀ k, m.getLsbD k = (decide (pos.toNat ≤ k) && decide (k ≤ pos.toNat + w1.toNat))) →
         exec (.bins h d a b pos w1) s = .next (s.wrote h d ((x &&& ~~~m) ||| ((y <<< pos.toNat) &&& m)) 0)))

/-- The compare, select, minimum and maximum words, and COND as CMP and BRC evaluate it (04 R63). -/
def Obligations.CompareSelectWords : Prop :=
  ∀ (s : State) (h : Hdr) (g : Grp) (cd : Cond) (d : SDst) (a b c : SSrc) (t : Target), s.curEng.grp = some g →
    s.guardTrue h = true →
    s.cleanSrc [a, b, c] → ∀ x y, x = s.val a → y = s.val b →
    (condSpec cd x y → exec (.cmp h cd d a b) s = .next (s.wrote h d 1 0)) ∧
    (¬condSpec cd x y → exec (.cmp h cd d a b) s = .next (s.wrote h d 0 0)) ∧
    (condSpec cd x y → exec (.brc h cd a b t) s =
      .next (s.went h (.goto false (s.curEng.sect.num + t.delta.toNat) t.word.toNat))) ∧
    (¬condSpec cd x y → exec (.brc h cd a b t) s = .next (s.went h .next)) ∧
    (x ≠ 0 → exec (.sel h d a b c) s = .next (s.wrote h d y 0)) ∧
    (x = 0 → exec (.sel h d a b c) s = .next (s.wrote h d (s.val c) 0)) ∧
    (∀ lo hi, (x.toInt ≤ y.toInt ∧ lo = x ∧ hi = y) ∨ (y.toInt < x.toInt ∧ lo = y ∧ hi = x) →
      exec (.min h d a b) s = .next (s.wrote h d lo 0) ∧ exec (.max h d a b) s = .next (s.wrote h d hi 0)) ∧
    (∀ lo hi, (x.toNat ≤ y.toNat ∧ lo = x ∧ hi = y) ∨ (y.toNat < x.toNat ∧ lo = y ∧ hi = x) →
      exec (.minn h d a b) s = .next (s.wrote h d lo 0) ∧ exec (.maxn h d a b) s = .next (s.wrote h d hi 0))

/-- A scalar integer word whose guard is false changes nothing and pushes what its destination held (04 R59); a member that issues
again reads what its group read first (06 R91; `seenEng`). A scalar integer
word with a poisoned source gives a poisoned result with data 0, no flag and the cause of the first poisoned source in the
order A, B, C (06 R102). -/
def Obligations.ScalarGuardPoison : Prop :=
  (∀ (s : State) (g : Grp) (i : Instr) (h : Hdr) (d : SDst) (as : List SSrc), s.curEng.grp = some g →
     scalarShape i = some (h, d, as) → s.cur.2 = .X → (s.seenCore.pred h.g.toNat).getLsbD 0 = h.gn →
     ∀ v, v = (match d with
       | .s n => s.seenEng.reg n.val
       | .z => SVal.zero) →
     exec i s = .next (s.retire h (some (.sc v)) 0 .next)) ∧
  (∀ (s : State) (g : Grp) (i : Instr) (h : Hdr) (d : SDst) (pre post : List SSrc) (a : SSrc), s.curEng.grp = some g →
     scalarShape i = some (h, d, pre ++ a :: post) → s.guardTrue h = true → s.cleanSrc pre → (s.srd a).poison = true →
     ∀ v : SVal, v = { val := 0, poison := true, cause := (s.srd a).cause } →
     exec i s = .next ((s.swr d v).retire h (some (.sc v)) 0 .next))

/-- What a scalar integer word leaves alone: every scalar register but its destination, the vector and predicate registers,
the accumulators, the special registers, all memory and every other engine and core; of FFLAGS it may set SAT, NX and DZ. s0
reads as zero, and a word that writes it discards its result, pushes it and leaves every register (01 R9, R20). -/
def Obligations.ScalarFrame : Prop :=
  (∀ (s : State) (g : Grp) (i : Instr) (h : Hdr) (d : SDst) (as : List SSrc), s.Issuing h g →
     scalarShape i = some (h, d, as) →
     ∃ t, exec i s = .next t ∧ Ran s t ∧
       (∀ n : Fin 32, d ≠ .s n → t.curEng.reg n.val = s.curEng.reg n.val) ∧
       t.curCore.v = s.curCore.v ∧ t.curCore.p = s.curCore.p ∧
       (∀ k, 1 ≤ k → k < 8 → k ≤ s.curEng.ring.length → t.curEng.ring[k]? = s.curEng.ring[k - 1]?) ∧
       (∃ f : FlagSet, f &&& 0x16 = 0 ∧ t.curEng.csr.fflags = s.curEng.csr.fflags ||| f)) ∧
  (∀ (s : State) (g : Grp) (i : Instr) (h : Hdr) (as : List SSrc), s.Issuing h g → scalarShape i = some (h, .s 0, as) →
     (s.srd (.s 0)).val = 0 ∧ (s.srd (.s 0)).poison = false ∧
     ∃ t v, exec i s = .next t ∧ (∀ n, t.curEng.reg n = s.curEng.reg n) ∧ t.curEng.reg 0 = SVal.zero ∧
       t.curEng.ring = (.sc v :: s.curEng.ring).take 8)

-- control words

/-- The transfers (04 R67, R68): BR always, BRC when its condition holds, BRP by its active bits; CALL pushes the PC of the
word after it, RET pops one. The target is the section `delta` on and its word (03 R50). -/
def Obligations.TransferWords : Prop :=
  ∀ (s : State) (h : Hdr) (g : Grp) (cd : Cond) (all : Bool) (a b : SSrc) (p : Fin 16) (t : Target),
    s.curEng.grp = some g → ∀ n, n = s.curEng.sect.num + t.delta.toNat →
    (s.guardTrue h = true →
      exec (.br h t) s = .next (s.went h (.goto false n t.word.toNat)) ∧
      (s.cleanSrc [a, b] → condSpec cd (s.val a) (s.val b) →
        exec (.brc h cd a b t) s = .next (s.went h (.goto false n t.word.toNat))) ∧
      (s.cleanSrc [a, b] → ¬condSpec cd (s.val a) (s.val b) → exec (.brc h cd a b t) s = .next (s.went h .next)) ∧
      exec (.call h t) s = .next ((s.modCur (fun x => { x with stack := g.pcOf (g.idx + 1) :: x.stack })).went h
        (.goto true n t.word.toNat)) ∧
      (∀ pc rest, s.curEng.stack = pc :: rest →
        exec (.ret h) s = .next ((s.modCur (fun x => { x with stack := rest })).went h
          (.goto true s.curEng.sect.num (s.curEng.sect.wordOf pc))))) ∧
    (∀ act : Nat → Bool, (∀ k, act k = ((s.seenCore.pred h.g.toNat).getLsbD k != h.gn)) →
      (p = 0 ∨ (all = false ∧ ∃ k, k < 1024 ∧ act k = true ∧ (s.prd p).getLsbD k = true) ∨
        (all = true ∧ ∀ k, k < 1024 → act k = true → (s.prd p).getLsbD k = true) →
        exec (.brp h all p t) s = .next (s.went h (.goto false n t.word.toNat))) ∧
      (p ≠ 0 → (all = false → ∀ k, k < 1024 → act k = true → (s.prd p).getLsbD k = false) →
        (all = true → ∃ k, k < 1024 ∧ act k = true ∧ (s.prd p).getLsbD k = false) →
        exec (.brp h all p t) s = .next (s.went h .next)))

/-- Where a taken transfer of the last member of a group leads (01 R17, 04 R67, R71): inside its section to the PC of the
target word, with every level ended whose range does not hold it and every later one; in a later section the engine enters that
section at the target word, and every section before it has retired. CALL and RET leave the levels alone. -/
def Obligations.TransferTargets : Prop :=
  ∀ (s : State) (h : Hdr) (g : Grp) (n w : Nat), s.Issuing h g → g.idx + 1 = g.size → s.curEng.sup = none →
    s.curCore.flight = [] → s.reqOpen s.cur.1 = false →
    ∀ (keep : Bool) (y : Engine), y = (s.went h (.goto keep n w)).curEng → y.grp = none ∧
    (keep = true → y.loops = s.curEng.loops) ∧
    (keep = false → ∀ x, x ∈ y.loops ↔ x ∈ s.curEng.loops ∧
      ∀ z ∈ s.curEng.loops, z.2.order ≤ x.2.order → z.2.sect = n ∧ z.2.start ≤ w ∧ w ≤ z.2.stop) ∧
    (n = s.curEng.sect.num → w < s.curEng.sect.len →
      y.pc = s.curEng.sect.pcOf w ∧ y.sect = s.curEng.sect ∧ y.phase = s.curEng.phase ∧ y.hwm = s.curEng.hwm) ∧
    (∀ x, s.curEng.sect.num < n →
      s.targetSect s.cur.1 s.cur.2 { delta := BitVec.ofNat 14 (n - s.curEng.sect.num), word := BitVec.ofNat 16 w } = some x →
      y.phase = .entering ∧ y.target = w ∧ y.sect.num = x.num ∧ y.sect.hdr = x.hdr ∧ y.sect.len = x.len ∧
        y.hwm = BitVec.ofNat 16 (n - 1) ∧ y.pc = x.pcOf w)

/-- LOOP and LOOPS (04 R69): the level is active with its total, or, at a total of 0, control passes the body; BRKL ends its
level and every later one and passes the end word (R72). The stage predicates of a level (04 R71 as 18 R319 extends it): with
nothing refilled, stage k is true exactly when k < m and 0 ≤ i - k < n. -/
def Obligations.LoopWords : Prop :=
  (∀ (s : State) (h : Hdr) (g : Grp) (l : Fin 4) (a : SSrc) (m1 : BitVec 3) (stop : BitVec 16), s.curEng.grp = some g →
     s.guardTrue h = true → ∀ n, n = (s.val a).toNat →
     (n = 0 → exec (.loop h l a stop) s = .next (s.went h (.past (stop.toNat + 1))) ∧
       exec (.loops h l a m1 stop) s = .next (s.went h (.past (stop.toNat + 1)))) ∧
     (n ≠ 0 → ∀ act : Bool → Nat → Nat → LoopLvl, (∀ staged total m, act staged total m =
         { staged := staged, sect := s.curEng.sect.num, order := s.curEng.order + 1, total := total, lc := 0, n := n, m := m,
           base := 0, cut := n, start := s.curEng.sect.wordOf (g.pcOf (g.idx + 1)), stop := stop.toNat }) →
       exec (.loop h l a stop) s = .next ((s.modCur (fun x =>
         { x with loops := x.loops.put l.val (act false n 1), order := x.order + 1 })).went h .next) ∧
       exec (.loops h l a m1 stop) s = .next ((s.modCur (fun x =>
         { x with loops := x.loops.put l.val (act true (n + m1.toNat) (m1.toNat + 1)), order := x.order + 1 })).went h .next)) ∧
     (∀ v, s.curEng.loops.find? l.val = some v → exec (.brkl h l) s = .next ((s.modCur (fun x =>
       { x with loops := x.loops.filter (fun y => y.2.order < v.order) })).went h (.past (v.stop + 1))))) ∧
  (∀ (g : Engine) (l k : Nat) (v : LoopLvl), g.loops = [(l, v)] → v.staged = true → v.base = 0 → v.cut = v.n →
     (g.stage k = true ↔ k < v.m ∧ 0 ≤ (v.lc : Int) - k ∧ (v.lc : Int) - k < v.n) ∧
     (∀ g' : Engine, g'.loops = [] → g'.stage k = false))

/-- SUSPEND without an object, YIELD and SLEEP retire their section and stop their engine (04 R73, 10 R175 to R177); HALT ends
the task (R74). SUSPEND on an object reads its phase at its home as it retires (10 R176). -/
def Obligations.StopWords : Prop :=
  (∀ (s : State) (h : Hdr) (g : Grp), s.Issuing h g → g.idx + 1 = g.size → s.guardTrue h = true → s.curEng.sup = none →
     s.curCore.flight = [] → s.curEng.owed = none → s.curEng.stopped = none →
     (bitsOf (s.seenEng.reg 2).val 0 16 = 0 → ∃ t, exec (.suspend h) s = .next t ∧ s.StoppedAs t (some (.suspend none))) ∧
     (∃ t, exec (.yield h) s = .next t ∧ s.StoppedAs t (some .yield)) ∧
     (∃ t, exec (.sleep h) s = .next t ∧ s.StoppedAs t (if s.soundSleep s.cur.1 then some .sleep else none)) ∧
     (∀ k, s.curCore.task = some k → ∃ t k', exec (.halt h) s = .next t ∧ OnlyCore s t s.cur.1 ∧ t.curEng.grp = none ∧
       t.curCore.task = some k' ∧ k'.halting = true ∧ k'.slot = k.slot)) ∧
  (∀ (s t : State) (h : Hdr) (g : Grp) (ps : List (List Place)) (w : Word), s.curEng.grp = some g → s.guardTrue h = true →
     w = (s.seenEng.reg 2).val → bitsOf w 0 16 ≠ 0 →
     s.Accesses (.acq .pkg) (bitsOf w 0 16) (boForm .read) [(bitsOf w 16 48 : Int)] true ps t →
     ∀ u, u = (t.toHome t.cur.1 (lineOf (keyOf ps))).reach [lineOf (keyOf ps)] → u.boBad (keyOf ps) = false →
       exec (.suspend h) s = .next (u.went h (.suspend (some ((u.boAt u.curKid (keyOf ps)).phase == 1, keyOf ps, false)))))

/-- NOP has no effect but its tokens, and STAMPB sets and pushes mstb (04 R77). WATCH arms the task's single watched line when
its access passes the checks of a 128-byte line (04 R73, 10 R177): it replaces an earlier watch and records the generation;
with a full table the entry counts as woken (nobody watches the record that this writes, the watch itself aside). TLBINV and BUFINV
(04 R83): once the accesses that L and S issued before are complete they drop what they name and push 0. -/
def Obligations.WatchStampInvalidate : Prop :=
  (∀ (s : State) (h : Hdr) (g : Grp) (a : SSrc) (i : BitVec 30), s.curEng.grp = some g →
     exec (.nop h) s = .next (s.went h .next) ∧
     ∀ m : Word, m = s.val a + i.signExtend 64 →
       exec (.stampb h a i) s = .next ((s.modCore s.cur.1 (fun k => { k with mstb := m })).retire h
         (some (.sc (.clean m))) 0 .next)) ∧
  (∀ (s t : State) (h : Hdr) (g : Grp) (m : MemOp) (buf : Nat) (off : Int) (ps : List (List Place)) (k : RunTask)
     (x : TaskInfo), s.curEng.grp = some g → s.memRef m 128 = (buf, off) →
     s.Accesses .none buf { need := .read, es := 128, align := 128, noView := true } [off] false ps t →
     t.curCore.task = some k → t.info k.slot = some x →
     ∀ a, a = t.recAddr k.slot + 0x38 → t.minded a 8 = [] →
     a + 8 ≤ 128 * lineOf (keyOf ps) ∨ 128 * (lineOf (keyOf ps) + 1) ≤ a →
     ∃ (u : State) (w : Watch), exec (.watch h m) s = .next (u.went h .next) ∧ (u.info k.slot) = some { x with watch := some w } ∧
       w.line = lineOf (keyOf ps) ∧ w.gen = t.recGen k.slot ∧ (w.woke = true ↔ w.num = none) ∧
       (∀ n, w.num = some n → n < 16384 ∧
         ∀ y ∈ t.sched.tasks, y.1 ≠ k.slot → ∀ v, y.2.watch = some v → v.num ≠ some n)) ∧
  (∀ (s t : State) (h : Hdr) (g : Grp) (a b : SSrc), s.curEng.grp = some g →
     (∀ e, e = .L ∨ e = .S → e ≠ s.cur.2 → s.accessing s.cur.1 e g.no = false) → t = s.perform s.cur.1 →
     t.curCore.settled = true → ∀ x, x = s.val a →
     (∃ keep : TlbE → Bool,
       exec (.tlbinv h a b) s = .next ((t.modCore t.cur.1 (fun k => { k with tlb := k.tlb.filter keep })).retire h
         (some (.sc SVal.zero)) 0 .next) ∧
       ∀ e : TlbE, keep e = false ↔ e.ctx = t.curCore.ctx ∧ (s.val b = 0 ∨
         (e.vpage * 2 ^ e.log < bitsOf x 16 40 * 65536 + 65536 * (s.val b).toNat ∧
           bitsOf x 16 40 * 65536 < (e.vpage + 1) * 2 ^ e.log))) ∧
     (x.getLsbD 63 = true ∨ bitsOf x 16 47 = 0 → ∃ keep : BufE → Bool,
       exec (.bufinv h a) s = .next ((t.modCore t.cur.1 (fun k => { k with bufc := k.bufc.filter keep })).retire h
         (some (.sc SVal.zero)) 0 .next) ∧
       ∀ e : BufE, keep e = false ↔ x.getLsbD 63 = true ∨ (e.ctx = t.curCore.ctx ∧ e.idx = bitsOf x 0 16)) ∧
     (x.getLsbD 63 = false → bitsOf x 16 47 ≠ 0 → exec (.bufinv h a) s = .next (s.memberFault 0x0C (mkWord [(16, 48, 0), (12, 4, 1), (2, 10, 0), (0, 2, g.idx)]) 0 0 0)))

/-- TFENCE and TRAP (04 R75, R76, 02 R39): the trap they raise is owed by the group, and an enabled flag alone makes TFENCE
trap; FFLAGS stays. BKPT traps before its group issues, with its code and position in TRAPV and the PC of the first member (04
R76): nothing is reserved or retired. The trap owed by a group is taken when it has retired, with TRAPPC after the group (18
R309, R310). -/
def Obligations.TrapWords : Prop :=
  (∀ (s : State) (h : Hdr) (g : Grp) (code : BitVec 16), s.curEng.grp = some g → s.guardTrue h = true → g.owes = none →
     (s.curEng.csr.fflags &&& g.csr.fenab = 0 → exec (.tfence h) s = .next (s.went h .next)) ∧
     (s.curEng.csr.fflags &&& g.csr.fenab ≠ 0 → exec (.tfence h) s = .next ((s.modCur (fun x =>
       { x with grp := some { g with owes := some (.arith (s.curEng.csr.fflags &&& g.csr.fenab)) } })).went h .next)) ∧
     exec (.trap h code) s = .next ((s.modCur (fun x =>
       { x with grp := some { g with owes := some (.software code) } })).went h .next)) ∧
  (∀ (s : State) (h : Hdr) (code : BitVec 16), s.curEng.grp = none → s.curEng.restart = none → s.guardTrue h = true →
     h.pop = 0 → (s.curEng.sup ≠ none → h.post = 0) →
     exec (.bkpt h code) s =
       .next (s.takeTrap s.cur.1 s.cur.2 0x0B (mkWord [(16, 16, code.toNat), (0, 2, 0)]) s.curEng.pc)) ∧
  (∀ (s : State) (h : Hdr) (g : Grp) (d : Due), s.curEng.grp = some g → s.curCore.room s.cur.2 h.post = true →
     s.curCore.unlanded s.cur.2 = false → s.behind s.cur.1 s.cur.2 = false → s.unretired s.cur.1 s.cur.2 = false →
     g.owes = some d → g.idx + 1 = g.size → s.curEng.sup = none →
     ∃ u : State, (u.eng s.cur.1 s.cur.2).grp = none ∧ (u.eng s.cur.1 s.cur.2).csr.fflags = s.curEng.csr.fflags ∧
       s.went h .next = match d with
         | .arith b => u.takeTrap s.cur.1 s.cur.2 0x09 (mkWord [(16, 6, b.toNat)]) (g.pcOf g.size)
         | .software c => u.takeTrap s.cur.1 s.cur.2 0x0A (mkWord [(16, 16, c.toNat)]) (g.pcOf g.size))

/-- Taking a trap outside supervisor state (18 R303 to R305): TRAPC, TRAPV and TRAPPC are written and the section is kept as
the resume section; a cause with a handler enters it at word 0 with s24 to s31 set aside and reading 0 and a fresh ring; a
cause without one is delivered. What the engine has computed and not yet written (06 R95) is written first. Registers s1 to s23, the loop unit and the return stack stay. A trap in supervisor state is a
double trap (18 R308): it overwrites none of TRAPC, TRAPV and TRAPPC and delivers the task with cause 0x17 and the second
cause in bits 15 to 8. -/
def Obligations.TrapEntry : Prop :=
  (∀ (s : State) (c : Nat) (e : Eng) (cause : Nat) (v : Word) (pc : BitVec 16), (s.eng c e).sup = none → cause < 256 →
     cause ≠ 0x10 → ∀ t x, t = s.takeTrap c e cause v pc → x = t.eng c e →
     x.csr.trapc = BitVec.ofNat 8 cause ∧ x.csr.trapv = v ∧ x.csr.trappc = pc ∧ x.resume = (s.eng c e).sect ∧
     x.grp = none ∧ x.loops = (s.eng c e).loops ∧ x.stack = (s.eng c e).stack ∧
     (∀ n, n < 24 → x.reg n = (s.eng c e).reg n) ∧ (∀ e', e' ≠ e → t.eng c e' = s.eng c e') ∧ OnlyCore (s.land c e) t c ∧
     (∀ hd, s.handler cause = some hd → x.sect = hd ∧ x.pc = hd.base ∧ x.sup.isSome = true ∧ x.ring = [] ∧
       (∀ n, 24 ≤ n → n < 32 → x.reg n = SVal.zero)) ∧
     (s.handler cause = none → x.sup = none ∧ ∀ k, (s.core c).task = some k → ∃ k', (t.core c).task = some k' ∧
       k'.delivery = k.delivery ++ [{ cause := BitVec.ofNat 8 cause, detail := v, code := 0, eng := engIdx e, pc := pc,
                                      page := false }])) ∧
  (∀ (s : State) (c : Nat) (e : Eng) (cause : Nat) (v : Word) (pc : BitVec 16) (k : RunTask), (s.eng c e).sup.isSome = true →
     cause < 256 → (s.core c).task = some k → ∀ t, t = s.takeTrap c e cause v pc →
     (t.eng c e).csr.trapc = (s.eng c e).csr.trapc ∧ (t.eng c e).csr.trapv = (s.eng c e).csr.trapv ∧
     (t.eng c e).csr.trappc = (s.eng c e).csr.trappc ∧
     ∃ k' d, (t.core c).task = some k' ∧ k'.delivery = k.delivery ++ [d] ∧ d.cause = 0x17 ∧
       d.detail = BitVec.ofNat 64 (cause * 256) ∧ d.code = 0)

/-- ERET (04 R82, 18 R305, R307): when TRAPPC lies in the resume section the task's ring and s24 to s31 come back and the
stream goes on at TRAPPC there; the registers below s24 stay as the handler left them. -/
def Obligations.TrapReturn : Prop :=
  ∀ (s : State) (h : Hdr) (g : Grp) (u : Sup), s.Issuing h g → g.idx + 1 = g.size → s.guardTrue h = true →
    s.curEng.stopped = none → s.curEng.sup = some u → u.regs.length = 8 → s.curEng.resume.resumable s.curEng.csr.trappc = true →
    ∃ t, exec (.eret h) s = .next t ∧ t.curEng.sup = none ∧ t.curEng.ring = u.ring ∧ t.curEng.pc = s.curEng.csr.trappc ∧
      t.curEng.sect = s.curEng.resume ∧ t.curEng.grp = none ∧
      (∀ n, n < 24 → t.curEng.reg n = s.curEng.reg n) ∧
      (∀ n v, n < 8 → u.regs[n]? = some v → t.curEng.reg (24 + n) = v)

/-- CSRR gives the value at the issue of its group (04 R78, R80); of the registers that the group's snapshot holds, of the
position and of the task; and what the snapshot takes. CSRW writes the writable fields of a per-engine CSR (04 R78, R80); FFLAGS keeps what earlier members
of its group raised (02 R38), and a write that makes PHT equal to PHTM is a crossing (18 R327). A write of CTX, BTBASE or PTBASE first waits for the accesses that L and S issued before it (R81; its
WAITR.REASON is LOG 73's). -/
def Obligations.CsrAccess : Prop :=
  (∀ (s : State) (h : Hdr) (g : Grp) (d : SDst), s.curEng.grp = some g → s.guardTrue h = true →
     s.Reads h d .fflags (g.csr.fflags.setWidth 64) ∧ s.Reads h d .fenab (g.csr.fenab.setWidth 64) ∧
     s.Reads h d .frm (g.csr.frm.setWidth 64) ∧ s.Reads h d .cyc g.cyc ∧ s.Reads h d .gsc g.gsc ∧ s.Reads h d .pht g.csr.pht ∧
     s.Reads h d .phtm g.csr.phtm ∧ s.Reads h d .trapc (g.csr.trapc.setWidth 64) ∧ s.Reads h d .trapv g.csr.trapv ∧
     s.Reads h d .trappc (g.csr.trappc.setWidth 64) ∧ s.Reads h d .ctx (g.kcsr.1.setWidth 64) ∧
     s.Reads h d .core (BitVec.ofNat 64 s.cur.1) ∧ s.Reads h d .quad (BitVec.ofNat 64 (s.cur.1 / 4)) ∧
     s.Reads h d .die (BitVec.ofNat 64 (s.cur.1 / 128)) ∧ s.Reads h d .pkg (g.pkg.setWidth 64) ∧
     s.Reads h d .band g.band ∧
     (∀ w, w.toNat = g.csr.reason.toNat + (if g.csr.blocked then 256 else 0) → s.Reads h d .waitr w) ∧
     (∀ w, w.toNat = g.kcsr.2.1.toNat * 2 ^ 21 + g.kcsr.2.2.1.toNat → s.Reads h d .btbase w) ∧
     (∀ w, w.toNat = g.kcsr.2.2.2.toNat * 2 ^ 12 → s.Reads h d .ptbase w) ∧
     (∀ k, s.curCore.task = some k → s.Reads h d .rank (k.rank.setWidth 64) ∧ s.Reads h d .nrank (k.nrank.setWidth 64) ∧
       ∀ w, w.toNat = k.tile.toNat + 2 ^ 32 * k.lrec.toNat → s.Reads h d .task w)) ∧
  (∀ (s : State) (h : Hdr) (g : Grp) (a : SSrc) (v : Word), s.curEng.grp = some g → s.guardTrue h = true → v = s.val a →
     s.Puts h a .fflags (fun k => { k with fflags := v.setWidth 6 ||| g.flags }) ∧
     s.Puts h a .fenab (fun k => { k with fenab := v.setWidth 6 }) ∧ s.Puts h a .frm (fun k => { k with frm := v.setWidth 2 }) ∧
     (s.curEng.sup.isSome ∨ s.curEng.csr.phtm = 0 ∨ v ≠ s.curEng.csr.phtm → s.Puts h a .pht (fun k => { k with pht := v })) ∧
     (s.curEng.sup.isSome ∨ v = 0 ∨ v ≠ s.curEng.csr.pht → s.Puts h a .phtm (fun k => { k with phtm := v })) ∧
     (s.curEng.sup = none → s.curEng.csr.phtm ≠ 0 → v = s.curEng.csr.phtm → exec (.csrw h .pht a) s =
       .next ((s.modCur (fun x => { x with csr := { x.csr with pht := v }, phtDue := true })).went h .next)) ∧
     (s.curEng.sup = none → v ≠ 0 → v = s.curEng.csr.pht → exec (.csrw h .phtm a) s =
       .next ((s.modCur (fun x => { x with csr := { x.csr with phtm := v }, phtDue := true })).went h .next)) ∧
     s.Puts h a .trapc (fun k => { k with trapc := v.setWidth 8 }) ∧ s.Puts h a .trapv (fun k => { k with trapv := v }) ∧
     s.Puts h a .trappc (fun k => { k with trappc := v.setWidth 16 }) ∧
     (∀ t, (∀ e, e = .L ∨ e = .S → e ≠ s.cur.2 → s.accessing s.cur.1 e g.no = false) → t = s.perform s.cur.1 →
       t.curCore.settled = true →
       exec (.csrw h .ctx a) s = .next ((t.modCore t.cur.1 (fun k => { k with ctx := v.setWidth 16 })).went h .next) ∧
       exec (.csrw h .btbase a) s = .next ((t.modCore t.cur.1 (fun k =>
         { k with btbase := v.extractLsb' 21 35, btlast := v.setWidth 16 })).went h .next) ∧
       exec (.csrw h .ptbase a) s = .next ((t.modCore t.cur.1 (fun k => { k with ptroot := v.extractLsb' 12 44 })).went h .next)) ∧
     (∀ t, (∀ e, e = .L ∨ e = .S → e ≠ s.cur.2 → s.accessing s.cur.1 e g.no = false) → t = s.perform s.cur.1 →
       t.curCore.settled = false → exec (.csrw h .ctx a) s = .next (t.waitOn t.cur.1 t.cur.2 0x07)) ∧
     (∀ e, e = .L ∨ e = .S → e ≠ s.cur.2 → s.accessing s.cur.1 e g.no = true →
       exec (.csrw h .ctx a) s = .next (s.waitOn s.cur.1 s.cur.2 0x07))) ∧
  (∀ (s : State) (c n : Nat) (e : Eng), (s.eng c e).restart = none → ∀ g, g = s.openedGrp c e n →
     g.band.toNat = s.cryo.band.toNat + (if s.cryo.slip then 8 else 0) + 16 * s.cryo.st.toNat ∧ g.pkg = s.mgmt.pkg ∧
     g.cyc = s.cyc ∧ g.gsc = s.gsc c ∧ g.csr.fflags = (s.eng c e).csr.fflags ∧ g.csr.pht = (s.eng c e).csr.pht)

-- memory words

/-- LDS and STS on the scratchpad (04 R66, 01 R13, R14): a load brings the little-endian bytes at its offset, extended; a
store writes the low bytes of its source there and every other byte of memory reads as before. An access of the scratchpad
whose last byte lies at or beyond its length takes a bounds fault at the member, a misaligned one an alignment fault, and no
part of it is performed (01 R13, 04 R66, 18 R309). -/
def Obligations.ScratchpadAccess : Prop :=
  (∀ (s : State) (h : Hdr) (g : Grp) (sz : BitVec 2) (sx : Bool) (d : SDst) (a : SSrc) (m : MemOp) (off : Nat),
     s.Issuing h g → s.canon → s.cur.1 ≤ 255 → s.cur.2 ≠ .M → m.ord = .none → s.stor.ferryQ = [] →
     s.memRef m (2 ^ sz.toNat) = (0, (off : Int)) →
     off + 2 ^ sz.toNat ≤ s.curCore.spadLen → off % 2 ^ sz.toNat = 0 →
     ∀ key, key = spadKey s.cur.1 off → s.plainLine (lineOf key) → (∀ i, i < 2 ^ sz.toNat → s.freeKey (key + i)) →
     (∀ w : Word, (∀ i, i < 2 ^ sz.toNat → w.extractLsb' (8 * i) 8 = s.mem.read (key + i)) →
       (sx = false → ∀ k, 8 * 2 ^ sz.toNat ≤ k → w.getLsbD k = false) →
       (sx = true → ∀ k, 8 * 2 ^ sz.toNat ≤ k → k < 64 → w.getLsbD k = w.getLsbD (8 * 2 ^ sz.toNat - 1)) →
       exec (.lds h sz sx false d m) s = .next (s.wrote h d w 0)) ∧
     (∃ t, exec (.sts h sz a m) s = .next t ∧
       (∀ i, i < 2 ^ sz.toNat → t.mem.read (key + i) = (s.val a).extractLsb' (8 * i) 8) ∧
       (∀ k, k < key ∨ key + 2 ^ sz.toNat ≤ k → t.mem.read k = s.mem.read k) ∧
       (∀ n, t.curEng.reg n = s.curEng.reg n) ∧ t.curCore.v = s.curCore.v ∧ t.curCore.p = s.curCore.p ∧
       t.curEng.csr.fflags = s.curEng.csr.fflags ∧ t.evq = s.evq ∧ t.host = s.host ∧ t.cyc = s.cyc)) ∧
  (∀ (s : State) (h : Hdr) (g : Grp) (sz : BitVec 2) (sx : Bool) (d : SDst) (a : SSrc) (m : MemOp) (off : Int),
     s.curEng.grp = some g → s.cur.1 ≤ 255 → s.memRef m (2 ^ sz.toNat) = (0, off) →
     ∀ f : Nat → Nat → Nat → State, (∀ cause check kind, f cause check kind = s.memberFault cause
       (mkWord [(16, 48, (off % 2 ^ 48).toNat), (12, 4, check), (2, 10, 0), (0, 2, g.idx)]) 0 (off % 2 ^ 48).toNat kind) →
     (off < 0 ∨ (s.curCore.spadLen : Int) < off + 2 ^ sz.toNat →
       exec (.lds h sz sx false d m) s = .next (f 0x0C 5 0) ∧ exec (.sts h sz a m) s = .next (f 0x0C 5 2)) ∧
     (0 ≤ off → off + 2 ^ sz.toNat ≤ (s.curCore.spadLen : Int) → off % 2 ^ sz.toNat ≠ 0 →
       exec (.lds h sz sx false d m) s = .next (f 0x0F 6 0) ∧ exec (.sts h sz a m) s = .next (f 0x0F 6 2)))

/-- The scalar loads and stores through any buffer (04 R66, 12 R227, R228, 06 R100): with every check passed and nothing
holding the access back, LDS and CLD bring the bytes of their places, or poison of the first bad byte; STS stores the low
bytes. A load may return what its engine read ahead where no order of 13 stands between (13 R248; `State.loadByte`), and a CLD that
is not coherent what its quad's cache serves (13 R258). -/
def Obligations.ScalarMemoryWords : Prop :=
  ∀ (s t : State) (h : Hdr) (g : Grp) (sz : BitVec 2) (sx : Bool) (d : SDst) (a : SSrc) (m : MemOp) (buf : Nat) (off : Int)
    (ps : List (List Place)), s.curEng.grp = some g → s.memRef m (2 ^ sz.toNat) = (buf, off) →
    (s.Accesses m.ord buf (rForm .read (2 ^ sz.toNat)) [off] false ps t →
      ∀ u, u = t.prepare s.cur.1 s.curKid ps.flatten →
        exec (.lds h sz sx false d m) s = .next (((u.sawFlip m.ord ps.flatten).afterLoad s.cur.1 ps.flatten).loaded h d (scalarOf sx
          (ps.flatten.map (u.loadByte s.cur.1 s.curKid))))) ∧
    (s.Accesses m.ord buf (rForm .write (2 ^ sz.toNat)) [off] false ps t →
      exec (.sts h sz a m) s = .next ((t.storePlaces t.cur.1 t.curKid (2 * 2 ^ sz.toNat)
        (wholeBytes ps.flatten (leBytes (2 ^ sz.toNat) (s.val a).toNat)) (pinsLine m.ord)).went h .next)) ∧
    (s.Accesses .none buf (rForm .const (2 ^ sz.toNat)) [off] false ps t →
      (s.access s.whoCur buf (rForm .const (2 ^ sz.toNat)) [off]).1.curCore.coherent ps.flatten = true →
      ∀ u, u = t.prepare t.cur.1 t.curKid ps.flatten →
        exec (.cld h sz sx d m) s = .next ((u.afterLoad t.cur.1 ps.flatten).loaded h d (scalarOf sx
          (ps.flatten.map (u.loadByte t.cur.1 t.curKid))))) ∧
    (s.tablesHeld s.whoCur buf (rForm .const (2 ^ sz.toNat)) [off] = false →
      s.access s.whoCur buf (rForm .const (2 ^ sz.toNat)) [off] = (t, .ok ps) → t.curCore.coherent ps.flatten = false →
      t.roBlocked t.cur.1 t.curKid ps.flatten = none → t.stor.ferryQ = [] →
      ∃ u : State, exec (.cld h sz sx d m) s =
        .next (u.loaded h d (scalarOf sx (ps.flatten.map (u.roPlace (t.cur.1 / 4) t.curKid)))) ∧ u.cores = t.cores)

/-- The vector loads (12 R230, R231): VLD as sixteen pieces of 64 bytes, VLDS at a stride, VLDX by unpoisoned index lanes,
VLDB one element for all; a byte may be one that the engine read ahead (13 R248). -/
def Obligations.VectorLoads : Prop :=
  ∀ (s t r u : State) (h : Hdr) (g : Grp) (sz : BitVec 2) (d : VDst) (a : SSrc) (x : VSrc) (m : MemOp) (buf : Nat) (off : Int)
    (ps : List (List Place)), s.curEng.grp = some g → s.memRef m 64 = (buf, off) →
    r = t.prepare s.cur.1 s.curKid ps.flatten → u = (r.sawFlip m.ord ps.flatten).afterLoad s.cur.1 ps.flatten →
    ∀ bs : List (List (Byte × BitVec 4)), bs = ps.map (fun e => e.map (r.loadByte s.cur.1 s.curKid)) →
    (s.Accesses m.ord buf (pieceForm .read false) ((List.range 16).map (fun j => off + (64 * j : Nat))) false ps t →
      exec (.vld h false d m) s = .next (u.loadedV h d (vecOf bs.flatten))) ∧
    (s.Accesses m.ord buf (rForm .read (2 ^ sz.toNat))
        ((List.range (1024 / 2 ^ sz.toNat)).map (fun i => off + (i : Int) * (s.val a).toInt)) false ps t →
      exec (.vlds h sz false d a m) s = .next (u.loadedV h d (vecOf bs.flatten))) ∧
    ((∀ e ∈ ((s.vrd x).els 32).take (idxCount sz), e.bad = false) →
      s.Accesses m.ord buf (rForm .read (2 ^ sz.toNat))
        ((((s.vrd x).els 32).take (idxCount sz)).map (fun e => off + readInt true 32 e.bits * (2 ^ sz.toNat : Nat))) false ps t →
      ps.length = (((s.vrd x).els 32).take (idxCount sz)).length →
      exec (.vldx h sz false d x m) s = .next (u.loadedV h d (vecOf (padBytes bs.flatten)))) ∧
    (s.Accesses m.ord buf (rForm .read (2 ^ sz.toNat)) [off] false ps t →
      exec (.vldb h sz false d m) s =
        .next (u.loadedV h d (vecOf (List.replicate (1024 / 2 ^ sz.toNat) bs.flatten).flatten)))

/-- A speculative load whose operands carry no poison and whose plain form would pass every check is that plain load (06
R101). A speculative scalar load that fails a check of causes 1 to 5 raises no fault: its register is poisoned with data 0 and
the cause, and so it is, with no address formed, when its offset register is poisoned (06 R101). -/
def Obligations.SpeculativeLoads : Prop :=
  (∀ (s t : State) (h : Hdr) (g : Grp) (sz : BitVec 2) (sx : Bool) (d : SDst) (v : VDst) (a : SSrc) (m : MemOp) (buf : Nat)
     (off : Int) (ps : List (List Place)), s.curEng.grp = some g → m.ord = .none → (s.srd m.off).poison = false →
     (s.srd a).poison = false → (∀ b, m.buf = .reg b → (s.srd b).poison = false) →
     (s.memRef m (2 ^ sz.toNat) = (buf, off) → s.Accesses .none buf (rForm .read (2 ^ sz.toNat)) [off] false ps t →
       exec (.lds h sz sx true d m) s = exec (.lds h sz sx false d m) s) ∧
     (s.memRef m 64 = (buf, off) → s.Accesses .none buf (pieceForm .read false) (pieces16 off) false ps t →
       exec (.vld h true v m) s = exec (.vld h false v m) s) ∧
     (s.memRef m 64 = (buf, off) →
       s.Accesses .none buf (rForm .read (2 ^ sz.toNat)) (strided off (s.val a).toInt (1024 / 2 ^ sz.toNat)) false ps t →
       exec (.vlds h sz true v a m) s = exec (.vlds h sz false v a m) s) ∧
     (s.memRef m 64 = (buf, off) → s.Accesses .none buf (rForm .read (2 ^ sz.toNat)) [off] false ps t →
       exec (.vldb h sz true v m) s = exec (.vldb h sz false v m) s)) ∧
  (∀ (s : State) (h : Hdr) (g : Grp) (sz : BitVec 2) (sx : Bool) (d : SDst) (m : MemOp) (buf : Nat) (off : Int),
     s.curEng.grp = some g → m.ord = .none → (∀ b, m.buf = .reg b → (s.srd b).poison = false) →
     s.memRef m (2 ^ sz.toNat) = (buf, off) →
     ((s.srd m.off).poison = true → exec (.lds h sz sx true d m) s =
       .next (s.loaded h d { val := 0, poison := true, cause := (s.srd m.off).cause })) ∧
     ((s.srd m.off).poison = false → s.tablesHeld s.whoCur buf (rForm .read (2 ^ sz.toNat)) [off] = false →
       ∀ x, (s.access s.whoCur buf (rForm .read (2 ^ sz.toNat)) [off]).2 = .error x →
       x.fail.cause < 16 → x.fail.cause ≠ 0 →
       ∃ t : State, exec (.lds h sz sx true d m) s =
         .next (t.loaded h d { val := 0, poison := true, cause := BitVec.ofNat 4 x.fail.cause })))

/-- The vector stores (12 R230 to R232) store the bytes of their source in order at the offsets of their form; VSTN writes the
nibbles that its mask register selects and no other. The number is the nibbles of a unit (13 R246). -/
def Obligations.VectorStores : Prop :=
  ∀ (s t : State) (h : Hdr) (g : Grp) (sz : BitVec 2) (a x : VSrc) (d : SSrc) (m : MemOp) (buf : Nat) (off : Int)
    (ps : List (List Place)), s.curEng.grp = some g → s.memRef m 64 = (buf, off) →
    ∀ (bs : List Byte), bs.length = 1024 → (∀ i, i < 1024 → bs[i]? = some ((s.vrd a).data.extractLsb' (8 * i) 8)) →
    ∀ put : Nat → List (Place × Byte × Byte) → State,
      (∀ n l, put n l = (t.storePlaces t.cur.1 t.curKid n l (pinsLine m.ord)).went h .next) →
    (s.Accesses m.ord buf (pieceForm .write false) (pieces16 off) false ps t →
      exec (.vst h a m) s = .next (put 16 (wholeBytes ps.flatten bs))) ∧
    (s.Accesses m.ord buf (rForm .write (2 ^ sz.toNat))
        ((List.range (1024 / 2 ^ sz.toNat)).map (fun i => off + (i : Int) * (s.val d).toInt)) false ps t →
      exec (.vsts h sz a d m) s = .next (put (2 * 2 ^ sz.toNat) (wholeBytes ps.flatten bs))) ∧
    (s.Accesses m.ord buf (rForm .write (2 ^ sz.toNat))
        ((((s.vrd x).els 32).take (idxCount sz)).map (fun e => off + readInt true 32 e.bits * (2 ^ sz.toNat : Nat))) false ps t →
      exec (.vstx h sz a x m) s = .next (put (2 * 2 ^ sz.toNat) (wholeBytes ps.flatten (bs.take (idxCount sz * 2 ^ sz.toNat))))) ∧
    (s.Accesses m.ord buf (pieceForm .write true) (pieces16 off) false ps t →
      ∀ ms : List Byte, ms.length = 1024 → (∀ i, i < 1024 → ms[i]? = some
        ((if (s.vrd x).data.getLsbD (2 * i) then 0x0F else 0) ||| (if (s.vrd x).data.getLsbD (2 * i + 1) then 0xF0 else 0))) →
      exec (.vstn h a x m) s = .next (put 1 ((ps.flatten.zip (bs.zip ms)).map (fun y => (y.1, y.2.1, y.2.2)))))

/-- A store to places of the core's own storage on plain lines changes the bytes it names and no other byte of memory (01 R14,
12 R225); a store that goes out through the core's write path, or into lines that its L1 holds, changes no byte at home as it
issues, and no other core, while no core has performed a write at a scope that takes in this one (13 R245). -/
def Obligations.StoreFrame : Prop :=
  ∀ (t : State) (c kid n : Nat) (xs : List (Place × Byte × Byte)) (pin : Bool), t.mem.wf = true →
    (∀ x ∈ xs, x.1.whole = true ∧ x.1.far_ = none) →
    ((∀ x ∈ xs, x.1.kind = .loc ∧ x.2.2 = 0xFF ∧ 2 ^ 56 ≤ x.1.key ∧ t.plainLine (lineOf x.1.key)) →
      ∀ k, (∀ x ∈ xs, x.1.key ≠ k) → (t.storePlaces c kid n xs pin).mem.read k = t.mem.read k) ∧
    ((∀ y ∈ t.cores, (∀ z ∈ y.2.l1, z.2.rank = 0) ∧ ∀ w ∈ y.2.wq, w.rank = 0) →
      ((∀ x ∈ xs, x.1.kind ≠ .loc ∧ x.1.kind ≠ .cached ∧ (t.core c).l1.has (lineOf x.1.key) = false) →
        (t.storePlaces c kid n xs pin).mem = t.mem ∧ ∀ c', c' ≠ c → (t.storePlaces c kid n xs pin).core c' = t.core c') ∧
      ((∀ x ∈ xs, x.1.kind = .cached ∧ (t.core c).l1.has (lineOf x.1.key) = true ∧
          (t.core c).owes [lineOf x.1.key] = false) → (t.core c).l1On = true →
        (t.storePlaces c kid n xs pin).mem = t.mem ∧ ∀ c', c' ≠ c → (t.storePlaces c kid n xs pin).core c' = t.core c'))

/-- AMO and CAS at the place of performance (12 R233, R234): the old value comes back, or nothing with D = s0; CAS writes
exactly when what it finds equals its compare value. One integer atomic operation on the bits it reads (12 R233), and AMOV as
one atomic for each element in element order (R235). -/
def Obligations.AtomicWords : Prop :=
  (∀ (s t : State) (h : Hdr) (g : Grp) (op : AmoOp) (sz : BitVec 2) (d : SDst) (a : SSrc) (m : MemOp) (buf : Nat) (off : Int)
     (ps : List (List Place)), s.curEng.grp = some g → s.memRef m (2 ^ sz.toNat) = (buf, off) →
     ∀ u, u = t.noteAtomic ps.flatten →
     (s.Accesses m.ord buf (atomForm (amoHost op sz) (2 ^ sz.toNat)) [off] true ps t →
       ∀ w old, u.atomic u.cur.1 u.curKid (keyOf ps) op (amoTy op sz) (s.val a)
           (if d = .s 0 then some (u.giver buf off.toNat) else none) = (w, .ok old) →
         (d = .s 0 → exec (.amo h op sz d a m) s = .next (w.retire h (some (.sc SVal.zero)) 0 .next)) ∧
         (d ≠ .s 0 → ∃ v : Word, exec (.amo h op sz d a m) s = .next (w.wrote h d v 0) ∧
           v.toNat % 2 ^ (8 * 2 ^ sz.toNat) = old % 2 ^ (8 * 2 ^ sz.toNat))) ∧
     (s.Accesses m.ord buf (atomForm (sz == 2 || sz == 3) (2 ^ sz.toNat)) [off] true ps t →
       ∀ w, w = (u.toHome u.cur.1 (lineOf (keyOf ps))).reach [lineOf (keyOf ps)] → w.badAt (keyOf ps) = 0 → d ≠ .s 0 →
       ∀ old, old = w.homeNat u.curKid (keyOf ps) (2 ^ sz.toNat) →
         (old = (s.sold d).val.toNat % 2 ^ (8 * 2 ^ sz.toNat) →
           exec (.cas h sz d a m) s = .next ((w.putHome u.curKid (natCells (keyOf ps) (2 ^ sz.toNat) (s.val a).toNat)).wrote h d
             (BitVec.ofNat 64 old) 0)) ∧
         (old ≠ (s.sold d).val.toNat % 2 ^ (8 * 2 ^ sz.toNat) →
           exec (.cas h sz d a m) s = .next (w.wrote h d (BitVec.ofNat 64 old) 0)))) ∧
  ((∀ (w old x : Nat), 0 < w → old < 2 ^ w → x < 2 ^ w →
     amoInt .add w old x = (old + x) % 2 ^ w ∧ amoInt .and w old x = old &&& x ∧ amoInt .or w old x = old ||| x ∧
     amoInt .xor w old x = old ^^^ x ∧ amoInt .swap w old x = x ∧ amoInt .minn w old x = Nat.min old x ∧
     amoInt .maxn w old x = Nat.max old x ∧
     readInt true w (amoInt .min w old x) = Min.min (readInt true w old) (readInt true w x) ∧
     readInt true w (amoInt .max w old x) = Max.max (readInt true w old) (readInt true w x)) ∧
   (∀ (s t : State) (h : Hdr) (g : Grp) (op : AmoOp) (ty : Ty) (a : VSrc) (m : MemOp) (buf : Nat) (off : Int)
     (ps : List (List Place)), s.curEng.grp = some g → s.memRef m 0 = (buf, off) →
     s.Accesses m.ord buf (atomForm false (ty.width / 8))
       ((List.range (1024 / (ty.width / 8))).map (fun i => off + (i : Int) * (ty.width / 8 : Nat))) true ps t →
     exec (.amov h op ty a m) s = .next (((t.noteAtomic ps.flatten).amovRun op ty buf off (ty.width / 8) 0
       (((s.vrd a).els ty.width).map El.bits) ps).went h .next)))

/-- FENCE and LFENCE (12 R239, 13 R244, R248, R255, R256): FENCE is LFENCE of every layer; over the scratchpad alone nothing is to
be done; else the earlier writes of the layers it names are performed at the scope, of layer H alone beyond the core, or the engine
waits inside the word; a core whose writes are all performed, as are those it may have synchronised with (LOG 12), does not wait. BARR (10 R168): an engine
that arrives waits inside the word with its level and cycle noted; it goes on once its episode is complete. -/
def Obligations.FenceBarrierWords : Prop :=
  (∀ (s : State) (h : Hdr) (g : Grp) (sc : Scope) (mask : BitVec 4), s.curEng.grp = some g →
     exec (.fence h sc) s = exec (.lfence h sc 0xF) s ∧
     (mask &&& 0xE = 0 → exec (.lfence h sc mask) s = .next (s.went h .next)) ∧
     (mask &&& 0xE ≠ 0 → ∀ r t, (mask.getLsbD 3 = true ∧ r = scopeRank sc ∨ mask.getLsbD 3 = false ∧ r = 0) →
       t = s.releaseAt s.cur.1 s.cur.2 r mask →
       (s.curCore.settled = true → (∀ x ∈ s.cores, x.1 ≠ s.cur.1 → x.2.lentVia s.cur.1 = false) →
         t.released s.cur.1 r mask = true) ∧
       (t.released s.cur.1 r mask = true → ∀ u, u = t.fenced t.cur.1 t.cur.2 r mask →
         exec (.lfence h sc mask) s = .next (u.went h .next) ∧
         u.curCore.epoch = t.curCore.epoch + (if mask.getLsbD 3 then 1 else 0) ∧ u.mem = t.mem) ∧
       (t.released s.cur.1 r mask = false → ∃ u : State, exec (.lfence h sc mask) s = .next u ∧
         u.curEng.inside = some .fence ∧ u.curEng.csr.blocked = true ∧ u.curEng.csr.reason = 0x07 ∧ u.curEng.grp = t.curEng.grp))) ∧
  (∀ (s : State) (h : Hdr) (g : Grp) (lv : Level), s.curEng.grp = some g → s.guardTrue h = true →
     (s.curEng.arrived = none → ∃ t, exec (.barr h lv) s = .next t ∧ t.curEng.inside = some (.barr lv) ∧
       t.curEng.arrived = some (levelRank lv, s.cyc.toNat + 1) ∧ t.curEng.csr.blocked = true ∧ t.curEng.csr.reason = 0x06 ∧
       t.curEng.grp = some g ∧ OnlyCore s t s.cur.1) ∧
     (∀ l, s.curEng.arrived = some (l, 0) →
       exec (.barr h lv) s =
         .next (((s.syncAhead s.cur.1 s.cur.2).modCur (fun x => { x with arrived := none })).went h .next)))

/-- A barrier object (12 R240 to R242): a credit adds to the pending count, arming sets the expected count, and each flips the
phase at most once, when the expected count is not 0 and has been reached. BOARM, BOADD and BOWAIT on an object (12 R242,
R387): the object as the rule changes it is written whole; BOWAIT goes on with word 0 once the phase differs from bit 0 of A,
its core's clean lines gone if it acquires (13 R260), and waits inside the word until then. -/
def Obligations.BarrierObjectWords : Prop :=
  (∀ (b : BoVal) (n : Nat), b.phase < 2 → b.expect < 2 ^ 48 → b.pend < 2 ^ 48 → b.flips < 2 ^ 16 → n < 2 ^ 48 →
     (∀ p, p = (b.pend + n) % 2 ^ 48 →
       (b.expect ≠ 0 → b.expect ≤ p → b.Flipped (b.credit n) ∧ (b.credit n).pend = p - b.expect) ∧
       (b.expect = 0 ∨ p < b.expect → b.Still (b.credit n) ∧ (b.credit n).pend = p) ∧ (b.credit n).expect = b.expect) ∧
     (n ≠ 0 → n ≤ b.pend → b.Flipped (b.arm n) ∧ (b.arm n).pend = b.pend - n) ∧
     (n = 0 ∨ b.pend < n → b.Still (b.arm n) ∧ (b.arm n).pend = b.pend) ∧ (b.arm n).expect = n ∧
     BoVal.ofWords b.word0 b.word1 = b) ∧
  (∀ (s t : State) (h : Hdr) (g : Grp) (d : SDst) (a : SSrc) (m : MemOp) (buf : Nat) (off : Int) (ps : List (List Place)),
     s.curEng.grp = some g → s.memRef m 16 = (buf, off) →
     (s.Accesses m.ord buf (boForm (.atomic false)) [off] true ps t →
       ∀ r v u, r = (t.noteAtomic ps.flatten).toHome t.cur.1 (lineOf (keyOf ps)) →
         v = (match Order.releases m.ord with
           | some sc => (r.reach [lineOf (keyOf ps)]).creditAllAhead (keyOf ps)
               ((r.reach [lineOf (keyOf ps)]).boAt r.curKid (keyOf ps)).flips
               (fun c => nearness r.cur.1 c ≤ roleRank sc ps.flatten)
           | none => r) → u = v.reach [lineOf (keyOf ps)] →
         u.boBad (keyOf ps) = false → ∀ n, n = bitsOf (s.val a) 0 48 →
         exec (.boarm h a m) s =
           .next ((u.boPut v.curKid (keyOf ps) ((u.boAt v.curKid (keyOf ps)).arm n)).went h .next) ∧
         exec (.boadd h a m) s =
           .next ((u.boPut v.curKid (keyOf ps) ((u.boAt v.curKid (keyOf ps)).credit n)).went h .next)) ∧
     (s.Accesses .none buf (boForm .read) [off] true ps t →
       ∀ u, u = (t.toHome t.cur.1 (lineOf (keyOf ps))).reach [lineOf (keyOf ps)] → u.boBad (keyOf ps) = false →
       ∀ v, v = (match Order.acquires m.ord with
         | some sc => (u.acquireL1 u.cur.1 (roleRank sc ps.flatten)).flipAhead u.cur.1 u.cur.2 (keyOf ps)
             (u.boAt u.curKid (keyOf ps)).flips
         | none => u).afterStore u.cur.1 u.cur.2 ps.flatten →
         ((u.boAt u.curKid (keyOf ps)).phase ≠ bitsOf (s.val a) 0 1 → ∃ w : Word,
           exec (.bowait h d a m) s = .next (v.wrote h d w 0) ∧
           (BoVal.ofWords w 0).phase = (u.boAt u.curKid (keyOf ps)).phase ∧
           (BoVal.ofWords w 0).expect = (u.boAt u.curKid (keyOf ps)).expect) ∧
         ((u.boAt u.curKid (keyOf ps)).phase = bitsOf (s.val a) 0 1 → exec (.bowait h d a m) s =
           .next ((u.modCur (fun x => { x with inside := some (.bowait (u.curEng.inside == some (.bowait true))) })).waitOn
             u.cur.1 u.cur.2 0x08))))

-- vector words

/-- The lane words of 07: what each computes on the elements of the active lanes, with FRM as it stood before the group (02
R30, R38). -/
def Obligations.VectorLaneWords : Prop :=
  ∀ (s : State) (h : Hdr) (g : Grp) (t : Ty) (rm : RM) (sat : Bool) (d : VDst) (a c : VSrc) (b : VSSrc),
    s.curEng.grp = some g → ∀ mode, mode = resolveRM g.csr.frm rm →
    (exec (.vadd h t rm sat d a b) s = .next (s.lanes2 h t d a b (vaddElem t mode sat)) ∧
      exec (.vsub h t rm sat d a b) s = .next (s.lanes2 h t d a b (vsubElem t mode sat)) ∧
      exec (.vmul h t rm sat d a b) s = .next (s.lanes2 h t d a b (vmulElem t mode sat)) ∧
      exec (.vmulh h t d a b) s = .next (s.lanes2 h t d a b (vmulhElem t)) ∧
      exec (.vfma h t rm sat d a b c) s = .next (s.lanes3 h t d a b c (fuseElem .ma t mode sat)) ∧
      exec (.vfms h t rm sat d a b c) s = .next (s.lanes3 h t d a b c (fuseElem .ms t mode sat)) ∧
      exec (.vfnma h t rm sat d a b c) s = .next (s.lanes3 h t d a b c (fuseElem .nma t mode sat)) ∧
      exec (.vmin h t d a b) s = .next (s.lanes2 h t d a b (vminmaxElem false t)) ∧
      exec (.vmax h t d a b) s = .next (s.lanes2 h t d a b (vminmaxElem true t)) ∧
      exec (.vabs h t sat d a) s = .next (s.lanes1 h t d a (vabsElem t sat)) ∧
      exec (.vneg h t sat d a) s = .next (s.lanes1 h t d a (vnegElem t sat))) ∧
    (exec (.vand h t d a b) s = .next (s.lanes2 h t d a b (fun x y => (x &&& y, 0))) ∧
      exec (.vor h t d a b) s = .next (s.lanes2 h t d a b (fun x y => (x ||| y, 0))) ∧
      exec (.vxor h t d a b) s = .next (s.lanes2 h t d a b (fun x y => (x ^^^ y, 0))) ∧
      exec (.vshl h t d a b) s = .next (s.lanes2 h t d a b (vshlElem t)) ∧
      exec (.vshr h t d a b) s = .next (s.lanes2 h t d a b (vshrElem t)) ∧
      exec (.vsra h t d a b) s = .next (s.lanes2 h t d a b (vsraElem t)) ∧
      exec (.vclassV h t d a) s = .next (s.lanes1 h t d a (fun x => (classOf t x, 0))) ∧
      exec (.vldexp h t rm sat d a b) s = .next (s.lanes2 h t d a b (ldexpElem (flFmt t) mode sat))) ∧
    (∀ f : Fun, ∀ i, i = (match f with
        | .rcp => .vrcp h t rm sat d a | .rsq => .vrsq h t rm sat d a | .sqrt => .vsqrt h t rm sat d a
        | .exp2 => .vexp2 h t rm sat d a | .log2 => .vlog2 h t rm sat d a | .sin => .vsin h t rm sat d a
        | .cos => .vcos h t rm sat d a | .tanh => .vtanh h t rm sat d a | .sig => .vsig h t rm sat d a) →
      exec i s = .next (s.lanes1 h t d a (f.elem (flFmt t) mode sat)))

/-- The lane model (06 R98, R102, 07 R105): an active lane whose sources are sound takes the value of its elements, an
inactive element keeps its bits, and an active element with a poisoned source is poisoned with data 0. A predicate write (06
R97): every byte of an active element takes the element's bit, every other bit stays; and what is read back at the same width
is what was written. The ordered comparisons of integer elements (07 R118), and a selected lane takes the data and the poison
of the chosen source (R119, 06 R103). -/
def Obligations.LaneRules : Prop :=
  (∀ (w i : Nat) (old a b : VVal) (act : List Bool) (f : Nat → Nat → Nat × FlagSet), w ∈ [4, 8, 16, 32, 64] →
     act.length = 8192 / w → i < 8192 / w →
     ∀ r, r = (vmap2 w old act (a.operand w) (b.operand w) f).1 →
     ((∀ j, w * j / 32 = w * i / 32 → act.getD j false = true → (elAt w a j).bad = false ∧ (elAt w b j).bad = false) →
       (act.getD i false = true →
         (elAt w r i).bits = (f (elAt w a i).bits (elAt w b i).bits).1 % 2 ^ w ∧ (32 ≤ w → (elAt w r i).bad = false)) ∧
       (act.getD i false = false → (elAt w r i).bits = (elAt w old i).bits)) ∧
     (act.getD i false = true → ((elAt w a i).bad = true ∨ (elAt w b i).bad = true) →
       (elAt w r i).bits = 0 ∧ (elAt w r i).bad = true)) ∧
  (∀ (w k : Nat) (old : PBits) (act l : List Bool), w ∈ [8, 16, 32, 64] → act.length = 8192 / w → l.length = 8192 / w → k < 1024 →
     (predWrite w old act l).getLsbD k =
       (if act.getD (8 * k / w) false then l.getD (8 * k / w) false else old.getLsbD k) ∧
     ((∀ i, i < 8192 / w → act.getD i false = true) → predLanes w (predWrite w old act l) = l)) ∧
  ((∀ (t : Ty) (x y : Nat), t.isInt = true → x < 2 ^ t.width → y < 2 ^ t.width →
     ((vcmpElem .eq t x y).1 = true ↔ elInt t x = elInt t y) ∧ ((vcmpElem .ne t x y).1 = true ↔ elInt t x ≠ elInt t y) ∧
     ((vcmpElem .lt t x y).1 = true ↔ elInt t x < elInt t y) ∧ ((vcmpElem .le t x y).1 = true ↔ elInt t x ≤ elInt t y) ∧
     ((vcmpElem .gt t x y).1 = true ↔ elInt t y < elInt t x) ∧ ((vcmpElem .ge t x y).1 = true ↔ elInt t y ≤ elInt t x)) ∧
   (∀ (w i : Nat) (old b c : VVal) (act pick : List Bool), w ∈ [32, 64] → act.length = 8192 / w → pick.length = 8192 / w →
     i < 8192 / w → act.getD i false = true →
     ∀ e, e = (if pick.getD i false then elAt w b i else elAt w c i) →
     ∀ r, r = (vselect w old act pick (b.operand w) (c.operand w)).1 →
       (elAt w r i).bad = e.bad ∧ (e.bad = false → (elAt w r i).bits = e.bits) ∧ (e.bad = true → (elAt w r i).bits = 0)))

/-- The integer elements (02 R23, 07 R110 to R114, R117): exact, then wrapped or clamped with SAT and NX; a shift counts by
the low log2 w bits of b. A finite value that the format represents is delivered as itself, with no flag, in every rounding
mode (02 R31). -/
def Obligations.ElementValues : Prop :=
  (∀ (t : Ty) (mode : Rnd) (sat : Bool) (x y z : Nat), t.isInt = true → x < 2 ^ t.width → y < 2 ^ t.width → z < 2 ^ t.width →
     vaddElem t mode sat x y = intSpec t sat (elInt t x + elInt t y) ∧
     vsubElem t mode sat x y = intSpec t sat (elInt t x - elInt t y) ∧
     vmulElem t mode sat x y = intSpec t sat (elInt t x * elInt t y) ∧
     fuseElem .ma t mode sat x y z = intSpec t sat (elInt t x * elInt t y + elInt t z) ∧
     fuseElem .ms t mode sat x y z = intSpec t sat (elInt t x * elInt t y - elInt t z) ∧
     fuseElem .nma t mode sat x y z = intSpec t sat (elInt t z - elInt t x * elInt t y) ∧
     vabsElem t sat x = intSpec t sat (if elInt t x < 0 then -elInt t x else elInt t x) ∧
     vnegElem t sat x = intSpec t sat (-elInt t x) ∧
     vmulhElem t x y = intSpec t false (elInt t x * elInt t y / 2 ^ t.width) ∧
     elInt t (vminmaxElem false t x y).1 = Min.min (elInt t x) (elInt t y) ∧
     elInt t (vminmaxElem true t x y).1 = Max.max (elInt t x) (elInt t y) ∧
     vshlElem t x y = (x <<< (y % t.width) % 2 ^ t.width, 0) ∧ vshrElem t x y = (x >>> (y % t.width), 0)) ∧
  (∀ (t : Ty) (mode : Rnd) (sat n : Bool) (x m : Nat) (e : Int), t.isFl = true → x < 2 ^ t.width →
     (flFmt t).read x = .fin n m e → m ≠ 0 → (flFmt t).round mode sat n m e = (x, 0))

/-- The compare, select, class and predicate words (07 R118 to R120, 08 R140 to R143). -/
def Obligations.PredicateWords : Prop :=
  ∀ (s : State) (h : Hdr) (g : Grp) (t : Ty) (vc : VCond) (d a b : Fin 16) (v : VDst) (x c : VSrc) (y : VSSrc) (sd : SDst)
    (sa : SSrc), s.curEng.grp = some g →
    ∀ (act la lb : List Bool) (put : List Bool → PBits × FlagSet), act = s.act h t.width →
      la = predLanes t.width (s.prd a) → lb = predLanes t.width (s.prd b) →
      (∀ l, put l = (predWrite t.width (s.pold d) act l, 0)) →
    exec (.pand h t d a b) s = .next (s.predOut h d (put (la.zipWith (· && ·) lb))) ∧
    exec (.por h t d a b) s = .next (s.predOut h d (put (la.zipWith (· || ·) lb))) ∧
    exec (.pxor h t d a b) s = .next (s.predOut h d (put (la.zipWith (· != ·) lb))) ∧
    exec (.pnot h t d a) s = .next (s.predOut h d (put (la.map not))) ∧
    exec (.pmov h t d a sa) s = .next (s.predOut h d (put (la.map (fun z => z && (s.val sa).getLsbD 0)))) ∧
    exec (.pcnt h t sd a) s =
      .next (s.wrote h sd (BitVec.ofNat 64 ((act.zipWith (· && ·) la).countP id)) 0) ∧
    (∀ k, (k < (act.zipWith (· && ·) la).length → (act.zipWith (· && ·) la).getD k false = true) →
      k ≤ (act.zipWith (· && ·) la).length → (∀ j, j < k → (act.zipWith (· && ·) la).getD j false = false) →
      exec (.pfirst h t sd a) s = .next (s.wrote h sd (BitVec.ofNat 64 k) 0)) ∧
    exec (.vcmp h vc t d x y) s = .next (s.predOut h d
      (vcompare t.width (s.pold d) act ((s.vrd x).operand t.width) (s.vsrd t.width y) (vcmpElem vc t))) ∧
    exec (.vclassP h t d x sa) s = .next (s.predOut h d
      (put (((s.vrd x).els t.width).map (fun e => (s.val sa).getLsbD (classOf t e.bits))))) ∧
    exec (.vsel h t v a y c) s = .next (s.vecOut h v
      (vselect t.width (s.vold v) act la (s.vsrd t.width y) ((s.vrd c).operand t.width)))

/-- The reductions and the scan (07 R121 to R123): their whole result, and for integers that VRADD is the exact sum of the
active elements and VRMAX and VRMIN the extreme one, in element 0. -/
def Obligations.ReductionWords : Prop :=
  ∀ (s : State) (h : Hdr) (g : Grp) (t : Ty) (rm : RM) (sat : Bool) (d : VDst) (a : VSrc), s.curEng.grp = some g →
    ∀ mode act x, mode = resolveRM g.csr.frm rm → act = s.act h t.width → x = (s.vrd a).operand t.width →
    exec (.vradd h t rm sat d a) s = .next (s.vecOut h d (vradd t mode sat act x)) ∧
    exec (.vrmax h t d a) s = .next (s.vecOut h d (vrminmax true t act x)) ∧
    exec (.vrmin h t d a) s = .next (s.vecOut h d (vrminmax false t act x)) ∧
    exec (.vscan h t rm sat d a) s = .next (s.vecOut h d (vscan t mode sat (s.vold d) act x)) ∧
    (t.isInt = true → (∀ e ∈ activeEls act x.els, e.bad = false) →
      ∀ wide, wide = (if t.isSigned then Ty.i64 else Ty.n64) →
      ∀ sum : Int, sum = ((activeEls act x.els).map (fun e => elInt t e.bits)).sum →
        elAt 64 (vradd t mode sat act x).1 0 = { bits := (intSpec wide sat sum).1, bad := false } ∧
        (vradd t mode sat act x).2 = (intSpec wide sat sum).2 ∧ (∀ j, 0 < j → j < 128 → elAt 64 (vradd t mode sat act x).1 j =
          { bits := 0, bad := false }) ∧
        (activeEls act x.els ≠ [] →
          (∃ e ∈ activeEls act x.els, (elAt t.width (vrminmax true t act x).1 0).bits = e.bits) ∧
          ∀ e ∈ activeEls act x.els,
            elInt t e.bits ≤ elInt t (elAt t.width (vrminmax true t act x).1 0).bits ∧
            elInt t (elAt t.width (vrminmax false t act x).1 0).bits ≤ elInt t e.bits))

/-- The conversion and quantisation words (08 R124 to R131): their whole result; VQMX writes D and its scales in B. -/
def Obligations.ConversionWords : Prop :=
  ∀ (s : State) (h : Hdr) (g : Grp) (dt st : Ty) (rm : RM) (sat : Bool) (part : BitVec 3) (d b : VDst) (a c : VSrc),
    s.curEng.grp = some g → ∀ mode act n, mode = resolveRM g.csr.frm rm → act = s.act h dt.width → n = part.toNat →
    exec (.vcvt h dt st rm sat part d a) s = .next (s.vecOut h d (vcvt dt st mode sat n (s.vold d) act (s.vrd a))) ∧
    exec (.vunpk h dt st rm sat part d a) s = .next (s.vecOut h d (vunpk dt st mode sat n (s.vold d) act (s.vrd a))) ∧
    exec (.vpack h dt st rm sat d a c) s = .next (s.vecOut h d (vpack dt st mode sat (s.vold d) act (s.vrd a) (s.vrd c))) ∧
    exec (.vdqmx h dt st rm sat part d a c) s =
      .next (s.vecOut h d (vdqmx dt st mode sat n (s.vold d) act (s.vrd a) (s.vrd c))) ∧
    (∀ r, r = vqmx dt st mode n (s.vold d) (s.vold b) act (s.vrd a) →
      exec (.vqmx h dt st rm sat part d b a) s =
        .next (((s.vwr d r.1).vwr b r.2.1).retire h (some (.vec r.1)) r.2.2 .next))

/-- The permutations and the poison words (08 R133 to R139, R144): their whole result; VEXTS under a guard that leaves its
lane out is a guarded-off word. Where the permutations take each element from, when every lane is active and sound (08 R134 to
R137). -/
def Obligations.PermuteWords : Prop :=
  (∀ (s : State) (h : Hdr) (g : Grp) (t : Ty) (lane : BitVec 11) (d : VDst) (sd : SDst) (a b : VSrc) (c : SSrc) (p : Fin 16),
     s.curEng.grp = some g → ∀ act, act = s.act h t.width → ∀ old, old = s.vold d →
     exec (.vperm h t d a b) s = .next (s.vecOut h d (vperm t old act (s.vrd a) (s.vrd b))) ∧
     exec (.vshuf h t d a b c) s = .next (s.vecOut h d (vshuf t old act (s.vrd a) (s.vrd b) (s.srd c))) ∧
     exec (.vbcst h t lane d a) s = .next (s.vecOut h d (vbcst t lane.toNat old act (s.vrd a))) ∧
     exec (.vins h t lane d a c) s = .next (s.vecOut h d (vins t lane.toNat old act (s.vrd a) (s.srd c))) ∧
     exec (.vcomp h t d a p) s = .next (s.vecOut h d (vcomp t old act (predLanes t.width (s.prd p)) (s.vrd a))) ∧
     exec (.vexpd h t d a p) s = .next (s.vecOut h d (vexpd t old act (predLanes t.width (s.prd p)) (s.vrd a))) ∧
     exec (.vpclr h t d a) s = .next (s.vecOut h d (vpclr t old act (s.vrd a))) ∧
     exec (.vpchk h t d a) s = .next (s.vecOut h d (vpchk t old act (s.vrd a))) ∧
     (act.getD lane.toNat false = true → (elAt t.width (s.vrd a) lane.toNat).bad = false →
       exec (.vexts h t lane sd a) s = .next (s.wrote h sd
         (BitVec.ofInt 64 (elInt t (elAt t.width (s.vrd a) lane.toNat).bits)) 0)) ∧
     (act.getD lane.toNat false = false →
       exec (.vexts h t lane sd a) s = .next (s.retire h (some (.sc (s.sold sd))) 0 .next))) ∧
  (∀ (t : Ty) (i : Nat) (old a b : VVal) (c : Word) (lane : Nat) (act : List Bool), t.lanes = 8192 / t.width → i < t.lanes →
     act = List.replicate t.lanes true → a.poison = 0 → b.poison = 0 → lane < t.lanes →
     (16 ≤ t.width → elAt t.width (vperm t old act a b).1 i =
       { bits := (elAt t.width a ((elAt t.width b i).bits % t.lanes)).bits, bad := false }) ∧
     (t.width = 8 → elAt t.width (vperm t old act a b).1 i =
       { bits := (elAt t.width a (256 * (i / 256) + (elAt t.width b i).bits)).bits, bad := false }) ∧
     (∀ k, k = c.toNat % t.lanes + i → elAt t.width (vshuf t old act a b (.clean c)).1 i =
       { bits := if k < t.lanes then (elAt t.width a k).bits else (elAt t.width b (k - t.lanes)).bits, bad := false }) ∧
     elAt t.width (vbcst t lane old act a).1 i = { bits := (elAt t.width a lane).bits, bad := false } ∧
     elAt t.width (vins t lane old act a (.clean c)).1 i =
       { bits := if i = lane then c.toNat % 2 ^ t.width else (elAt t.width a i).bits, bad := false } ∧
     (vpclr t old act a).1.data = a.data ∧ (vpclr t old act a).1.poison = 0)

/-- VTRN (08 R138): element 16g + r of register D + c is element 16g + c of register A + r, all sources read first; no other
vector register changes. -/
def Obligations.TransposeWord : Prop :=
  ∀ (s : State) (h : Hdr) (g : Grp) (t : Ty) (d a : Fin 768), s.Issuing h g → d.val ≤ 752 → a.val ≤ 752 →
    s.act h t.width = List.replicate t.lanes true → (∀ r, r < 16 → (s.seenCore.vreg (a.val + r)).poison = 0) →
    ∃ u, exec (.vtrn h t d a) s = .next u ∧ Ran s u ∧
      (∀ q r c, q < t.lanes / 16 → r < 16 → c < 16 →
        (elAt t.width (u.curCore.vreg (d.val + c)) (16 * q + r)).bits =
          (elAt t.width (s.seenCore.vreg (a.val + r)) (16 * q + c)).bits) ∧
      (∀ n, n < d.val ∨ d.val + 16 ≤ n → u.curCore.vreg n = s.curCore.vreg n) ∧
      (∀ n, u.curEng.reg n = s.curEng.reg n) ∧ u.curCore.p = s.curCore.p

/-- What a vector word with one destination leaves alone: every other vector register, every scalar and predicate register,
the accumulators, the special registers, all memory and every other engine and core; a word with a predicate destination
leaves every other predicate and every vector register. FFLAGS only gains bits. -/
def Obligations.VectorFrame : Prop :=
  ∀ (s : State) (g : Grp) (i : Instr) (h : Hdr), s.Issuing h g →
    (∀ d, vecShape i = some (h, d) → ∃ t, exec i s = .next t ∧ Ran s t ∧
      (∀ n : Fin 768, d ≠ .v n → t.curCore.vreg n.val = s.curCore.vreg n.val) ∧ t.curCore.p = s.curCore.p ∧
      (∀ n, t.curEng.reg n = s.curEng.reg n) ∧ (∃ f, t.curEng.csr.fflags = s.curEng.csr.fflags ||| f)) ∧
    (∀ d, predShape i = some (h, d) → ∃ t, exec i s = .next t ∧ Ran s t ∧ t.curCore.v = s.curCore.v ∧
      (∀ n : Fin 16, d ≠ n → t.curCore.pred n.val = s.curCore.pred n.val) ∧
      (∀ n, t.curEng.reg n = s.curEng.reg n) ∧ (∃ f, t.curEng.csr.fflags = s.curEng.csr.fflags ||| f))

-- records, commands and the matrix unit

/-- LPATCH, LARM, RCHK and RINV (10 R181, R182, 14 R279, R280): the status each gives and, at status 0, its effect: the patched
field, the armed records, the entry's word, the invalidated entries. LARM and RINV first perform the earlier accesses of their
engine as a release at `.pkg`. No frame that holds a table of the part is in exchange. -/
def Obligations.ReuseWords : Prop :=
  (∀ (s : State) (h : Hdr) (g : Grp) (sel : BitVec 4) (d : SDst) (a b : SSrc), s.curEng.grp = some g → s.noneHeld = true →
    ∀ (x y : Word) (n ctx st : Nat), x = s.val a → y = s.val b → n = x.toNat → ctx = s.curCore.ctx.toNat →
    ((if 2 ^ 16 ≤ n ∨ s.lrecValid n = false then st = 1 else if s.lrecCtx n ≠ ctx then st = 2
        else if s.lrecOut n ≠ 0 then st = 3 else if sel = 1 ∧ 2 ^ 32 ≤ y.toNat then st = 6 else st = 0) →
      (st ≠ 0 → exec (.lpatch h sel d a b) s = .next (s.wrote h d (BitVec.ofNat 64 st) 0)) ∧
      (st = 0 → ∀ (off : Nat) (w : Word),
        ((sel = 0 ∧ off = 0x10 ∧ w = y) ∨ (2 ≤ sel.toNat ∧ off = 0xC0 + 8 * (sel.toNat - 2) ∧ w = y) ∨
          (sel = 1 ∧ off = 0x28 ∧ w.toNat = (s.lrecWord n 0x28).toNat / 2 ^ 32 * 2 ^ 32 + y.toNat)) →
        exec (.lpatch h sel d a b) s = .next ((s.setLrec n off w).wrote h d 0 0))) ∧
    ((if 2 ^ 16 ≤ n ∨ s.lrecValid n = false then st = 1 else if s.lrecCtx n ≠ ctx then st = 2
        else if s.lrecOut n ≠ 0 then st = 3 else if 2 ^ 20 - s.sched.tasks.length < s.lrecTiles n then st = 4
        else if s.lrecSg n ≠ 0 ∧ (s.unitExists (s.lrecSg n) = false ∨ s.lrecTiles n % shapeSize (s.lrecSg n) ≠ 0) then st = 5
        else st = 0) →
      (st ≠ 0 → exec (.larm h d a) s = .next (s.wrote h d (BitVec.ofNat 64 st) 0)) ∧
      (st = 0 → ∀ r, r = s.releaseAt s.cur.1 s.cur.2 3 0xF → r.released s.cur.1 3 0xF = true → r.lrecTiles n = 0 →
        exec (.larm h d a) s = .next (r.wrote h d 0 0)) ∧
      (st = 0 → ∀ r, r = s.releaseAt s.cur.1 s.cur.2 3 0xF → r.released s.cur.1 3 0xF = true → r.lrecTiles n ≠ 0 →
        ∀ u home, ((bitsOf (r.lrecWord n 0x20) 0 16 = 0 ∧ u = r ∧ home = none) ∨
          (∃ key z, r.readDbo s.cur.1 n (r.taskEv s.cur.1 { kind := 6, eng := engIdx s.cur.2, pc := (r.eng s.cur.1 s.cur.2).pc.toNat }) =
            (u, .at_ key z) ∧ home = some (key, z))) →
        ∀ bind q, bind = (u.core s.cur.1).task.bind RunTask.bind →
        q = (match bind with
          | some i => (u.seq i).q
          | none => []) →
        exec (.larm h d a) s =
          .next (((u.acquireAt s.cur.1 s.cur.2 3 0xF).armRecords n bind q home).wrote h d 0 0))) ∧
    ((if 2 ^ 16 ≤ n ∨ s.lrecValid n = false then st = 1 else if s.lrecCtx n ≠ ctx then st = 2
        else if s.lrecClass n = 0 then st = 8 else st = 0) →
      (st ≠ 0 → ∀ w : Word, w.toNat = st * 2 ^ 56 → exec (.rchk h d a b) s = .next (s.wrote h d w 0)) ∧
      (st = 0 → ∀ u r, s.readClass s.whoCur (s.lrecClass n) (s.lrecSg n) = (u, r) →
        (∀ k c, r = .bad k c → ∀ w : Word, w.toNat = 9 * 2 ^ 56 → exec (.rchk h d a b) s = .next (u.wrote h d w 0)) ∧
        (∀ k, r = .ok k →
          (2 ^ 32 ≤ y.toNat ∨ u.entryIndex k n y.toNat = none → ∀ w : Word, w.toNat = 10 * 2 ^ 56 →
            exec (.rchk h d a b) s = .next (u.wrote h d w 0)) ∧
          (∀ i ps t v bs, y.toNat < 2 ^ 32 → u.entryIndex k n y.toNat = some i →
            u.Accesses .none k.ebuf (entryForm .read) [((k.eoff + 32 * i : Nat) : Int)] false ps t →
            t.loadPlaces t.cur.1 t.curKid ps.flatten = (v, bs) →
            (firstBad bs = 0 → ∀ w : Word, w.toNat = (leWord (bs.map (fun z => z.1))).toNat % 2 ^ 48 →
              exec (.rchk h d a b) s = .next (v.wrote h d w 0)) ∧
            (firstBad bs ≠ 0 → exec (.rchk h d a b) s = .next (v.loaded h d (.bad (firstBad bs)))))))) ∧
    (∀ r, r = s.releaseAt s.cur.1 s.cur.2 3 0xF → r.released s.cur.1 3 0xF = true → r.noneHeld = true →
      (if 2 ^ 16 ≤ n ∨ r.lrecValid n = false then st = 1 else if r.lrecCtx n ≠ r.curCore.ctx.toNat then st = 2
        else if r.lrecClass n = 0 then st = 8 else st = 0) →
      (st ≠ 0 → ∀ w : Word, w.toNat = st * 2 ^ 56 → exec (.rinv h d a b) s = .next (r.wrote h d w 0)) ∧
      (st = 0 → ∀ u z, r.readClass r.whoCur (r.lrecClass n) (r.lrecSg n) = (u, z) →
        (∀ k c, z = .bad k c → ∀ w : Word, w.toNat = 9 * 2 ^ 56 → exec (.rinv h d a b) s = .next (u.wrote h d w 0)) ∧
        (∀ k, z = .ok k →
          (y ≠ BitVec.allOnes 64 → 2 ^ 32 ≤ y.toNat ∨ u.entryIndex k n y.toNat = none → ∀ w : Word, w.toNat = 10 * 2 ^ 56 →
            exec (.rinv h d a b) s = .next (u.wrote h d w 0)) ∧
          (∀ is ps t, ((y = BitVec.allOnes 64 ∧ is = u.entryIndices k n) ∨
              (y.toNat < 2 ^ 32 ∧ ∃ i, u.entryIndex k n y.toNat = some i ∧ is = [i])) →
            u.Accesses .none k.ebuf (entryForm (.atomic false)) (is.map (fun i => ((k.eoff + 32 * i : Nat) : Int))) true ps t →
            exec (.rinv h d a b) s = .next (((ps.zip is).foldl (fun v p =>
              (v.noteAtomic (p.1.take 8)).invalidate v.curKid (keyOf [p.1]) k.ebuf (k.eoff + 32 * p.2)) t).wrote h d 0 0)))))) ∧
  (∀ (w : Word) (k : Nat), (invalidated w).getLsbD k = (w.getLsbD k && !decide (k = 40 ∨ k = 42 ∨ (32 ≤ k ∧ k < 40))))

/-- The command words (16 R287, R295): a command that passes step 3 is accepted, QUEUED, under the lowest tag whose slot is FREE, DONE
or ABORTED, and its destination takes the tag; AGATH and ASCAT first read their descriptor as a load does (R291). ASTAT shows a slot,
an empty one as 0, and HELD while the stall wire holds the clock, but for one that finishes a granule, an exchange or a credit first
(R297). An AFILL is not accepted in the cycle in which an MBSWP of its bank issues, which is how the model takes R299 (LOG 88). -/
def Obligations.AsyncWords : Prop :=
  (∀ (s : State) (h : Hdr) (g : Grp) (d : SDst) (a b c : SSrc) (bo : BoRef) (t : RunTask) (x : TaskInfo) (tag : Nat),
    s.curEng.grp = some g → s.curCore.task = some t → s.info t.slot = some x → tag < 64 →
    (∀ z, x.cmds.find? tag = some z → z.st = 0 ∨ z.st = 5 ∨ z.st = 6) →
    (∀ k, k < tag → ∃ z, x.cmds.find? k = some z ∧ z.st ≠ 0 ∧ z.st ≠ 5 ∧ z.st ≠ 6) →
    (∀ (i : Instr) (kind : Nat) (ops : List SSrc),
      ((i = .acpy h d a b c bo ∧ kind = 0 ∧ ops = [a, b, c]) ∨ (i = .afill h d a b c bo ∧ kind = 1 ∧ ops = [a, b, c]) ∨
        (i = .aferry h d a b c bo ∧ kind = 4 ∧ ops = [a, b, c]) ∨ (i = .acoll h d a b bo ∧ kind = 5 ∧ ops = [a, b])) →
      s.queueRoom s.cur.1 kind 0 = true → s.rangesHeld s.whoCur (cmdRanges kind (s.vals ops) [] (boRefWord bo)) = false →
      ∀ u, s.planCmd s.whoCur s.cur.1 kind (s.vals ops) (boRefWord bo) [] g.idx = (u, .ready []) →
        u.swapping s.cur.1 kind (s.vals ops) = false →
        exec i s =
          .next ((u.accept s.cur.1 t tag kind (s.vals ops) (boRefWord bo) []).wrote h d (BitVec.ofNat 64 tag) 0)) ∧
    (∀ (i : Instr) (kind : Nat), ((i = .agath h d a bo ∧ kind = 2) ∨ (i = .ascat h d a bo ∧ kind = 3)) →
      s.queueRoom s.cur.1 kind 0 = true →
      ∀ ps v, s.Accesses .none (bitsOf (s.val a) 0 16) { need := .read, es := 32, align := 32, noView := true }
        [(bitsOf (s.val a) 16 48 : Int)] false ps v →
      ∀ r w bs, r = v.prepare s.cur.1 s.curKid ps.flatten → w = r.afterLoad s.cur.1 ps.flatten →
        bs = ps.flatten.map (r.loadByte s.cur.1 s.curKid) → firstBad bs = 0 →
      ∀ ws, ws = (List.range 4).map (fun i => leWord (((bs.drop (8 * i)).take 8).map (fun b => b.1))) →
        rowBad w w.cur.1 (RowDesc.of ws) = false → refOff (RowDesc.of ws).idx % 4 = 0 →
        w.rangesHeld w.whoCur (cmdRanges kind [s.val a] ws (boRefWord bo)) = false →
      ∀ u, w.planCmd w.whoCur w.cur.1 kind [s.val a] (boRefWord bo) ws w.memberNo = (u, .ready ws) →
        exec i s =
          .next ((u.accept w.cur.1 t tag kind [s.val a] (boRefWord bo) ws).wrote h d (BitVec.ofNat 64 tag) 0))) ∧
  (∀ (s : State) (c tag kind : Nat) (t : RunTask) (x : TaskInfo) (ops desc : List Word) (bo : Word), s.info t.slot = some x →
    ∃ y z, (s.accept c t tag kind ops bo desc).info t.slot = some y ∧ y.cmds.find? tag = some z ∧
      z.st = 1 ∧ z.kind = kind ∧ z.err = 0 ∧ z.doneb = 0) ∧
  (∀ (s : State) (h : Hdr) (g : Grp) (d : SDst) (a : SSrc) (t : RunTask) (x : TaskInfo), s.curEng.grp = some g →
    s.curCore.task = some t → s.info t.slot = some x →
    (x.cmds.find? (s.val a).toNat = none → exec (.astat h d a) s = .next (s.wrote h d 0 0)) ∧
    (∀ z : CmdSlot, x.cmds.find? (s.val a).toNat = some z → z.st < 8 → z.kind < 32 → z.err < 256 → z.doneb < 2 ^ 48 →
      ∀ (stall : Bool) (st : Nat), stall = (((s.gangOf s.cur.1).map Gang.stall).getD false && !s.midway z) →
        st = (if stall = true ∧ (z.st = 1 ∨ z.st = 2) then 3 else z.st) →
        ∀ w : Word, w.toNat = st * 2 ^ 61 + z.kind * 2 ^ 56 + z.err * 2 ^ 48 + z.doneb →
          exec (.astat h d a) s = .next (s.wrote h d w 0)))

/-- The matrix words (09 R156 to R164): the effect each has as it issues, and the cycles for which it holds its unit and after which
it completes (R149). MZA leaves every accumulator row of its bank +0 and the others as they were. MLDW, MLDS and a streamed MMA
complete when the bytes they name can be fetched; MLDW and MMA that issue again go on from block mkp (R157, R160). What an MMA may still
read while it holds the array (R160) is kept with it. -/
def Obligations.MatrixWords : Prop :=
  ∀ (s : State) (h : Hdr) (g : Grp) (a : SSrc) (d : SDst) (bank : BitVec 2) (vd : Fin 768) (cr : BitVec 10) (stamp : BitVec 24),
    s.curEng.grp = some g → ∀ (w : Word) (k : Core) (c wc size first left : Nat), w = s.val a → k = s.curCore → c = s.cur.1 →
    wc = wcode k.mcfg → size = mBlockBytes wc → first = (if g.again then k.mkp.toNat else 0) → left = mBlocks wc - first →
    exec (.mcfg h a stamp) s = .next ((s.setCore c (if wcode (w.setWidth 13) = wc then { k with mcfg := w.setWidth 13 }
        else { k with mcfg := w.setWidth 13, active := { k.active with valid := false }, preload := { k.preload with valid := false },
                      scaleQ := [] })).flew h none
      (s.flightOf (s.useOf (.mcfg h a stamp)) 1 1 0 0 0)) ∧
    exec (.mswp h stamp) s = .next ((s.setCore c { k with active := k.preload, preload := k.active }).flew h none
      (s.flightOf (s.useOf (.mswp h stamp)) 1 1 0 0 0)) ∧
    exec (.mkpr h d stamp) s = .next ((s.swr d (.clean (k.mkp.setWidth 64))).flew h (some (.sc (.clean (k.mkp.setWidth 64))))
      (s.flightOf (s.useOf (.mkpr h d stamp)) 1 1 0 0 0)) ∧
    exec (.mbswp h a stamp) s = .next ((s.setCore c { k with halves := k.halves ^^^ w.setWidth 2 }).flew h none
      (s.flightOf (s.useOf (.mbswp h a stamp)) 1 1 0 0 0)) ∧
    (∃ acc : Store VBits, exec (.mza h bank stamp) s = .next ((s.setCore c { k with acc := acc }).flew h none
        (s.flightOf (s.useOf (.mza h bank stamp)) 64 64 0 0 0)) ∧
      ∀ n, acc.get n 0 = if n / 256 = bank.toNat then 0 else k.acc.get n 0) ∧
    (∀ r, r = drainRows bank.toNat (mmaRow0 w) vd.val (mmaZero w) (mmaN w) 0 k 0 →
      exec (.mdrn h bank vd a stamp) s = .next ((s.setCore c r.1).flew h (some (.vec (r.1.vreg vd.val)))
        (s.flightOf (s.useOf (.mdrn h bank vd a stamp)) (mmaN w) (mmaN w + 8) 0 r.2 0))) ∧
    (∀ layer off n busy, layer = bitsOf w 32 1 → off = bitsOf w 0 22 → n = mBlocks wc * 256 → busy = ceilDiv n 500 →
      s.bankClear c layer off n →
      exec (.mlds h a stamp) s = .next ((s.setCore c { k with
          scaleQ := k.scaleQ ++ [bitsOfBytes 32768 ((List.range n).map (s.bankByte c layer off))], mkp := 0 }).flew h none
        (s.flightOf (s.useOf (.mlds h a stamp)) busy (busy + portDelay c) (portDelay c) 0 (layerBank layer)))) ∧
    (∀ layer off busy, layer = bitsOf w 32 1 → off = bitsOf w 0 22 → busy = ceilDiv (left * size) 500 →
      s.bankClear c layer (off + size * first) (left * size) →
      ∀ blocks, blocks = (if g.again then k.preload.blocks.take first else []) ++ (List.range left).map (fun j =>
        bitsOfBytes 131072 ((List.range size).map (s.bankByte c layer (off + size * (first + j))))) →
      ∀ scales queue, scales = (if g.again || !mIsMx wc then k.preload.scales else k.scaleQ.headD 0) →
        queue = (if g.again || !mIsMx wc then k.scaleQ else k.scaleQ.drop 1) →
      exec (.mldw h a stamp) s = .next ((s.setCore c { k with
          preload := { blocks := blocks, scales := scales, wcode := BitVec.ofNat 3 wc, valid := true }, scaleQ := queue
          mkp := BitVec.ofNat 16 blocks.length }).flew h none
        (s.flightOf (s.useOf (.mldw h a stamp)) busy (busy + portDelay c) (portDelay c) 0 (layerBank layer)))) ∧
    (∀ rows, rows = mmaN w * (if mBits (acode k.mcfg) = 16 then 2 else 1) →
      (mmaStrm w = false → ∀ r, r = mmaPlane s.seenCore.v bank.toNat w vd.val cr.toNat (mBlocks wc) 0 k 0 →
        exec (.mma h bank vd a cr stamp) s = .next ((s.setCore c r.1).flew h none
          { s.flightOf (s.useOf (.mma h bank vd a cr stamp)) rows (rows + 36) 0 r.2 0 with
            redo := some (k.redoOf s.seenCore.v bank.toNat w vd.val cr.toNat 0) })) ∧
      (mmaStrm w = true → s.bankClear c (mmaLayer w) (mmaOff w + size * first) (left * size) →
        ∀ k1 k2 : Core, k1 = { k with mkp := BitVec.ofNat 16 first } →
          k2 = (if g.again || !mIsMx wc then k1 else { k1 with popped := k1.scaleQ.headD 0, scaleQ := k1.scaleQ.drop 1 }) →
        ∀ r, r = mmaStream s s.seenCore.v c bank.toNat w vd.val cr.toNat k2.popped.toNat left first k2 0 →
        ∀ fetch busy, fetch = ceilDiv (left * size) 500 → busy = Nat.max (fetch + portDelay c) rows →
        exec (.mma h bank vd a cr stamp) s = .next ((s.setCore c r.1).flew h none
          { s.flightOf (s.useOf (.mma h bank vd a cr stamp)) busy (busy + 36) (busy - Nat.max fetch rows) r.2.1
              (layerBank (mmaLayer w)) with redo := some (k.redoOf s.seenCore.v bank.toNat w vd.val cr.toNat first) })))

-- engines, tasks and the dispatcher

/-- The engines' own steps: the oldest word of M in flight at its completion cycle, and in B2 and above at its earliest one, takes its
tokens, raises its flags and posts, and the last of them retires the section that M has left (06 R89, 09 R148, R149, 02 R38, 01 R16); a
command not issued at its target traps, or holds its gang's clock in slip mode, once (09 R153, R154); a section is entered once
its words are read and its waits are met, and one of length 0 ends the stream (01 R16, R18); a late post is made (06 R89). -/
def Obligations.EngineEvents : Prop :=
  ∀ (s : State) (c : Nat) (e : Eng),
    (∀ f later u, (s.core c).flight = f :: later →
      (f.owing = true ∨ f.done ≤ s.cyc.toNat ∨ (s.earlyBand = true ∧ f.soon ≤ s.cyc.toNat)) →
      u = (if f.owing then s else s.land c .M) → (u.core c).room .M f.posts = true →
      ∃ t, exec (.matrixComplete c) s = .next t ∧ OnlyCore u t c ∧ (t.core c).flight = later ∧
        (t.eng c .M).csr.fflags = (u.eng c .M).csr.fflags ||| (if f.owing then 0 else f.flags) ∧
        (∀ n, later = [] → (u.eng c .M).retiring = some n → (t.eng c .M).hwm = n ∧ (t.eng c .M).retiring = none) ∧
        ∀ j : Nat, 1 ≤ j → j ≤ 3 →
          (t.core c).occ.get (fifoNo .M (engOther .M j)) 0 =
            (u.core c).occ.get (fifoNo .M (engOther .M j)) 0 + (if f.posts.getLsbD (j - 1) then 1 else 0) ∧
          (t.core c).occ.get (fifoNo (engOther .M j) .M) 0 =
            (u.core c).occ.get (fifoNo (engOther .M j) .M) 0 - (if f.pops.getLsbD (j - 1) && !f.owing then 1 else 0)) ∧
    (∀ i target n g, s.stamped c = some (i, target) → (s.core c).task.bind RunTask.gang = some n → s.sched.gangs.find? n = some g →
      (s.gsc c < target → exec (.scheduleMiss c) s = .next s) ∧
      (g.late.contains c = false → g.slip.has c = false →
        (s.cryo.slip = false → target < s.gsc c ∨ (target = s.gsc c ∧ s.acts c i = false) →
          ∀ v : Word, v.toNat = target.toNat % 2 ^ 24 * 2 ^ 40 + (s.gsc c).toNat % 2 ^ 24 * 2 ^ 16 + (if target < s.gsc c then 16 else 0) →
          ∀ x, s.beforeNext c = some x → exec (.scheduleMiss c) s = .next ((s.knowSect c .M).takeTrap c .M 0x12 v x.pc)) ∧
        (s.cryo.slip = true → target = s.gsc c → s.acts c i = false →
          exec (.scheduleMiss c) s = .next (s.setGang n { g with slip := g.slip.put c s.cyc.toNat })) ∧
        (s.cryo.slip = true → target < s.gsc c → exec (.scheduleMiss c) s = .next (s.setGang n { g with late := c :: g.late })))) ∧
    (∀ t u x v bs ws len, (s.core c).task = some t → (s.eng c e).phase = .entering → (s.eng c e).sup = none → (s.eng c e).grp = none →
      (s.eng c e).idleNow t e = false → s.reqOpen c = false ∨ t.halting = true → s.unretired c e = false →
      t.streams.getD (engIdx e) 0 ≠ 0 → s.sectBlocked c e t 0 2 = none → s.sectCode c e t 0 2 = (u, .ok bs) →
      len = bitsOf (leWord bs) 48 16 → len ≤ 5460 →
      x = u.modEng c e (fun g => { g with sect := { g.sect with len := len, base := BitVec.ofNat 16 ((s.eng c e).sect.hdr + 8) } }) →
      x.sectBlocked c e t 8 (3 * len) = none → x.sectCode c e t 8 (3 * len) = (v, .ok ws) → v.waitsMet c e (leWord bs) = true →
      (len = 0 → exec (.enterSection c e) s = .next (v.modEng c e (fun g =>
        { g.unblock with phase := .finished, arrived := some (0, v.cyc.toNat + 1) }))) ∧
      (len ≠ 0 → exec (.enterSection c e) s = .next (((v.syncAhead c e).modCore c (fun k =>
        { k with codeQ := k.codeQ.del (4 + engIdx e) })).modEng c e (fun g =>
          { (g.loadWords ws).unblock with phase := .running, pc := g.sect.pcOf g.target, target := 0 })))) ∧
    (∀ r o u, (s.eng c e).grp = some r → (s.eng c e).owed = some o → u = s.land c e → (u.core c).unlanded e = false → u.behind c e = false →
      u.unretired c e = false ∨ o.pops = 0 ∧ o.posts = 0 → (u.core c).room e o.posts = true →
      exec (.tokenPost c e) s = .next ((((u.modCore c (fun k => k.dropTokens e o.pops)).modCore c (fun k =>
        k.addTokens e o.posts)).modEng c e (fun x => { x.unblock with owed := none })).endMember c e r o.flow))

/-- What ends a wait or a line: BOWAIT goes on once its object's phase differs (12 R242); a barrier episode completes with all its
participants arrived and its latency passed, and lets their BARR words go (10 R167, 21 R364); a batch of integer operands is
applied as one write of its element (12 R236); an unpinned L1 line leaves, a dirty one once nothing that a fence puts before it still waits (13 R255, R248). -/
def Obligations.WaitEvents : Prop :=
  ∀ (s : State) (c : Nat) (e : Eng),
    (∀ s' r b h d a m t u v buf off ps, s' = { s with cur := (c, e) } → (s.eng c e).inside = some (.bowait b) →
      (s.eng c e).grp = some r → s.memberInstr c e (r.pcOf r.idx) = some (.bowait h d a m) → s'.memRef m 16 = (buf, off) →
      s'.Accesses .none buf (boForm .read) [off] true ps t →
      u = (t.toHome t.cur.1 (lineOf (keyOf ps))).reach [lineOf (keyOf ps)] → u.boBad (keyOf ps) = false →
      v = (match Order.acquires m.ord with
        | some sc => (u.acquireL1 u.cur.1 (roleRank sc ps.flatten)).flipAhead u.cur.1 u.cur.2 (keyOf ps) (u.boAt u.curKid (keyOf ps)).flips
        | none => u).afterStore u.cur.1 u.cur.2 ps.flatten →
      (u.boAt u.curKid (keyOf ps)).phase ≠ bitsOf (s'.val a) 0 1 →
      ∃ w : Word, exec (.bowaitComplete c e) s = .next { (v.wrote h d w 0) with cur := s.cur }) ∧
    (∀ lv i n g last, (lv ≠ .pod ∧ i = .episodeComplete c lv) ∨ (lv = .pod ∧ i = .podEpisodeComplete c ∧ g.pod.isSome = true) →
      (s.core c).task.bind RunTask.gang = some n → s.sched.gangs.find? n = some g →
      (∀ x ∈ g.cores, x ∈ levelUnit lv c → ∃ k, s.coreArrived n x lv = some k ∧ k ≤ last) →
      last + (match lv with
        | .quad => 8 | .die => 40 | .pkg => 120 | .pod => 0) ≤ s.cyc.toNat + 1 →
      ∃ t, exec i s = .next t ∧ t.mem = s.mem ∧ t.stor = s.stor ∧ ∀ x ∈ g.cores, x ∈ levelUnit lv c →
        (s.core x).task.bind RunTask.gang = some n → ∀ f k, k ≠ 0 → (s.eng x f).arrived = some (levelRank lv, k) →
          (t.eng x f).arrived = some (levelRank lv, 0)) ∧
    (∀ line b key n, s.stor.batches.find? line = some b → b.ops ≠ [] → (∀ o ∈ b.ops, o.1 = key) → n = b.ty.width / 8 →
      s.badAt key = 0 → ∀ u, u = { s with stor := { s.stor with batches := s.stor.batches.del line } } →
      exec (.batchApply line) s = .next (u.putHome b.kid (natCells key n
        (batchVal b.op b.ty (u.homeNat b.kid key n) (b.ops.map (fun o => o.2.1.toNat)))))) ∧
    (∀ (t : Ty) (old : Nat) (xs : List Nat), old < 2 ^ t.width → batchVal .add t old xs = (old + xs.sum) % 2 ^ t.width) ∧
    (∀ line l, (s.core c).l1.find? line = some l →
      (l.pinned = true → exec (.l1Evict c line) s = .next s) ∧
      (l.pinned = false → s.lineHeld c line = false → l.dirty = 0 ∨ s.mayGo c line l.last = true →
        exec (.l1Evict c line) s = .next (s.dropLine c line)))

/-- Timers, requests and saves: the watchdog trap (18 R325, R326, R310), the phase timer's (R327), a request that marks its task
(R317), SAVELATE (R317), and a save, which takes a block, keeps the task and empties the core (R320, R321). -/
def Obligations.TimerSaveEvents : Prop :=
  ∀ (s : State) (c : Nat) (e : Eng) (t : RunTask), (s.core c).task = some t →
    (∀ r v, bitsOf s.host.polwd 0 48 ≠ 0 → bitsOf s.host.polwd 0 48 ≤ (s.eng c e).wdog → s.wdogRuns c e = true →
      unwatched (s.eng c e).csr.reason = false → t.delivering e = false → (s.eng c e).page = false → t.killing = false →
      s.waitOver c e = false → s.owingOf c e = none → (s.eng c e).grp = some r → (s.eng c e).owed = none →
      v.toNat = (s.eng c e).wdog % 2 ^ 48 * 2 ^ 16 + (s.eng c e).csr.reason.toNat * 2 ^ 8 + r.idx % 4 →
      exec (.watchdogExpire c e) s = .next (((s.modEng c e (fun x => { x.unblock with wdog := 0 })).keep c e (some r)).takeTrap
        c e 0x16 v (r.pcOf r.idx))) ∧
    (∀ v : Word, (s.eng c e).phaseNow = true → (s.eng c e).idleNow t e = false → (s.eng c e).grp = none → s.owingOf c e = none →
      v.toNat = (s.eng c e).csr.pht.toNat % 2 ^ 48 * 2 ^ 16 →
      exec (.phaseTimerExpire c e) s = .next (((s.modEng c e (fun x => { x with phtDue := false })).knowSect c e).takeTrap c e 0x15 v
        (if (s.eng c e).phase = .entering then (s.eng c e).sect.pcOf (s.eng c e).target else (s.eng c e).pc))) ∧
    (t.gang = none → t.request = none → s.coreOf t.slot = some c → ∀ x, s.info t.slot = some x →
      ∃ u, exec (.preemptRequest t.slot) s = .next u ∧ (u.core c).task = some { t with request := some s.cyc.toNat } ∧
        u.info t.slot = some { x with request := some s.cyc.toNat, late := false } ∧ u.mem = s.mem) ∧
    (∀ x at_, s.coreOf t.slot = some c → s.info t.slot = some x → x.request = some at_ → x.late = false →
      bitsOf s.host.polpr 0 48 ≠ 0 → at_ + bitsOf s.host.polpr 0 48 ≤ s.cyc.toNat → s.cryo.band ≠ 4 → s.cryo.st ≠ 6 →
      exec (.savelate t.slot) s = .next ((s.post { s.taskEv c { kind := 11 } with core := 0 }).modInfo t.slot (fun y => { y with late := true }))) ∧
    (∀ why u b v, s.partHeld = false → t.killing = false → s.saveNow c t = some why → u = s.release c → u.released c 3 0xF = true →
      u.cmdsUnder t.slot = false → u.takeBlock = some (b, v) →
      u.host.srhead ≠ u.host.srtail ∧ b = (u.partWord (u.srBase + 8 * (u.host.srhead.toNat % u.srSize))).toNat ∧
      v.host.srhead = u.host.srhead + 1 ∧
      ∃ w, exec (.save c) s = .next w ∧ (w.core c).task = none ∧ w.host.srhead = v.host.srhead ∧
        (∀ x, v.info t.slot = some x → ∃ y, w.info t.slot = some y ∧ y.saved.isSome = true ∧ y.resident = false))

/-- The dispatcher: residence (10 R184), the choice, which never passes over a candidate of higher priority (R185), staging (R171),
aging (R186), and dispatch, whose fresh engines hold C0, C1 and the tile in s1 to s3, zero above s5, empty loop units, stacks
and rings, and the CSRs of 01 R8 and R12. -/
def Obligations.DispatchEvents : Prop :=
  ∀ (s : State) (c slot : Nat),
    (s.partHeld = false → (s.wanting512.take 512).contains slot = true →
      exec (.makeResident slot) s = .next (s.modInfo slot (fun t => { t with resident := true }))) ∧
    (∀ t, s.info slot = some t → s.host.polage ≠ 0 → s.isReady slot = true → s.slotPrio slot < 7 →
      t.rise + s.host.polage.toNat ≤ s.cyc.toNat → exec (.agingRise slot) s =
        .next ((s.setRecWord slot 0x20 (setBits (s.recWord slot 0x20) 48 4 (s.slotPrio slot + 1))).modInfo slot (fun t =>
          { t with rise := s.cyc.toNat }))) ∧
    (s.partHeld = false → s.mayStage = true → s.allowed c = true → (s.core c).stage = none → s.reserved c = none → s.mayServe c = true →
      ∀ s1 u v codes, s1 = { s with sched := { s.sched with served := (s.cyc.toNat + 1, c) } } → s1.pickLevel c 8 = some (slot, u) →
        u.slotGang slot = false → u.headHeld slot = false → u.stageFault slot = (v, none) →
        codes = allEngs.filterMap (fun e => (v.stagedCode slot e).map (fun x => (engIdx e, x))) →
        exec (.choose c) s = .next ((v.modCore c (fun k =>
          { k with stage := some slot, codeQ := codes ++ k.codeQ.filter (fun x => 4 ≤ x.1) })).setRecState slot 1 0)) ∧
    (∀ u, s.pickLevel c 8 = some (slot, u) → (∃ t, (slot, t) ∈ s.sched.tasks ∧ s.isCand c slot t = true) ∧
      ∀ x ∈ s.sched.tasks, s.isCand c x.1 x.2 = true → s.slotPrio x.1 < 8 → s.slotPrio x.1 ≤ s.slotPrio slot) ∧
    ((s.core c).stage = some slot → s.partHeld = false → s.canStart c = true →
      (∀ u, s.reserved c = some u → slot ∈ u.2 → u.1.all s.canStart = true → exec (.dispatch c) s = .next (s.startGang u)) ∧
      (s.reserved c = none → (s.bindCore c slot).slotSaved slot = false →
        ∃ t k, exec (.dispatch c) s = .next t ∧ (t.core c).task = some k ∧ k.slot = slot ∧ k.gang = none ∧
          (t.core c).stage = none ∧ (t.core c).p = [] ∧ (t.core c).occ = [] ∧
          ∀ e, (t.eng c e).reg 1 = .clean (s.recWord slot 0x28) ∧ (t.eng c e).reg 2 = .clean (s.recWord slot 0x30) ∧
            (t.eng c e).reg 3 = .clean (BitVec.ofNat 64 (s.slotTile slot)) ∧ (∀ n, 5 < n → (t.eng c e).reg n = SVal.zero) ∧
            (t.eng c e).loops = [] ∧ (t.eng c e).stack = [] ∧ (t.eng c e).ring = [] ∧ (t.eng c e).csr.fflags = 0 ∧
            (t.eng c e).csr.fenab = 0 ∧ (t.eng c e).csr.frm = 0 ∧ (t.eng c e).pc = (t.eng c e).sect.base ∧
            ((t.eng c e).phase = .finished ∨ (t.eng c e).phase = .entering)))

/-- How a task leaves: written back by its carry engine's word (10 R175 to R177), ended with its entry closed and its object credited
(R178, 14 R272) or killed with its event (18 R313); and the reuse probe of one record (14 R271, R272): an entry whose word 0 has changed since it was read discards the probe, a skip frees its slot, a computation opens its entry, PEND
set, VALID clear and the count 0. -/
def Obligations.LeavingEvents : Prop :=
  ∀ (s : State) (c : Nat),
    (∀ t e f u, s.partHeld = false → (s.core c).task = some t → s.carryEng c = some (e, f) → t.halting = false → t.killing = false → t.delivery = [] →
      s.allStopped c = true → (s.core c).flight = [] → u = s.release c → u.released c 3 0xF = true →
      ∃ v, exec (.writeBack c) s = .next v ∧ (v.core c).task = none ∧
        v = (((u.recordStop c t.slot (some e) false).stopState c t.slot f).modInfo t.slot (fun x =>
          { x with resident := false, request := none, late := false })).leaveCore c t.gang false) ∧
    (∀ t u, s.partHeld = false → (s.core c).task = some t → s.hasWaiter (.taskEnd c) = false → s.heldEvent t.slot = false →
      u = s.release c → u.released c 3 0xF = true →
      (∀ v w, t.killing = false → t.halting = true ∨ (s.allFinished c = true ∧ t.delivery = []) → s.quietEngs c t = true →
        (∀ d ∈ t.delivery, d.page = false) → t.delivery = [] ∨ s.evq.roomFor t.delivery.length = true →
        u.doneUpdate c t = (v, true) → v.outputCredit c t = (w, true) →
        exec (.taskEnd c) s = .next ((t.delivery.foldl (fun x d => x.postFault c d) w).endTask c t)) ∧
      (t.killing = true → t.saving = false → s.killable c t = true → s.evq.roomFor 1 = true →
        exec (.taskEnd c) s = .next ((u.post (killEv { u.taskEv c { kind := 2 } with core := 0 })).endTask c t))) ∧
    (∀ slot r u f, s.partHeld = false → s.hasWaiter (.probe slot) = false → s.slotGang slot = false → s.probing slot = true →
      (s.beginAll [slot]).beginProbe [slot] = (r, .ok ()) → r.probePlace slot = some none → r.probeBoth none [(slot, 0)] = (u, .ok [f]) →
      ∀ k, k = ((r.info slot).map TaskInfo.stepNo).getD 0 →
      (u.entryMoved f = true → exec (.probeDecision slot) s = .next (u.restartProbe [slot])) ∧
      (u.entryMoved f = false → f.skip = false → exec (.probeDecision slot) s = .next (u.actCompute f k 0)) ∧
      (u.entryMoved f = false → f.skip = true → ∀ v, u.actSkip f = (v, true) → exec (.probeDecision slot) s = .next v)) ∧
    (∀ (f : Found) (k unit : Nat), ∃ w0 w1 w2 : Word, f.newEntry s k unit = [w0, w1, w2, 0] ∧ w0.toNat % 2 ^ 32 = k % 2 ^ 32 ∧
      bitsOf w0 32 8 = 0 ∧ w0.getLsbD 40 = false ∧ w0.getLsbD 42 = true ∧ (w0.getLsbD 41 = true ↔ f.dirty = true) ∧
      bitsOf w0 48 16 = s.slotLrec f.slot ∧ bitsOf w1 0 32 = f.tile % 2 ^ 32)

-- agents beside the cores

/-- The copy and ferry engines (16 R288, R289, R293, R296): a granule whose bytes have landed is credited and counted, the last
one makes the command DONE; a failing check aborts it, a translation fault leaves it FAULTED; a restart goes on with the same
granule, or leaves it HELD while another fault of its gang is in service (R299); the ferry holds its frames, then exchanges them. -/
def Obligations.CommandEvents : Prop :=
  (∀ (s : State) (no i : Nat) (x : Cmd) (t : Nat × Nat × Nat), s.cmd no = some x → x.targets[i]? = some t → x.hold = false →
    (x.kind ≠ 4 → x.st ≠ 4 → s.stalled x.gang = false ∨ x.under i = true → s.mayStart no x = true → t.2.2 < x.granules →
      x.total ≠ 0 → x.landed.contains i = false →
      ∀ lo hi u x' r, lo = t.2.2 * 65536 → hi = Nat.min x.total (lo + 65536) →
      s.moveGranule no x i t lo hi (fun j => !x.parts.contains (i, j)) = (u, x', r) →
      (r = .landed → ∀ v, (u.coverAhead no x' i t.2.2).agentCredit (x'.who u) 3 (refBuf x'.bo) (refOff x'.bo) (hi - lo) (x'.ev { kind := 15 })
          (BitVec.ofNat 64 x'.tag) = (v, .made) →
        ∀ y, y = { (x'.setTarget i (t.2.2 + 1)).dropRead with
            doneb := (x'.doneb + (hi - lo)) % 2 ^ 48, st := 2, marred := false
            landed := x'.landed.filter (fun j => j != i), parts := x'.parts.filter (fun p => p.1 != i) } →
          ((∀ z ∈ y.targets, y.granules ≤ z.2.2) → exec (.granuleTransfer no i) s = .next (v.closeCmd no y 5 0)) ∧
          ((∃ z ∈ y.targets, z.2.2 < y.granules) → exec (.granuleTransfer no i) s = .next (v.keepCmd no y))) ∧
      (∀ f buf, r = .fault f buf →
        (f.fail.cause = 1 →
          exec (.granuleTransfer no i) s = .next (u.cmdPage no x' i buf (f.off % (2 ^ 48 : Int)).toNat false false)) ∧
        (f.fail.cause ≠ 1 → exec (.granuleTransfer no i) s = .next (u.cmdAbort no x' t.2.2 f buf)))) ∧
    (x.kind ≠ 4 → x.st = 4 → x.stop = i → ∀ y u, y = { x with st := 2 } → u = s.runGranule no y i t →
      ((∃ z, u.cmd no = some z ∧ z.st = 4) → exec (.granuleRestart no i) s = .next s) ∧
      ((∀ z, u.cmd no = some z → z.st ≠ 4) → (x.gang = none → exec (.granuleRestart no i) s = .next u) ∧
      (∀ n, x.gang = some n →
        (s.gangFaults n (fun k => k != no) = false → exec (.granuleRestart no i) s = .next (u.restall n)) ∧
        (s.gangFaults n (fun k => k != no) = true → exec (.granuleRestart no i) s = .next ((s.keepCmd no y).restall n)))))) ∧
  (∀ (s : State) (no p q : Nat) (x : Cmd) (ls : List Nat), s.cmd no = some x → x.kind = 4 → s.framesOf x = [p, q] →
    ls = frameLines p ++ frameLines q → (x.targets.headD (0, 0, 0)).2.2 = 0 →
    (x.st = 1 → s.stalled x.gang = false → s.stor.frames.length < 32 → s.heldUnit p = false → s.heldUnit q = false →
      s.pinnedAny ls = true →
      ∀ u, u = { s with stor := { s.stor with frames := s.stor.frames ++ [p, q] } } →
      exec (.ferryExchange no) s = .next (u.keepCmd no { x with st := 2 })) ∧
    (x.st = 2 → s.pinnedAny ls = false → ∀ u v y, u = ((s.flushLines ls).ferryBad x [p, q]).swapFrames p q →
      v = { u with stor := { u.stor with frames := u.stor.frames.filter (fun f => !([p, q].contains f)) } } → y = x.setTarget 0 1 →
      exec (.ferryExchange no) s = .next ((v.keepCmd no y).creditCmd no y 0 131072 2 (fun _ => true)))) ∧
  (∀ (s : State) (p q k : Nat), s.mem.wf = true → p ≠ q → k < 65536 →
    (∀ x ∈ s.sched.tasks, x.2.watch = none ∧ x.2.home = none) →
    (s.swapFrames p q).mem.read (p * 65536 + k) = s.mem.read (q * 65536 + k) ∧
    (s.swapFrames p q).mem.read (q * 65536 + k) = s.mem.read (p * 65536 + k) ∧
    ∀ a, a / 65536 ≠ p → a / 65536 ≠ q → (s.swapFrames p q).mem.read a = s.mem.read a)

/-- The steps of collective programs (21 R355 to R362): a step that is done pays its credits and goes on, one that must wait stays, one
that fails stops its program; WAIT, LOOP, ENDL and SIGNAL whole; a program starts in the epoch of its rank, counted from the moment the
communicator's entry became valid (R360), and a waiting step is run again. While the stall wire holds its task no step runs (16 R297). -/
def Obligations.CollectiveSteps : Prop :=
  (∀ (s : State) (no : Nat) (p : Prog) (a : StepArgs), s.coll.cur = no → s.prog? no = some p → p.runnable = true →
    s.stalled p.gang = false → (((a.li || a.sa || a.sb) = true) → p.loops ≠ []) →
    (∀ i f, ((i = .send a ∧ f = s.sendStep p a) ∨ (i = .recv a ∧ f = s.recvStep p a) ∨ (i = .pushred a ∧ f = s.pushStep no p a) ∨
        (i = .pull a ∧ f = s.pullStep no p a) ∨ (i = .collCopy a ∧ f = s.copyStep p a) ∨ (i = .wait a ∧ f = s.waitStep p a) ∨
        (i = .collSignal a ∧ f = s.signalStep p a) ∨ (i = .collLoop a ∧ f = s.loopStep p a) ∨ (i = .endl a ∧ f = s.endlStep p) ∨
        (i = .countx a ∧ f = s.countStep p) ∨ (i = .pfxsum a ∧ f = s.pfxStep p) ∨ (i = .collEnd a ∧ f = s.endStep p)) →
      i.wf .L = true → (p.phase = 0 ∨ p.cur = some i) →
      (∀ u q owe, f = (u, .done q owe) → exec i s = .next (u.payAll no q owe)) ∧
      (∀ u q, f = (u, .stay q) → exec i s = .next (u.setProg no { q with
        phase := Nat.max 1 q.phase, cur := some i, since := if p.phase = 0 then u.wall else p.since })) ∧
      (∀ u q st c, f = (u, .stop q st c) → exec i s = .next (u.stopProg no q st c))) ∧
    (p.phase = 0 → ∀ go : Prog → Prog, (∀ q, go q = { q with owe := [], phase := 0, cur := none }) →
      (Instr.wf .L (.wait a) = true → a.len.toNat ≤ p.sig.get a.slot.toNat 0 →
        exec (.wait a) s = .next (s.setProg no (go { p with step := p.step + 1 }))) ∧
      (Instr.wf .L (.collLoop a) = true → p.loops.length < 4 → a.len ≠ 0 → exec (.collLoop a) s =
        .next (s.setProg no (go { p with step := p.step + 1, loops := (p.step + 1, 0, a.len.toNat) :: p.loops }))) ∧
      (Instr.wf .L (.endl a) = true → ∀ start i n ls, p.loops = (start, i, n) :: ls →
        (i + 1 < n → exec (.endl a) s = .next (s.setProg no (go { p with step := start, loops := (start, i + 1, n) :: ls }))) ∧
        (n ≤ i + 1 → exec (.endl a) s = .next (s.setProg no (go { p with step := p.step + 1, loops := ls })))) ∧
      (Instr.wf .L (.collSignal a) = true → ∀ d, p.peerOf a = some d → s.hasPath (s.pkgOf p.comm d) = true →
        s.openMsgs p isWrite = false → s.epochHeld p d = false → exec (.collSignal a) s =
          .next ((s.sendMsg (p.msg d (.signal a.slot.toNat))).setProg no (go { p with step := p.step + 1 }))))) ∧
  (∀ (s u : State) (no : Nat) (p q : Prog) (ws : List Word), s.prog? no = some p → p.started = false → p.status = none →
    p.hdr = [] → s.stalled p.gang = false → s.readWords (p.who s) p.cbuf 0 24 = (u, .ok ws) →
    q = { p with hdr := ws, comm := bitsOf (ws.getD 0 0) 16 16 } → u.progBehind no q = false →
    (u.commOk q = false → exec (.collProgramStart no) s = .next (u.stopProg no q 7 0)) ∧
    (u.commOk q = true → ∃ t x, exec (.collProgramStart no) s = .next t ∧ t.prog? no = some x ∧ x.started = true ∧
      x.epoch = u.epochOf q.comm q.rank % 65536 ∧ x.hdr = ws ∧ x.step = p.step ∧ t.epochOf q.comm q.rank = u.epochOf q.comm q.rank + 1)) ∧
  (∀ (s : State) (comm rank : Nat), (s.stor.cut.contains comm = true → s.epochOf comm rank = 0) ∧
    (s.stor.cut.contains comm = false → s.epochOf comm rank = s.coll.epochs.get (rankKey comm rank) 0)) ∧
  (∀ (s : State) (no : Nat) (p : Prog) (i : Instr) (a : StepArgs), s.prog? no = some p → p.cur = some i →
    (i = .send a ∨ i = .recv a ∨ i = .pushred a ∨ i = .pull a ∨ i = .collCopy a ∨ i = .wait a ∨ i = .collSignal a ∨
      i = .collLoop a ∨ i = .countx a ∨ i = .pfxsum a ∨ i = .collEnd a) →
    ∃ t, exec i { s with coll := { s.coll with cur := no } } = .next t ∧ exec (.collStepComplete no) s = .next t)

/-- The steps that move data, each whole, as it completes (21 R356 to R361): SEND reads its source and sends a message for each granule;
RECV goes on once what it expects has come; PUSHRED sends its contribution, waits, and goes on when it is accepted; PULL writes the
result of its generation and its mask; COPY moves its bytes; COUNTX and PFXSUM send their values to every rank and go on when every
rank's has come; END writes the completion record once nothing is open. The credits of C follow (16 R288). -/
def Obligations.CollectiveDataSteps : Prop :=
  ∀ (s : State) (no : Nat) (p : Prog) (a : StepArgs) (so do_ : Nat), s.coll.cur = no → s.prog? no = some p → p.runnable = true →
    s.stalled p.gang = false → ((a.li || a.sa || a.sb) = true → p.loops ≠ []) → so = (if a.sa then p.loopIdx * a.len.toNat else 0) →
    do_ = (if a.sb then p.loopIdx * a.len.toNat else 0) →
    ∀ go : Prog → Prog, (∀ q, go q = { q with step := q.step + 1, owe := [], phase := 0, cur := none }) →
    ∀ hold : Instr → State → Prog, (∀ i u, hold i u = { p with phase := 4, cur := some i, since := u.wall }) →
    (p.phase = 0 →
      (Instr.wf .L (.send a) = true →
        (p.peerOf a = none → exec (.send a) s = .next (s.setProg no (go p))) ∧
        (∀ d v len o q u bs, p.peerOf a = some d → s.hasPath (s.pkgOf p.comm d) = true → s.epochHeld p d = false →
          ((a.ix = false ∧ v = s ∧ len = a.len.toNat ∧ o = so ∧ q = do_) ∨
            (a.ix = true ∧ ∃ n x y u1 u2, s.xchg p 0 d 1 = (u1, .ok n) ∧ head0 n < 2 ^ 32 ∧ u1.xchg p 2 d 1 = (u2, .ok x) ∧
              u2.xchg p 4 d 1 = (v, .ok y) ∧ len = head0 n ∧ o = head0 x ∧ q = head0 y)) →
          v.streamRead (p.who v) (refBuf (p.handle a.ha)) (refOff (p.handle a.ha) + o) len = (u, .ok bs) →
          exec (.send a) s = .next (((u.noteBad p (p.handle a.ha) (refOff (p.handle a.ha) + o) bs).sendAll p d (refBuf (p.handle a.hb))
            a.c (refOff (p.handle a.hb) + q) len (refOff (p.handle a.hb) + q) (splitGranules bs)).setProg no (go p)))) ∧
      (Instr.wf .L (.recv a) = true →
        (p.peerOf a = none → exec (.recv a) s = .next (s.setProg no (go p))) ∧
        (∀ d, p.peerOf a = some d → s.hasPath (s.pkgOf p.comm d) = false → exec (.recv a) s = .next (s.stopProg no p 6 0)) ∧
        (∀ d n v q, p.peerOf a = some d → s.hasPath (s.pkgOf p.comm d) = true → s.recvLen p a d = (v, .ok n) → n < 2 ^ 32 →
          q = { p with expect := p.expect.put d ((p.expect.get d 0 + n) % 2 ^ 32), phase := 4 } →
          (q.expect.get d 0 ≤ p.recv.get d 0 → exec (.recv a) s = .next (v.payAll no q.next (owed a.c n))) ∧
          (p.recv.get d 0 < q.expect.get d 0 → exec (.recv a) s =
            .next (v.setProg no { q with cur := some (.recv a), since := v.wall })))) ∧
      (Instr.wf .L (.pushred a) = true → ∀ n u bs w x m, redFields a = some n → s.coll.pushed.contains (no * 64 + a.slot.toNat) = false →
        s.noReduce p.comm = false → s.commHome p.comm = 0xFFFF ∨ s.soundUp = true →
        s.streamRead (p.who s) (refBuf (p.handle a.ha)) (refOff (p.handle a.ha) + so) a.len.toNat = (u, .ok bs) → w = u.noteBad p (p.handle a.ha) (refOff (p.handle a.ha) + so) bs →
        m = p.msg (if s.commHome p.comm = 0xFFFF then p.rank else 2 ^ 20 + s.commHome p.comm)
          (.contrib a.slot.toNat (w.coll.gens.get (genKey p.comm p.rank a.slot.toNat) 0)
            (signature a.ty.toNat a.rop.toNat (a.len.toNat / n)) (bs.map (fun b => b.1))
            ((List.range (a.len.toNat / n)).filter (fun e => ((bs.drop (n * e)).take n).any (fun b => b.2))) p.tmo) →
        x = w.sendMsg m →
        exec (.pushred a) s = .next (State.setProg { x with coll := { x.coll with pushed := (no * 64 + a.slot.toNat) :: x.coll.pushed } }
          no (hold (.pushred a) x))) ∧
      (Instr.wf .L (.pull a) = true → ∀ n m sl g sig bytes bad mask flags partly ps u v w, redFields a = some n →
        s.noReduce p.comm = false → s.resultFor p a.slot.toNat = some m → m.body = .result sl g sig bytes bad mask flags partly false →
        sig = signature a.ty.toNat a.rop.toNat (a.len.toNat / n) →
        s.maskPlaces p mask.length = (u, .ok ps) →
        u.streamWrite (p.who u) (refBuf (p.handle a.hb)) (refOff (p.handle a.hb) + do_)
          ((bytes.zip (List.range bytes.length)).map (fun (x : Byte × Nat) => (x.1, bad.contains (x.2 / n)))) = (v, .ok ()) →
        w = ((v.writeMask p ps mask).dropResults p.comm p.rank a.slot.toNat).setGen p.comm p.rank a.slot.toNat (g + 1) →
        exec (.pull a) s = .next (State.payAll
          { w with coll := { w.coll with pushed := w.coll.pushed.filter (fun k => k != no * 64 + a.slot.toNat) } } no
          { p with step := p.step + 1, flags := p.flags ||| flags, poison := p.poison || !bad.isEmpty, partly := p.partly || partly
                   missing := (mask.filter (fun b => !b)).length, bytes := p.bytes + a.len.toNat } (owed a.c a.len.toNat))) ∧
      (Instr.wf .L (.collCopy a) = true → ∀ u1 u2 u3 u4 u5 u6 x y k es sp dp bad src dst, src = p.handle a.ha → dst = p.handle a.hb →
        s.entryOf (p.who s) (refBuf src) = (u1, .ok x) → u1.entryOf (p.who s) (refBuf dst) = (u2, .ok y) → copyUnit x y = some k →
        es = Nat.max 1 (k / 2) → a.len.toNat % es = 0 →
        u2.access (p.who s) (refBuf src) { need := .read, es := es, align := es }
          (offsFrom (refOff src + so) es (a.len.toNat / es)) = (u3, .ok sp) →
        u3.access (p.who s) (refBuf dst) { need := .write, es := es, align := es, nibble := true }
          (offsFrom (refOff dst + do_) es (a.len.toNat / es)) = (u4, .ok dp) →
        u4.inH (p.who s) (refBuf dst) = (u5, true) → u5.agentHeld (sp.flatten ++ dp.flatten) = false →
        u5.movePlaces ((p.who s).kid.getD 0) sp.flatten dp.flatten = (u6, bad) →
        exec (.collCopy a) s = .next ((if bad then u6.memErr (p.ev { kind := 6 }) (refBuf src) (refOff src + so) else u6).payAll no
          { p with step := p.step + 1, bytes := p.bytes + a.len.toNat } (owed a.c a.len.toNat))) ∧
      (Instr.wf .L (.countx a) = true → s.allPaths p = true → ∀ u ws x, s.xchg p 0 0 p.nrank = (u, .ok ws) →
        x = u.sendVals p (.count p.countNo) 0 ws → exec (.countx a) s = .next (x.setProg no (hold (.countx a) x))) ∧
      (Instr.wf .L (.pfxsum a) = true → s.allPaths p = true → ∀ u1 u2 u3 u4 sc rc x, s.xchg p 0 0 p.nrank = (u1, .ok sc) →
        u1.xchg p 1 0 p.nrank = (u2, .ok rc) → (∀ n ∈ prefixSums 0 sc ++ prefixSums 0 rc, n < 2 ^ 48) →
        u2.xchgPut p 2 ((prefixSums 0 sc).map (BitVec.ofNat 64)) = (u3, .ok ()) →
        u3.xchgPut p 3 ((prefixSums 0 rc).map (BitVec.ofNat 64)) = (u4, .ok ()) →
        x = u4.sendVals p (.offset p.prefNo) 0 ((prefixSums 0 rc).map (BitVec.ofNat 64)) →
        exec (.pfxsum a) s = .next (x.setProg no (hold (.pfxsum a) x))) ∧
      (Instr.wf .L (.collEnd a) = true → s.openMsgs p isOpen = false → ∀ u, s.writeRec { p with status := some 0 } = (u, .ok ()) →
        exec (.collEnd a) s = .next (u.payAll no { p with status := some 0, after := 1 } [32]))) ∧
    (Instr.wf .L (.pushred a) = true → p.phase = 2 → p.cur = some (.pushred a) →
      exec (.pushred a) s = .next (s.setProg no (go p))) ∧
    (Instr.wf .L (.countx a) = true → p.phase = 4 → p.cur = some (.countx a) → p.allIn p.rcnt = true →
      ∀ u, s.xchgPut p 1 (p.column p.rcnt) = (u, .ok ()) → exec (.countx a) s = .next (u.setProg no (go { p with rcnt := [], countNo := p.countNo + 1 }))) ∧
    (Instr.wf .L (.pfxsum a) = true → p.phase = 4 → p.cur = some (.pfxsum a) → p.allIn p.doff = true →
      ∀ u, s.xchgPut p 4 (p.column p.doff) = (u, .ok ()) → exec (.pfxsum a) s = .next (u.setProg no (go { p with doff := [], prefNo := p.prefNo + 1 })))

/-- What arrives at the collective engine (21 R353, R354, R357, R361, R362): a signal raises its counter, a granule is written and
counted; a contribution joins its instance, the last or the timer closes it and opens the next generation, one that arrives after
the timer ran out is late and is counted (that one in the same µs is present is the model's choice: LOG 85); the integer sum; and a step past its time stops with TIMEOUT. -/
def Obligations.CollectiveArrivals : Prop :=
  (∀ (s : State) (no : Nat) (m : Msg), s.coll.inbox.find? no = some m →
    (∀ n k p, m.body = .signal n → s.epochGate m.comm m.dst m.epoch ≠ .later → s.progAt m.comm m.dst m.epoch = some (k, p) →
      s.rankHere m.comm m.src = true → (∀ q, s.progAt m.comm m.src m.epoch = some (k, q) → q = p) → ∃ t, exec (.peerWrite no) s = .next t ∧
        t.prog? k = some { p with sig := p.sig.put n ((p.sig.get n 0 + 1) % 2 ^ 32) } ∧ t.mem = s.mem) ∧
    (∀ buf off bytes bad c base len u v ps w, m.body = .write buf off bytes bad c base len → s.epochGate m.comm m.dst m.epoch ≠ .later →
      w = s.whoAgent noCore (s.commCtx m.comm) 65536 → s.streamPlaces w buf base len = (v, .ok ps) →
      v.streamWrite w buf off ((bytes.zip (List.range bytes.length)).map (fun (x : Byte × Nat) => (x.1, bad.contains x.2))) = (u, .ok ()) →
      ∀ l, l = { m with body := .landed bytes.length } →
      exec (.peerWrite no) s =
        .next (((u.putMsg no l).handOver no l (addRecv m bytes.length)).answer m bytes.length c none)) ∧
    (∀ slot gen sig bytes bad tmo key x u, m.body = .contrib slot gen sig bytes bad tmo → key = slotKey m.comm slot →
      u = (s.dropMsg no).flush m.comm slot → x = u.coll.insts.get key { gen := gen, sig := sig, bad := false, since := s.wall, tmo := tmo, parts := [] } →
      ∀ y, y = { x with bad := x.bad || x.sig != sig, parts := x.parts.put m.src (bytes, bad) } →
      ∃ t, exec (.contribution no) s = .next t ∧
        (gen ≠ u.coll.homeGen.get key 0 → t.coll.insts = u.coll.insts ∧
          t.coll.lateN = (if s.coll.lateN = 0xFFFF then 0xFFFF else s.coll.lateN + 1)) ∧
        (gen = u.coll.homeGen.get key 0 → y.parts.length ≠ s.commRanks m.comm → t.coll.insts.find? key = some y) ∧
        (gen = u.coll.homeGen.get key 0 → y.parts.length = s.commRanks m.comm →
          t.coll.homeGen.get key 0 = (y.gen + 1) % 65536))) ∧
  (∀ (s : State) (comm slot : Nat) (x : Instance), s.coll.insts.find? (slotKey comm slot) = some x →
    (x.tmo = 0 ∨ s.wall ≤ x.since + x.tmo → exec (.flush comm slot) s = .next s ∧ s.flush comm slot = s) ∧
    (x.tmo ≠ 0 → x.since + x.tmo < s.wall → ∃ t, exec (.flush comm slot) s = .next t ∧ t = s.flush comm slot ∧
      t.coll.homeGen.get (slotKey comm slot) 0 = (x.gen + 1) % 65536 ∧
      t.coll.flushN = (if s.coll.flushN = 0xFFFF then 0xFFFF else s.coll.flushN + 1))) ∧
  (∀ xs : List Nat, (∀ x ∈ xs, x < 2 ^ 32) → foldElem 2 0 xs = (xs.sum % 2 ^ 32, 0)) ∧
  (∀ (s : State) (no : Nat) (p : Prog), s.prog? no = some p → p.runnable = true → p.phase ≠ 0 → p.tmo ≠ 0 →
    p.since + p.tmo ≤ s.wall → exec (.collTimeout no) s = .next (s.stopProg no p 3 0))

/-- The step sequencers (10 R189 to R194), FRPLY (18 R313) and the event ring's registers (R314). That an ABORT written while no step is
in work stays set is the model's choice (LOG 76). -/
def Obligations.SequencerService : Prop :=
  (∀ (s : State) (n : Nat) (x : Seq), n < 16 → x = s.seq n →
    (s.partHeld = false → s.evq.enabled = true → s.hasWaiter (.seq n) = false → x.st = 1 → x.abort = false →
      (x.n < x.k0 → exec (.seqStepStart n) s = .next (s.setSeq n (x.fail 2 0 0))) ∧
      (x.k0 ≤ x.n → x.n ≤ x.step → ∃ t, exec (.seqStepStart n) s = .next t ∧ (t.seq n).st = 6) ∧
      (x.k0 ≤ x.n → x.step < x.n → ∀ u row, s.seqWords x (x.word 0) (128 * x.step) 8 16 = (u, .ok row) →
        (4 ≤ row.getD 0 0 ∨ row.getD 1 0 ≠ 0 → exec (.seqStepStart n) s = .next (u.setSeq n (x.fail 1 0 0))) ∧
        (row.getD 0 0 < 4 → row.getD 1 0 = 0 → (row.getD 0 0).testBit 1 = true → x.next = 0 → x.resume = false →
          ∃ t, exec (.seqStepStart n) s = .next t ∧ t.seq n = { x with st := 4 }) ∧
        (row.getD 0 0 < 4 → row.getD 1 0 = 0 → (row.getD 0 0).testBit 1 = false ∨ x.next ≠ 0 →
          ∀ v key kid, u.seqEbo x (.atomic false) = (v, .ok key) → kid = ((x.who v).kid).getD 0 →
          ∀ w, w = v.boOp kid key { kind := 6, ctx := x.ctx } (refBuf x.ebo) (refOff x.ebo) (fun b => b.arm x.ebytes) →
          exec (.seqStepStart n) s = .next ((w.setSeq n { x with
            q := (BitVec.ofNat 64 x.step :: BitVec.ofNat 64 x.n :: (row.drop 2).map (BitVec.ofNat 64)) ++
              [BitVec.ofNat 64 (row.getD 0 0)]
            next := 2, st := 2, phase := decide ((v.boAt kid key).phase = 1), noted := v.boBad key }).armGraph n x.glen)))) ∧
    (s.partHeld = false → s.hasWaiter (.seq n) = false → x.pop = 0 → x.st = 3 → x.abort = false →
      ∀ u key ph, s.seqEbo x .read = (u, .ok key) → u.boBad key = false →
        ph = decide ((u.boAt (((x.who u).kid).getD 0) key).phase = 1) →
        (ph = x.phase → exec (.seqStepEnd n) s = .next u) ∧
        (ph ≠ x.phase → x.step + 1 < x.n →
          exec (.seqStepEnd n) s = .next (u.setSeq n { x with step := x.step + 1, st := 1, next := 0 })) ∧
        (ph ≠ x.phase → x.n ≤ x.step + 1 → ∃ t, exec (.seqStepEnd n) s = .next t ∧ (t.seq n).st = 6)) ∧
    (x.st = 4 → exec (.sqctlResume n) s = .next (s.setSeq n { x with st := 1, next := 1, resume := false })) ∧
    (x.st = 5 → s.cryo.band ≠ 4 → exec (.sqctlResume n) s = .next (s.setSeq n { x with st := x.held, resume := false })) ∧
    (x.st ≠ 4 → x.st ≠ 5 ∨ s.cryo.band = 4 → exec (.sqctlResume n) s = .next (s.setSeq n { x with resume := true })) ∧
    (x.st = 1 ∨ x.st = 4 ∨ x.st = 5 → x.pop = 0 →
      exec (.sqctlAbort n) s = .next (s.setSeq n { x with st := 0, abort := false })) ∧
    ((x.st ≠ 1 ∧ x.st ≠ 4 ∧ x.st ≠ 5) ∨ x.pop ≠ 0 → exec (.sqctlAbort n) s = .next (s.setSeq n { x with abort := true }))) ∧
  (∀ (s : State) (e : Eng) (slot : Nat) (x : TaskInfo), s.info slot = some x → x.dying = false → s.heldEvent slot = false →
    s.coll.cmds.filter (fun y => y.2.slot == slot && y.2.st == csFaulted) = [] →
    (∀ f, s.coreOf slot = none → x.fault = some f → s.recState slot = 6 →
      exec (.frplyResume e slot) s =
        .next (((s.servePages (f / 4)).modInfo slot (fun y => { y with fault := none })).enterReady slot)) ∧
    (∀ c t f, s.coreOf slot = some c → (s.core c).task = some t → t.delivery = [] → x.fault = some f →
      (s.eng c e).page = true → ∃ u, exec (.frplyResume e slot) s = .next u ∧ (u.eng c e).page = false ∧
        (u.eng c e).csr.blocked = false ∧ (u.eng c e).grp = (s.eng c e).grp ∧ (u.eng c e).regrp = (s.eng c e).regrp) ∧
    (∀ f u v, s.coreOf slot = none → x.fault = some f → s.evq.roomFor 1 = true →
      u = s.post (killEv (s.heldEv slot { kind := 2 })) →
      v = (if x.saved.isSome then u.giveBlock (u.partWord (u.dirAddr slot)).toNat else u) →
      exec (.frplyKill e slot) s = .next (v.freeSlot slot)) ∧
    (∀ c t f, s.coreOf slot = some c → (s.core c).task = some t → x.fault = some f → ∃ u, exec (.frplyKill e slot) s = .next u ∧
      (u.core c).task = some { t with killing := true } ∧ ∀ g, (u.eng c g).page = false)) ∧
  (∀ (s : State) (v : Word) (h : BitVec 32), s.evq.waiting = [] → (∀ x ∈ s.sched.tasks, x.2.dying = false) →
    exec (.evqbaseWrite v) s =
      .next { s with evq := { s.evq with base := v.extractLsb' 12 44, log2n := v.extractLsb' 0 5 } } ∧
    exec (.evqheadWrite h) s = .next { s with evq := { s.evq with head := h } })

/-- The mechanisms of the memory levels: hash migration from its start to its last unit (11 R219), rebuild from parity or a copy and
poison without them (R221), the scrub below B4 (20 R336), a refresh, which changes nothing (R337), and the retirement of a bundle,
which clears its bit in SLCAP (11 R222, R223). That START clears as the migration ends is the model's choice (LOG 63). -/
def Obligations.MemoryMechanisms : Prop :=
  ∀ (s : State) (newv : BitVec 4) (line c layer b : Nat),
    (s.host.mapBusy = true → exec (.mapctlStart newv) s = .next s) ∧
    (s.host.mapBusy = false →
      exec (.mapctlStart newv) s = .next { s with host := { s.host with newv := newv, mapBusy := true, mapGo := true, migbnd := 0 } }) ∧
    (s.host.mapBusy = true → ∃ t, exec .remapUnitMove s = .next t ∧ t.host.migbnd = s.host.migbnd + 1 ∧
      (s.host.migbnd + 1 < s.hbmSize / 65536 → t.host.mapBusy = true ∧ t.host.curv = s.host.curv) ∧
      (s.hbmSize / 65536 ≤ s.host.migbnd + 1 → t.host.mapBusy = false ∧ t.host.curv = s.host.newv)) ∧
    (s.stor.dramErr.contains line = false → 128 * line < 2 ^ 48 → exec (.hbmRebuild line) s = .next s) ∧
    (s.stor.dramErr.contains line = true → 128 * line < 2 ^ 48 →
      (∀ u, (∀ l ∈ s.stor.dramErr ++ s.stor.poison, l ≠ line → 128 * l < 2 ^ 48 → s.stripe l ≠ s.stripe line) ∨ s.copyGood line = true →
        u = { s with stor := { s.stor with dramErr := s.stor.dramErr.filter (fun l => l != line) } } →
        exec (.hbmRebuild line) s = .next ((u.post { kind := 7, detail := Config.openDetail 7 [line] }).countErr 0)) ∧
      ((∃ l ∈ s.stor.dramErr ++ s.stor.poison, l ≠ line ∧ 128 * l < 2 ^ 48 ∧ s.stripe l = s.stripe line) → s.copyGood line = false →
        exec (.hbmRebuild line) s = .next { s with stor := { s.stor with
          dramErr := s.stor.dramErr.filter (fun l => l != line), poison := line :: s.stor.poison } })) ∧
    (s.cryo.band.toNat < 4 → s.cryo.st ≠ 0 → s.cryo.st ≠ 7 → 128 * line < 2 ^ 49 → ∃ t, exec (.patrolScrub line) s = .next t ∧ line ∉ t.stor.dramErr ∧ t.cryo.patrol = line ∧
      (2 ^ 48 ≤ 128 * line → s.stor.dramErr.contains line = true → line ∈ t.stor.poison)) ∧
    exec .dramRefresh s = .next s ∧
    (∀ latent bank spares, latent = s.latentBehind c layer b → bank = s.bankBehind c layer b → spares = s.spareUnits c layer b →
      s.present c = true → layer ≤ 1 → b ≤ 1 → (s.slcap c layer).getLsbD (16 + b) = true →
      (latent.drop spares.length ++ bank).length ≤ s.stor.reserve.length →
      (∀ u ∈ latent ++ bank, s.heldUnit (s.pageAt u) = false) →
      ∃ t, exec (.bundleRetire c layer b) s = .next t ∧ (t.slcap c layer).getLsbD (16 + b) = false ∧
        4 * c + 2 * layer + b ∈ t.stor.deadB ∧ (∀ u ∈ bank, u ∈ t.stor.unserved))

-- the part and its surroundings

/-- The cryogenic controller (20 R335 to R346): the band of a temperature; a sample that is due retreats at once or starts the hold
timer, and during training makes the part SAFE; the hold timer advances to the warmest band sampled; a command waits for the sample
of its period, which is taken first (R346), and is judged after it, those of the side-band first within a cycle (22 R376): COOL, WARM,
POWEROFF and ABORT in their states and BADCMD in others. That each waits for the sample is the model's choice (LOG 77); training, warm-up, its deadline and the heartbeat. -/
def Obligations.CryogenicEvents : Prop :=
  (∀ k : Nat, (∀ t : Therm, t.valid = false → bandOf t = 4) ∧ (k ≤ 1440 → bandOf { valid := true, kelvin := k } = 0) ∧
    (1440 < k → k ≤ 1760 → bandOf { valid := true, kelvin := k } = 1) ∧
    (1760 < k → k ≤ 2400 → bandOf { valid := true, kelvin := k } = 2) ∧
    (2400 < k → k ≤ 4000 → bandOf { valid := true, kelvin := k } = 3) ∧ (4000 < k → bandOf { valid := true, kelvin := k } = 4)) ∧
  (∀ (s : State) (new : Nat), new ≤ 4 → (s.setBand new).cryo.st = s.cryo.st ∧ (s.setBand new).cryo.band.toNat = new ∧
    (new ≠ s.cryo.band.toNat → (s.setBand new).cryo.slip = decide (2 ≤ new)) ∧ (s.setBand new).cryo.hold = s.cryo.hold) ∧
  (∀ s : State, s.cryo.st ≠ 0 → s.cryo.sampled + 1000 ≤ s.wall → ∃ u : State, exec .tempSample s = .next u.judgeAsked ∧
    u.cryo.asked = s.cryo.asked ∧ u.cryo.temps = s.sensors ∧ u.cryo.sampled = s.wall) ∧
  (∀ (s u : State) (b : Nat), s.cryo.st ≠ 0 → s.cryo.sampled + 1000 ≤ s.wall → s.cryo.asked = [] →
    b = bandOf (warmestSensor s.sensors).2 → u = { s with cryo := { s.cryo with temps := s.sensors, sampled := s.wall } } →
    (b ≤ s.cryo.band.toNat → s.cryo.st = 2 ∨ s.cryo.st = 4 ∨ s.cryo.st = 5 →
      exec .tempSample s = .next { u with cryo := u.cryo.timed b s.wall }) ∧
    (s.cryo.band.toNat < b → ∃ t, exec .tempSample s = .next t ∧ t.cryo.temps = s.sensors ∧ t.cryo.sampled = s.wall ∧
      (s.cryo.st = 2 → t.cryo.band.toNat = b ∧ t.cryo.st = 2 ∧ t.cryo.hold = none) ∧
      (s.cryo.st = 3 → 2 ≤ b → t.cryo.band.toNat = 4 ∧ t.cryo.st = 7) ∧
      (s.cryo.st = 4 ∨ s.cryo.st = 5 → t.cryo.hold = none ∧ t.cryo.band.toNat = b ∧
        (b ≤ 1 → t.cryo.st = 4) ∧ (b = 2 ∨ b = 3 → t.cryo.st = 5) ∧ (b = 4 → t.cryo.st = 6 ∧ t.cryo.warmAt = s.wall)))) ∧
  (∀ s : State, s.cryo.st = 0 ∨ s.wall < s.cryo.sampled + 1000 → exec .tempSample s = .next s) ∧
  (∀ (s : State) (t : Nat), s.cryo.hold = some t → s.cryo.mayCool = true → s.cryo.warmest.toNat ≤ 4 →
    (s.wall < t + s.cryo.holdUs → exec .holdTimerExpire s = .next s) ∧
    (t + s.cryo.holdUs ≤ s.wall → ∃ u, exec .holdTimerExpire s = .next u ∧ u.cryo.hold = none ∧
      u.cryo.band = s.cryo.warmest ∧ (s.cryo.st = 2 → s.cryo.warmest.toNat ≤ 1 → u.cryo.st = 3) ∧
      (s.cryo.st = 5 → s.cryo.warmest.toNat ≤ 1 → u.cryo.st = 4))) ∧
  (∀ (s : State) (i : Instr) (cmd : BitVec 3) (n : Nat),
    (i = .cryoctlCool ∧ n = 1) ∨ (i = .cryoctlWarm ∧ n = 2) ∨ (i = .cryoctlPoweroff ∧ n = 3) ∨ (i = .cryoctlAbort ∧ n = 4) →
    exec i s = .next (s.ask true n) ∧ (s.powered = true → exec (.cryo cmd) s = .next (s.ask false cmd.toNat))) ∧
  (∀ (s : State) (host : Bool) (cmd : Nat) (x y : Asked) (q : List Asked), x = { at_ := s.moment, host := host, cmd := cmd } →
    ∀ t : State, t = { s with cryo := { s.cryo with asked := q } } →
    (s.cryo.st = 0 → s.ask host cmd = s.cryoCmd cmd) ∧
    (s.cryo.st ≠ 0 → s.cryo.asked = [] → q = [x] → s.ask host cmd = t) ∧
    (s.cryo.st ≠ 0 → s.cryo.asked = [y] → host = true ∨ y.at_ ≠ s.moment ∨ y.host = false → q = [y, x] → s.ask host cmd = t) ∧
    (s.cryo.st ≠ 0 → s.cryo.asked = [y] → host = false → y.at_ = s.moment → y.host = true → q = [x, y] → s.ask host cmd = t) ∧
    (s.cryo.asked = [] → s.judgeAsked = s) ∧ (s.cryo.asked = [y] → q = [] → s.judgeAsked = t.cryoCmd y.cmd)) ∧
  (∀ s : State,
    (s.cryo.st = 1 → s.runningCores = [] → s.cryoCmd 1 = { s with cryo := { s.cryo with st := 2, cmd := 0 } }) ∧
    (s.cryo.st = 4 ∨ s.cryo.st = 5 ∨ s.cryo.st = 7 → (s.cryoCmd 2).cryo.st = 6 ∧ (s.cryoCmd 2).cryo.warmAt = s.wall ∧
      (s.cryoCmd 2).cryo.hold = none) ∧
    (s.cryo.st = 6 → s.cryoCmd 3 = { s with cryo := { s.cryo with offAt := true } }) ∧
    (s.cryo.st = 2 → (s.cryoCmd 4).cryo.st = 1 ∧ (s.cryoCmd 4).cryo.band.toNat = 4 ∧ (s.cryoCmd 4).cryo.hold = none) ∧
    (∀ n, n = 0 ∨ 4 < n → s.cryoCmd n = s) ∧
    (∀ n, (n = 1 ∧ s.cryo.st ≠ 1) ∨ (n = 2 ∧ s.cryo.st ≠ 4 ∧ s.cryo.st ≠ 5 ∧ s.cryo.st ≠ 7) ∨ (n = 3 ∧ s.cryo.st ≠ 6) ∨
      (n = 4 ∧ s.cryo.st ≠ 2) → s.cryoCmd n = { s with cryo := { s.cryo with badcmd := true } })) ∧
  (∀ s : State,
    (s.cryo.st = 3 → exec (.trainingDone true) s = .next { s with cryo := { s.cryo with st := 4 } } ∧
      ∃ t, exec (.trainingDone false) s = .next t ∧ t.cryo.st = 7 ∧ t.cryo.band.toNat = 4) ∧
    (s.cryo.st = 6 → s.drained = true → ∀ u, u = s.cores.foldl (fun s x => s.release x.1) s →
      (∀ x ∈ u.cores, x.2.settled = true) → s.cryo.offAt = false →
      ∃ t, exec .warmupComplete s = .next t ∧ t.cryo.st = 1 ∧ t.cryo.band.toNat = 4) ∧
    (s.cryo.st = 6 → s.cryo.warmAt + 10000000 ≤ s.wall →
      ∃ t, exec .warmupDeadline s = .next t ∧ t.cryo.st = 7 ∧ t.cryo.band.toNat = 4) ∧
    (s.cryo.st = 6 → s.wall < s.cryo.warmAt + 10000000 → exec .warmupDeadline s = .next s) ∧
    (s.cryo.st ≠ 0 → ∃ t, exec .heartbeatMiss s = .next t ∧ t.cryo.st = 7 ∧ t.cryo.band.toNat = 4))

/-- Boot, the management port and the memory keys (22 R377 to R384): an image runs only if it passes every check, else the boot ROM waits
for one that does; replies, whenever the part has power, the boot ROM that waits included; counters that are cleared when read; the
commands of CRYO; keys that are installed and erased only in a secured session or on an IDE stream, and K1 and K2, which a load
clears; a write of a TDI in RUN is dropped (R369). Which image the boot ROM reads is the model's choice (LOG 87). -/
def Obligations.ManagementCommands : Prop :=
  (∀ (s : State) (img rom : Image) (ok : Image → Prop),
    (∀ x : Image, ok x ↔ x.magic = 0x4B525659 ∧ x.length.toNat ≤ 12582912 ∧ x.length.toNat = x.body.length ∧ x.resv0 = true ∧
      Config.rsaOk x = true ∧ Config.slhOk x = true ∧ s.mgmt.svn.toNat ≤ x.svn.toNat) →
    ∀ t : Image → State, (∀ x, t x = { s with
      mgmt := { s.mgmt with booted := true, waiting := false, digest := Config.digestOf x, runSvn := x.svn }
      cryo := { s.cryo with st := 1 } }) →
    ((s.mgmt.flash = none ∧ rom = img) ∨ s.mgmt.flash = some rom) →
    (s.cryo.st = 0 → s.mgmt.waiting = false → ok rom → exec (.powerUp img) s = .next (t rom)) ∧
    (s.cryo.st = 0 → s.mgmt.waiting = false → ¬ok rom →
      exec (.powerUp img) s = .next { s with mgmt := { s.mgmt with waiting := true } }) ∧
    (s.mgmt.waiting = true → ok img → exec (.recover img) s = .next (t img)) ∧
    (s.mgmt.waiting = false ∨ ¬ok img → exec (.recover img) s = .next s)) ∧
  (∀ s : State, s.cryo.st ≠ 0 ∨ s.mgmt.waiting = true →
    (∃ t : State, exec .rdband s = .next t ∧ t.cryo = s.cryo ∧ t.mgmt.reply.length = 13 ∧
      bitsOf (t.mgmt.reply.getD 0 0) 12 4 = s.cryo.st.toNat ∧ bitsOf (t.mgmt.reply.getD 0 0) 8 3 = s.cryo.band.toNat ∧
      bitsOf (t.mgmt.reply.getD 0 0) 16 1 = (if s.cryo.badcmd then 1 else 0) ∧
      ∀ i x, i < 12 → x = s.cryo.temps.get i noTherm → x.kelvin < 65536 →
        (t.mgmt.reply.getD (i + 1) 0).toNat = x.kelvin + (if x.valid then 65536 else 0)) ∧
    (∃ w, exec .rdpwr s = .next { s with free := s.free + 1, mgmt := { s.mgmt with reply := [w] } }) ∧
    (∃ t : State, exec .rderr s = .next t ∧ t.evq.errs = [] ∧ t.evq.lost = 0 ∧ t.coll.flushN = 0 ∧ t.coll.mismN = 0 ∧
      t.coll.lateN = 0 ∧ t.mgmt.reply.length = 4 ∧ t.mgmt.reply.getD 3 0 = s.evq.lost.setWidth 64) ∧
    (∀ n : BitVec 3, exec (.cryo n) s = .next (s.ask false n.toNat)) ∧
    (∀ block nonce, exec (.getMeasurements block nonce) s = .next { s with mgmt := { s.mgmt with
      reply := Config.measurement block nonce (s.measured block.toNat) } }) ∧
    (∀ peer, exec (.keyExchange peer) s = .next { s with mgmt := { s.mgmt with
      session := some (Config.sessionKey peer)
      reply := Config.exchange peer } })) ∧
  (∀ (s : State) (k1 k2 : BitVec 256) (slot : BitVec 10), s.cryo.st ≠ 0 ∨ s.mgmt.waiting = true →
    (slot ≠ 0 → k1 ≠ k2 → s.mgmt.session.isSome = true → ∃ t : State, exec (.keyld true k1 k2 slot false) s = .next t ∧
      t.mgmt.reply = [1] ∧ ∃ x : KeySlot, t.mgmt.keys.find? slot.toNat = some x ∧ x.k1 = k1 ∧ x.k2 = k2) ∧
    (slot ≠ 0 → s.mgmt.session.isSome = true → exec (.keyld true k1 k2 slot true) s = .next { s with mgmt := { s.mgmt with
      keys := s.mgmt.keys.del slot.toNat
      reply := [1] } }) ∧
    (slot = 0 ∨ k1 = k2 → s.mgmt.session.isSome = true →
      exec (.keyld true k1 k2 slot false) s = .next { s with mgmt := { s.mgmt with reply := [2] } }) ∧
    (∀ e, exec (.keyld false k1 k2 slot e) s = .next s)) ∧
  (∀ (s : State) (o : Origin) (slot : BitVec 10),
    (∀ i, i = .keyldInstall o slot ∨ i = .keyldErase o slot →
      (o = .host ∨ o = .firmware → exec i s = .next { s with host := { s.host with kstat := 2 } }) ∧
      (∀ n, o = .tdi n → n ∈ s.host.tdiRun → exec i s = .next s) ∧ (o = .sideband → exec i s = .next s)) ∧
    (s.onIde .ide = true ∧ (∀ n, n ∉ s.host.tdiRun → s.onIde (.tdi n) = true)) ∧
    (s.onIde o = true → slot ≠ 0 → s.host.k1 ≠ s.host.k2 → ∃ t : State, exec (.keyldInstall o slot) s = .next t ∧
      t.host.kstat = 1 ∧ t.host.kslot = slot ∧ t.host.k1 = 0 ∧ t.host.k2 = 0 ∧
      ∃ x : KeySlot, t.mgmt.keys.find? slot.toNat = some x ∧ x.k1 = s.host.k1 ∧ x.k2 = s.host.k2) ∧
    (s.onIde o = true → slot ≠ 0 → exec (.keyldErase o slot) s = .next { s with
      mgmt := { s.mgmt with keys := s.mgmt.keys.del slot.toNat }
      host := { s.host with kstat := 1, kslot := slot, k1 := 0, k2 := 0 } }))

/-- The work queues (22 R371 to R376): a doorbell is TAIL or halts its queue with ERRC 3; ENABLE, RETRY and SKIP, which a queue that is
not HALTED holds (00 R5; how long is the model's choice, LOG 63); the entry a queue
takes has its effect and is accepted, which moves HEAD, or it waits, or it halts the queue with its code; a wait that ends runs the
entry again. An MSI-X vector is sent, or pends while it is masked (how it is masked: LOG 84). -/
def Obligations.WorkQueueEvents : Prop :=
  (∀ (s : State) (q errc : Nat), errc < 256 → ∃ t, t = s.haltWq q errc ∧ (t.wq q).st = 2 ∧ (t.wq q).errc.toNat = errc ∧
    (t.wq q).erridx.toNat = (s.wq q).head % (s.wq q).size % 65536 ∧ t.host.msix = s.host.msix ++ (if s.msixMasked 2047 then [] else [2047]) ∧
    (s.msixMasked 2047 = true → 2047 ∈ t.host.pend) ∧ (t.wq q).head = (s.wq q).head ∧ (t.wq q).tail = (s.wq q).tail ∧ t.mem = s.mem) ∧
  (∀ (s : State) (q : Nat), ∃ t, t = s.acceptWq q ∧ (t.wq q).st = 1 ∧ (t.wq q).cur = none ∧
    (t.wq q).head = ((s.wq q).head + 1) % (s.wq q).size ∧ t.mem = s.mem) ∧
  (∀ (s : State) (o : Origin) (q : Nat) (w : Wq) (tail : BitVec 32), w = s.wq q →
    (s.reachesBell o q = true → tail.toNat < w.size → exec (.doorbell o q tail) s = .next (s.setWq q { w with tail := tail.toNat })) ∧
    (s.reachesBell o q = true → w.size ≤ tail.toNat → w.st ≠ 2 → exec (.doorbell o q tail) s = .next (s.haltWq q 3)) ∧
    (s.reachesBell o q = false → exec (.doorbell o q tail) s = .next s) ∧
    (s.reachesBlock o q = true →
      (w.st = 0 → exec (.wqctlEnable o q true) s =
        .next (s.setWq q { w with st := 1, enable := true, cur := none, noted := false, boNoted := false })) ∧
      (w.st ≠ 2 → exec (.wqctlEnable o q false) s =
        .next (s.setWq q { w with st := 0, enable := false, cur := none, noted := false, boNoted := false })) ∧
      (∀ st : BitVec 2, st = (if w.enable then 1 else 0) → w.st = 2 →
        exec (.wqctlRetry o q) s = .next (s.setWq q { w with st := st, cur := none, noted := false, boNoted := false }) ∧
        exec (.wqctlSkip o q) s =
          .next (s.setWq q { w with st := st, cur := none, noted := false, boNoted := false, head := (w.head + 1) % w.size })) ∧
      (w.st ≠ 2 → exec (.wqctlRetry o q) s = .next (s.setWq q { w with retry := true }) ∧
        exec (.wqctlSkip o q) s = .next (s.setWq q { w with skip := true })))) ∧
  (∀ (s : State) (q ctx : Nat) (i : Instr), q = s.host.wqCur → ctx = (s.wq q).ctxid.toNat →
    (s.wq q).cur = some i → (s.wq q).st = 1 →
    (∀ (r : BitVec 16) tiles, i = .launch r false tiles → s.evq.enabled = true → s.partHeld = false →
      (∀ st, s.armStatus (r.setWidth 64) ctx = st → st ≠ 0 → exec i s = .next (s.haltWq q (4 + 16 * st))) ∧
      (s.armStatus (r.setWidth 64) ctx = 0 →
        (s.lrecTiles r.toNat = 0 → exec i s = .next (s.acceptWq q)) ∧
        (s.lrecTiles r.toNat ≠ 0 → bitsOf (s.lrecWord r.toNat 0x20) 0 16 = 0 →
          exec i s = .next ((s.armRecords r.toNat none [] none).acceptWq q)) ∧
        (∀ u key st, s.lrecTiles r.toNat ≠ 0 → s.readDbo noCore r.toNat { kind := 6 } = (u, .at_ key st) →
          exec i s = .next ((u.armRecords r.toNat none [] (some (key, st))).acceptWq q)))) ∧
    (∀ (r : BitVec 16) tiles, i = .launch r true tiles → s.evq.enabled = true → s.partHeld = false →
      (∀ st, s.patchStatus (r.setWidth 64) (tiles.setWidth 64) 1 ctx = st → st ≠ 0 →
        exec i s = .next (s.haltWq q (4 + 16 * st))) ∧
      (∀ u, u = s.patch r.toNat 1 (tiles.setWidth 64) → s.patchStatus (r.setWidth 64) (tiles.setWidth 64) 1 ctx = 0 →
        u.armStatus (r.setWidth 64) ctx = 0 →
        (u.lrecTiles r.toNat = 0 → exec i s = .next (u.acceptWq q)) ∧
        (u.lrecTiles r.toNat ≠ 0 → bitsOf (u.lrecWord r.toNat 0x20) 0 16 = 0 →
          exec i s = .next ((u.armRecords r.toNat none [] none).acceptWq q)))) ∧
    (∀ n a b c d e f u ok ds, i = .seq n a b c d e f → s.evq.enabled = true → (s.seq n.toNat).startable = true →
      ds = [a, b, c, d, e, f, 0, 0] →
      (bitsOf d 16 16 ≠ ctx → exec i s = .next (s.haltWq q 5)) ∧
      (bitsOf d 16 16 = ctx → s.seqValid ds = (u, ok) →
        (ok = (false, none) → exec i s = .next (u.haltWq q 5)) ∧
        (∀ x buf, ok = (false, some (x, buf)) →
          exec i s = .next (u.badRef q x.fail buf (x.off % (2 ^ 48 : Int)).toNat)) ∧
        (ok.1 = true → exec i s = .next ((u.seqBegin n.toNat ds).acceptWq q)))) ∧
    (∀ src dst len bo, i = .copy src dst len bo →
      (bitsOf len 48 16 ≠ 0 → exec i s = .next (s.haltWq q 2)) ∧
      (∀ u v, bitsOf len 48 16 = 0 → s.rangesOk (s.whoWq q) (cmdRanges kCopy [src, dst, len] [] bo) = (u, none) →
        u.copyOdd (s.whoWq q) src dst = (v, false) →
        exec i s = .next ((v.addCmd (Cmd.new kCopy slotCount 0 noCore (4 + q) 0 (v.wq q).ctxid 0 [src, dst, len] bo []
          [(noCore, 0, 0)] none (some q))).acceptWq q))) ∧
    (∀ bo ph u v key, i = .waitbo bo ph → s.boHeld (s.whoWq q) (refBuf bo) (refOff bo) = false → s.boKey (s.whoWq q) (refBuf bo) (refOff bo) .read = (u, .ok key) →
      u.ferried key = false → u.pinnedFor noCore (lineOf key) = false → v = u.reach [lineOf key] →
      (v.boBad key = true → (v.wq q).boNoted = true → exec i s = .next (v.setWq q { v.wq q with st := 3 })) ∧
      (v.boBad key = true → (v.wq q).boNoted = false → ∀ x, x = v.memErr { kind := 6, ctx := (v.wq q).ctxid.toNat } (refBuf bo) (refOff bo) →
        exec i s = .next (x.setWq q { v.wq q with st := 3, boNoted := true })) ∧
      (v.boBad key = false → decide ((v.boAt ((s.whoWq q).kid.getD 0) key).phase = 1) = ph →
        exec i s = .next (v.setWq q { v.wq q with st := 3 })) ∧
      (v.boBad key = false → decide ((v.boAt ((s.whoWq q).kid.getD 0) key).phase = 1) ≠ ph → exec i s = .next (v.acceptWq q))) ∧
    (∀ bo n vec msix u v w key kid, i = .signal bo n vec msix → s.boHeld (s.whoWq q) (refBuf bo) (refOff bo) = false →
      s.boKey (s.whoWq q) (refBuf bo) (refOff bo) (.atomic false) = (u, .ok key) →
      u.ferried key = false → u.pinnedFor noCore (lineOf key) = false → v = u.reach [lineOf key] →
      kid = (s.whoWq q).kid.getD 0 → w = (v.creditAllAhead key (v.boAt kid key).flips (fun _ => true)).boOp kid key
        { kind := 6, ctx := (v.wq q).ctxid.toNat } (refBuf bo) (refOff bo) (fun b => b.credit n.toNat) →
      (msix = false ∨ v.boBad key = true → exec i s = .next (w.acceptWq q)) ∧
      (msix = true → v.boBad key = false → exec i s = .next ((w.sendMsix vec.toNat).acceptWq q))) ∧
    (∀ p arg bo rank nrank u v d, i = .coll p arg bo rank nrank →
      s.rangesOk (s.whoWq q) (cmdRanges kColl [p] [] bo) = (u, none) → u.entryOf (s.whoWq q) (refBuf p) = (v, .ok d) →
      (refOff p % 64 ≠ 0 ∨ d.layer ≠ 0 ∨ d.view ≠ 0 → exec i s = .next (v.haltWq q 0x56)) ∧
      (refOff p % 64 = 0 → d.layer = 0 → d.view = 0 → v.queueRoom noCore kColl 0 = true →
        exec i s = .next ((v.addProg (Prog.new slotCount 0 (some q) (v.wq q).ctxid 0 0 noCore rank.toNat nrank.toNat p arg
          bo)).acceptWq q))) ∧
    (∀ j r b t, j = .launch r b t → i ≠ j → exec j s = .next s)) ∧
  (∀ (s : State) (q : Nat) (i : Instr), (s.wq q).cur = some i → (s.wq q).st = 3 →
    (∀ r b t, i = .launch r b t → exec (.wqWaitEnd q) s = .next (s.launchEntry q r b t)) ∧
    (∀ n a b c d e f, i = .seq n a b c d e f → exec (.wqWaitEnd q) s = .next (s.seqEntry q n [a, b, c, d, e, f])) ∧
    (∀ src dst len bo, i = .copy src dst len bo → exec (.wqWaitEnd q) s = .next (s.copyEntry q src dst len bo)) ∧
    (∀ bo ph, i = .waitbo bo ph → exec (.wqWaitEnd q) s = .next (s.waitboEntry q bo ph)) ∧
    (∀ bo n vec msix, i = .signal bo n vec msix → exec (.wqWaitEnd q) s = .next (s.signalEntry q bo n vec msix)) ∧
    (∀ p arg bo rank nrank, i = .coll p arg bo rank nrank →
      exec (.wqWaitEnd q) s = .next (s.collEntry q p arg bo rank nrank))) ∧
  (∀ (s : State) (q : Nat), (s.wq q).st ≠ 3 → exec (.wqWaitEnd q) s = .next s)

/-- Links, TDISP, the register window and accesses from outside (00 R5, R6, 13 R245, 21 R348, 22 R368, R369, R370, R376, R384): what each
changes and that nothing else does; a register write names 4 or 8 aligned bytes; the policy registers, base registers only
while no record slot is in use; a store through BAR4 or by a peer is a write at home; a pending write leaves its queue when it
is performed, which none does before a line that a fence puts before it (13 R248). -/
def Obligations.LinkWindowEvents : Prop :=
  (∀ s : State,
    exec .pcieLinkDown s = .next { s with host := { s.host with pcieUp := false } } ∧
    exec .pcieLinkUp s = .next { s with host := { s.host with pcieUp := true } } ∧
    (∀ p, exec (.flitRetry p) s = .next s) ∧
    (∀ p, p < 16 → ∃ t : State, exec (.soundPortDown p) s = .next t ∧ t.mgmt.ports.find? p = some false ∧
      t = { s with mgmt := { s.mgmt with ports := t.mgmt.ports } } ∧
      ∀ p', p' ≠ p → t.mgmt.ports.find? p' = s.mgmt.ports.find? p') ∧
    (∀ l, l < 20 → s.mgmt.session.isSome = true → ∃ t : State, exec (.linkRekey l) s = .next t ∧
      t.mgmt.links.find? l = some (s.mgmt.links.get l 0 + 1) ∧ t = { s with mgmt := { s.mgmt with links := t.mgmt.links, sent := s.mgmt.sent.del l } } ∧
      ∀ l', l' ≠ l → t.mgmt.links.find? l' = s.mgmt.links.find? l') ∧
    (∀ n run, n < 64 → ∃ t : State, exec (.tdispMessage n run) s = .next t ∧ (n ∈ t.host.tdiRun ↔ run = true) ∧
      t = { s with host := { s.host with tdiRun := t.host.tdiRun } } ∧
      ∀ n', n' ≠ n → (n' ∈ t.host.tdiRun ↔ n' ∈ s.host.tdiRun)) ∧
    (∀ w, s.sched.waits = [] → exec (.pageServiceRetry w) s = .next s) ∧
    (∀ idx w t, s.sched.waits[idx]? = some w →
      t = State.retry { s with sched := { s.sched with waits := s.sched.waits.eraseIdx idx } } w →
      (t.hasWaiter w = false → exec (.pageServiceRetry idx) s = .next t) ∧
      (t.hasWaiter w = true → exec (.pageServiceRetry idx) s = .next s))) ∧
  (∀ (s : State) (v : Word),
    (∀ o off size, (size ≠ 4 ∧ size ≠ 8) ∨ off % size ≠ 0 → exec (.registerWrite o off size v) s = .next s) ∧
    exec (.registerWrite .host 0x600 8 v) s = .next { s with host := { s.host with polage := v.setWidth 32 } } ∧
    exec (.registerWrite .host 0x600 4 v) s = .next { s with host := { s.host with polage := v.setWidth 32 } } ∧
    (∃ t : State, exec (.registerWrite .host 0x608 8 v) s = .next t ∧ t.host.polpr.toNat = v.toNat % 2 ^ 48 ∧
      t = { s with host := { s.host with polpr := t.host.polpr } }) ∧
    (∃ t : State, exec (.registerWrite .host 0x614 4 v) s = .next t ∧
      t.host.polwd.toNat = s.host.polwd.toNat % 2 ^ 32 + v.toNat % 2 ^ 16 * 2 ^ 32 ∧
      t = { s with host := { s.host with polwd := t.host.polwd } }) ∧
    (s.sched.tasks ≠ [] → exec (.registerWrite .host 0x618 8 v) s = .next s) ∧
    (s.sched.tasks = [] → bitsOf v 48 8 = 0 → ∃ t : State, exec (.registerWrite .host 0x618 8 v) s = .next t ∧
      t.host.lpbase.toNat = v.toNat % 2 ^ 48 / 4096 * 4096 ∧ t = { s with host := { s.host with lpbase := t.host.lpbase } }) ∧
    (∃ t : State, exec (.registerWrite .host 0x418 8 v) s = .next t ∧
      t.evq.lost = s.evq.lost &&& ~~~(v.setWidth 32) ∧ t = { s with evq := { s.evq with lost := t.evq.lost } }) ∧
    exec (.registerWrite .host 0x410 8 v) s = exec (.evqheadWrite (v.setWidth 32)) s) ∧
  (∀ (s : State) (o : Origin) (addr : Nat) (bs : List Byte), addr + bs.length ≤ 2 ^ 32 → addr + bs.length ≤ s.hbmSize →
    s.host.pcieUp = true →
    (s.reachesAperture o addr bs.length = false → ∃ t, exec (.bar4Access o addr (.store bs)) s = .next t ∧ t.mem = s.mem) ∧
    (s.reachesAperture o addr bs.length = true → s.freeOf addr bs.length = true → exec (.bar4Access o addr (.store bs)) s =
      .next ((s.answerWith none).homeWrite 0 ((bs.zip (List.range bs.length)).map (fun x => (addr + x.2, x.1)))).agentAhead)) ∧
  (∀ (s : State) (ctx : BitVec 16) (pa : Nat) (op : ExtOp), s.kidOf ctx.toNat = none → s.soundUp = true →
    exec (.peerAccess ctx pa op) s = .next (s.answerWith none)) ∧
  (∀ (s u : State) (kid key n : Nat) (keys : List Nat), keys = (List.range n).map (fun i => key + i) → u = s.reach (linesOf keys) →
    ((∀ k ∈ keys, u.badAt k = 0) → s.foundBy kid key (.load n) = some (keys.map (u.plain kid))) ∧
    ((∃ k ∈ keys, u.badAt k ≠ 0) → s.foundBy kid key (.load n) = none)) ∧
  (∀ (s : State) (ctx : BitVec 16) (pa : Nat) (bs : List Byte) (n kid : Nat), pa + bs.length ≤ s.hbmSize → pa + n ≤ s.hbmSize →
    s.kidOf ctx.toNat = some kid → s.soundUp = true →
    (s.freeOf pa bs.length = true → exec (.peerAccess ctx pa (.store bs)) s =
      .next ((s.answerWith none).homeWrite kid ((bs.zip (List.range bs.length)).map (fun x => (pa + x.2, x.1)))).agentAhead) ∧
    (s.freeOf pa n = true → exec (.peerAccess ctx pa (.load n)) s =
      .next ((s.answerWith (s.foundBy kid pa (.load n))).reach (linesOf ((List.range n).map (fun i => pa + i)))).agentAhead)) ∧
  (∀ (s : State) (c i : Nat) (w : PendW), (s.core c).wq[i]? = some w →
    (s.heldBack c w = false → mayPass ((s.core c).wq.take i) w = true → (w.layer = 0 → (s.core c).oldLines (2 ^ 64) w.epoch = false) →
      exec (.accessPerformed c i) s =
        .next ((s.modCore c (fun k => { k with wq := k.wq.eraseIdx i })).performPend ((s.core c).wq.eraseIdx i) w)) ∧
    (s.heldBack c w = true ∨ mayPass ((s.core c).wq.take i) w = false ∨ (w.layer = 0 ∧ (s.core c).oldLines (2 ^ 64) w.epoch = true) →
      exec (.accessPerformed c i) s = .next s)) ∧
  (∀ (s : State) (c : Nat) (w : PendW), (s.core c).wq[0]? = some w → s.heldBack c w = false →
    (w.layer = 0 → (s.core c).oldLines (2 ^ 64) w.epoch = false) → exec (.accessPerformed c 0) s =
      .next ((s.modCore c (fun k => { k with wq := k.wq.tail })).performPend (s.core c).wq.tail w))

/-- The worked encodings of 03 (after R58), 04, 08, 12 and 18, words written out from the tables of 03 R42 to R56, 21 R356 and 22 R374, the
instructions they stand for, and the broken variants of the third of 03. -/
def Obligations.DecodedWords : Prop :=
  (∀ h : Hdr, h = ⟨true, 0, 0, 0, false⟩ →
    decodeTableWord 96 0x80021000200000000000000A = some (.addi h .wrap (.s 2) (.s 0) 10) ∧
    decodeTableWord 96 0x800418C00014000000000020 = some (.sts h 3 (.s 5) ⟨.imm 0, .s 0, 32, .none⟩) ∧
    decodeTableWord 96 0x82780000501FF10021800000 = some (.vadd ⟨true, 0, 1, 3, true⟩ .f32 (.mode .rup) false (.v 5) (.v 7) (.vec (.d 1))) ∧
    decodeTableWord 96 0x80065A009020000000085804 = some (.bowait h (.s 9) (.s 8) ⟨.imm 33, .s 0, 4, .acq .pkg⟩) ∧
    decodeTableWord 96 0x800180018000000000000041 = some (.csrr h (.s 24) .trapv) ∧
    decodeTableWord 96 0x800190000064000000000042 = some (.csrw h .trappc (.s 25)) ∧
    decodeTableWord 96 0x800100000000000000000051 = some (.trap h 0x51) ∧
    decodeTableWord 96 0x8001A0000000000000000000 = some (.eret h) ∧
    decodeTableWord 96 0x800C10028028290034200000 = some (.vqmx h .e2m1 .f32 (.mode .rne) false 0 (.v 40) (.v 41) (.v 10)) ∧
    decodeTableWord 96 0x800C200320A029002BB40000 = some (.vdqmx h .bf16 .e2m1 .frm false 0 (.v 50) (.v 40) (.v 41)) ∧
    decodeTableWord 96 0x800DB0005000360018000000 = some (.pmov h .n32 5 0 (.sp 2)) ∧
    decodeTableWord 96 0x80002140000FF80000020007 = some (.brc h .gen (.s 3) .z ⟨2, 7⟩) ∧
    decodeTableWord 96 0x800240404087F20000000000 = some (.mulhn h (.s 4) (.q 1) (.d 2)) ∧
    decodeTableWord 96 0x80040A8070040001004B1FFF = some (.lds h 2 true false (.s 7) ⟨.imm 300, .s 4, 0x7FF, .acq .pkg⟩) ∧
    decodeTableWord 96 0x800446C0200C050180002800 = some (.cas h 3 (.s 2) (.s 3) ⟨.reg (.s 5), .s 6, 0, .ar .sys⟩) ∧
    decodeTableWord 96 0x800700001008030000000009 = some (.lpatch h 9 (.s 1) (.s 2) (.s 3)) ∧
    decodeTableWord 96 0x800780001008030100134010 = some (.acpy h (.s 1) (.s 2) (.s 3) (.s 4) ⟨77, 16⟩) ∧
    decodeTableWord 96 0x80084006419435BFE8A00000 = some (.vfma h .bf16 (.mode .rtz) false (.v 100) (.v 101) (.sc (.sp 1)) (.v 767)) ∧
    decodeTableWord 96 0x800A7000103FF90084000000 = some (.vsel h .i16 (.v 1) 15 (.vec .ones) (.v 2)) ∧
    decodeTableWord 96 0x800D80401008030018000000 = some (.por h .n32 1 2 3) ∧
    decodeTableWord 96 0x800E400000A01EAF02123456 = some (.mma h 2 40 (.s 30) 700 0x123456)) ∧
  decodeTableWord 96 0x82780000501FF10022800000 = none ∧
  decodeTableWord 96 0x82780000501FF10321800000 = none ∧
  decodeTableWord 96 0x82780000501F840021800000 = none ∧
  decodeTableWord 96 0x827FF000501FF10022800000 = none ∧
  decodeTableWord 96 0x82780000501FF1003D800000 = none ∧
  decodeWord .S (0x82780000501FF10021800000 : BitVec 96) = .error .instr ∧
  decodeTableWord 128 0x00000000000010000000000500324101 =
    some (.send ⟨0, 5, 0, 0, 3, 2, true, false, false, false, false, 1, 4096⟩) ∧
  decodeTableWord 512 0x4D000100120000000000000001 = some (.launch 0x12 true 77) ∧
  decodeTableWord 512 0x100000000004000210000000000000004 = some (.waitbo 0x400021 true)
end

