-- ==== Sys2Proof/Laws/Store.lean ====
section
/-! SUPPORT. Sparse files: reading after writing. -/

namespace Sys2Proof.Machine

@[simp] theorem Store.find?_nil (k : Nat) : Store.find? ([] : Store α) k = none := rfl

theorem Store.find?_cons (j : Nat) (a : α) (xs : Store α) (k : Nat) :
    Store.find? ((j, a) :: xs) k = if j = k then some a else Store.find? xs k := rfl

@[simp] theorem Store.find?_put (xs : Store α) (k j : Nat) (a : α) :
    Store.find? (Store.put xs k a) j = if k = j then some a else Store.find? xs j := by
  induction xs with
  | nil => rfl
  | cons x xs ih =>
    obtain ⟨i, b⟩ := x
    simp only [Store.put]
    split
    · rfl
    · split
      · subst i
        simp only [Store.find?_cons]
        split <;> rfl
      · simp only [Store.find?_cons, ih]
        split <;> split <;> simp_all

@[simp] theorem Store.get_put (xs : Store α) (k j : Nat) (a d : α) :
    Store.get (Store.put xs k a) j d = if k = j then a else Store.get xs j d := by
  simp only [Store.get, Store.find?_put]
  split <;> rfl

theorem Store.find?_del_ne (xs : Store α) {k j : Nat} (h : k ≠ j) :
    Store.find? (Store.del xs k) j = Store.find? xs j := by
  induction xs with
  | nil => rfl
  | cons x xs ih =>
    obtain ⟨i, b⟩ := x
    simp only [Store.del]
    split
    · subst i; simp [Store.find?_cons, h]
    · simp only [Store.find?_cons, ih]

end Sys2Proof.Machine
end

