-- ==== Sys2Proof/Laws/State.lean ====
section
/-! SUPPORT. One lemma per field and update of the state, and reading cores and engines after writing them. -/

namespace Sys2Proof.Machine


-- setCore

@[simp] theorem State.setCore_mem (s : State) (c : Nat) (k : Core) : (s.setCore c k).mem = s.mem := rfl
@[simp] theorem State.setCore_stor (s : State) (c : Nat) (k : Core) : (s.setCore c k).stor = s.stor := rfl
@[simp] theorem State.setCore_sched (s : State) (c : Nat) (k : Core) : (s.setCore c k).sched = s.sched := rfl
@[simp] theorem State.setCore_coll (s : State) (c : Nat) (k : Core) : (s.setCore c k).coll = s.coll := rfl
@[simp] theorem State.setCore_evq (s : State) (c : Nat) (k : Core) : (s.setCore c k).evq = s.evq := rfl
@[simp] theorem State.setCore_host (s : State) (c : Nat) (k : Core) : (s.setCore c k).host = s.host := rfl
@[simp] theorem State.setCore_cryo (s : State) (c : Nat) (k : Core) : (s.setCore c k).cryo = s.cryo := rfl
@[simp] theorem State.setCore_mgmt (s : State) (c : Nat) (k : Core) : (s.setCore c k).mgmt = s.mgmt := rfl
@[simp] theorem State.setCore_supStore (s : State) (c : Nat) (k : Core) : (s.setCore c k).supStore = s.supStore := rfl
@[simp] theorem State.setCore_cyc (s : State) (c : Nat) (k : Core) : (s.setCore c k).cyc = s.cyc := rfl
@[simp] theorem State.setCore_wall (s : State) (c : Nat) (k : Core) : (s.setCore c k).wall = s.wall := rfl
@[simp] theorem State.setCore_agenda (s : State) (c : Nat) (k : Core) : (s.setCore c k).agenda = s.agenda := rfl
@[simp] theorem State.setCore_cur (s : State) (c : Nat) (k : Core) : (s.setCore c k).cur = s.cur := rfl
@[simp] theorem State.setCore_free (s : State) (c : Nat) (k : Core) : (s.setCore c k).free = s.free := rfl

-- modCore

@[simp] theorem State.modCore_mem (s : State) (c : Nat) (f : Core → Core) : (s.modCore c f).mem = s.mem := rfl
@[simp] theorem State.modCore_stor (s : State) (c : Nat) (f : Core → Core) : (s.modCore c f).stor = s.stor := rfl
@[simp] theorem State.modCore_sched (s : State) (c : Nat) (f : Core → Core) : (s.modCore c f).sched = s.sched := rfl
@[simp] theorem State.modCore_coll (s : State) (c : Nat) (f : Core → Core) : (s.modCore c f).coll = s.coll := rfl
@[simp] theorem State.modCore_evq (s : State) (c : Nat) (f : Core → Core) : (s.modCore c f).evq = s.evq := rfl
@[simp] theorem State.modCore_host (s : State) (c : Nat) (f : Core → Core) : (s.modCore c f).host = s.host := rfl
@[simp] theorem State.modCore_cryo (s : State) (c : Nat) (f : Core → Core) : (s.modCore c f).cryo = s.cryo := rfl
@[simp] theorem State.modCore_mgmt (s : State) (c : Nat) (f : Core → Core) : (s.modCore c f).mgmt = s.mgmt := rfl
@[simp] theorem State.modCore_supStore (s : State) (c : Nat) (f : Core → Core) : (s.modCore c f).supStore = s.supStore := rfl
@[simp] theorem State.modCore_cyc (s : State) (c : Nat) (f : Core → Core) : (s.modCore c f).cyc = s.cyc := rfl
@[simp] theorem State.modCore_wall (s : State) (c : Nat) (f : Core → Core) : (s.modCore c f).wall = s.wall := rfl
@[simp] theorem State.modCore_agenda (s : State) (c : Nat) (f : Core → Core) : (s.modCore c f).agenda = s.agenda := rfl
@[simp] theorem State.modCore_cur (s : State) (c : Nat) (f : Core → Core) : (s.modCore c f).cur = s.cur := rfl
@[simp] theorem State.modCore_free (s : State) (c : Nat) (f : Core → Core) : (s.modCore c f).free = s.free := rfl

-- setEng

@[simp] theorem State.setEng_mem (s : State) (c : Nat) (e : Eng) (g : Engine) : (s.setEng c e g).mem = s.mem := rfl
@[simp] theorem State.setEng_stor (s : State) (c : Nat) (e : Eng) (g : Engine) : (s.setEng c e g).stor = s.stor := rfl
@[simp] theorem State.setEng_sched (s : State) (c : Nat) (e : Eng) (g : Engine) : (s.setEng c e g).sched = s.sched := rfl
@[simp] theorem State.setEng_coll (s : State) (c : Nat) (e : Eng) (g : Engine) : (s.setEng c e g).coll = s.coll := rfl
@[simp] theorem State.setEng_evq (s : State) (c : Nat) (e : Eng) (g : Engine) : (s.setEng c e g).evq = s.evq := rfl
@[simp] theorem State.setEng_host (s : State) (c : Nat) (e : Eng) (g : Engine) : (s.setEng c e g).host = s.host := rfl
@[simp] theorem State.setEng_cryo (s : State) (c : Nat) (e : Eng) (g : Engine) : (s.setEng c e g).cryo = s.cryo := rfl
@[simp] theorem State.setEng_mgmt (s : State) (c : Nat) (e : Eng) (g : Engine) : (s.setEng c e g).mgmt = s.mgmt := rfl
@[simp] theorem State.setEng_supStore (s : State) (c : Nat) (e : Eng) (g : Engine) : (s.setEng c e g).supStore = s.supStore := rfl
@[simp] theorem State.setEng_cyc (s : State) (c : Nat) (e : Eng) (g : Engine) : (s.setEng c e g).cyc = s.cyc := rfl
@[simp] theorem State.setEng_wall (s : State) (c : Nat) (e : Eng) (g : Engine) : (s.setEng c e g).wall = s.wall := rfl
@[simp] theorem State.setEng_agenda (s : State) (c : Nat) (e : Eng) (g : Engine) : (s.setEng c e g).agenda = s.agenda := rfl
@[simp] theorem State.setEng_cur (s : State) (c : Nat) (e : Eng) (g : Engine) : (s.setEng c e g).cur = s.cur := rfl
@[simp] theorem State.setEng_free (s : State) (c : Nat) (e : Eng) (g : Engine) : (s.setEng c e g).free = s.free := rfl

-- modEng

@[simp] theorem State.modEng_mem (s : State) (c : Nat) (e : Eng) (f : Engine → Engine) : (s.modEng c e f).mem = s.mem := rfl
@[simp] theorem State.modEng_stor (s : State) (c : Nat) (e : Eng) (f : Engine → Engine) : (s.modEng c e f).stor = s.stor := rfl
@[simp] theorem State.modEng_sched (s : State) (c : Nat) (e : Eng) (f : Engine → Engine) : (s.modEng c e f).sched = s.sched := rfl
@[simp] theorem State.modEng_coll (s : State) (c : Nat) (e : Eng) (f : Engine → Engine) : (s.modEng c e f).coll = s.coll := rfl
@[simp] theorem State.modEng_evq (s : State) (c : Nat) (e : Eng) (f : Engine → Engine) : (s.modEng c e f).evq = s.evq := rfl
@[simp] theorem State.modEng_host (s : State) (c : Nat) (e : Eng) (f : Engine → Engine) : (s.modEng c e f).host = s.host := rfl
@[simp] theorem State.modEng_cryo (s : State) (c : Nat) (e : Eng) (f : Engine → Engine) : (s.modEng c e f).cryo = s.cryo := rfl
@[simp] theorem State.modEng_mgmt (s : State) (c : Nat) (e : Eng) (f : Engine → Engine) : (s.modEng c e f).mgmt = s.mgmt := rfl
@[simp] theorem State.modEng_supStore (s : State) (c : Nat) (e : Eng) (f : Engine → Engine) : (s.modEng c e f).supStore = s.supStore := rfl
@[simp] theorem State.modEng_cyc (s : State) (c : Nat) (e : Eng) (f : Engine → Engine) : (s.modEng c e f).cyc = s.cyc := rfl
@[simp] theorem State.modEng_wall (s : State) (c : Nat) (e : Eng) (f : Engine → Engine) : (s.modEng c e f).wall = s.wall := rfl
@[simp] theorem State.modEng_agenda (s : State) (c : Nat) (e : Eng) (f : Engine → Engine) : (s.modEng c e f).agenda = s.agenda := rfl
@[simp] theorem State.modEng_cur (s : State) (c : Nat) (e : Eng) (f : Engine → Engine) : (s.modEng c e f).cur = s.cur := rfl
@[simp] theorem State.modEng_free (s : State) (c : Nat) (e : Eng) (f : Engine → Engine) : (s.modEng c e f).free = s.free := rfl

-- modCur

@[simp] theorem State.modCur_mem (s : State) (f : Engine → Engine) : (s.modCur f).mem = s.mem := rfl
@[simp] theorem State.modCur_stor (s : State) (f : Engine → Engine) : (s.modCur f).stor = s.stor := rfl
@[simp] theorem State.modCur_sched (s : State) (f : Engine → Engine) : (s.modCur f).sched = s.sched := rfl
@[simp] theorem State.modCur_coll (s : State) (f : Engine → Engine) : (s.modCur f).coll = s.coll := rfl
@[simp] theorem State.modCur_evq (s : State) (f : Engine → Engine) : (s.modCur f).evq = s.evq := rfl
@[simp] theorem State.modCur_host (s : State) (f : Engine → Engine) : (s.modCur f).host = s.host := rfl
@[simp] theorem State.modCur_cryo (s : State) (f : Engine → Engine) : (s.modCur f).cryo = s.cryo := rfl
@[simp] theorem State.modCur_mgmt (s : State) (f : Engine → Engine) : (s.modCur f).mgmt = s.mgmt := rfl
@[simp] theorem State.modCur_supStore (s : State) (f : Engine → Engine) : (s.modCur f).supStore = s.supStore := rfl
@[simp] theorem State.modCur_cyc (s : State) (f : Engine → Engine) : (s.modCur f).cyc = s.cyc := rfl
@[simp] theorem State.modCur_wall (s : State) (f : Engine → Engine) : (s.modCur f).wall = s.wall := rfl
@[simp] theorem State.modCur_agenda (s : State) (f : Engine → Engine) : (s.modCur f).agenda = s.agenda := rfl
@[simp] theorem State.modCur_cur (s : State) (f : Engine → Engine) : (s.modCur f).cur = s.cur := rfl
@[simp] theorem State.modCur_free (s : State) (f : Engine → Engine) : (s.modCur f).free = s.free := rfl

-- modTask

@[simp] theorem State.modTask_mem (s : State) (c : Nat) (f : RunTask → RunTask) : (s.modTask c f).mem = s.mem := rfl
@[simp] theorem State.modTask_stor (s : State) (c : Nat) (f : RunTask → RunTask) : (s.modTask c f).stor = s.stor := rfl
@[simp] theorem State.modTask_sched (s : State) (c : Nat) (f : RunTask → RunTask) : (s.modTask c f).sched = s.sched := rfl
@[simp] theorem State.modTask_coll (s : State) (c : Nat) (f : RunTask → RunTask) : (s.modTask c f).coll = s.coll := rfl
@[simp] theorem State.modTask_evq (s : State) (c : Nat) (f : RunTask → RunTask) : (s.modTask c f).evq = s.evq := rfl
@[simp] theorem State.modTask_host (s : State) (c : Nat) (f : RunTask → RunTask) : (s.modTask c f).host = s.host := rfl
@[simp] theorem State.modTask_cryo (s : State) (c : Nat) (f : RunTask → RunTask) : (s.modTask c f).cryo = s.cryo := rfl
@[simp] theorem State.modTask_mgmt (s : State) (c : Nat) (f : RunTask → RunTask) : (s.modTask c f).mgmt = s.mgmt := rfl
@[simp] theorem State.modTask_supStore (s : State) (c : Nat) (f : RunTask → RunTask) : (s.modTask c f).supStore = s.supStore := rfl
@[simp] theorem State.modTask_cyc (s : State) (c : Nat) (f : RunTask → RunTask) : (s.modTask c f).cyc = s.cyc := rfl
@[simp] theorem State.modTask_wall (s : State) (c : Nat) (f : RunTask → RunTask) : (s.modTask c f).wall = s.wall := rfl
@[simp] theorem State.modTask_agenda (s : State) (c : Nat) (f : RunTask → RunTask) : (s.modTask c f).agenda = s.agenda := rfl
@[simp] theorem State.modTask_cur (s : State) (c : Nat) (f : RunTask → RunTask) : (s.modTask c f).cur = s.cur := rfl
@[simp] theorem State.modTask_free (s : State) (c : Nat) (f : RunTask → RunTask) : (s.modTask c f).free = s.free := rfl

-- waitOn

@[simp] theorem State.waitOn_mem (s : State) (c : Nat) (e : Eng) (r : BitVec 8) : (s.waitOn c e r).mem = s.mem := rfl
@[simp] theorem State.waitOn_stor (s : State) (c : Nat) (e : Eng) (r : BitVec 8) : (s.waitOn c e r).stor = s.stor := rfl
@[simp] theorem State.waitOn_sched (s : State) (c : Nat) (e : Eng) (r : BitVec 8) : (s.waitOn c e r).sched = s.sched := rfl
@[simp] theorem State.waitOn_coll (s : State) (c : Nat) (e : Eng) (r : BitVec 8) : (s.waitOn c e r).coll = s.coll := rfl
@[simp] theorem State.waitOn_evq (s : State) (c : Nat) (e : Eng) (r : BitVec 8) : (s.waitOn c e r).evq = s.evq := rfl
@[simp] theorem State.waitOn_host (s : State) (c : Nat) (e : Eng) (r : BitVec 8) : (s.waitOn c e r).host = s.host := rfl
@[simp] theorem State.waitOn_cryo (s : State) (c : Nat) (e : Eng) (r : BitVec 8) : (s.waitOn c e r).cryo = s.cryo := rfl
@[simp] theorem State.waitOn_mgmt (s : State) (c : Nat) (e : Eng) (r : BitVec 8) : (s.waitOn c e r).mgmt = s.mgmt := rfl
@[simp] theorem State.waitOn_supStore (s : State) (c : Nat) (e : Eng) (r : BitVec 8) : (s.waitOn c e r).supStore = s.supStore := rfl
@[simp] theorem State.waitOn_cyc (s : State) (c : Nat) (e : Eng) (r : BitVec 8) : (s.waitOn c e r).cyc = s.cyc := rfl
@[simp] theorem State.waitOn_wall (s : State) (c : Nat) (e : Eng) (r : BitVec 8) : (s.waitOn c e r).wall = s.wall := rfl
@[simp] theorem State.waitOn_agenda (s : State) (c : Nat) (e : Eng) (r : BitVec 8) : (s.waitOn c e r).agenda = s.agenda := rfl
@[simp] theorem State.waitOn_cur (s : State) (c : Nat) (e : Eng) (r : BitVec 8) : (s.waitOn c e r).cur = s.cur := rfl
@[simp] theorem State.waitOn_free (s : State) (c : Nat) (e : Eng) (r : BitVec 8) : (s.waitOn c e r).free = s.free := rfl

-- setMem

@[simp] theorem State.setMem_cores (s : State) (m : Memory) : (s.setMem m).cores = s.cores := rfl
@[simp] theorem State.setMem_stor (s : State) (m : Memory) : (s.setMem m).stor = s.stor := rfl
@[simp] theorem State.setMem_sched (s : State) (m : Memory) : (s.setMem m).sched = s.sched := rfl
@[simp] theorem State.setMem_coll (s : State) (m : Memory) : (s.setMem m).coll = s.coll := rfl
@[simp] theorem State.setMem_evq (s : State) (m : Memory) : (s.setMem m).evq = s.evq := rfl
@[simp] theorem State.setMem_host (s : State) (m : Memory) : (s.setMem m).host = s.host := rfl
@[simp] theorem State.setMem_cryo (s : State) (m : Memory) : (s.setMem m).cryo = s.cryo := rfl
@[simp] theorem State.setMem_mgmt (s : State) (m : Memory) : (s.setMem m).mgmt = s.mgmt := rfl
@[simp] theorem State.setMem_supStore (s : State) (m : Memory) : (s.setMem m).supStore = s.supStore := rfl
@[simp] theorem State.setMem_cyc (s : State) (m : Memory) : (s.setMem m).cyc = s.cyc := rfl
@[simp] theorem State.setMem_wall (s : State) (m : Memory) : (s.setMem m).wall = s.wall := rfl
@[simp] theorem State.setMem_agenda (s : State) (m : Memory) : (s.setMem m).agenda = s.agenda := rfl
@[simp] theorem State.setMem_cur (s : State) (m : Memory) : (s.setMem m).cur = s.cur := rfl
@[simp] theorem State.setMem_free (s : State) (m : Memory) : (s.setMem m).free = s.free := rfl
@[simp] theorem State.setMem_mem (s : State) (m : Memory) : (s.setMem m).mem = m := rfl

-- setInfo

@[simp] theorem State.setInfo_cores (s : State) (n : Nat) (t : TaskInfo) : (s.setInfo n t).cores = s.cores := rfl
@[simp] theorem State.setInfo_mem (s : State) (n : Nat) (t : TaskInfo) : (s.setInfo n t).mem = s.mem := rfl
@[simp] theorem State.setInfo_stor (s : State) (n : Nat) (t : TaskInfo) : (s.setInfo n t).stor = s.stor := rfl
@[simp] theorem State.setInfo_coll (s : State) (n : Nat) (t : TaskInfo) : (s.setInfo n t).coll = s.coll := rfl
@[simp] theorem State.setInfo_evq (s : State) (n : Nat) (t : TaskInfo) : (s.setInfo n t).evq = s.evq := rfl
@[simp] theorem State.setInfo_host (s : State) (n : Nat) (t : TaskInfo) : (s.setInfo n t).host = s.host := rfl
@[simp] theorem State.setInfo_cryo (s : State) (n : Nat) (t : TaskInfo) : (s.setInfo n t).cryo = s.cryo := rfl
@[simp] theorem State.setInfo_mgmt (s : State) (n : Nat) (t : TaskInfo) : (s.setInfo n t).mgmt = s.mgmt := rfl
@[simp] theorem State.setInfo_supStore (s : State) (n : Nat) (t : TaskInfo) : (s.setInfo n t).supStore = s.supStore := rfl
@[simp] theorem State.setInfo_cyc (s : State) (n : Nat) (t : TaskInfo) : (s.setInfo n t).cyc = s.cyc := rfl
@[simp] theorem State.setInfo_wall (s : State) (n : Nat) (t : TaskInfo) : (s.setInfo n t).wall = s.wall := rfl
@[simp] theorem State.setInfo_agenda (s : State) (n : Nat) (t : TaskInfo) : (s.setInfo n t).agenda = s.agenda := rfl
@[simp] theorem State.setInfo_cur (s : State) (n : Nat) (t : TaskInfo) : (s.setInfo n t).cur = s.cur := rfl
@[simp] theorem State.setInfo_free (s : State) (n : Nat) (t : TaskInfo) : (s.setInfo n t).free = s.free := rfl

-- setGang

@[simp] theorem State.setGang_cores (s : State) (n : Nat) (g : Gang) : (s.setGang n g).cores = s.cores := rfl
@[simp] theorem State.setGang_mem (s : State) (n : Nat) (g : Gang) : (s.setGang n g).mem = s.mem := rfl
@[simp] theorem State.setGang_stor (s : State) (n : Nat) (g : Gang) : (s.setGang n g).stor = s.stor := rfl
@[simp] theorem State.setGang_coll (s : State) (n : Nat) (g : Gang) : (s.setGang n g).coll = s.coll := rfl
@[simp] theorem State.setGang_evq (s : State) (n : Nat) (g : Gang) : (s.setGang n g).evq = s.evq := rfl
@[simp] theorem State.setGang_host (s : State) (n : Nat) (g : Gang) : (s.setGang n g).host = s.host := rfl
@[simp] theorem State.setGang_cryo (s : State) (n : Nat) (g : Gang) : (s.setGang n g).cryo = s.cryo := rfl
@[simp] theorem State.setGang_mgmt (s : State) (n : Nat) (g : Gang) : (s.setGang n g).mgmt = s.mgmt := rfl
@[simp] theorem State.setGang_supStore (s : State) (n : Nat) (g : Gang) : (s.setGang n g).supStore = s.supStore := rfl
@[simp] theorem State.setGang_cyc (s : State) (n : Nat) (g : Gang) : (s.setGang n g).cyc = s.cyc := rfl
@[simp] theorem State.setGang_wall (s : State) (n : Nat) (g : Gang) : (s.setGang n g).wall = s.wall := rfl
@[simp] theorem State.setGang_agenda (s : State) (n : Nat) (g : Gang) : (s.setGang n g).agenda = s.agenda := rfl
@[simp] theorem State.setGang_cur (s : State) (n : Nat) (g : Gang) : (s.setGang n g).cur = s.cur := rfl
@[simp] theorem State.setGang_free (s : State) (n : Nat) (g : Gang) : (s.setGang n g).free = s.free := rfl

-- countErr

@[simp] theorem State.countErr_cores (s : State) (n : Nat) : (s.countErr n).cores = s.cores := rfl
@[simp] theorem State.countErr_mem (s : State) (n : Nat) : (s.countErr n).mem = s.mem := rfl
@[simp] theorem State.countErr_stor (s : State) (n : Nat) : (s.countErr n).stor = s.stor := rfl
@[simp] theorem State.countErr_sched (s : State) (n : Nat) : (s.countErr n).sched = s.sched := rfl
@[simp] theorem State.countErr_coll (s : State) (n : Nat) : (s.countErr n).coll = s.coll := rfl
@[simp] theorem State.countErr_host (s : State) (n : Nat) : (s.countErr n).host = s.host := rfl
@[simp] theorem State.countErr_cryo (s : State) (n : Nat) : (s.countErr n).cryo = s.cryo := rfl
@[simp] theorem State.countErr_mgmt (s : State) (n : Nat) : (s.countErr n).mgmt = s.mgmt := rfl
@[simp] theorem State.countErr_supStore (s : State) (n : Nat) : (s.countErr n).supStore = s.supStore := rfl
@[simp] theorem State.countErr_cyc (s : State) (n : Nat) : (s.countErr n).cyc = s.cyc := rfl
@[simp] theorem State.countErr_wall (s : State) (n : Nat) : (s.countErr n).wall = s.wall := rfl
@[simp] theorem State.countErr_agenda (s : State) (n : Nat) : (s.countErr n).agenda = s.agenda := rfl
@[simp] theorem State.countErr_cur (s : State) (n : Nat) : (s.countErr n).cur = s.cur := rfl
@[simp] theorem State.countErr_free (s : State) (n : Nat) : (s.countErr n).free = s.free := rfl

-- cleanse

@[simp] theorem State.cleanse_cores (s : State) (ks : List Nat) : (s.cleanse ks).cores = s.cores := rfl
@[simp] theorem State.cleanse_mem (s : State) (ks : List Nat) : (s.cleanse ks).mem = s.mem := rfl
@[simp] theorem State.cleanse_sched (s : State) (ks : List Nat) : (s.cleanse ks).sched = s.sched := rfl
@[simp] theorem State.cleanse_coll (s : State) (ks : List Nat) : (s.cleanse ks).coll = s.coll := rfl
@[simp] theorem State.cleanse_evq (s : State) (ks : List Nat) : (s.cleanse ks).evq = s.evq := rfl
@[simp] theorem State.cleanse_host (s : State) (ks : List Nat) : (s.cleanse ks).host = s.host := rfl
@[simp] theorem State.cleanse_cryo (s : State) (ks : List Nat) : (s.cleanse ks).cryo = s.cryo := rfl
@[simp] theorem State.cleanse_mgmt (s : State) (ks : List Nat) : (s.cleanse ks).mgmt = s.mgmt := rfl
@[simp] theorem State.cleanse_supStore (s : State) (ks : List Nat) : (s.cleanse ks).supStore = s.supStore := rfl
@[simp] theorem State.cleanse_cyc (s : State) (ks : List Nat) : (s.cleanse ks).cyc = s.cyc := rfl
@[simp] theorem State.cleanse_wall (s : State) (ks : List Nat) : (s.cleanse ks).wall = s.wall := rfl
@[simp] theorem State.cleanse_agenda (s : State) (ks : List Nat) : (s.cleanse ks).agenda = s.agenda := rfl
@[simp] theorem State.cleanse_cur (s : State) (ks : List Nat) : (s.cleanse ks).cur = s.cur := rfl
@[simp] theorem State.cleanse_free (s : State) (ks : List Nat) : (s.cleanse ks).free = s.free := rfl

-- partPut

@[simp] theorem State.partPut_cores (s : State) (a : Nat) (bs : List Byte) : (s.partPut a bs).cores = s.cores := rfl
@[simp] theorem State.partPut_sched (s : State) (a : Nat) (bs : List Byte) : (s.partPut a bs).sched = s.sched := rfl
@[simp] theorem State.partPut_coll (s : State) (a : Nat) (bs : List Byte) : (s.partPut a bs).coll = s.coll := rfl
@[simp] theorem State.partPut_evq (s : State) (a : Nat) (bs : List Byte) : (s.partPut a bs).evq = s.evq := rfl
@[simp] theorem State.partPut_host (s : State) (a : Nat) (bs : List Byte) : (s.partPut a bs).host = s.host := rfl
@[simp] theorem State.partPut_cryo (s : State) (a : Nat) (bs : List Byte) : (s.partPut a bs).cryo = s.cryo := rfl
@[simp] theorem State.partPut_mgmt (s : State) (a : Nat) (bs : List Byte) : (s.partPut a bs).mgmt = s.mgmt := rfl
@[simp] theorem State.partPut_supStore (s : State) (a : Nat) (bs : List Byte) : (s.partPut a bs).supStore = s.supStore := rfl
@[simp] theorem State.partPut_cyc (s : State) (a : Nat) (bs : List Byte) : (s.partPut a bs).cyc = s.cyc := rfl
@[simp] theorem State.partPut_wall (s : State) (a : Nat) (bs : List Byte) : (s.partPut a bs).wall = s.wall := rfl
@[simp] theorem State.partPut_agenda (s : State) (a : Nat) (bs : List Byte) : (s.partPut a bs).agenda = s.agenda := rfl
@[simp] theorem State.partPut_cur (s : State) (a : Nat) (bs : List Byte) : (s.partPut a bs).cur = s.cur := rfl
@[simp] theorem State.partPut_free (s : State) (a : Nat) (bs : List Byte) : (s.partPut a bs).free = s.free := rfl

-- what the part writes, with its wakes

/-- What `modInfo`, `putReady` and `putLet` leave, a wake leaves. -/
theorem State.wakeFrom_keeps {α : Type} (f : State → α) (hi : ∀ s n g, f (State.modInfo s n g) = f s)
    (hp : ∀ s a bs, f (State.partPut s a bs) = f s) (n : Nat) (s : State) (line : Nat) : f (State.wakeFrom n s line) = f s := by
  have hr (s : State) (slot : Nat) : f (s.putReady slot) = f s := (hi ..).trans (hp ..)
  have hl (s : State) (slot : Nat) : f (s.putLet slot) = f s := by
    unfold State.putLet
    repeat' split
    · exact hp ..
    · exact hr ..
    · rfl
  induction n generalizing s line with
  | zero => rfl
  | succ n ih =>
    unfold State.wakeFrom
    suffices H : ∀ (l : List (Nat × TaskInfo)) (s : State), f (l.foldl _ s) = f s from H _ s
    intro l
    induction l with
    | nil => exact fun _ => rfl
    | cons x l il =>
      intro s
      rw [List.foldl_cons, il]
      have h1 : ∀ t : State, f t = f s →
          f (if t.flips x.1 x.2 line then State.wakeFrom n (t.putLet x.1) (lineOf (t.recAddr x.1 + 0x20)) else t) = f s := by
        intro t ht
        split
        · exact (ih _ _).trans ((hl ..).trans ht)
        · exact ht
      apply h1
      split
      · split
        · simp only
          split
          · exact (ih _ _).trans ((hr ..).trans (hi ..))
          · exact hi ..
        · rfl
      · rfl

theorem State.wakeSpan_keeps {α : Type} (f : State → α) (hi : ∀ s n g, f (State.modInfo s n g) = f s)
    (hp : ∀ s a bs, f (State.partPut s a bs) = f s) (s : State) (a n : Nat) : f (s.wakeSpan a n) = f s := by
  unfold State.wakeSpan
  generalize s.minded a n = l
  induction l generalizing s with
  | nil => rfl
  | cons x l il => rw [List.foldl_cons, il]; exact State.wakeFrom_keeps f hi hp ..

@[simp] theorem State.modInfo_cores (s : State) (n : Nat) (g : TaskInfo → TaskInfo) : (s.modInfo n g).cores = s.cores := by
  unfold State.modInfo; split <;> rfl
@[simp] theorem State.modInfo_coll (s : State) (n : Nat) (g : TaskInfo → TaskInfo) : (s.modInfo n g).coll = s.coll := by
  unfold State.modInfo; split <;> rfl
@[simp] theorem State.modInfo_evq (s : State) (n : Nat) (g : TaskInfo → TaskInfo) : (s.modInfo n g).evq = s.evq := by
  unfold State.modInfo; split <;> rfl
@[simp] theorem State.modInfo_host (s : State) (n : Nat) (g : TaskInfo → TaskInfo) : (s.modInfo n g).host = s.host := by
  unfold State.modInfo; split <;> rfl
@[simp] theorem State.modInfo_cryo (s : State) (n : Nat) (g : TaskInfo → TaskInfo) : (s.modInfo n g).cryo = s.cryo := by
  unfold State.modInfo; split <;> rfl
@[simp] theorem State.modInfo_mgmt (s : State) (n : Nat) (g : TaskInfo → TaskInfo) : (s.modInfo n g).mgmt = s.mgmt := by
  unfold State.modInfo; split <;> rfl
@[simp] theorem State.modInfo_supStore (s : State) (n : Nat) (g : TaskInfo → TaskInfo) : (s.modInfo n g).supStore = s.supStore := by
  unfold State.modInfo; split <;> rfl
@[simp] theorem State.modInfo_cyc (s : State) (n : Nat) (g : TaskInfo → TaskInfo) : (s.modInfo n g).cyc = s.cyc := by
  unfold State.modInfo; split <;> rfl
@[simp] theorem State.modInfo_wall (s : State) (n : Nat) (g : TaskInfo → TaskInfo) : (s.modInfo n g).wall = s.wall := by
  unfold State.modInfo; split <;> rfl
@[simp] theorem State.modInfo_agenda (s : State) (n : Nat) (g : TaskInfo → TaskInfo) : (s.modInfo n g).agenda = s.agenda := by
  unfold State.modInfo; split <;> rfl
@[simp] theorem State.modInfo_cur (s : State) (n : Nat) (g : TaskInfo → TaskInfo) : (s.modInfo n g).cur = s.cur := by
  unfold State.modInfo; split <;> rfl
@[simp] theorem State.modInfo_free (s : State) (n : Nat) (g : TaskInfo → TaskInfo) : (s.modInfo n g).free = s.free := by
  unfold State.modInfo; split <;> rfl
@[simp] theorem State.wake_cores (s : State) (line : Nat) : (s.wake line).cores = s.cores :=
  State.wakeFrom_keeps State.cores (by simp) (by simp) ..
@[simp] theorem State.wake_coll (s : State) (line : Nat) : (s.wake line).coll = s.coll :=
  State.wakeFrom_keeps State.coll (by simp) (by simp) ..
@[simp] theorem State.wake_evq (s : State) (line : Nat) : (s.wake line).evq = s.evq :=
  State.wakeFrom_keeps State.evq (by simp) (by simp) ..
@[simp] theorem State.wake_host (s : State) (line : Nat) : (s.wake line).host = s.host :=
  State.wakeFrom_keeps State.host (by simp) (by simp) ..
@[simp] theorem State.wake_cryo (s : State) (line : Nat) : (s.wake line).cryo = s.cryo :=
  State.wakeFrom_keeps State.cryo (by simp) (by simp) ..
@[simp] theorem State.wake_mgmt (s : State) (line : Nat) : (s.wake line).mgmt = s.mgmt :=
  State.wakeFrom_keeps State.mgmt (by simp) (by simp) ..
@[simp] theorem State.wake_supStore (s : State) (line : Nat) : (s.wake line).supStore = s.supStore :=
  State.wakeFrom_keeps State.supStore (by simp) (by simp) ..
@[simp] theorem State.wake_cyc (s : State) (line : Nat) : (s.wake line).cyc = s.cyc :=
  State.wakeFrom_keeps State.cyc (by simp) (by simp) ..
@[simp] theorem State.wake_wall (s : State) (line : Nat) : (s.wake line).wall = s.wall :=
  State.wakeFrom_keeps State.wall (by simp) (by simp) ..
@[simp] theorem State.wake_agenda (s : State) (line : Nat) : (s.wake line).agenda = s.agenda :=
  State.wakeFrom_keeps State.agenda (by simp) (by simp) ..
@[simp] theorem State.wake_cur (s : State) (line : Nat) : (s.wake line).cur = s.cur :=
  State.wakeFrom_keeps State.cur (by simp) (by simp) ..
@[simp] theorem State.wake_free (s : State) (line : Nat) : (s.wake line).free = s.free :=
  State.wakeFrom_keeps State.free (by simp) (by simp) ..
@[simp] theorem State.wakeSpan_cores (s : State) (a n : Nat) : (s.wakeSpan a n).cores = s.cores :=
  State.wakeSpan_keeps State.cores (by simp) (by simp) ..
@[simp] theorem State.wakeSpan_coll (s : State) (a n : Nat) : (s.wakeSpan a n).coll = s.coll :=
  State.wakeSpan_keeps State.coll (by simp) (by simp) ..
@[simp] theorem State.wakeSpan_evq (s : State) (a n : Nat) : (s.wakeSpan a n).evq = s.evq :=
  State.wakeSpan_keeps State.evq (by simp) (by simp) ..
@[simp] theorem State.wakeSpan_host (s : State) (a n : Nat) : (s.wakeSpan a n).host = s.host :=
  State.wakeSpan_keeps State.host (by simp) (by simp) ..
@[simp] theorem State.wakeSpan_cryo (s : State) (a n : Nat) : (s.wakeSpan a n).cryo = s.cryo :=
  State.wakeSpan_keeps State.cryo (by simp) (by simp) ..
@[simp] theorem State.wakeSpan_mgmt (s : State) (a n : Nat) : (s.wakeSpan a n).mgmt = s.mgmt :=
  State.wakeSpan_keeps State.mgmt (by simp) (by simp) ..
@[simp] theorem State.wakeSpan_supStore (s : State) (a n : Nat) : (s.wakeSpan a n).supStore = s.supStore :=
  State.wakeSpan_keeps State.supStore (by simp) (by simp) ..
@[simp] theorem State.wakeSpan_cyc (s : State) (a n : Nat) : (s.wakeSpan a n).cyc = s.cyc :=
  State.wakeSpan_keeps State.cyc (by simp) (by simp) ..
@[simp] theorem State.wakeSpan_wall (s : State) (a n : Nat) : (s.wakeSpan a n).wall = s.wall :=
  State.wakeSpan_keeps State.wall (by simp) (by simp) ..
@[simp] theorem State.wakeSpan_agenda (s : State) (a n : Nat) : (s.wakeSpan a n).agenda = s.agenda :=
  State.wakeSpan_keeps State.agenda (by simp) (by simp) ..
@[simp] theorem State.wakeSpan_cur (s : State) (a n : Nat) : (s.wakeSpan a n).cur = s.cur :=
  State.wakeSpan_keeps State.cur (by simp) (by simp) ..
@[simp] theorem State.wakeSpan_free (s : State) (a n : Nat) : (s.wakeSpan a n).free = s.free :=
  State.wakeSpan_keeps State.free (by simp) (by simp) ..
@[simp] theorem State.partWords_cores (s : State) (a : Nat) (ws : List Word) : (s.partWords a ws).cores = s.cores := by
  simp [State.partWords, State.partWrite]
@[simp] theorem State.partWords_coll (s : State) (a : Nat) (ws : List Word) : (s.partWords a ws).coll = s.coll := by
  simp [State.partWords, State.partWrite]
@[simp] theorem State.partWords_evq (s : State) (a : Nat) (ws : List Word) : (s.partWords a ws).evq = s.evq := by
  simp [State.partWords, State.partWrite]
@[simp] theorem State.partWords_host (s : State) (a : Nat) (ws : List Word) : (s.partWords a ws).host = s.host := by
  simp [State.partWords, State.partWrite]
@[simp] theorem State.partWords_cryo (s : State) (a : Nat) (ws : List Word) : (s.partWords a ws).cryo = s.cryo := by
  simp [State.partWords, State.partWrite]
@[simp] theorem State.partWords_mgmt (s : State) (a : Nat) (ws : List Word) : (s.partWords a ws).mgmt = s.mgmt := by
  simp [State.partWords, State.partWrite]
@[simp] theorem State.partWords_supStore (s : State) (a : Nat) (ws : List Word) : (s.partWords a ws).supStore = s.supStore := by
  simp [State.partWords, State.partWrite]
@[simp] theorem State.partWords_cyc (s : State) (a : Nat) (ws : List Word) : (s.partWords a ws).cyc = s.cyc := by
  simp [State.partWords, State.partWrite]
@[simp] theorem State.partWords_wall (s : State) (a : Nat) (ws : List Word) : (s.partWords a ws).wall = s.wall := by
  simp [State.partWords, State.partWrite]
@[simp] theorem State.partWords_agenda (s : State) (a : Nat) (ws : List Word) : (s.partWords a ws).agenda = s.agenda := by
  simp [State.partWords, State.partWrite]
@[simp] theorem State.partWords_cur (s : State) (a : Nat) (ws : List Word) : (s.partWords a ws).cur = s.cur := by
  simp [State.partWords, State.partWrite]
@[simp] theorem State.partWords_free (s : State) (a : Nat) (ws : List Word) : (s.partWords a ws).free = s.free := by
  simp [State.partWords, State.partWrite]
@[simp] theorem State.writeEvent_cores (s : State) (ws : List Word) : (s.writeEvent ws).cores = s.cores := by
  simp [State.writeEvent]
@[simp] theorem State.writeEvent_coll (s : State) (ws : List Word) : (s.writeEvent ws).coll = s.coll := by
  simp [State.writeEvent]
@[simp] theorem State.writeEvent_host (s : State) (ws : List Word) : (s.writeEvent ws).host = s.host := by
  simp [State.writeEvent]
@[simp] theorem State.writeEvent_cryo (s : State) (ws : List Word) : (s.writeEvent ws).cryo = s.cryo := by
  simp [State.writeEvent]
@[simp] theorem State.writeEvent_mgmt (s : State) (ws : List Word) : (s.writeEvent ws).mgmt = s.mgmt := by
  simp [State.writeEvent]
@[simp] theorem State.writeEvent_supStore (s : State) (ws : List Word) : (s.writeEvent ws).supStore = s.supStore := by
  simp [State.writeEvent]
@[simp] theorem State.writeEvent_cyc (s : State) (ws : List Word) : (s.writeEvent ws).cyc = s.cyc := by
  simp [State.writeEvent]
@[simp] theorem State.writeEvent_wall (s : State) (ws : List Word) : (s.writeEvent ws).wall = s.wall := by
  simp [State.writeEvent]
@[simp] theorem State.writeEvent_agenda (s : State) (ws : List Word) : (s.writeEvent ws).agenda = s.agenda := by
  simp [State.writeEvent]
@[simp] theorem State.writeEvent_cur (s : State) (ws : List Word) : (s.writeEvent ws).cur = s.cur := by
  simp [State.writeEvent]
@[simp] theorem State.writeEvent_free (s : State) (ws : List Word) : (s.writeEvent ws).free = s.free := by
  simp [State.writeEvent]

-- cores

@[simp] theorem State.core_setCore (s : State) (c : Nat) (k : Core) (c' : Nat) :
    (s.setCore c k).core c' = if c = c' then k else s.core c' := by
  simp [State.core, State.setCore]

@[simp] theorem State.core_modCore (s : State) (c : Nat) (f : Core → Core) (c' : Nat) :
    (s.modCore c f).core c' = if c = c' then f (s.core c) else s.core c' := by
  simp [State.modCore]

@[simp] theorem State.core_setMem (s : State) (m : Memory) (c : Nat) : (s.setMem m).core c = s.core c := rfl
@[simp] theorem State.core_setInfo (s : State) (n : Nat) (t : TaskInfo) (c : Nat) : (s.setInfo n t).core c = s.core c := rfl
@[simp] theorem State.core_setGang (s : State) (n : Nat) (g : Gang) (c : Nat) : (s.setGang n g).core c = s.core c := rfl

-- engines of a core

@[simp] theorem Core.eng_setEng (k : Core) (e : Eng) (g : Engine) (e' : Eng) :
    (k.setEng e g).eng e' = if e = e' then g else k.eng e' := by
  cases e <;> cases e' <;> rfl

@[simp] theorem State.eng_setEng (s : State) (c : Nat) (e : Eng) (g : Engine) (c' : Nat) (e' : Eng) :
    (s.setEng c e g).eng c' e' = if c = c' ∧ e = e' then g else s.eng c' e' := by
  by_cases hc : c = c'
  · subst hc; simp [State.eng, State.setEng]
  · simp [State.eng, State.setEng, hc]

@[simp] theorem State.eng_modEng (s : State) (c : Nat) (e : Eng) (f : Engine → Engine) (c' : Nat) (e' : Eng) :
    (s.modEng c e f).eng c' e' = if c = c' ∧ e = e' then f (s.eng c e) else s.eng c' e' := by
  simp [State.modEng]

@[simp] theorem State.curEng_modCur (s : State) (f : Engine → Engine) : (s.modCur f).curEng = f s.curEng := by
  simp [State.curEng, State.modCur]

-- the other fields of a core

@[simp] theorem Core.setEng_task (k : Core) (e : Eng) (g : Engine) : (k.setEng e g).task = k.task := by cases e <;> rfl
@[simp] theorem Core.setEng_stage (k : Core) (e : Eng) (g : Engine) : (k.setEng e g).stage = k.stage := by cases e <;> rfl
@[simp] theorem Core.setEng_occ (k : Core) (e : Eng) (g : Engine) : (k.setEng e g).occ = k.occ := by cases e <;> rfl
@[simp] theorem Core.setEng_resv (k : Core) (e : Eng) (g : Engine) : (k.setEng e g).resv = k.resv := by cases e <;> rfl
@[simp] theorem Core.setEng_v (k : Core) (e : Eng) (g : Engine) : (k.setEng e g).v = k.v := by cases e <;> rfl
@[simp] theorem Core.setEng_p (k : Core) (e : Eng) (g : Engine) : (k.setEng e g).p = k.p := by cases e <;> rfl
@[simp] theorem Core.setEng_acc (k : Core) (e : Eng) (g : Engine) : (k.setEng e g).acc = k.acc := by cases e <;> rfl
@[simp] theorem Core.setEng_active (k : Core) (e : Eng) (g : Engine) : (k.setEng e g).active = k.active := by cases e <;> rfl
@[simp] theorem Core.setEng_preload (k : Core) (e : Eng) (g : Engine) : (k.setEng e g).preload = k.preload := by cases e <;> rfl
@[simp] theorem Core.setEng_scaleQ (k : Core) (e : Eng) (g : Engine) : (k.setEng e g).scaleQ = k.scaleQ := by cases e <;> rfl
@[simp] theorem Core.setEng_mcfg (k : Core) (e : Eng) (g : Engine) : (k.setEng e g).mcfg = k.mcfg := by cases e <;> rfl
@[simp] theorem Core.setEng_mkp (k : Core) (e : Eng) (g : Engine) : (k.setEng e g).mkp = k.mkp := by cases e <;> rfl
@[simp] theorem Core.setEng_mstb (k : Core) (e : Eng) (g : Engine) : (k.setEng e g).mstb = k.mstb := by cases e <;> rfl
@[simp] theorem Core.setEng_flight (k : Core) (e : Eng) (g : Engine) : (k.setEng e g).flight = k.flight := by cases e <;> rfl
@[simp] theorem Core.setEng_halves (k : Core) (e : Eng) (g : Engine) : (k.setEng e g).halves = k.halves := by cases e <;> rfl
@[simp] theorem Core.setEng_ctx (k : Core) (e : Eng) (g : Engine) : (k.setEng e g).ctx = k.ctx := by cases e <;> rfl
@[simp] theorem Core.setEng_btbase (k : Core) (e : Eng) (g : Engine) : (k.setEng e g).btbase = k.btbase := by cases e <;> rfl
@[simp] theorem Core.setEng_btlast (k : Core) (e : Eng) (g : Engine) : (k.setEng e g).btlast = k.btlast := by cases e <;> rfl
@[simp] theorem Core.setEng_ptroot (k : Core) (e : Eng) (g : Engine) : (k.setEng e g).ptroot = k.ptroot := by cases e <;> rfl
@[simp] theorem Core.setEng_l1split (k : Core) (e : Eng) (g : Engine) : (k.setEng e g).l1split = k.l1split := by cases e <;> rfl
@[simp] theorem Core.setEng_l1 (k : Core) (e : Eng) (g : Engine) : (k.setEng e g).l1 = k.l1 := by cases e <;> rfl
@[simp] theorem Core.setEng_wq (k : Core) (e : Eng) (g : Engine) : (k.setEng e g).wq = k.wq := by cases e <;> rfl
@[simp] theorem Core.setEng_filter (k : Core) (e : Eng) (g : Engine) : (k.setEng e g).filter = k.filter := by cases e <;> rfl
@[simp] theorem Core.setEng_fsat (k : Core) (e : Eng) (g : Engine) : (k.setEng e g).fsat = k.fsat := by cases e <;> rfl
@[simp] theorem Core.setEng_tlb (k : Core) (e : Eng) (g : Engine) : (k.setEng e g).tlb = k.tlb := by cases e <;> rfl
@[simp] theorem Core.setEng_bufc (k : Core) (e : Eng) (g : Engine) : (k.setEng e g).bufc = k.bufc := by cases e <;> rfl
@[simp] theorem Core.setEng_landing (k : Core) (e : Eng) (g : Engine) : (k.setEng e g).landing = k.landing := by cases e <;> rfl
@[simp] theorem Core.setEng_popped (k : Core) (e : Eng) (g : Engine) : (k.setEng e g).popped = k.popped := by cases e <;> rfl
@[simp] theorem Core.setEng_epoch (k : Core) (e : Eng) (g : Engine) : (k.setEng e g).epoch = k.epoch := by cases e <;> rfl
@[simp] theorem Core.setEng_accNo (k : Core) (e : Eng) (g : Engine) : (k.setEng e g).accNo = k.accNo := by cases e <;> rfl
@[simp] theorem Core.setEng_codeQ (k : Core) (e : Eng) (g : Engine) : (k.setEng e g).codeQ = k.codeQ := by cases e <;> rfl

end Sys2Proof.Machine
end

