-- ==== Sys2Proof/Laws/Access.lean ====
section
/-! SUPPORT. What an access comes to when nothing holds it back. -/

namespace Sys2Proof.Machine

theorem orderedEff_of {s t : State} {o : Order} {home store : Bool} {ps : List Place} (h : s.Ordered o home store ps t)
    (k : State → Eff) : s.orderedEff o home store ps k = k t := by
  obtain ⟨h1, h2, h3, h4, h5, h6⟩ := h
  have hturn : ((s.beforeRel o ps).beforeAcq o ps).turnEff home store ps k = k t := by
    unfold State.turnEff
    simp only
    rw [← h3]
    simp [h4, h5, State.heldEff, h6]
  have h2' : (!home && (s.beforeRel o ps).needsFence s.cur.1 (pinsLine o) ps) = false := by
    rcases h2 with h | h <;> simp [h]
  unfold State.orderedEff
  simp [h1, h2', hturn]

/-- An access that nothing holds back goes on with its places. -/
theorem memEff_of {s t : State} {o : Order} {buf : Nat} {f : Form} {offs : List Int} {home : Bool} {ps : List (List Place)}
    (h : s.Accesses o buf f offs home ps t) (k : List (List Place) → State → Eff) :
    s.memEff o buf f offs home k = k ps t := by
  obtain ⟨h1, h2, h3⟩ := h
  unfold State.memEff State.checkedEff
  simp [h1, h2, orderedEff_of h3]

end Sys2Proof.Machine
end

