-- ==== Sys2Proof/Laws/Issue.lean ====
section
/-! SUPPORT. What a member's retirement does: it is the word's own effect that changes registers and memory; retirement
moves tokens, the ring, FFLAGS and the stream. -/

namespace Sys2Proof.Machine

-- one word

/-- A word that is the member in issue comes to its effect. -/
theorem performWord_member {i : Instr} {eff : Grp → State → Eff} {s : State} {g : Grp} (h : s.curEng.grp = some g) :
    performWord i eff s = .next (State.settle (hdrD i) (eff g s)) := by
  simp [performWord, h]

-- keeping

theorem OnlyCore.refl (s : State) (c : Nat) : OnlyCore s s c := by constructor <;> simp
theorem OnlyCore.trans {s t u : State} {c : Nat} (h : OnlyCore s t c) (k : OnlyCore t u c) : OnlyCore s u c where
  mem := k.mem.trans h.mem
  stor := k.stor.trans h.stor
  sched := k.sched.trans h.sched
  coll := k.coll.trans h.coll
  evq := k.evq.trans h.evq
  host := k.host.trans h.host
  cryo := k.cryo.trans h.cryo
  mgmt := k.mgmt.trans h.mgmt
  supStore := k.supStore.trans h.supStore
  cyc := k.cyc.trans h.cyc
  wall := k.wall.trans h.wall
  agenda := k.agenda.trans h.agenda
  cur := k.cur.trans h.cur
  free := k.free.trans h.free
  others c' hc := (k.others c' hc).trans (h.others c' hc)

theorem OnlyCore.setCore (s : State) (c : Nat) (k : Core) : OnlyCore s (s.setCore c k) c := by
  constructor <;> first | rfl | (intro c' hc; simp [Ne.symm hc])

theorem Core.Kept.refl (k : Core) : Core.Kept k k := by constructor <;> rfl
theorem Core.Kept.trans {k l m : Core} (h : Core.Kept k l) (i : Core.Kept l m) : Core.Kept k m where
  task := i.task.trans h.task
  stage := i.stage.trans h.stage
  acc := i.acc.trans h.acc
  active := i.active.trans h.active
  preload := i.preload.trans h.preload
  scaleQ := i.scaleQ.trans h.scaleQ
  mcfg := i.mcfg.trans h.mcfg
  mkp := i.mkp.trans h.mkp
  mstb := i.mstb.trans h.mstb
  flight := i.flight.trans h.flight
  halves := i.halves.trans h.halves
  ctx := i.ctx.trans h.ctx
  btbase := i.btbase.trans h.btbase
  btlast := i.btlast.trans h.btlast
  ptroot := i.ptroot.trans h.ptroot
  l1split := i.l1split.trans h.l1split
  l1 := i.l1.trans h.l1
  wq := i.wq.trans h.wq
  filter := i.filter.trans h.filter
  fsat := i.fsat.trans h.fsat
  tlb := i.tlb.trans h.tlb
  bufc := i.bufc.trans h.bufc
  landing := i.landing.trans h.landing
  popped := i.popped.trans h.popped
  epoch := i.epoch.trans h.epoch
  accNo := i.accNo.trans h.accNo
  issueNo := i.issueNo.trans h.issueNo
  codeQ := i.codeQ.trans h.codeQ

theorem Core.Kept.setEng (k : Core) (e : Eng) (g : Engine) : Core.Kept k (k.setEng e g) := by
  cases e <;> constructor <;> rfl

theorem Engine.Kept.refl (g : Engine) : Engine.Kept g g := by constructor <;> rfl
theorem Engine.Kept.trans {g l m : Engine} (h : Engine.Kept g l) (i : Engine.Kept l m) : Engine.Kept g m where
  istore := i.istore.trans h.istore
  stack := i.stack.trans h.stack
  sup := i.sup.trans h.sup
  resume := i.resume.trans h.resume
  debt := i.debt.trans h.debt
  page := i.page.trans h.page
  stopped := i.stopped.trans h.stopped
  arrived := i.arrived.trans h.arrived
  phtDue := i.phtDue.trans h.phtDue
  slept := i.slept.trans h.slept
  issued := i.issued.trans h.issued
  ahead := i.ahead.trans h.ahead
  early := i.early.trans h.early
  fenab := i.fenab.trans h.fenab
  frm := i.frm.trans h.frm
  pht := i.pht.trans h.pht
  phtm := i.phtm.trans h.phtm
  trapc := i.trapc.trans h.trapc
  trapv := i.trapv.trans h.trapv
  trappc := i.trappc.trans h.trappc

/-- What moving tokens and the stream keeps: the registers of every class, the ring and FFLAGS among the rest. -/
structure Steady (c : Nat) (e : Eng) (s t : State) : Prop where
  pkg  : OnlyCore s t c
  core : Core.Kept (s.core c) (t.core c)
  vs   : (t.core c).v = (s.core c).v
  ps   : (t.core c).p = (s.core c).p
  eng  : Engine.Kept (s.eng c e) (t.eng c e)
  regs : (t.eng c e).regs = (s.eng c e).regs
  ring : (t.eng c e).ring = (s.eng c e).ring
  ff   : (t.eng c e).csr.fflags = (s.eng c e).csr.fflags
  engs : ∀ e', e' ≠ e → t.eng c e' = s.eng c e'

theorem Steady.refl (c : Nat) (e : Eng) (s : State) : Steady c e s s where
  pkg := .refl s c
  core := .refl _
  vs := rfl
  ps := rfl
  eng := .refl _
  regs := rfl
  ring := rfl
  ff := rfl
  engs _ _ := rfl

theorem Steady.trans {c : Nat} {e : Eng} {s t u : State} (h : Steady c e s t) (k : Steady c e t u) : Steady c e s u where
  pkg := h.pkg.trans k.pkg
  core := h.core.trans k.core
  vs := k.vs.trans h.vs
  ps := k.ps.trans h.ps
  eng := h.eng.trans k.eng
  regs := k.regs.trans h.regs
  ring := k.ring.trans h.ring
  ff := k.ff.trans h.ff
  engs e' he := (k.engs e' he).trans (h.engs e' he)

/-- A change of the engine that keeps its registers. -/
theorem Steady.setEng (c : Nat) (e : Eng) (s : State) (g : Engine) (h : Engine.Kept (s.eng c e) g)
    (hr : g.regs = (s.eng c e).regs) (hg : g.ring = (s.eng c e).ring) (hf : g.csr.fflags = (s.eng c e).csr.fflags) :
    Steady c e s (s.setEng c e g) where
  pkg := .setCore ..
  core := by simpa [State.setEng] using Core.Kept.setEng _ e g
  vs := by simp [State.setEng]
  ps := by simp [State.setEng]
  eng := by simpa using h
  regs := by simpa using hr
  ring := by simpa using hg
  ff := by simpa using hf
  engs e' he := by simp [Ne.symm he]

theorem Steady.modEng (c : Nat) (e : Eng) (s : State) (f : Engine → Engine) (h : Engine.Kept (s.eng c e) (f (s.eng c e)))
    (hr : (f (s.eng c e)).regs = (s.eng c e).regs) (hg : (f (s.eng c e)).ring = (s.eng c e).ring)
    (hf : (f (s.eng c e)).csr.fflags = (s.eng c e).csr.fflags) : Steady c e s (s.modEng c e f) :=
  Steady.setEng c e s _ h hr hg hf

/-- A change of the core that keeps all but the tokens. -/
theorem Steady.modCore (c : Nat) (e : Eng) (s : State) (f : Core → Core) (h : Core.Kept (s.core c) (f (s.core c)))
    (hv : (f (s.core c)).v = (s.core c).v) (hp : (f (s.core c)).p = (s.core c).p)
    (he : ∀ e', (f (s.core c)).eng e' = (s.core c).eng e') : Steady c e s (s.modCore c f) where
  pkg := .setCore ..
  core := by simpa using h
  vs := by simpa using hv
  ps := by simpa using hp
  eng := by simpa [State.eng, he] using Engine.Kept.refl _
  regs := by simp [State.eng, he]
  ring := by simp [State.eng, he]
  ff := by simp [State.eng, he]
  engs e' _ := by simp [State.eng, he]

/-- No result of an engine in supervisor state is still to land. -/
def State.Landed (s : State) (c : Nat) (e : Eng) : Prop := ∀ x ∈ (s.core c).landing, x.eng = e → (s.eng c e).sup = none

theorem Steady.landed {c : Nat} {e : Eng} {s t : State} (h : Steady c e s t) (hl : s.Landed c e) : t.Landed c e := by
  intro x hx he
  rw [h.core.landing] at hx
  rw [h.eng.sup]
  exact hl x hx he

-- where control goes

theorem park_steady (s : State) (c : Nat) (e : Eng) : Steady c e s (s.park c e) := by
  unfold State.park
  split
  · exact .modEng c e s _ (by constructor <;> rfl) rfl rfl rfl
  · exact .refl ..

theorem deliver_steady (s : State) (c : Nat) (e : Eng) (n : Nat) (d : Word) (k : Nat) (p : Bool) :
    Steady c e s (s.deliver c e n d k p) := by
  unfold State.deliver State.waitOn State.modTask
  refine Steady.trans (.modCore c e s _ ?_ rfl rfl (by intro e'; cases e' <;> rfl)) (.modEng c e _ _ ?_ rfl rfl rfl)
  · constructor <;> first | rfl | skip
    cases (s.core c).task <;> rfl
  · constructor <;> rfl

/-- A trap in supervisor state changes no register (18 R308). -/
theorem takeTrap_sup_steady (s : State) (c : Nat) (e : Eng) (n : Nat) (v : Word) (pc : BitVec 16) (b o : Nat)
    (h : (s.eng c e).sup.isSome = true) (hl : ∀ x ∈ (s.core c).landing, x.eng ≠ e) : Steady c e s (s.takeTrap c e n v pc b o) := by
  have hd : Steady c e s (s.modCore c (fun k => k.dropResv e)) :=
    .modCore c e s _ (by constructor <;> rfl) rfl rfl (by intro e'; cases e' <;> rfl)
  have hs : ((s.modCore c (fun k => k.dropResv e)).eng c e).sup.isSome = true := by rw [hd.eng.sup]; exact h
  have hn : s.land c e = s := by
    have : (s.core c).landing.filter (fun x => x.eng == e) = [] := by simpa using hl
    simp [State.land, this]
  unfold State.takeTrap
  rw [hn]
  simp only [hs, if_true]
  refine hd.trans (Steady.trans ?_ (deliver_steady ..))
  exact .setEng c e _ _ (by constructor <;> rfl) rfl rfl rfl

theorem leaveSect_steady (s : State) (c : Nat) (e : Eng)
    (hl : s.Landed c e) : Steady c e s (s.leaveSect c e) := by
  unfold State.leaveSect
  simp only
  split
  · next h =>
    split
    · exact .setEng c e s _ (by constructor <;> rfl) rfl rfl rfl
    · exact takeTrap_sup_steady s c e _ _ _ _ _ h (fun x hx he => by simp [hl x hx he] at h)
  · refine .setEng c e s _ ?_ ?_ ?_ ?_ <;> unfold Engine.retireSect <;> split <;> first | rfl | (constructor <;> rfl)

theorem toWord_steady (s : State) (c : Nat) (e : Eng) (w : Nat)
    (hl : s.Landed c e) : Steady c e s (s.toWord c e w) := by
  unfold State.toWord
  split
  · exact leaveSect_steady _ _ _ hl
  · exact .modEng c e s _ (by constructor <;> rfl) rfl rfl rfl

/-- The loop unit changes the loops of the engine alone. -/
theorem loopBack_kept (r : Bool) (n : Nat) (g : Engine) (w : Nat) :
    ∃ ls, (Engine.loopBack r n g w).1 = { g with loops := ls } := by
  induction n generalizing g with
  | zero => exact ⟨g.loops, rfl⟩
  | succ n ih =>
    have drop (m : Nat) : ∃ ls, (Engine.loopBack r n { g with loops := g.loops.del m } w).1 = { g with loops := ls } := by
      obtain ⟨ls, h⟩ := ih { g with loops := g.loops.del m }
      exact ⟨ls, by rw [h]⟩
    unfold Engine.loopBack
    split
    · exact ⟨g.loops, rfl⟩
    · simp only
      repeat' split
      all_goals first | exact ⟨_, rfl⟩ | exact drop _

theorem follow_next_steady (s : State) (c : Nat) (e : Eng) (last : Nat)
    (hl : s.Landed c e) : Steady c e s (s.follow c e last .next) := by
  unfold State.follow
  obtain ⟨ls, hg⟩ := loopBack_kept (s.reqOpen c) 5 (s.eng c e) last
  have h1 : Steady c e s (s.setEng c e (Engine.loopBack (s.reqOpen c) 5 (s.eng c e) last).1) := by
    rw [hg]; exact .setEng c e s _ (by constructor <;> rfl) rfl rfl rfl
  have hl1 := h1.landed hl
  simp only
  split
  · exact toWord_steady _ _ _ _ hl
  split
  · split
    · exact h1.trans ((toWord_steady _ _ _ _ hl1).trans (park_steady ..))
    · exact h1.trans (toWord_steady _ _ _ _ hl1)
  · exact h1.trans (toWord_steady _ _ _ _ hl1)

/-- A member that ends without a trap owed keeps every register. -/
theorem endMember_next_steady (s : State) (c : Nat) (e : Eng) (g : Grp) (h : g.owes = none) (hf : g.flow ≠ .eret)
    (hl : s.Landed c e) :
    Steady c e s (s.endMember c e g .next) := by
  have hj : g.flow.join .next = .next := by
    cases hg : g.flow <;> first | rfl | exact absurd hg hf
  unfold State.endMember
  simp only [hj]
  split
  · exact .modEng c e s _ (by constructor <;> rfl) rfl rfl rfl
  · simp only [h]
    have h1 : Steady c e s (s.modEng c e (fun x => { x with grp := none })) := .modEng c e s _ (by constructor <;> rfl) rfl rfl rfl
    exact h1.trans (follow_next_steady _ _ _ _ (h1.landed hl))

-- retirement

theorem dropTokens_eq (k : Core) (e : Eng) (pops : BitVec 3) :
    ∃ o r, k.dropTokens e pops = { k with occ := o, resv := r } := by
  have H : ∀ (l : List Nat) (k : Core), ∃ o r, l.foldl (fun k j =>
      if pops.getLsbD (j - 1) then
        let f := fifoNo (engOther e j) e
        { k with occ := k.occ.put f (k.occ.get f 0 - 1), resv := k.resv.put f (k.resv.get f 0 - 1) }
      else k) k = { k with occ := o, resv := r } := by
    intro l
    induction l with
    | nil => exact fun k => ⟨k.occ, k.resv, rfl⟩
    | cons j l ih =>
      intro k
      rw [List.foldl_cons]
      split
      · obtain ⟨o, r, h⟩ := ih { k with occ := _, resv := _ }
        exact ⟨o, r, h⟩
      · exact ih k
  exact H [1, 2, 3] k

@[simp] theorem dropTokens_eng (k : Core) (e : Eng) (pops : BitVec 3) (e' : Eng) : (k.dropTokens e pops).eng e' = k.eng e' := by
  obtain ⟨o, r, h⟩ := dropTokens_eq k e pops
  rw [h]; cases e' <;> rfl

@[simp] theorem dropTokens_flight (k : Core) (e : Eng) (pops : BitVec 3) : (k.dropTokens e pops).flight = k.flight := by
  obtain ⟨o, r, h⟩ := dropTokens_eq k e pops
  rw [h]
@[simp] theorem dropTokens_landing (k : Core) (e : Eng) (pops : BitVec 3) : (k.dropTokens e pops).landing = k.landing := by
  obtain ⟨o, r, h⟩ := dropTokens_eq k e pops
  rw [h]

/-- Release of tokens touches no other file. -/
theorem dropTokens_steady (s : State) (c : Nat) (e : Eng) (pops : BitVec 3) :
    Steady c e s (s.modCore c (fun k => k.dropTokens e pops)) := by
  obtain ⟨o, r, h⟩ := dropTokens_eq (s.core c) e pops
  refine .modCore c e s _ ?_ ?_ ?_ (fun e' => dropTokens_eng _ _ _ e')
  · rw [h]; constructor <;> rfl
  · rw [h]
  · rw [h]

/-- No FIFO that an engine pops from is one that it posts to. -/
theorem room_dropTokens (k : Core) (e : Eng) (pops posts : BitVec 3) :
    (k.dropTokens e pops).room e posts = k.room e posts := by
  cases e <;> simp only [Core.dropTokens, List.foldl_cons, List.foldl_nil, Core.room, List.all_cons, List.all_nil] <;>
    repeat' split
  all_goals simp [fifoNo, engOther, engIdx, engOfIdx]

theorem room_setEng (k : Core) (e e' : Eng) (g : Engine) (posts : BitVec 3) :
    (k.setEng e' g).room e posts = k.room e posts := by
  simp [Core.room]

/-- What the retirement of a member with flow `next` does: it pushes, ORs its flags in and posts; all else is steady. -/
theorem retire_next {s : State} {h : Hdr} {g : Grp} (hi : s.Issuing h g) (push : Option RingEntry) (flags : FlagSet) :
    Ran s (s.retire h push flags .next) ∧
    (s.retire h push flags .next).curEng.regs = s.curEng.regs ∧
    (s.retire h push flags .next).curEng.ring = (s.curEng.push push).ring ∧
    (s.retire h push flags .next).curEng.csr.fflags = s.curEng.csr.fflags ||| flags ∧
    (s.retire h push flags .next).curCore.v = s.curCore.v ∧ (s.retire h push flags .next).curCore.p = s.curCore.p := by
  obtain ⟨hg, hr, hl, hb, hone, ho, hf⟩ := hi
  -- the push and the flags
  let x : Engine := s.curEng
  let z : Engine := (x.push push).unblock
  let y : Engine := { z with csr := { z.csr with fflags := z.csr.fflags ||| flags }, inside := none }
  let t : State := s.setEng s.cur.1 s.cur.2 y
  let u : State := t.modCore s.cur.1 (fun k => k.dropTokens s.cur.2 h.pop)
  let g' : Grp := { g with flags := g.flags ||| flags }
  have hy : Engine.Kept x y := by
    cases push <;> constructor <;> rfl
  have ht : t.eng s.cur.1 s.cur.2 = y := by simp [t]
  have htu : Steady s.cur.1 s.cur.2 t u := dropTokens_steady ..
  have htg : (t.eng s.cur.1 s.cur.2).grp = some g := by
    rw [ht]
    cases push <;> exact hg
  have hroom : (u.core s.cur.1).room s.cur.2 h.post = true := by
    simp only [u, State.core_modCore, if_true, room_dropTokens]
    simp only [t, State.setEng, State.core_setCore, if_true, room_setEng]
    exact hr
  have hbeh : t.behind s.cur.1 s.cur.2 = false := by
    simpa [State.behind, Core.owing, t, State.setEng] using hb
  have hno : s.curCore.unlanded s.cur.2 = false := by
    simp only [Core.unlanded, Bool.and_eq_false_iff, bne_eq_false_iff_eq, List.any_eq_false]
    by_cases hm : s.cur.2 = .M
    · exact .inl hm
    · exact .inr (fun x hx he => hm (hl x hx (by simpa using he)).1)
  have hland : (t.core s.cur.1).unlanded s.cur.2 = false := by
    simpa [Core.unlanded, t, State.setEng, State.curCore] using hno
  have hret : s.retire h push flags .next =
      ((u.modCore s.cur.1 (fun k => k.addTokens s.cur.2 h.post)).modEng s.cur.1 s.cur.2
        (fun x => { x.unblock with owed := none })).endMember s.cur.1 s.cur.2 g' .next := by
    have hfirst : (s.modEng s.cur.1 s.cur.2 (fun x =>
        let y := (x.push push).resumed (s.behind s.cur.1 s.cur.2)
        { y with csr := { y.csr with fflags := y.csr.fflags ||| flags }, inside := none })) = t := by
      simp only [hb]; rfl
    unfold State.retire
    simp only [hfirst]
    rw [htg]
    have hq : (t.unretired s.cur.1 s.cur.2 && (h.pop != 0 || h.post != 0)) = false := by
      rcases hone with h1 | ⟨h1, h2⟩
      · have : t.unretired s.cur.1 s.cur.2 = false := by simpa [State.unretired, t, State.setEng] using h1
        simp [this]
      · simp [h1, h2]
    have hroom' : ((t.modCore s.cur.1 (fun k => k.dropTokens s.cur.2 h.pop)).core s.cur.1).room s.cur.2 h.post = true := hroom
    simp only [State.postAndEnd, hland, hbeh, hq, State.postNow, hroom', if_true]
    rfl
  have hend : Steady s.cur.1 s.cur.2 u (s.retire h push flags .next) := by
    rw [hret]
    have h1 : Steady s.cur.1 s.cur.2 u (u.modCore s.cur.1 (fun k => k.addTokens s.cur.2 h.post)) :=
      .modCore _ _ _ _ (by constructor <;> rfl) rfl rfl (by intro e'; cases e' <;> rfl)
    have h2 := h1.trans (.modEng s.cur.1 s.cur.2 (u.modCore s.cur.1 (fun k => k.addTokens s.cur.2 h.post))
      (fun x => { x.unblock with owed := none }) (by constructor <;> rfl) rfl rfl rfl)
    refine h2.trans (endMember_next_steady _ _ _ _ ho hf (h2.landed ?_))
    intro x hx he
    have hx' : x ∈ s.curCore.landing := by
      simpa [u, t, State.setEng, dropTokens_landing, State.curCore] using hx
    have hs : (u.eng s.cur.1 s.cur.2).sup = s.curEng.sup := by
      have : u.eng s.cur.1 s.cur.2 = y := by rw [← ht]; simp [u, State.eng]
      rw [this]; cases push <;> rfl
    rw [hs]; exact (hl x hx' he).2
  have hall := htu.trans hend
  have hcur : (s.retire h push flags .next).cur = s.cur := hall.pkg.cur
  have hst : OnlyCore s t s.cur.1 := .setCore ..
  have hkt : Core.Kept (s.core s.cur.1) (t.core s.cur.1) := by simpa [t, State.setEng] using Core.Kept.setEng _ _ y
  refine ⟨⟨hst.trans hall.pkg, ?_, ?_, ?_⟩, ?_, ?_, ?_, ?_, ?_⟩
  · simpa only [State.curCore, hcur] using hkt.trans hall.core
  · have hk := hall.eng
    rw [ht] at hk
    have := hy.trans hk
    simpa only [State.curEng, hcur, x] using this
  · intro e' he
    rw [hall.engs e' he]
    simp [t, Ne.symm he]
  · simp only [State.curEng, hcur, hall.regs, ht]
    cases push <;> rfl
  · simp only [State.curEng, hcur, hall.ring, ht]
    rfl
  · simp only [State.curEng, hcur, hall.ff, ht]
    cases push <;> rfl
  · simp only [State.curCore, hcur, hall.vs]
    simp [t, State.setEng]
  · simp only [State.curCore, hcur, hall.ps]
    simp [t, State.setEng]

end Sys2Proof.Machine
end

