-- ==== Sys2Proof/Laws/Memory.lean ====
section
/-! SUPPORT. Canonical memory: reading after writing, and that every memory operation keeps the canonical form. -/

namespace Sys2Proof.Machine

-- the form

theorem Memory.wfFrom_mono {d : Byte} {l l' : Nat} {m : Memory} (h : Memory.wfFrom d (some l) m = true) (hl : l' ≤ l) :
    Memory.wfFrom d (some l') m = true := by
  cases m with
  | nil => rfl
  | cons x m =>
    obtain ⟨a, b⟩ := x
    simp only [Memory.wfFrom, Bool.and_eq_true, decide_eq_true_eq] at h ⊢
    exact ⟨⟨Nat.lt_of_le_of_lt hl h.1.1, h.1.2⟩, h.2⟩

theorem Memory.wfFrom_none {d : Byte} {l : Nat} {m : Memory} (h : Memory.wfFrom d (some l) m = true) :
    Memory.wfFrom d none m = true := by
  cases m with
  | nil => rfl
  | cons x m =>
    obtain ⟨a, b⟩ := x
    simp_all [Memory.wfFrom]

/-- Nothing is listed at or below the lower bound. -/
theorem Memory.find?_low {d : Byte} {l : Nat} {m : Memory} (h : Memory.wfFrom d (some l) m = true) {k : Nat} (hk : k ≤ l) :
    Store.find? m k = none := by
  induction m generalizing l with
  | nil => rfl
  | cons x m ih =>
    obtain ⟨a, b⟩ := x
    simp only [Memory.wfFrom, Bool.and_eq_true, decide_eq_true_eq] at h
    rw [Store.find?_cons, if_neg (by omega)]
    exact ih h.2 (by omega)

theorem Memory.put_wfFrom {d : Byte} {lo : Option Nat} {m : Memory} {a : Nat} {b : Byte}
    (h : Memory.wfFrom d lo m = true) (hb : b ≠ d) (hlo : ∀ l, lo = some l → l < a) :
    Memory.wfFrom d lo (Store.put m a b) = true := by
  induction m generalizing lo with
  | nil => cases lo <;> simp_all [Store.put, Memory.wfFrom]
  | cons x m ih =>
    obtain ⟨c, e⟩ := x
    simp only [Memory.wfFrom, Bool.and_eq_true, bne_iff_ne, ne_eq] at h
    simp only [Store.put]
    split
    · next hac =>
      simp only [Memory.wfFrom, Bool.and_eq_true, bne_iff_ne, ne_eq, decide_eq_true_eq]
      exact ⟨⟨(by cases lo with | none => rfl | some l => simpa using hlo l rfl), hb⟩, ⟨hac, h.1.2⟩, h.2⟩
    · split
      · next hac =>
        subst c
        simp only [Memory.wfFrom, Bool.and_eq_true, bne_iff_ne, ne_eq]
        exact ⟨⟨(by cases lo with | none => rfl | some l => simpa using hlo l rfl), hb⟩, h.2⟩
      · simp only [Memory.wfFrom, Bool.and_eq_true, bne_iff_ne, ne_eq]
        exact ⟨h.1, ih h.2 (by intro l hl; cases hl; omega)⟩

theorem Memory.del_wfFrom {d : Byte} {lo : Option Nat} {m : Memory} {a : Nat} (h : Memory.wfFrom d lo m = true) :
    Memory.wfFrom d lo (Store.del m a) = true := by
  induction m generalizing lo with
  | nil => rfl
  | cons x m ih =>
    obtain ⟨c, e⟩ := x
    simp only [Store.del]
    simp only [Memory.wfFrom, Bool.and_eq_true, bne_iff_ne, ne_eq] at h
    split
    · cases lo with
      | none => exact Memory.wfFrom_none h.2
      | some l => exact Memory.wfFrom_mono h.2 (by simpa using Nat.le_of_lt (by simpa using h.1.1))
    · simp only [Memory.wfFrom, Bool.and_eq_true, bne_iff_ne, ne_eq]
      exact ⟨h.1, ih h.2⟩

theorem Memory.poke_wf {d : Byte} {m : Memory} (a : Nat) (b : Byte) (h : Memory.wfFrom d none m = true) :
    Memory.wfFrom d none (Memory.poke d m a b) = true := by
  unfold Memory.poke
  split
  · exact Memory.del_wfFrom h
  · next hb => exact Memory.put_wfFrom h hb (by simp)

theorem Memory.write_wf {m : Memory} (a : Nat) (b : Byte) (h : m.wf = true) : (m.write a b).wf = true :=
  Memory.poke_wf a b h

theorem Memory.writeN_wf {m : Memory} (a : Nat) (bs : List Byte) (h : m.wf = true) : (m.writeN a bs).wf = true := by
  induction bs generalizing m a with
  | nil => exact h
  | cons b bs ih => exact ih _ (Memory.write_wf a b h)

theorem Memory.putWord_wf {m : Memory} (a : Nat) (w : Word) (h : m.wf = true) : (m.putWord a w).wf = true :=
  Memory.writeN_wf a _ h

theorem Memory.putWords_wf {m : Memory} (a : Nat) (ws : List Word) (h : m.wf = true) : (m.putWords a ws).wf = true := by
  induction ws generalizing m a with
  | nil => exact h
  | cons w ws ih => exact ih _ (Memory.putWord_wf a w h)

/-- Dropping entries keeps the form. -/
theorem Memory.filter_wf {m : Memory} (p : Host.Cell → Bool) (h : m.wf = true) : Memory.wf (m.filter p) = true := by
  suffices H : ∀ lo, Memory.wfFrom 0 lo m = true → Memory.wfFrom 0 lo (m.filter p) = true from H none h
  clear h
  intro lo h
  induction m generalizing lo with
  | nil => rfl
  | cons x m ih =>
    obtain ⟨a, b⟩ := x
    simp only [Memory.wfFrom, Bool.and_eq_true, bne_iff_ne, ne_eq] at h
    rw [List.filter_cons]
    split
    · simp only [Memory.wfFrom, Bool.and_eq_true, bne_iff_ne, ne_eq]
      exact ⟨h.1, ih _ h.2⟩
    · cases lo with
      | none => exact ih _ (Memory.wfFrom_none h.2)
      | some l => exact ih _ (Memory.wfFrom_mono h.2 (Nat.le_of_lt (by simpa using h.1.1)))

theorem landCells_wf {m : Memory} (cells : List (Nat × Byte × Byte)) (h : m.wf = true) : (landCells m cells).wf = true := by
  induction cells generalizing m with
  | nil => exact h
  | cons x cells ih => exact ih (Memory.write_wf _ _ h)

-- reading after writing

theorem Memory.find?_del_same {d : Byte} {lo : Option Nat} {m : Memory} (h : Memory.wfFrom d lo m = true) (a : Nat) :
    Store.find? (Store.del m a) a = none := by
  induction m generalizing lo with
  | nil => rfl
  | cons x m ih =>
    obtain ⟨c, e⟩ := x
    simp only [Memory.wfFrom, Bool.and_eq_true] at h
    simp only [Store.del]
    split
    · next hc => subst hc; exact Memory.find?_low h.2 (Nat.le_refl _)
    · next hc => rw [Store.find?_cons, if_neg hc]; exact ih h.2

theorem Memory.read_write {m : Memory} (h : m.wf = true) (a : Nat) (b : Byte) (a' : Nat) :
    (m.write a b).read a' = if a = a' then b else m.read a' := by
  unfold Memory.write Memory.read Memory.peek Memory.poke
  split
  · next hb =>
    subst hb
    by_cases ha : a = a'
    · subst ha
      simp [Store.get, Memory.find?_del_same h]
    · simp [Store.get, Store.find?_del_ne m ha, ha]
  · simp

theorem Memory.read_writeN {m : Memory} (h : m.wf = true) (a : Nat) (bs : List Byte) (a' : Nat) :
    (m.writeN a bs).read a' = if a ≤ a' ∧ a' < a + bs.length then bs.getD (a' - a) 0 else m.read a' := by
  induction bs generalizing m a with
  | nil => simp [Memory.writeN]
  | cons b bs ih =>
    rw [Memory.writeN, ih (Memory.write_wf a b h), Memory.read_write h]
    simp only [List.length_cons]
    by_cases h1 : a = a'
    · subst h1
      simp
    · by_cases h2 : a + 1 ≤ a' ∧ a' < a + 1 + bs.length
      · rw [if_pos h2, if_pos (by omega)]
        have : a' - a = (a' - (a + 1)) + 1 := by omega
        rw [this]; rfl
      · rw [if_neg h2, if_neg h1, if_neg (by omega)]

theorem Memory.writeN_outside {m : Memory} (h : m.wf = true) (a : Nat) (bs : List Byte) (a' : Nat)
    (ha : a' < a ∨ a + bs.length ≤ a') : (m.writeN a bs).read a' = m.read a' := by
  rw [Memory.read_writeN h, if_neg (by omega)]

end Sys2Proof.Machine
end

