-- ==== Sys2Proof/Tests/Slice0.lean ====
section
/-! SUPPORT. Tests of one word or one event at a time, ill-formed terms that WellFormed refuses, and for every obligation with
hypotheses states and operands that meet them. Words are written out from the encodings of 03; expected values are the spec's own
examples or worked by hand from the rule cited. -/

namespace Sys2Proof.Tests
open Sys2Proof Sys2Proof.Machine

-- one theorem at a time: the kernel evaluations need much memory side by side
set_option Elab.async false

-- decoding

/-- S = 1, no tokens, guard p0. -/
abbrev h0 : Hdr := ⟨true, 0, 0, 0, false⟩

def decodes (nbits : Nat) (l : List (Nat × Instr)) : Bool := l.all (fun x => decodeTableWord nbits x.1 == some x.2)

/-- Control words (03 R47, R48, R50, 04 R67 to R83), written out from their encodings. -/
theorem test_decode_control_1 : decodes 96 [
    (0x800000000000000000000000, .nop h0),
    (0x800010000000000000010009, .br h0 ⟨1, 9⟩),
    (0x80002140000FF80000020007, .brc h0 .gen (.s 3) .z ⟨2, 7⟩),
    (0x80003040003800003FFFFFFF, .brp h0 true 14 ⟨16383, 65535⟩),
    (0x80004000000000000000FFFF, .call h0 ⟨0, 65535⟩),
    (0x800050000000000000000000, .ret h0),
    (0x800060C000C000000000000C, .loop h0 3 (.lc 0) 12),
    (0x800070800024000000030005, .loops h0 2 (.s 9) 3 5),
    (0x800080400000000000000000, .brkl h0 1),
    (0x800090000000000000000000, .suspend h0),
    (0x8000A0000000000000000000, .yield h0),
    (0x8000B0000000000000000000, .halt h0),
    (0x8000D0000000000000000000, .sleep h0),
    (0x8000E0000000000000000000, .tfence h0),
    (0x8000C800000000014001C400, .watch h0 ⟨.imm 7, .s 5, 0x400, .none⟩),
    (0x8000F000008C00003FFFFFFF, .stampb h0 (.q 3) 0x3FFFFFFF),
    (0x80010000000000000000FFFF, .trap h0 0xFFFF),
    (0x800110000000000000000005, .bkpt h0 5)] = true := by decide

/-- Control words (03 R47, R48, R50, 04 R67 to R83), written out from their encodings. -/
theorem test_decode_control_2 : decodes 96 [
    (0x8001B0000004020000000000, .tlbinv h0 (.s 1) (.s 2)),
    (0x8001C000007C000000000000, .bufinv h0 (.s 31))] = true := by decide

/-- Scalar words (03 R47, R48, 04 R60 to R66), written out from their encodings. -/
theorem test_decode_scalar_1 : decodes 96 [
    (0x800200C0100BF00000000000, .add h0 .satn (.s 1) (.s 2) (.d 0)),
    (0x80021000200000000000000A, .addi h0 .wrap (.s 2) (.s 0) 10),
    (0x800220803010050000000000, .sub h0 .sat (.s 3) (.s 4) (.s 5)),
    (0x800230003013F90000000000, .mul h0 .wrap (.s 3) (.s 4) .ones),
    (0x800270BF80040200C0000000, .madd h0 .sat .z (.s 1) (.s 2) (.s 3)),
    (0x800240004014060000000000, .mulh h0 (.s 4) (.s 5) (.s 6)),
    (0x800240404087F20000000000, .mulhn h0 (.s 4) (.q 1) (.d 2)),
    (0x800250004014060000000000, .div h0 (.s 4) (.s 5) (.s 6)),
    (0x800250404087F20000000000, .divn h0 (.s 4) (.q 1) (.d 2)),
    (0x800260004014060000000000, .rem h0 (.s 4) (.s 5) (.s 6)),
    (0x800260404087F20000000000, .remn h0 (.s 4) (.q 1) (.d 2)),
    (0x800360004014060000000000, .min h0 (.s 4) (.s 5) (.s 6)),
    (0x800360404087F20000000000, .minn h0 (.s 4) (.q 1) (.d 2)),
    (0x800370004014060000000000, .max h0 (.s 4) (.s 5) (.s 6)),
    (0x800370404087F20000000000, .maxn h0 (.s 4) (.q 1) (.d 2)),
    (0x800280007020090000000000, .and h0 (.s 7) (.s 8) (.s 9)),
    (0x8002A0007020090000000000, .or h0 (.s 7) (.s 8) (.s 9)),
    (0x8002C0007020090000000000, .xor h0 (.s 7) (.s 8) (.s 9))] = true := by decide

/-- Scalar words (03 R47, R48, 04 R60 to R66), written out from their encodings. -/
theorem test_decode_scalar_2 : decodes 96 [
    (0x8002E0007020090000000000, .andn h0 (.s 7) (.s 8) (.s 9)),
    (0x800300007020090000000000, .shl h0 (.s 7) (.s 8) (.s 9)),
    (0x800320007020090000000000, .shr h0 (.s 7) (.s 8) (.s 9)),
    (0x800340007020090000000000, .sra h0 (.s 7) (.s 8) (.s 9)),
    (0x800290007020000020000000, .andi h0 (.s 7) (.s 8) 0x20000000),
    (0x8002B0007020000020000000, .ori h0 (.s 7) (.s 8) 0x20000000),
    (0x8002D0007020000020000000, .xori h0 (.s 7) (.s 8) 0x20000000),
    (0x80031000702000000000003F, .shli h0 (.s 7) (.s 8) 63),
    (0x80033000702000000000003F, .shri h0 (.s 7) (.s 8) 63),
    (0x80035000702000000000003F, .srai h0 (.s 7) (.s 8) 63),
    (0x8002F00070EC000000000000, .clz h0 (.s 7) (.sp 7)),
    (0x8003C0007FDC000000000000, .popc h0 (.s 7) (.d 7)),
    (0x800381001008030000000000, .cmp h0 .ltn (.s 1) (.s 2) (.s 3)),
    (0x800390001008030100000000, .sel h0 (.s 1) (.s 2) (.s 3) (.s 4)),
    (0x8003A0006000010000000005, .li h0 (.s 6) 0x10000000005),
    (0x8003B000601C0000BFFFFFFF, .lih h0 (.s 6) (.s 7) 0xBFFFFFFF),
    (0x8003D000601C0000000001F8, .bext h0 (.s 6) (.s 7) 56 7),
    (0x8003E000601C0800000003F0, .bins h0 (.s 6) (.s 7) (.s 8) 48 15)] = true := by decide

/-- Memory, fence and barrier words (03 R51 to R54, 12 R227 to R242), written out from their encodings. -/
theorem test_decode_memory_1 : decodes 96 [
    (0x80040A8070040001004B1FFF, .lds h0 2 true false (.s 7) ⟨.imm 300, .s 4, 0x7FF, .acq .pkg⟩),
    (0x800401C07000030100000001, .lds h0 3 false true (.s 7) ⟨.reg (.s 3), .s 4, 1, .none⟩),
    (0x80041C40001C000100001000, .sts h0 1 (.s 7) ⟨.imm 0, .s 4, 0, .rel .die⟩),
    (0x800428007004000100000000, .cld h0 0 true (.s 7) ⟨.imm 0, .s 4, 0, .none⟩),
    (0x80043E80200C0001800064FF, .amo h0 .fadd 2 (.s 2) (.s 3) ⟨.imm 1, .s 6, 0x7FF, .ar .pod⟩),
    (0x800446C0200C050180002800, .cas h0 3 (.s 2) (.s 3) ⟨.reg (.s 5), .s 6, 0, .ar .sys⟩),
    (0x8005092FF0000001800003FF, .vld h0 true (.v 767) ⟨.imm 0, .s 6, 0x3FF, .none⟩),
    (0x800518805010000180000000, .vlds h0 2 false (.v 5) (.s 4) ⟨.imm 0, .s 6, 0, .none⟩),
    (0x80052AC05010000180000800, .vldx h0 3 false (.v 5) (.v 4) ⟨.imm 0, .s 6, 0, .acq .quad⟩),
    (0x800538405000000180000000, .vldb h0 1 false (.v 5) ⟨.imm 0, .s 6, 0, .none⟩),
    (0x800548000014000180000000, .vst h0 (.v 5) ⟨.imm 0, .s 6, 0, .none⟩),
    (0x800558C03014000180000000, .vsts h0 3 (.v 5) (.s 3) ⟨.imm 0, .s 6, 0, .none⟩),
    (0x800568ABC014000180000000, .vstx h0 2 (.v 5) (.v 700) ⟨.imm 0, .s 6, 0, .none⟩),
    (0x80057800C02C000000024002, .vstn h0 (.v 11) (.v 12) ⟨.imm 9, .s 0, 2, .none⟩),
    (0x800588800AF00002000244C0, .amov h0 .fadd .f32 (.v 700) ⟨.imm 9, .s 8, 0, .none⟩),
    (0x800601400000000000000000, .fence h0 .sys),
    (0x800610C00000000000000005, .lfence h0 .pkg 5),
    (0x800621000000000000000000, .barr h0 .pod)] = true := by decide

/-- Memory, fence and barrier words (03 R51 to R54, 12 R227 to R242), written out from their encodings. -/
theorem test_decode_memory_2 : decodes 96 [
    (0x800638000004000080004000, .boarm h0 (.s 1) ⟨.imm 1, .s 2, 0, .none⟩),
    (0x80064C000004000080004001, .boadd h0 (.s 1) ⟨.imm 1, .s 2, 1, .rel .core⟩),
    (0x80065A009020000000085804, .bowait h0 (.s 9) (.s 8) ⟨.imm 33, .s 0, 4, .acq .pkg⟩)] = true := by decide

/-- Record, reuse and command words (10 R181, R182, 14 R278, 16 R287), written out from their encodings. -/
theorem test_decode_command : decodes 96 [
    (0x800700001008030000000009, .lpatch h0 9 (.s 1) (.s 2) (.s 3)),
    (0x800710001008000000000000, .larm h0 (.s 1) (.s 2)),
    (0x800720001008030000000000, .rchk h0 (.s 1) (.s 2) (.s 3)),
    (0x800730001008030000000000, .rinv h0 (.s 1) (.s 2) (.s 3)),
    (0x800780001008030100134010, .acpy h0 (.s 1) (.s 2) (.s 3) (.s 4) ⟨77, 16⟩),
    (0x800790001008030100134010, .afill h0 (.s 1) (.s 2) (.s 3) (.s 4) ⟨77, 16⟩),
    (0x8007C0001008030100134010, .aferry h0 (.s 1) (.s 2) (.s 3) (.s 4) ⟨77, 16⟩),
    (0x8007A000100800003FFFFFFF, .agath h0 (.s 1) (.s 2) ⟨65535, 16383⟩),
    (0x8007B000100800003FFFFFFF, .ascat h0 (.s 1) (.s 2) ⟨65535, 16383⟩),
    (0x8007D0001008030000000000, .acoll h0 (.s 1) (.s 2) (.s 3) ⟨0, 0⟩),
    (0x8007E0001008000000000000, .astat h0 (.s 1) (.s 2))] = true := by decide

/-- Vector words (03 R46, R48, 07 R107 to R123), written out from their encodings. -/
theorem test_decode_vector_1 : decodes 96 [
    (0x800800001008030020800000, .vadd h0 .f32 (.mode .rtz) false (.v 1) (.v 2) (.vec (.v 3))),
    (0x800810001008030020800000, .vsub h0 .f32 (.mode .rtz) false (.v 1) (.v 2) (.vec (.v 3))),
    (0x800820001008030020800000, .vmul h0 .f32 (.mode .rtz) false (.v 1) (.v 2) (.vec (.v 3))),
    (0x800830001008030014000000, .vmulh h0 .n16 (.v 1) (.v 2) (.vec (.v 3))),
    (0x80084006419435BFEBA00000, .vfma h0 .bf16 .frm false (.v 100) (.v 101) (.sc (.sp 1)) (.v 767)),
    (0x80085006419435BFEBA00000, .vfms h0 .bf16 .frm false (.v 100) (.v 101) (.sc (.sp 1)) (.v 767)),
    (0x80086006419435BFEBA00000, .vfnma h0 .bf16 .frm false (.v 100) (.v 101) (.sc (.sp 1)) (.v 767)),
    (0x800870001008030024000000, .vmin h0 .f16 (.v 1) (.v 2) (.vec (.v 3))),
    (0x800880001008030024000000, .vmax h0 .f16 (.v 1) (.v 2) (.vec (.v 3))),
    (0x800890001008000000400000, .vabs h0 .i8 true (.v 1) (.v 2)),
    (0x8008A0001008000000400000, .vneg h0 .i8 true (.v 1) (.v 2)),
    (0x800900001FC4000021800000, .vrcp h0 .f32 (.mode .rup) false (.v 1) (.d 1)),
    (0x800910001FC4000021800000, .vrsq h0 .f32 (.mode .rup) false (.v 1) (.d 1)),
    (0x800920001FC4000021800000, .vsqrt h0 .f32 (.mode .rup) false (.v 1) (.d 1)),
    (0x800930001FC4000021800000, .vexp2 h0 .f32 (.mode .rup) false (.v 1) (.d 1)),
    (0x800940001FC4000021800000, .vlog2 h0 .f32 (.mode .rup) false (.v 1) (.d 1)),
    (0x800950001FC4000021800000, .vsin h0 .f32 (.mode .rup) false (.v 1) (.d 1)),
    (0x800960001FC4000021800000, .vcos h0 .f32 (.mode .rup) false (.v 1) (.d 1))] = true := by decide

/-- Vector words (03 R46, R48, 07 R107 to R123), written out from their encodings. -/
theorem test_decode_vector_2 : decodes 96 [
    (0x800970001FC4000021800000, .vtanh h0 .f32 (.mode .rup) false (.v 1) (.d 1)),
    (0x800980001FC4000021800000, .vsig h0 .f32 (.mode .rup) false (.v 1) (.d 1)),
    (0x800A0000100803001C000000, .vand h0 .n64 (.v 1) (.v 2) (.vec (.v 3))),
    (0x800A1000100803001C000000, .vor h0 .n64 (.v 1) (.v 2) (.vec (.v 3))),
    (0x800A2000100803001C000000, .vxor h0 .n64 (.v 1) (.v 2) (.vec (.v 3))),
    (0x800A30001008030008200000, .vshl h0 .i32 (.v 1) (.v 2) (.sc (.s 3))),
    (0x800A40001008030008200000, .vshr h0 .i32 (.v 1) (.v 2) (.sc (.s 3))),
    (0x800A50001008030008200000, .vsra h0 .i32 (.v 1) (.v 2) (.sc (.s 3))),
    (0x800A6180F008030020000000, .vcmp h0 .uo .f32 15 (.v 2) (.vec (.v 3))),
    (0x800A7000103FF90084000000, .vsel h0 .i16 (.v 1) 15 (.vec .ones) (.v 2)),
    (0x800B00009020000029000000, .vradd h0 .bf16 (.mode .rdn) false (.v 9) (.v 8)),
    (0x800B10009020000010000000, .vrmax h0 .n8 (.v 9) (.v 8)),
    (0x800B20009020000010000000, .vrmin h0 .n8 (.v 9) (.v 8)),
    (0x800B30009020000023800000, .vscan h0 .f32 .frm false (.v 9) (.v 8)),
    (0x800A80001008000034000000, .vclassV h0 .e2m1 (.v 1) (.v 2)),
    (0x800A8000F008030024200000, .vclassP h0 .f16 15 (.v 2) (.s 3))] = true := by decide

/-- Conversion, permute and predicate words (08 R124 to R144), written out from their encodings. -/
theorem test_decode_convert_1 : decodes 96 [
    (0x800C00001008000023A48000, .vcvt h0 .f32 .f16 .frm false 1 (.v 1) (.v 2)),
    (0x800C10028028290034200000, .vqmx h0 .e2m1 .f32 (.mode .rne) false 0 (.v 40) (.v 41) (.v 10)),
    (0x800C200320A029002BB40000, .vdqmx h0 .bf16 .e2m1 .frm false 0 (.v 50) (.v 40) (.v 41)),
    (0x800C30001008030028200000, .vpack h0 .bf16 .f32 (.mode .rne) false (.v 1) (.v 2) (.v 3)),
    (0x800C40001008000023A88000, .vunpk h0 .f32 .bf16 .frm false 1 (.v 1) (.v 2)),
    (0x800C50001008030023800000, .vldexp h0 .f32 .frm false (.v 1) (.v 2) (.vec (.v 3))),
    (0x800D00001008030010000000, .vperm h0 .n8 (.v 1) (.v 2) (.v 3)),
    (0x800D10001008030114000000, .vshuf h0 .n16 (.v 1) (.v 2) (.v 3) (.s 4)),
    (0x800D200010080000180000FF, .vbcst h0 .n32 255 (.v 1) (.v 2)),
    (0x800D300010080300100003FF, .vins h0 .n8 1023 (.v 1) (.v 2) (.s 3)),
    (0x800D4000100800001C00007F, .vexts h0 .n64 127 (.s 1) (.v 2)),
    (0x800D50001008030018000000, .vcomp h0 .n32 (.v 1) (.v 2) 3),
    (0x800D60001008030018000000, .vexpd h0 .n32 (.v 1) (.v 2) 3),
    (0x800D70020100000010000000, .vtrn h0 .n8 32 64),
    (0x800D80001008030018000000, .pand h0 .n32 1 2 3),
    (0x800D80401008030018000000, .por h0 .n32 1 2 3),
    (0x800D80801008030018000000, .pxor h0 .n32 1 2 3),
    (0x800D80C01008000010000000, .pnot h0 .n8 1 2)] = true := by decide

/-- Conversion, permute and predicate words (08 R124 to R144), written out from their encodings. -/
theorem test_decode_convert_2 : decodes 96 [
    (0x800D9001F03C000014000000, .pcnt h0 .n16 (.s 31) 15),
    (0x800DA001F03C000014000000, .pfirst h0 .n16 (.s 31) 15),
    (0x800DB0005000360018000000, .pmov h0 .n32 5 0 (.sp 2)),
    (0x800DC0001008000014000000, .vpchk h0 .n16 (.v 1) (.v 2)),
    (0x800DD0001008000010000000, .vpclr h0 .n8 (.v 1) (.v 2))] = true := by decide

/-- Matrix words (03 R55, 09 R155 to R164), written out from their encodings. -/
theorem test_decode_matrix : decodes 96 [
    (0x800E00000004000000123456, .mcfg h0 (.s 1) 0x123456),
    (0x800E100000A0000000000000, .mldw h0 (.q 8) 0),
    (0x800E20000000000000FFFFFF, .mswp h0 0xFFFFFF),
    (0x800E30000004000000000000, .mlds h0 (.s 1) 0),
    (0x800E400000A01EAF02123456, .mma h0 2 40 (.s 30) 700 0x123456),
    (0x800E50000000000003000000, .mza h0 3 0),
    (0x800E602000001E0001000005, .mdrn h0 1 512 (.s 30) 5),
    (0x800E70002000000000000000, .mkpr h0 (.s 2) 0),
    (0x800E80000008000000000000, .mbswp h0 (.s 2) 0)] = true := by decide

/-- CSR words and ERET (04 R78, R82), written out from their encodings. -/
theorem test_decode_system : decodes 96 [
    (0x800180018000000000000041, .csrr h0 (.s 24) .trapv),
    (0x800190000064000000000042, .csrw h0 .trappc (.s 25)),
    (0x8001A0000000000000000000, .eret h0)] = true := by decide

/-- Steps of collective programs (21 R356, R357), written out from their encodings. -/
theorem test_decode_steps : decodes 128 [
    (0x10000000000500324101, .send ⟨0, 5, 0, 0, 3, 2, true, false, false, false, false, 1, 4096⟩),
    (0x70000000500004602, .recv ⟨0, 5, 0, 0, 0, 0, true, false, false, false, true, 2, 7⟩),
    (0x100003F000098011003, .pushred ⟨63, 0, 9, 8, 0, 1, false, false, true, false, false, 0, 256⟩),
    (0x100003F000098106004, .pull ⟨63, 0, 9, 8, 1, 0, true, true, false, false, false, 0, 256⟩),
    (0x400000000000217005, .collCopy ⟨0, 0, 0, 0, 2, 1, true, true, true, false, false, 0, 64⟩),
    (0x2000F000000000006, .wait ⟨15, 0, 0, 0, 0, 0, false, false, false, false, false, 0, 2⟩),
    (0xF000100000707, .collSignal ⟨15, 1, 0, 0, 0, 0, false, false, false, false, true, 3, 0⟩),
    (0x90000000000000008, .collLoop ⟨0, 0, 0, 0, 0, 0, false, false, false, false, false, 0, 9⟩),
    (0x9, .endl ⟨0, 0, 0, 0, 0, 0, false, false, false, false, false, 0, 0⟩),
    (0xA, .countx ⟨0, 0, 0, 0, 0, 0, false, false, false, false, false, 0, 0⟩),
    (0xB, .pfxsum ⟨0, 0, 0, 0, 0, 0, false, false, false, false, false, 0, 0⟩),
    (0xF, .collEnd ⟨0, 0, 0, 0, 0, 0, false, false, false, false, false, 0, 0⟩)] = true := by decide

/-- Work-queue entries (22 R374), written out from their encodings. -/
theorem test_decode_entries : decodes 512 [
    (0x4D000100120000000000000001, .launch 0x12 true 77),
    (0x6000000000000000500000000000000040000000000000003000000000000000200000000000000010000000000000F02, .seq 15 1 2 3 4 5 6),
    (0x28000000000000001E0000000000000014000000000000000A0000000000000003, .copy 10 20 30 40),
    (0x100000000004000210000000000000004, .waitbo 0x400021 true),
    (0x87FF000000000000000800000000000000090000000000000005, .signal 9 8 2047 true),
    (0x9000000050000000000000003000000000000000200000000000000010000000000000006, .coll 1 2 3 5 9)] = true := by decide
-- refused words

def refusesAll (nbits : Nat) (l : List Nat) : Bool := l.all (fun x => (decodeTableWord nbits x).isNone)

/-- Opcodes the map of 03 leaves out (R46): 0x12, 0x3F, 0x61, 0xB4, 0xFF. -/
theorem test_refuses_reserved_opcodes : refusesAll 96 [0x800120000000000000000000, 0x8003F0000000000000000000,
    0x800610000000000000000000, 0x800B40000000000000000000, 0x800FF0000000000000000000] = true := by decide

/-- A reserved field or code that is not 0 (03 R44 to R50): a NOP with MOD 1, with D, with A, with IMM; ADD with mode 1; ADD into
the loop counter lc0; a source code 1018; GN with p0 on X. -/
theorem test_refuses_reserved_fields : refusesAll 96 [0x800000400000000000000000, 0x800000001000000000000000,
    0x800000000004000000000000, 0x800000000000000000000001, 0x800200400000000000000000, 0x800200000000000000000000 + 48 * 2 ^ 60,
    0x800200000000000000000000 + 1018 * 2 ^ 50, 0x82180000501FF10021800000] = true := by decide

/-- Steps and entries with reserved bits or kinds (21 R356, R357, 22 R374): opcode 0, opcode 12, a bit above SLOT; kind 0, kind 7,
a bit beside NR, a word the kind does not use. -/
theorem test_refuses_steps_entries :
    refusesAll 128 [0, 12, 8 + 2 ^ 54 + 2 ^ 64 * 9, 9 + 2 ^ 64] = true ∧
    refusesAll 512 [0, 7, 1 + 2 ^ 20, 4 + 2 ^ 192] = true := by decide

-- ill-formed terms

def illFormed (l : List (Eng × Instr)) : Bool := l.all (fun x => !x.2.wf x.1)

abbrev m0 : MemOp := ⟨.imm 1, .s 0, 0, .none⟩

/-- The guard (03 R44): GN with p0 on X; a guard elsewhere. -/
theorem test_wf_guard : illFormed [(.X, .nop ⟨true, 0, 0, 0, true⟩), (.S, .nop ⟨true, 0, 0, 1, false⟩),
    (.L, .nop ⟨true, 0, 0, 0, true⟩)] = true := by decide

/-- The engine of a word (03 R56). -/
theorem test_wf_engine : illFormed [(.S, .brp h0 true 1 ⟨0, 0⟩), (.X, .watch h0 m0), (.L, .stampb h0 (.s 1) 0),
    (.M, .tlbinv h0 (.s 1) (.s 2)), (.X, .bufinv h0 (.s 1)), (.X, .lds h0 3 false false (.s 1) m0), (.M, .sts h0 3 (.s 1) m0),
    (.X, .cld h0 3 false (.s 1) m0), (.X, .amo h0 .add 3 (.s 1) (.s 2) m0), (.X, .cas h0 3 (.s 1) (.s 2) m0),
    (.S, .vld h0 false (.v 1) m0), (.S, .vlds h0 2 false (.v 1) (.s 1) m0), (.S, .vldx h0 2 false (.v 1) (.v 2) m0),
    (.S, .vldb h0 2 false (.v 1) m0), (.L, .vst h0 (.v 1) m0), (.L, .vsts h0 2 (.v 1) (.s 1) m0)] = true := by decide

theorem test_wf_engine_more : illFormed [(.L, .vstx h0 2 (.v 1) (.v 2) m0), (.L, .vstn h0 (.v 1) (.v 2) m0),
    (.L, .amov h0 .add .i32 (.v 1) m0), (.X, .fence h0 .die), (.M, .lfence h0 .die 1), (.X, .boarm h0 (.s 1) m0),
    (.X, .boadd h0 (.s 1) m0), (.X, .bowait h0 (.s 1) (.s 2) m0), (.M, .lpatch h0 0 (.s 1) (.s 2) (.s 3)),
    (.X, .larm h0 (.s 1) (.s 2)), (.M, .rchk h0 (.s 1) (.s 2) (.s 3)), (.M, .rinv h0 (.s 1) (.s 2) (.s 3)),
    (.X, .acpy h0 (.s 1) (.s 2) (.s 3) (.s 4) ⟨0, 0⟩), (.M, .astat h0 (.s 1) (.s 2)), (.S, .vand h0 .n32 (.v 1) (.v 2) (.vec (.v 3))),
    (.S, .pand h0 .n32 1 2 3), (.L, .vperm h0 .n32 (.v 1) (.v 2) (.v 3)), (.X, .mcfg h0 (.s 1) 0), (.S, .mma h0 0 0 (.s 1) 0 0)] =
    true := by decide

/-- Ordering roles (03 R53): a load that releases, a store that acquires, SP with acquire, an object wait that releases. -/
theorem test_wf_order : illFormed [(.L, .lds h0 3 false false (.s 1) ⟨.imm 1, .s 0, 0, .rel .pkg⟩),
    (.S, .sts h0 3 (.s 1) ⟨.imm 1, .s 0, 0, .acq .pkg⟩), (.L, .lds h0 3 false true (.s 1) ⟨.imm 1, .s 0, 0, .acq .pkg⟩),
    (.L, .cld h0 3 false (.s 1) ⟨.imm 1, .s 0, 0, .acq .pkg⟩), (.S, .vst h0 (.v 1) ⟨.imm 1, .s 0, 0, .acq .pkg⟩),
    (.S, .boarm h0 (.s 1) ⟨.imm 1, .s 0, 0, .acq .pkg⟩), (.S, .bowait h0 (.s 1) (.s 2) ⟨.imm 1, .s 0, 0, .rel .pkg⟩),
    (.S, .watch h0 ⟨.imm 1, .s 0, 0, .acq .pkg⟩)] = true := by decide

/-- Codes and fields that exclude each other (03 R51, R54, R55, 04 R65, R79, 10 R181): CSRW of a read-only CSR, a bit field past bit
63, SX at 64 bits, floating AMO of bytes, AMO's displacement beyond seven bits, AMOV of E2M1 and with a displacement, an
empty LFENCE, LPATCH field 10, an MMA scale code between the registers and the ring. -/
theorem test_wf_fields : illFormed [(.S, .csrw h0 .cyc (.s 1)), (.S, .csrw h0 .waitr (.s 1)), (.S, .bext h0 (.s 1) (.s 2) 1 63),
    (.S, .bins h0 (.s 1) (.s 2) (.s 3) 63 1), (.L, .lds h0 3 true false (.s 1) m0), (.L, .cld h0 3 true (.s 1) m0),
    (.S, .amo h0 .fadd 0 (.s 1) (.s 2) m0), (.S, .amo h0 .add 3 (.s 1) (.s 2) ⟨.imm 1, .s 0, 64, .none⟩),
    (.S, .amov h0 .add .e2m1 (.v 1) m0), (.S, .amov h0 .fadd .i32 (.v 1) m0), (.S, .amov h0 .add .i32 (.v 1) ⟨.imm 1, .s 0, 4, .none⟩),
    (.S, .lfence h0 .die 0), (.S, .lpatch h0 10 (.s 1) (.s 2) (.s 3)), (.M, .mma h0 0 0 (.s 1) 800 0)] = true := by decide

/-- Types of vector words (07 R107 to R123, 08 R124 to R143). -/
theorem test_wf_types : illFormed [(.X, .vadd h0 .e4m3 (.mode .rne) false (.v 1) (.v 2) (.vec (.v 3))),
    (.X, .vadd h0 .i32 (.mode .rtz) false (.v 1) (.v 2) (.vec (.v 3))), (.X, .vmulh h0 .f32 (.v 1) (.v 2) (.vec (.v 3))),
    (.X, .vmin h0 .e8m0 (.v 1) (.v 2) (.vec (.v 3))), (.X, .vabs h0 .f32 true (.v 1) (.v 2)), (.X, .vneg h0 .e8m0 false (.v 1) (.v 2)),
    (.X, .vrcp h0 .i32 (.mode .rne) false (.v 1) (.v 2)), (.X, .vshl h0 .f32 (.v 1) (.v 2) (.vec (.v 3))),
    (.X, .vcmp h0 .uo .i32 1 (.v 2) (.vec (.v 3))), (.X, .vcmp h0 .lt .i32 0 (.v 2) (.vec (.v 3))), (.X, .vclassV h0 .i32 (.v 1) (.v 2)),
    (.X, .vclassP h0 .f32 0 (.v 2) (.s 1)), (.X, .vradd h0 .i8 (.mode .rtz) false (.v 1) (.v 2)), (.X, .vrmax h0 .e5m2 (.v 1) (.v 2)),
    (.X, .vscan h0 .i8 (.mode .rne) false (.v 1) (.v 2))] = true := by decide

theorem test_wf_shapes : illFormed [(.X, .vcvt h0 .bf16 .e2m1 (.mode .rne) false 4 (.v 1) (.v 2)),
    (.X, .vcvt h0 .f32 .f16 (.mode .rne) false 2 (.v 1) (.v 2)),
    (.X, .vcvt h0 .n64 .e2m1 (.mode .rne) false 0 (.v 1) (.v 2)),
    (.X, .vqmx h0 .e2m1 .f32 (.mode .rne) false 0 (.v 1) (.v 1) (.v 2)), (.X, .vqmx h0 .f16 .f32 (.mode .rne) false 0 (.v 1) (.v 3) (.v 2)),
    (.X, .vdqmx h0 .i32 .e2m1 (.mode .rne) false 0 (.v 1) (.v 2) (.v 3)), (.X, .vpack h0 .f32 .f32 (.mode .rne) false (.v 1) (.v 2) (.v 3)),
    (.X, .vunpk h0 .f16 .f32 (.mode .rne) false 0 (.v 1) (.v 2)), (.X, .vldexp h0 .i32 (.mode .rne) false (.v 1) (.v 2) (.vec (.v 3))),
    (.X, .vperm h0 .e2m1 (.v 1) (.v 2) (.v 3)), (.X, .vbcst h0 .f32 256 (.v 1) (.v 2)), (.X, .vins h0 .n64 128 (.v 1) (.v 2) (.s 1)),
    (.X, .vexts h0 .n8 1024 (.s 1) (.v 2)), (.X, .vtrn h0 .n8 753 0), (.X, .vtrn h0 .n8 0 753), (.X, .pand h0 .n32 0 2 3),
    (.X, .pnot h0 .n32 0 2), (.X, .pmov h0 .n32 0 2 (.s 1))] = true := by decide

/-- Fields a step must leave 0 (21 R357, R359): fields its opcode does not use, a step without a peer mode, slots past 15 and 63,
and IX beside SA or LEN. -/
theorem test_wf_steps : illFormed [(.L, .send ⟨1, 5, 0, 0, 3, 2, true, false, false, false, false, 1, 64⟩),
    (.L, .send ⟨0, 5, 0, 0, 3, 2, true, false, false, false, false, 0, 64⟩),
    (.L, .send ⟨0, 5, 0, 0, 3, 2, true, false, true, true, false, 1, 0⟩),
    (.L, .send ⟨0, 5, 0, 0, 3, 2, true, false, false, true, false, 1, 64⟩),
    (.L, .recv ⟨0, 5, 0, 0, 1, 0, true, false, false, false, false, 1, 7⟩),
    (.L, .pushred ⟨64, 0, 9, 8, 0, 1, false, false, true, false, false, 0, 256⟩),
    (.L, .pull ⟨64, 0, 9, 8, 1, 0, true, true, false, false, false, 0, 256⟩),
    (.L, .collCopy ⟨0, 1, 0, 0, 2, 1, true, true, true, false, false, 1, 64⟩),
    (.L, .wait ⟨16, 0, 0, 0, 0, 0, false, false, false, false, false, 0, 2⟩),
    (.L, .collSignal ⟨16, 1, 0, 0, 0, 0, false, false, false, false, true, 3, 0⟩),
    (.L, .collLoop ⟨1, 0, 0, 0, 0, 0, false, false, false, false, false, 0, 9⟩),
    (.L, .endl ⟨0, 0, 0, 0, 0, 0, false, false, false, false, false, 0, 1⟩),
    (.L, .collEnd ⟨0, 0, 0, 0, 0, 0, true, false, false, false, false, 0, 0⟩)] = true := by decide

-- one step

def okNext (o : Host.Outcome State Fault Refusal) (p : State → Bool) : Bool :=
  match o with
  | .next t => p t
  | _ => false

/-- One step of word `w` as a section of its own, with these registers on its engine. -/
def runs (e : Eng) (regs : List (Nat × Nat)) (w : Nat) (p : State → Bool) : Bool :=
  okNext (step ((State.reset.modEng 0 e (fun g =>
    { g with regs := regs.map (fun x => (x.1, .clean (BitVec.ofNat 64 x.2))) })).withFetchWord 96 w)) p

/-- The value of sN on engine `e` of core 0, and its FFLAGS. -/
def regIs (e : Eng) (n v : Nat) (flags : FlagSet) (s : State) : Bool :=
  (s.eng 0 e).reg n == .clean (BitVec.ofNat 64 v) && (s.eng 0 e).csr.fflags == flags
def trapIs (e : Eng) (cause v : Nat) (s : State) : Bool :=
  (s.eng 0 e).csr.trapc.toNat == cause && (s.eng 0 e).csr.trapv == BitVec.ofNat 64 v

/-- A scalar word of opcode `op` with fields MOD, D, A, B, C and IMM (03 R42). -/
def word (op mod d a b c imm : Nat) : Nat :=
  2 ^ 95 + op * 2 ^ 76 + mod * 2 ^ 70 + d * 2 ^ 60 + a * 2 ^ 50 + b * 2 ^ 40 + c * 2 ^ 30 + imm

/-- 04 R60: ADD wraps; with SAT it clamps and sets SAT and NX. -/
theorem test_add_wraps : runs .L [(1, 2 ^ 63 - 1), (2, 1)] (word 0x20 0 3 1 2 0 0) (regIs .L 3 (2 ^ 63) 0) = true := by decide
theorem test_add_saturates : runs .L [(1, 2 ^ 63 - 1), (2, 1)] (word 0x20 2 3 1 2 0 0) (regIs .L 3 (2 ^ 63 - 1) 0x21) = true := by decide
/-- SUB of N64 clamps at 0. -/
theorem test_sub_saturates : runs .L [(1, 1), (2, 2)] (word 0x22 3 3 1 2 0 0) (regIs .L 3 0 0x21) = true := by decide
/-- ADDI s2, s0, 10, the worked word of 03; a source that is the destination. -/
theorem test_addi : runs .L [] 0x80021000200000000000000A (regIs .L 2 10 0) = true ∧
    runs .L [(2, 5)] (word 0x21 0 2 2 0 0 (2 ^ 30 - 7)) (regIs .L 2 (2 ^ 64 - 2) 0) = true := by decide
/-- 04 R61: the signed and unsigned high products of 2^63 and 2^63. -/
theorem test_mulh : runs .L [(1, 2 ^ 63)] (word 0x24 0 3 1 1 0 0) (regIs .L 3 (2 ^ 62) 0) = true ∧
    runs .L [(1, 2 ^ 64 - 1)] (word 0x24 0 3 1 1 0 0) (regIs .L 3 0 0) = true ∧
    runs .L [(1, 2 ^ 64 - 1)] (word 0x24 1 3 1 1 0 0) (regIs .L 3 (2 ^ 64 - 2) 0) = true := by decide
/-- Division truncates toward zero; by zero it gives all ones and DZ; the least number by -1 wraps. -/
theorem test_div : runs .L [(1, 2 ^ 64 - 7), (2, 2)] (word 0x25 0 3 1 2 0 0) (regIs .L 3 (2 ^ 64 - 3) 0) = true ∧
    runs .L [(1, 7)] (word 0x25 0 3 1 0 0 0) (regIs .L 3 (2 ^ 64 - 1) 0x08) = true ∧
    runs .L [(1, 2 ^ 63), (2, 2 ^ 64 - 1)] (word 0x25 0 3 1 2 0 0) (regIs .L 3 (2 ^ 63) 0) = true := by decide
theorem test_rem : runs .L [(1, 2 ^ 64 - 7), (2, 2)] (word 0x26 0 3 1 2 0 0) (regIs .L 3 (2 ^ 64 - 1) 0) = true ∧
    runs .L [(1, 7)] (word 0x26 0 3 1 0 0 0) (regIs .L 3 7 0x08) = true := by decide
/-- 04 R62: a count of 64 shifts by 0; SRA keeps the sign; CLZ of 0 is 64. -/
theorem test_shift_counts : runs .L [(1, 5), (2, 64)] (word 0x30 0 3 1 2 0 0) (regIs .L 3 5 0) = true ∧
    runs .L [(1, 2 ^ 63), (2, 63)] (word 0x34 0 3 1 2 0 0) (regIs .L 3 (2 ^ 64 - 1) 0) = true ∧
    runs .L [(1, 2 ^ 63), (2, 63)] (word 0x32 0 3 1 2 0 0) (regIs .L 3 1 0) = true ∧
    runs .L [] (word 0x2F 0 3 1 0 0 0) (regIs .L 3 64 0) = true := by decide
/-- 04 R63: -1 against 1, signed and unsigned. -/
theorem test_compare : runs .L [(1, 2 ^ 64 - 1), (2, 1)] (word 0x38 2 3 1 2 0 0) (regIs .L 3 1 0) = true ∧
    runs .L [(1, 2 ^ 64 - 1), (2, 1)] (word 0x38 4 3 1 2 0 0) (regIs .L 3 0 0) = true ∧
    runs .L [(1, 2 ^ 64 - 1), (2, 1)] (word 0x36 0 3 1 2 0 0) (regIs .L 3 (2 ^ 64 - 1) 0) = true ∧
    runs .L [(1, 2 ^ 64 - 1), (2, 1)] (word 0x36 1 3 1 2 0 0) (regIs .L 3 1 0) = true := by decide
/-- 04 R65: BEXT of bits 8 to 15, BINS there. -/
theorem test_bit_fields : runs .L [(1, 0x123456)] (word 0x3D 0 3 1 0 0 (8 + 64 * 7)) (regIs .L 3 0x34 0) = true ∧
    runs .L [(1, 0x123456), (2, 0xFFAB)] (word 0x3E 0 3 1 2 0 (8 + 64 * 7)) (regIs .L 3 0x12AB56 0) = true := by decide
/-- 01 R9: a write of s0 is discarded and pushed. -/
theorem test_s0_reads_zero : runs .L [] (word 0x21 0 0 0 0 0 9)
    (fun t => (t.eng 0 .L).reg 0 == .zero && (t.eng 0 .L).ring == [.sc (.clean 9)]) = true := by decide
/-- 06 R102: a poisoned source poisons the result with its cause. -/
theorem test_poison_spreads : okNext (step ((State.reset.modEng 0 .L (fun g =>
    { g with regs := [(1, { val := 7, poison := true, cause := 3 })] })).withFetchWord 96 (word 0x21 0 2 1 0 0 1)))
    (fun t => (t.eng 0 .L).reg 2 == { val := 0, poison := true, cause := 3 }) = true := by decide
/-- 04 R67: BR to word 1 of its own section; a target past the stream traps with section and word. -/
theorem test_br : runs .L [] (word 0x01 0 0 0 0 0 1) (fun t => (t.eng 0 .L).pc == 12) = true ∧
    runs .L [] (word 0x01 0 0 0 0 0 (2 ^ 16 * 3 + 5)) (trapIs .L 0x05 (2 ^ 48 * 3 + 2 ^ 32 * 5)) = true := by decide
/-- 04 R68: CALL pushes the PC after it; RET of an empty stack traps with kind 2 (18 R310). -/
theorem test_call_ret : runs .L [] (word 0x04 0 0 0 0 0 1) (fun t => (t.eng 0 .L).stack == [12] && (t.eng 0 .L).pc == 12) = true ∧
    runs .L [] (word 0x05 0 0 0 0 0 0) (trapIs .L 0x05 (2 ^ 48 * 0xFFFF + 2 * 16)) = true := by decide
/-- 04 R75: TRAP is taken after its group: TRAPPC is the next word. -/
theorem test_trap : runs .L [] 0x800100000000000000000051
    (fun t => trapIs .L 0x0A (0x51 * 2 ^ 16) t && (t.eng 0 .L).csr.trappc == 12) = true ∧
    runs .L [] 0x800110000000000000000051 (fun t => trapIs .L 0x0B (0x51 * 2 ^ 16) t && (t.eng 0 .L).csr.trappc == 0) = true := by
  decide
/-- 18 R309: a reserved opcode is an illegal instruction, a reserved field an illegal encoding with its FIELD, ERET outside a
handler a privileged word. -/
theorem test_illegal : runs .L [] (word 0x20 1 1 1 1 0 0) (trapIs .L 0x02 (2 * 16)) = true ∧
    runs .L [] (word 0x1A 0 0 0 0 0 0) (trapIs .L 0x04 0) = true := by decide
/-- 01 R13, R14, 04 R66: STS.n32 writes four bytes, the low one first. -/
theorem test_store_bytes : runs .L [(5, 0x1122334455667788)] (word 0x41 2 0 5 0 0 8)
    (fun t => (List.range 5).map (fun i => t.mem.read (spadKey 0 (0x20 + i))) == [0x88, 0x77, 0x66, 0x55, 0]) = true := by decide
/-- One byte past the scratchpad is a bounds fault of check 5, offset 2 at width 4 an alignment fault of check 6 (18 R310). -/
theorem test_load_faults : runs .L [(4, 0x3FFFFD)] (word 0x40 2 3 0 0 4 0) (trapIs .L 0x0C (0x3FFFFD * 2 ^ 16 + 5 * 2 ^ 12)) = true ∧
    runs .L [(4, 2)] (word 0x40 2 3 0 0 4 0) (trapIs .L 0x0F (2 * 2 ^ 16 + 6 * 2 ^ 12)) = true := by decide

/-- A one-member or longer group in issue. -/
def grpOf (n : Nat) : Grp where
  first := 8
  size := n
  idx := 0
  csr := Csrs.reset
  kcsr := (0, 0, 1, 0)
  cyc := 0
  gsc := 0
  band := 0
  pkg := 0
  flags := 0
  owes := none
  flow := .next
  again := false
  snap := none
  no := 0

def tInfo : TaskInfo where
  ready := 0
  rise := 0
  resident := true
  bind := none
  q := []
  toProbe := false
  unit := none
  notCore := none
  cmds := []
  fault := none
  watch := none
  request := none
  late := false
  home := none
  boRef := 0
  boNoted := false
  pend := none
  saved := none
  dying := false
  cls := none
  early := []
  word0 := none
  begun := false

/-- Core 0 runs a task in record slot 0; engine `e` stands before a group in section 2 of four words. -/
def onCore (e : Eng) : State :=
  let s := State.reset.modCore 0 (fun k => { k with task := some RunTask.bare, btlast := 1 })
  let s := s.modEng 0 e (fun g => { g with phase := .running, pc := 8, sect := { num := 2, hdr := 0, len := 4, base := 8 } })
  { s with cur := (0, e), sched := { s.sched with tasks := [(0, tInfo)] } }
/-- The same with a group of `n` members in issue. -/
def inGrp (e : Eng) (n : Nat) : State := (onCore e).modEng 0 e (fun g => { g with grp := some (grpOf n) })

/-- X with vector registers v2 and v3, and p1 true for the first 32-bit lane alone. -/
def onX (x y : Nat) : State :=
  (onCore .X).modCore 0 (fun k => { k with
    v := [(2, .clean (BitVec.ofNat 8192 x)), (3, .clean (BitVec.ofNat 8192 y))]
    p := [(1, 0xF)] })
/-- Guard p1. -/
abbrev h1 : Hdr := ⟨true, 0, 0, 1, false⟩
/-- The low 64 bits of v1, and FFLAGS. -/
def vecIs (v : Nat) (flags : FlagSet) (s : State) : Bool :=
  ((s.core 0).vreg 1).data.extractLsb' 0 64 == BitVec.ofNat 64 v && (s.eng 0 .X).csr.fflags == flags
abbrev v3 : VSSrc := .vec (.v 3)

/-- 07 R110: lane 0 wraps, or clamps with SAT and NX; the lanes the guard leaves out keep their bits. -/
theorem test_vadd_int :
    okNext (exec (.vadd h1 .i32 (.mode .rne) false (.v 1) (.v 2) v3) (onX 0x500000006FFFFFFF 0x400000006FFFFFFF))
      (vecIs 0xDFFFFFFE 0) = true ∧
    okNext (exec (.vadd h1 .i32 (.mode .rne) true (.v 1) (.v 2) v3) (onX 0x500000006FFFFFFF 0x400000006FFFFFFF))
      (vecIs 0x7FFFFFFF 0x21) = true := by decide +kernel
/-- 02 R31: 1 + 2^-24 in FP32 is 1 to nearest even and the next number upward, NX both times. -/
theorem test_vadd_rounds :
    okNext (exec (.vadd h1 .f32 (.mode .rne) false (.v 1) (.v 2) v3) (onX 0x3F800000 0x33800000)) (vecIs 0x3F800000 0x01) = true ∧
    okNext (exec (.vadd h1 .f32 (.mode .rup) false (.v 1) (.v 2) v3) (onX 0x3F800000 0x33800000)) (vecIs 0x3F800001 0x01) = true := by
  decide +kernel
/-- -2 · 3 and 1.5 · 1.5 in FP32. -/
theorem test_vmul : okNext (exec (.vmul h1 .i32 (.mode .rne) false (.v 1) (.v 2) v3) (onX 0xFFFFFFFE 3)) (vecIs 0xFFFFFFFA 0) = true ∧
    okNext (exec (.vmul h1 .f32 (.mode .rne) false (.v 1) (.v 2) v3) (onX 0x3FC00000 0x3FC00000)) (vecIs 0x40100000 0) = true := by
  decide +kernel
/-- 1 / 2 and the root of 4 (07 R115). -/
theorem test_vrcp_vsqrt : okNext (exec (.vrcp h1 .f32 (.mode .rne) false (.v 1) (.v 2)) (onX 0x40000000 0)) (vecIs 0x3F000000 0) = true ∧
    okNext (exec (.vsqrt h1 .f32 (.mode .rne) false (.v 1) (.v 2)) (onX 0x40800000 0)) (vecIs 0x40000000 0) = true := by decide +kernel
/-- 02 R33, R35: 2.5 to I32 is 2 with NX; infinity is the most negative number with NV. -/
theorem test_vcvt_int : okNext (exec (.vcvt h1 .i32 .f32 (.mode .rne) false 0 (.v 1) (.v 2)) (onX 0x40200000 0)) (vecIs 2 0x01) = true ∧
    okNext (exec (.vcvt h1 .i32 .f32 (.mode .rne) false 0 (.v 1) (.v 2)) (onX 0x7F800000 0)) (vecIs 0x80000000 0x10) = true := by decide +kernel
/-- 07 R118: -1 < 1 as I32, not as N32; p2 of the first lane. -/
theorem test_vcmp : okNext (exec (.vcmp h1 .lt .i32 2 (.v 2) v3) (onX 0xFFFFFFFF 1)) (fun t => (t.core 0).pred 2 == 0xF) = true ∧
    okNext (exec (.vcmp h1 .lt .n32 2 (.v 2) v3) (onX 0xFFFFFFFF 1)) (fun t => (t.core 0).pred 2 == 0) = true := by decide +kernel
/-- 08 R142: one true lane of 32 bits. -/
theorem test_pcnt : okNext (exec (.pcnt h0 .n32 (.s 4) 1) (onX 0 0)) (regIs .X 4 1 0) = true ∧
    okNext (exec (.pfirst h0 .n8 (.s 4) 1) (onX 0 0)) (regIs .X 4 0 0) = true := by decide +kernel
/-- 08 R134: VEXTS of lane 1 of I32 is extended. -/
theorem test_vexts : okNext (exec (.vexts h0 .i32 1 (.s 4) (.v 2)) (onX 0xFFFFFFF000000007 0)) (regIs .X 4 (2 ^ 64 - 16) 0) = true := by
  decide +kernel

/-- 04 R78, R80: CSRW of FENAB keeps six bits, and the register is read in a later group. -/
theorem test_csr : okNext (exec (.csrw h0 .fenab (.ones)) (onCore .S)) (fun t => (t.eng 0 .S).csr.fenab == 0x3F) = true ∧
    okNext (exec (.csrr h0 (.s 4) .core) (onCore .S)) (regIs .S 4 0 0) = true := by decide
/-- 04 R69: LOOP of 3 to word 2 is active from the next word on; a count of 0 passes the body. -/
theorem test_loop : okNext (exec (.loop h0 1 (.s 1) 2) ((onCore .S).modEng 0 .S (fun g => { g with regs := [(1, .clean 3)]
                                                                                                   istore := [(37 + 6, 0xFF)] })))
      (fun t => (t.eng 0 .S).loops.map (fun x => (x.1, x.2.total, x.2.lc, x.2.start, x.2.stop)) == [(1, 3, 0, 1, 2)]) = true := by
  decide
/-- 12 R233: AMO adds at the scratchpad and gives the old value; CAS of an equal value writes (R234). -/
theorem test_amo : okNext (exec (.amo h0 .add 2 (.s 4) (.ones) ⟨.imm 0, .s 0, 4, .none⟩) { onCore .S with mem := [(spadKey 0 16, 5)] })
      (fun t => regIs .S 4 5 0 t && (t.reach [lineOf (spadKey 0 16)]).mem.read (spadKey 0 16) == 4) = true := by decide
theorem test_cas : okNext (exec (.cas h0 2 (.s 4) (.ones) ⟨.imm 0, .s 0, 4, .none⟩)
      (((onCore .S).modEng 0 .S (fun g => { g with regs := [(4, .clean 5)] })).setMem [(spadKey 0 16, 5)]))
      (fun t => regIs .S 4 5 0 t && t.mem.read (spadKey 0 19) == 0xFF) = true := by decide
/-- 10 R168: BARR without a static group traps with kind 7. -/
theorem test_barr : okNext (exec (.barr h0 .quad) (onCore .S)) (trapIs .S 0x05 (2 ^ 48 * 0xFFFF + 7 * 16)) = true := by decide
/-- 10 R181: LPATCH of an invalid record gives status 1; 16 R295: an empty command slot reads 0. -/
theorem test_lpatch_astat : okNext (exec (.lpatch h0 0 (.s 4) (.s 0) (.s 0)) (onCore .S)) (regIs .S 4 1 0) = true ∧
    okNext (exec (.astat h0 (.s 4) (.s 0)) (onCore .S)) (regIs .S 4 0 0) = true := by decide
/-- 09 R156, R149: MCFG takes effect as it issues and is in flight for a cycle. -/
theorem test_mcfg : okNext (exec (.mcfg h0 (.s 0) 0) ((onCore .M).modCore 0 (fun k => { k with mcfg := 0x24 })))
    (fun t => (t.core 0).mcfg == 0 && (t.core 0).flight.map Flight.done == [1]) = true := by decide

/-- 20 R338, R335: a sensor above 110 K and up to 150 K brings band B2 at the sample, and EXCURSION. -/
theorem test_retreat : okNext (exec .tempSample { State.reset with
      cryo := { Cryo.reset with band := 0, st := 4, live := (List.range 12).map (fun i => (i, ⟨true, if i = 3 then 1776 else 1232⟩)) }
      wall := 1000 }) (fun t => t.cryo.band == 2 && t.cryo.st == 5 && t.cryo.slip) = true := by decide
/-- 20 R344: COOL in COLD_RUN is a bad command. -/
theorem test_badcmd : okNext (exec .cryoctlCool { State.reset with cryo := { Cryo.reset with st := 4 } })
    (fun t => t.judgeAsked.cryo.badcmd && t.judgeAsked.cryo.st == 4) = true := by decide
/-- 22 R372: a doorbell outside the ring halts the queue with ERRC 3. -/
theorem test_doorbell : okNext (exec (.doorbell .host 0 (2 ^ 31)) State.reset) (fun t => (t.wq 0).st == 2 && (t.wq 0).errc == 3) = true ∧
    okNext (exec (.doorbell .host 0 5) (State.reset.setWq 0 { State.reset.wq 0 with log2n := 5 })) (fun t => (t.wq 0).tail == 5) = true := by
  decide
/-- 21 R362: LOOP and WAIT of a collective program, as the next step. -/
theorem test_coll_steps : okNext (step (State.reset.withFetchWord 128 (8 + 2 ^ 64 * 9)))
      (fun t => ((t.prog? 0).map (fun p => (p.step, p.loops))) == some (1, [(1, 0, 9)])) = true ∧
    okNext (step (State.reset.withFetchWord 128 (6 + 2 ^ 64))) (fun t => ((t.prog? 0).map Prog.step) == some 0) = true := by decide
/-- 10 R194: ABORT of a paused sequencer makes it idle. -/
theorem test_sqctl : okNext (exec (.sqctlAbort 2) (State.reset.setSeq 2 { Seq.reset with st := 4 })) (fun t => (t.seq 2).st == 0) = true := by
  decide
/-- 11 R219: MAPCTL starts a migration from unit 0. -/
theorem test_mapctl : okNext (exec (.mapctlStart 3) State.reset) (fun t => t.host.mapBusy && t.host.newv == 3) = true := by decide
-- states that meet the hypotheses of the obligations

def isNext (o : Host.Outcome State Fault Refusal) : Bool := okNext o (fun _ => true)

theorem next_of {o : Host.Outcome State Fault Refusal} (h : isNext o = true) : ∃ t, o = .next t := by
  cases o with
  | next t => exact ⟨t, rfl⟩
  | fault r => exact nomatch h
  | refused r => exact nomatch h

/-- The package as an access finds it once its role and its own core's earlier accesses have been seen to. -/
def turnOf (s : State) (o : Order) (store : Bool) (ps : List Place) : State :=
  let q := (s.beforeRel o ps).beforeAcq o ps
  if q.writesFirst q.cur.1 store ps (q.core q.cur.1) then q.drain q.cur.1 else q

/-- The places of an access and the package when it is performed, if `State.Accesses` holds. -/
def accOf (s : State) (o : Order) (buf : Nat) (f : Form) (offs : List Int) (home : Bool) : Option (List (List Place) × State) :=
  let a := s.access s.whoCur buf f offs
  match a.2 with
  | .error _ => none
  | .ok ps =>
    let store := f.need == .write
    let r := a.1.beforeRel o ps.flatten
    let q := r.beforeAcq o ps.flatten
    let t := turnOf a.1 o store ps.flatten
    if s.tablesHeld s.whoCur buf f offs = false ∧ r.relDone o ps.flatten = true ∧
        (home = true ∨ r.needsFence a.1.cur.1 (pinsLine o) ps.flatten = false) ∧
        t.writesFirst q.cur.1 store ps.flatten (t.core q.cur.1) = false ∧ t.mustWait q.cur.1 home ps.flatten = none ∧ t.stor.ferryQ = []
    then some (ps, t) else none

theorem accesses_of {s : State} {o : Order} {buf : Nat} {f : Form} {offs : List Int} {home : Bool}
    (p : List (List Place) → State → Bool)
    (h : ((accOf s o buf f offs home).map (fun x => p x.1 x.2)) = some true) :
    ∃ ps t, s.Accesses o buf f offs home ps t ∧ p ps t = true := by
  unfold accOf at h
  simp only at h
  split at h
  · simp at h
  · rename_i ps hps
    split at h
    · rename_i hc
      refine ⟨ps, _, ⟨hc.1, hps, hc.2.1, hc.2.2.1, rfl, hc.2.2.2⟩, by simpa [turnOf] using h⟩
    · simp at h

/-- A word decodes; its instruction is well-formed and has this encoding. -/
theorem meets_WordRoundTrip :
    (Instr.addi h0 .wrap (.s 2) (.s 0) 10).wf .S = true ∧
    encode (.addi h0 .wrap (.s 2) (.s 0) 10) = some 0x80021000200000000000000A ∧
    (Instr.mma h0 3 767 (.s 31) 1017 0xFFFFFF).wf .M = true ∧ (encode (.mma h0 3 767 (.s 31) 1017 0xFFFFFF)).isSome = true := by
  decide
theorem meets_WordUnique :
    (decodeWord .S 0x80021000200000000000000A).toOption = some (.addi h0 .wrap (.s 2) (.s 0) 10) ∧
    (decodeWord .M 0x800E400000A01EAF02123456).toOption = some (.mma h0 2 40 (.s 30) 700 0x123456) := by decide
theorem meets_StepEntryRoundTrip :
    (Instr.send ⟨0, 5, 0, 0, 3, 2, true, false, false, false, false, 1, 4096⟩).wf .L = true ∧
    encodeStep (.send ⟨0, 5, 0, 0, 3, 2, true, false, false, false, false, 1, 4096⟩) = some (0x0000000500324101, 0x1000) ∧
    decodeStep 0x0000000500324101 0x1000 = some (.send ⟨0, 5, 0, 0, 3, 2, true, false, false, false, false, 1, 4096⟩) ∧
    encodeEntry (.waitbo 0x400021 true) = some [4, 0x400021, 1, 0, 0, 0, 0, 0] ∧
    (decodeEntry 4 0x400021 1 0 0 0 0 0).toOption = some (.waitbo 0x400021 true) := by decide

/-- The three ways a step runs a word: a member in issue, a word alone, the first member of two. -/
theorem meets_StepRunsDecoded_member :
    let s := ((onCore .S).modEng 0 .S (fun g => g.atWords [0x80021000200000000000000A])).modEng 0 .S (fun g =>
      { g with grp := some { grpOf 1 with first := 0 } })
    s.agenda = [] ∧ s.cryo.st ≠ 7 ∧ s.curCore.task = some RunTask.bare ∧ s.curEng.stopped ≠ some .sleep ∧ s.curEng.slept = none ∧
    s.curEng.phaseNow = false ∧
    s.curEng.grp = some { grpOf 1 with first := 0 } ∧ s.curEng.owed = none ∧ s.curEng.page = false ∧
    RunTask.bare.delivering .S = false ∧ s.curEng.inside = none ∧
    (decodeWord .S (s.curEng.wordAt s.supStore (({ grpOf 1 with first := 0 } : Grp).pcOf 0))).toOption =
      some (.addi h0 .wrap (.s 2) (.s 0) 10) := by decide
theorem meets_StepRunsDecoded_alone :
    let s := State.reset.withFetchWord 96 0x80021000200000000000000A
    s.agenda = [] ∧ s.cryo.st ≠ 7 ∧ s.curCore.task = some RunTask.bare ∧ s.curEng.stopped ≠ some .sleep ∧ s.curEng.slept = none ∧
    s.curEng.phaseNow = false ∧
    s.curEng.grp = none ∧ s.curEng.idleNow RunTask.bare s.cur.2 = false ∧ s.curEng.phase = .running ∧ s.curEng.debt = 0 ∧
    s.slotTaken s.cur.2 s.curEng = false ∧     s.curEng.sect.wordOf s.curEng.pc < s.curEng.sect.len ∧
    s.curEng.wordAt s.supStore (s.curEng.sect.pcOf (s.curEng.sect.wordOf s.curEng.pc)) = 0x80021000200000000000000A ∧
    (0x80021000200000000000000A : IWord).getLsbD 95 = true ∧
    (decodeWord s.cur.2 0x80021000200000000000000A).toOption = some (.addi h0 .wrap (.s 2) (.s 0) 10) ∧
    placeBad (Raw.ofWord 0x80021000200000000000000A) 0 s.curEng.sect.len = none ∧ s.curEng.sup = none ∧
    privilegeField (.addi h0 .wrap (.s 2) (.s 0) 10) = none ∧ supForbidden (.addi h0 .wrap (.s 2) (.s 0) 10) = false := by decide
theorem meets_StepRunsDecoded_group :
    let s := (onCore .S).modEng 0 .S (fun g => g.atWords [0x00021000200000000000000A, 0x80021000300000000000000A])
    s.agenda = [] ∧ s.cryo.st ≠ 7 ∧ s.curCore.task = some RunTask.bare ∧ s.curEng.stopped ≠ some .sleep ∧ s.curEng.slept = none ∧
    s.curEng.phaseNow = false ∧ s.curEng.grp = none ∧ s.curEng.idleNow RunTask.bare .S = false ∧
    s.curEng.phase = .running ∧ s.curEng.debt = 0 ∧ s.slotTaken s.cur.2 s.curEng = false ∧ s.curEng.sect.wordOf s.curEng.pc < s.curEng.sect.len ∧
    (checkGroup .S s.curEng.sup.isSome s.curEng.sect.len 0 ((s.curEng.restart.map Grp.idx).getD 0)
      (s.curEng.members s.supStore 5 0)).toOption =
        some [.addi ⟨false, 0, 0, 0, false⟩ .wrap (.s 2) (.s 0) 10, .addi h0 .wrap (.s 3) (.s 0) 10] ∧
    (s.openGroup [.addi ⟨false, 0, 0, 0, false⟩ .wrap (.s 2) (.s 0) 10, .addi h0 .wrap (.s 3) (.s 0) 10]).2 = true := by decide

/-- The head of the agenda, cores 255 and 256, and a word that may issue alone. -/
theorem meets_AgendaAndLoneWords :
    ({ State.reset with agenda := [.ev .dramRefresh] } : State).agenda = [.ev .dramRefresh] ∧
    ({ State.reset with agenda := [.run 255 .X] } : State).agenda = [.run 255 .X] ∧ ¬(255 < 255) ∧ 255 < 256 ∧
    alwaysOn .dramRefresh = true ∧ alwaysOn .remapUnitMove = false ∧ State.reset.cryo.st ≠ 7 ∧
    ({ State.reset with cryo := { State.reset.cryo with st := 7 } } : State).cryo.st = 7 ∧
    (let s := onCore .S
     (hdrOf (.nop h0)).isSome = true ∧ s.curEng.grp = none ∧ s.aloneBad (.nop h0) = none ∧
     (match s.verdict 0 .S [.nop h0] ((s.curEng.restart.map Grp.idx).getD 0) s.curEng.restart.isSome with
       | .go => true
       | _ => false) = true) := by decide

/-- A first member of two; the last word of a section and one before it; a level in its first and in its last iteration. -/
def lvl (lc : Nat) : LoopLvl where
  staged := false
  sect := 2
  order := 1
  total := 2
  lc := lc
  n := 2
  m := 1
  base := 0
  cut := 2
  start := 0
  stop := 0

theorem issuing (s : State) (h : Hdr) (g : Grp) (a : s.curEng.grp = some g) (b : s.curCore.room s.cur.2 h.post = true)
    (c : g.owes = none ∧ g.flow ≠ .eret ∧ s.curCore.landing.isEmpty = true ∧ s.behind s.cur.1 s.cur.2 = false ∧
      s.unretired s.cur.1 s.cur.2 = false) : s.Issuing h g :=
  ⟨a, b, fun x hx => by simp [List.isEmpty_iff.mp c.2.2.1] at hx, c.2.2.2.1, .inl c.2.2.2.2, c.1, c.2.1⟩

theorem meets_RetirementAdvances :
    ((inGrp .S 2).Issuing h0 (grpOf 2) ∧ (grpOf 2).idx + 1 < (grpOf 2).size) ∧
    ((inGrp .S 1).Issuing h0 (grpOf 1) ∧ (inGrp .S 1).curEng.sup = none ∧ (inGrp .S 1).curEng.loops = [] ∧
      (inGrp .S 1).curCore.flight = [] ∧ (inGrp .S 1).curEng.sect.wordOf ((grpOf 1).pcOf 1) - 1 + 1 < (inGrp .S 1).curEng.sect.len) ∧
    (let s := (inGrp .S 1).modEng 0 .S (fun x => { x with sect := { x.sect with len := 1 } })
     s.Issuing h0 (grpOf 1) ∧ s.curEng.sect.len ≤ s.curEng.sect.wordOf ((grpOf 1).pcOf 1) - 1 + 1) ∧
    (∀ lc, lc = 0 ∨ lc = 1 → ∀ s, s = (inGrp .S 1).modEng 0 .S (fun x => { x with loops := [(3, lvl lc)] }) →
     s.Issuing h0 (grpOf 1) ∧ s.curEng.sup = none ∧ s.reqOpen s.cur.1 = false ∧ s.curEng.loops = [(3, lvl lc)] ∧
     (lvl lc).stop = s.curEng.sect.wordOf ((grpOf 1).pcOf 1) - 1 ∧ (lvl lc).sect = s.curEng.sect.num ∧
     (lvl lc).start < s.curEng.sect.len ∧ 0 + 1 < s.curEng.sect.len ∧ ((lc = 0 → (lvl lc).lc + 1 < (lvl lc).total) ∧
       (lc = 1 → (lvl lc).total ≤ (lvl lc).lc + 1))) := by
  refine ⟨⟨issuing _ _ _ (by decide) (by decide) (by decide), by decide⟩,
    ⟨issuing _ _ _ (by decide) (by decide) (by decide), by decide, by decide, by decide, by decide⟩,
    ⟨issuing _ _ _ (by decide) (by decide) (by decide), by decide⟩, ?_⟩
  rintro lc (rfl | rfl) s rfl
  · exact ⟨issuing _ _ _ (by decide) (by decide) (by decide), by decide⟩
  · exact ⟨issuing _ _ _ (by decide) (by decide) (by decide), by decide⟩

theorem meets_CanonKept : (State.reset.withFetchWord 96 0x80021000200000000000000A).canon ∧
    ∃ t, step (State.reset.withFetchWord 96 0x80021000200000000000000A) = .next t :=
  ⟨⟨by decide, by decide⟩, next_of (by decide)⟩

-- scalar and control words

/-- S with s1 = 5, s2 = -1, s4 poisoned, a group in issue. -/
def onS (n : Nat) : State := (inGrp .S n).modEng 0 .S (fun g =>
  { g with regs := [(1, .clean 5), (2, .clean 0xFFFFFFFFFFFFFFFF), (4, { val := 0, poison := true, cause := 3 })], ring := [.sc .zero] })

theorem meets_ArithmeticWords :
    (onS 1).curEng.grp = some (grpOf 1) ∧ (onS 1).guardTrue h0 = true ∧ (onS 1).cleanSrc [.s 1, .s 2, .s 0] ∧
    (onS 1).val (.s 2) ≠ 0 ∧ (onS 1).val (.s 1) ≠ 0 ∧ (onS 1).val (.s 0) = 0 := by
  refine ⟨by decide, by decide, ?_, by decide⟩
  unfold State.cleanSrc
  decide
theorem meets_BitwiseFieldWords :
    (onS 1).curEng.grp = some (grpOf 1) ∧ (onS 1).guardTrue h0 = true ∧ (onS 1).cleanSrc [.s 1, .s 2] ∧
    (61 < 64 ∧ 2 ^ (63 - 61) ≤ ((onS 1).val (.s 1)).toNat ∧ ((onS 1).val (.s 1)).toNat < 2 ^ (64 - 61)) ∧
    (0 < 64 ∧ 2 ^ (63 - 0) ≤ ((onS 1).val (.s 2)).toNat ∧ ((onS 1).val (.s 2)).toNat < 2 ^ (64 - 0)) ∧
    (63 : BitVec 6).toNat + (0 : BitVec 6).toNat + 1 ≤ 64 ∧ (0 : BitVec 6).toNat + (63 : BitVec 6).toNat + 1 ≤ 64 := by
  refine ⟨by decide, by decide, ?_, by decide⟩
  unfold State.cleanSrc
  decide
theorem meets_CompareSelectWords :
    (onS 1).curEng.grp = some (grpOf 1) ∧ (onS 1).guardTrue h0 = true ∧ (onS 1).cleanSrc [.s 1, .s 2, .s 0] ∧
    condSpec .lt ((onS 1).val (.s 2)) ((onS 1).val (.s 1)) ∧ ¬condSpec .ltn ((onS 1).val (.s 2)) ((onS 1).val (.s 1)) ∧
    condSpec .eq ((onS 1).val (.s 1)) ((onS 1).val (.s 1)) ∧ condSpec .gen ((onS 1).val (.s 2)) ((onS 1).val (.s 1)) ∧
    ((onS 1).val (.s 1)).toInt ≤ ((onS 1).val (.s 1)).toInt ∧ ((onS 1).val (.s 2)).toInt < ((onS 1).val (.s 1)).toInt ∧
    ((onS 1).val (.s 1)).toNat < ((onS 1).val (.s 2)).toNat := by
  refine ⟨by decide, by decide, ?_, ?_⟩
  · unfold State.cleanSrc
    decide
  · unfold condSpec
    decide
theorem meets_ScalarGuardPoison :
    (let s := (onX 0 0).modEng 0 .X (fun g => { g with grp := some (grpOf 1) })
     s.curEng.grp = some (grpOf 1) ∧ scalarShape (.add ⟨true, 0, 0, 1, true⟩ .wrap (.s 3) (.s 1) (.s 2)) =
       some (⟨true, 0, 0, 1, true⟩, .s 3, [.s 1, .s 2]) ∧ s.cur.2 = .X ∧
     (s.curCore.pred (⟨true, 0, 0, 1, true⟩ : Hdr).g.toNat).getLsbD 0 = true) ∧
    (onS 1).curEng.grp = some (grpOf 1) ∧ scalarShape (.add h0 .wrap (.s 3) (.s 1) (.s 4)) = some (h0, .s 3, [.s 1] ++ .s 4 :: []) ∧
    (onS 1).guardTrue h0 = true ∧ ((onS 1).srd (.s 1)).poison = false ∧ ((onS 1).srd (.s 4)).poison = true := by decide +kernel
theorem meets_ScalarFrame :
    (onS 1).Issuing h0 (grpOf 1) ∧ scalarShape (.add h0 .wrap (.s 3) (.s 1) (.s 2)) = some (h0, .s 3, [.s 1, .s 2]) ∧
    1 ≤ (onS 1).curEng.ring.length ∧ scalarShape (.li h0 (.s 0) 7) = some (h0, .s 0, []) :=
  ⟨issuing _ _ _ (by decide) (by decide) (by decide), by decide⟩

theorem meets_TransferWords :
    (onS 1).curEng.grp = some (grpOf 1) ∧ (onS 1).guardTrue h0 = true ∧ (onS 1).cleanSrc [.s 1, .s 2] ∧
    condSpec .ne ((onS 1).val (.s 1)) ((onS 1).val (.s 2)) ∧ ¬condSpec .eq ((onS 1).val (.s 1)) ((onS 1).val (.s 2)) ∧
    (((onS 1).modEng 0 .S (fun g => { g with stack := [20] })).curEng.stack = [20]) := by
  refine ⟨by decide, by decide, ?_, ?_, ?_, by decide⟩
  · unfold State.cleanSrc
    decide
  · unfold condSpec
    decide
  · unfold condSpec
    decide
/-- BRP: p1 true for the first lane alone, against all lanes active, then against that lane alone. -/
theorem meets_TransferWords_brp :
    let s := onX 0 0
    (0 < 1024 ∧ ((s.curCore.pred h0.g.toNat).getLsbD 0 != h0.gn) = true ∧ (s.prd 1).getLsbD 0 = true) ∧
    (4 < 1024 ∧ ((s.curCore.pred h0.g.toNat).getLsbD 4 != h0.gn) = true ∧ (s.prd 1).getLsbD 4 = false) ∧
    (∀ k, k < 1024 → ((s.curCore.pred h1.g.toNat).getLsbD k != h1.gn) = true → (s.prd 1).getLsbD k = true) ∧
    (∀ k, k < 1024 → ((s.curCore.pred h1.g.toNat).getLsbD k != h1.gn) = true → (s.prd 2).getLsbD k = false) := by
  refine ⟨by decide +kernel, by decide +kernel, fun k _ h => ?_, fun k _ h => ?_⟩
  · have e : (onX 0 0).curCore.pred h1.g.toNat = 0xF := by decide +kernel
    have f : (onX 0 0).prd 1 = 0xF := by decide +kernel
    rw [e] at h
    rw [f]
    simpa using h
  · have f : (onX 0 0).prd 2 = 0 := by decide +kernel
    rw [f]
    simp

/-- Core 0 with buffer 1: 4,096 bytes of HBM at 0x10000, layer H, all rights, its entry and its page cached. -/
def onHbm (e : Eng) (n : Nat) : State :=
  let s := (inGrp e n).modCore 0 (fun k => { k with
    bufc := [{ ctx := 0, idx := 1, words := [0x8000000000010000, 0x018F000000001000, 0xFFFF0000, 0] }]
    tlb := [{ ctx := 0, vpage := 0, log := 30, frame := 0, kind := 1, w := true }]
    btlast := 1 })
  { s with mem := [(18, 1), (19, 4)], mgmt := { s.mgmt with keys := [(1, { k1 := 0, k2 := 0, gen := 1 })] } }

theorem meets_TransferTargets :
    let s := (onHbm .S 1).modCore 0 (fun k => { k with task := some { RunTask.bare with cbuf := 1, streams := [0x40, 0x40, 0x40, 0x40] } })
    let s := { s with mem := s.mem ++ [(0x1007E, 3)] }
    s.Issuing h0 (grpOf 1) ∧ (grpOf 1).idx + 1 = (grpOf 1).size ∧ s.curEng.sup = none ∧ s.curCore.flight = [] ∧
    s.reqOpen s.cur.1 = false ∧ s.curEng.sect.num = 2 ∧ 3 < s.curEng.sect.len ∧ 0 < s.curEng.sect.len ∧
    s.curEng.sect.num < 3 ∧
    (s.targetSect s.cur.1 s.cur.2 { delta := BitVec.ofNat 14 (3 - s.curEng.sect.num), word := BitVec.ofNat 16 2 }).isSome = true :=
  ⟨issuing _ _ _ (by decide) (by decide) (by decide), by decide⟩
theorem meets_LoopWords :
    (onS 1).curEng.grp = some (grpOf 1) ∧ (onS 1).guardTrue h0 = true ∧ ((onS 1).val (.s 0)).toNat = 0 ∧
    ((onS 1).val (.s 1)).toNat ≠ 0 ∧
    ((onS 1).modEng 0 .S (fun x => { x with loops := [(3, lvl 0)] })).curEng.loops.find? (3 : Fin 4).val = some (lvl 0) ∧
    (let v := { lvl 0 with staged := true, total := 4, m := 3 }
     let g := { (onS 1).curEng with loops := [(1, v)] }
     g.loops = [(1, v)] ∧ v.staged = true ∧ v.base = 0 ∧ v.cut = v.n ∧ (onS 1).curEng.loops = []) := by decide
theorem meets_StopWords :
    let s := inGrp .L 1
    s.Issuing h0 (grpOf 1) ∧ (grpOf 1).idx + 1 = (grpOf 1).size ∧ s.guardTrue h0 = true ∧ s.curEng.sup = none ∧
    s.curCore.flight = [] ∧ s.curEng.owed = none ∧ s.curEng.stopped = none ∧ bitsOf (s.seenEng.reg 2).val 0 16 = 0 ∧ s.curCore.task = some RunTask.bare :=
  ⟨issuing _ _ _ (by decide) (by decide) (by decide), by decide⟩
/-- SUSPEND on the object at offset 4080, the last of buffer 1. -/
theorem meets_StopWords_object :
    let s := (onHbm .L 1).modEng 0 .L (fun g => { g with regs := [(2, .clean 0xFF00001)] })
    s.curEng.grp = some (grpOf 1) ∧ s.guardTrue h0 = true ∧ bitsOf (s.seenEng.reg 2).val 0 16 ≠ 0 ∧
    ∃ ps t, s.Accesses (.acq .pkg) (bitsOf (s.seenEng.reg 2).val 0 16) (boForm .read) [(bitsOf (s.seenEng.reg 2).val 16 48 : Int)]
      true ps t ∧ (((t.toHome t.cur.1 (lineOf (keyOf ps))).reach [lineOf (keyOf ps)]).boBad (keyOf ps) == false) = true :=
  ⟨by decide, by decide, by decide, accesses_of (fun ps t =>
    ((t.toHome t.cur.1 (lineOf (keyOf ps))).reach [lineOf (keyOf ps)]).boBad (keyOf ps) == false) (by decide)⟩
/-- WATCH of the last line of the scratchpad. -/
theorem meets_WatchStampInvalidate :
    let s := (inGrp .L 1).modEng 0 .L (fun g => { g with regs := [(5, .clean 0x3FFF80)] })
    s.curEng.grp = some (grpOf 1) ∧ s.memRef ⟨.imm 0, .s 5, 0, .none⟩ 128 = (0, 0x3FFF80) ∧
    ∃ ps t, s.Accesses .none 0 { need := .read, es := 128, align := 128, noView := true } [0x3FFF80] false ps t ∧
      (t.curCore.task == some RunTask.bare && t.info RunTask.bare.slot == some tInfo &&
        t.minded (t.recAddr RunTask.bare.slot + 0x38) 8 == [] &&
        decide (t.recAddr RunTask.bare.slot + 0x38 + 8 ≤ 128 * lineOf (keyOf ps))) = true :=
  ⟨by decide, by decide, accesses_of _ (by decide +kernel)⟩
theorem meets_WatchStampInvalidate_drop :
    let s := (onHbm .L 1).modEng 0 .L (fun g => { g with regs := [(5, .clean 0x10000), (6, .clean 0x8000000000000000)] })
    s.curEng.grp = some (grpOf 1) ∧ (∀ e ∈ [Eng.L, .S], e ≠ s.cur.2 → s.accessing s.cur.1 e (grpOf 1).no = false) ∧ (s.perform s.cur.1).curCore.settled = true ∧
    ((s.val (.s 6)).getLsbD 63 = true ∨ bitsOf (s.val (.s 6)) 16 47 = 0) ∧ bitsOf (s.val (.s 0)) 16 47 = 0 ∧
    (s.val (.s 5)).getLsbD 63 = false ∧ bitsOf (s.val (.s 5)) 16 47 ≠ 0 := by decide
theorem meets_TrapWords :
    let s := inGrp .S 1
    let f := s.modEng 0 .S (fun g => { g with csr := { g.csr with fflags := 0x10 }, grp := some { grpOf 1 with csr := { (grpOf 1).csr with fenab := 0x10 } } })
    (s.curEng.grp = some (grpOf 1) ∧ s.guardTrue h0 = true ∧ (grpOf 1).owes = none ∧
      s.curEng.csr.fflags &&& (grpOf 1).csr.fenab = 0) ∧
    (f.curEng.grp = some { grpOf 1 with csr := { (grpOf 1).csr with fenab := 0x10 } } ∧
      f.curEng.csr.fflags &&& 0x10 ≠ 0) ∧
    ((onCore .S).curEng.grp = none ∧ (onCore .S).curEng.restart = none ∧ (onCore .S).guardTrue h0 = true ∧ h0.pop = 0 ∧
      (onCore .S).curEng.sup = none) ∧
    (∀ d, d = .arith 0x10 ∨ d = .software 7 → ∀ u, u = s.modEng 0 .S (fun g => { g with grp := some { grpOf 1 with owes := some d } }) →
      u.curEng.grp = some { grpOf 1 with owes := some d } ∧ u.curCore.room u.cur.2 h0.post = true ∧ u.curEng.sup = none ∧
      u.curCore.unlanded u.cur.2 = false ∧ u.behind u.cur.1 u.cur.2 = false ∧ u.unretired u.cur.1 u.cur.2 = false ∧
      (grpOf 1).idx + 1 = (grpOf 1).size) := by
  refine ⟨by decide, by decide, by decide, ?_⟩
  rintro d (rfl | rfl) u rfl <;> decide

/-- The supervisor store holds a handler of one word for cause 0x0A at 0x100. -/
def withHandler : State := { inGrp .S 1 with supStore := [(0x29, 1), (0x106, 1)] }
/-- The handler that engine S of core 0 is in, with s24 set aside as 9. -/
def aside : Sup where
  regs := .clean 9 :: List.replicate 7 SVal.zero
  ring := [.sc .zero]
  phase := .running

theorem meets_TrapEntry :
    (withHandler.eng 0 .S).sup = none ∧ 0x0A < 256 ∧ 0x0A ≠ 0x10 ∧ (withHandler.handler 0x0A).isSome = true ∧
    withHandler.handler 0x0B = none ∧ (withHandler.core 0).task = some RunTask.bare ∧
    ((withHandler.modEng 0 .S (fun g => { g with sup := some aside })).eng 0 .S).sup.isSome = true ∧ 255 < 256 := by decide
theorem meets_TrapReturn :
    let s := withHandler.modEng 0 .S (fun g => { g with sup := some aside, resume := g.sect, csr := { g.csr with trappc := 56 } })
    s.Issuing h0 (grpOf 1) ∧ (grpOf 1).idx + 1 = (grpOf 1).size ∧ s.guardTrue h0 = true ∧ s.curEng.stopped = none ∧ s.curEng.sup = some aside ∧
    aside.regs.length = 8 ∧ s.curEng.resume.resumable s.curEng.csr.trappc = true ∧ aside.regs[0]? = some (.clean 9) :=
  ⟨issuing _ _ _ (by decide) (by decide) (by decide), by decide⟩
theorem meets_CsrAccess :
    (onS 1).curEng.grp = some (grpOf 1) ∧ (onS 1).guardTrue h0 = true ∧ (onS 1).curCore.task = some RunTask.bare ∧
    (∀ e ∈ [Eng.L, .S], e ≠ (onS 1).cur.2 → (onS 1).accessing (onS 1).cur.1 e (grpOf 1).no = false) ∧
    ((onS 1).perform (onS 1).cur.1).curCore.settled = true := by decide
/-- A write to a frame in exchange is not performed; L has issued a load before the group of S. -/
theorem meets_CsrAccess_waits :
    let p : PendW := ⟨[(0x20000, 1, 0xFF)], 0, true, false, false, [], 1, 0, 0, 0⟩
    let b := (onS 1).modCore 0 (fun k => { k with wq := [p] })
    let b := { b with stor := { b.stor with frames := [2] } }
    let i : Instr := .lds h0 3 false false (.s 4) ⟨.imm 0, .s 0, 0, .none⟩
    let l := (onS 1).modEng 0 .S (fun g => { g with grp := some { grpOf 1 with no := 1 } })
    let l := l.modEng 0 .L (fun g => { g.atWords [(encode i).getD 0] with grp := some { grpOf 1 with first := 0 } })
    (∀ e ∈ [Eng.L, .S], e ≠ b.cur.2 → b.accessing b.cur.1 e (grpOf 1).no = false) ∧ (b.perform b.cur.1).curCore.settled = false ∧
    l.curEng.grp = some { grpOf 1 with no := 1 } ∧ Eng.L ≠ l.cur.2 ∧ l.accessing l.cur.1 .L 1 = true := by decide +kernel

-- memory words

/-- A package in which no task but the one of core 0 stands, and nothing is open, in error or watched on any line. -/
theorem plain_of {s : State} (a : s.stor.batches = []) (b : s.stor.dramErr = []) (c : s.stor.poison = []) (d : s.stor.badWords = [])
    (e : s.sched.tasks = [(0, tInfo)]) (line : Nat) : s.plainLine line := by
  refine ⟨by simp [a], by simp [b], by simp [c], fun w _ => by simp [d], ?_⟩
  simp [e, tInfo]

theorem meets_ScratchpadAccess :
    let s := (inGrp .S 1).modEng 0 .S (fun g => { g with regs := [(5, .clean 0x3FFFF8), (6, .clean 3)] })
    let m : MemOp := ⟨.imm 0, .s 5, 0, .none⟩
    s.Issuing h0 (grpOf 1) ∧ s.canon ∧ s.cur.1 ≤ 255 ∧ s.cur.2 ≠ .M ∧ m.ord = .none ∧ s.stor.ferryQ = [] ∧
    s.memRef m (2 ^ (3 : BitVec 2).toNat) = (0, ((0x3FFFF8 : Nat) : Int)) ∧
    0x3FFFF8 + 2 ^ (3 : BitVec 2).toNat ≤ s.curCore.spadLen ∧ 0x3FFFF8 % 2 ^ (3 : BitVec 2).toNat = 0 ∧
    s.plainLine (lineOf (spadKey s.cur.1 0x3FFFF8)) ∧
    (∀ i, i < 2 ^ (3 : BitVec 2).toNat → s.freeKey (spadKey s.cur.1 0x3FFFF8 + i)) ∧
    (∀ i, i < 2 ^ (3 : BitVec 2).toNat → (0 : Word).extractLsb' (8 * i) 8 = s.mem.read (spadKey s.cur.1 0x3FFFF8 + i)) := by
  refine ⟨issuing _ _ _ (by decide) (by decide) (by decide), ⟨by decide, by decide⟩, by decide, by decide, by decide, by decide, by decide,
    by decide, by decide, plain_of (by decide) (by decide) (by decide) (by decide) (by decide) _, ?_, by decide⟩
  intro i hi
  exact ⟨by decide +revert, by decide +revert⟩
/-- One byte too far, below 0, and misaligned. -/
theorem meets_ScratchpadAccess_faults :
    let s := (inGrp .S 1).modEng 0 .S (fun g => { g with regs := [(5, .clean 0x3FFFF8), (6, .clean 3)] })
    s.curEng.grp = some (grpOf 1) ∧ s.cur.1 ≤ 255 ∧
    s.memRef ⟨.imm 0, .s 5, 1, .none⟩ (2 ^ (3 : BitVec 2).toNat) = (0, 0x400000) ∧ (s.curCore.spadLen : Int) < 0x400000 + 2 ^ 3 ∧
    (s.memRef ⟨.imm 0, .s 0, -1, .none⟩ (2 ^ (3 : BitVec 2).toNat)).2 < 0 ∧
    s.memRef ⟨.imm 0, .s 6, 0, .none⟩ (2 ^ (3 : BitVec 2).toNat) = (0, 3) ∧ (3 : Int) + 2 ^ 3 ≤ (s.curCore.spadLen : Int) ∧
    (3 : Int) % 2 ^ 3 ≠ 0 := by decide
/-- LDS, STS and CLD at the last double word of a buffer in HBM. -/
theorem meets_ScalarMemoryWords :
    let s := (onHbm .S 1).modEng 0 .S (fun g => { g with regs := [(5, .clean 0xFF8)] })
    let m : MemOp := ⟨.imm 1, .s 5, 0, .none⟩
    s.curEng.grp = some (grpOf 1) ∧ s.memRef m (2 ^ (3 : BitVec 2).toNat) = (1, 0xFF8) ∧
    (∃ ps t, s.Accesses m.ord 1 (rForm .read (2 ^ (3 : BitVec 2).toNat)) [0xFF8] false ps t ∧ true = true) ∧
    (∃ ps t, s.Accesses m.ord 1 (rForm .write (2 ^ (3 : BitVec 2).toNat)) [0xFF8] false ps t ∧ true = true) :=
  ⟨by decide, by decide, accesses_of (fun _ _ => true) (by decide +kernel), accesses_of (fun _ _ => true) (by decide +kernel)⟩
/-- CLD of a constant buffer, with its first page in the coherence filter and without. -/
theorem meets_ScalarMemoryWords_const : ∀ f, (f = [0x10] ∨ f = []) → ∀ s, s = (onHbm .S 1).modCore 0 (fun k =>
      { k with bufc := [{ ctx := 0, idx := 1, words := [0x8000000000010000, 0x0191000000001000, 0xFFFF0000, 0] }], filter := f }) →
    s.curEng.grp = some (grpOf 1) ∧ s.memRef ⟨.imm 1, .s 0, 0, .none⟩ (2 ^ (3 : BitVec 2).toNat) = (1, 0) ∧
    (∃ ps t, s.Accesses .none 1 (rForm .const (2 ^ (3 : BitVec 2).toNat)) [0] false ps t ∧
      (t.curCore.coherent ps.flatten == !f.isEmpty) = true) ∧
    s.tablesHeld s.whoCur 1 (rForm .const (2 ^ (3 : BitVec 2).toNat)) [0] = false ∧
    (match s.access s.whoCur 1 (rForm .const (2 ^ (3 : BitVec 2).toNat)) [0] with
      | (t, .ok ps) => t.curCore.coherent ps.flatten == !f.isEmpty && (t.roBlocked t.cur.1 t.curKid ps.flatten).isNone && t.stor.ferryQ == []
      | _ => false) = true := by
  rintro f (rfl | rfl) s rfl <;>
    refine ⟨by decide, by decide, accesses_of (fun ps t => t.curCore.coherent ps.flatten == _) ?_, by decide +kernel, by decide +kernel⟩ <;>
    decide +kernel

/-- X with a group in issue, v2 all zeros and v3 of bytes 1, and the last 1,024 bytes of the scratchpad at s5. -/
def onXm : State := (inGrp .X 1).modCore 0 (fun k => { k with v := [(3, .clean (BitVec.ofNat 8192 1))] })
  |>.modEng 0 .X (fun g => { g with regs := [(5, .clean 0x3FFC00), (6, .clean 4), (7, { val := 0, poison := true, cause := 3 })] })
abbrev m5 : MemOp := ⟨.imm 0, .s 5, 0, .none⟩

theorem meets_VectorLoads :
    onXm.curEng.grp = some (grpOf 1) ∧ onXm.memRef m5 64 = (0, 0x3FFC00) ∧
    (∃ ps t, onXm.Accesses m5.ord 0 (pieceForm .read false) ((List.range 16).map (fun j => (0x3FFC00 : Int) + (64 * j : Nat))) false ps t ∧
      true = true) ∧
    (∃ ps t, onXm.Accesses m5.ord 0 (rForm .read (2 ^ (2 : BitVec 2).toNat))
      ((List.range (1024 / 2 ^ (2 : BitVec 2).toNat)).map (fun i => (0x3FFC00 : Int) + (i : Int) * (onXm.val (.s 6)).toInt)) false ps t ∧
      true = true) ∧
    (∃ ps t, onXm.Accesses m5.ord 0 (rForm .read (2 ^ (2 : BitVec 2).toNat)) [0x3FFC00] false ps t ∧ true = true) :=
  ⟨by decide, by decide, accesses_of (fun _ _ => true) (by decide +kernel), accesses_of (fun _ _ => true) (by decide +kernel),
    accesses_of (fun _ _ => true) (by decide +kernel)⟩
theorem meets_VectorLoads_index :
    onXm.curEng.grp = some (grpOf 1) ∧ onXm.memRef m5 64 = (0, 0x3FFC00) ∧
    ((((onXm.vrd (.v 2)).els 32).take (idxCount 3)).all (fun e => e.bad == false) &&
      (((onXm.vrd (.v 2)).els 32).take (idxCount 3)).length == 128) = true ∧
    (∃ ps t, onXm.Accesses m5.ord 0 (rForm .read (2 ^ (3 : BitVec 2).toNat))
      ((((onXm.vrd (.v 2)).els 32).take (idxCount 3)).map (fun e => (0x3FFC00 : Int) + readInt true 32 e.bits *
        (2 ^ (3 : BitVec 2).toNat : Nat))) false ps t ∧ (ps.length == 128) = true) :=
  ⟨by decide, by decide, by decide +kernel, accesses_of (fun ps _ => ps.length == 128) (by decide +kernel)⟩

/-- The plain access passes. -/
theorem meets_SpeculativeLoads :
    onXm.curEng.grp = some (grpOf 1) ∧ m5.ord = .none ∧ (onXm.srd m5.off).poison = false ∧ (onXm.srd (.s 6)).poison = false ∧
    (∀ b, m5.buf = .reg b → (onXm.srd b).poison = false) ∧
    onXm.memRef m5 (2 ^ (2 : BitVec 2).toNat) = (0, 0x3FFC00) ∧ onXm.memRef m5 64 = (0, 0x3FFC00) ∧
    (∃ ps t, onXm.Accesses .none 0 (rForm .read (2 ^ (2 : BitVec 2).toNat)) [0x3FFC00] false ps t ∧ true = true) ∧
    (∃ ps t, onXm.Accesses .none 0 (pieceForm .read false) (pieces16 0x3FFC00) false ps t ∧ true = true) ∧
    (∃ ps t, onXm.Accesses .none 0 (rForm .read (2 ^ (2 : BitVec 2).toNat))
      (strided 0x3FFC00 (onXm.val (.s 6)).toInt (1024 / 2 ^ (2 : BitVec 2).toNat)) false ps t ∧ true = true) :=
  ⟨by decide, by decide, by decide, by decide, by simp, by decide, by decide,
    accesses_of (fun _ _ => true) (by decide +kernel), accesses_of (fun _ _ => true) (by decide +kernel),
    accesses_of (fun _ _ => true) (by decide +kernel)⟩
/-- The offset is poisoned; the access goes past the end. -/
theorem meets_SpeculativeLoads_poison :
    ((onXm.srd (.s 7)).poison = true ∧ onXm.memRef ⟨.imm 0, .s 7, 0, .none⟩ (2 ^ (2 : BitVec 2).toNat) = (0, 0)) ∧
    onXm.memRef ⟨.imm 0, .s 5, 256, .none⟩ (2 ^ (2 : BitVec 2).toNat) = (0, 0x400000) ∧
    (match (onXm.access onXm.whoCur 0 (rForm .read (2 ^ (2 : BitVec 2).toNat)) [0x400000]).2 with
      | .error x => decide (x.fail.cause < 16 ∧ x.fail.cause ≠ 0)
      | .ok _ => false) = true ∧
    onXm.tablesHeld onXm.whoCur 0 (rForm .read (2 ^ (2 : BitVec 2).toNat)) [0x400000] = false := by
  refine ⟨by decide, by decide, by decide +kernel, by decide⟩

theorem meets_VectorStores :
    onXm.curEng.grp = some (grpOf 1) ∧ onXm.memRef m5 64 = (0, 0x3FFC00) ∧
    ((List.range 1024).map (fun i => (onXm.vrd (.v 3)).data.extractLsb' (8 * i) 8)).length = 1024 ∧
    (∃ ps t, onXm.Accesses m5.ord 0 (pieceForm .write false) (pieces16 0x3FFC00) false ps t ∧ true = true) ∧
    (∃ ps t, onXm.Accesses m5.ord 0 (rForm .write (2 ^ (2 : BitVec 2).toNat))
      ((List.range (1024 / 2 ^ (2 : BitVec 2).toNat)).map (fun i => (0x3FFC00 : Int) + (i : Int) * (onXm.val (.s 6)).toInt)) false ps t ∧
      true = true) ∧
    (∃ ps t, onXm.Accesses m5.ord 0 (rForm .write (2 ^ (3 : BitVec 2).toNat))
      ((((onXm.vrd (.v 2)).els 32).take (idxCount 3)).map (fun e => (0x3FFC00 : Int) + readInt true 32 e.bits *
        (2 ^ (3 : BitVec 2).toNat : Nat))) false ps t ∧ true = true) ∧
    (∃ ps t, onXm.Accesses m5.ord 0 (pieceForm .write true) (pieces16 0x3FFC00) false ps t ∧ true = true) :=
  ⟨by decide, by decide, by simp, accesses_of (fun _ _ => true) (by decide +kernel), accesses_of (fun _ _ => true) (by decide +kernel),
    accesses_of (fun _ _ => true) (by decide +kernel), accesses_of (fun _ _ => true) (by decide +kernel)⟩

/-- A pending write of one byte. -/
def pendAt (key : Nat) (so : Bool) : PendW where
  cells := [(key, 1, 0xFF)]
  layer := 0
  so := so
  word := false
  line := false
  via := []
  kid := 1
  acc := key
  epoch := 0
  rank := 0
/-- An empty L1 line, pinned or not. -/
def lineAt (pin : Bool) : Line where
  data := 0
  dirty := 0
  pinned := pin
  kid := 1
  badw := 0
  bad := false
  joint := 0
  first := 0
  last := 0
  rank := 0
  stale := false
  via := []

/-- A byte of the scratchpad, a byte of host memory, and one of a line that the L1 holds. -/
theorem meets_StoreFrame :
    (inGrp .S 1).mem.wf = true ∧ (placeAt (spadKey 0 5) 0 .loc).whole = true ∧ (placeAt (spadKey 0 5) 0 .loc).kind = .loc ∧
    2 ^ 56 ≤ (placeAt (spadKey 0 5) 0 .loc).key ∧ (inGrp .S 1).plainLine (lineOf (placeAt (spadKey 0 5) 0 .loc).key) ∧
    (placeAt (2 ^ 52) 0 .far).whole = true ∧ (placeAt (2 ^ 52) 0 .far).kind = .far ∧ (placeAt (spadKey 0 5) 0 .loc).far_ = none ∧
    (placeAt (2 ^ 52) 0 .far).far_ = none ∧ (placeAt (128 * 7) 0 .cached).far_ = none ∧
    (let t := (inGrp .S 1).modCore 0 (fun k => { k with l1split := 1, l1 := [(7, lineAt false)] })
     (∀ y ∈ t.cores, (∀ z ∈ y.2.l1, z.2.rank = 0) ∧ ∀ w ∈ y.2.wq, w.rank = 0) ∧
     (t.core 0).l1.has (lineOf (placeAt (2 ^ 52) 0 .far).key) = false ∧ (placeAt (128 * 7) 0 .cached).whole = true ∧
     (placeAt (128 * 7) 0 .cached).kind = .cached ∧ (t.core 0).l1.has (lineOf (placeAt (128 * 7) 0 .cached).key) = true ∧
     (t.core 0).owes [lineOf (placeAt (128 * 7) 0 .cached).key] = false ∧ (t.core 0).l1On = true) := by
  refine ⟨by decide, by decide, by decide, by decide, ?_, by decide, by decide, by decide, by decide, by decide, by decide⟩
  exact plain_of (by decide) (by decide) (by decide) (by decide) (by decide) _

/-- An atomic that returns and one that does not, CAS that finds its value and CAS that does not, and AMOV, in HBM. -/
theorem meets_AtomicWords :
    let s := (onHbm .S 1).modEng 0 .S (fun g => { g with regs := [(4, .clean 5), (5, .clean 0xFF8)] })
    let m : MemOp := ⟨.imm 1, .s 5, 0, .none⟩
    s.curEng.grp = some (grpOf 1) ∧ s.memRef m (2 ^ (3 : BitVec 2).toNat) = (1, 0xFF8) ∧ (SDst.s 4) ≠ .s 0 ∧
    (∃ ps t, s.Accesses m.ord 1 (atomForm (amoHost .add 3) (2 ^ (3 : BitVec 2).toNat)) [0xFF8] true ps t ∧
      (let u := t.noteAtomic ps.flatten
       [none, some (u.giver 1 0xFF8)].all (fun x =>
         match (u.atomic u.cur.1 u.curKid (keyOf ps) .add (amoTy .add 3) (s.val (.s 5)) x).2 with
         | .ok old => old == 0
         | .error _ => false)) = true) ∧
    (∃ ps t, s.Accesses m.ord 1 (atomForm ((3 : BitVec 2) == 2 || (3 : BitVec 2) == 3) (2 ^ (3 : BitVec 2).toNat)) [0xFF8] true ps t ∧
      (let u := t.noteAtomic ps.flatten
       let w := (u.toHome u.cur.1 (lineOf (keyOf ps))).reach [lineOf (keyOf ps)]
       let old := w.homeNat u.curKid (keyOf ps) (2 ^ (3 : BitVec 2).toNat)
       w.badAt (keyOf ps) == 0 && old == (s.sold (.s 3)).val.toNat % 2 ^ (8 * 2 ^ (3 : BitVec 2).toNat) &&
         old != (s.sold (.s 4)).val.toNat % 2 ^ (8 * 2 ^ (3 : BitVec 2).toNat)) = true) ∧
    s.memRef ⟨.imm 1, .s 0, 0, .none⟩ 0 = (1, 0) ∧
    (∃ ps t, s.Accesses .none 1 (atomForm false (Ty.n64.width / 8))
      ((List.range (1024 / (Ty.n64.width / 8))).map (fun i => (0 : Int) + (i : Int) * (Ty.n64.width / 8 : Nat))) true ps t ∧ true = true) :=
  ⟨by decide, by decide, by decide, accesses_of _ (by decide +kernel), accesses_of _ (by decide +kernel),
    by decide, accesses_of (fun _ _ => true) (by decide +kernel)⟩

/-- A core with nothing to perform, and one whose pending write goes to a frame under ferry, which only a fence of the core alone does
not wait for; a fence of the whole package and of no layer. -/
theorem meets_FenceBarrierWords :
    let s := inGrp .X 1
    let b := s.modCore 0 (fun k => { k with wq := [pendAt 0x20000 true] })
    let b := { b with stor := { b.stor with frames := [2] } }
    s.curEng.grp = some (grpOf 1) ∧ b.curEng.grp = some (grpOf 1) ∧ (0x8 : BitVec 4).getLsbD 3 = true ∧
    (0x4 : BitVec 4).getLsbD 3 = false ∧ (0x4 : BitVec 4) &&& 0xE ≠ 0 ∧ (0x1 : BitVec 4) &&& 0xE = 0 ∧
    s.curCore.settled = true ∧ (∀ x ∈ s.cores, x.1 ≠ s.cur.1 → x.2.lentVia s.cur.1 = false) ∧
    (s.releaseAt s.cur.1 s.cur.2 (scopeRank .sys) 0x8).released s.cur.1 (scopeRank .sys) 0x8 = true ∧
    (b.releaseAt b.cur.1 b.cur.2 0 0x4).released b.cur.1 0 0x4 = true ∧
    (b.releaseAt b.cur.1 b.cur.2 (scopeRank .sys) 0x8).released b.cur.1 (scopeRank .sys) 0x8 = false ∧
    s.guardTrue h0 = true ∧ s.curEng.arrived = none ∧
    (s.modEng 0 .X (fun g => { g with arrived := some (0, 0) })).curEng.arrived = some (0, 0) := by decide +kernel

/-- The last object of buffer 1: phase 0, so that BOWAIT on 1 goes on and on 0 waits. -/
theorem meets_BarrierObjectWords :
    let s := (onHbm .S 1).modEng 0 .S (fun g => { g with regs := [(4, .clean 1), (5, .clean 0xFF0)] })
    let m : MemOp := ⟨.imm 1, .s 5, 0, .none⟩
    s.curEng.grp = some (grpOf 1) ∧ s.memRef m 16 = (1, 0xFF0) ∧
    (∃ ps t, s.Accesses m.ord 1 (boForm (.atomic false)) [0xFF0] true ps t ∧
      ((((t.noteAtomic ps.flatten).toHome t.cur.1 (lineOf (keyOf ps))).reach [lineOf (keyOf ps)]).boBad (keyOf ps) == false) = true) ∧
    (∃ ps t, s.Accesses .none 1 (boForm .read) [0xFF0] true ps t ∧
      (let u := (t.toHome t.cur.1 (lineOf (keyOf ps))).reach [lineOf (keyOf ps)]
       u.boBad (keyOf ps) == false && (u.boAt u.curKid (keyOf ps)).phase != bitsOf (s.val (.s 4)) 0 1 &&
         (u.boAt u.curKid (keyOf ps)).phase == bitsOf (s.val (.s 0)) 0 1) = true) :=
  ⟨by decide, by decide, accesses_of _ (by decide +kernel), accesses_of _ (by decide +kernel)⟩
/-- Counts at their bounds: a credit that reaches the expected count and one that does not; an arming of 0 and of a count met. -/
theorem meets_BarrierObjectWords_counts :
    let b : BoVal := { phase := 1, expect := 3, flips := 2 ^ 16 - 1, pend := 2 }
    b.phase < 2 ∧ b.expect < 2 ^ 48 ∧ b.pend < 2 ^ 48 ∧ b.flips < 2 ^ 16 ∧ 1 < 2 ^ 48 ∧ b.expect ≠ 0 ∧
    b.expect ≤ (b.pend + 1) % 2 ^ 48 ∧ (b.pend + 0) % 2 ^ 48 < b.expect ∧ 2 ≠ 0 ∧ 2 ≤ b.pend ∧ b.pend < 3 := by decide

-- vector words

theorem meets_VectorLaneWords : (inGrp .X 1).curEng.grp = some (grpOf 1) := by decide
/-- The last element of 64 bits, sound and then poisoned, and one that the guard leaves out; a predicate of bytes. -/
theorem meets_LaneRules :
    64 ∈ [4, 8, 16, 32, 64] ∧ (List.replicate 128 true).length = 8192 / 64 ∧ 127 < 8192 / 64 ∧
    (List.replicate 128 true).getD 127 false = true ∧ (List.replicate 128 false).getD 127 false = false ∧
    (∀ j, 64 * j / 32 = 64 * 127 / 32 → (elAt 64 (.clean 5) j).bad = false) ∧
    (elAt 64 { data := 0, poison := 2 ^ 255, cause := 3 } 127).bad = true ∧
    8 ∈ [8, 16, 32, 64] ∧ (List.replicate 1024 true).length = 8192 / 8 ∧ 1023 < 1024 ∧
    (∀ i, i < 8192 / 8 → (List.replicate 1024 true).getD i false = true) := by
  refine ⟨by decide, List.length_replicate, by decide, by decide +kernel, by decide +kernel, ?_, by decide +kernel, by decide,
    List.length_replicate, by decide, fun i h => ?_⟩
  · intro j h
    obtain rfl : j = 127 := by omega
    decide +kernel
  · have e : i < 1024 := h
    rw [List.getD_eq_getElem?_getD, List.getElem?_replicate, if_pos e]
    rfl
theorem meets_LaneRules_compare :
    Ty.i8.isInt = true ∧ 0x80 < 2 ^ Ty.i8.width ∧ 0x7F < 2 ^ Ty.i8.width ∧ 32 ∈ [32, 64] ∧
    (List.replicate 256 true).length = 8192 / 32 ∧ 255 < 8192 / 32 ∧ (List.replicate 256 true).getD 255 false = true ∧
    (elAt 32 (.clean 0) 255).bad = false ∧ (elAt 32 { data := 0, poison := 2 ^ 255, cause := 3 } 255).bad = true := by decide +kernel
/-- The least integer of 32 bits; one in FP32. -/
theorem meets_ElementValues :
    Ty.i32.isInt = true ∧ 2 ^ 31 < 2 ^ Ty.i32.width ∧ Ty.f32.isFl = true ∧ 0x3F800000 < 2 ^ Ty.f32.width ∧
    (flFmt .f32).read 0x3F800000 = .fin false 0x800000 (-23) ∧ 0x800000 ≠ 0 := by decide
/-- p1 has its first lane true, p2 none. -/
theorem meets_PredicateWords :
    let s := (onX 0 0).modEng 0 .X (fun g => { g with grp := some (grpOf 1) })
    s.curEng.grp = some (grpOf 1) ∧
    (0 < ((s.act h0 32).zipWith (· && ·) (predLanes 32 (s.prd 1))).length ∧
      ((s.act h0 32).zipWith (· && ·) (predLanes 32 (s.prd 1))).getD 0 false = true) ∧
    256 ≤ ((s.act h0 32).zipWith (· && ·) (predLanes 32 (s.prd 2))).length ∧
    ((s.act h0 32).zipWith (· && ·) (predLanes 32 (s.prd 2))).all (fun b => !b) = true := by decide +kernel
theorem meets_ReductionWords :
    let s := (onX 5 0).modEng 0 .X (fun g => { g with grp := some (grpOf 1) })
    s.curEng.grp = some (grpOf 1) ∧ Ty.i32.isInt = true ∧
    (activeEls (s.act h0 32) ((s.vrd (.v 2)).operand 32).els).all (fun e => e.bad == false) = true ∧
    activeEls (s.act h0 32) ((s.vrd (.v 2)).operand 32).els ≠ [] := by decide +kernel
theorem meets_ConversionWords : (inGrp .X 1).curEng.grp = some (grpOf 1) ∧ ∃ x y f,
    vqmx .e4m3 .f32 .rne 0 (.clean 0) (.clean 0) (List.replicate 1024 true) (.clean 0) = (x, y, f) := ⟨by decide, _, _, _, rfl⟩
theorem meets_PermuteWords :
    let s := (onX 5 0).modEng 0 .X (fun g => { g with grp := some (grpOf 1) })
    s.curEng.grp = some (grpOf 1) ∧ (s.act h1 32).getD (0 : BitVec 11).toNat false = true ∧
    (elAt 32 (s.vrd (.v 2)) (0 : BitVec 11).toNat).bad = false ∧ (s.act h1 32).getD (255 : BitVec 11).toNat false = false ∧
    Ty.n64.lanes = 8192 / Ty.n64.width ∧ 127 < Ty.n64.lanes ∧ (VVal.clean 5).poison = 0 ∧ 16 ≤ Ty.n64.width ∧
    Ty.n8.lanes = 8192 / Ty.n8.width ∧ 1023 < Ty.n8.lanes ∧ Ty.n8.width = 8 := by decide +kernel
theorem meets_TransposeWord :
    let s := inGrp .X 1
    s.Issuing h0 (grpOf 1) ∧ (752 : Fin 768).val ≤ 752 ∧ s.act h0 Ty.n8.width = List.replicate Ty.n8.lanes true ∧
    (∀ r, r < 16 → (s.curCore.vreg ((752 : Fin 768).val + r)).poison = 0) :=
  ⟨issuing _ _ _ (by decide) (by decide) (by decide), by decide, by decide +kernel, by decide +kernel⟩
theorem meets_VectorFrame :
    (inGrp .X 1).Issuing h0 (grpOf 1) ∧ vecShape (.vadd h0 .i32 (.mode .rne) false (.v 767) (.v 2) v3) = some (h0, .v 767) ∧
    predShape (.vcmp h0 .lt .i32 15 (.v 2) v3) = some (h0, 15) :=
  ⟨issuing _ _ _ (by decide) (by decide) (by decide), by decide⟩

-- records, commands and the matrix unit

/-- Launch record 1: its tiles, group shape, reuse class, tiles outstanding and context; class 1 is valid, with one entry and its
buffers all buffer 1; class 2 is not. Buffer 1 starts with a row descriptor of one row of 4 bytes. -/
def onRec (tiles sg cls out ctx : Byte) : State :=
  { onHbm .S 1 with mem := [(18, 1), (19, 4), (0x128, tiles), (0x12C, ctx), (0x131, 0x80 + 32 * sg), (0x132, cls), (0x160, out),
    (0x10018, 1), (0x1001C, 4), (0x200040, 1), (0x200042, 1), (0x200050, 1), (0x200060, 1), (0x200062, 1), (0x200064, 1),
    (0x200066, 1), (0x200068, 1), (0x200070, 1), (0x200078, 1)] }

/-- Record 2^16 and an invalid record; another context's; one with tiles outstanding; no fault. -/
theorem meets_ReuseWords :
    let s := onRec 1 0 1 0 0
    s.curEng.grp = some (grpOf 1) ∧ 2 ^ 16 ≤ (BitVec.ofNat 64 (2 ^ 16)).toNat ∧ s.lrecValid 0 = false ∧ s.lrecValid 1 = true ∧
    (onRec 1 0 1 0 7).lrecCtx 1 ≠ s.curCore.ctx.toNat ∧ s.lrecCtx 1 = s.curCore.ctx.toNat ∧ (onRec 1 0 1 9 0).lrecOut 1 ≠ 0 ∧
    s.lrecOut 1 = 0 ∧ ¬2 ^ 20 - s.sched.tasks.length < s.lrecTiles 1 ∧ s.lrecTiles 1 ≠ 0 ∧ (onRec 0 0 1 0 0).lrecTiles 1 = 0 ∧
    2 ^ 20 - ({ s with mem := [(0x12A, 0x11)] } : State).sched.tasks.length < ({ s with mem := [(0x12A, 0x11)] } : State).lrecTiles 1 ∧
    (onRec 1 1 1 0 0).lrecSg 1 ≠ 0 ∧ (onRec 1 1 1 0 0).lrecTiles 1 % shapeSize ((onRec 1 1 1 0 0).lrecSg 1) ≠ 0 ∧ s.lrecSg 1 = 0 ∧
    s.noneHeld = true ∧ (s.releaseAt s.cur.1 s.cur.2 3 0xF).released s.cur.1 3 0xF = true ∧
    (s.releaseAt s.cur.1 s.cur.2 3 0xF).noneHeld = true ∧ (s.releaseAt s.cur.1 s.cur.2 3 0xF).lrecTiles 1 ≠ 0 ∧
    ((onRec 0 0 1 0 0).releaseAt s.cur.1 s.cur.2 3 0xF).lrecTiles 1 = 0 ∧
    bitsOf ((s.releaseAt s.cur.1 s.cur.2 3 0xF).lrecWord 1 0x20) 0 16 = 0 ∧ (onRec 1 0 0 0 0).lrecClass 1 = 0 ∧ s.lrecClass 1 ≠ 0 := by
  decide +kernel
def isBad : ClassRead → Bool
  | .bad _ _ => true
  | _ => false
/-- Class 2 is bad; class 1 has one entry, at the start of buffer 1. -/
theorem meets_ReuseWords_class :
    isBad ((onRec 1 0 2 0 0).readClass (onRec 1 0 2 0 0).whoCur ((onRec 1 0 2 0 0).lrecClass 1) 0).2 = true ∧
    ([onRec 1 0 1 0 0, (onRec 1 0 1 0 0).releaseAt 0 .S 3 0xF].all (fun s =>
     match s.readClass s.whoCur (s.lrecClass 1) (s.lrecSg 1) with
     | (u, .ok k) => u.entryIndex k 1 0 == some 0 && u.entryIndex k 1 1 == none && u.entryIndices k 1 == [0] && k.ebuf == 1 &&
         (match accOf u .none k.ebuf (entryForm .read) [((k.eoff + 32 * 0 : Nat) : Int)] false with
          | some (ps, t) => firstBad (t.loadPlaces t.cur.1 t.curKid ps.flatten).2 == 0
          | none => false) &&
         (accOf u .none k.ebuf (entryForm (.atomic false)) [((k.eoff + 32 * 0 : Nat) : Int)] true).isSome
     | _ => false)) = true := by decide +kernel

/-- The commands ACPY, AFILL, AFERRY and ACOLL with buffer 1 and the scratchpad, and the object at the end of buffer 1. -/
theorem meets_AsyncWords :
    let s := (onRec 1 0 1 0 0).modEng 0 .S (fun g => { g with regs := [(1, .clean 1), (2, .clean 64)] })
    (([(0, [.s 1, .s 0, .s 2]), (1, [.s 1, .s 0, .s 2]), (4, [.s 1, .s 0, .s 2]), (5, [.s 1, .s 0])] : List (Nat × List SSrc)).all
      (fun x => s.queueRoom s.cur.1 x.1 0 && !s.rangesHeld s.whoCur (cmdRanges x.1 (s.vals x.2) [] (boRefWord ⟨1, 255⟩)) &&
        (match s.planCmd s.whoCur s.cur.1 x.1 (s.vals x.2) (boRefWord ⟨1, 255⟩) [] 0 with
          | (u, .ready ds) => ds == [] && !u.swapping s.cur.1 x.1 (s.vals x.2)
          | _ => false))) = true ∧
    s.curEng.grp = some (grpOf 1) ∧ s.curCore.task = some RunTask.bare ∧ s.info RunTask.bare.slot = some tInfo ∧
    tInfo.cmds.find? 0 = none ∧ tInfo.cmds.find? 63 = none := by decide +kernel
/-- A slot whose command is done, after one whose command runs. -/
theorem meets_AsyncWords_tag :
    let z (st : Nat) : CmdSlot := { st := st, kind := 0, err := 0, doneb := 0, cmd := 0 }
    let x := { tInfo with cmds := [(0, z 2), (1, z 5)] }
    x.cmds.find? 1 = some (z 5) ∧ x.cmds.find? 0 = some (z 2) ∧ (z 2).st ≠ 0 ∧ (z 2).st ≠ 5 ∧ (z 2).st ≠ 6 := by decide
/-- AGATH and ASCAT with their descriptor at the start of buffer 1: one row of 4 bytes. -/
theorem meets_AsyncWords_rows :
    let s := (onRec 1 0 1 0 0).modEng 0 .S (fun g => { g with regs := [(1, .clean 1), (2, .clean 64)] })
    ∃ ps v, s.Accesses .none (bitsOf (s.val (.s 1)) 0 16) { need := .read, es := 32, align := 32, noView := true }
        [(bitsOf (s.val (.s 1)) 16 48 : Int)] false ps v ∧
      (let r := v.prepare s.cur.1 s.curKid ps.flatten
       let w := r.afterLoad s.cur.1 ps.flatten
       let bs := ps.flatten.map (r.loadByte s.cur.1 s.curKid)
       let ws := (List.range 4).map (fun i => leWord (((bs.drop (8 * i)).take 8).map (fun b => b.1)))
       firstBad bs == 0 && !rowBad w w.cur.1 (RowDesc.of ws) && refOff (RowDesc.of ws).idx % 4 == 0 &&
         [2, 3].all (fun kind => s.queueRoom s.cur.1 kind 0 &&
           !w.rangesHeld w.whoCur (cmdRanges kind [s.val (.s 1)] ws (boRefWord ⟨1, 255⟩)) &&
           (match w.planCmd w.whoCur w.cur.1 kind [s.val (.s 1)] (boRefWord ⟨1, 255⟩) ws w.memberNo with
             | (_, .ready ds) => ds == ws
             | _ => false))) = true :=
  accesses_of _ (by decide +kernel)
theorem meets_AsyncWords_astat :
    let z : CmdSlot := { st := 2, kind := 4, err := 255, doneb := 2 ^ 48 - 1, cmd := 0 }
    let s := (inGrp .S 1).modInfo 0 (fun x => { x with cmds := [(0, z)] })
    s.curEng.grp = some (grpOf 1) ∧ s.curCore.task = some RunTask.bare ∧ s.info RunTask.bare.slot = some { tInfo with cmds := [(0, z)] } ∧
    ({ tInfo with cmds := [(0, z)] } : TaskInfo).cmds.find? (0 : Word).toNat = some z ∧ z.st < 8 ∧ z.kind < 32 ∧ z.err < 256 ∧
    z.doneb < 2 ^ 48 := by decide

theorem bad_none {s : State} (a : s.stor.poison = []) (b : s.stor.badWords = []) (k : Nat) : s.badAt k = 0 := by
  unfold State.badAt
  simp [a, b]

theorem shoal_no_peer (n layer off : Nat) : isPeer (shoalKey n layer off) = false := by
  simp only [isPeer, shoalKey, Bool.or_eq_false_iff, beq_eq_false_iff_ne]
  omega
/-- A bank that keeps every page, with no error, nothing moved and nothing in exchange. -/
theorem clear_ok {s : State} (a : s.stor.unserved = []) (b : s.stor.poison = []) (c : s.stor.badWords = [])
    (d : s.stor.frames = [] ∧ s.stor.moving = [] ∧ s.stor.moved = []) (n layer off len : Nat) : s.bankClear n layer off len := by
  rintro i _ - rfl
  have h : s.place (shoalKey n layer (s.bankOff n layer off + i)) = shoalKey n layer (s.bankOff n layer off + i) := by
    simp [State.place, d.2.2]
  exact ⟨by simp [a], bad_none b c _, by simp [State.ferried, State.heldUnit, d.1, d.2.1, h, shoal_no_peer]⟩

/-- M with a group in issue, its command words in s1 to s4: WCODE 3, one row streamed of layer 1, one row resident. -/
def onM : State := (inGrp .M 1).modEng 0 .M (fun g =>
  { g with regs := [(1, .clean 0x30), (2, .clean (2 ^ 8 + 2 ^ 18 + 2 ^ 19)), (3, .clean (2 ^ 8)), (4, .clean (2 ^ 32))] })
theorem meets_MatrixWords :
    onM.curEng.grp = some (grpOf 1) ∧ (grpOf 1).again = false ∧
    wcode ((onM.val (.s 0)).setWidth 13) = wcode onM.curCore.mcfg ∧ wcode ((onM.val (.s 1)).setWidth 13) ≠ wcode onM.curCore.mcfg ∧
    mmaStrm (onM.val (.s 2)) = true ∧ mmaStrm (onM.val (.s 3)) = false ∧
    (∀ layer off n, onM.bankClear onM.cur.1 layer off n) ∧ mIsMx 5 = true ∧ mIsMx (wcode onM.curCore.mcfg) = false :=
  ⟨by decide, by decide, by decide, by decide, by decide, by decide,
    clear_ok (by decide) (by decide) (by decide) (by decide) _, by decide, by decide⟩

-- engines, tasks and the dispatcher

def memOf (l : List (Nat × Nat)) : Memory := l.foldl (fun m x => m.putWord x.1 (BitVec.ofNat 64 x.2)) []

/-- Its context and its page tables, its communicator, buffers 1 and 2. -/
def ctxMem : Memory := [
  (0x80000, 2), (0x80002, 32), (0x80007, 128), (0x8000A, 10), (0x80012, 1), (0x80013, 4), (0xA0000, 1), (0xA0001, 16),
  (0xA0002, 10), (0xA1000, 1), (0xA1001, 32), (0xA1002, 10), (0xA2000, 23)]
def commMem : Memory := [
  (0xB0000, 2), (0xB0007, 128), (0xB0008, 2), (0xB000C, 255), (0xB000D, 255), (0xB0011, 1), (0xB0012, 11)]
def bufMem : Memory := [
  (0x200022, 1), (0x200027, 128), (0x200029, 16), (0x20002E, 143), (0x20002F, 1), (0x200032, 255), (0x200033, 255),
  (0x200043, 128), (0x200047, 128), (0x200049, 16), (0x20004E, 143), (0x20004F, 1), (0x200052, 255), (0x200053, 255)]
/-- A package with its bases set: context 0 with one gigabyte page, buffer 1 of 4,096 bytes of HBM at 0x10000, launch record 1,
task record 0 of it, a free save block, communicator 0 of two ranks here, buffer 2 in no page, and reuse class 1 with its entries,
anchors, log and keys in buffer 1. A code image at the start of buffer 1 gives engine L a section of one word. -/
def pkgMem : Memory := [
  (0x10000, 32), (0x10020, 255), (0x10021, 255), (0x10022, 255), (0x10023, 255), (0x10024, 255), (0x10025, 255),
  (0x10026, 1), (0x10034, 255), (0x10035, 255), (0x10036, 255), (0x10037, 255), (0x10038, 255), (0x10039, 255),
  (0x40000, 1), (0x40020, 1), (0x50128, 1), (0x50131, 128), (0x50132, 1), (0x70002, 12)] ++ ctxMem ++ commMem ++ bufMem ++ [
  (0x400040, 1), (0x400042, 1), (0x400050, 1), (0x400060, 1), (0x400062, 1), (0x400064, 1), (0x400066, 1), (0x400068, 1),
  (0x40006B, 1), (0x400070, 1), (0x400073, 2), (0x400078, 1), (0x40007B, 4)]
/-- The words of those bytes. -/
theorem pkgMem_words : pkgMem = memOf [
  (0x10000, 32), (0x10020, 0x0001FFFFFFFFFFFF), (0x10034, 0x0000FFFFFFFFFFFF),
  (0x40000, 1), (0x40020, 1),
  (0x50128, 1), (0x50130, 0x18000), (0x70000, 0xC0000),
  (0x80000, 2 ^ 63 + 0x200000 + 2), (0x80008, 0xA0000), (0x80010, 2 ^ 26 + 2 ^ 16),
  (0xA0000, 0xA1001), (0xA1000, 0xA2001), (0xA2000, 0x17),
  (0x200020, 0x8000000000010000), (0x200028, 0x018F000000001000), (0x200030, 0xFFFF0000),
  (0x200040, 0x8000000080000000), (0x200048, 0x018F000000001000), (0x200050, 0xFFFF0000), (0xB0000, 2 ^ 63 + 2), (0xB0008, 0xFFFF00000002),
  (0xB0010, 0xB0100), (0x400040, 0x10001), (0x400050, 1), (0x400060, 2 ^ 48 + 2 ^ 32 + 2 ^ 16 + 1), (0x400068, 1 + 2 ^ 24),
  (0x400070, 1 + 2 ^ 25), (0x400078, 1 + 2 ^ 26)] := by decide +kernel
def pkg : State :=
  let s := State.reset
  { s with
    mem := pkgMem
    mgmt := { s.mgmt with keys := [(1, { k1 := 0, k2 := 0, gen := 1 })] }
    host := { s.host with lpbase := 0x50000, rsbase := 0x40000, sdbase := 0x60000, srbase := 0x70001, ctxt := 0x80000, cmbase := 0xB0000, srtail := 1 }
    evq := { s.evq with base := 0x90, log2n := 6 }
    cryo := { s.cryo with st := 4, band := 0 }
    sched := { s.sched with tasks := [(0, { tInfo with resident := true })] } }
/-- Core 0 runs the task of record 0 in context 0, its engines as `g` sets them. -/
def runTask : RunTask := { RunTask.bare with cbuf := 1, streams := [32, 32, 32, 32], lrec := 1 }
def pkgRun (g : Engine → Engine) : State :=
  (pkg.modCore 0 (fun k => { k with task := some runTask, btbase := 1, btlast := 2, ptroot := 0xA0
                                    eL := g k.eL, eM := g k.eM, eX := g k.eX, eS := g k.eS }))

/-- LARM of a record whose DBO is the object at the end of buffer 1. -/
theorem meets_ReuseWords_dbo :
    let s := pkgRun (fun g => { g with grp := some (grpOf 1) })
    let s := { s with mem := s.mem.putWord 0x50120 0xFF00001 }
    let r := s.releaseAt s.cur.1 s.cur.2 3 0xF
    s.noneHeld = true ∧ s.lrecValid 1 = true ∧ s.lrecCtx 1 = s.curCore.ctx.toNat ∧ s.lrecOut 1 = 0 ∧ s.lrecTiles 1 ≠ 0 ∧
    s.lrecTiles 1 ≤ 2 ^ 20 - s.sched.tasks.length ∧ s.lrecSg 1 = 0 ∧
    r.released s.cur.1 3 0xF = true ∧ r.lrecTiles 1 ≠ 0 ∧ bitsOf (r.lrecWord 1 0x20) 0 16 ≠ 0 ∧
    (match (r.readDbo s.cur.1 1 (r.taskEv s.cur.1 { kind := 6, eng := engIdx s.cur.2, pc := (r.eng s.cur.1 s.cur.2).pc.toNat })).2 with
     | .at_ _ _ => true
     | _ => false) = true := by decide +kernel
def flight (done : Nat) : Flight where
  soon := done
  owing := false
  sect := { num := 2, hdr := 0, len := 4, base := 8 }
  pc := 20
  later := ⟨[], [], [], [], [], [], Plane.reset, Plane.reset, [], 0, 0, 0, 0⟩
  unit := .drain
  unit2 := .none
  busy := done
  done := done
  posts := 1
  pops := 0
  flags := 0x10
  writes := []
  reads := []
  banks := 0
  matrix := true
  redo := none
def gang (gsc : Word) : Gang where
  cores := [0, 1, 2, 3]
  gsc := gsc
  slip := []
  stall := false
  g := none
  shape := 1
  pod := none
  ended := []
  late := []
  held := []
  away := []
/-- M of core 0 of a quad gang stands before `MZA` with stamp 5. -/
def onStamp (gsc : Word) (slip : Bool) (fl : List Flight) : State :=
  let s := (onCore .M).modEng 0 .M (fun g => g.atWords [(encode (.mza h0 0 5)).getD 0])
  let s := s.modCore 0 (fun k => { k with task := some { RunTask.bare with gang := some 0 }, flight := fl })
  { s with sched := { s.sched with gangs := [(0, gang gsc)] }, cryo := { s.cryo with slip := slip } }


/-- The oldest command completes before a later one; the last one, after which section 2 has retired; one that completes early, in band B2;
and one that has completed and waits to post. -/
theorem meets_EngineEvents_matrix :
    let s := { (onCore .M).modCore 0 (fun k => { k with flight := [flight 5, flight 6] }) with cyc := 5 }
    let u := { ((onCore .M).modCore 0 (fun k => { k with flight := [flight 5] })).modEng 0 .M (fun g => { g with retiring := some 2 }) with
      cyc := 5 }
    (s.core 0).flight = flight 5 :: [flight 6] ∧ (flight 5).owing = false ∧
    (s.core 0).room .M ({ flight 5 with owing := true } : Flight).posts = true ∧
    (flight 5).done ≤ s.cyc.toNat ∧ ((s.land 0 .M).core 0).room .M (flight 5).posts = true ∧
    (u.core 0).flight = flight 5 :: [] ∧ ((u.land 0 .M).eng 0 .M).retiring = some 2 ∧
    ((u.land 0 .M).core 0).room .M (flight 5).posts = true ∧
    ({ s with cyc := 3, cryo := { s.cryo with band := 2 } } : State).earlyBand = true ∧ ({ flight 6 with soon := 3 } : Flight).soon ≤ 3 := by
  decide +kernel
/-- M of core 0 stands before its command with target 5, its gang's clock at `gsc`. -/
def Stands (s : State) (gsc : Word) (slip : Bool) : Prop :=
  s.stamped 0 = some (.mza h0 0 5, 5) ∧ (s.core 0).task.bind RunTask.gang = some 0 ∧ s.sched.gangs.find? 0 = some (gang gsc) ∧
  s.cryo.slip = slip ∧ s.gsc 0 = gsc ∧ (s.beforeNext 0).isSome = true
theorem stands_ahead : Stands (onStamp 4 true [flight 6]) 4 true := by unfold Stands; decide +kernel
theorem stands_late : Stands (onStamp 6 false [flight 6]) 6 false ∧ Stands (onStamp 6 true [flight 6]) 6 true := by
  unfold Stands
  decide +kernel
theorem stands_held : Stands (onStamp 5 false [flight 6]) 5 false ∧ Stands (onStamp 5 true [flight 6]) 5 true := by
  unfold Stands
  decide +kernel
/-- A stamp not reached, one passed without slip and with it, and one reached by a command that cannot act, in both modes. -/
theorem meets_EngineEvents_stamp :
    Stands (onStamp 4 true [flight 6]) 4 true ∧
    (Stands (onStamp 6 false [flight 6]) 6 false ∧ Stands (onStamp 6 true [flight 6]) 6 true) ∧
    (Stands (onStamp 5 false [flight 6]) 5 false ∧ Stands (onStamp 5 true [flight 6]) 5 true) ∧
    (onStamp 5 false [flight 6]).acts 0 (.mza h0 0 5) = false ∧ (onStamp 5 true [flight 6]).acts 0 (.mza h0 0 5) = false ∧
    (gang 5).late.contains 0 = false ∧ (gang 5).slip.has 0 = false ∧ (4 : Word) < 5 ∧ (5 : Word) < 6 :=
  ⟨stands_ahead, stands_late, stands_held, by decide +kernel, by decide +kernel, by decide, by decide, by decide, by decide⟩
/-- L enters a section of one word, and X ends its stream. -/
def enters (s : State) (e : Eng) (len : Nat) : Bool :=
  match s.sectCode 0 e runTask 0 2 with
  | (u, .ok bs) => (s.sectBlocked 0 e runTask 0 2).isNone && bitsOf (leWord bs) 48 16 == len &&
    (let x := u.modEng 0 e (fun g => { g with sect := { g.sect with len := len, base := BitVec.ofNat 16 ((s.eng 0 e).sect.hdr + 8) } })
     match x.sectCode 0 e runTask 8 (3 * len) with
      | (v, .ok _) => (x.sectBlocked 0 e runTask 8 (3 * len)).isNone && v.waitsMet 0 e (leWord bs)
      | _ => false)
  | _ => false
theorem meets_EngineEvents_section :
    let s := pkgRun (fun g => { g with phase := .entering })
    let s := s.modEng 0 .X (fun g => { g with sect := { g.sect with hdr := 20 } })
    (s.core 0).task = some runTask ∧ (∀ e ∈ [Eng.L, .X], (s.eng 0 e).phase = .entering ∧ (s.eng 0 e).sup = none ∧ (s.eng 0 e).grp = none ∧
      (s.eng 0 e).idleNow runTask e = false ∧ s.unretired 0 e = false ∧ runTask.streams.getD (engIdx e) 0 ≠ 0) ∧
    s.reqOpen 0 = false ∧ enters s .L 1 = true ∧ enters s .X 0 = true := by decide +kernel
theorem meets_EngineEvents_post :
    let s := (inGrp .L 1).modEng 0 .L (fun g => { g with owed := some { pops := 0, posts := 7, flow := .next } })
    (s.eng 0 .L).grp = some (grpOf 1) ∧ (s.eng 0 .L).owed = some { pops := 0, posts := 7, flow := .next } ∧ ((s.land 0 .L).core 0).unlanded .L = false ∧
    (s.land 0 .L).unretired 0 .L = false ∧
    (s.land 0 .L).behind 0 .L = false ∧ ((s.land 0 .L).core 0).room .L 7 = true := by decide

/-- L waits inside BOWAIT on 1 of the object at the end of buffer 1, whose phase is 0. -/
theorem meets_WaitEvents_bowait :
    let i : Instr := .bowait h0 (.s 6) (.s 4) ⟨.imm 1, .s 5, 0, .acq .pkg⟩
    let r : Grp := { grpOf 1 with first := 0 }
    let s := (onHbm .L 1).modEng 0 .L (fun g => { g.atWords [(encode i).getD 0] with
      regs := [(4, .clean 1), (5, .clean 0xFF0)], grp := some r, inside := some (.bowait false) })
    (s.eng 0 .L).inside = some (.bowait false) ∧ (s.eng 0 .L).grp = some r ∧ s.memberInstr 0 .L (r.pcOf r.idx) = some i ∧
    ({ s with cur := (0, .L) } : State).memRef ⟨.imm 1, .s 5, 0, .acq .pkg⟩ 16 = (1, 0xFF0) ∧
    (∃ ps t, ({ s with cur := (0, .L) } : State).Accesses .none 1 (boForm .read) [0xFF0] true ps t ∧
      (let u := (t.toHome t.cur.1 (lineOf (keyOf ps))).reach [lineOf (keyOf ps)]
       u.boBad (keyOf ps) == false && (u.boAt u.curKid (keyOf ps)).phase != 1) = true) ∧
    bitsOf (({ s with cur := (0, .L) } : State).val (.s 4)) 0 1 = 1 :=
  ⟨by decide, by decide, by decide +kernel, by decide, accesses_of (fun ps t =>
      let u := (t.toHome t.cur.1 (lineOf (keyOf ps))).reach [lineOf (keyOf ps)]
      u.boBad (keyOf ps) == false && (u.boAt u.curKid (keyOf ps)).phase != 1) (by decide +kernel), by decide⟩
/-- A quad gang of which core 0 has arrived at the level, at cycle 4; the other tasks have ended. -/
def arrivedAt (lv : Level) (pod : Option Nat) : State :=
  let f (g : Engine) : Engine := { g with arrived := some (levelRank lv, 5) }
  let s := State.reset.modCore 0 (fun k => { k with
    task := some { RunTask.bare with gang := some 0 }, eL := f k.eL, eM := f k.eM, eX := f k.eX, eS := f k.eS })
  { s with cyc := 20, sched := { s.sched with gangs := [(0, { gang 0 with pod := pod })] } }
theorem meets_WaitEvents_episode : ∀ x ∈ [(Level.quad, (none : Option Nat)), (.pod, some 0)],
    let s := arrivedAt x.1 x.2
    let g : Gang := { gang 0 with pod := x.2 }
    (x.1 = .pod → g.pod.isSome = true) ∧ (s.core 0).task.bind RunTask.gang = some 0 ∧ s.sched.gangs.find? 0 = some g ∧
    (∀ c ∈ g.cores, c ∈ levelUnit x.1 0 → (s.coreArrived 0 c x.1).any (· ≤ 5) = true) ∧
    5 + (match x.1 with
      | .quad => 8 | .die => 40 | .pkg => 120 | .pod => 0) ≤ s.cyc.toNat + 1 := by decide +kernel
/-- A batch of two additions to one element; a line that is pinned and one that is not. -/
theorem meets_WaitEvents_storage : ∀ pin ∈ [true, false],
    let l := lineAt pin
    let b : Batch := { op := .add, ty := .i32, ops := [(0x10000, 5, none), (0x10000, 6, none)], kid := 1 }
    let s := State.reset.modCore 0 (fun k => { k with l1 := [(7, l)] })
    let s : State := { s with stor := { s.stor with batches := [(0x200, b)] } }
    s.stor.batches.find? 0x200 = some b ∧ b.ops ≠ [] ∧ (∀ o ∈ b.ops, o.1 = 0x10000) ∧ s.badAt 0x10000 = 0 ∧
    2 ^ 32 - 1 < 2 ^ Ty.i32.width ∧ (s.core 0).l1.find? 7 = some l ∧ l.pinned = pin ∧ s.lineHeld 0 7 = false ∧ l.dirty = 0 ∧
    s.mayGo 0 7 ({ l with dirty := 1 } : Line).last = true := by decide +kernel

/-- L of core 0 waits for a token inside a group, its watchdog at the bound; then its phase timer is due. -/
theorem meets_TimerSaveEvents :
    let s := (inGrp .L 1).modEng 0 .L (fun g => { g with wdog := 10, csr := { g.csr with blocked := true, reason := 0x06 } })
    let s : State := { s with host := { s.host with polwd := 10 } }
    let u := (onCore .L).modEng 0 .L (fun g => { g with phtDue := true })
    (s.core 0).task = some RunTask.bare ∧ bitsOf s.host.polwd 0 48 ≠ 0 ∧ bitsOf s.host.polwd 0 48 ≤ (s.eng 0 .L).wdog ∧
    s.wdogRuns 0 .L = true ∧ unwatched (s.eng 0 .L).csr.reason = false ∧ RunTask.bare.delivering .L = false ∧ (s.eng 0 .L).page = false ∧
    RunTask.bare.killing = false ∧ s.owingOf 0 .L = none ∧ u.owingOf 0 .L = none ∧ s.waitOver 0 .L = false ∧ (s.eng 0 .L).idleNow RunTask.bare .L = false ∧ (s.eng 0 .L).grp = some (grpOf 1) ∧
    (s.eng 0 .L).owed = none ∧ (u.core 0).task = some RunTask.bare ∧ (u.eng 0 .L).phaseNow = true ∧
    (u.eng 0 .L).idleNow RunTask.bare .L = false ∧ (u.eng 0 .L).grp = none := by decide +kernel
theorem meets_TimerSaveEvents_request :
    let s := pkgRun (fun g => g)
    (s.core 0).task = some runTask ∧ runTask.gang = none ∧ runTask.request = none ∧ s.coreOf runTask.slot = some 0 ∧
    s.info runTask.slot = some { tInfo with resident := true } ∧
    (let x := { tInfo with resident := true, request := some 0 }
     let s := (s.modInfo 0 (fun _ => x))
     let s := { s with cyc := 10, host := { s.host with polpr := 10 } }
     s.coreOf runTask.slot = some 0 ∧ s.info runTask.slot = some x ∧ x.request = some 0 ∧ x.late = false ∧
     bitsOf s.host.polpr 0 48 ≠ 0 ∧ 0 + bitsOf s.host.polpr 0 48 ≤ s.cyc.toNat ∧ s.cryo.band ≠ 4 ∧ s.cryo.st ≠ 6) := by decide +kernel
theorem meets_TimerSaveEvents_save :
    let t := { runTask with request := some 0 }
    let s := (pkgRun (fun g => { g with parked := true })).modCore 0 (fun k => { k with task := some t })
    s.partHeld = false ∧ t.killing = false ∧ (s.core 0).task = some t ∧ (s.saveNow 0 t).isSome = true ∧ (s.release 0).released 0 3 0xF = true ∧
    (s.release 0).cmdsUnder t.slot = false ∧ (s.release 0).takeBlock.isSome = true := by decide +kernel

theorem meets_DispatchEvents :
    let t := { tInfo with resident := true }
    let a : State := { pkg with cyc := 1, host := { pkg.host with polage := 1 } }
    let w : State := { pkg with sched := { pkg.sched with tasks := [(0, { tInfo with resident := false })] } }
    w.partHeld = false ∧ (w.wanting512.take 512).contains 0 = true ∧
    pkg.isReady 0 = true ∧ a.info 0 = some t ∧ a.host.polage ≠ 0 ∧ a.isReady 0 = true ∧ a.slotPrio 0 < 7 ∧
    t.rise + a.host.polage.toNat ≤ a.cyc.toNat ∧ pkg.partHeld = false ∧ pkg.mayStage = true ∧ pkg.allowed 0 = true ∧
    (pkg.core 0).stage = none ∧ pkg.reserved 0 = none ∧ pkg.mayServe 0 = true ∧ pkg.isCand 0 0 t = true ∧ pkg.slotPrio 0 < 8 := by
  decide +kernel
theorem meets_DispatchEvents_choice :
    (match State.pickLevel { pkg with sched := { pkg.sched with served := (pkg.cyc.toNat + 1, 0) } } 0 8 with
     | some (slot, u) => slot == 0 && u.slotGang slot == false && u.headHeld slot == false && (u.stageFault slot).2.isNone
     | none => false) = true := by decide +kernel
theorem meets_DispatchEvents_start :
    let s := pkg.modCore 0 (fun k => { k with stage := some 0 })
    let r : State := { s with sched := { s.sched with units := [([0], [0])] } }
    (s.core 0).stage = some 0 ∧ s.partHeld = false ∧ s.canStart 0 = true ∧ s.reserved 0 = none ∧ (s.bindCore 0 0).slotSaved 0 = false ∧
    (r.core 0).stage = some 0 ∧ r.canStart 0 = true ∧ r.reserved 0 = some ([0], [0]) ∧ 0 ∈ [0] ∧ [0].all r.canStart = true := by
  decide +kernel

theorem meets_LeavingEvents_back :
    let s := pkgRun (fun g => { g with stopped := some .yield })
    s.partHeld = false ∧ (s.core 0).task = some runTask ∧ s.carryEng 0 = some (.L, .yield) ∧ runTask.halting = false ∧
    runTask.killing = false ∧ runTask.delivery = [] ∧ s.allStopped 0 = true ∧ (s.core 0).flight = [] ∧
    (s.release 0).released 0 3 0xF = true := by decide +kernel
/-- A software trap that a task reports at its end. -/
def trapped : Delivery where
  cause := 0x0A
  detail := 0
  code := 0
  eng := 0
  pc := 0
  page := false
/-- HALT with a trap to report, and four engines at the end of their streams. -/
theorem meets_LeavingEvents_end : ∀ t ∈ [{ runTask with halting := true, delivery := [trapped] }, runTask],
    let s := (pkgRun (fun g => { g with phase := .finished })).modCore 0 (fun k => { k with task := some t })
    s.partHeld = false ∧ (s.core 0).task = some t ∧ s.hasWaiter (.taskEnd 0) = false ∧ s.heldEvent t.slot = false ∧
    (s.release 0).released 0 3 0xF = true ∧ t.killing = false ∧ (t.halting = true ∨ (s.allFinished 0 = true ∧ t.delivery = [])) ∧
    s.quietEngs 0 t = true ∧ (∀ d ∈ t.delivery, d.page = false) ∧ s.evq.roomFor t.delivery.length = true ∧
    ((s.release 0).doneUpdate 0 t).2 = true ∧ (((s.release 0).doneUpdate 0 t).1.outputCredit 0 t).2 = true := by decide +kernel
theorem meets_LeavingEvents_kill :
    let t := { runTask with killing := true }
    let s := (pkgRun (fun g => { g with phase := .finished })).modCore 0 (fun k => { k with task := some t })
    s.partHeld = false ∧ (s.core 0).task = some t ∧ s.hasWaiter (.taskEnd 0) = false ∧ s.heldEvent t.slot = false ∧
    (s.release 0).released 0 3 0xF = true ∧ t.killing = true ∧ t.saving = false ∧ s.killable 0 t = true ∧ s.evq.roomFor 1 = true := by
  decide +kernel
/-- Record 0 in its probe: with an entry that is not valid, and in REPLAY with a valid entry and its bit in the log. -/
def probed (m : Memory) : State :=
  { pkg with mem := m, sched := { pkg.sched with tasks := [(0, { tInfo with toProbe := true, q := [1] })] } }
/-- The memory of the second. -/
def replayMem : Memory :=
  [(0x10105, 1), (0x10106, 1), (0x10440, 1), (0x40020, 1), (0x40027, 13), (0x50132, 1)] ++ ctxMem ++ bufMem ++ [(0x400040, 17),
    (0x400042, 1), (0x400050, 1), (0x400060, 1), (0x400062, 1), (0x400064, 1), (0x400066, 1), (0x400068, 1), (0x40006B, 1),
    (0x400070, 1), (0x400078, 1), (0x40007B, 4)]
def probes (s : State) (skip : Bool) : Bool :=
  match (s.beginAll [0]).beginProbe [0] with
  | (r, .ok ()) => r.probePlace 0 == some none &&
    (match r.probeBoth none [(0, 0)] with
     | (u, .ok [f]) => f.skip == skip && !u.entryMoved f && (!f.skip || (u.actSkip f).2)
     | _ => false)
  | _ => false
theorem meets_LeavingEvents_probe :
    ∀ x ∈ [((0x40027, 13) :: ctxMem, false), (replayMem, true)],
    let s := probed x.1
    s.partHeld = false ∧ s.hasWaiter (.probe 0) = false ∧ s.slotGang 0 = false ∧ s.probing 0 = true ∧ probes s x.2 = true := by
  decide +kernel
/-- The probe has begun, and another agent has written word 0 of the entry since. -/
theorem meets_LeavingEvents_probe_moved :
    let b := (((probed replayMem).beginAll [0]).beginProbe [0]).1
    let s := { b with mem := b.mem.putWord 0x10100 0 }
    s.partHeld = false ∧ s.hasWaiter (.probe 0) = false ∧ s.slotGang 0 = false ∧ s.probing 0 = true ∧
    (match (s.beginAll [0]).beginProbe [0] with
     | (r, .ok ()) => r.probePlace 0 == some none && (match r.probeBoth none [(0, 0)] with
       | (u, .ok [f]) => u.entryMoved f
       | _ => false)
     | _ => false) = true := by decide +kernel

-- agents beside the cores

/-- A reference to an offset of a buffer; the object at the end of buffer 1. -/
def ref (buf off : Nat) : Word := BitVec.ofNat 64 (buf + off * 65536)
def cmdOf (kind : Nat) (ops : List Word) (targets : List (Nat × Nat × Nat)) (st : Nat) : Cmd where
  kind := kind
  slot := 0
  tag := 0
  core := 0
  eng := 0
  tile := 0
  ctx := 0
  lrec := 1
  ops := ops
  bo := ref 1 0xFF0
  desc := []
  targets := targets
  st := st
  doneb := 0
  gang := none
  queue := none
  hold := false
  stop := 0
  landed := []
  parts := []
  marred := false
  read := []
def withCmd (x : Cmd) : State := { pkg with mem := ctxMem ++ bufMem, coll := { pkg.coll with cmds := [(0, x)] } }

/-- The premises that every granule shares. -/
def granuleReady (s : State) (x : Cmd) (t : Nat × Nat × Nat) : Prop :=
  s.cmd 0 = some x ∧ x.targets[0]? = some t ∧ x.hold = false ∧ x.kind ≠ 4 ∧ x.st ≠ 4 ∧ (s.stalled x.gang = false ∨ x.under 0 = true) ∧
  s.mayStart 0 x = true ∧ t.2.2 < x.granules ∧ x.total ≠ 0 ∧ x.landed.contains 0 = false
def lands (s : State) (x : Cmd) (t : Nat × Nat × Nat) (last : Bool) : Bool :=
  match s.moveGranule 0 x 0 t (t.2.2 * 65536) (Nat.min x.total (t.2.2 * 65536 + 65536)) (fun j => !x.parts.contains (0, j)) with
  | (u, y, .landed) =>
    (match (u.coverAhead 0 y 0 t.2.2).agentCredit (y.who u) 3 (refBuf y.bo) (refOff y.bo) 16 (y.ev { kind := 15 }) (BitVec.ofNat 64 y.tag) with
      | (_, .made) => (y.setTarget 0 (t.2.2 + 1)).dropRead.targets.all (fun z => y.granules ≤ z.2.2) == last
      | _ => false)
  | _ => false
def failsWith (s : State) (x : Cmd) (t : Nat × Nat × Nat) (cause : Nat) : Bool :=
  match (s.moveGranule 0 x 0 t 0 (Nat.min x.total 65536) (fun j => !x.parts.contains (0, j))).2.2 with
  | .fault f _ => f.fail.cause == cause
  | _ => false

/-- A copy of 2 bytes within buffer 1, and a fill of two cores. -/
theorem meets_CommandEvents :
    (let x := cmdOf 0 [ref 1 0x800, ref 1 0x900, 2] [(0, 0, 0)] 1
     granuleReady (withCmd x) x (0, 0, 0) ∧ lands (withCmd x) x (0, 0, 0) true = true) ∧
    (let x := cmdOf 1 [ref 1 0x800, 2 ^ 33, 16] [(0, 0, 0), (1, 0, 0)] 1
     granuleReady (withCmd x) x (0, 0, 0) ∧ lands (withCmd x) x (0, 0, 0) false = true) := by
  unfold granuleReady
  decide +kernel
/-- A source in no page; one past its buffer. -/
theorem meets_CommandEvents_faults :
    (let x := cmdOf 0 [ref 2 0, ref 1 0x900, 2] [(0, 0, 0)] 1
     granuleReady (withCmd x) x (0, 0, 0) ∧ failsWith (withCmd x) x (0, 0, 0) 1 = true) ∧
    (let x := cmdOf 0 [ref 1 0xFFF, ref 1 0x900, 2] [(0, 0, 0)] 1
     granuleReady (withCmd x) x (0, 0, 0) ∧ failsWith (withCmd x) x (0, 0, 0) 2 = true) := by
  unfold granuleReady
  decide +kernel
/-- A FAULTED copy whose page has come, and one whose page has not. -/
theorem meets_CommandEvents_restart :
    ∀ y ∈ [(1, false), (2, true)], let x := cmdOf 0 [ref y.1 0x800, ref 1 0x900, 2] [(0, 0, 0)] 4
    let s := withCmd x
    s.cmd 0 = some x ∧ x.targets[0]? = some (0, 0, 0) ∧ x.hold = false ∧ x.kind ≠ 4 ∧ x.st = 4 ∧ x.stop = 0 ∧ x.gang = none ∧
    (((s.runGranule 0 { x with st := 2 } 0 (0, 0, 0)).cmd 0).any (fun z => z.st == 4)) = y.2 := by decide +kernel
/-- The same of a gang whose stall wire stands for this fault alone, and for another command's too. -/
theorem meets_CommandEvents_gang :
    let x := { cmdOf 0 [ref 1 0x800, ref 1 0x900, 2] [(0, 0, 0)] 4 with gang := some 0 }
    let s := withCmd x
    let s := { s with sched := { s.sched with gangs := [(0, { gang 0 with stall := true })] } }
    let b := { s with coll := { s.coll with cmds := [(0, x), (1, { x with tag := 1 })] } }
    s.cmd 0 = some x ∧ x.stop = 0 ∧ s.gangFaults 0 (fun k => k != 0) = false ∧
    (((s.runGranule 0 { x with st := 2 } 0 (0, 0, 0)).cmd 0).any (fun z => z.st == 4)) = false ∧
    b.cmd 0 = some x ∧ b.gangFaults 0 (fun k => k != 0) = true := by decide +kernel
/-- A ferry of frames 2 and 3 that finds a pin, and one that does not; the frames of the exchange itself. -/
theorem meets_CommandEvents_ferry :
    let l := lineAt true
    let x := cmdOf 4 [0x20000, 0x30000, 0] [(0, 0, 0)] 1
    let s := (withCmd x).modCore 0 (fun k => { k with l1 := [(1024, l)] })
    let y := cmdOf 4 [0x20000, 0x30000, 0] [(0, 0, 0)] 2
    s.cmd 0 = some x ∧ x.kind = 4 ∧ s.framesOf x = [2, 3] ∧ (x.targets.headD (0, 0, 0)).2.2 = 0 ∧ x.st = 1 ∧
    s.stalled x.gang = false ∧ s.stor.frames.length < 32 ∧ s.heldUnit 2 = false ∧ s.heldUnit 3 = false ∧ s.pinnedAny (frameLines 2 ++ frameLines 3) = true ∧
    (withCmd y).cmd 0 = some y ∧ (withCmd y).framesOf y = [2, 3] ∧ y.st = 2 ∧
    (withCmd y).pinnedAny (frameLines 2 ++ frameLines 3) = false := by decide +kernel
theorem meets_CommandEvents_swap : (onHbm .S 1).mem.wf = true ∧ 2 ≠ 3 ∧ 65535 < 65536 ∧
    (∀ x ∈ (onHbm .S 1).sched.tasks, x.2.watch = none ∧ x.2.home = none) := by decide

/-- A running program of rank 0 of communicator 0, its record at 0x200 and its program at 0x600 of buffer 1, TMO 5. -/
def prog : Prog :=
  { Prog.new 0 0 none 0 1 0 0 0 2 (ref 1 0x600) 0 (ref 1 0xFF0) with
    hdr := [2 ^ 32 * 5 + 8, ref 1 0x200] ++ List.replicate 22 0
    started := true }
def withProg (p : Prog) : State := { pkg with coll := { pkg.coll with progs := [(0, p)], cur := 0 }, wall := 5 }

def argsOf (pm : BitVec 2) (peer : BitVec 16) (slot : BitVec 8) (len : BitVec 32) : StepArgs :=
  { slot := slot, peer := peer, rop := 0, ty := 0, hb := 0, ha := 0, c := false, sb := false, sa := false, ix := false, li := false,
    pm := pm, len := len }
def endOf : StepEnd → Nat
  | .done _ _ => 0
  | .stay _ => 1
  | .stop _ _ _ => 2
/-- WAIT that is met and that is not; ENDL without a loop; LOOP; the two ends of ENDL; SIGNAL. -/
theorem meets_CollectiveSteps :
    let s := withProg prog
    s.coll.cur = 0 ∧ s.prog? 0 = some prog ∧ prog.runnable = true ∧ prog.phase = 0 ∧ s.stalled prog.gang = false ∧
    ((argsOf 0 0 3 0).li || (argsOf 0 0 3 0).sa || (argsOf 0 0 3 0).sb) = false ∧
    Instr.wf .L (.wait (argsOf 0 0 3 0)) = true ∧ endOf (s.waitStep prog (argsOf 0 0 3 0)).2 = 0 ∧
    (argsOf 0 0 3 0).len.toNat ≤ prog.sig.get (argsOf 0 0 3 0).slot.toNat 0 ∧
    Instr.wf .L (.wait (argsOf 0 0 3 1)) = true ∧ endOf (s.waitStep prog (argsOf 0 0 3 1)).2 = 1 ∧
    Instr.wf .L (.endl (argsOf 0 0 0 0)) = true ∧ endOf (s.endlStep prog).2 = 2 ∧
    Instr.wf .L (.collLoop (argsOf 0 0 0 2)) = true ∧ prog.loops.length < 4 ∧ (argsOf 0 0 0 2).len ≠ 0 ∧
    ({ prog with loops := [(4, 0, 2)] } : Prog).loops = (4, 0, 2) :: [] ∧ 0 + 1 < 2 ∧ 2 ≤ 1 + 1 ∧
    Instr.wf .L (.collSignal (argsOf 1 1 3 0)) = true ∧ prog.peerOf (argsOf 1 1 3 0) = some 1 ∧
    s.hasPath (s.pkgOf prog.comm 1) = true ∧ s.openMsgs prog isWrite = false ∧
    ({ s with coll := { s.coll with epochs := [(1, 1)] } } : State).epochHeld prog 1 = false ∧ s.stor.cut.contains 0 = false ∧
    ({ s with stor := { s.stor with cut := [0] } } : State).stor.cut.contains 0 = true := by decide +kernel
/-- Programs whose communicator is in order and is not; a waiting step. -/
theorem meets_CollectiveSteps_start :
    ∀ n ∈ [2, 3], let p := { prog with started := false, hdr := [], nrank := n }
    let s := { withProg p with mem := ctxMem ++ commMem ++ bufMem }
    s.prog? 0 = some p ∧ p.started = false ∧ p.status = none ∧ p.hdr = [] ∧ s.stalled p.gang = false ∧
    (match s.readWords (p.who s) p.cbuf 0 24 with
     | (u, .ok ws) =>
       let q := { p with hdr := ws, comm := bitsOf (ws.getD 0 0) 16 16 }
       u.progBehind 0 q == false && u.commOk q == (n == 2)
     | _ => false) = true := by decide +kernel
theorem meets_CollectiveSteps_again :
    let p := { prog with cur := some (.wait (argsOf 0 0 3 1)), phase := 1 }
    (withProg p).prog? 0 = some p ∧ p.cur = some (.wait (argsOf 0 0 3 1)) := by decide

/-- The same program with an exchange area at 0x300 of buffer 1, a mask at 0x280, and handles h0 at 0x800 and h1 at 0x900. -/
def dataProg : Prog := { prog with
  hdr := [2 ^ 32 * 5 + 8, ref 1 0x200, ref 1 0x300, ref 1 0x280, ref 1 0x800, ref 1 0x900] ++ List.replicate 18 0 }
def got {α : Type} (p : State → α → Bool) : State × Got α → Bool
  | (s, .ok x) => p s x
  | _ => false
/-- SEND of 16 bytes to the next rank, with its length in the step and in the exchange area; RECV of none and of some; a step whose PM 3
names no rank. -/
theorem meets_CollectiveDataSteps_send :
    let p := dataProg
    let s := withProg p
    let a : StepArgs := { argsOf 1 1 0 16 with hb := 1 }
    s.coll.cur = 0 ∧ s.prog? 0 = some p ∧ p.runnable = true ∧ p.phase = 0 ∧ s.stalled p.gang = false ∧ Instr.wf .L (.send a) = true ∧
    p.peerOf a = some 1 ∧ s.hasPath (s.pkgOf p.comm 1) = true ∧ s.epochHeld p 1 = false ∧
    got (fun _ bs => bs.length == 16) (s.streamRead (p.who s) (refBuf (p.handle a.ha)) (refOff (p.handle a.ha)) 16) = true ∧
    Instr.wf .L (.send { a with ix := true, len := 0 }) = true ∧
    got (fun u n => head0 n < 2 ^ 32 && got (fun v _ => got (fun v _ =>
        got (fun _ _ => true) (v.streamRead (p.who v) (refBuf (p.handle a.ha)) (refOff (p.handle a.ha)) 0))
      (v.xchg p 4 1 1)) (u.xchg p 2 1 1)) (s.xchg p 0 1 1) = true ∧
    Instr.wf .L (.recv (argsOf 1 1 0 0)) = true ∧ Instr.wf .L (.recv (argsOf 1 1 0 7)) = true ∧
    got (fun _ n => n == 7) (s.recvLen p (argsOf 1 1 0 7) 1) = true ∧ p.recv.get 1 0 < 7 ∧
    Instr.wf .L (.send { argsOf 3 2 0 16 with hb := 1 }) = true ∧ p.peerOf { argsOf 3 2 0 16 with hb := 1 } = none := by decide +kernel
/-- PUSHRED of two integers and its acceptance, PULL of their sum with a mask, COPY of 16 bytes. -/
theorem meets_CollectiveDataSteps_reduce :
    let p := dataProg
    let s := withProg p
    let a : StepArgs := { argsOf 0 0 3 8 with ty := 2 }
    let b : StepArgs := { a with hb := 1 }
    let c : StepArgs := { argsOf 0 0 0 16 with hb := 1 }
    let m : Msg := { comm := 0, src := 1, dst := 0, epoch := 0, step := 0, no := 0,
                     body := .result 3 0 (signature 2 0 2) [1, 0, 0, 0, 2, 0, 0, 0] [] [true, true] 0 false false }
    let t := { s with coll := { s.coll with inbox := [(0, m)] } }
    let q := { p with phase := 2, cur := some (.pushred a) }
    Instr.wf .L (.pushred a) = true ∧ redFields a = some 4 ∧ s.coll.pushed.contains (0 * 64 + 3) = false ∧ s.noReduce p.comm = false ∧
    s.commHome p.comm = 0xFFFF ∧ got (fun _ bs => bs.length == 8) (s.streamRead (p.who s) (refBuf (p.handle a.ha))
      (refOff (p.handle a.ha)) 8) = true ∧
    (withProg q).prog? 0 = some q ∧ q.runnable = true ∧
    Instr.wf .L (.pull b) = true ∧ redFields b = some 4 ∧ t.resultFor p 3 = some m ∧
    got (fun u _ => got (fun _ _ => true) (u.streamWrite (p.who u) (refBuf (p.handle b.hb)) (refOff (p.handle b.hb))
      ([1, 0, 0, 0, 2, 0, 0, 0].map (fun x => (x, false))))) (t.maskPlaces p 2) = true ∧
    Instr.wf .L (.collCopy c) = true := by decide +kernel
theorem meets_CollectiveDataSteps_copy :
    let p := dataProg
    let s := withProg p
    (match s.entryOf (p.who s) (refBuf (p.handle 0)) with
     | (u1, .ok x) => (match u1.entryOf (p.who s) (refBuf (p.handle 1)) with
       | (u2, .ok y) => copyUnit x y == some 2 &&
         (match u2.access (p.who s) (refBuf (p.handle 0)) { need := .read, es := 1, align := 1 } (offsFrom (refOff (p.handle 0)) 1 16) with
          | (u3, .ok sp) => (match u3.access (p.who s) (refBuf (p.handle 1)) { need := .write, es := 1, align := 1, nibble := true }
              (offsFrom (refOff (p.handle 1)) 1 16) with
            | (u4, .ok dp) => (u4.inH (p.who s) (refBuf (p.handle 1))).2 &&
                !((u4.inH (p.who s) (refBuf (p.handle 1))).1.agentHeld (sp.flatten ++ dp.flatten))
            | _ => false)
          | _ => false)
       | _ => false)
     | _ => false) = true := by decide +kernel
/-- COUNTX and PFXSUM before they send and once every rank's values have come; END of a program with nothing open. -/
theorem meets_CollectiveDataSteps_exchange :
    let p := dataProg
    let s := withProg p
    let q := { p with phase := 4, cur := some (.countx (argsOf 0 0 0 0)), rcnt := [(0, 5), (1, 6)] }
    let r := { p with phase := 4, cur := some (.pfxsum (argsOf 0 0 0 0)), doff := [(0, 5), (1, 6)] }
    Instr.wf .L (.countx (argsOf 0 0 0 0)) = true ∧ Instr.wf .L (.pfxsum (argsOf 0 0 0 0)) = true ∧ s.allPaths p = true ∧
    got (fun u sc => got (fun v rc => (prefixSums 0 sc ++ prefixSums 0 rc).all (fun n => n < 2 ^ 48) &&
        got (fun w _ => got (fun _ _ => true) (w.xchgPut p 3 ((prefixSums 0 rc).map (BitVec.ofNat 64))))
          (v.xchgPut p 2 ((prefixSums 0 sc).map (BitVec.ofNat 64)))) (u.xchg p 1 0 p.nrank)) (s.xchg p 0 0 p.nrank) = true ∧
    (withProg q).prog? 0 = some q ∧ q.runnable = true ∧ q.allIn q.rcnt = true ∧
    got (fun _ _ => true) ((withProg q).xchgPut q 1 (q.column q.rcnt)) = true ∧
    (withProg r).prog? 0 = some r ∧ r.runnable = true ∧ r.allIn r.doff = true ∧
    got (fun _ _ => true) ((withProg r).xchgPut r 4 (r.column r.doff)) = true ∧
    Instr.wf .L (.collEnd (argsOf 0 0 0 0)) = true ∧ s.openMsgs p isOpen = false ∧
    got (fun _ _ => true) (s.writeRec { p with status := some 0 }) = true := by decide +kernel

def msgOf (body : Traffic) : Msg := { comm := 0, src := 1, dst := 0, epoch := 0, step := 0, no := 0, body := body }
/-- The program of rank 0 is in epoch 0; generation `g` of slot 3 is open with `parts`. -/
def inColl (m : Msg) (g : Nat) (parts : Store (List Byte × List Nat)) : State :=
  let s := withProg prog
  { s with coll := { s.coll with
    inbox := [(0, m)], epochs := [(0, 1)], homeGen := [(3, g)]
    insts := [(3, { gen := g, sig := 0, bad := false, since := 0, tmo := 5, parts := parts })] } }
theorem meets_CollectiveArrivals :
    let m := msgOf (.signal 7)
    let s := inColl m 0 []
    s.coll.inbox.find? 0 = some m ∧ s.epochGate m.comm m.dst m.epoch ≠ .later ∧ s.progAt m.comm m.dst m.epoch = some (0, prog) ∧
    s.rankHere m.comm m.src = true ∧ s.progAt m.comm m.src m.epoch = none := by decide +kernel
theorem meets_CollectiveArrivals_write :
    let m := msgOf (.write 1 0x800 [1, 2] [1] true 0x800 2)
    let w := (inColl m 0 []).whoAgent noCore ((inColl m 0 []).commCtx m.comm) 65536
    let s := inColl m 0 []
    s.coll.inbox.find? 0 = some m ∧ s.epochGate m.comm m.dst m.epoch ≠ .later ∧
    got (fun v _ => got (fun _ _ => true) (v.streamWrite w 1 0x800 [(1, false), (2, true)])) (s.streamPlaces w 1 0x800 2) = true := by decide +kernel
/-- A late contribution, one that comes after the timer of its instance ran out, the first of two and the second of two; a timer in its
last µs and past it. -/
theorem meets_CollectiveArrivals_contrib :
    let m := msgOf (.contrib 3 0 0 [1, 0, 0, 0] [] 5)
    (∀ s ∈ [inColl m 1 [], inColl m 0 [], inColl m 0 [(0, ([1, 0, 0, 0], []))]], s.coll.inbox.find? 0 = some m) ∧
    (∀ s ∈ [inColl m 1 [], { inColl m 0 [] with wall := 6 }], 0 ≠ ((s.dropMsg 0).flush 0 3).coll.homeGen.get (slotKey 0 3) 0) ∧
    (∀ ps ∈ [[], [(0, ([1, 0, 0, 0], []))]], let u := ((inColl m 0 ps).dropMsg 0).flush 0 3
      0 = u.coll.homeGen.get (slotKey 0 3) 0 ∧ (u.coll.insts.find? (slotKey 0 3)).any (fun x => x.parts == ps) = true ∧
      ((Store.put (ps : Store (List Byte × List Nat)) m.src ([1, 0, 0, 0], [])).length = (inColl m 0 ps).commRanks 0 ↔ ps ≠ [])) ∧
    (inColl m 0 []).coll.insts.find? (slotKey 0 3) = some { gen := 0, sig := 0, bad := false, since := 0, tmo := 5, parts := [] } ∧
    (inColl m 0 []).wall ≤ 0 + 5 ∧ 5 ≠ 0 ∧ 0 + 5 < ({ inColl m 0 [] with wall := 6 } : State).wall ∧ (∀ x ∈ [2 ^ 32 - 1, 1], x < 2 ^ 32) := by decide +kernel
theorem meets_CollectiveArrivals_timeout :
    let p := { prog with phase := 1 }
    (withProg p).prog? 0 = some p ∧ p.runnable = true ∧ p.phase ≠ 0 ∧ p.tmo ≠ 0 ∧ p.since + p.tmo ≤ (withProg p).wall := by decide

/-- A sequencer of context 0: `k0`, N, its step, its state; its rows from 0x800 of buffer 1, its end object at 0xFF0. -/
def seqOf (k0 n step st : Nat) : Seq :=
  { Seq.reset with desc := [ref 1 0x800, BitVec.ofNat 64 (k0 * 2 ^ 32 + n), ref 1 0x700, 0, ref 1 0xFF0, 1], st := st, step := step }
def withSeq (x : Seq) (w : Nat) : State := { pkg with
  mem := (if w = 0 then [] else [(0x10800, BitVec.ofNat 8 w)]) ++ ctxMem ++ bufMem, sched := { pkg.sched with seqs := [(15, x)] } }
theorem meets_SequencerService :
    (∀ x ∈ [seqOf 2 1 0 1, seqOf 0 1 1 1, seqOf 0 1 0 1], x = (withSeq x 0).seq 15 ∧ (withSeq x 0).partHeld = false ∧ (withSeq x 0).evq.enabled = true ∧
      (withSeq x 0).hasWaiter (.seq 15) = false ∧ x.st = 1 ∧ x.abort = false) ∧
    (seqOf 2 1 0 1).n < (seqOf 2 1 0 1).k0 ∧ ((seqOf 0 1 1 1).k0 ≤ (seqOf 0 1 1 1).n ∧ (seqOf 0 1 1 1).n ≤ (seqOf 0 1 1 1).step) ∧
    ((seqOf 0 1 0 1).k0 ≤ (seqOf 0 1 0 1).n ∧ (seqOf 0 1 0 1).step < (seqOf 0 1 0 1).n) := by decide +kernel
def isOk {α : Type} (p : State → α → Bool) : State × SeqRead α → Bool
  | (s, .ok a) => p s a
  | _ => false
/-- Rows with a reserved bit, with PAUSE and with neither. -/
theorem meets_SequencerService_row :
    ∀ w ∈ [4, 2, 0], let x := seqOf 0 1 0 1
    let s := withSeq x w
    isOk (fun u row => row.getD 0 0 == w && row.getD 1 0 == 0 && (w != 0 || isOk (fun _ _ => true) (u.seqEbo x (.atomic false))))
      (s.seqWords x (x.word 0) (128 * x.step) 8 16) = true ∧ x.next = 0 ∧ x.resume = false := by decide +kernel
/-- RUN: its phase has not changed, has changed with steps left and without; then the states of SQCTL. -/
theorem meets_SequencerService_end :
    (∀ y ∈ [(false, 2), (true, 2), (true, 1)], let x := { seqOf 0 y.2 0 3 with phase := y.1 }
      let s := withSeq x 0
      x = s.seq 15 ∧ s.partHeld = false ∧ s.hasWaiter (.seq 15) = false ∧ x.pop = 0 ∧ x.st = 3 ∧ x.abort = false ∧
      isOk (fun u key => u.boBad key == false &&
        (decide ((u.boAt (((x.who u).kid).getD 0) key).phase = 1) == x.phase) == !y.1) (s.seqEbo x .read) = true) ∧
    (∀ st ∈ [0, 1, 2, 3, 4, 5, 6, 7], seqOf 0 1 0 st = (withSeq (seqOf 0 1 0 st) 0).seq 15 ∧ (seqOf 0 1 0 st).st = st ∧
      (seqOf 0 1 0 st).pop = 0) ∧ pkg.cryo.band ≠ 4 := by decide +kernel
/-- A fault that waits: its task saved, its task on a core. -/
theorem meets_SequencerService_reply :
    let x := { tInfo with fault := some 3 }
    let s := { pkg with mem := pkgMem.putWord 0x40020 (BitVec.ofNat 64 (1 + 6 * 2 ^ 52)), sched := { pkg.sched with tasks := [(0, x)] } }
    let u := pkgRun (fun g => { g with page := true })
    let u := { u with sched := { u.sched with tasks := [(0, x)] } }
    s.info 0 = some x ∧ x.dying = false ∧ s.heldEvent 0 = false ∧ u.heldEvent 0 = false ∧ s.evq.roomFor 1 = true ∧
    (∀ z ∈ s.sched.tasks, z.2.dying = false) ∧ s.coll.cmds.filter (fun y => y.2.slot == 0 && y.2.st == csFaulted) = [] ∧ s.coreOf 0 = none ∧
    x.fault = some 3 ∧ s.recState 0 = 6 ∧ u.info 0 = some x ∧ u.coreOf 0 = some 0 ∧ (u.core 0).task = some runTask ∧
    runTask.delivery = [] ∧ (u.eng 0 .L).page = true ∧ s.evq.waiting = [] := by decide +kernel

/-- A line that needs rebuilding, alone, and with a copy; no line. -/
theorem meets_MemoryMechanisms :
    let s := { State.reset with stor := { State.reset.stor with dramErr := [5] } }
    let b := { State.reset with host := { State.reset.host with mapBusy := true, migbnd := 7864319 } }
    s.stor.dramErr.contains 4 = false ∧ 128 * 4 < 2 ^ 48 ∧ s.stor.dramErr.contains 5 = true ∧ s.stor.poison = [] ∧
    (∀ l ∈ s.stor.dramErr ++ s.stor.poison, l ≠ 5 → 128 * l < 2 ^ 48 → s.stripe l ≠ s.stripe 5) ∧
    ({ s with stor := { s.stor with clean := [(0, 9)] } } : State).copyGood 5 = true ∧
    s.host.mapBusy = false ∧ b.host.mapBusy = true ∧ b.hbmSize / 65536 ≤ b.host.migbnd + 1 ∧ s.host.migbnd + 1 < s.hbmSize / 65536 ∧
    128 * (2 ^ 41) < 2 ^ 49 ∧ 2 ^ 48 ≤ 128 * 2 ^ 41 := by
  refine ⟨by decide, by decide, by decide, by decide, ?_, by decide⟩
  intro l h n
  exact absurd (by simpa [show State.reset.stor.poison = [] from rfl] using h) n
/-- Two lines that the mapping puts in one stripe (which ones it does is open, LOG 34). -/
theorem meets_MemoryMechanisms_poison (h : State.reset.stripe 6 = State.reset.stripe 5) :
    let s := { State.reset with stor := { State.reset.stor with dramErr := [5, 6] } }
    s.stor.dramErr.contains 5 = true ∧
    (∃ l ∈ s.stor.dramErr ++ s.stor.poison, l ≠ 5 ∧ 128 * l < 2 ^ 48 ∧ s.stripe l = s.stripe 5) ∧ s.copyGood 5 = false :=
  ⟨by decide, ⟨6, by decide, by decide, by decide, h⟩, by decide⟩
/-- The scrub in band B0; bundle 1 of the top layer of core 0, with a reserve of 62 units. -/
theorem meets_MemoryMechanisms_bundle :
    let s := { State.reset with stor := { State.reset.stor with reserve := (List.range 62).map (fun i => 1000 + i) } }
    (pkg.cryo.band.toNat < 4 ∧ pkg.cryo.st ≠ 0 ∧ pkg.cryo.st ≠ 7) ∧
    s.present 0 = true ∧ 1 ≤ 1 ∧ (s.slcap 0 1).getLsbD (16 + 1) = true ∧
    (((s.latentBehind 0 1 1).drop (s.spareUnits 0 1 1).length ++ s.bankBehind 0 1 1).length ≤ s.stor.reserve.length) ∧
    (∀ u ∈ s.latentBehind 0 1 1 ++ s.bankBehind 0 1 1, s.heldUnit (s.pageAt u) = false) := by decide +kernel

-- the part and its surroundings

/-- The controller in state `st` and band `band`, every sensor at `k` sixteenths of a kelvin, at 1,000 µs. -/
def cold (st : BitVec 4) (band : BitVec 3) (k : Nat) : State :=
  { State.reset with
    cryo := { Cryo.reset with st := st, band := band, live := (List.range 12).map (fun i => (i, { valid := true, kelvin := k })) }
    wall := 1000 }
theorem meets_CryogenicEvents :
    (1440 ≤ 1440 ∧ 1440 < 1441 ∧ 1760 ≤ 1760 ∧ 1760 < 1761 ∧ 2400 ≤ 2400 ∧ 2400 < 2401 ∧ 4000 ≤ 4000 ∧ 4000 < 4001) ∧
    (∀ x ∈ [((2 : BitVec 4), (1 : BitVec 3), 1440, 0), (4, 1, 1760, 1), (5, 2, 2400, 2), (2, 0, 4001, 4), (3, 0, 1761, 2), (4, 0, 1760, 1),
        (4, 0, 2400, 2), (5, 0, 4000, 3), (4, 0, 4001, 4)], let s := cold x.1 x.2.1 x.2.2.1
      s.cryo.st ≠ 0 ∧ s.cryo.sampled + 1000 ≤ s.wall ∧ s.cryo.asked = [] ∧ x.2.2.2 = bandOf (warmestSensor s.sensors).2 ∧
      (x.2.2.2 ≤ s.cryo.band.toNat ↔ x.2.1 ≠ 0)) ∧
    (4 ≤ 4 ∧ 4 ≠ (cold 4 0 0).cryo.band.toNat) ∧ (cold 0 4 0).cryo.st = 0 ∧
    (cold 4 0 0).wall < ({ (cold 4 0 0) with cryo := { (cold 4 0 0).cryo with sampled := 1 } } : State).cryo.sampled + 1000 := by
  decide +kernel
/-- No command waits, one of the host of this very moment, one of the side-band, one of an earlier moment; a part without power. -/
theorem meets_CryogenicEvents_asked :
    let s := cold 4 0 0
    (cold 0 4 0).cryo.st = 0 ∧ s.cryo.st ≠ 0 ∧ s.cryo.asked = [] ∧ s.powered = true ∧
    (∀ x ∈ [(s.moment, true), (s.moment, false), ({ cyc := 1, wall := 0 }, true)],
      let y : Asked := { at_ := x.1, host := x.2, cmd := 4 }
      ({ s with cryo := { s.cryo with asked := [y] } } : State).cryo.asked = [y]) ∧
    ({ cyc := 1, wall := 0 } : Moment) ≠ s.moment := by decide
/-- The hold timer before and at its end, in COOLDOWN and DEGRADED. -/
theorem meets_CryogenicEvents_hold :
    ∀ x ∈ [((2 : BitVec 4), 29999999), (2, 30000000), (5, 30000000)], let s := { cold x.1 4 0 with
      cryo := { (cold x.1 4 0).cryo with hold := some 0, warmest := 1 }, wall := x.2 }
    s.cryo.hold = some 0 ∧ s.cryo.mayCool = true ∧ s.cryo.warmest.toNat ≤ 1 ∧
    (s.wall < 0 + s.cryo.holdUs ↔ x.2 = 29999999) := by decide
theorem meets_CryogenicEvents_state :
    (∀ st ∈ [(1 : BitVec 4), 2, 3, 4, 5, 6, 7], (cold st 0 0).cryo.st = st ∧ st ≠ 0) ∧ (cold 1 0 0).runningCores = [] ∧
    (cold 6 0 0).drained = true ∧ (∀ x ∈ ((cold 6 0 0).cores.foldl (fun s x => s.release x.1) (cold 6 0 0)).cores, x.2.settled = true) ∧
    (cold 6 0 0).cryo.offAt = false ∧ (cold 6 0 0).wall < (cold 6 0 0).cryo.warmAt + 10000000 ∧
    ({ cold 6 0 0 with wall := 10000000 } : State).cryo.warmAt + 10000000 ≤ ({ cold 6 0 0 with wall := 10000000 } : State).wall := by
  decide +kernel

/-- A firmware image of two bytes. -/
def image (magic : BitVec 32) : Image where
  magic := magic
  length := 2
  svn := 0
  ver := 0
  resv0 := true
  body := [1, 2]
  rsaSig := []
  slhSig := []
/-- An image with a wrong magic number is none that runs; one whose signatures verify is one that runs (what verifies is open, LOG 23). -/
theorem meets_ManagementCommands (a : Config.rsaOk (image 0x4B525659) = true) (b : Config.slhOk (image 0x4B525659) = true) :
    let s := State.reset
    let w := { s with mgmt := { s.mgmt with waiting := true } }
    let f := { s with mgmt := { s.mgmt with flash := some (image 0) } }
    s.mgmt.flash = none ∧ f.mgmt.flash = some (image 0) ∧ f.cryo.st = 0 ∧ f.mgmt.waiting = false ∧
    s.cryo.st = 0 ∧ s.mgmt.waiting = false ∧ w.mgmt.waiting = true ∧ (image 0).magic ≠ 0x4B525659 ∧
    (image 0x4B525659).magic = 0x4B525659 ∧ (image 0x4B525659).length.toNat ≤ 12582912 ∧
    (image 0x4B525659).length.toNat = (image 0x4B525659).body.length ∧ (image 0x4B525659).resv0 = true ∧
    Config.rsaOk (image 0x4B525659) = true ∧ Config.slhOk (image 0x4B525659) = true ∧
    s.mgmt.svn.toNat ≤ (image 0x4B525659).svn.toNat :=
  ⟨by decide, by decide, by decide, by decide, by decide, by decide, by decide, by decide, by decide, by decide, by decide, by decide, a, b,
    by decide⟩
theorem meets_ManagementCommands_keys :
    let s := { cold 4 0 0 with mgmt := { State.reset.mgmt with session := some 0 } }
    s.cryo.st ≠ 0 ∧ ({ State.reset with mgmt := { State.reset.mgmt with waiting := true } } : State).mgmt.waiting = true ∧
    (1023 : BitVec 10) ≠ 0 ∧ (1 : BitVec 256) ≠ 2 ∧ s.mgmt.session.isSome = true ∧ s.onIde .ide = true ∧ s.onIde (.tdi 0) = true ∧
    63 ∉ s.host.tdiRun ∧ 63 ∈ ({ s with host := { s.host with tdiRun := [63] } } : State).host.tdiRun ∧ ({ s with host := { s.host with k1 := 1 } } : State).host.k1 ≠ s.host.k2 ∧
    (∀ i, i < 12 → (s.cryo.temps.get i noTherm).kelvin < 65536) := by decide

/-- Queue 5 of context 0 has taken entry `i`. -/
def taken (i : Instr) (st : BitVec 2) : State :=
  let s := pkg.setWq 5 { Wq.reset with enable := true, st := st, cur := some i, log2n := 6 }
  { s with host := { s.host with wqCur := 5 } }
theorem meets_WorkQueueEvents :
    (∀ st ∈ [(0 : BitVec 2), 1, 2, 3], let s := taken (.launch 0 false 0) st
      s.reachesBell .host 5 = true ∧ s.reachesBell .host 4096 = false ∧ s.reachesBlock .host 5 = true ∧ (s.wq 5).st = st ∧
      (63 : BitVec 32).toNat < (s.wq 5).size ∧ (s.wq 5).size ≤ (64 : BitVec 32).toNat) ∧ 255 < 256 ∧ State.reset.msixMasked 2047 = true ∧
    ({ State.reset with host := { State.reset.host with other := [(0x1000000 + 16 * 2047 + 8, 0)] } } : State).msixMasked 2047 = false := by
  decide
/-- LAUNCH of record 1 and of one that is not there, with and without TILES, and of one whose DBO is the object of buffer 1. -/
theorem meets_WorkQueueEvents_launch :
    let s := taken (.launch 1 false 0) 1
    let t := taken (.launch 1 true 7) 1
    let d := { s with mem := s.mem.putWord 0x50120 (ref 1 0xFF0) }
    5 = s.host.wqCur ∧ (s.wq 5).cur = some (.launch 1 false 0) ∧ (s.wq 5).st = 1 ∧ s.evq.enabled = true ∧ s.partHeld = false ∧
    t.partHeld = false ∧ s.lrecTiles 1 ≠ 0 ∧ d.lrecTiles 1 ≠ 0 ∧ (t.patch 1 1 ((7 : BitVec 32).setWidth 64)).lrecTiles 1 ≠ 0 ∧
    s.armStatus ((2 : BitVec 16).setWidth 64) 0 ≠ 0 ∧ s.armStatus ((1 : BitVec 16).setWidth 64) 0 = 0 ∧
    bitsOf (s.lrecWord 1 0x20) 0 16 = 0 ∧
    (match (d.readDbo noCore 1 { kind := 6 }).2 with
     | .at_ _ _ => true
     | _ => false) = true ∧
    t.patchStatus ((2 : BitVec 16).setWidth 64) ((7 : BitVec 32).setWidth 64) 1 0 ≠ 0 ∧
    t.patchStatus ((1 : BitVec 16).setWidth 64) ((7 : BitVec 32).setWidth 64) 1 0 = 0 ∧
    (t.patch 1 1 ((7 : BitVec 32).setWidth 64)).armStatus ((1 : BitVec 16).setWidth 64) 0 = 0 ∧
    bitsOf ((t.patch 1 1 ((7 : BitVec 32).setWidth 64)).lrecWord 1 0x20) 0 16 = 0 := by decide +kernel
/-- SEQ with a descriptor in order, and with GLEN 0; COPY with a length too long and in order. -/
theorem meets_WorkQueueEvents_seq :
    let ws (glen : Word) : List Word := [ref 1 0x800, 1, ref 1 0x700, glen, ref 1 0xFF0, 1, 0, 0]
    let s := { taken (.seq 15 (ref 1 0x800) 1 (ref 1 0x700) 1 (ref 1 0xFF0) 1) 1 with mem := ctxMem ++ bufMem }
    (s.seq (15 : BitVec 4).toNat).startable = true ∧ (s.seqValid (ws 1)).2.1 = true ∧
    ((s.seqValid (ws 0)).2.1 = false ∧ (s.seqValid (ws 0)).2.2.isNone = true) ∧
    bitsOf (1 : Word) 16 16 = ((s.seqValid (ws 1)).1.wq 5).ctxid.toNat ∧ bitsOf (2 ^ 48 : Word) 48 16 ≠ 0 ∧
    bitsOf (64 : Word) 48 16 = 0 ∧
    (match s.rangesOk (s.whoWq 5) (cmdRanges kCopy [ref 1 0, ref 1 0x100, 64] [] (ref 1 0xFF0)) with
     | (u, none) => !(u.copyOdd (s.whoWq 5) (ref 1 0) (ref 1 0x100)).2
     | _ => false) = true := by decide +kernel
/-- WAITBO on 0 waits and on 1 goes on; SIGNAL; COLL of a program at 0x600 and of a misaligned one. -/
theorem meets_WorkQueueEvents_object :
    let s := { taken (.waitbo (ref 1 0xFF0) true) 1 with mem := ctxMem ++ bufMem }
    (∀ need ∈ [Need.read, .atomic false], (match s.boKey (s.whoWq 5) (refBuf (ref 1 0xFF0)) (refOff (ref 1 0xFF0)) need with
     | (u, .ok key) => !s.boHeld (s.whoWq 5) (refBuf (ref 1 0xFF0)) (refOff (ref 1 0xFF0)) && !u.ferried key && !u.pinnedFor noCore (lineOf key) && !(u.reach [lineOf key]).boBad key &&
       decide (((u.reach [lineOf key]).boAt ((s.whoWq 5).kid.getD 0) key).phase = 0)
     | _ => false) = true) ∧
    (match s.rangesOk (s.whoWq 5) (cmdRanges kColl [ref 1 0x600] [] (ref 1 0xFF0)) with
     | (u, none) => (match u.entryOf (s.whoWq 5) (refBuf (ref 1 0x600)) with
       | (v, .ok d) => refOff (ref 1 0x600) % 64 == 0 && refOff (ref 1 0x601) % 64 != 0 && d.layer == 0 && d.view == 0 &&
           v.queueRoom noCore kColl 0
       | _ => false)
     | _ => false) = true ∧ ((taken (.waitbo (ref 1 0xFF0) true) 3).wq 5).cur = some (.waitbo (ref 1 0xFF0) true) := by decide +kernel

/-- WAITBO and SIGNAL of an object whose storage is uncorrectable, seen for the first time and again. -/
theorem meets_WorkQueueEvents_bad :
    let bo := ref 1 0xFF0
    let s := { taken (.waitbo bo true) 1 with mem := ctxMem ++ bufMem }
    let s := { s with stor := { s.stor with badWords := [0x10FF0 / 8] } }
    let t := s.setWq 5 { s.wq 5 with boNoted := true }
    (∀ need ∈ [Need.read, .atomic false], ∀ x ∈ [(s, false), (t, true)],
      (match x.1.boKey (x.1.whoWq 5) (refBuf bo) (refOff bo) need with
       | (u, .ok key) => !u.ferried key && !u.pinnedFor noCore (lineOf key) && (u.reach [lineOf key]).boBad key &&
           ((u.reach [lineOf key]).wq 5).boNoted == x.2
       | _ => false) = true) := by decide +kernel

/-- A sequencer whose row lies in no page waits again. -/
theorem meets_LinkWindowEvents_again :
    let x := { seqOf 0 1 0 1 with desc := [ref 2 0x800, 1, ref 1 0x700, 0, ref 1 0xFF0, 1] }
    let s := withSeq x 0
    let s := { s with sched := { s.sched with waits := [.seq 15] } }
    s.sched.waits[0]? = some (.seq 15) ∧
    (State.retry { s with sched := { s.sched with waits := s.sched.waits.eraseIdx 0 } } (.seq 15)).hasWaiter (.seq 15) = true := by
  decide +kernel
/-- Two pending writes of core 0 to SO pages: the first may go, the second may not pass it; a third to an RC page. -/
def pending : State := State.reset.modCore 0 (fun k => { k with
  wq := [pendAt 0x20000 true, pendAt 0x20008 true, pendAt 0x20010 false] })
theorem meets_LinkWindowEvents :
    let s := State.reset
    let m := { s with mgmt := { s.mgmt with session := some 0 }, sched := { s.sched with waits := [.seq 0, .seq 1] } }
    15 < 16 ∧ 19 < 20 ∧ m.mgmt.session.isSome = true ∧ 63 < 64 ∧ s.sched.waits = [] ∧ m.sched.waits[1]? = some (.seq 1) ∧
    (State.retry { m with sched := { m.sched with waits := m.sched.waits.eraseIdx 1 } } (.seq 1)).hasWaiter (.seq 1) = false ∧
    ((3 ≠ 4 ∧ 3 ≠ 8) ∨ 8 % 3 ≠ 0) ∧ (onCore .S).sched.tasks ≠ [] ∧ s.sched.tasks = [] ∧ bitsOf (0x12345000 : Word) 48 8 = 0 := by
  decide +kernel
theorem meets_LinkWindowEvents_outside :
    let s := State.reset
    let p := { pkg with mgmt := { pkg.mgmt with links := [(0, 1)] } }
    2 ^ 32 - 2 + [(1 : Byte), 2].length ≤ 2 ^ 32 ∧ s.reachesAperture .host (2 ^ 32 - 2) 2 = true ∧
    s.freeOf (2 ^ 32 - 2) 2 = true ∧ s.host.pcieUp = true ∧ 2 ^ 32 ≤ s.hbmSize ∧ 0x10000 + [(1 : Byte), 2].length ≤ p.hbmSize ∧
    p.kidOf (0 : BitVec 16).toNat = some 1 ∧ p.kidOf (1 : BitVec 16).toNat = none ∧ p.soundUp = true ∧ p.freeOf 0x10000 2 = true := by
  refine ⟨by decide, ?_, by decide +kernel, by decide, by decide +kernel, by decide +kernel, by decide +kernel, by decide +kernel, by decide,
    by decide +kernel⟩
  have h : State.reset.host.tdiRun = [] := by decide
  simp [State.reachesAperture, h]
/-- What a TDI in RUN owns the host does not reach (which TDI owns a page of the aperture is open). -/
theorem meets_LinkWindowEvents_owned (a : Config.bar4Tdi 1 = 3) :
    let s := { State.reset with host := { State.reset.host with tdiRun := [3] } }
    s.reachesAperture .host 0x10000 1 = false := by
  simp [State.reachesAperture, granule, List.range_succ, a, Machine.runs, dedup]
/-- A word of two is uncorrectable; a write whose frame is in exchange is held back. -/
theorem meets_LinkWindowEvents_refused :
    let b := { State.reset with stor := { State.reset.stor with badWords := [0x10008 / 8] } }
    let h := { pending with stor := { pending.stor with frames := [2] } }
    (∃ k ∈ [0x10007, 0x10008], (b.reach (linesOf [0x10007, 0x10008])).badAt k ≠ 0) ∧
    (∀ k ∈ [0x10006, 0x10007], (b.reach (linesOf [0x10006, 0x10007])).badAt k = 0) ∧
    h.heldBack 0 (pendAt 0x20000 true) = true ∧ (pendAt 0x20000 true).layer = 0 := by decide +kernel
theorem meets_LinkWindowEvents_performed :
    (pending.core 0).wq[0]? = some (pendAt 0x20000 true) ∧ pending.heldBack 0 (pendAt 0x20000 true) = false ∧
    (pending.core 0).oldLines (2 ^ 64) (pendAt 0x20000 true).epoch = false ∧
    (pending.core 0).wq[1]? = some (pendAt 0x20008 true) ∧ mayPass ((pending.core 0).wq.take 1) (pendAt 0x20008 true) = false ∧
    (pending.core 0).wq[2]? = some (pendAt 0x20010 false) ∧ mayPass ((pending.core 0).wq.take 2) (pendAt 0x20010 false) = true ∧
    ({ (pending.core 0) with l1 := [(7, { lineAt false with dirty := 1 })] } : Core).oldLines (2 ^ 64) 1 = true := by decide

end Sys2Proof.Tests
end

section
/-! SUPPORT. The rule of every scalar integer word (04 R59 to R65) that is in issue, with a true guard and no poisoned source. -/

namespace Sys2Proof.Machine

/-- A member is in issue, its guard is true and none of the sources `as` is poisoned. -/
structure State.ScalarReady (s : State) (h : Hdr) (as : List SSrc) : Prop where
  issued : s.curEng.grp.isSome = true
  guard  : s.guardTrue h = true
  clean  : s.cleanSrc as

theorem State.ScalarReady.of_grp {s : State} {h : Hdr} {as : List SSrc} {g : Grp} (hg : s.curEng.grp = some g)
    (ht : s.guardTrue h = true) (hc : s.cleanSrc as) : s.ScalarReady h as :=
  ⟨by simp [hg], ht, hc⟩

/-- A member in issue comes to its effect, whatever its group. -/
theorem State.ScalarReady.performWord_eq {s : State} {h : Hdr} {as : List SSrc} (hr : s.ScalarReady h as) (i : Instr)
    (eff : State → Eff) : performWord i (fun _ => eff) s = .next (State.settle (hdrD i) (eff s)) := by
  obtain ⟨g, hg⟩ := Option.isSome_iff_exists.mp hr.issued
  exact performWord_member hg

theorem firstPoison_eq_none {vs : List SVal} (hc : ∀ v ∈ vs, v.poison = false) : firstPoison vs = none := by
  induction vs with
  | nil => rfl
  | cons v vs ih =>
    have hv : v.poison = false := hc v (by simp)
    simp [firstPoison, hv, ih fun w hw => hc w (by simp [hw])]

section
variable {s : State} {h : Hdr} {as : List SSrc} {i : Instr} {d : SDst} {a b c : SSrc} {v : Word} {fl : FlagSet}

/-- R59, R102: with the guard true and no poisoned source the result is written, pushed and its flags ORed in. -/
theorem State.ScalarReady.scalarEff_wrote (hr : s.ScalarReady h as) {eff : State → Eff} {src : List SVal}
    (he : eff s = scalarEff h d src (v, fl) s) (hc : ∀ w ∈ src, w.poison = false) (hi : hdrD i = h) :
    performWord i (fun _ => eff) s = .next (s.wrote h d v fl) := by
  rw [hr.performWord_eq, hi, he]
  simp [scalarEff, hr.guard, firstPoison_eq_none hc, State.settle, State.wrote]

theorem State.ScalarReady.scalar1_wrote (hr : s.ScalarReady h as) {f : Word → Word × FlagSet} (ha : a ∈ as)
    (hi : hdrD i = h) (hv : f (s.val a) = (v, fl)) :
    performWord i (fun _ => scalar1 h d a f) s = .next (s.wrote h d v fl) :=
  hr.scalarEff_wrote (src := [s.srd a]) (congrArg (scalarEff h d _ · s) hv) (by simpa using hr.clean a ha) hi

theorem State.ScalarReady.scalar2_wrote (hr : s.ScalarReady h as) {f : Word → Word → Word × FlagSet} (ha : a ∈ as)
    (hb : b ∈ as) (hi : hdrD i = h) (hv : f (s.val a) (s.val b) = (v, fl)) :
    performWord i (fun _ => scalar2 h d a b f) s = .next (s.wrote h d v fl) :=
  hr.scalarEff_wrote (src := [s.srd a, s.srd b]) (congrArg (scalarEff h d _ · s) hv)
    (by simpa using ⟨hr.clean a ha, hr.clean b hb⟩) hi

theorem State.ScalarReady.scalar3_wrote (hr : s.ScalarReady h as) {f : Word → Word → Word → Word × FlagSet} (ha : a ∈ as)
    (hb : b ∈ as) (hc : c ∈ as) (hi : hdrD i = h) (hv : f (s.val a) (s.val b) (s.val c) = (v, fl)) :
    performWord i (fun _ => scalar3 h d a b c f) s = .next (s.wrote h d v fl) :=
  hr.scalarEff_wrote (src := [s.srd a, s.srd b, s.srd c]) (congrArg (scalarEff h d _ · s) hv)
    (by simpa using ⟨hr.clean a ha, hr.clean b hb, hr.clean c hc⟩) hi

end

end Sys2Proof.Machine
end

section
/-! SUPPORT. The arithmetic words (04 R60, R61): their values, from the integers that the operands are read as. -/

namespace Sys2Proof.Machine

-- words read as integers

@[simp] theorem readWord_signed (w : Word) : readWord true w = w.toInt := by
  simp [readWord, readInt, BitVec.toInt_eq_msb_cond, BitVec.msb_eq_getLsbD_last, BitVec.testBit_toNat]

@[simp] theorem readWord_unsigned (w : Word) : readWord false w = w.toNat := by
  simp [readWord, readInt]

theorem readWord_inj {signed : Bool} {a b : Word} (h : readWord signed a = readWord signed b) : a = b := by
  cases signed with
  | true => exact BitVec.toInt_inj.mp (by simpa using h)
  | false => exact BitVec.eq_of_toNat_eq (by simpa using h)

theorem ofNat_lowBits (e : Int) : BitVec.ofNat 64 (lowBits 64 e) = BitVec.ofInt 64 e :=
  BitVec.eq_of_toNat_eq (by simp [lowBits]; omega)

-- the additive and multiplicative words (R60)

theorem satRead_eq_satArg (m : SatMode) (w : Word) : satRead m w = satArg m w := by
  cases m with
  | wrap | sat => exact readWord_signed w
  | satn => exact readWord_unsigned w

theorem deliverInt_wrap (signed : Bool) (w : Nat) (e : Int) : deliverInt signed w false e = (lowBits w e, 0) := rfl

/-- A result below the range is clamped to its lower bound. -/
theorem deliverInt_low {signed : Bool} {w : Nat} {e : Int} (h : e < intLo signed w) :
    deliverInt signed w true e = (lowBits w (intLo signed w), fClamp) := by
  simp [deliverInt, clampInt, flagIf, h, h.ne']

/-- A result above the range is clamped to its upper bound. -/
theorem deliverInt_high {signed : Bool} {w : Nat} {e : Int} (hl : intLo signed w ≤ e) (h : intHi signed w < e) :
    deliverInt signed w true e = (lowBits w (intHi signed w), fClamp) := by
  simp [deliverInt, clampInt, flagIf, h, h.ne, hl.not_gt]

/-- A result within the range is delivered as it is. -/
theorem deliverInt_inside {signed : Bool} {w : Nat} {e : Int} (hl : intLo signed w ≤ e) (h : e ≤ intHi signed w) :
    deliverInt signed w true e = (lowBits w e, 0) := by
  simp [deliverInt, clampInt, flagIf, h.not_gt, hl.not_gt]

/-- `satSpec` with its bounds written as the range of the format. -/
theorem satSpec_clamps (m : SatMode) (hm : m ≠ .wrap) (e : Int) :
    satSpec m e =
      if e < intLo (m != .satn) 64 then (BitVec.ofInt 64 (intLo (m != .satn) 64), fClamp)
      else if intHi (m != .satn) 64 < e then (BitVec.ofInt 64 (intHi (m != .satn) 64), fClamp)
      else (BitVec.ofInt 64 e, 0) := by
  cases m with
  | wrap => exact absurd rfl hm
  | sat =>
    have hhigh : 2 ^ 63 ≤ e ↔ 2 ^ 63 - 1 < e := by omega
    simp only [satSpec, hhigh]
    rfl
  | satn =>
    have hhigh : 2 ^ 64 ≤ e ↔ 2 ^ 64 - 1 < e := by omega
    simp only [satSpec, hhigh]
    rfl

theorem satWord_eq_satSpec (m : SatMode) (e : Int) : satWord m e = satSpec m e := by
  by_cases hm : m = .wrap
  · subst hm
    simp [satWord, satSpec, deliverInt_wrap, ofNat_lowBits]
  have hsat : (m != .wrap) = true := by simpa using hm
  rw [satSpec_clamps m hm]
  simp only [satWord, hsat]
  split
  next hlow => simp only [deliverInt_low hlow, ofNat_lowBits]
  next hlow =>
    split
    next hhigh => simp only [deliverInt_high (not_lt.mp hlow) hhigh, ofNat_lowBits]
    next hhigh => simp only [deliverInt_inside (not_lt.mp hlow) (not_lt.mp hhigh), ofNat_lowBits]

-- high products, quotients and remainders (R61)

/-- Bits 127 to 64 of an exact integer. -/
theorem ofInt_high_half (e : Int) : BitVec.ofInt 64 (e / 2 ^ 64) = (BitVec.ofInt 128 e).extractLsb' 64 64 := by
  apply BitVec.eq_of_toNat_eq
  simp [Nat.shiftRight_eq_div_pow]
  omega

theorem mulhVal_signed (x y : Word) :
    mulhVal true x y = (x.signExtend 128 * y.signExtend 128).extractLsb' 64 64 := by
  rw [mulhVal, ofInt_high_half, BitVec.ofInt_mul, readWord_signed, readWord_signed]
  rfl

theorem mulhVal_unsigned (x y : Word) :
    mulhVal false x y = (x.setWidth 128 * y.setWidth 128).extractLsb' 64 64 := by
  rw [mulhVal, ofInt_high_half, BitVec.ofInt_mul, readWord_unsigned, readWord_unsigned]
  simp

theorem divVal_zero (signed : Bool) (x : Word) :
    divVal signed x 0 = (0xFFFFFFFFFFFFFFFF, x, if x = 0 then 0 else 0x08) := by
  by_cases hx : x = 0
  · subst hx
    rfl
  · have hne : (x != 0) = true := by simpa using hx
    simp only [divVal, hne, if_pos, if_neg hx]
    rfl

theorem divVal_signed (x : Word) {y : Word} (hy : y ≠ 0) : divVal true x y = (x.sdiv y, x.srem y, 0) := by
  have hquot : BitVec.ofInt 64 (x.toInt.tdiv y.toInt) = x.sdiv y :=
    BitVec.eq_of_toInt_eq (by rw [BitVec.toInt_ofInt, BitVec.toInt_sdiv])
  have hrem : BitVec.ofInt 64 (x.toInt.tmod y.toInt) = x.srem y := by
    rw [← BitVec.toInt_srem, BitVec.ofInt_toInt]
  simp only [divVal, if_neg hy, readWord_signed, hquot, hrem]

theorem divVal_unsigned (x : Word) {y : Word} (hy : y ≠ 0) : divVal false x y = (x / y, x % y, 0) := by
  have hquot : BitVec.ofInt 64 ((x.toNat : Int).tdiv y.toNat) = x / y := by
    rw [← Int.ofNat_tdiv, ← BitVec.toNat_udiv, BitVec.ofInt_natCast, BitVec.ofNat_toNat, BitVec.setWidth_eq]
  have hrem : BitVec.ofInt 64 ((x.toNat : Int).tmod y.toNat) = x % y := by
    rw [← Int.ofNat_tmod, ← BitVec.toNat_umod, BitVec.ofInt_natCast, BitVec.ofNat_toNat, BitVec.setWidth_eq]
  simp only [divVal, if_neg hy, readWord_unsigned, hquot, hrem]

/-- Settles O10: each word is performed by the scalar rule, and its value is the one R60 or R61 gives. -/
theorem arithmeticWords : Obligations.ArithmeticWords := by
  unfold Obligations.ArithmeticWords
  refine ⟨fun s h g m d a b c i hg ht hc => ?_, fun s h g d a b hg ht hc x y hx hy => ?_⟩
  · have hr := State.ScalarReady.of_grp hg ht hc
    have hval (e : Int) : satWord m e = ((satSpec m e).1, (satSpec m e).2) := satWord_eq_satSpec m e
    simp only [← satRead_eq_satArg]
    refine ⟨?_, ?_, ?_, ?_, ?_⟩ <;> rintro r rfl
    · exact hr.scalar2_wrote (by simp) (by simp) rfl (hval _)
    · exact hr.scalar1_wrote (by simp) rfl (hval _)
    · exact hr.scalar2_wrote (by simp) (by simp) rfl (hval _)
    · exact hr.scalar2_wrote (by simp) (by simp) rfl (hval _)
    · exact hr.scalar3_wrote (by simp) (by simp) (by simp) rfl (hval _)
  · subst hx hy
    have hr := State.ScalarReady.of_grp hg ht hc
    have ha : a ∈ [a, b] := by simp
    have hb : b ∈ [a, b] := by simp
    refine ⟨hr.scalar2_wrote ha hb rfl (congrArg noFlag (mulhVal_signed _ _)),
      hr.scalar2_wrote ha hb rfl (congrArg noFlag (mulhVal_unsigned _ _)), fun hy => ?_, fun hy => ?_⟩
    · refine ⟨hr.scalar2_wrote ha hb rfl ?_, hr.scalar2_wrote ha hb rfl ?_, hr.scalar2_wrote ha hb rfl ?_,
        hr.scalar2_wrote ha hb rfl ?_⟩ <;> simp only [divVal_signed _ hy, divVal_unsigned _ hy]
    · rintro f rfl
      refine ⟨hr.scalar2_wrote ha hb rfl ?_, hr.scalar2_wrote ha hb rfl ?_, hr.scalar2_wrote ha hb rfl ?_,
        hr.scalar2_wrote ha hb rfl ?_⟩ <;> simp only [hy, divVal_zero]

end Sys2Proof.Machine
end

section
/-! SUPPORT. The bitwise, shift, count, constant and bit-field words (04 R62, R64, R65). -/

namespace Sys2Proof.Machine

/-- `z` leading zeros, told by the powers of two that enclose the word (R62). -/
theorem clzVal_eq {x : Word} {z : Nat} (hz : z < 64) (hlo : 2 ^ (63 - z) ≤ x.toNat) (hhi : x.toNat < 2 ^ (64 - z)) :
    clzVal x = BitVec.ofNat 64 z := by
  have hpos : x.toNat ≠ 0 := (Nat.two_pow_pos _).trans_le hlo |>.ne'
  have hx : x ≠ 0 := by
    rintro rfl
    exact hpos rfl
  have hlog : x.toNat.log2 = 63 - z :=
    (Nat.log2_eq_iff hpos).mpr ⟨hlo, by rwa [show 63 - z + 1 = 64 - z by omega]⟩
  rw [clzVal, if_neg hx, hlog, show 63 - (63 - z) = z by omega]

theorem countTrue_bitList (n x : Nat) :
    popcVal.countTrue (bitList n x) = (List.range n).countP (fun k => x.testBit k) := by
  induction n generalizing x with
  | zero => rfl
  | succ n ih =>
    have hshift : (List.range n).countP ((fun k => x.testBit k) ∘ Nat.succ) =
        (List.range n).countP (fun k => (x / 2).testBit k) := by
      simp [Function.comp_def, Nat.testBit_add_one]
    rw [bitList, popcVal.countTrue, ih, List.range_succ_eq_map, List.countP_cons, List.countP_map, hshift]
    simp [Nat.add_comm]

theorem popcVal_eq (x : Word) : popcVal x = BitVec.ofNat 64 ((List.range 64).countP (fun k => x.getLsbD k)) :=
  congrArg (BitVec.ofNat 64) (countTrue_bitList 64 x.toNat)

theorem shCount_eq (y : Word) : shCount y = (y.extractLsb' 0 6).toNat := by
  simp [shCount]

theorem lihVal_eq (x : Word) (k : BitVec 32) :
    lihVal x k = (k.setWidth 64 <<< 32) ||| (x.setWidth 32).setWidth 64 := by
  apply BitVec.eq_of_getLsbD_eq
  intro j hj
  simp only [lihVal, BitVec.getLsbD_append, BitVec.getLsbD_or, BitVec.getLsbD_shiftLeft, BitVec.getLsbD_setWidth, hj]
  by_cases hlow : j < 32
  · simp [hlow]
  · simp [hlow, show j - 32 < 64 by omega]

theorem bextVal_eq (x : Word) (pos w1 : BitVec 6) :
    bextVal x pos w1 = (x.extractLsb' pos.toNat (w1.toNat + 1)).setWidth 64 := by
  apply BitVec.eq_of_toNat_eq
  simp [bextVal, bitsOf, Nat.shiftRight_eq_div_pow]

/-- Replacing a field of a number: what lies above it, the new field and what lies below it. -/
theorem replaceField_eq (x lo n v : Nat) :
    x - x / 2 ^ lo % 2 ^ n * 2 ^ lo + v * 2 ^ lo = 2 ^ lo * (2 ^ n * (x / 2 ^ lo / 2 ^ n) + v) + x % 2 ^ lo := by
  have hx := Nat.div_add_mod x (2 ^ lo)
  have hhi := Nat.div_add_mod (x / 2 ^ lo) (2 ^ n)
  generalize x / 2 ^ lo / 2 ^ n = hi at *
  generalize x / 2 ^ lo % 2 ^ n = mid at *
  generalize x % 2 ^ lo = low at *
  rw [← hhi] at hx
  rw [← hx, Nat.mul_add, Nat.mul_add, Nat.mul_comm mid, Nat.mul_comm v]
  omega

/-- A bit of a word with a field replaced is the new field's inside the field and the word's outside it. -/
theorem getLsbD_setBits (x : Word) (lo n v k : Nat) (hk : k < 64) :
    (setBits x lo n v).getLsbD k = if lo ≤ k ∧ k < lo + n then v.testBit (k - lo) else x.getLsbD k := by
  have hlow : x.toNat % 2 ^ lo < 2 ^ lo := Nat.mod_lt _ (Nat.two_pow_pos _)
  have hv : v % 2 ^ n < 2 ^ n := Nat.mod_lt _ (Nat.two_pow_pos _)
  rw [setBits, bitsOf, replaceField_eq, BitVec.getLsbD_ofNat, Nat.testBit_two_pow_mul_add _ hlow]
  simp only [hk, decide_true, Bool.true_and]
  by_cases hb : k < lo
  · simp [hb, BitVec.testBit_toNat]
  by_cases hm : k - lo < n
  · rw [if_neg hb, Nat.testBit_two_pow_mul_add _ hv]
    simp [hm, show lo ≤ k ∧ k < lo + n by omega]
  · rw [if_neg hb, Nat.testBit_two_pow_mul_add _ hv, if_neg hm, Nat.testBit_div_two_pow, Nat.testBit_div_two_pow,
      if_neg (by omega), show k - lo - n + n + lo = k by omega, BitVec.testBit_toNat]

/-- BINS with `m` the mask of its field (R65). -/
theorem binsVal_eq (x y : Word) (pos w1 : BitVec 6) {m : Word}
    (hm : ∀ k, m.getLsbD k = (decide (pos.toNat ≤ k) && decide (k ≤ pos.toNat + w1.toNat))) :
    binsVal x y pos w1 = (x &&& ~~~m) ||| ((y <<< pos.toNat) &&& m) := by
  apply BitVec.eq_of_getLsbD_eq
  intro k hk
  rw [binsVal, getLsbD_setBits x _ _ _ k hk]
  simp only [BitVec.getLsbD_or, BitVec.getLsbD_and, BitVec.getLsbD_not, BitVec.getLsbD_shiftLeft, hm, hk]
  by_cases hin : pos.toNat ≤ k ∧ k ≤ pos.toNat + w1.toNat
  · obtain ⟨hle, hge⟩ := hin
    rw [if_pos (by omega), BitVec.testBit_toNat]
    simp [hle, hge, hle.not_gt]
  · have hout : (decide (pos.toNat ≤ k) && decide (k ≤ pos.toNat + w1.toNat)) = false := by simpa using hin
    rw [if_neg (by omega)]
    simp [hout]

/-- Settles O11: each word is performed by the scalar rule and sets no flag; its value is the one R62, R64 or R65 gives. -/
theorem bitwiseFieldWords : Obligations.BitwiseFieldWords := by
  unfold Obligations.BitwiseFieldWords
  refine ⟨fun s h g d a b i sh hg ht hc x y hx hy m n hm hn => ?_, fun s h g d a b k k' pos w1 hg ht hc x y hx hy => ?_⟩
  all_goals
    subst hx hy
    have hr := State.ScalarReady.of_grp hg ht hc
    have ha : a ∈ [a, b] := by simp
    have hb : b ∈ [a, b] := by simp
  · subst hm hn
    rw [← shCount_eq]
    refine ⟨⟨hr.scalar2_wrote ha hb rfl rfl, hr.scalar2_wrote ha hb rfl rfl, hr.scalar2_wrote ha hb rfl rfl,
        hr.scalar2_wrote ha hb rfl rfl, hr.scalar1_wrote ha rfl rfl, hr.scalar1_wrote ha rfl rfl,
        hr.scalar1_wrote ha rfl rfl⟩,
      ⟨hr.scalar2_wrote ha hb rfl rfl, hr.scalar2_wrote ha hb rfl rfl, hr.scalar2_wrote ha hb rfl rfl,
        hr.scalar1_wrote ha rfl rfl, hr.scalar1_wrote ha rfl rfl, hr.scalar1_wrote ha rfl rfl⟩,
      fun z hz => hr.scalar1_wrote ha rfl (congrArg noFlag ?_),
      hr.scalar1_wrote ha rfl (congrArg noFlag (popcVal_eq _))⟩
    obtain ⟨hx, rfl⟩ | ⟨hz, hlo, hhi⟩ := hz
    · rw [hx]
      rfl
    · exact clzVal_eq hz hlo hhi
  · exact ⟨hr.scalarEff_wrote (src := []) rfl (by simp) rfl,
      hr.scalar1_wrote ha rfl (congrArg noFlag (lihVal_eq _ _)),
      fun _ => ⟨hr.scalar1_wrote ha rfl (congrArg noFlag (bextVal_eq _ _ _)),
        fun m hm => hr.scalar2_wrote ha hb rfl (congrArg noFlag (binsVal_eq _ _ _ _ hm))⟩⟩

end Sys2Proof.Machine
end

section
/-! SUPPORT. The compare, select, minimum and maximum words, and BRC (04 R63). -/

namespace Sys2Proof.Machine

theorem condHolds_iff (c : Cond) (x y : Word) : condHolds c x y = true ↔ condSpec c x y := by
  cases c <;> simp [condHolds, condSpec, BitVec.slt, BitVec.ult]

/-- `lo` and `hi` are the smaller and the larger of two words, in either order of the operands. -/
theorem minVal_maxVal_eq {signed : Bool} {x y lo hi : Word}
    (h : (readWord signed x ≤ readWord signed y ∧ lo = x ∧ hi = y) ∨
      (readWord signed y < readWord signed x ∧ lo = y ∧ hi = x)) :
    minVal signed x y = lo ∧ maxVal signed x y = hi := by
  obtain ⟨hle, rfl, rfl⟩ | ⟨hlt, rfl, rfl⟩ := h
  · refine ⟨if_neg hle.not_gt, ?_⟩
    by_cases hlt : readWord signed lo < readWord signed hi
    · exact if_pos hlt
    · exact (if_neg hlt).trans (readWord_inj (le_antisymm hle (not_lt.mp hlt)))
  · exact ⟨if_pos hlt, if_neg hlt.not_gt⟩

/-- R67: BRC with clean operands transfers to its target where COND holds, and goes on to the next word where not. -/
theorem State.ScalarReady.brc_went {s : State} {h : Hdr} {as : List SSrc} (hr : s.ScalarReady h as) {a b : SSrc}
    (ha : a ∈ as) (hb : b ∈ as) {cd : Cond} {t : Target} {flow : Flow}
    (hf : (if condHolds cd (s.val a) (s.val b) then s.gotoFlow false t else .next) = flow) :
    exec (.brc h cd a b t) s = .next (s.went h flow) := by
  subst hf
  refine (hr.performWord_eq (.brc h cd a b t) _).trans ?_
  simp only [plainEff, hr.guard, if_true, brcTakes, hr.clean a ha, hr.clean b hb, Bool.not_false, Bool.true_and]
  rfl

/-- Settles O12: the scalar rule for the words with a result, `condHolds_iff` for COND, and the transfer of BRC. -/
theorem compareSelectWords : Obligations.CompareSelectWords := by
  unfold Obligations.CompareSelectWords
  intro s h g cd d a b c t hg ht hc x y hx hy
  subst hx hy
  have hr := State.ScalarReady.of_grp hg ht hc
  have ha : a ∈ [a, b, c] := by simp
  have hb : b ∈ [a, b, c] := by simp
  have hcm : c ∈ [a, b, c] := by simp
  refine ⟨fun hcd => hr.scalar2_wrote ha hb rfl (congrArg noFlag (if_pos ((condHolds_iff _ _ _).mpr hcd))),
    fun hcd => hr.scalar2_wrote ha hb rfl (congrArg noFlag (if_neg (mt (condHolds_iff _ _ _).mp hcd))),
    fun hcd => hr.brc_went ha hb (if_pos ((condHolds_iff _ _ _).mpr hcd)),
    fun hcd => hr.brc_went ha hb (if_neg (mt (condHolds_iff _ _ _).mp hcd)),
    fun hx => hr.scalar3_wrote ha hb hcm rfl (congrArg noFlag (if_neg hx)),
    fun hx => hr.scalar3_wrote ha hb hcm rfl (congrArg noFlag (if_pos hx)),
    fun lo hi hord => ?_, fun lo hi hord => ?_⟩
  · obtain ⟨hlo, hhi⟩ := minVal_maxVal_eq (signed := true) (by simpa using hord)
    exact ⟨hr.scalar2_wrote ha hb rfl (congrArg noFlag hlo), hr.scalar2_wrote ha hb rfl (congrArg noFlag hhi)⟩
  · obtain ⟨hlo, hhi⟩ := minVal_maxVal_eq (signed := false) (by simpa using hord)
    exact ⟨hr.scalar2_wrote ha hb rfl (congrArg noFlag hlo), hr.scalar2_wrote ha hb rfl (congrArg noFlag hhi)⟩

end Sys2Proof.Machine
end

section
/-! SUPPORT. The fields of words (03 R42, R45 to R54): each code is read back as what it was written for, and nothing else is. -/

namespace Sys2Proof

-- bit fields

theorem eq_append_iff {m n : Nat} {x : BitVec (m + n)} {a : BitVec m} {b : BitVec n} :
    x = a ++ b ↔ x.extractLsb' n m = a ∧ x.extractLsb' 0 n = b := by
  constructor
  · rintro rfl
    exact ⟨BitVec.extractLsb'_append_eq_left, BitVec.extractLsb'_append_eq_right⟩
  · rintro ⟨rfl, rfl⟩
    simp

theorem extract_extract {w s l s' l' : Nat} (x : BitVec w) (h : s' + l' ≤ l) :
    (x.extractLsb' s l).extractLsb' s' l' = x.extractLsb' (s + s') l' := by
  apply BitVec.eq_of_getLsbD_eq
  intro i hi
  simp only [BitVec.getLsbD_extractLsb', hi, decide_true, Bool.true_and, Nat.add_assoc]
  simp [show s' + i < l by omega]

theorem extract_one {w n : Nat} (x : BitVec w) (b : Bool) : x.extractLsb' n 1 = BitVec.ofBool b ↔ x.getLsbD n = b := by
  constructor
  · intro h
    simpa using congrArg (·.getLsbD 0) h
  · rintro rfl
    apply BitVec.eq_of_getLsbD_eq
    intro i hi
    obtain rfl : i = 0 := by omega
    simp

theorem getLsbD_extract {w s l i : Nat} (x : BitVec w) (h : i < l) : (x.extractLsb' s l).getLsbD i = x.getLsbD (s + i) := by
  simp [h]

theorem immOfTarget_iff (x : BitVec 30) (t : Target) : x = immOfTarget t ↔ immTarget x = t := by
  rw [immOfTarget, eq_append_iff (m := 14) (n := 16), immTarget, Target.mk.injEq]

theorem immBo_iff (x : BitVec 30) (b : BoRef) : x = immBo b ↔ x.extractLsb' 14 16 = b.buf ∧ x.extractLsb' 0 14 = b.off :=
  eq_append_iff (m := 16) (n := 14)

theorem immVA_iff (x : BitVec 30) (t : Ty) (rm : BitVec 3) (sat bs : Bool) : x = immVA t rm sat bs ↔
    x.extractLsb' 26 4 = encTy t ∧ x.extractLsb' 23 3 = rm ∧ x.getLsbD 22 = sat ∧ x.getLsbD 21 = bs ∧
      x.extractLsb' 0 21 = 0 := by
  rw [immVA, eq_append_iff (m := 9) (n := 21), eq_append_iff (m := 8) (n := 1), eq_append_iff (m := 7) (n := 1),
    eq_append_iff (m := 4) (n := 3)]
  simp only [extract_one, extract_extract, Nat.reduceLeDiff, Nat.reduceAdd, and_assoc]

theorem immVC_iff (x : BitVec 30) (dt st : Ty) (rm : RM) (sat : Bool) (part : BitVec 3) : x = immVC dt st rm sat part ↔
    x.extractLsb' 26 4 = encTy dt ∧ x.extractLsb' 23 3 = encRM rm ∧ x.getLsbD 22 = sat ∧ x.extractLsb' 18 4 = encTy st ∧
      x.extractLsb' 15 3 = part ∧ x.extractLsb' 0 15 = 0 := by
  rw [immVC, eq_append_iff (m := 15) (n := 15), eq_append_iff (m := 12) (n := 3), eq_append_iff (m := 8) (n := 4),
    eq_append_iff (m := 7) (n := 1), eq_append_iff (m := 4) (n := 3)]
  simp only [extract_one, extract_extract, Nat.reduceLeDiff, Nat.reduceAdd, and_assoc]

theorem immVP_iff (x : BitVec 30) (t : Ty) (lane : BitVec 11) : x = immVP t lane ↔
    x.extractLsb' 26 4 = encTy t ∧ x.extractLsb' 11 15 = 0 ∧ x.extractLsb' 0 11 = lane := by
  rw [immVP, eq_append_iff (m := 19) (n := 11), eq_append_iff (m := 4) (n := 15)]
  simp only [extract_extract, Nat.reduceLeDiff, Nat.reduceAdd, and_assoc]

/-- A word without LANE has 0 in its place. -/
theorem immVP_zero_iff (x : BitVec 30) (t : Ty) : x = immVP t 0 ↔ x.extractLsb' 26 4 = encTy t ∧ x.extractLsb' 0 26 = 0 := by
  rw [immVP_iff, show (0 : BitVec 26) = (0 : BitVec 15) ++ (0 : BitVec 11) from rfl, eq_append_iff (m := 15) (n := 11)]
  simp only [extract_extract, Nat.reduceLeDiff, Nat.reduceAdd]

theorem immMC_iff (x : BitVec 30) (k : BitVec 2) (stamp : BitVec 24) : x = immMC k stamp ↔
    x.extractLsb' 26 4 = 0 ∧ x.extractLsb' 24 2 = k ∧ x.extractLsb' 0 24 = stamp := by
  rw [immMC, eq_append_iff (m := 6) (n := 24), eq_append_iff (m := 4) (n := 2)]
  simp only [extract_extract, Nat.reduceLeDiff, Nat.reduceAdd, and_assoc]

/-- A word without K has 0 in its place. -/
theorem immMC_zero_iff (x : BitVec 30) (stamp : BitVec 24) : x = immMC 0 stamp ↔
    x.extractLsb' 24 6 = 0 ∧ x.extractLsb' 0 24 = stamp := by
  rw [immMC_iff, show (0 : BitVec 6) = (0 : BitVec 4) ++ (0 : BitVec 2) from rfl, eq_append_iff (m := 4) (n := 2)]
  simp only [extract_extract, Nat.reduceLeDiff, Nat.reduceAdd, and_assoc]

/-- The word that a header and fields make is the only one that they are read from. -/
theorem Raw.ofWord_eq_iff (w : IWord) (r : Raw) : Raw.ofWord w = r ↔ w = r.toWord := by
  rw [Raw.toWord, eq_append_iff (m := 66) (n := 30), eq_append_iff (m := 56) (n := 10), eq_append_iff (m := 46) (n := 10),
    eq_append_iff (m := 36) (n := 10), eq_append_iff (m := 26) (n := 10), eq_append_iff (m := 20) (n := 6),
    eq_append_iff (m := 12) (n := 8), eq_append_iff (m := 11) (n := 1), eq_append_iff (m := 7) (n := 4),
    eq_append_iff (m := 4) (n := 3), eq_append_iff (m := 1) (n := 3)]
  simp only [extract_one, extract_extract, Nat.reduceLeDiff, Nat.reduceAdd, and_assoc]
  rw [Raw.ofWord, Raw.mk.injEq]

-- operand codes (R45)

theorem eq_of_toNat_ofNat {w n : Nat} {c : BitVec w} (h : c.toNat = n) : c = BitVec.ofNat w n :=
  BitVec.eq_of_toNat_eq (by simp [← h])

theorem decSSrc_eq_some {c : BitVec 10} {a : SSrc} : decSSrc c = some a ↔ c = encSSrc a := by
  constructor
  · intro h
    dsimp only [decSSrc] at h
    repeat' split at h
    all_goals cases h
    all_goals exact eq_of_toNat_ofNat (by simp; try omega)
  · rintro rfl
    cases a with
    | s n | q n | lc n | sp n | d n =>
      have hn := n.isLt
      simp (disch := omega) [decSSrc, encSSrc, Nat.mod_eq_of_lt, dif_neg, if_neg]
      try omega
    | z | ones => rfl

theorem decSDst_eq_some {c : BitVec 10} {a : SDst} : decSDst c = some a ↔ c = encSDst a := by
  constructor
  · intro h
    dsimp only [decSDst] at h
    repeat' split at h
    all_goals cases h
    all_goals exact eq_of_toNat_ofNat (by simp; try omega)
  · rintro rfl
    cases a with
    | s n =>
      have hn := n.isLt
      simp (disch := omega) [decSDst, encSDst, Nat.mod_eq_of_lt]
    | z => rfl

theorem decVSrc_eq_some {c : BitVec 10} {a : VSrc} : decVSrc c = some a ↔ c = encVSrc a := by
  constructor
  · intro h
    dsimp only [decVSrc] at h
    repeat' split at h
    all_goals cases h
    all_goals exact eq_of_toNat_ofNat (by simp; try omega)
  · rintro rfl
    cases a with
    | v n | d n =>
      have hn := n.isLt
      simp (disch := omega) [decVSrc, encVSrc, Nat.mod_eq_of_lt, dif_neg, if_neg]
      try omega
    | z | ones => rfl

theorem decVDst_eq_some {c : BitVec 10} {a : VDst} : decVDst c = some a ↔ c = encVDst a := by
  constructor
  · intro h
    dsimp only [decVDst] at h
    repeat' split at h
    all_goals cases h
    all_goals exact eq_of_toNat_ofNat (by simp; try omega)
  · rintro rfl
    cases a with
    | v n =>
      have hn := n.isLt
      simp (disch := omega) [decVDst, encVDst, Nat.mod_eq_of_lt]
    | z => rfl

/-- A code is the number of one register of a file exactly when it reads as that number. -/
theorem eq_ofNat_fin_iff {n : Nat} (hn : n ≤ 1024) {c : BitVec 10} {p : Fin n} : c = BitVec.ofNat 10 p.val ↔ c.toNat = p.val := by
  have hp := p.isLt
  rw [← BitVec.toNat_inj, BitVec.toNat_ofNat, Nat.mod_eq_of_lt (by omega)]

theorem decPred_eq_some {c : BitVec 10} {p : Fin 16} : decPred c = some p ↔ c = encPred p := by
  have hp := p.isLt
  rw [encPred, eq_ofNat_fin_iff (by omega), decPred]
  split
  all_goals
    simp [Fin.ext_iff]
    try omega

theorem decPDst_eq_some {c : BitVec 10} {p : Fin 16} : decPDst c = some p ↔ c = encPred p ∧ p ≠ 0 := by
  have hp := p.isLt
  rw [encPred, eq_ofNat_fin_iff (by omega), decPDst, ← Fin.val_ne_zero_iff]
  split
  · split <;> simp [Fin.eq_mk_iff_val_eq, eq_comm] <;> omega
  · simp
    omega

theorem decVReg_eq_some {c : BitVec 10} {v : Fin 768} : decVReg c = some v ↔ c = encVReg v := by
  have hv := v.isLt
  rw [encVReg, eq_ofNat_fin_iff (by omega), decVReg]
  split
  all_goals
    simp [Fin.ext_iff]
    try omega

theorem decVRange_eq_some {c : BitVec 10} {v : Fin 768} : decVRange c = some v ↔ c = encVReg v ∧ v.val ≤ 752 := by
  have hv := v.isLt
  rw [encVReg, eq_ofNat_fin_iff (by omega), decVRange]
  repeat' split
  all_goals simp [Fin.ext_iff]; omega

-- codes of R47, R48, R52 to R54, R63, R79, R168

theorem decTy_eq_some {c : BitVec 4} {x : Ty} : decTy c = some x ↔ c = encTy x := by
  constructor
  · intro h
    unfold decTy at h
    split at h <;> cases h
    all_goals exact eq_of_toNat_ofNat (by assumption)
  · rintro rfl
    cases x <;> rfl

theorem decRM_eq_some {c : BitVec 3} {x : RM} : decRM c = some x ↔ c = encRM x := by
  constructor
  · intro h
    unfold decRM at h
    split at h <;> cases h
    all_goals exact eq_of_toNat_ofNat (by assumption)
  · rintro rfl
    rcases x with (_ | _ | _ | _) | _ <;> rfl

theorem decSatMode_eq_some {c : BitVec 6} {x : SatMode} : decSatMode c = some x ↔ c = encSatMode x := by
  constructor
  · intro h
    unfold decSatMode at h
    split at h <;> cases h
    all_goals exact eq_of_toNat_ofNat (by assumption)
  · rintro rfl
    cases x <;> rfl

theorem decCond_eq_some {c : BitVec 6} {x : Cond} : decCond c = some x ↔ c = encCond x := by
  constructor
  · intro h
    unfold decCond at h
    split at h <;> cases h
    all_goals exact eq_of_toNat_ofNat (by assumption)
  · rintro rfl
    cases x <;> rfl

theorem decVCond_eq_some {c : BitVec 6} {x : VCond} : decVCond c = some x ↔ c = encVCond x := by
  constructor
  · intro h
    unfold decVCond at h
    split at h <;> cases h
    all_goals exact eq_of_toNat_ofNat (by assumption)
  · rintro rfl
    cases x <;> rfl

theorem decScope_eq_some {c : BitVec 3} {x : Scope} : decScope c = some x ↔ c = encScope x := by
  constructor
  · intro h
    unfold decScope at h
    split at h <;> cases h
    all_goals exact eq_of_toNat_ofNat (by assumption)
  · rintro rfl
    cases x <;> rfl

theorem decAmoOp_eq_some {c : BitVec 4} {x : AmoOp} : decAmoOp c = some x ↔ c = encAmoOp x := by
  constructor
  · intro h
    unfold decAmoOp at h
    split at h <;> cases h
    all_goals exact eq_of_toNat_ofNat (by assumption)
  · rintro rfl
    cases x <;> rfl

theorem decLevel_eq_some {c : BitVec 6} {x : Level} : decLevel c = some x ↔ c = encLevel x := by
  constructor
  · intro h
    unfold decLevel at h
    split at h <;> cases h
    all_goals exact eq_of_toNat_ofNat (by assumption)
  · rintro rfl
    cases x <;> rfl

theorem decCsr_eq_some {c : BitVec 12} {x : Csr} : decCsr c = some x ↔ c = encCsr x := by
  constructor
  · intro h
    unfold decCsr at h
    split at h <;> cases h
    all_goals exact eq_of_toNat_ofNat (by assumption)
  · rintro rfl
    cases x <;> rfl

theorem decOrder_eq_some {o : BitVec 2} {sc : BitVec 3} {x : Order} :
    decOrder o sc = some x ↔ o = encOrd x ∧ sc = encOrdScope x := by
  constructor
  · intro h
    unfold decOrder at h
    split at h
    case h_1 ho =>
      split at h <;> cases h
      exact ⟨eq_of_toNat_ofNat ho, ‹_›⟩
    case h_2 ho | h_3 ho =>
      obtain ⟨s, hs, rfl⟩ := Option.map_eq_some_iff.mp h
      exact ⟨eq_of_toNat_ofNat ho, decScope_eq_some.mp hs⟩
    case h_4 h0 h1 h2 =>
      have h3 : o.toNat = 3 := by have := o.isLt; grind
      obtain ⟨s, hs, rfl⟩ := Option.map_eq_some_iff.mp h
      exact ⟨eq_of_toNat_ofNat h3, decScope_eq_some.mp hs⟩
  · rintro ⟨rfl, rfl⟩
    cases x with
    | none => rfl
    | acq s | rel s | ar s =>
      exact Option.map_eq_some_iff.mpr ⟨s, decScope_eq_some.mpr rfl, rfl⟩

end Sys2Proof
end

section
/-! SUPPORT. The checks that the formats share (03 R46, R49 to R55): what each leaves to hold of the fields of a word. -/

namespace Sys2Proof

theorem Dec.bind_eq_ok {α β : Type} {x : Dec α} {f : α → Dec β} {b : β} :
    (x >>= f) = .ok b ↔ ∃ a, x = .ok a ∧ f a = .ok b := by
  cases x with
  | error e => exact ⟨nofun, fun ⟨_, h, _⟩ => nomatch h⟩
  | ok a => exact ⟨fun h => ⟨a, rfl, h⟩, fun ⟨_, h, hf⟩ => Except.ok.inj h ▸ hf⟩

theorem Dec.map_eq_ok {α β : Type} {x : Dec α} {f : α → β} {b : β} : x.map f = .ok b ↔ ∃ a, x = .ok a ∧ f a = b := by
  cases x with
  | error e => exact ⟨nofun, fun ⟨_, h, _⟩ => nomatch h⟩
  | ok a => exact ⟨fun h => ⟨a, rfl, Except.ok.inj h⟩, fun ⟨_, h, hf⟩ => Except.ok.inj h ▸ congrArg Except.ok hf⟩

theorem Dec.pure_eq_ok {α : Type} {a b : α} : (pure a : Dec α) = .ok b ↔ a = b :=
  ⟨Except.ok.inj, congrArg _⟩

theorem encOk_eq_ok {c : Bool} {f : Nat} {u : Unit} : encOk c f = .ok u ↔ c = true := by
  cases c <;> simp [encOk]

theorem opOk_eq_ok {α : Type} {o : Option α} {f : Nat} {a : α} : opOk f o = .ok a ↔ o = some a := by
  cases o <;> simp [opOk]

theorem encSome_eq_ok {α : Type} {o : Option α} {f : Nat} {a : α} : encSome f o = .ok a ↔ o = some a := by
  cases o <;> simp [encSome]

/-- The header of a word. -/
def Raw.hdr (r : Raw) : Hdr := { stop := r.s, pop := r.pop, post := r.post, g := r.g, gn := r.gn }

theorem decHdr_eq_ok {e : Eng} {r : Raw} {h : Hdr} : decHdr e r = .ok h ↔ r.hdr = h ∧ h.wf e = true := by
  show (if r.hdr.wf e then Except.ok r.hdr else Except.error (Bad.enc fG) : Dec Hdr) = .ok h ↔ _
  split
  · next hw => exact ⟨fun hh => by cases hh; exact ⟨rfl, hw⟩, fun hh => by rw [hh.1]⟩
  · next hw => exact ⟨nofun, fun hh => absurd (hh.1 ▸ hh.2) hw⟩

-- fields that must be 0, and operand fields

theorem mod0_eq_ok {r : Raw} {u : Unit} : mod0 r = .ok u ↔ r.md = 0 := encOk_eq_ok.trans beq_iff_eq
theorem imm0_eq_ok {r : Raw} {u : Unit} : imm0 r = .ok u ↔ r.imm = 0 := encOk_eq_ok.trans beq_iff_eq
theorem d0_eq_ok {r : Raw} {u : Unit} : d0 r = .ok u ↔ r.d = 0 := encOk_eq_ok.trans beq_iff_eq
theorem a0_eq_ok {r : Raw} {u : Unit} : a0 r = .ok u ↔ r.a = 0 := encOk_eq_ok.trans beq_iff_eq
theorem b0_eq_ok {r : Raw} {u : Unit} : b0 r = .ok u ↔ r.b = 0 := encOk_eq_ok.trans beq_iff_eq
theorem c0_eq_ok {r : Raw} {u : Unit} : c0 r = .ok u ↔ r.c = 0 := encOk_eq_ok.trans beq_iff_eq

theorem dS_eq_ok {r : Raw} {x : SDst} : dS r = .ok x ↔ r.d = encSDst x := opOk_eq_ok.trans decSDst_eq_some
theorem aS_eq_ok {r : Raw} {x : SSrc} : aS r = .ok x ↔ r.a = encSSrc x := opOk_eq_ok.trans decSSrc_eq_some
theorem bS_eq_ok {r : Raw} {x : SSrc} : bS r = .ok x ↔ r.b = encSSrc x := opOk_eq_ok.trans decSSrc_eq_some
theorem cS_eq_ok {r : Raw} {x : SSrc} : cS r = .ok x ↔ r.c = encSSrc x := opOk_eq_ok.trans decSSrc_eq_some
theorem dV_eq_ok {r : Raw} {x : VDst} : dV r = .ok x ↔ r.d = encVDst x := opOk_eq_ok.trans decVDst_eq_some
theorem aV_eq_ok {r : Raw} {x : VSrc} : aV r = .ok x ↔ r.a = encVSrc x := opOk_eq_ok.trans decVSrc_eq_some
theorem bV_eq_ok {r : Raw} {x : VSrc} : bV r = .ok x ↔ r.b = encVSrc x := opOk_eq_ok.trans decVSrc_eq_some
theorem cV_eq_ok {r : Raw} {x : VSrc} : cV r = .ok x ↔ r.c = encVSrc x := opOk_eq_ok.trans decVSrc_eq_some
theorem aP_eq_ok {r : Raw} {x : Fin 16} : aP r = .ok x ↔ r.a = encPred x := opOk_eq_ok.trans decPred_eq_some
theorem bP_eq_ok {r : Raw} {x : Fin 16} : bP r = .ok x ↔ r.b = encPred x := opOk_eq_ok.trans decPred_eq_some
theorem dP_eq_ok {r : Raw} {x : Fin 16} : dP r = .ok x ↔ r.d = encPred x ∧ x ≠ 0 := opOk_eq_ok.trans decPDst_eq_some

theorem decU_eq_ok {r : Raw} {u : Bool} : decU r = .ok u ↔ r.md = if u then 1 else 0 := by
  rw [decU]
  split
  · next h => cases u <;> simp [h]
  · split
    · next h => cases u <;> simp [h]
    · next h0 h1 =>
      cases u
      · exact ⟨nofun, fun h => absurd h h0⟩
      · exact ⟨nofun, fun h => absurd h h1⟩

theorem immTy_eq_ok {r : Raw} {t : Ty} : immTy r = .ok t ↔ r.imm.extractLsb' 26 4 = encTy t :=
  encSome_eq_ok.trans decTy_eq_some

theorem immRM_eq_ok {r : Raw} {m : RM} : immRM r = .ok m ↔ r.imm.extractLsb' 23 3 = encRM m :=
  encSome_eq_ok.trans decRM_eq_some

theorem bVS_eq_ok {r : Raw} {b : VSSrc} : bVS r = .ok b ↔ r.b = vsB b ∧ immBS r = vsBS b := by
  cases b <;> cases hbs : immBS r <;> simp [bVS, hbs, vsB, vsBS, Dec.map_eq_ok, bS_eq_ok, bV_eq_ok]

theorem decMmaC_eq_ok {r : Raw} {c : BitVec 10} : decMmaC r = .ok c ↔
    r.c = c ∧ (decide (c.toNat < 768) || (decide (1008 ≤ c.toNat) && decide (c.toNat ≤ 1017))) = true := by
  rw [decMmaC]
  split
  · next h => exact ⟨fun hc => by cases hc; exact ⟨rfl, h⟩, fun hc => by rw [hc.1]⟩
  · next h => exact ⟨nofun, fun hc => absurd (hc.1 ▸ hc.2) h⟩

-- the formats

theorem decN_eq_ok {r : Raw} {mk i : Instr} : decN r mk = .ok i ↔
    (r.md = 0 ∧ r.imm = 0 ∧ r.d = 0 ∧ r.a = 0 ∧ r.b = 0 ∧ r.c = 0) ∧ mk = i := by
  simp only [decN, Dec.bind_eq_ok, Dec.pure_eq_ok, mod0_eq_ok, imm0_eq_ok, d0_eq_ok, a0_eq_ok, b0_eq_ok, c0_eq_ok,
    exists_const, and_assoc]

theorem decCode_eq_ok {r : Raw} {mk : BitVec 16 → Instr} {i : Instr} : decCode r mk = .ok i ↔
    ∃ code, r.imm = (0 : BitVec 14) ++ code ∧ (r.md = 0 ∧ r.d = 0 ∧ r.a = 0 ∧ r.b = 0 ∧ r.c = 0) ∧ mk code = i := by
  simp only [decCode, Dec.bind_eq_ok, Dec.pure_eq_ok, encOk_eq_ok, beq_iff_eq, mod0_eq_ok, d0_eq_ok, a0_eq_ok, b0_eq_ok,
    c0_eq_ok, exists_const, eq_append_iff (m := 14) (n := 16)]
  constructor
  · rintro ⟨hmd, hi, hd, ha, hb, hc, rfl⟩
    exact ⟨_, ⟨hi, rfl⟩, ⟨hmd, hd, ha, hb, hc⟩, rfl⟩
  · rintro ⟨_, ⟨hi, rfl⟩, ⟨hmd, hd, ha, hb, hc⟩, rfl⟩
    exact ⟨hmd, hi, hd, ha, hb, hc, rfl⟩

theorem decBT_eq_ok {r : Raw} {mk : Target → Instr} {i : Instr} : decBT r mk = .ok i ↔
    ∃ t, r.imm = immOfTarget t ∧ (r.md = 0 ∧ r.d = 0 ∧ r.a = 0 ∧ r.b = 0 ∧ r.c = 0) ∧ mk t = i := by
  simp only [decBT, Dec.bind_eq_ok, Dec.pure_eq_ok, mod0_eq_ok, d0_eq_ok, a0_eq_ok, b0_eq_ok, c0_eq_ok, exists_const,
    immOfTarget_iff, exists_eq_left', and_assoc]

theorem decS2_eq_ok {r : Raw} {mk : SDst → SSrc → SSrc → Instr} {i : Instr} : decS2 r mk = .ok i ↔
    ∃ d a b, (r.imm = 0 ∧ r.c = 0 ∧ r.d = encSDst d ∧ r.a = encSSrc a ∧ r.b = encSSrc b) ∧ mk d a b = i := by
  simp only [decS2, Dec.bind_eq_ok, Dec.pure_eq_ok, imm0_eq_ok, c0_eq_ok, dS_eq_ok, aS_eq_ok, bS_eq_ok, exists_const]
  constructor
  · rintro ⟨hi, hc, d, hd, a, ha, b, hb, rfl⟩
    exact ⟨d, a, b, ⟨hi, hc, hd, ha, hb⟩, rfl⟩
  · rintro ⟨d, a, b, ⟨hi, hc, hd, ha, hb⟩, rfl⟩
    exact ⟨hi, hc, d, hd, a, ha, b, hb, rfl⟩

theorem decS1_eq_ok {r : Raw} {mk : SDst → SSrc → Instr} {i : Instr} : decS1 r mk = .ok i ↔
    ∃ d a, (r.md = 0 ∧ r.imm = 0 ∧ r.b = 0 ∧ r.c = 0 ∧ r.d = encSDst d ∧ r.a = encSSrc a) ∧ mk d a = i := by
  simp only [decS1, Dec.bind_eq_ok, Dec.pure_eq_ok, mod0_eq_ok, imm0_eq_ok, b0_eq_ok, c0_eq_ok, dS_eq_ok, aS_eq_ok,
    exists_const]
  constructor
  · rintro ⟨hmd, hi, hb, hc, d, hd, a, ha, rfl⟩
    exact ⟨d, a, ⟨hmd, hi, hb, hc, hd, ha⟩, rfl⟩
  · rintro ⟨d, a, ⟨hmd, hi, hb, hc, hd, ha⟩, rfl⟩
    exact ⟨hmd, hi, hb, hc, d, hd, a, ha, rfl⟩

theorem decSI_eq_ok {r : Raw} {mk : SDst → SSrc → Instr} {i : Instr} : decSI r mk = .ok i ↔
    ∃ d a, (r.b = 0 ∧ r.c = 0 ∧ r.d = encSDst d ∧ r.a = encSSrc a) ∧ mk d a = i := by
  simp only [decSI, Dec.bind_eq_ok, Dec.pure_eq_ok, b0_eq_ok, c0_eq_ok, dS_eq_ok, aS_eq_ok, exists_const]
  constructor
  · rintro ⟨hb, hc, d, hd, a, ha, rfl⟩
    exact ⟨d, a, ⟨hb, hc, hd, ha⟩, rfl⟩
  · rintro ⟨d, a, ⟨hb, hc, hd, ha⟩, rfl⟩
    exact ⟨hb, hc, d, hd, a, ha, rfl⟩

theorem decSh_eq_ok {r : Raw} {mk : SDst → SSrc → BitVec 6 → Instr} {i : Instr} : decSh r mk = .ok i ↔
    ∃ d a sh, r.imm = (0 : BitVec 24) ++ sh ∧ (r.md = 0 ∧ r.b = 0 ∧ r.c = 0 ∧ r.d = encSDst d ∧ r.a = encSSrc a) ∧
      mk d a sh = i := by
  simp only [decSh, Dec.bind_eq_ok, Dec.pure_eq_ok, encOk_eq_ok, beq_iff_eq, mod0_eq_ok, b0_eq_ok, c0_eq_ok, dS_eq_ok,
    aS_eq_ok, exists_const, eq_append_iff (m := 24) (n := 6)]
  constructor
  · rintro ⟨hmd, hi, hb, hc, d, hd, a, ha, rfl⟩
    exact ⟨d, a, _, ⟨hi, rfl⟩, ⟨hmd, hb, hc, hd, ha⟩, rfl⟩
  · rintro ⟨d, a, _, ⟨hi, rfl⟩, ⟨hmd, hb, hc, hd, ha⟩, rfl⟩
    exact ⟨hmd, hi, hb, hc, d, hd, a, ha, rfl⟩

theorem decMcA_eq_ok {r : Raw} {mk : SSrc → BitVec 24 → Instr} {i : Instr} : decMcA r mk = .ok i ↔
    ∃ a st, r.imm = immMC 0 st ∧ (r.md = 0 ∧ r.d = 0 ∧ r.b = 0 ∧ r.c = 0 ∧ r.a = encSSrc a) ∧ mk a st = i := by
  simp only [decMcA, Dec.bind_eq_ok, Dec.pure_eq_ok, encOk_eq_ok, beq_iff_eq, mod0_eq_ok, mc0, d0_eq_ok, b0_eq_ok,
    c0_eq_ok, aS_eq_ok, exists_const, immMC_zero_iff]
  constructor
  · rintro ⟨hmd, hi, hd, hb, hc, a, ha, rfl⟩
    exact ⟨a, _, ⟨hi, rfl⟩, ⟨hmd, hd, hb, hc, ha⟩, rfl⟩
  · rintro ⟨a, _, ⟨hi, rfl⟩, ⟨hmd, hd, hb, hc, ha⟩, rfl⟩
    exact ⟨hmd, hi, hd, hb, hc, a, ha, rfl⟩

theorem decVc_eq_ok {r : Raw} {dt st : Ty} {rm : RM} {sat : Bool} {part : BitVec 3} :
    decVc r = .ok (dt, st, rm, sat, part) ↔ r.c = 0 ∧ r.imm = immVC dt st rm sat part := by
  simp only [decVc, Dec.bind_eq_ok, Dec.pure_eq_ok, encOk_eq_ok, encSome_eq_ok, decTy_eq_some, beq_iff_eq, c0_eq_ok, immTy_eq_ok, immRM_eq_ok,
    exists_const, immVC_iff, Prod.mk.injEq, immSat]
  constructor
  · rintro ⟨h0, hc, _, hdt, _, hst, _, hrm, rfl, rfl, rfl, rfl, rfl⟩
    exact ⟨hc, hdt, hrm, rfl, hst, rfl, h0⟩
  · rintro ⟨hc, hdt, hrm, rfl, hst, rfl, h0⟩
    exact ⟨h0, hc, _, hdt, _, hst, _, hrm, rfl, rfl, rfl, rfl, rfl⟩

theorem decLane_eq_ok {r : Raw} {t : Ty} {l : BitVec 11} :
    decLane r = .ok (t, l) ↔ r.imm = immVP t l ∧ l.toNat < t.lanes := by
  simp only [decLane, Dec.bind_eq_ok, Dec.pure_eq_ok, encOk_eq_ok, beq_iff_eq, immTy_eq_ok, exists_const, immVP_iff,
    Prod.mk.injEq, decide_eq_true_eq]
  constructor
  · rintro ⟨h0, _, ht, hl, rfl, rfl⟩
    exact ⟨⟨ht, h0, rfl⟩, hl⟩
  · rintro ⟨⟨ht, h0, rfl⟩, hl⟩
    exact ⟨h0, _, ht, hl, rfl, rfl⟩

theorem decVa2_eq_ok {r : Raw} {ok : Ty → Bool} {mk : Ty → VDst → VSrc → VSSrc → Instr} {i : Instr} :
    decVa2 r ok mk = .ok i ↔ ∃ t d a b, r.imm = immVA t 0 false (vsBS b) ∧
      (r.md = 0 ∧ r.c = 0 ∧ r.d = encVDst d ∧ r.a = encVSrc a ∧ r.b = vsB b) ∧ ok t = true ∧ mk t d a b = i := by
  simp only [decVa2, Dec.bind_eq_ok, Dec.pure_eq_ok, encOk_eq_ok, beq_iff_eq, mod0_eq_ok, va0, c0_eq_ok, immTy_eq_ok,
    immRM0, immSat0, dV_eq_ok, aV_eq_ok, bVS_eq_ok, exists_const, immVA_iff, immSat, immBS, Bool.not_eq_true']
  constructor
  · rintro ⟨hmd, h0, hc, t, ht, hok, hrm, hsat, d, hd, a, ha, b, ⟨hb, hbs⟩, rfl⟩
    exact ⟨t, d, a, b, ⟨ht, hrm, hsat, hbs, h0⟩, ⟨hmd, hc, hd, ha, hb⟩, hok, rfl⟩
  · rintro ⟨t, d, a, b, ⟨ht, hrm, hsat, hbs, h0⟩, ⟨hmd, hc, hd, ha, hb⟩, hok, rfl⟩
    exact ⟨hmd, h0, hc, t, ht, hok, hrm, hsat, d, hd, a, ha, b, ⟨hb, hbs⟩, rfl⟩

theorem decVa2r_eq_ok {r : Raw} {mk : Ty → RM → Bool → VDst → VSrc → VSSrc → Instr} {i : Instr} :
    decVa2r r mk = .ok i ↔ ∃ t rm sat d a b, r.imm = immVA t (encRM rm) sat (vsBS b) ∧
      (r.md = 0 ∧ r.c = 0 ∧ r.d = encVDst d ∧ r.a = encVSrc a ∧ r.b = vsB b) ∧
      ((t.isInt || t.isFl) = true ∧ rm.fitsTy t = true) ∧ mk t rm sat d a b = i := by
  simp only [decVa2r, Dec.bind_eq_ok, Dec.pure_eq_ok, encOk_eq_ok, beq_iff_eq, mod0_eq_ok, va0, c0_eq_ok, immTy_eq_ok,
    immRM_eq_ok, dV_eq_ok, aV_eq_ok, bVS_eq_ok, exists_const, immVA_iff, immSat, immBS]
  constructor
  · rintro ⟨hmd, h0, hc, t, ht, hok, rm, hrm, hfit, d, hd, a, ha, b, ⟨hb, hbs⟩, rfl⟩
    exact ⟨t, rm, _, d, a, b, ⟨ht, hrm, rfl, hbs, h0⟩, ⟨hmd, hc, hd, ha, hb⟩, ⟨hok, hfit⟩, rfl⟩
  · rintro ⟨t, rm, _, d, a, b, ⟨ht, hrm, rfl, hbs, h0⟩, ⟨hmd, hc, hd, ha, hb⟩, ⟨hok, hfit⟩, rfl⟩
    exact ⟨hmd, h0, hc, t, ht, hok, rm, hrm, hfit, d, hd, a, ha, b, ⟨hb, hbs⟩, rfl⟩

theorem decVa3r_eq_ok {r : Raw} {mk : Ty → RM → Bool → VDst → VSrc → VSSrc → VSrc → Instr} {i : Instr} :
    decVa3r r mk = .ok i ↔ ∃ t rm sat d a b c, r.imm = immVA t (encRM rm) sat (vsBS b) ∧
      (r.md = 0 ∧ r.d = encVDst d ∧ r.a = encVSrc a ∧ r.b = vsB b ∧ r.c = encVSrc c) ∧
      ((t.isInt || t.isFl) = true ∧ rm.fitsTy t = true) ∧ mk t rm sat d a b c = i := by
  simp only [decVa3r, Dec.bind_eq_ok, Dec.pure_eq_ok, encOk_eq_ok, beq_iff_eq, mod0_eq_ok, va0, immTy_eq_ok,
    immRM_eq_ok, dV_eq_ok, aV_eq_ok, bVS_eq_ok, cV_eq_ok, exists_const, immVA_iff, immSat, immBS]
  constructor
  · rintro ⟨hmd, h0, t, ht, hok, rm, hrm, hfit, d, hd, a, ha, b, ⟨hb, hbs⟩, c, hc, rfl⟩
    exact ⟨t, rm, _, d, a, b, c, ⟨ht, hrm, rfl, hbs, h0⟩, ⟨hmd, hd, ha, hb, hc⟩, ⟨hok, hfit⟩, rfl⟩
  · rintro ⟨t, rm, _, d, a, b, c, ⟨ht, hrm, rfl, hbs, h0⟩, ⟨hmd, hd, ha, hb, hc⟩, ⟨hok, hfit⟩, rfl⟩
    exact ⟨hmd, h0, t, ht, hok, rm, hrm, hfit, d, hd, a, ha, b, ⟨hb, hbs⟩, c, hc, rfl⟩

theorem decVa1r_eq_ok {r : Raw} {ok : Ty → Bool} {mk : Ty → RM → Bool → VDst → VSrc → Instr} {i : Instr} :
    decVa1r r ok mk = .ok i ↔ ∃ t rm sat d a, r.imm = immVA t (encRM rm) sat false ∧
      (r.md = 0 ∧ r.b = 0 ∧ r.c = 0 ∧ r.d = encVDst d ∧ r.a = encVSrc a) ∧
      (ok t = true ∧ rm.fitsTy t = true) ∧ mk t rm sat d a = i := by
  simp only [decVa1r, Dec.bind_eq_ok, Dec.pure_eq_ok, encOk_eq_ok, beq_iff_eq, mod0_eq_ok, va0, b0_eq_ok, c0_eq_ok,
    immBS0, immTy_eq_ok, immRM_eq_ok, dV_eq_ok, aV_eq_ok, exists_const, immVA_iff, immSat, immBS, Bool.not_eq_true']
  constructor
  · rintro ⟨hmd, h0, hb, hc, hbs, t, ht, hok, rm, hrm, hfit, d, hd, a, ha, rfl⟩
    exact ⟨t, rm, _, d, a, ⟨ht, hrm, rfl, hbs, h0⟩, ⟨hmd, hb, hc, hd, ha⟩, ⟨hok, hfit⟩, rfl⟩
  · rintro ⟨t, rm, _, d, a, ⟨ht, hrm, rfl, hbs, h0⟩, ⟨hmd, hb, hc, hd, ha⟩, ⟨hok, hfit⟩, rfl⟩
    exact ⟨hmd, h0, hb, hc, hbs, t, ht, hok, rm, hrm, hfit, d, hd, a, ha, rfl⟩

theorem decVabs_eq_ok {r : Raw} {mk : Ty → Bool → VDst → VSrc → Instr} {i : Instr} :
    decVabs r mk = .ok i ↔ ∃ t sat d a, r.imm = immVA t 0 sat false ∧
      (r.md = 0 ∧ r.b = 0 ∧ r.c = 0 ∧ r.d = encVDst d ∧ r.a = encVSrc a) ∧
      (t.absOk = true ∧ (!sat || t.isInt) = true) ∧ mk t sat d a = i := by
  simp only [decVabs, Dec.bind_eq_ok, Dec.pure_eq_ok, encOk_eq_ok, beq_iff_eq, mod0_eq_ok, va0, b0_eq_ok, c0_eq_ok,
    immBS0, immTy_eq_ok, immRM0, dV_eq_ok, aV_eq_ok, exists_const, immVA_iff, immSat, immBS, Bool.not_eq_true']
  constructor
  · rintro ⟨hmd, h0, hb, hc, hbs, t, ht, hok, hrm, hsat, d, hd, a, ha, rfl⟩
    exact ⟨t, _, d, a, ⟨ht, hrm, rfl, hbs, h0⟩, ⟨hmd, hb, hc, hd, ha⟩, ⟨hok, hsat⟩, rfl⟩
  · rintro ⟨t, _, d, a, ⟨ht, hrm, rfl, hbs, h0⟩, ⟨hmd, hb, hc, hd, ha⟩, ⟨hok, hsat⟩, rfl⟩
    exact ⟨hmd, h0, hb, hc, hbs, t, ht, hok, hrm, hsat, d, hd, a, ha, rfl⟩

theorem decVrm_eq_ok {r : Raw} {mk : Ty → VDst → VSrc → Instr} {i : Instr} :
    decVrm r mk = .ok i ↔ ∃ t d a, r.imm = immVA t 0 false false ∧
      (r.md = 0 ∧ r.b = 0 ∧ r.c = 0 ∧ r.d = encVDst d ∧ r.a = encVSrc a) ∧
      (t.isInt || t.isFl) = true ∧ mk t d a = i := by
  simp only [decVrm, Dec.bind_eq_ok, Dec.pure_eq_ok, encOk_eq_ok, beq_iff_eq, mod0_eq_ok, va0, b0_eq_ok, c0_eq_ok,
    immBS0, immTy_eq_ok, immRM0, immSat0, dV_eq_ok, aV_eq_ok, exists_const, immVA_iff, immSat, immBS, Bool.not_eq_true']
  constructor
  · rintro ⟨hmd, h0, hb, hc, hbs, t, ht, hok, hrm, hsat, d, hd, a, ha, rfl⟩
    exact ⟨t, d, a, ⟨ht, hrm, hsat, hbs, h0⟩, ⟨hmd, hb, hc, hd, ha⟩, hok, rfl⟩
  · rintro ⟨t, d, a, ⟨ht, hrm, hsat, hbs, h0⟩, ⟨hmd, hb, hc, hd, ha⟩, hok, rfl⟩
    exact ⟨hmd, h0, hb, hc, hbs, t, ht, hok, hrm, hsat, d, hd, a, ha, rfl⟩

-- memory words (R51, R53)

theorem decMaMod_eq_ok {r : Raw} {k : OrdKind} {sp sz : Bool} {o : Order} : decMaMod r k sp sz = .ok o ↔
    (maOrd r = encOrd o ∧ r.imm.extractLsb' 11 3 = encOrdScope o) ∧ o.fits k = true ∧
      (!maSP r || (sp && o == .none)) = true ∧ (sz || maSZ r == 0) = true := by
  simp only [decMaMod, Dec.bind_eq_ok, Dec.pure_eq_ok, encOk_eq_ok, encSome_eq_ok, decOrder_eq_some, exists_const]
  constructor
  · rintro ⟨o, ho, hk, hsp, hsz, rfl⟩
    exact ⟨ho, hk, hsp, hsz⟩
  · rintro ⟨ho, hk, hsp, hsz⟩
    exact ⟨o, ho, hk, hsp, hsz, rfl⟩

theorem decMaBuf_eq_ok {r : Raw} {u : Unit} : decMaBuf r = .ok u ↔
    (maBI r = true → r.b = 0) ∧ (maBI r = false → r.imm.extractLsb' 14 16 = 0) := by
  cases hb : maBI r <;> simp [decMaBuf, hb, b0_eq_ok, encOk_eq_ok]

theorem decMem_eq_ok {r : Raw} {o : Order} {disp : BitVec 11} {m : MemOp} : decMem r o disp = .ok m ↔
    (maBI r = bufBI m.buf ∧ (maBI r = true → r.imm.extractLsb' 14 16 = bufImm m.buf) ∧ (maBI r = false → r.b = bufB m.buf)) ∧
      r.c = encSSrc m.off ∧ m.ord = o ∧ m.disp = disp := by
  obtain ⟨buf, off, disp', ord⟩ := m
  rw [decMem]
  cases hb : maBI r <;> cases buf <;>
    simp only [if_true, Bool.false_eq_true, if_false, Dec.bind_eq_ok, Dec.map_eq_ok, Dec.pure_eq_ok, bS_eq_ok, cS_eq_ok,
      MemOp.mk.injEq, bufBI, bufImm, bufB] <;>
    simp [eq_comm (a := o), eq_comm (a := disp), and_assoc, and_comm, and_left_comm]

/-- MOD and IMM of a memory word, in their fields. -/
theorem encMA_iff {r : Raw} {sp : Bool} {sz : BitVec 2} {m : MemOp} {low : BitVec 11} :
    (r.md = BitVec.ofBool (bufBI m.buf) ++ encOrd m.ord ++ BitVec.ofBool sp ++ sz ∧
      r.imm = bufImm m.buf ++ encOrdScope m.ord ++ low) ↔
    (maBI r = bufBI m.buf ∧ maOrd r = encOrd m.ord ∧ maSP r = sp ∧ maSZ r = sz) ∧
      r.imm.extractLsb' 14 16 = bufImm m.buf ∧ r.imm.extractLsb' 11 3 = encOrdScope m.ord ∧ r.imm.extractLsb' 0 11 = low := by
  rw [eq_append_iff (m := 4) (n := 2), eq_append_iff (m := 3) (n := 1), eq_append_iff (m := 1) (n := 2),
    eq_append_iff (m := 19) (n := 11), eq_append_iff (m := 16) (n := 3)]
  simp only [extract_one, extract_extract, Nat.reduceLeDiff, Nat.reduceAdd, and_assoc, maBI, maOrd, maSP, maSZ]

/-- The three checks of a memory word hold exactly of the words that `encMA` makes. -/
theorem memory_word_iff {r : Raw} {k : OrdKind} {sp sz : Bool} {o : Order} {disp : BitVec 11} {m : MemOp} :
    (decMaMod r k sp sz = .ok o ∧ decMaBuf r = .ok () ∧ decMem r o disp = .ok m) ↔
    r = encMA r.hdr r.op (maSP r) (maSZ r) m (maDisp r) r.d r.a ∧ (m.ord = o ∧ m.disp = disp) ∧
      m.ord.fits k = true ∧ (!maSP r || (sp && m.ord == .none)) = true ∧ (sz || maSZ r == 0) = true := by
  have hma := encMA_iff (r := r) (sp := maSP r) (sz := maSZ r) (m := m) (low := maDisp r)
  have hr : r = encMA r.hdr r.op (maSP r) (maSZ r) m (maDisp r) r.d r.a ↔
      (r.md = BitVec.ofBool (bufBI m.buf) ++ encOrd m.ord ++ BitVec.ofBool (maSP r) ++ maSZ r ∧
        r.imm = bufImm m.buf ++ encOrdScope m.ord ++ maDisp r) ∧ r.b = bufB m.buf ∧ r.c = encSSrc m.off := by
    obtain ⟨s, pop, post, g, gn, op, md, d, a, b, c, imm⟩ := r
    simp only [encMA, rawOf, Raw.hdr, Raw.mk.injEq, true_and]
    tauto
  rw [hr, hma, decMaMod_eq_ok, decMaBuf_eq_ok, decMem_eq_ok]
  clear hr hma
  constructor
  · rintro ⟨⟨⟨ho, hs⟩, hk, hsp, hsz⟩, ⟨hb1, hb0⟩, ⟨hbi, hi, hb⟩, hc, rfl, rfl⟩
    cases hbuf : m.buf <;> simp_all [bufBI, bufB, bufImm, maDisp]
  · rintro ⟨⟨⟨⟨hbi, ho, -, -⟩, hi, hs, -⟩, hb, hc⟩, ⟨rfl, rfl⟩, hk, hsp, hsz⟩
    refine ⟨⟨⟨ho, hs⟩, hk, hsp, hsz⟩, ⟨?_, ?_⟩, ⟨hbi, fun _ => hi, fun _ => hb⟩, hc, rfl, rfl⟩
    all_goals cases hbuf : m.buf <;> simp_all [bufBI, bufB, bufImm]

theorem decSx_eq_ok {r : Raw} {sx : Bool} : decSx r = .ok sx ↔ r.a = encSxA sx ∧ (!(sx && maSZ r == 3)) = true := by
  rw [decSx]
  cases sx
  · split
    · next h => simp [h, encSxA]
    · next h =>
      refine ⟨fun h' => ?_, fun h' => absurd h'.1 h⟩
      split at h'
      · split at h' <;> cases h'
      · cases h'
  · split
    · next h => simp [h, encSxA]
    · split
      · next h =>
        split
        · next h3 => simp [h3]
        · next h3 => simpa [h, encSxA] using h3
      · next h => exact ⟨nofun, fun h' => absurd h'.1 h⟩

end Sys2Proof
end

section
/-! SUPPORT. What an engine's decoder accepts is an encoding (03 R46, R49, R58): one lemma for each group of opcodes. -/

namespace Sys2Proof

theorem append3_iff {x : BitVec 50} {b c : BitVec 10} {i : BitVec 30} :
    x = b ++ c ++ i ↔ x.extractLsb' 40 10 = b ∧ x.extractLsb' 30 10 = c ∧ x.extractLsb' 0 30 = i := by
  rw [eq_append_iff (m := 20) (n := 30), eq_append_iff (m := 10) (n := 10)]
  simp only [extract_extract, Nat.reduceLeDiff, Nat.reduceAdd, and_assoc]

/-- B, C and IMM of LIH: its 32 bits, with zeros above. -/
theorem lih_fields_iff {b c : BitVec 10} {i : BitVec 30} {k : BitVec 32} : b ++ c ++ i = (0 : BitVec 18) ++ k ↔
    b = 0 ∧ c = (0 : BitVec 8) ++ k.extractLsb' 30 2 ∧ i = k.extractLsb' 0 30 := by
  obtain ⟨hb, hc, hi⟩ := append3_iff.mp (rfl : b ++ c ++ i = b ++ c ++ i)
  generalize b ++ c ++ i = x at hb hc hi
  subst hb hc hi
  have hk : k = k.extractLsb' 30 2 ++ k.extractLsb' 0 30 := (eq_append_iff (m := 2) (n := 30)).mpr ⟨rfl, rfl⟩
  rw [eq_append_iff (m := 18) (n := 32), eq_append_iff (m := 8) (n := 2),
    show (0 : BitVec 18) = (0 : BitVec 10) ++ (0 : BitVec 8) from rfl, eq_append_iff (m := 10) (n := 8)]
  conv => lhs; rhs; rw [hk, eq_append_iff (m := 2) (n := 30)]
  simp only [extract_extract, Nat.reduceLeDiff, Nat.reduceAdd, and_assoc]

theorem immField_iff {x : BitVec 30} {w1 pos : BitVec 6} :
    x = (0 : BitVec 18) ++ w1 ++ pos ↔ x.extractLsb' 12 18 = 0 ∧ x.extractLsb' 6 6 = w1 ∧ x.extractLsb' 0 6 = pos := by
  rw [eq_append_iff (m := 24) (n := 6), eq_append_iff (m := 18) (n := 6)]
  simp only [extract_extract, Nat.reduceLeDiff, Nat.reduceAdd, and_assoc]

theorem loops_imm_iff {x : BitVec 30} {m : BitVec 3} {w : BitVec 16} :
    x = (0 : BitVec 11) ++ m ++ w ↔ x.extractLsb' 19 11 = 0 ∧ x.extractLsb' 16 3 = m ∧ x.extractLsb' 0 16 = w := by
  rw [eq_append_iff (m := 14) (n := 16), eq_append_iff (m := 11) (n := 3)]
  simp only [extract_extract, Nat.reduceLeDiff, Nat.reduceAdd, and_assoc]

theorem immOfTarget_immTarget (x : BitVec 30) : immOfTarget (immTarget x) = x := ((immOfTarget_iff x _).mpr rfl).symm
theorem immBo_asBo (r : Raw) : immBo (asBo r) = r.imm := ((immBo_iff r.imm _).mpr ⟨rfl, rfl⟩).symm

theorem zero_append_eq {m n : Nat} {x : BitVec (m + n)} (h : x.extractLsb' n m = 0) :
    (0 : BitVec m) ++ x.extractLsb' 0 n = x := (eq_append_iff.mpr ⟨h, rfl⟩).symm

/-- A row whose engines are fixed by its opcode alone is well-formed when its header is. -/
theorem and_of {a b : Bool} (ha : a = true) (hb : b = true) : (a && b) = true := Bool.and_eq_true_iff.mpr ⟨ha, hb⟩

theorem some_raw_congr {s gn : Bool} {pop post : BitVec 3} {g : BitVec 4} {op : BitVec 8} {md md' : BitVec 6}
    {d a b c : BitVec 10} {imm imm' : BitVec 30} (hmd : md' = md) (himm : imm' = imm) :
    some (Raw.mk s pop post g gn op md' d a b c imm') = some (Raw.mk s pop post g gn op md d a b c imm) := by
  rw [hmd, himm]

/-- MOD of the words that name a loop level. -/
theorem level_md_eq {md : BitVec 6} (h : md.extractLsb' 2 4 = 0) :
    (0 : BitVec 4) ++ BitVec.ofNat 2 (Fin.ofNat 4 (md.extractLsb' 0 2).toNat).val = md := by
  have hl : BitVec.ofNat 2 (Fin.ofNat 4 (md.extractLsb' 0 2).toNat).val = md.extractLsb' 0 2 :=
    BitVec.eq_of_toNat_eq (by simp [Fin.ofNat])
  rw [hl]
  exact zero_append_eq (m := 4) (n := 2) h

theorem getLsbD_signExtend7 (x : BitVec 7) {i : Nat} (hi : i < 7) : (x.signExtend 11).getLsbD i = x.getLsbD i := by
  rw [BitVec.getLsbD_signExtend, decide_eq_true (show i < 11 by omega), if_pos hi, Bool.true_and]

theorem setWidth_signExtend7 (x : BitVec 7) : (x.signExtend 11).setWidth 7 = x := by
  apply BitVec.eq_of_getLsbD_eq
  intro i hi
  rw [BitVec.getLsbD_setWidth, getLsbD_signExtend7 x hi, decide_eq_true hi, Bool.true_and]

theorem extract_signExtend7 (x : BitVec 7) : (x.signExtend 11).extractLsb' 0 7 = x := by
  apply BitVec.eq_of_getLsbD_eq
  intro i hi
  rw [BitVec.getLsbD_extractLsb', Nat.zero_add, getLsbD_signExtend7 x hi, decide_eq_true hi, Bool.true_and]

theorem dispFits7_signExtend (x : BitVec 7) : dispFits7 (x.signExtend 11) = true := by
  rw [dispFits7, setWidth_signExtend7]
  exact beq_self_eq_true _

variable {e : Eng} {r : Raw} {i : Instr}

-- memory words: the fields that MOD and IMM give them

section
variable {k : OrdKind} {sp sz : Bool} {o : Order} {disp : BitVec 11} {m : MemOp}

theorem maSP_of_decMaMod (hmod : decMaMod r k false sz = .ok o) : maSP r = false := by
  simpa using (decMaMod_eq_ok.mp hmod).2.2.1

theorem maSZ_of_decMaMod (hmod : decMaMod r k sp false = .ok o) : maSZ r = 0 := by
  simpa using (decMaMod_eq_ok.mp hmod).2.2.2

theorem wf_of_decMaMod (hmod : decMaMod r k sp sz = .ok o) (hmem : decMem r o disp = .ok m) : m.wf k = true := by
  obtain ⟨-, hk, -, -⟩ := decMaMod_eq_ok.mp hmod
  obtain ⟨-, -, rfl, -⟩ := decMem_eq_ok.mp hmem
  exact hk

theorem wfSp_of_decMaMod (hmod : decMaMod r .acq true sz = .ok o) (hmem : decMem r o disp = .ok m) :
    m.wfSp (maSP r) = true := by
  obtain ⟨-, hk, hsp, -⟩ := decMaMod_eq_ok.mp hmod
  obtain ⟨-, -, rfl, -⟩ := decMem_eq_ok.mp hmem
  exact and_of hk hsp

theorem disp_of_decMem (hmem : decMem r o disp = .ok m) : disp = m.disp := (decMem_eq_ok.mp hmem).2.2.2.symm

/-- A word whose memory operand decodes is the encoding of that operand with its other fields. -/
theorem encMA_of_dec {op : BitVec 8} {low : BitVec 11} {d a : BitVec 10} {ssp : Bool} {ssz : BitVec 2}
    (hmod : decMaMod r k sp sz = .ok o) (hbuf : decMaBuf r = .ok ()) (hmem : decMem r o disp = .ok m)
    (hsp : maSP r = ssp) (hsz : maSZ r = ssz) (hlow : maDisp r = low) (hop : r.op = op) (hd : r.d = d) (ha : r.a = a) :
    some (encMA r.hdr op ssp ssz m low d a) = some r := by
  subst hsp hsz hlow hop hd ha
  exact congrArg some (memory_word_iff.mp ⟨hmod, hbuf, hmem⟩).1.symm

end

theorem encodeRaw_of_decCtl (hv : opValidOn e r.op = true) (hw : r.hdr.wf e = true) (hd : decCtl r r.hdr = .ok i) :
    encodeRaw i = some r ∧ i.wf e = true := by
  obtain ⟨s, pop, post, g, gn, op, md, d, a, b, c, imm⟩ := r
  revert hd
  unfold decCtl
  split
  case h_24 => exact nofun
  all_goals
    rename_i hop
    have hop : op = _ := eq_of_toNat_ofNat hop
    simp only [decN_eq_ok, decBT_eq_ok, decCode_eq_ok, decCond_eq_some, decCsr_eq_some, mod0_eq_ok, imm0_eq_ok, d0_eq_ok,
      a0_eq_ok, b0_eq_ok, c0_eq_ok, dS_eq_ok, aS_eq_ok, bS_eq_ok, aP_eq_ok, Dec.bind_eq_ok, Dec.pure_eq_ok, encOk_eq_ok,
      encSome_eq_ok, beq_iff_eq, exists_const, forall_exists_index, and_imp]
    intros
    subst_vars
  case h_3 => exact ⟨some_raw_congr rfl (immOfTarget_immTarget _), hw⟩
  case h_4 hm _ =>
    exact ⟨some_raw_congr ((eq_append_iff (m := 5) (n := 1)).mpr ⟨hm, (extract_one _ _).mpr rfl⟩).symm
      (immOfTarget_immTarget _), and_of hw hv⟩
  case h_7 hm hi _ => exact ⟨some_raw_congr (level_md_eq hm) (zero_append_eq (m := 14) (n := 16) hi), hw⟩
  case h_8 hm hi _ =>
    exact ⟨some_raw_congr (level_md_eq hm) (loops_imm_iff.mpr ⟨hi, rfl, rfl⟩).symm, hw⟩
  case h_9 hm => exact ⟨some_raw_congr (level_md_eq hm) rfl, hw⟩
  case h_13 o u m hmod hbuf hmem =>
    exact ⟨encMA_of_dec hmod hbuf hmem (maSP_of_decMaMod hmod) (maSZ_of_decMaMod hmod) (disp_of_decMem hmem) rfl rfl rfl,
      and_of (and_of hw hv) (wf_of_decMaMod hmod hmem)⟩
  case h_16 | h_22 | h_23 => exact ⟨rfl, and_of hw hv⟩
  case h_19 hi _ hc _ => exact ⟨some_raw_congr rfl ((eq_append_iff (m := 18) (n := 12)).mpr ⟨hi, hc⟩).symm, hw⟩
  case h_20 hi _ hc hwr _ =>
    exact ⟨some_raw_congr rfl ((eq_append_iff (m := 18) (n := 12)).mpr ⟨hi, hc⟩).symm, and_of hw hwr⟩
  all_goals exact ⟨rfl, hw⟩

theorem encodeRaw_of_decScalar (hw : r.hdr.wf e = true) (hd : decScalar r r.hdr = .ok i) :
    encodeRaw i = some r ∧ i.wf e = true := by
  obtain ⟨s, pop, post, g, gn, op, md, d, a, b, c, imm⟩ := r
  revert hd
  unfold decScalar
  split
  case h_32 => exact nofun
  all_goals
    rename_i hop
    have hop : op = _ := eq_of_toNat_ofNat hop
    simp only [decS2_eq_ok, decS1_eq_ok, decSI_eq_ok, decSh_eq_ok, decU_eq_ok, mod0_eq_ok, imm0_eq_ok, a0_eq_ok, b0_eq_ok,
      c0_eq_ok, dS_eq_ok, aS_eq_ok, bS_eq_ok, cS_eq_ok, Dec.bind_eq_ok, Dec.pure_eq_ok, encOk_eq_ok, encSome_eq_ok,
      decSatMode_eq_some, decCond_eq_some, beq_iff_eq, decide_eq_true_eq, exists_const, forall_exists_index, and_imp]
    intros
    subst_vars
  -- signed and unsigned mnemonics of one opcode (R53)
  case h_5 u _ _ _ | h_6 u _ _ _ | h_7 u _ _ _ | h_23 u _ _ _ | h_24 u _ _ _ => cases u <;> exact ⟨rfl, hw⟩
  -- LI, LIH, BEXT and BINS, whose constants lie across fields
  case h_27 =>
    obtain ⟨hb, hc, hi⟩ := append3_iff.mp (rfl : b ++ c ++ imm = b ++ c ++ imm)
    exact ⟨by simp only [encodeRaw, hb, hc, hi]; rfl, hw⟩
  case h_28 hi _ _ =>
    obtain ⟨hb, hc, hi⟩ := lih_fields_iff.mp ((eq_append_iff (m := 18) (n := 32)).mpr ⟨hi, rfl⟩)
    exact ⟨by simp only [encodeRaw, ← hc, ← hi]; rw [hb]; rfl, hw⟩
  case h_30 hi hp _ _ | h_31 hi hp _ _ _ =>
    exact ⟨some_raw_congr rfl (immField_iff.mpr ⟨hi, rfl, rfl⟩).symm,
      and_of hw (decide_eq_true hp)⟩
  all_goals exact ⟨rfl, hw⟩

theorem encodeRaw_of_decAsync (hv : opValidOn e r.op = true) (hw : r.hdr.wf e = true) (hd : decAsync r r.hdr = .ok i) :
    encodeRaw i = some r ∧ i.wf e = true := by
  obtain ⟨s, pop, post, g, gn, op, md, d, a, b, c, imm⟩ := r
  revert hd
  unfold decAsync
  split
  case h_12 => exact nofun
  all_goals
    rename_i hop
    have hop : op = _ := eq_of_toNat_ofNat hop
    simp only [decS2_eq_ok, decS1_eq_ok, mod0_eq_ok, b0_eq_ok, c0_eq_ok, dS_eq_ok, aS_eq_ok, bS_eq_ok, cS_eq_ok,
      Dec.bind_eq_ok, Dec.pure_eq_ok, encOk_eq_ok, beq_iff_eq, decide_eq_true_eq, exists_const, forall_exists_index, and_imp]
    intros
    subst_vars
  case h_1 hi h9 _ _ _ =>
    exact ⟨some_raw_congr rfl (zero_append_eq (m := 26) (n := 4) hi),
      and_of (and_of hw hv) (decide_eq_true h9)⟩
  case h_2 | h_3 | h_4 | h_11 => exact ⟨rfl, and_of hw hv⟩
  all_goals exact ⟨some_raw_congr rfl (immBo_asBo _), and_of hw hv⟩

theorem encodeRaw_of_decMatrix (hv : opValidOn e r.op = true) (hw : r.hdr.wf e = true) (hd : decMatrix r r.hdr = .ok i) :
    encodeRaw i = some r ∧ i.wf e = true := by
  obtain ⟨s, pop, post, g, gn, op, md, d, a, b, c, imm⟩ := r
  revert hd
  unfold decMatrix
  split
  case h_10 => exact nofun
  all_goals
    rename_i hop
    have hop : op = _ := eq_of_toNat_ofNat hop
    simp only [decMcA_eq_ok, decMmaC_eq_ok, decVReg_eq_some, mod0_eq_ok, mc0, mcK, d0_eq_ok, a0_eq_ok, b0_eq_ok, c0_eq_ok,
      dS_eq_ok, bS_eq_ok, opOk_eq_ok, Dec.bind_eq_ok, Dec.pure_eq_ok, encOk_eq_ok, beq_iff_eq, exists_const,
      forall_exists_index, and_imp]
    intros
    subst_vars
  case h_1 | h_2 | h_4 | h_9 => exact ⟨rfl, and_of hw hv⟩
  case h_3 hi | h_8 hi _ =>
    exact ⟨some_raw_congr rfl ((immMC_zero_iff _ _).mpr ⟨hi, rfl⟩).symm,
      and_of hw hv⟩
  case h_5 hi _ _ _ hc =>
    exact ⟨some_raw_congr rfl ((immMC_iff _ _ _).mpr ⟨hi, rfl, rfl⟩).symm,
      and_of (and_of hw hv) hc⟩
  case h_6 hi | h_7 hi _ _ =>
    exact ⟨some_raw_congr rfl ((immMC_iff _ _ _).mpr ⟨hi, rfl, rfl⟩).symm,
      and_of hw hv⟩

theorem encodeRaw_of_decMemory (hv : opValidOn e r.op = true) (hw : r.hdr.wf e = true) (hd : decMemory r r.hdr = .ok i) :
    encodeRaw i = some r ∧ i.wf e = true := by
  revert hd
  unfold decMemory
  split
  case h_21 => exact nofun
  all_goals
    rename_i hop
    have hop : r.op = _ := eq_of_toNat_ofNat hop
    rw [hop] at hv
    simp only [decSx_eq_ok, decAmoOp_eq_some, decTy_eq_some, decScope_eq_some, decLevel_eq_some, imm0_eq_ok,
      d0_eq_ok, a0_eq_ok, b0_eq_ok, c0_eq_ok, dS_eq_ok, aS_eq_ok, dV_eq_ok, aV_eq_ok, decSSrc_eq_some, decVSrc_eq_some,
      opOk_eq_ok, Dec.bind_eq_ok, Dec.pure_eq_ok, encOk_eq_ok, encSome_eq_ok, beq_iff_eq, exists_const,
      forall_exists_index, and_imp]
  case h_1 =>
    rintro o hmod _ hbuf sx ha hsx d hd m hmem rfl
    exact ⟨encMA_of_dec hmod hbuf hmem rfl rfl (disp_of_decMem hmem) hop hd ha,
      and_of (and_of (and_of hw hv) (wfSp_of_decMaMod hmod hmem)) hsx⟩
  case h_2 =>
    rintro o hmod _ hbuf hd a ha m hmem rfl
    exact ⟨encMA_of_dec hmod hbuf hmem (maSP_of_decMaMod hmod) rfl (disp_of_decMem hmem) hop hd ha,
      and_of (and_of hw hv) (wf_of_decMaMod hmod hmem)⟩
  case h_3 =>
    rintro o hmod _ hbuf sx ha hsx d hd m hmem rfl
    exact ⟨encMA_of_dec hmod hbuf hmem (maSP_of_decMaMod hmod) rfl (disp_of_decMem hmem) hop hd ha,
      and_of (and_of (and_of hw hv) (wf_of_decMaMod hmod hmem)) hsx⟩
  case h_4 =>
    rintro o hmod f hf hsz _ hbuf d hd a ha m hmem rfl
    have hdisp := disp_of_decMem hmem
    have hlow : maDisp r = encAmoOp f ++ m.disp.extractLsb' 0 7 := by
      rw [← hdisp, extract_signExtend7]
      exact (eq_append_iff (m := 4) (n := 7)).mpr
        ⟨(extract_extract _ (by omega)).trans hf, extract_extract _ (by omega)⟩
    exact ⟨encMA_of_dec hmod hbuf hmem (maSP_of_decMaMod hmod) rfl hlow hop hd ha,
      and_of (and_of (and_of (and_of hw hv) (wf_of_decMaMod hmod hmem)) hsz) (hdisp ▸ dispFits7_signExtend _)⟩
  case h_5 =>
    rintro o hmod _ hbuf d hd a ha m hmem rfl
    exact ⟨encMA_of_dec hmod hbuf hmem (maSP_of_decMaMod hmod) rfl (disp_of_decMem hmem) hop hd ha,
      and_of (and_of hw hv) (wf_of_decMaMod hmod hmem)⟩
  case h_6 =>
    rintro o hmod _ hbuf ha d hd m hmem rfl
    exact ⟨encMA_of_dec hmod hbuf hmem rfl (maSZ_of_decMaMod hmod) (disp_of_decMem hmem) hop hd ha,
      and_of (and_of hw hv) (wfSp_of_decMaMod hmod hmem)⟩
  case h_7 | h_8 =>
    rintro o hmod _ hbuf d hd a ha m hmem rfl
    exact ⟨encMA_of_dec hmod hbuf hmem rfl rfl (disp_of_decMem hmem) hop hd ha,
      and_of (and_of hw hv) (wfSp_of_decMaMod hmod hmem)⟩
  case h_9 =>
    rintro o hmod _ hbuf ha d hd m hmem rfl
    exact ⟨encMA_of_dec hmod hbuf hmem rfl rfl (disp_of_decMem hmem) hop hd ha,
      and_of (and_of hw hv) (wfSp_of_decMaMod hmod hmem)⟩
  case h_11 | h_12 =>
    rintro o hmod _ hbuf d hd a ha m hmem rfl
    exact ⟨encMA_of_dec hmod hbuf hmem (maSP_of_decMaMod hmod) rfl (disp_of_decMem hmem) hop hd ha,
      and_of (and_of hw hv) (wf_of_decMaMod hmod hmem)⟩
  case h_10 | h_18 | h_19 =>
    rintro o hmod _ hbuf hd a ha m hmem rfl
    exact ⟨encMA_of_dec hmod hbuf hmem (maSP_of_decMaMod hmod) (maSZ_of_decMaMod hmod) (disp_of_decMem hmem) hop hd ha,
      and_of (and_of hw hv) (wf_of_decMaMod hmod hmem)⟩
  case h_13 | h_20 =>
    rintro o hmod _ hbuf d hd a ha m hmem rfl
    exact ⟨encMA_of_dec hmod hbuf hmem (maSP_of_decMaMod hmod) (maSZ_of_decMaMod hmod) (disp_of_decMem hmem) hop hd ha,
      and_of (and_of hw hv) (wf_of_decMaMod hmod hmem)⟩
  case h_14 =>
    rintro o hmod f hf h0 _ hbuf hd t ht hft hsz a ha m hmem rfl
    have hlow : maDisp r = encAmoOp f ++ encTy t ++ (0 : BitVec 3) :=
      (eq_append_iff (m := 8) (n := 3)).mpr ⟨(eq_append_iff (m := 4) (n := 4)).mpr
        ⟨by simpa only [maDisp, extract_extract, Nat.reduceLeDiff, Nat.reduceAdd] using hf,
          by simpa only [maDisp, extract_extract, Nat.reduceLeDiff, Nat.reduceAdd] using ht⟩,
        (extract_extract _ (by omega)).trans h0⟩
    exact ⟨encMA_of_dec hmod hbuf hmem (maSP_of_decMaMod hmod) hsz hlow hop hd ha,
      and_of (and_of (and_of (and_of hw hv) (wf_of_decMaMod hmod hmem)) hft) (beq_iff_eq.mpr (disp_of_decMem hmem).symm)⟩
  all_goals obtain ⟨s, pop, post, g, gn, op, md, d, a, b, c, imm⟩ := r
  case h_15 =>
    rintro hm sc hsc rfl rfl rfl rfl rfl rfl
    obtain rfl : op = _ := hop
    exact ⟨some_raw_congr ((eq_append_iff (m := 3) (n := 3)).mpr ⟨hm, hsc⟩).symm rfl, and_of hw hv⟩
  case h_16 =>
    rintro hm sc hsc hi hmask rfl rfl rfl rfl rfl
    obtain rfl : op = _ := hop
    exact ⟨some_raw_congr ((eq_append_iff (m := 3) (n := 3)).mpr ⟨hm, hsc⟩).symm (zero_append_eq (m := 26) (n := 4) hi),
      and_of (and_of hw hv) hmask⟩
  case h_17 =>
    rintro lv rfl rfl rfl rfl rfl rfl rfl
    obtain rfl : op = _ := hop
    exact ⟨rfl, hw⟩

end Sys2Proof
end

section
/-! SUPPORT. The same for the vector words (formats VA, VC, VP and PD). -/

namespace Sys2Proof

variable {e : Eng} {r : Raw} {i : Instr}

theorem vcmp_types {t : Ty} {c : VCond} (ht : (t.isInt || t.isFl) = true) (hc : (t.isFl || c.quiet) = true) :
    (t.isFl || (t.isInt && c.quiet)) = true := by
  cases hf : t.isFl <;> simp_all

theorem encodeRaw_of_decVector (hv : opValidOn e r.op = true) (hw : r.hdr.wf e = true) (hd : decVector r r.hdr = .ok i) :
    encodeRaw i = some r ∧ i.wf e = true := by
  obtain ⟨s, pop, post, g, gn, op, md, d, a, b, c, imm⟩ := r
  revert hd
  unfold decVector
  split
  case h_34 => exact nofun
  all_goals
    rename_i hop
    obtain rfl : op = _ := eq_of_toNat_ofNat hop
  -- VCLASS, whose destination BS chooses
  case h_29 =>
    simp only [mod0_eq_ok, va0, c0_eq_ok, immTy_eq_ok, immRM0, immSat0, Dec.bind_eq_ok, encOk_eq_ok, beq_iff_eq,
      exists_const, forall_exists_index, and_imp]
    rintro rfl h0 rfl hb t ht hcl hrm hsat
    rw [Bool.not_eq_true'] at hsat
    split
    · next hbs =>
      simp only [dP_eq_ok, aV_eq_ok, bS_eq_ok, Dec.bind_eq_ok, Dec.pure_eq_ok, forall_exists_index, and_imp]
      rintro d rfl hd a rfl b rfl rfl
      exact ⟨some_raw_congr rfl ((immVA_iff _ _ _ _ _).mpr ⟨ht, hrm, hsat, hbs, h0⟩).symm,
        and_of (and_of (and_of hw hv) hcl) (bne_iff_ne.mpr hd)⟩
    · next hbs =>
      rw [Bool.not_eq_true] at hbs
      simp only [dV_eq_ok, aV_eq_ok, Dec.bind_eq_ok, Dec.pure_eq_ok, forall_exists_index, and_imp]
      rintro d rfl a rfl rfl
      obtain rfl : b = 0 := by
        rw [hbs] at hb
        exact beq_iff_eq.mp hb
      exact ⟨some_raw_congr rfl ((immVA_iff _ _ _ _ _).mpr ⟨ht, hrm, hsat, hbs, h0⟩).symm,
        and_of (and_of hw hv) hcl⟩
  all_goals
    simp only [decVa2_eq_ok, decVa2r_eq_ok, decVa3r_eq_ok, decVa1r_eq_ok, decVabs_eq_ok, decVrm_eq_ok,
      decVCond_eq_some, mod0_eq_ok, va0, c0_eq_ok, immTy_eq_ok, immRM0, immSat0, dP_eq_ok, aP_eq_ok, dV_eq_ok, aV_eq_ok,
      bVS_eq_ok, cV_eq_ok, Dec.bind_eq_ok, Dec.pure_eq_ok, encOk_eq_ok, encSome_eq_ok, beq_iff_eq, exists_const,
      forall_exists_index, and_imp]
  -- VADD, VSUB, VMUL
  case h_1 | h_2 | h_3 =>
    rintro t rm sat d a b rfl rfl rfl rfl rfl rfl ht hrm rfl
    exact ⟨rfl, and_of (and_of (and_of hw hv) ht) hrm⟩
  -- the fused words
  case h_5 | h_6 | h_7 =>
    rintro t rm sat d a b c rfl rfl rfl rfl rfl rfl ht hrm rfl
    exact ⟨rfl, and_of (and_of (and_of hw hv) ht) hrm⟩
  -- words of two sources that do not round
  case h_4 | h_8 | h_9 | h_24 | h_25 | h_26 =>
    rintro t d a b rfl rfl rfl rfl rfl rfl ht rfl
    exact ⟨rfl, and_of (and_of hw hv) ht⟩
  case h_21 | h_22 | h_23 =>
    rintro t d a b rfl rfl rfl rfl rfl rfl - rfl
    exact ⟨rfl, and_of hw hv⟩
  -- VABS, VNEG
  case h_10 | h_11 =>
    rintro t sat d a rfl rfl rfl rfl rfl rfl ht hsat rfl
    exact ⟨rfl, and_of (and_of (and_of hw hv) ht) hsat⟩
  -- the functions of R115
  case h_12 | h_13 | h_14 | h_15 | h_16 | h_17 | h_18 | h_19 | h_20 =>
    rintro t rm sat d a rfl rfl rfl rfl rfl rfl ht - rfl
    exact ⟨rfl, and_of (and_of hw hv) ht⟩
  -- VCMP
  case h_27 =>
    rintro cd rfl h0 rfl t ht hty hq hrm hsat d rfl hd a rfl b rfl hbs rfl
    rw [Bool.not_eq_true'] at hsat
    exact ⟨some_raw_congr rfl ((immVA_iff _ _ _ _ _).mpr ⟨ht, hrm, hsat, hbs, h0⟩).symm,
      and_of (and_of (and_of hw hv) (vcmp_types hty hq)) (bne_iff_ne.mpr hd)⟩
  -- VSEL
  case h_28 =>
    rintro rfl h0 t ht hrm hsat d rfl a rfl b rfl hbs c rfl rfl
    rw [Bool.not_eq_true'] at hsat
    exact ⟨some_raw_congr rfl ((immVA_iff _ _ _ _ _).mpr ⟨ht, hrm, hsat, hbs, h0⟩).symm, and_of hw hv⟩
  -- VRADD, VSCAN
  case h_30 | h_33 =>
    rintro t rm sat d a rfl rfl rfl rfl rfl rfl ht hrm rfl
    exact ⟨rfl, and_of (and_of (and_of hw hv) ht) hrm⟩
  -- VRMAX, VRMIN
  case h_31 | h_32 =>
    rintro t d a rfl rfl rfl rfl rfl rfl ht rfl
    exact ⟨rfl, and_of (and_of hw hv) ht⟩

theorem pred_md_eq_two {md : BitVec 6} (h : md.extractLsb' 2 4 = 0) (h0 : md ≠ 0) (h1 : md ≠ 1) (h3 : md ≠ 3) : md = 2 := by
  have hlt : md.toNat / 4 % 16 = 0 := by
    simpa [BitVec.extractLsb'_toNat, Nat.shiftRight_eq_div_pow] using congrArg BitVec.toNat h
  simp only [ne_eq, ← BitVec.toNat_inj] at h0 h1 h3 ⊢
  have := md.isLt
  simp at h0 h1 h3 ⊢
  omega

theorem encodeRaw_of_decConvert (hv : opValidOn e r.op = true) (hw : r.hdr.wf e = true) (hd : decConvert r r.hdr = .ok i) :
    encodeRaw i = some r ∧ i.wf e = true := by
  obtain ⟨s, pop, post, g, gn, op, md, d, a, b, c, imm⟩ := r
  revert hd
  unfold decConvert
  split
  case h_21 => exact nofun
  all_goals
    rename_i hop
    obtain rfl : op = _ := eq_of_toNat_ofNat hop
  -- PAND, POR, PXOR and PNOT, which MOD tells apart
  case h_15 =>
    simp only [vp0, c0_eq_ok, immTy_eq_ok, dP_eq_ok, aP_eq_ok, Dec.bind_eq_ok, encOk_eq_ok, beq_iff_eq, exists_const,
      forall_exists_index, and_imp]
    rintro hmd h0 rfl hb t ht d rfl hd a rfl
    have himm := ((immVP_zero_iff _ _).mpr ⟨ht, h0⟩).symm
    split
    · next h3 =>
      obtain rfl : md = 3 := h3
      obtain rfl : b = 0 := by simpa using hb
      rintro hi
      cases Dec.pure_eq_ok.mp hi
      exact ⟨some_raw_congr rfl himm, and_of (and_of hw hv) (bne_iff_ne.mpr hd)⟩
    · next h3 =>
      simp only [bP_eq_ok, Dec.bind_eq_ok, Dec.pure_eq_ok, forall_exists_index, and_imp]
      rintro b rfl rfl
      split
      · next hm =>
        obtain rfl : md = 0 := hm
        exact ⟨some_raw_congr rfl himm, and_of (and_of hw hv) (bne_iff_ne.mpr hd)⟩
      · next hm0 =>
        split
        · next hm =>
          obtain rfl : md = 1 := hm
          exact ⟨some_raw_congr rfl himm, and_of (and_of hw hv) (bne_iff_ne.mpr hd)⟩
        · next hm1 =>
          obtain rfl : md = 2 := pred_md_eq_two hmd hm0 hm1 h3
          exact ⟨some_raw_congr rfl himm, and_of (and_of hw hv) (bne_iff_ne.mpr hd)⟩
  all_goals
    simp only [decVc_eq_ok, decLane_eq_ok, decVRange_eq_some, decVDst_eq_some, mod0_eq_ok, va0, vp0, b0_eq_ok, c0_eq_ok,
      immTy_eq_ok, immRM_eq_ok, dS_eq_ok, bS_eq_ok, cS_eq_ok, dP_eq_ok, aP_eq_ok, bP_eq_ok, dV_eq_ok, aV_eq_ok, bV_eq_ok,
      bVS_eq_ok, opOk_eq_ok, Dec.bind_eq_ok, Dec.pure_eq_ok, encOk_eq_ok, beq_iff_eq, Bool.and_eq_true, exists_const,
      Prod.exists, forall_exists_index, and_imp]
  -- VCVT
  case h_1 =>
    rintro rfl rfl dt st rm sat part rfl rfl hr hp d rfl a rfl rfl
    exact ⟨rfl, and_of (and_of (and_of hw hv) hr) hp⟩
  -- VQMX
  case h_2 =>
    rintro rfl dt st rm sat part rfl rfl hmx hfl hp hbd d rfl a rfl b rfl rfl
    refine ⟨rfl, and_of (and_of (and_of (and_of (and_of hw hv) hmx) hfl) hp) (bne_iff_ne.mpr fun h => ?_)⟩
    exact bne_iff_ne.mp hbd (by rw [h])
  -- VDQMX
  case h_3 =>
    rintro rfl dt st rm sat part rfl rfl hfl hmx hp d rfl a rfl b rfl rfl
    exact ⟨rfl, and_of (and_of (and_of (and_of hw hv) hfl) hmx) hp⟩
  -- VPACK
  case h_4 =>
    rintro rfl dt st rm sat part rfl rfl hwd rfl d rfl a rfl b rfl rfl
    exact ⟨rfl, and_of (and_of hw hv) (beq_iff_eq.mpr hwd)⟩
  -- VUNPK
  case h_5 =>
    rintro rfl rfl dt st rm sat part rfl rfl hwd hp d rfl a rfl rfl
    exact ⟨rfl, and_of (and_of (and_of hw hv) hwd) hp⟩
  -- VLDEXP
  case h_6 =>
    rintro rfl h0 rfl t ht hfl rm hrm d rfl a rfl b rfl hbs rfl
    exact ⟨some_raw_congr rfl ((immVA_iff _ _ _ _ _).mpr ⟨ht, hrm, rfl, hbs, h0⟩).symm, and_of (and_of hw hv) hfl⟩
  -- VPERM
  case h_7 =>
    rintro rfl h0 rfl t ht hne d rfl a rfl b rfl rfl
    exact ⟨some_raw_congr rfl ((immVP_zero_iff _ _).mpr ⟨ht, h0⟩).symm, and_of (and_of hw hv) hne⟩
  -- VSHUF
  case h_8 =>
    rintro rfl h0 t ht d rfl a rfl b rfl c rfl rfl
    exact ⟨some_raw_congr rfl ((immVP_zero_iff _ _).mpr ⟨ht, h0⟩).symm, and_of hw hv⟩
  -- words with LANE
  case h_9 | h_11 =>
    rintro rfl t l rfl hl rfl rfl d rfl a rfl rfl
    exact ⟨rfl, and_of (and_of hw hv) (decide_eq_true hl)⟩
  case h_10 =>
    rintro rfl t l rfl hl rfl d rfl a rfl b rfl rfl
    exact ⟨rfl, and_of (and_of hw hv) (decide_eq_true hl)⟩
  -- VCOMP, VEXPD
  case h_12 | h_13 =>
    rintro rfl h0 rfl t ht d rfl a rfl b rfl rfl
    exact ⟨some_raw_congr rfl ((immVP_zero_iff _ _).mpr ⟨ht, h0⟩).symm, and_of hw hv⟩
  -- VTRN
  case h_14 =>
    rintro rfl h0 rfl rfl t ht d rfl hd a rfl ha rfl
    exact ⟨some_raw_congr rfl ((immVP_zero_iff _ _).mpr ⟨ht, h0⟩).symm,
      and_of (and_of (and_of hw hv) (decide_eq_true hd)) (decide_eq_true ha)⟩
  -- PCNT, PFIRST, VPCHK, VPCLR
  case h_16 | h_17 | h_19 | h_20 =>
    rintro rfl h0 rfl rfl t ht d rfl a rfl rfl
    exact ⟨some_raw_congr rfl ((immVP_zero_iff _ _).mpr ⟨ht, h0⟩).symm, and_of hw hv⟩
  -- PMOV
  case h_18 =>
    rintro rfl h0 rfl t ht d rfl hd a rfl b rfl rfl
    exact ⟨some_raw_congr rfl ((immVP_zero_iff _ _).mpr ⟨ht, h0⟩).symm, and_of (and_of hw hv) (bne_iff_ne.mpr hd)⟩

/-- What an engine decodes is an encoding of a word that it can run. -/
theorem encodeRaw_of_decodeRaw (hd : decodeRaw e r = .ok i) : encodeRaw i = some r ∧ i.wf e = true := by
  unfold decodeRaw at hd
  split at hd
  · cases hd
  · next hv =>
    have hv : opValidOn e r.op = true := by simpa using hv
    obtain ⟨h, hh, hd⟩ := Dec.bind_eq_ok.mp hd
    obtain ⟨rfl, hw⟩ := decHdr_eq_ok.mp hh
    split at hd
    · exact encodeRaw_of_decCtl hv hw hd
    · exact encodeRaw_of_decScalar hw hd
    · split at hd
      · exact encodeRaw_of_decMemory hv hw hd
      · exact encodeRaw_of_decAsync hv hw hd
    · split at hd
      · exact encodeRaw_of_decMemory hv hw hd
      · exact encodeRaw_of_decAsync hv hw hd
    · exact encodeRaw_of_decVector hv hw hd
    · exact encodeRaw_of_decVector hv hw hd
    · split at hd
      · exact encodeRaw_of_decConvert hv hw hd
      · exact encodeRaw_of_decMatrix hv hw hd

end Sys2Proof
end

section
/-! SUPPORT. An encoding decodes to what it encodes (03 R42 to R58). -/

namespace Sys2Proof

variable {e : Eng} {r : Raw} {i : Instr}

theorem of_and {a b : Bool} (h : (a && b) = true) : a = true ∧ b = true := Bool.and_eq_true_iff.mp h

theorem of_and3 {a b c : Bool} (h : (a && b && c) = true) : a = true ∧ b = true ∧ c = true := by
  simpa [and_assoc] using h

theorem of_and4 {a b c d : Bool} (h : (a && b && c && d) = true) : a = true ∧ b = true ∧ c = true ∧ d = true := by
  simpa [and_assoc] using h

theorem of_and5 {a b c d f : Bool} (h : (a && b && c && d && f) = true) :
    a = true ∧ b = true ∧ c = true ∧ d = true ∧ f = true := by
  simpa [and_assoc] using h

theorem of_and6 {a b c d f g : Bool} (h : (a && b && c && d && f && g) = true) :
    a = true ∧ b = true ∧ c = true ∧ d = true ∧ f = true ∧ g = true := by
  simpa [and_assoc] using h

/-- The top three bits of the opcode choose the group. -/
theorem group_eq {n : Nat} (hlo : 32 * n ≤ r.op.toNat) (hhi : r.op.toNat < 32 * n + 32) :
    (r.op.extractLsb' 5 3).toNat = n := by
  have := r.op.isLt
  rw [BitVec.extractLsb'_toNat, Nat.shiftRight_eq_div_pow]
  omega

section
variable (hw : r.hdr.wf e = true) (hv : opValidOn e r.op = true)
include hw hv

theorem decodeRaw_eq : decodeRaw e r =
    match (r.op.extractLsb' 5 3).toNat with
    | 0 => decCtl r r.hdr
    | 1 => decScalar r r.hdr
    | 2 | 3 => if r.op.toNat < 0x70 then decMemory r r.hdr else decAsync r r.hdr
    | 4 | 5 => decVector r r.hdr
    | _ => if r.op.toNat < 0xE0 then decConvert r r.hdr else decMatrix r r.hdr := by
  rw [decodeRaw, hv, decHdr_eq_ok.mpr ⟨rfl, hw⟩]
  rfl

theorem decodeRaw_ctl (hg : decide (r.op.toNat < 0x20) = true) (hd : decCtl r r.hdr = .ok i) : decodeRaw e r = .ok i := by
  rw [decodeRaw_eq hw hv, group_eq (n := 0) (Nat.zero_le _) (of_decide_eq_true hg)]
  exact hd

theorem decodeRaw_scalar (hg : (decide (0x20 ≤ r.op.toNat) && decide (r.op.toNat < 0x40)) = true)
    (hd : decScalar r r.hdr = .ok i) : decodeRaw e r = .ok i := by
  obtain ⟨hlo, hhi⟩ := of_and hg
  rw [decodeRaw_eq hw hv, group_eq (n := 1) (of_decide_eq_true hlo) (of_decide_eq_true hhi)]
  exact hd

theorem decodeRaw_memory (hg : (decide (0x40 ≤ r.op.toNat) && decide (r.op.toNat < 0x70)) = true)
    (hd : decMemory r r.hdr = .ok i) : decodeRaw e r = .ok i := by
  obtain ⟨hlo, hhi⟩ := of_and hg
  rw [decide_eq_true_eq] at hlo hhi
  rw [decodeRaw_eq hw hv]
  by_cases h60 : r.op.toNat < 0x60
  · rw [group_eq (n := 2) hlo (by omega)]
    exact (if_pos hhi).trans hd
  · rw [group_eq (n := 3) (by omega) (by omega)]
    exact (if_pos hhi).trans hd

theorem decodeRaw_async (hg : (decide (0x70 ≤ r.op.toNat) && decide (r.op.toNat < 0x80)) = true)
    (hd : decAsync r r.hdr = .ok i) : decodeRaw e r = .ok i := by
  obtain ⟨hlo, hhi⟩ := of_and hg
  rw [decide_eq_true_eq] at hlo hhi
  rw [decodeRaw_eq hw hv, group_eq (n := 3) (by omega) hhi]
  exact (if_neg (by omega)).trans hd

theorem decodeRaw_vector (hg : (decide (0x80 ≤ r.op.toNat) && decide (r.op.toNat < 0xC0)) = true)
    (hd : decVector r r.hdr = .ok i) : decodeRaw e r = .ok i := by
  obtain ⟨hlo, hhi⟩ := of_and hg
  rw [decide_eq_true_eq] at hlo hhi
  rw [decodeRaw_eq hw hv]
  by_cases hA : r.op.toNat < 0xA0
  · rw [group_eq (n := 4) hlo hA]
    exact hd
  · rw [group_eq (n := 5) (by omega) hhi]
    exact hd

theorem decodeRaw_convert (hg : (decide (0xC0 ≤ r.op.toNat) && decide (r.op.toNat < 0xE0)) = true)
    (hd : decConvert r r.hdr = .ok i) : decodeRaw e r = .ok i := by
  obtain ⟨hlo, hhi⟩ := of_and hg
  rw [decide_eq_true_eq] at hlo hhi
  rw [decodeRaw_eq hw hv, group_eq (n := 6) hlo hhi]
  exact (if_pos hhi).trans hd

theorem decodeRaw_matrix (hg : decide (0xE0 ≤ r.op.toNat) = true) (hd : decMatrix r r.hdr = .ok i) :
    decodeRaw e r = .ok i := by
  have hlo := of_decide_eq_true hg
  have := r.op.isLt
  rw [decodeRaw_eq hw hv, group_eq (n := 7) hlo (by omega)]
  exact (if_neg (by omega)).trans hd

end

-- one step of a decoder

theorem dec_then {α β : Type} {x : Dec α} {f : α → Dec β} {a : α} {b : β} (hx : x = .ok a) (hf : f a = .ok b) :
    (x >>= f) = .ok b := Dec.bind_eq_ok.mpr ⟨a, hx, hf⟩

theorem dec_check {β : Type} {x : Dec Unit} {f : Unit → Dec β} {b : β} (hx : x = .ok ()) (hf : f () = .ok b) :
    (x >>= f) = .ok b := dec_then hx hf

theorem encOk_true (f : Nat) {c : Bool} (h : c = true) : encOk c f = .ok () := encOk_eq_ok.mpr h

theorem asBo_immBo {b : BoRef} (h : r.imm = immBo b) : asBo r = b := by
  obtain ⟨hb, ho⟩ := (immBo_iff _ _).mp h
  simp [asBo, hb, ho]

theorem signExtend_of_dispFits7 {x : BitVec 11} (h : dispFits7 x = true) : (x.extractLsb' 0 7).signExtend 11 = x := by
  rw [← BitVec.setWidth_eq_extractLsb' (by omega)]
  exact beq_iff_eq.mp h

theorem encVDst_injective {d d' : VDst} (h : encVDst d = encVDst d') : d = d' := by
  have hd := decVDst_eq_some.mpr h
  rw [decVDst_eq_some.mpr rfl] at hd
  exact Option.some.inj hd

theorem pred_md_high {md : BitVec 6} (h : decide (md.toNat < 4) = true) : (md.extractLsb' 2 4 == 0) = true := by
  rw [decide_eq_true_eq] at h
  refine beq_iff_eq.mpr (BitVec.eq_of_toNat_eq ?_)
  rw [BitVec.extractLsb'_toNat, Nat.shiftRight_eq_div_pow]
  show md.toNat / 2 ^ 2 % 2 ^ 4 = 0
  omega

theorem of_vcmp_types {t : Ty} {c : VCond} (h : (t.isFl || (t.isInt && c.quiet)) = true) :
    (t.isInt || t.isFl) = true ∧ (t.isFl || c.quiet) = true := by
  cases hf : t.isFl <;> simp_all

theorem level_of_md {md : BitVec 6} {l : Fin 4} (h : md.extractLsb' 0 2 = BitVec.ofNat 2 l.val) :
    Fin.ofNat 4 (md.extractLsb' 0 2).toNat = l := by
  rw [h]
  exact Fin.ext (by simp [Fin.ofNat])

section
variable {h : Hdr} {op : BitVec 8} {ssp sp sz : Bool} {ssz : BitVec 2} {k : OrdKind} {m : MemOp} {low disp : BitVec 11}
  {d a : BitVec 10}

theorem encMA_fields : (maBI (encMA h op ssp ssz m low d a) = bufBI m.buf ∧ maOrd (encMA h op ssp ssz m low d a) = encOrd m.ord ∧
    maSP (encMA h op ssp ssz m low d a) = ssp ∧ maSZ (encMA h op ssp ssz m low d a) = ssz) ∧
    (encMA h op ssp ssz m low d a).imm.extractLsb' 14 16 = bufImm m.buf ∧
    (encMA h op ssp ssz m low d a).imm.extractLsb' 11 3 = encOrdScope m.ord ∧
    (encMA h op ssp ssz m low d a).imm.extractLsb' 0 11 = low := encMA_iff.mp ⟨rfl, rfl⟩

theorem maSP_encMA : maSP (encMA h op ssp ssz m low d a) = ssp := encMA_fields.1.2.2.1
theorem maSZ_encMA : maSZ (encMA h op ssp ssz m low d a) = ssz := encMA_fields.1.2.2.2
theorem maDisp_encMA : maDisp (encMA h op ssp ssz m low d a) = low := encMA_fields.2.2.2

/-- The memory operand of an encoding is read back, with the displacement that the decoder takes. -/
theorem decMem_of_encMA (hk : m.ord.fits k = true) (hsp : (!ssp || (sp && m.ord == .none)) = true)
    (hsz : (sz || ssz == 0) = true) :
    decMaMod (encMA h op ssp ssz m low d a) k sp sz = .ok m.ord ∧ decMaBuf (encMA h op ssp ssz m low d a) = .ok () ∧
      decMem (encMA h op ssp ssz m low d a) m.ord disp = .ok { m with disp := disp } := by
  obtain ⟨⟨hbi, ho, hp, hz⟩, hi, hs, -⟩ := encMA_fields (h := h) (op := op) (ssp := ssp) (ssz := ssz) (m := m) (low := low)
    (d := d) (a := a)
  refine ⟨decMaMod_eq_ok.mpr ⟨⟨ho, hs⟩, hk, by rw [hp]; exact hsp, by rw [hz]; exact hsz⟩, ?_, ?_⟩
  · rw [decMaBuf_eq_ok, hbi, hi]
    cases hb : m.buf <;> simp [encMA, bufBI, bufB, bufImm, hb]
  · exact decMem_eq_ok.mpr ⟨⟨hbi, fun _ => hi, fun _ => rfl⟩, rfl, rfl, rfl⟩

/-- The same where the low bits of IMM are the displacement. -/
theorem decMem_of_encMA_disp (hk : m.ord.fits k = true) (hsp : (!ssp || (sp && m.ord == .none)) = true)
    (hsz : (sz || ssz == 0) = true) :
    decMaMod (encMA h op ssp ssz m m.disp d a) k sp sz = .ok m.ord ∧ decMaBuf (encMA h op ssp ssz m m.disp d a) = .ok () ∧
      decMem (encMA h op ssp ssz m m.disp d a) m.ord (maDisp (encMA h op ssp ssz m m.disp d a)) = .ok m := by
  rw [maDisp_encMA]
  exact decMem_of_encMA hk hsp hsz

theorem decSx_of_encMA {sx : Bool} (hsx : (!(sx && ssz == 3)) = true) :
    decSx (encMA h op ssp ssz m low d (encSxA sx)) = .ok sx :=
  decSx_eq_ok.mpr ⟨rfl, by rw [maSZ_encMA]; exact hsx⟩

end

theorem decodeRaw_of_encodeRaw (hi : i.wf e = true) (he : encodeRaw i = some r) : decodeRaw e r = .ok i := by
  cases i
  -- control words
  case nop | ret | suspend | yield | halt | sleep | tfence | eret =>
    cases he
    exact decodeRaw_ctl hi rfl rfl (decN_eq_ok.mpr ⟨⟨rfl, rfl, rfl, rfl, rfl, rfl⟩, rfl⟩)
  case br | call =>
    cases he
    exact decodeRaw_ctl hi rfl rfl (decBT_eq_ok.mpr ⟨_, rfl, ⟨rfl, rfl, rfl, rfl, rfl⟩, rfl⟩)
  case trap | bkpt =>
    cases he
    exact decodeRaw_ctl hi rfl rfl (decCode_eq_ok.mpr ⟨_, rfl, ⟨rfl, rfl, rfl, rfl, rfl⟩, rfl⟩)
  case brc =>
    cases he
    exact decodeRaw_ctl hi rfl rfl (dec_then (encSome_eq_ok.mpr (decCond_eq_some.mpr rfl)) <| dec_check (d0_eq_ok.mpr rfl) <|
      dec_check (c0_eq_ok.mpr rfl) <| dec_then (aS_eq_ok.mpr rfl) <| dec_then (bS_eq_ok.mpr rfl) <|
      congrArg (fun t => Except.ok (Instr.brc _ _ _ _ t)) ((immOfTarget_iff _ _).mp rfl))
  case brp h al a t =>
    cases he
    obtain ⟨hw, hv⟩ := of_and hi
    obtain ⟨hm0, hm1⟩ := (eq_append_iff (m := 5) (n := 1) (a := 0) (b := BitVec.ofBool al)).mp rfl
    exact decodeRaw_ctl hw hv rfl (dec_check (encOk_true _ (beq_iff_eq.mpr hm0)) <| dec_check (d0_eq_ok.mpr rfl) <|
      dec_check (b0_eq_ok.mpr rfl) <| dec_check (c0_eq_ok.mpr rfl) <| dec_then (aP_eq_ok.mpr rfl) <|
      congrArg₂ (fun al t => Except.ok (Instr.brp _ al _ t)) ((extract_one _ _).mp hm1) ((immOfTarget_iff _ _).mp rfl))
  case loop h l a w =>
    cases he
    obtain ⟨hm0, hm⟩ := (eq_append_iff (m := 4) (n := 2) (a := 0) (b := BitVec.ofNat 2 l.val)).mp rfl
    obtain ⟨hi0, hw⟩ := (eq_append_iff (m := 14) (n := 16) (a := 0) (b := w)).mp rfl
    exact decodeRaw_ctl hi rfl rfl (dec_check (encOk_true _ (beq_iff_eq.mpr hm0)) <|
      dec_check (encOk_true _ (beq_iff_eq.mpr hi0)) <| dec_check (d0_eq_ok.mpr rfl) <| dec_check (b0_eq_ok.mpr rfl) <|
      dec_check (c0_eq_ok.mpr rfl) <| dec_then (aS_eq_ok.mpr rfl) <|
      congrArg₂ (fun l w => Except.ok (Instr.loop _ l _ w)) (level_of_md hm) hw)
  case loops h l a m w =>
    cases he
    obtain ⟨hm0, hm⟩ := (eq_append_iff (m := 4) (n := 2) (a := 0) (b := BitVec.ofNat 2 l.val)).mp rfl
    obtain ⟨hi0, hm1, hw⟩ := (loops_imm_iff (m := m) (w := w)).mp rfl
    refine decodeRaw_ctl hi rfl rfl (dec_check (encOk_true _ (beq_iff_eq.mpr hm0)) <|
      dec_check (encOk_true _ (beq_iff_eq.mpr hi0)) <| dec_check (d0_eq_ok.mpr rfl) <| dec_check (b0_eq_ok.mpr rfl) <|
      dec_check (c0_eq_ok.mpr rfl) <| dec_then (aS_eq_ok.mpr rfl) ?_)
    exact (congrArg₂ (fun m w => Except.ok (Instr.loops _ _ _ m w)) hm1 hw).trans
      (congrArg (fun l => Except.ok (Instr.loops _ l _ _ _)) (level_of_md hm))
  case brkl h l =>
    cases he
    obtain ⟨hm0, hm⟩ := (eq_append_iff (m := 4) (n := 2) (a := 0) (b := BitVec.ofNat 2 l.val)).mp rfl
    exact decodeRaw_ctl hi rfl rfl (dec_check (encOk_true _ (beq_iff_eq.mpr hm0)) <| dec_check (imm0_eq_ok.mpr rfl) <|
      dec_check (d0_eq_ok.mpr rfl) <| dec_check (a0_eq_ok.mpr rfl) <| dec_check (b0_eq_ok.mpr rfl) <| dec_check (c0_eq_ok.mpr rfl) <|
      congrArg (fun l => Except.ok (Instr.brkl _ l)) (level_of_md hm))
  case stampb =>
    cases he
    obtain ⟨hw, hv⟩ := of_and hi
    exact decodeRaw_ctl hw hv rfl (dec_check (mod0_eq_ok.mpr rfl) <| dec_check (d0_eq_ok.mpr rfl) <|
      dec_check (b0_eq_ok.mpr rfl) <| dec_check (c0_eq_ok.mpr rfl) <| dec_then (aS_eq_ok.mpr rfl) rfl)
  case csrr h d n =>
    cases he
    obtain ⟨h0, hc⟩ := (eq_append_iff (m := 18) (n := 12) (a := 0) (b := encCsr n)).mp rfl
    exact decodeRaw_ctl hi rfl rfl (dec_check (mod0_eq_ok.mpr rfl) <| dec_check (encOk_true _ (beq_iff_eq.mpr h0)) <|
      dec_then (encSome_eq_ok.mpr (decCsr_eq_some.mpr hc)) <| dec_check (a0_eq_ok.mpr rfl) <| dec_check (b0_eq_ok.mpr rfl) <|
      dec_check (c0_eq_ok.mpr rfl) <| dec_then (dS_eq_ok.mpr rfl) rfl)
  case csrw h n a =>
    cases he
    obtain ⟨hw, hwr⟩ := of_and hi
    obtain ⟨h0, hc⟩ := (eq_append_iff (m := 18) (n := 12) (a := 0) (b := encCsr n)).mp rfl
    exact decodeRaw_ctl hw rfl rfl (dec_check (mod0_eq_ok.mpr rfl) <| dec_check (encOk_true _ (beq_iff_eq.mpr h0)) <|
      dec_then (encSome_eq_ok.mpr (decCsr_eq_some.mpr hc)) <| dec_check (encOk_true _ hwr) <| dec_check (d0_eq_ok.mpr rfl) <|
      dec_check (b0_eq_ok.mpr rfl) <| dec_check (c0_eq_ok.mpr rfl) <| dec_then (aS_eq_ok.mpr rfl) rfl)
  case tlbinv =>
    cases he
    obtain ⟨hw, hv⟩ := of_and hi
    exact decodeRaw_ctl hw hv rfl (dec_check (mod0_eq_ok.mpr rfl) <| dec_check (imm0_eq_ok.mpr rfl) <|
      dec_check (d0_eq_ok.mpr rfl) <| dec_check (c0_eq_ok.mpr rfl) <| dec_then (aS_eq_ok.mpr rfl) <| dec_then (bS_eq_ok.mpr rfl) rfl)
  case bufinv =>
    cases he
    obtain ⟨hw, hv⟩ := of_and hi
    exact decodeRaw_ctl hw hv rfl (dec_check (mod0_eq_ok.mpr rfl) <| dec_check (imm0_eq_ok.mpr rfl) <|
      dec_check (d0_eq_ok.mpr rfl) <| dec_check (b0_eq_ok.mpr rfl) <| dec_check (c0_eq_ok.mpr rfl) <| dec_then (aS_eq_ok.mpr rfl) rfl)
  -- scalar words
  case add | sub | mul =>
    cases he
    exact decodeRaw_scalar hi rfl rfl (dec_then (encSome_eq_ok.mpr (decSatMode_eq_some.mpr rfl))
      (decS2_eq_ok.mpr ⟨_, _, _, ⟨rfl, rfl, rfl, rfl, rfl⟩, rfl⟩))
  case addi =>
    cases he
    exact decodeRaw_scalar hi rfl rfl (dec_then (encSome_eq_ok.mpr (decSatMode_eq_some.mpr rfl))
      (decSI_eq_ok.mpr ⟨_, _, ⟨rfl, rfl, rfl, rfl⟩, rfl⟩))
  case cmp =>
    cases he
    exact decodeRaw_scalar hi rfl rfl (dec_then (encSome_eq_ok.mpr (decCond_eq_some.mpr rfl))
      (decS2_eq_ok.mpr ⟨_, _, _, ⟨rfl, rfl, rfl, rfl, rfl⟩, rfl⟩))
  case mulh | div | rem | min | max =>
    cases he
    exact decodeRaw_scalar hi rfl rfl (dec_then ((decU_eq_ok (u := false)).mpr rfl)
      (decS2_eq_ok.mpr ⟨_, _, _, ⟨rfl, rfl, rfl, rfl, rfl⟩, rfl⟩))
  case mulhn | divn | remn | minn | maxn =>
    cases he
    exact decodeRaw_scalar hi rfl rfl (dec_then ((decU_eq_ok (u := true)).mpr rfl)
      (decS2_eq_ok.mpr ⟨_, _, _, ⟨rfl, rfl, rfl, rfl, rfl⟩, rfl⟩))
  case and | or | xor | andn | shl | shr | sra =>
    cases he
    exact decodeRaw_scalar hi rfl rfl (dec_check (mod0_eq_ok.mpr rfl)
      (decS2_eq_ok.mpr ⟨_, _, _, ⟨rfl, rfl, rfl, rfl, rfl⟩, rfl⟩))
  case andi | ori | xori =>
    cases he
    exact decodeRaw_scalar hi rfl rfl (dec_check (mod0_eq_ok.mpr rfl) (decSI_eq_ok.mpr ⟨_, _, ⟨rfl, rfl, rfl, rfl⟩, rfl⟩))
  case clz | popc =>
    cases he
    exact decodeRaw_scalar hi rfl rfl (decS1_eq_ok.mpr ⟨_, _, ⟨rfl, rfl, rfl, rfl, rfl, rfl⟩, rfl⟩)
  case shli | shri | srai =>
    cases he
    exact decodeRaw_scalar hi rfl rfl (decSh_eq_ok.mpr ⟨_, _, _, rfl, ⟨rfl, rfl, rfl, rfl, rfl⟩, rfl⟩)
  case madd =>
    cases he
    exact decodeRaw_scalar hi rfl rfl (dec_then (encSome_eq_ok.mpr (decSatMode_eq_some.mpr rfl)) <|
      dec_check (imm0_eq_ok.mpr rfl) <| dec_then (dS_eq_ok.mpr rfl) <| dec_then (aS_eq_ok.mpr rfl) <| dec_then (bS_eq_ok.mpr rfl) <|
      dec_then (cS_eq_ok.mpr rfl) rfl)
  case sel =>
    cases he
    exact decodeRaw_scalar hi rfl rfl (dec_check (mod0_eq_ok.mpr rfl) <|
      dec_check (imm0_eq_ok.mpr rfl) <| dec_then (dS_eq_ok.mpr rfl) <| dec_then (aS_eq_ok.mpr rfl) <| dec_then (bS_eq_ok.mpr rfl) <|
      dec_then (cS_eq_ok.mpr rfl) rfl)
  case li =>
    cases he
    exact decodeRaw_scalar hi rfl rfl (dec_check (mod0_eq_ok.mpr rfl) <| dec_check (a0_eq_ok.mpr rfl) <|
      dec_then (dS_eq_ok.mpr rfl) <| congrArg (fun k => Except.ok (Instr.li _ _ k)) (append3_iff.mpr ⟨rfl, rfl, rfl⟩).symm)
  case lih h d a k =>
    cases he
    obtain ⟨h0, hk⟩ := (eq_append_iff (m := 18) (n := 32)).mp ((lih_fields_iff (k := k)).mpr ⟨rfl, rfl, rfl⟩)
    exact decodeRaw_scalar hi rfl rfl (dec_check (mod0_eq_ok.mpr rfl) <| dec_check (encOk_true _ (beq_iff_eq.mpr h0)) <|
      dec_then (dS_eq_ok.mpr rfl) <| dec_then (aS_eq_ok.mpr rfl) <| congrArg (fun k => Except.ok (Instr.lih _ _ _ k)) hk)
  case bext h d a pos w1 =>
    cases he
    obtain ⟨hw, hp⟩ := of_and hi
    obtain ⟨h0, h1, h2⟩ := (immField_iff (w1 := w1) (pos := pos)).mp rfl
    refine decodeRaw_scalar hw rfl rfl (dec_check (mod0_eq_ok.mpr rfl) <| dec_check (encOk_true _ (beq_iff_eq.mpr h0)) <|
      dec_check (encOk_true _ ?_) <| dec_check (b0_eq_ok.mpr rfl) <| dec_check (c0_eq_ok.mpr rfl) <|
      dec_then (dS_eq_ok.mpr rfl) <| dec_then (aS_eq_ok.mpr rfl) <|
      congrArg₂ (fun p w => Except.ok (Instr.bext _ _ _ p w)) h2 h1)
    rw [h1, h2]
    exact hp
  case bins h d a b pos w1 =>
    cases he
    obtain ⟨hw, hp⟩ := of_and hi
    obtain ⟨h0, h1, h2⟩ := (immField_iff (w1 := w1) (pos := pos)).mp rfl
    refine decodeRaw_scalar hw rfl rfl (dec_check (mod0_eq_ok.mpr rfl) <| dec_check (encOk_true _ (beq_iff_eq.mpr h0)) <|
      dec_check (encOk_true _ ?_) <| dec_check (c0_eq_ok.mpr rfl) <|
      dec_then (dS_eq_ok.mpr rfl) <| dec_then (aS_eq_ok.mpr rfl) <| dec_then (bS_eq_ok.mpr rfl) <|
      congrArg₂ (fun p w => Except.ok (Instr.bins _ _ _ _ p w)) h2 h1)
    rw [h1, h2]
    exact hp
  -- memory words
  case watch =>
    cases he
    obtain ⟨hw, hv, hk⟩ := of_and3 hi
    obtain ⟨hmod, hbuf, hmem⟩ := decMem_of_encMA_disp (ssp := false) (sp := false) (ssz := 0) (sz := false) hk rfl rfl
    exact decodeRaw_ctl hw hv rfl (dec_then hmod <| dec_check hbuf <| dec_check (d0_eq_ok.mpr rfl) <|
      dec_check (a0_eq_ok.mpr rfl) <| dec_then hmem rfl)
  case lds =>
    cases he
    obtain ⟨hw, hv, hk, hsx⟩ := of_and4 hi
    obtain ⟨hk, hsp⟩ := of_and hk
    obtain ⟨hmod, hbuf, hmem⟩ := decMem_of_encMA_disp (sp := true) (sz := true) hk hsp rfl
    exact decodeRaw_memory hw hv rfl (dec_then hmod <| dec_check hbuf <| dec_then (decSx_of_encMA hsx) <|
      dec_then (dS_eq_ok.mpr rfl) <| dec_then hmem (congrArg₂ (fun sz sp => Except.ok (Instr.lds _ sz _ sp _ _)) maSZ_encMA maSP_encMA))
  case cld =>
    cases he
    obtain ⟨hw, hv, hk, hsx⟩ := of_and4 hi
    obtain ⟨hmod, hbuf, hmem⟩ := decMem_of_encMA_disp (ssp := false) (sp := false) (sz := true) hk rfl rfl
    exact decodeRaw_memory hw hv rfl (dec_then hmod <| dec_check hbuf <| dec_then (decSx_of_encMA hsx) <|
      dec_then (dS_eq_ok.mpr rfl) <| dec_then hmem (congrArg (fun sz => Except.ok (Instr.cld _ sz _ _ _)) maSZ_encMA))
  case sts =>
    cases he
    obtain ⟨hw, hv, hk⟩ := of_and3 hi
    obtain ⟨hmod, hbuf, hmem⟩ := decMem_of_encMA_disp (ssp := false) (sp := false) (sz := true) hk rfl rfl
    exact decodeRaw_memory hw hv rfl (dec_then hmod <| dec_check hbuf <| dec_check (d0_eq_ok.mpr rfl) <|
      dec_then (aS_eq_ok.mpr rfl) <| dec_then hmem (congrArg (fun sz => Except.ok (Instr.sts _ sz _ _)) maSZ_encMA))
  case amo h f sz d a m =>
    cases he
    obtain ⟨hw, hv, hk, hsz, hdisp⟩ := of_and5 hi
    obtain ⟨-, -, -, hlow⟩ := encMA_fields (h := h) (op := 0x43) (ssp := false) (ssz := sz) (m := m)
      (low := encAmoOp f ++ m.disp.extractLsb' 0 7) (d := encSDst d) (a := encSSrc a)
    obtain ⟨hf, hd7⟩ := (eq_append_iff (m := 4) (n := 7)).mp hlow
    rw [extract_extract _ (by omega)] at hf hd7
    obtain ⟨hmod, hbuf, hmem⟩ := decMem_of_encMA (h := h) (op := 0x43) (ssp := false) (sp := false) (sz := true) (m := m)
      (low := encAmoOp f ++ m.disp.extractLsb' 0 7) (disp := m.disp) (d := encSDst d) (a := encSSrc a) hk rfl (ssz := sz) rfl
    refine decodeRaw_memory hw hv rfl (dec_then hmod <| dec_then (encSome_eq_ok.mpr (decAmoOp_eq_some.mpr hf)) <|
      dec_check (encOk_true _ (by rw [maSZ_encMA]; exact hsz)) <| dec_check hbuf <| dec_then (dS_eq_ok.mpr rfl) <|
      dec_then (aS_eq_ok.mpr rfl) <| dec_then (a := m) ?_ (congrArg (fun sz => Except.ok (Instr.amo _ _ sz _ _ _)) maSZ_encMA))
    rw [hd7, signExtend_of_dispFits7 hdisp]
    exact hmem
  case cas =>
    cases he
    obtain ⟨hw, hv, hk⟩ := of_and3 hi
    obtain ⟨hmod, hbuf, hmem⟩ := decMem_of_encMA_disp (ssp := false) (sp := false) (sz := true) hk rfl rfl
    exact decodeRaw_memory hw hv rfl (dec_then hmod <| dec_check hbuf <| dec_then (dS_eq_ok.mpr rfl) <|
      dec_then (aS_eq_ok.mpr rfl) <| dec_then hmem (congrArg (fun sz => Except.ok (Instr.cas _ sz _ _ _)) maSZ_encMA))
  case vld =>
    cases he
    obtain ⟨hw, hv, hk⟩ := of_and3 hi
    obtain ⟨hk, hsp⟩ := of_and hk
    obtain ⟨hmod, hbuf, hmem⟩ := decMem_of_encMA_disp (sp := true) (ssz := 0) (sz := false) hk hsp rfl
    exact decodeRaw_memory hw hv rfl (dec_then hmod <| dec_check hbuf <| dec_check (a0_eq_ok.mpr rfl) <|
      dec_then (dV_eq_ok.mpr rfl) <| dec_then hmem (congrArg (fun sp => Except.ok (Instr.vld _ sp _ _)) maSP_encMA))
  case vlds =>
    cases he
    obtain ⟨hw, hv, hk⟩ := of_and3 hi
    obtain ⟨hk, hsp⟩ := of_and hk
    obtain ⟨hmod, hbuf, hmem⟩ := decMem_of_encMA_disp (sp := true) (sz := true) hk hsp rfl
    exact decodeRaw_memory hw hv rfl (dec_then hmod <| dec_check hbuf <| dec_then (dV_eq_ok.mpr rfl) <|
      dec_then (aS_eq_ok.mpr rfl) <|
      dec_then hmem (congrArg₂ (fun sz sp => Except.ok (Instr.vlds _ sz sp _ _ _)) maSZ_encMA maSP_encMA))
  case vldx =>
    cases he
    obtain ⟨hw, hv, hk⟩ := of_and3 hi
    obtain ⟨hk, hsp⟩ := of_and hk
    obtain ⟨hmod, hbuf, hmem⟩ := decMem_of_encMA_disp (sp := true) (sz := true) hk hsp rfl
    exact decodeRaw_memory hw hv rfl (dec_then hmod <| dec_check hbuf <| dec_then (dV_eq_ok.mpr rfl) <|
      dec_then (aV_eq_ok.mpr rfl) <|
      dec_then hmem (congrArg₂ (fun sz sp => Except.ok (Instr.vldx _ sz sp _ _ _)) maSZ_encMA maSP_encMA))
  case vldb =>
    cases he
    obtain ⟨hw, hv, hk⟩ := of_and3 hi
    obtain ⟨hk, hsp⟩ := of_and hk
    obtain ⟨hmod, hbuf, hmem⟩ := decMem_of_encMA_disp (sp := true) (sz := true) hk hsp rfl
    exact decodeRaw_memory hw hv rfl (dec_then hmod <| dec_check hbuf <| dec_check (a0_eq_ok.mpr rfl) <|
      dec_then (dV_eq_ok.mpr rfl) <|
      dec_then hmem (congrArg₂ (fun sz sp => Except.ok (Instr.vldb _ sz sp _ _)) maSZ_encMA maSP_encMA))
  case vst =>
    cases he
    obtain ⟨hw, hv, hk⟩ := of_and3 hi
    obtain ⟨hmod, hbuf, hmem⟩ := decMem_of_encMA_disp (ssp := false) (sp := false) (ssz := 0) (sz := false) hk rfl rfl
    exact decodeRaw_memory hw hv rfl (dec_then hmod <| dec_check hbuf <| dec_check (d0_eq_ok.mpr rfl) <|
      dec_then (aV_eq_ok.mpr rfl) <| dec_then hmem rfl)
  case vsts =>
    cases he
    obtain ⟨hw, hv, hk⟩ := of_and3 hi
    obtain ⟨hmod, hbuf, hmem⟩ := decMem_of_encMA_disp (ssp := false) (sp := false) (sz := true) hk rfl rfl
    exact decodeRaw_memory hw hv rfl (dec_then hmod <| dec_check hbuf <|
      dec_then (opOk_eq_ok.mpr (decSSrc_eq_some.mpr rfl)) <| dec_then (aV_eq_ok.mpr rfl) <|
      dec_then hmem (congrArg (fun sz => Except.ok (Instr.vsts _ sz _ _ _)) maSZ_encMA))
  case vstx =>
    cases he
    obtain ⟨hw, hv, hk⟩ := of_and3 hi
    obtain ⟨hmod, hbuf, hmem⟩ := decMem_of_encMA_disp (ssp := false) (sp := false) (sz := true) hk rfl rfl
    exact decodeRaw_memory hw hv rfl (dec_then hmod <| dec_check hbuf <|
      dec_then (opOk_eq_ok.mpr (decVSrc_eq_some.mpr rfl)) <| dec_then (aV_eq_ok.mpr rfl) <|
      dec_then hmem (congrArg (fun sz => Except.ok (Instr.vstx _ sz _ _ _)) maSZ_encMA))
  case vstn =>
    cases he
    obtain ⟨hw, hv, hk⟩ := of_and3 hi
    obtain ⟨hmod, hbuf, hmem⟩ := decMem_of_encMA_disp (ssp := false) (sp := false) (ssz := 0) (sz := false) hk rfl rfl
    exact decodeRaw_memory hw hv rfl (dec_then hmod <| dec_check hbuf <|
      dec_then (opOk_eq_ok.mpr (decVSrc_eq_some.mpr rfl)) <| dec_then (aV_eq_ok.mpr rfl) <| dec_then hmem rfl)
  case amov h f t a m =>
    cases he
    obtain ⟨hw, hv, hk, hft, hdisp⟩ := of_and5 hi
    obtain ⟨-, -, -, hlow⟩ := encMA_fields (h := h) (op := 0x58) (ssp := false) (ssz := t.szCode) (m := m)
      (low := encAmoOp f ++ encTy t ++ (0 : BitVec 3)) (d := 0) (a := encVSrc a)
    obtain ⟨hft', h0⟩ := (eq_append_iff (m := 8) (n := 3)).mp hlow
    obtain ⟨hf, ht⟩ := (eq_append_iff (m := 4) (n := 4)).mp hft'
    rw [extract_extract _ (by omega)] at h0
    rw [extract_extract _ (by omega), extract_extract _ (by omega)] at hf ht
    obtain ⟨hmod, hbuf, hmem⟩ := decMem_of_encMA (h := h) (op := 0x58) (ssp := false) (sp := false) (sz := true) (m := m)
      (low := encAmoOp f ++ encTy t ++ (0 : BitVec 3)) (disp := m.disp) (d := 0) (a := encVSrc a) hk rfl (ssz := t.szCode) rfl
    refine decodeRaw_memory hw hv rfl (dec_then hmod <| dec_then (encSome_eq_ok.mpr (decAmoOp_eq_some.mpr hf)) <|
      dec_check (encOk_true _ (beq_iff_eq.mpr h0)) <| dec_check hbuf <| dec_check (d0_eq_ok.mpr rfl) <|
      dec_then (encSome_eq_ok.mpr (decTy_eq_some.mpr ht)) <| dec_check (encOk_true _ hft) <|
      dec_check (encOk_true _ (beq_iff_eq.mpr maSZ_encMA)) <| dec_then (aV_eq_ok.mpr rfl) <| dec_then (a := m) ?_ rfl)
    rw [← beq_iff_eq.mp hdisp]
    exact hmem
  case fence h sc =>
    cases he
    obtain ⟨hw, hv⟩ := of_and hi
    obtain ⟨h0, hsc⟩ := (eq_append_iff (m := 3) (n := 3) (a := 0) (b := encScope sc)).mp rfl
    exact decodeRaw_memory hw hv rfl (dec_check (encOk_true _ (beq_iff_eq.mpr h0)) <|
      dec_then (encSome_eq_ok.mpr (decScope_eq_some.mpr hsc)) <| dec_check (imm0_eq_ok.mpr rfl) <|
      dec_check (d0_eq_ok.mpr rfl) <| dec_check (a0_eq_ok.mpr rfl) <| dec_check (b0_eq_ok.mpr rfl) <|
      dec_check (c0_eq_ok.mpr rfl) rfl)
  case lfence h sc mask =>
    cases he
    obtain ⟨hw, hv, hmask⟩ := of_and3 hi
    obtain ⟨h0, hsc⟩ := (eq_append_iff (m := 3) (n := 3) (a := 0) (b := encScope sc)).mp rfl
    obtain ⟨hi0, hm⟩ := (eq_append_iff (m := 26) (n := 4) (a := 0) (b := mask)).mp rfl
    exact decodeRaw_memory hw hv rfl (dec_check (encOk_true _ (beq_iff_eq.mpr h0)) <|
      dec_then (encSome_eq_ok.mpr (decScope_eq_some.mpr hsc)) <| dec_check (encOk_true _ (beq_iff_eq.mpr hi0)) <|
      dec_check (encOk_true _ ((congrArg (· != 0) hm).trans hmask)) <|
      dec_check (d0_eq_ok.mpr rfl) <| dec_check (a0_eq_ok.mpr rfl) <| dec_check (b0_eq_ok.mpr rfl) <|
      dec_check (c0_eq_ok.mpr rfl) <| congrArg (fun k => Except.ok (Instr.lfence _ _ k)) hm)
  case barr =>
    cases he
    exact decodeRaw_memory hi rfl rfl (dec_then (encSome_eq_ok.mpr (decLevel_eq_some.mpr rfl)) <|
      dec_check (imm0_eq_ok.mpr rfl) <| dec_check (d0_eq_ok.mpr rfl) <| dec_check (a0_eq_ok.mpr rfl) <|
      dec_check (b0_eq_ok.mpr rfl) <| dec_check (c0_eq_ok.mpr rfl) rfl)
  case boarm | boadd =>
    cases he
    obtain ⟨hw, hv, hk⟩ := of_and3 hi
    obtain ⟨hmod, hbuf, hmem⟩ := decMem_of_encMA_disp (ssp := false) (sp := false) (ssz := 0) (sz := false) hk rfl rfl
    exact decodeRaw_memory hw hv rfl (dec_then hmod <| dec_check hbuf <| dec_check (d0_eq_ok.mpr rfl) <|
      dec_then (aS_eq_ok.mpr rfl) <| dec_then hmem rfl)
  case bowait =>
    cases he
    obtain ⟨hw, hv, hk⟩ := of_and3 hi
    obtain ⟨hmod, hbuf, hmem⟩ := decMem_of_encMA_disp (ssp := false) (sp := false) (ssz := 0) (sz := false) hk rfl rfl
    exact decodeRaw_memory hw hv rfl (dec_then hmod <| dec_check hbuf <| dec_then (dS_eq_ok.mpr rfl) <|
      dec_then (aS_eq_ok.mpr rfl) <| dec_then hmem rfl)
  -- launch, reuse and asynchronous words
  case lpatch h k d a b =>
    cases he
    obtain ⟨hw, hv, h9⟩ := of_and3 hi
    obtain ⟨h0, hk⟩ := (eq_append_iff (m := 26) (n := 4) (a := 0) (b := k)).mp rfl
    exact decodeRaw_async hw hv rfl (dec_check (mod0_eq_ok.mpr rfl) <| dec_check (encOk_true _ (beq_iff_eq.mpr h0)) <|
      dec_check (encOk_true _ ((congrArg (fun k : BitVec 4 => decide (k.toNat ≤ 9)) hk).trans h9)) <|
      dec_check (c0_eq_ok.mpr rfl) <| dec_then (dS_eq_ok.mpr rfl) <| dec_then (aS_eq_ok.mpr rfl) <|
      dec_then (bS_eq_ok.mpr rfl) <| congrArg (fun k => Except.ok (Instr.lpatch _ k _ _ _)) hk)
  case larm | astat =>
    cases he
    obtain ⟨hw, hv⟩ := of_and hi
    exact decodeRaw_async hw hv rfl (decS1_eq_ok.mpr ⟨_, _, ⟨rfl, rfl, rfl, rfl, rfl, rfl⟩, rfl⟩)
  case rchk | rinv =>
    cases he
    obtain ⟨hw, hv⟩ := of_and hi
    exact decodeRaw_async hw hv rfl (dec_check (mod0_eq_ok.mpr rfl)
      (decS2_eq_ok.mpr ⟨_, _, _, ⟨rfl, rfl, rfl, rfl, rfl⟩, rfl⟩))
  case acpy | afill | aferry =>
    cases he
    obtain ⟨hw, hv⟩ := of_and hi
    exact decodeRaw_async hw hv rfl (dec_check (mod0_eq_ok.mpr rfl) <| dec_then (dS_eq_ok.mpr rfl) <|
      dec_then (aS_eq_ok.mpr rfl) <| dec_then (bS_eq_ok.mpr rfl) <| dec_then (cS_eq_ok.mpr rfl) <|
      by rw [asBo_immBo rfl]; rfl)
  case agath | ascat =>
    cases he
    obtain ⟨hw, hv⟩ := of_and hi
    exact decodeRaw_async hw hv rfl (dec_check (mod0_eq_ok.mpr rfl) <| dec_check (b0_eq_ok.mpr rfl) <|
      dec_check (c0_eq_ok.mpr rfl) <| dec_then (dS_eq_ok.mpr rfl) <| dec_then (aS_eq_ok.mpr rfl) <|
      by rw [asBo_immBo rfl]; rfl)
  case acoll =>
    cases he
    obtain ⟨hw, hv⟩ := of_and hi
    exact decodeRaw_async hw hv rfl (dec_check (mod0_eq_ok.mpr rfl) <| dec_check (c0_eq_ok.mpr rfl) <|
      dec_then (dS_eq_ok.mpr rfl) <| dec_then (aS_eq_ok.mpr rfl) <| dec_then (bS_eq_ok.mpr rfl) <|
      by rw [asBo_immBo rfl]; rfl)
  -- vector words
  case vadd | vsub | vmul =>
    cases he
    obtain ⟨hw, hv, ht, hrm⟩ := of_and4 hi
    exact decodeRaw_vector hw hv rfl
      (decVa2r_eq_ok.mpr ⟨_, _, _, _, _, _, rfl, ⟨rfl, rfl, rfl, rfl, rfl⟩, ⟨ht, hrm⟩, rfl⟩)
  case vfma | vfms | vfnma =>
    cases he
    obtain ⟨hw, hv, ht, hrm⟩ := of_and4 hi
    exact decodeRaw_vector hw hv rfl
      (decVa3r_eq_ok.mpr ⟨_, _, _, _, _, _, _, rfl, ⟨rfl, rfl, rfl, rfl, rfl⟩, ⟨ht, hrm⟩, rfl⟩)
  case vmulh | vmin | vmax | vshl | vshr | vsra =>
    cases he
    obtain ⟨hw, hv, ht⟩ := of_and3 hi
    exact decodeRaw_vector hw hv rfl (decVa2_eq_ok.mpr ⟨_, _, _, _, rfl, ⟨rfl, rfl, rfl, rfl, rfl⟩, ht, rfl⟩)
  case vand | vor | vxor =>
    cases he
    obtain ⟨hw, hv⟩ := of_and hi
    exact decodeRaw_vector hw hv rfl (decVa2_eq_ok.mpr ⟨_, _, _, _, rfl, ⟨rfl, rfl, rfl, rfl, rfl⟩, rfl, rfl⟩)
  case vabs | vneg =>
    cases he
    obtain ⟨hw, hv, ht, hsat⟩ := of_and4 hi
    exact decodeRaw_vector hw hv rfl (decVabs_eq_ok.mpr ⟨_, _, _, _, rfl, ⟨rfl, rfl, rfl, rfl, rfl⟩, ⟨ht, hsat⟩, rfl⟩)
  case vrcp | vrsq | vsqrt | vexp2 | vlog2 | vsin | vcos | vtanh | vsig =>
    cases he
    obtain ⟨hw, hv, ht⟩ := of_and3 hi
    exact decodeRaw_vector hw hv rfl (decVa1r_eq_ok.mpr
      ⟨_, _, _, _, _, rfl, ⟨rfl, rfl, rfl, rfl, rfl⟩, ⟨ht, Bool.or_eq_true_iff.mpr (.inl ht)⟩, rfl⟩)
  case vradd | vscan =>
    cases he
    obtain ⟨hw, hv, ht, hrm⟩ := of_and4 hi
    exact decodeRaw_vector hw hv rfl (decVa1r_eq_ok.mpr ⟨_, _, _, _, _, rfl, ⟨rfl, rfl, rfl, rfl, rfl⟩, ⟨ht, hrm⟩, rfl⟩)
  case vrmax | vrmin =>
    cases he
    obtain ⟨hw, hv, ht⟩ := of_and3 hi
    exact decodeRaw_vector hw hv rfl (decVrm_eq_ok.mpr ⟨_, _, _, rfl, ⟨rfl, rfl, rfl, rfl, rfl⟩, ht, rfl⟩)
  case vcmp h c t d a b =>
    cases he
    obtain ⟨hw, hv, hty, hd⟩ := of_and4 hi
    obtain ⟨ht, hrm, hsat, hbs, h0⟩ := (immVA_iff _ t 0 false (vsBS b)).mp rfl
    obtain ⟨htt, hq⟩ := of_vcmp_types hty
    exact decodeRaw_vector hw hv rfl (dec_then (encSome_eq_ok.mpr (decVCond_eq_some.mpr rfl)) <|
      dec_check (encOk_true _ (beq_iff_eq.mpr h0)) <| dec_check (c0_eq_ok.mpr rfl) <| dec_then (immTy_eq_ok.mpr ht) <|
      dec_check (encOk_true _ htt) <| dec_check (encOk_true _ hq) <| dec_check (encOk_true _ (beq_iff_eq.mpr hrm)) <|
      dec_check (encOk_true _ (congrArg (!·) hsat)) <| dec_then (dP_eq_ok.mpr ⟨rfl, bne_iff_ne.mp hd⟩) <|
      dec_then (aV_eq_ok.mpr rfl) <| dec_then (bVS_eq_ok.mpr ⟨rfl, hbs⟩) rfl)
  case vsel h t d a b c =>
    cases he
    obtain ⟨hw, hv⟩ := of_and hi
    obtain ⟨ht, hrm, hsat, hbs, h0⟩ := (immVA_iff _ t 0 false (vsBS b)).mp rfl
    exact decodeRaw_vector hw hv rfl (dec_check (mod0_eq_ok.mpr rfl) <| dec_check (encOk_true _ (beq_iff_eq.mpr h0)) <|
      dec_then (immTy_eq_ok.mpr ht) <| dec_check (encOk_true _ (beq_iff_eq.mpr hrm)) <|
      dec_check (encOk_true _ (congrArg (!·) hsat)) <| dec_then (dV_eq_ok.mpr rfl) <|
      dec_then (aP_eq_ok.mpr rfl) <| dec_then (bVS_eq_ok.mpr ⟨rfl, hbs⟩) <| dec_then (cV_eq_ok.mpr rfl) rfl)
  case vclassV h t d a =>
    cases he
    obtain ⟨hw, hv, hcl⟩ := of_and3 hi
    obtain ⟨ht, hrm, hsat, hbs, h0⟩ := (immVA_iff _ t 0 false false).mp rfl
    exact decodeRaw_vector hw hv rfl (dec_check (mod0_eq_ok.mpr rfl) <| dec_check (encOk_true _ (beq_iff_eq.mpr h0)) <|
      dec_check (c0_eq_ok.mpr rfl) <| dec_check (encOk_true _ (Bool.or_eq_true_iff.mpr (.inr rfl))) <|
      dec_then (immTy_eq_ok.mpr ht) <| dec_check (encOk_true _ hcl) <| dec_check (encOk_true _ (beq_iff_eq.mpr hrm)) <|
      dec_check (encOk_true _ (congrArg (!·) hsat)) <| (if_neg (Bool.not_eq_true _ ▸ hbs)).trans <|
      dec_then (dV_eq_ok.mpr rfl) <| dec_then (aV_eq_ok.mpr rfl) rfl)
  case vclassP h t d a b =>
    cases he
    obtain ⟨hw, hv, hcl, hd⟩ := of_and4 hi
    obtain ⟨ht, hrm, hsat, hbs, h0⟩ := (immVA_iff _ t 0 false true).mp rfl
    exact decodeRaw_vector hw hv rfl (dec_check (mod0_eq_ok.mpr rfl) <| dec_check (encOk_true _ (beq_iff_eq.mpr h0)) <|
      dec_check (c0_eq_ok.mpr rfl) <| dec_check (encOk_true _ (Bool.or_eq_true_iff.mpr (.inl hbs))) <|
      dec_then (immTy_eq_ok.mpr ht) <| dec_check (encOk_true _ hcl) <| dec_check (encOk_true _ (beq_iff_eq.mpr hrm)) <|
      dec_check (encOk_true _ (congrArg (!·) hsat)) <| (if_pos hbs).trans <|
      dec_then (dP_eq_ok.mpr ⟨rfl, bne_iff_ne.mp hd⟩) <| dec_then (aV_eq_ok.mpr rfl) <| dec_then (bS_eq_ok.mpr rfl) rfl)
  -- conversions, permutations, predicates
  case vcvt =>
    cases he
    obtain ⟨hw, hv, hr, hp⟩ := of_and4 hi
    exact decodeRaw_convert hw hv rfl (dec_check (mod0_eq_ok.mpr rfl) <| dec_check (b0_eq_ok.mpr rfl) <|
      dec_then (decVc_eq_ok.mpr ⟨rfl, rfl⟩) <| dec_check (encOk_true _ (and_of hr hp)) <|
      dec_then (dV_eq_ok.mpr rfl) <| dec_then (aV_eq_ok.mpr rfl) rfl)
  case vqmx =>
    cases he
    obtain ⟨hw, hv, hmx, hfl, hp, hbd⟩ := of_and6 hi
    exact decodeRaw_convert hw hv rfl (dec_check (mod0_eq_ok.mpr rfl) <| dec_then (decVc_eq_ok.mpr ⟨rfl, rfl⟩) <|
      dec_check (encOk_true _ (and_of (and_of hmx hfl) hp)) <|
      dec_check (encOk_true _ (bne_iff_ne.mpr fun h => bne_iff_ne.mp hbd (encVDst_injective h).symm)) <|
      dec_then (dV_eq_ok.mpr rfl) <| dec_then (aV_eq_ok.mpr rfl) <| dec_then (opOk_eq_ok.mpr (decVDst_eq_some.mpr rfl)) rfl)
  case vdqmx =>
    cases he
    obtain ⟨hw, hv, hfl, hmx, hp⟩ := of_and5 hi
    exact decodeRaw_convert hw hv rfl (dec_check (mod0_eq_ok.mpr rfl) <| dec_then (decVc_eq_ok.mpr ⟨rfl, rfl⟩) <|
      dec_check (encOk_true _ (and_of (and_of hfl hmx) hp)) <|
      dec_then (dV_eq_ok.mpr rfl) <| dec_then (aV_eq_ok.mpr rfl) <| dec_then (bV_eq_ok.mpr rfl) rfl)
  case vpack =>
    cases he
    obtain ⟨hw, hv, hwd⟩ := of_and3 hi
    exact decodeRaw_convert hw hv rfl (dec_check (mod0_eq_ok.mpr rfl) <| dec_then (decVc_eq_ok.mpr ⟨rfl, rfl⟩) <|
      dec_check (encOk_true _ (and_of hwd rfl)) <|
      dec_then (dV_eq_ok.mpr rfl) <| dec_then (aV_eq_ok.mpr rfl) <| dec_then (bV_eq_ok.mpr rfl) rfl)
  case vunpk =>
    cases he
    obtain ⟨hw, hv, hwd, hp⟩ := of_and4 hi
    exact decodeRaw_convert hw hv rfl (dec_check (mod0_eq_ok.mpr rfl) <| dec_check (b0_eq_ok.mpr rfl) <|
      dec_then (decVc_eq_ok.mpr ⟨rfl, rfl⟩) <| dec_check (encOk_true _ (and_of hwd hp)) <|
      dec_then (dV_eq_ok.mpr rfl) <| dec_then (aV_eq_ok.mpr rfl) rfl)
  case vldexp h t rm sat d a b =>
    cases he
    obtain ⟨hw, hv, hfl⟩ := of_and3 hi
    obtain ⟨ht, hrm, hsat, hbs, h0⟩ := (immVA_iff _ t (encRM rm) sat (vsBS b)).mp rfl
    exact decodeRaw_convert hw hv rfl (dec_check (mod0_eq_ok.mpr rfl) <| dec_check (encOk_true _ (beq_iff_eq.mpr h0)) <|
      dec_check (c0_eq_ok.mpr rfl) <| dec_then (immTy_eq_ok.mpr ht) <| dec_check (encOk_true _ hfl) <|
      dec_then (immRM_eq_ok.mpr hrm) <| dec_then (dV_eq_ok.mpr rfl) <| dec_then (aV_eq_ok.mpr rfl) <|
      dec_then (bVS_eq_ok.mpr ⟨rfl, hbs⟩) <| congrArg (fun s => Except.ok (Instr.vldexp _ _ _ s _ _ _)) hsat)
  case vperm h t d a b =>
    cases he
    obtain ⟨hw, hv, hne⟩ := of_and3 hi
    obtain ⟨ht, h0⟩ := (immVP_zero_iff _ t).mp rfl
    exact decodeRaw_convert hw hv rfl (dec_check (mod0_eq_ok.mpr rfl) <| dec_check (encOk_true _ (beq_iff_eq.mpr h0)) <|
      dec_check (c0_eq_ok.mpr rfl) <| dec_then (immTy_eq_ok.mpr ht) <| dec_check (encOk_true _ hne) <|
      dec_then (dV_eq_ok.mpr rfl) <| dec_then (aV_eq_ok.mpr rfl) <| dec_then (bV_eq_ok.mpr rfl) rfl)
  case vshuf h t d a b c =>
    cases he
    obtain ⟨hw, hv⟩ := of_and hi
    obtain ⟨ht, h0⟩ := (immVP_zero_iff _ t).mp rfl
    exact decodeRaw_convert hw hv rfl (dec_check (mod0_eq_ok.mpr rfl) <| dec_check (encOk_true _ (beq_iff_eq.mpr h0)) <|
      dec_then (immTy_eq_ok.mpr ht) <| dec_then (dV_eq_ok.mpr rfl) <| dec_then (aV_eq_ok.mpr rfl) <|
      dec_then (bV_eq_ok.mpr rfl) <| dec_then (cS_eq_ok.mpr rfl) rfl)
  case vbcst =>
    cases he
    obtain ⟨hw, hv, hl⟩ := of_and3 hi
    exact decodeRaw_convert hw hv rfl (dec_check (mod0_eq_ok.mpr rfl) <|
      dec_then (decLane_eq_ok.mpr ⟨rfl, of_decide_eq_true hl⟩) <| dec_check (b0_eq_ok.mpr rfl) <|
      dec_check (c0_eq_ok.mpr rfl) <| dec_then (dV_eq_ok.mpr rfl) <| dec_then (aV_eq_ok.mpr rfl) rfl)
  case vins =>
    cases he
    obtain ⟨hw, hv, hl⟩ := of_and3 hi
    exact decodeRaw_convert hw hv rfl (dec_check (mod0_eq_ok.mpr rfl) <|
      dec_then (decLane_eq_ok.mpr ⟨rfl, of_decide_eq_true hl⟩) <| dec_check (c0_eq_ok.mpr rfl) <|
      dec_then (dV_eq_ok.mpr rfl) <| dec_then (aV_eq_ok.mpr rfl) <| dec_then (bS_eq_ok.mpr rfl) rfl)
  case vexts =>
    cases he
    obtain ⟨hw, hv, hl⟩ := of_and3 hi
    exact decodeRaw_convert hw hv rfl (dec_check (mod0_eq_ok.mpr rfl) <|
      dec_then (decLane_eq_ok.mpr ⟨rfl, of_decide_eq_true hl⟩) <| dec_check (b0_eq_ok.mpr rfl) <|
      dec_check (c0_eq_ok.mpr rfl) <| dec_then (dS_eq_ok.mpr rfl) <| dec_then (aV_eq_ok.mpr rfl) rfl)
  case vcomp h t d a b | vexpd h t d a b =>
    cases he
    obtain ⟨hw, hv⟩ := of_and hi
    obtain ⟨ht, h0⟩ := (immVP_zero_iff _ t).mp rfl
    exact decodeRaw_convert hw hv rfl (dec_check (mod0_eq_ok.mpr rfl) <| dec_check (encOk_true _ (beq_iff_eq.mpr h0)) <|
      dec_check (c0_eq_ok.mpr rfl) <| dec_then (immTy_eq_ok.mpr ht) <| dec_then (dV_eq_ok.mpr rfl) <|
      dec_then (aV_eq_ok.mpr rfl) <| dec_then (bP_eq_ok.mpr rfl) rfl)
  case vtrn h t d a =>
    cases he
    obtain ⟨hw, hv, hd, ha⟩ := of_and4 hi
    obtain ⟨ht, h0⟩ := (immVP_zero_iff _ t).mp rfl
    exact decodeRaw_convert hw hv rfl (dec_check (mod0_eq_ok.mpr rfl) <| dec_check (encOk_true _ (beq_iff_eq.mpr h0)) <|
      dec_check (b0_eq_ok.mpr rfl) <| dec_check (c0_eq_ok.mpr rfl) <| dec_then (immTy_eq_ok.mpr ht) <|
      dec_then (opOk_eq_ok.mpr (decVRange_eq_some.mpr ⟨rfl, of_decide_eq_true hd⟩)) <|
      dec_then (opOk_eq_ok.mpr (decVRange_eq_some.mpr ⟨rfl, of_decide_eq_true ha⟩)) rfl)
  case pand h t d a b | por h t d a b | pxor h t d a b =>
    cases he
    obtain ⟨hw, hv, hd⟩ := of_and3 hi
    obtain ⟨ht, h0⟩ := (immVP_zero_iff _ t).mp rfl
    exact decodeRaw_convert hw hv rfl (dec_check (encOk_true _ (pred_md_high rfl)) <| dec_check (encOk_true _ (beq_iff_eq.mpr h0)) <|
      dec_check (c0_eq_ok.mpr rfl) <| dec_check (encOk_true _ rfl) <| dec_then (immTy_eq_ok.mpr ht) <|
      dec_then (dP_eq_ok.mpr ⟨rfl, bne_iff_ne.mp hd⟩) <| dec_then (aP_eq_ok.mpr rfl) <| dec_then (bP_eq_ok.mpr rfl) rfl)
  case pnot h t d a =>
    cases he
    obtain ⟨hw, hv, hd⟩ := of_and3 hi
    obtain ⟨ht, h0⟩ := (immVP_zero_iff _ t).mp rfl
    exact decodeRaw_convert hw hv rfl (dec_check (encOk_true _ (pred_md_high rfl)) <| dec_check (encOk_true _ (beq_iff_eq.mpr h0)) <|
      dec_check (c0_eq_ok.mpr rfl) <| dec_check (encOk_true _ rfl) <| dec_then (immTy_eq_ok.mpr ht) <|
      dec_then (dP_eq_ok.mpr ⟨rfl, bne_iff_ne.mp hd⟩) <| dec_then (aP_eq_ok.mpr rfl) rfl)
  case pcnt h t d a | pfirst h t d a =>
    cases he
    obtain ⟨hw, hv⟩ := of_and hi
    obtain ⟨ht, h0⟩ := (immVP_zero_iff _ t).mp rfl
    exact decodeRaw_convert hw hv rfl (dec_check (mod0_eq_ok.mpr rfl) <| dec_check (encOk_true _ (beq_iff_eq.mpr h0)) <|
      dec_check (b0_eq_ok.mpr rfl) <| dec_check (c0_eq_ok.mpr rfl) <| dec_then (immTy_eq_ok.mpr ht) <|
      dec_then (dS_eq_ok.mpr rfl) <| dec_then (aP_eq_ok.mpr rfl) rfl)
  case pmov h t d a b =>
    cases he
    obtain ⟨hw, hv, hd⟩ := of_and3 hi
    obtain ⟨ht, h0⟩ := (immVP_zero_iff _ t).mp rfl
    exact decodeRaw_convert hw hv rfl (dec_check (mod0_eq_ok.mpr rfl) <| dec_check (encOk_true _ (beq_iff_eq.mpr h0)) <|
      dec_check (c0_eq_ok.mpr rfl) <| dec_then (immTy_eq_ok.mpr ht) <|
      dec_then (dP_eq_ok.mpr ⟨rfl, bne_iff_ne.mp hd⟩) <| dec_then (aP_eq_ok.mpr rfl) <| dec_then (bS_eq_ok.mpr rfl) rfl)
  case vpchk h t d a | vpclr h t d a =>
    cases he
    obtain ⟨hw, hv⟩ := of_and hi
    obtain ⟨ht, h0⟩ := (immVP_zero_iff _ t).mp rfl
    exact decodeRaw_convert hw hv rfl (dec_check (mod0_eq_ok.mpr rfl) <| dec_check (encOk_true _ (beq_iff_eq.mpr h0)) <|
      dec_check (b0_eq_ok.mpr rfl) <| dec_check (c0_eq_ok.mpr rfl) <| dec_then (immTy_eq_ok.mpr ht) <|
      dec_then (dV_eq_ok.mpr rfl) <| dec_then (aV_eq_ok.mpr rfl) rfl)
  -- matrix words
  case mcfg | mldw | mlds | mbswp =>
    cases he
    obtain ⟨hw, hv⟩ := of_and hi
    exact decodeRaw_matrix hw hv rfl (decMcA_eq_ok.mpr ⟨_, _, rfl, ⟨rfl, rfl, rfl, rfl, rfl⟩, rfl⟩)
  case mswp h st =>
    cases he
    obtain ⟨hw, hv⟩ := of_and hi
    obtain ⟨h0, hst⟩ := (immMC_zero_iff _ st).mp rfl
    exact decodeRaw_matrix hw hv rfl (dec_check (mod0_eq_ok.mpr rfl) <| dec_check (encOk_true _ (beq_iff_eq.mpr h0)) <|
      dec_check (d0_eq_ok.mpr rfl) <| dec_check (a0_eq_ok.mpr rfl) <| dec_check (b0_eq_ok.mpr rfl) <|
      dec_check (c0_eq_ok.mpr rfl) <| congrArg (fun t => Except.ok (Instr.mswp _ t)) hst)
  case mma h k a b c st =>
    cases he
    obtain ⟨hw, hv, hc⟩ := of_and3 hi
    obtain ⟨h0, hk, hst⟩ := (immMC_iff _ k st).mp rfl
    exact decodeRaw_matrix hw hv rfl (dec_check (mod0_eq_ok.mpr rfl) <| dec_check (encOk_true _ (beq_iff_eq.mpr h0)) <|
      dec_check (d0_eq_ok.mpr rfl) <| dec_then (opOk_eq_ok.mpr (decVReg_eq_some.mpr rfl)) <|
      dec_then (bS_eq_ok.mpr rfl) <| dec_then (decMmaC_eq_ok.mpr ⟨rfl, hc⟩) <|
      congrArg₂ (fun k t => Except.ok (Instr.mma _ k _ _ _ t)) hk hst)
  case mza h k st =>
    cases he
    obtain ⟨hw, hv⟩ := of_and hi
    obtain ⟨h0, hk, hst⟩ := (immMC_iff _ k st).mp rfl
    exact decodeRaw_matrix hw hv rfl (dec_check (mod0_eq_ok.mpr rfl) <| dec_check (encOk_true _ (beq_iff_eq.mpr h0)) <|
      dec_check (d0_eq_ok.mpr rfl) <| dec_check (a0_eq_ok.mpr rfl) <| dec_check (b0_eq_ok.mpr rfl) <|
      dec_check (c0_eq_ok.mpr rfl) <| congrArg₂ (fun k t => Except.ok (Instr.mza _ k t)) hk hst)
  case mdrn h k d b st =>
    cases he
    obtain ⟨hw, hv⟩ := of_and hi
    obtain ⟨h0, hk, hst⟩ := (immMC_iff _ k st).mp rfl
    exact decodeRaw_matrix hw hv rfl (dec_check (mod0_eq_ok.mpr rfl) <| dec_check (encOk_true _ (beq_iff_eq.mpr h0)) <|
      dec_check (a0_eq_ok.mpr rfl) <| dec_check (c0_eq_ok.mpr rfl) <|
      dec_then (opOk_eq_ok.mpr (decVReg_eq_some.mpr rfl)) <| dec_then (bS_eq_ok.mpr rfl) <|
      congrArg₂ (fun k t => Except.ok (Instr.mdrn _ k _ _ t)) hk hst)
  case mkpr h d st =>
    cases he
    obtain ⟨hw, hv⟩ := of_and hi
    obtain ⟨h0, hst⟩ := (immMC_zero_iff _ st).mp rfl
    exact decodeRaw_matrix hw hv rfl (dec_check (mod0_eq_ok.mpr rfl) <| dec_check (encOk_true _ (beq_iff_eq.mpr h0)) <|
      dec_check (a0_eq_ok.mpr rfl) <| dec_check (b0_eq_ok.mpr rfl) <| dec_check (c0_eq_ok.mpr rfl) <|
      dec_then (dS_eq_ok.mpr rfl) <| congrArg (fun t => Except.ok (Instr.mkpr _ _ t)) hst)
  -- the rows that carry no word
  all_goals cases he


/-- Settles O1: a well-formed word's fields are those its decoder reads, one case for each row of the opcode table. -/
theorem wordRoundTrip : Obligations.WordRoundTrip := by
  unfold Obligations.WordRoundTrip
  intro e i w hi he
  obtain ⟨r, hr, rfl⟩ := Option.map_eq_some_iff.mp he
  rw [decodeWord, (Raw.ofWord_eq_iff _ r).mpr rfl]
  exact decodeRaw_of_encodeRaw hi hr

/-- Settles O2: each check of a decoder fixes the fields it looks at to those that `encode` writes. -/
theorem wordUnique : Obligations.WordUnique := by
  unfold Obligations.WordUnique
  intro e i w hd
  obtain ⟨hr, hi⟩ := encodeRaw_of_decodeRaw hd
  exact ⟨Option.map_eq_some_iff.mpr ⟨_, hr, ((Raw.ofWord_eq_iff w _).mp rfl).symm⟩, hi⟩

end Sys2Proof
end

section
/-! SUPPORT. Collective steps (21 R356, R357) and work-queue entries (22 R374): decoding and encoding agree. -/

namespace Sys2Proof

-- collective steps

/-- The two words of a step with reserved bits 0 are those that its opcode and fields make. -/
theorem encStep_iff {w0 w1 : Word} {opc : BitVec 8} {a : StepArgs} : (w0 = encStep0 opc a ∧ w1 = encStep1 a) ↔
    w0.extractLsb' 0 8 = opc ∧ decStepArgs w0 w1 = a ∧ stepReservedOk w0 w1 = true := by
  have h15 : w0.extractLsb' 15 1 = 0 ↔ w0.getLsbD 15 = false := extract_one w0 false
  rw [encStep0, encStep1, eq_append_iff (m := 56) (n := 8), eq_append_iff (m := 54) (n := 2), eq_append_iff (m := 53) (n := 1),
    eq_append_iff (m := 52) (n := 1), eq_append_iff (m := 51) (n := 1), eq_append_iff (m := 50) (n := 1),
    eq_append_iff (m := 49) (n := 1), eq_append_iff (m := 48) (n := 1), eq_append_iff (m := 44) (n := 4),
    eq_append_iff (m := 40) (n := 4), eq_append_iff (m := 36) (n := 4), eq_append_iff (m := 32) (n := 4),
    eq_append_iff (m := 16) (n := 16), eq_append_iff (m := 8) (n := 8), eq_append_iff (m := 32) (n := 32)]
  obtain ⟨slot, peer, rop, ty, hb, ha, c, sb, sa, ix, li, pm, len⟩ := a
  simp only [extract_one, extract_extract, Nat.reduceLeDiff, Nat.reduceAdd, h15, decStepArgs, StepArgs.mk.injEq,
    stepReservedOk, Bool.and_eq_true, beq_iff_eq, Bool.not_eq_true']
  tauto

theorem encodeStep_of_decodeStep {w0 w1 : Word} {i : Instr} (hd : decodeStep w0 w1 = some i) :
    encodeStep i = some (w0, w1) ∧ i.wf .L = true := by
  unfold decodeStep at hd
  dsimp only at hd
  split at hd
  case h_2 => cases hd
  case h_1 j hj =>
    split at hd
    case isFalse => cases hd
    case isTrue hok =>
      obtain rfl : j = i := Option.some.inj hd
      obtain ⟨hres, hwf⟩ := of_and hok
      refine ⟨?_, hwf⟩
      split at hj
      case h_13 => cases hj
      all_goals
        rename_i hop
        cases hj
        obtain ⟨h0, h1⟩ := encStep_iff.mpr ⟨eq_of_toNat_ofNat hop, rfl, hres⟩
        exact congrArg some (congrArg₂ Prod.mk h0.symm h1.symm)

theorem decodeStep_of_encodeStep {w0 w1 : Word} {i : Instr} (hwf : i.wf .L = true) (he : encodeStep i = some (w0, w1)) :
    decodeStep w0 w1 = some i := by
  cases i
  case send a | recv a | pushred a | pull a | collCopy a | wait a | collSignal a | collLoop a | endl a | countx a | pfxsum a
      | collEnd a =>
    obtain ⟨h0, h1⟩ := Prod.mk.inj (Option.some.inj he)
    obtain ⟨hop, ha, hres⟩ := encStep_iff.mp ⟨h0.symm, h1.symm⟩
    rw [decodeStep, hop, ha]
    exact if_pos (and_of hres hwf)
  all_goals cases he

-- work-queue entries

/-- The first word of an entry: its kind, and four bits above it. -/
theorem entryHead_iff {w : Word} {n : BitVec 4} {k : BitVec 8} : w = (0 : BitVec 52) ++ n ++ k ↔
    w.extractLsb' 12 52 = 0 ∧ w.extractLsb' 8 4 = n ∧ w.extractLsb' 0 8 = k := by
  rw [eq_append_iff (m := 56) (n := 8), eq_append_iff (m := 52) (n := 4)]
  simp only [extract_extract, Nat.reduceLeDiff, Nat.reduceAdd, and_assoc]

theorem launchWord_iff {w : Word} {r : BitVec 16} {sett : Bool} {tiles : BitVec 32} :
    w = tiles ++ (0 : BitVec 15) ++ BitVec.ofBool sett ++ r ↔
    w.extractLsb' 32 32 = tiles ∧ w.extractLsb' 17 15 = 0 ∧ w.getLsbD 16 = sett ∧ w.extractLsb' 0 16 = r := by
  rw [eq_append_iff (m := 48) (n := 16), eq_append_iff (m := 47) (n := 1), eq_append_iff (m := 32) (n := 15)]
  simp only [extract_one, extract_extract, Nat.reduceLeDiff, Nat.reduceAdd, and_assoc]

theorem waitWord_iff {w : Word} {p : Bool} : w = (0 : BitVec 63) ++ BitVec.ofBool p ↔
    w.extractLsb' 1 63 = 0 ∧ w.getLsbD 0 = p := by
  rw [eq_append_iff (m := 63) (n := 1), extract_one]

theorem signalWord_iff {w : Word} {v : BitVec 11} {m : Bool} :
    w = (0 : BitVec 48) ++ BitVec.ofBool m ++ (0 : BitVec 4) ++ v ↔
    w.extractLsb' 16 48 = 0 ∧ w.getLsbD 15 = m ∧ w.extractLsb' 11 4 = 0 ∧ w.extractLsb' 0 11 = v := by
  rw [eq_append_iff (m := 53) (n := 11), eq_append_iff (m := 49) (n := 4), eq_append_iff (m := 48) (n := 1)]
  simp only [extract_one, extract_extract, Nat.reduceLeDiff, Nat.reduceAdd, and_assoc]

theorem collWord_iff {w : Word} {r n : BitVec 20} : w = (0 : BitVec 12) ++ n ++ (0 : BitVec 12) ++ r ↔
    w.extractLsb' 52 12 = 0 ∧ w.extractLsb' 32 20 = n ∧ w.extractLsb' 20 12 = 0 ∧ w.extractLsb' 0 20 = r := by
  rw [eq_append_iff (m := 44) (n := 20), eq_append_iff (m := 32) (n := 12), eq_append_iff (m := 12) (n := 20)]
  simp only [extract_extract, Nat.reduceLeDiff, Nat.reduceAdd, and_assoc]

section
variable {w0 w1 w2 w3 w4 w5 w6 w7 : Word} {i : Instr}

theorem of_check {c : Bool} {j : Instr} (h : (if c = true then .ok j else .error .reserved : Except BadEntry Instr) = .ok i) :
    c = true ∧ j = i := by
  split at h
  · next hc => exact ⟨hc, Except.ok.inj h⟩
  · cases h

theorem entry_kind {k : BitVec 8} (hhi : w0.extractLsb' 12 52 = 0) (hmid : w0.extractLsb' 8 4 = 0)
    (hk : (w0.extractLsb' 0 8).toNat = k.toNat) : w0 = (0 : BitVec 52) ++ (0 : BitVec 4) ++ k :=
  entryHead_iff.mpr ⟨hhi, hmid, BitVec.eq_of_toNat_eq hk⟩

theorem encodeEntry_of_decodeEntry (hd : decodeEntry w0 w1 w2 w3 w4 w5 w6 w7 = .ok i) :
    encodeEntry i = some [w0, w1, w2, w3, w4, w5, w6, w7] := by
  unfold decodeEntry at hd
  dsimp only at hd
  split at hd
  case h_7 => cases hd
  all_goals
    rename_i hk
    obtain ⟨hc, rfl⟩ := of_check hd
    simp only [Bool.and_eq_true, beq_iff_eq] at hc
  case h_1 =>
    obtain ⟨⟨⟨⟨⟨⟨⟨⟨hhi, hmid⟩, h1⟩, rfl⟩, rfl⟩, rfl⟩, rfl⟩, rfl⟩, rfl⟩ := hc
    rw [entry_kind (k := 1) hhi hmid hk]
    exact congrArg (fun w => some [1, w, 0, 0, 0, 0, 0, 0]) (launchWord_iff.mpr ⟨rfl, h1, rfl, rfl⟩).symm
  case h_2 =>
    obtain ⟨hhi, rfl⟩ := hc
    exact congrArg (fun w => some [w, w1, w2, w3, w4, w5, w6, 0])
      (entryHead_iff.mpr ⟨hhi, rfl, eq_of_toNat_ofNat hk⟩).symm
  case h_3 =>
    obtain ⟨⟨⟨⟨hhi, hmid⟩, rfl⟩, rfl⟩, rfl⟩ := hc
    rw [entry_kind (k := 3) hhi hmid hk]
    rfl
  case h_4 =>
    obtain ⟨⟨⟨⟨⟨⟨⟨hhi, hmid⟩, h2⟩, rfl⟩, rfl⟩, rfl⟩, rfl⟩, rfl⟩ := hc
    rw [entry_kind (k := 4) hhi hmid hk]
    exact congrArg (fun w => some [4, w1, w, 0, 0, 0, 0, 0]) (waitWord_iff.mpr ⟨h2, rfl⟩).symm
  case h_5 =>
    obtain ⟨⟨⟨⟨⟨⟨⟨hhi, hmid⟩, h4⟩, h16⟩, rfl⟩, rfl⟩, rfl⟩, rfl⟩ := hc
    rw [entry_kind (k := 5) hhi hmid hk]
    exact congrArg (fun w => some [5, w1, w2, w, 0, 0, 0, 0]) (signalWord_iff.mpr ⟨h16, rfl, h4, rfl⟩).symm
  case h_6 =>
    obtain ⟨⟨⟨⟨⟨⟨hhi, hmid⟩, h20⟩, h52⟩, rfl⟩, rfl⟩, rfl⟩ := hc
    rw [entry_kind (k := 6) hhi hmid hk]
    exact congrArg (fun w => some [6, w1, w2, w3, w, 0, 0, 0]) (collWord_iff.mpr ⟨h52, rfl, h20, rfl⟩).symm

theorem decodeEntry_of_encodeEntry (he : encodeEntry i = some [w0, w1, w2, w3, w4, w5, w6, w7]) :
    decodeEntry w0 w1 w2 w3 w4 w5 w6 w7 = .ok i := by
  cases i
  case launch r sett tiles =>
    cases he
    obtain ⟨ht, h0, hs, hr⟩ := (launchWord_iff (r := r) (sett := sett) (tiles := tiles)).mp rfl
    simp only [decodeEntry, ht, h0, hs, hr]
    rfl
  case seq n v0 v1 v2 v3 v4 v5 =>
    cases he
    obtain ⟨hhi, hn, hk⟩ := (entryHead_iff (n := n) (k := 2)).mp rfl
    simp only [decodeEntry, hhi, hn, hk]
    rfl
  case copy => cases he; rfl
  case waitbo b p =>
    cases he
    obtain ⟨h0, hp⟩ := (waitWord_iff (p := p)).mp rfl
    simp only [decodeEntry, h0, hp]
    rfl
  case signal b n v m =>
    cases he
    obtain ⟨h16, hm, h4, hv⟩ := (signalWord_iff (v := v) (m := m)).mp rfl
    simp only [decodeEntry, h16, hm, h4, hv]
    rfl
  case coll p a b r n =>
    cases he
    obtain ⟨h52, hn, h20, hr⟩ := (collWord_iff (r := r) (n := n)).mp rfl
    simp only [decodeEntry, h52, hn, h20, hr]
    rfl
  all_goals cases he

end

/-- Settles O3: the words of a step and of an entry are concatenations of their fields, and each decoder checks the rest. -/
theorem stepEntryRoundTrip : Obligations.StepEntryRoundTrip := by
  unfold Obligations.StepEntryRoundTrip
  exact ⟨fun _ _ _ => decodeStep_of_encodeStep, fun _ _ _ => encodeStep_of_decodeStep,
    fun _ _ _ _ _ _ _ _ _ => decodeEntry_of_encodeEntry, fun _ _ _ _ _ _ _ _ _ => encodeEntry_of_decodeEntry⟩

end Sys2Proof
end

section
/-! SUPPORT. A change of the current engine leaves the group in issue and the rest of the package (01 R9, R20). -/

namespace Sys2Proof.Machine

theorem Ran.refl (s : State) : Ran s s where
  pkg := .refl s _
  core := .refl _
  eng := .refl _
  engs _ _ := rfl

theorem Ran.trans {s t u : State} (h : Ran s t) (k : Ran t u) : Ran s u := by
  obtain ⟨hp, hc, he, hs⟩ := h
  obtain ⟨kp, kc, ke, ks⟩ := k
  have hcur : t.cur = s.cur := hp.cur
  rw [hcur] at kp ks
  exact ⟨hp.trans kp, hc.trans kc, he.trans ke, fun e hne => (ks e hne).trans (hs e hne)⟩

@[simp] theorem State.curCore_modCur (s : State) (f : Engine → Engine) :
    (s.modCur f).curCore = s.curCore.setEng s.cur.2 (f s.curEng) := by
  simp [State.curCore, State.modCur, State.modEng, State.setEng, State.curEng]

theorem Ran.modCur {s : State} {f : Engine → Engine} (h : Engine.Kept s.curEng (f s.curEng)) : Ran s (s.modCur f) where
  pkg := .setCore ..
  core := by simpa using Core.Kept.setEng _ _ _
  eng := by simpa using h
  engs e he := by simp [State.modCur, Ne.symm he]

/-- A change of the current engine that keeps its group and its supervisor state keeps the issue of the group. -/
theorem State.Issuing.modCur {s : State} {h : Hdr} {g : Grp} {f : Engine → Engine} (hi : s.Issuing h g)
    (hg : (f s.curEng).grp = s.curEng.grp) (hs : (f s.curEng).sup = s.curEng.sup) : (s.modCur f).Issuing h g := by
  obtain ⟨grp, room, landed, front, alone, owes, flow⟩ := hi
  refine ⟨?_, ?_, ?_, ?_, ?_, owes, flow⟩
  · simpa [hg] using grp
  · simpa [room_setEng] using room
  · simpa [hs] using landed
  · simpa [State.behind, Core.owing, State.modCur, State.modEng, State.setEng] using front
  · simpa [State.unretired, State.modCur, State.modEng, State.setEng] using alone

-- scalar registers

@[simp] theorem Engine.setReg_grp (g : Engine) (n : Nat) (v : SVal) : (g.setReg n v).grp = g.grp := by
  unfold Engine.setReg; split <;> rfl
@[simp] theorem Engine.setReg_sup (g : Engine) (n : Nat) (v : SVal) : (g.setReg n v).sup = g.sup := by
  unfold Engine.setReg; split <;> rfl
@[simp] theorem Engine.setReg_ring (g : Engine) (n : Nat) (v : SVal) : (g.setReg n v).ring = g.ring := by
  unfold Engine.setReg; split <;> rfl
@[simp] theorem Engine.setReg_csr (g : Engine) (n : Nat) (v : SVal) : (g.setReg n v).csr = g.csr := by
  unfold Engine.setReg; split <;> rfl

theorem Engine.Kept.setReg (g : Engine) (n : Nat) (v : SVal) : Engine.Kept g (g.setReg n v) := by
  unfold Engine.setReg; split <;> constructor <;> rfl

theorem Engine.reg_setReg_ne (g : Engine) {n m : Nat} (v : SVal) (h : n ≠ m) : (g.setReg n v).reg m = g.reg m := by
  by_cases h0 : n = 0
  · simp [Engine.setReg, h0]
  · simp [Engine.setReg, Engine.reg, h0, h]

@[simp] theorem Engine.reg_zero (g : Engine) : g.reg 0 = SVal.zero := rfl

@[simp] theorem Engine.setReg_zero (g : Engine) (v : SVal) : g.setReg 0 v = g := rfl

theorem Engine.reg_congr {g k : Engine} (h : k.regs = g.regs) (n : Nat) : k.reg n = g.reg n := by
  simp [Engine.reg, h]

-- a scalar destination

theorem State.swr_s (s : State) (n : Fin 32) (v : SVal) : s.swr (.s n) v = s.modCur (fun g => g.setReg n.val v) := rfl
@[simp] theorem State.swr_z (s : State) (v : SVal) : s.swr .z v = s := rfl

theorem State.swr_ran (s : State) (d : SDst) (v : SVal) : Ran s (s.swr d v) := by
  cases d with
  | z => exact .refl s
  | s n => exact .modCur (.setReg ..)

theorem State.Issuing.swr {s : State} {h : Hdr} {g : Grp} (hi : s.Issuing h g) (d : SDst) (v : SVal) :
    (s.swr d v).Issuing h g := by
  cases d with
  | z => exact hi
  | s n => exact hi.modCur (Engine.setReg_grp ..) (Engine.setReg_sup ..)

/-- What a write of a scalar destination keeps: the ring, the flags, the vector files and the other registers. -/
theorem State.swr_keeps (s : State) (d : SDst) (v : SVal) :
    (s.swr d v).curEng.ring = s.curEng.ring ∧ (s.swr d v).curEng.csr = s.curEng.csr ∧
    (s.swr d v).curCore.v = s.curCore.v ∧ (s.swr d v).curCore.p = s.curCore.p ∧
    ∀ n : Fin 32, d ≠ .s n → (s.swr d v).curEng.reg n.val = s.curEng.reg n.val := by
  cases d with
  | z => simp
  | s n =>
    refine ⟨by simp [swr_s], by simp [swr_s], by simp [swr_s], by simp [swr_s], fun m hm => ?_⟩
    have hne : n.val ≠ m.val := fun e => hm (by rw [Fin.ext e])
    simp [swr_s, Engine.reg_setReg_ne _ _ hne]

/-- A write of s0 is discarded (01 R9). -/
theorem State.swr_s0_reg (s : State) (v : SVal) (n : Nat) : (s.swr (.s 0) v).curEng.reg n = s.curEng.reg n := by
  rw [State.swr_s, State.curEng_modCur]
  rfl

end Sys2Proof.Machine
end

section
/-! SUPPORT. The scalar integer words have one shape (04 R59): a value of their sources, under a guard. -/

namespace Sys2Proof.Machine

-- flags (02 R37): an integer word sets no flag but SAT, NX and DZ

theorem deliverInt_flags (signed : Bool) (w : Nat) (sat : Bool) (x : Int) :
    (deliverInt signed w sat x).2 &&& 0x16 = 0 := by
  cases sat with
  | false => simp [deliverInt]
  | true =>
    simp only [deliverInt, if_true, flagIf]
    split <;> decide

theorem divVal_flags (signed : Bool) (a b : Word) : (divVal signed a b).2.2 &&& 0x16 = 0 := by
  unfold divVal flagIf
  split
  · dsimp only
    split <;> decide
  · simp

theorem noFlag_flags (w : Word) : (noFlag w).2 &&& 0x16 = 0 := by simp [noFlag]

theorem satWord_flags (m : SatMode) (e : Int) : (satWord m e).2 &&& 0x16 = 0 := deliverInt_flags ..

theorem addVal_flags (m : SatMode) (a b : Word) : (addVal m a b).2 &&& 0x16 = 0 := satWord_flags ..
theorem addiVal_flags (m : SatMode) (a : Word) (i : BitVec 30) : (addiVal m a i).2 &&& 0x16 = 0 := satWord_flags ..
theorem subVal_flags (m : SatMode) (a b : Word) : (subVal m a b).2 &&& 0x16 = 0 := satWord_flags ..
theorem mulVal_flags (m : SatMode) (a b : Word) : (mulVal m a b).2 &&& 0x16 = 0 := satWord_flags ..
theorem maddVal_flags (m : SatMode) (a b c : Word) : (maddVal m a b c).2 &&& 0x16 = 0 := satWord_flags ..

/-- A scalar integer word is `scalarEff` of its sources; its value raises at most SAT, NX and DZ. -/
theorem scalarShape_exec {i : Instr} {h : Hdr} {d : SDst} {as : List SSrc} (hs : scalarShape i = some (h, d, as)) :
    hdrD i = h ∧ ∃ r : State → Word × FlagSet,
      exec i = performWord i (fun _ s => scalarEff h d (as.map s.srd) (r s) s) ∧ ∀ s, (r s).2 &&& 0x16 = 0 := by
  unfold scalarShape at hs
  split at hs
  all_goals
    cases hs <;>
    exact ⟨rfl, _, rfl, fun s => by
      simp only [noFlag_flags, divVal_flags, addVal_flags, addiVal_flags, subVal_flags, mulVal_flags, maddVal_flags]⟩

/-- What a scalar integer word comes to: a write of its destination or none, one push, and flags. -/
theorem scalarEff_done (h : Hdr) (d : SDst) (src : List SVal) (r : Word × FlagSet) (s : State) :
    ∃ (t : State) (v : SVal) (f : FlagSet), scalarEff h d src r s = .done t (some (.sc v)) f .next ∧
      (t = s ∨ t = s.swr d v) ∧ (f = 0 ∨ f = r.2) := by
  unfold scalarEff
  split
  · split
    · exact ⟨_, _, _, rfl, .inr rfl, .inl rfl⟩
    · exact ⟨_, _, _, rfl, .inr rfl, .inr rfl⟩
  · exact ⟨_, _, _, rfl, .inl rfl, .inl rfl⟩

theorem firstPoison_append {pre post : List SVal} {v : SVal} (hp : ∀ w ∈ pre, w.poison = false) (hv : v.poison = true) :
    firstPoison (pre ++ v :: post) = some v := by
  induction pre with
  | nil => simp [firstPoison, hv]
  | cons w pre ih =>
    have hw : w.poison = false := hp w (by simp)
    simp [firstPoison, hw, ih fun x hx => hp x (by simp [hx])]

/-- R59, R102 and the frame: the whole next state of a scalar integer word in issue. -/
theorem scalarShape_retires {s : State} {g : Grp} {i : Instr} {h : Hdr} {d : SDst} {as : List SSrc}
    (hg : s.curEng.grp = some g) (hs : scalarShape i = some (h, d, as)) :
    ∃ (t : State) (v : SVal) (f : FlagSet), exec i s = .next (t.retire h (some (.sc v)) f .next) ∧
      (t = s ∨ t = s.swr d v) ∧ f &&& 0x16 = 0 := by
  obtain ⟨hh, r, he, hr⟩ := scalarShape_exec hs
  obtain ⟨t, v, f, hd, ht, hf⟩ := scalarEff_done h d (as.map s.srd) (r s) s
  refine ⟨t, v, f, ?_, ht, ?_⟩
  · rw [he, performWord_member hg, hh, hd]; rfl
  · rcases hf with rfl | rfl
    · simp
    · exact hr s

end Sys2Proof.Machine
end

section
/-! Settled: what guards and poison do to a scalar integer word, and what such a word leaves alone. -/

namespace Sys2Proof.Machine

/-- Settles O13, from the one shape of the scalar integer words. -/
theorem scalarGuardPoison : Obligations.ScalarGuardPoison := by
  refine ⟨?_, ?_⟩
  · intro s g i h d as hg hs hx hp v hv
    obtain ⟨hh, r, he, -⟩ := scalarShape_exec hs
    have hfalse : s.guardTrue h = false := by simp [State.guardTrue, hx, ← hp]
    have hold : s.sold d = v := by rw [hv]; cases d <;> rfl
    rw [he, performWord_member hg, hh]
    simp [scalarEff, hfalse, hold, State.settle]
  · intro s g i h d pre post a hg hs ht hc ha v hv
    obtain ⟨hh, r, he, -⟩ := scalarShape_exec hs
    have hfirst : firstPoison ((pre ++ a :: post).map s.srd) = some (s.srd a) := by
      rw [List.map_append, List.map_cons]
      exact firstPoison_append (by simpa [State.cleanSrc] using hc) ha
    rw [he, performWord_member hg, hh, hv]
    simp only [scalarEff, ht, if_true, hfirst]
    rfl

/-- Settles O14: the word writes its destination, and what retirement does is steady. -/
theorem scalarFrame : Obligations.ScalarFrame := by
  refine ⟨?_, ?_⟩
  · intro s g i h d as hi hs
    obtain ⟨t, v, f, he, ht, hf⟩ := scalarShape_retires hi.grp hs
    have hti : t.Issuing h g := by rcases ht with rfl | rfl <;> [exact hi; exact hi.swr d v]
    have hran : Ran s t := by rcases ht with rfl | rfl <;> [exact .refl _; exact State.swr_ran ..]
    obtain ⟨hring, hcsr, hv, hp, hregs⟩ : t.curEng.ring = s.curEng.ring ∧ t.curEng.csr = s.curEng.csr ∧
        t.curCore.v = s.curCore.v ∧ t.curCore.p = s.curCore.p ∧
        ∀ n : Fin 32, d ≠ .s n → t.curEng.reg n.val = s.curEng.reg n.val := by
      rcases ht with rfl | rfl <;> [exact ⟨rfl, rfl, rfl, rfl, fun _ _ => rfl⟩; exact State.swr_keeps ..]
    obtain ⟨rran, rregs, rring, rff, rv, rp⟩ := retire_next hti (some (.sc v)) f
    refine ⟨_, he, hran.trans rran, fun n hn => (Engine.reg_congr rregs _).trans (hregs n hn), rv.trans hv, rp.trans hp,
      fun k h1 h8 _ => ?_, f, hf, by rw [rff, hcsr]⟩
    obtain ⟨k, rfl⟩ : ∃ j, k = j + 1 := ⟨k - 1, by omega⟩
    rw [rring, Engine.push, hring]
    rw [List.getElem?_take, if_pos h8]
    rfl
  · intro s g i h as hi hs
    obtain ⟨t, v, f, he, ht, -⟩ := scalarShape_retires hi.grp hs
    have hti : t.Issuing h g := by rcases ht with rfl | rfl <;> [exact hi; exact hi.swr _ v]
    have hregs : ∀ n, t.curEng.reg n = s.curEng.reg n := by
      rcases ht with rfl | rfl <;> [exact fun _ => rfl; exact State.swr_s0_reg s v]
    have hring : t.curEng.ring = s.curEng.ring := by
      rcases ht with rfl | rfl <;> [rfl; exact (State.swr_keeps ..).1]
    obtain ⟨-, rregs, rring, -, -, -⟩ := retire_next hti (some (.sc v)) f
    exact ⟨rfl, rfl, _, v, he, fun n => (Engine.reg_congr rregs n).trans (hregs n), rfl,
      by rw [rring, Engine.push, hring]⟩

end Sys2Proof.Machine
end

section
/-! SUPPORT. Updates of one core compose, and retirement as one equation (06 R88, R89): what a member's end changes before it
ends its group. -/

namespace Sys2Proof.Machine

-- updates compose

@[simp] theorem Store.put_put (xs : Store α) (k : Nat) (a b : α) : Store.put (Store.put xs k a) k b = Store.put xs k b := by
  induction xs with
  | nil => simp [Store.put]
  | cons x xs ih =>
    obtain ⟨j, y⟩ := x
    rcases Nat.lt_trichotomy k j with h | h | h
    · simp [Store.put, h]
    · simp [Store.put, h]
    · simp [Store.put, Nat.not_lt_of_gt h, Nat.ne_of_gt h, ih]

@[simp] theorem State.setCore_setCore (s : State) (c : Nat) (k l : Core) : (s.setCore c k).setCore c l = s.setCore c l := by
  simp [State.setCore]

@[simp] theorem State.modCore_modCore (s : State) (c : Nat) (f f' : Core → Core) :
    (s.modCore c f).modCore c f' = s.modCore c (fun k => f' (f k)) := by
  simp [State.modCore]

theorem State.modEng_eq_modCore (s : State) (c : Nat) (e : Eng) (f : Engine → Engine) :
    s.modEng c e f = s.modCore c (fun k => k.setEng e (f (k.eng e))) := rfl

theorem State.setEng_eq_modCore (s : State) (c : Nat) (e : Eng) (g : Engine) :
    s.setEng c e g = s.modCore c (fun k => k.setEng e g) := rfl

@[simp] theorem Core.setEng_setEng (k : Core) (e : Eng) (g g' : Engine) : (k.setEng e g).setEng e g' = k.setEng e g' := by
  cases e <;> rfl

theorem OnlyCore.modCore (s : State) (c : Nat) (f : Core → Core) : OnlyCore s (s.modCore c f) c := .setCore ..

-- tokens

/-- The release and the posting of tokens move tokens alone. -/
def Core.retireTokens (k : Core) (e : Eng) (h : Hdr) : Core := (k.dropTokens e h.pop).addTokens e h.post

theorem Core.retireTokens_eq (k : Core) (e : Eng) (h : Hdr) : ∃ o r, k.retireTokens e h = { k with occ := o, resv := r } := by
  obtain ⟨o, r, hd⟩ := dropTokens_eq k e h.pop
  exact ⟨_, r, by rw [Core.retireTokens, hd]; rfl⟩

@[simp] theorem Core.retireTokens_eng (k : Core) (e : Eng) (h : Hdr) (e' : Eng) : (k.retireTokens e h).eng e' = k.eng e' := by
  obtain ⟨o, r, hk⟩ := k.retireTokens_eq e h
  rw [hk]; cases e' <;> rfl
@[simp] theorem Core.retireTokens_task (k : Core) (e : Eng) (h : Hdr) : (k.retireTokens e h).task = k.task := by
  obtain ⟨o, r, hk⟩ := k.retireTokens_eq e h
  rw [hk]
@[simp] theorem Core.retireTokens_flight (k : Core) (e : Eng) (h : Hdr) : (k.retireTokens e h).flight = k.flight := by
  obtain ⟨o, r, hk⟩ := k.retireTokens_eq e h
  rw [hk]
@[simp] theorem Core.retireTokens_landing (k : Core) (e : Eng) (h : Hdr) : (k.retireTokens e h).landing = k.landing := by
  obtain ⟨o, r, hk⟩ := k.retireTokens_eq e h
  rw [hk]

/-- The engines that masks name are the other three. -/
theorem engOther_ne (e : Eng) {j : Nat} (h1 : 1 ≤ j) (h3 : j ≤ 3) : engOther e j ≠ e := by
  interval_cases j <;> cases e <;> decide

theorem fifoNo_inj {e f e' f' : Eng} : fifoNo e f = fifoNo e' f' ↔ e = e' ∧ f = f' := by
  cases e <;> cases f <;> cases e' <;> cases f' <;> decide

theorem engOther_inj (e : Eng) {i j : Nat} (hi : 1 ≤ i ∧ i ≤ 3) (hj : 1 ≤ j ∧ j ≤ 3) : engOther e i = engOther e j ↔ i = j := by
  obtain ⟨h1, h2⟩ := hi
  obtain ⟨h3, h4⟩ := hj
  interval_cases i <;> interval_cases j <;> cases e <;> decide

/-- The FIFO `f` is one that a mask names, as `fifo j` for one of its bits. -/
def fifoNamed (mask : BitVec 3) (fifo : Nat → Nat) (js : List Nat) (f : Nat) : Bool :=
  js.any (fun j => mask.getLsbD (j - 1) && f == fifo j)

theorem fifoNamed_cons_self {mask : BitVec 3} {fifo : Nat → Nat} {j : Nat} {js : List Nat} (hp : mask.getLsbD (j - 1) = true)
    (hj : ∀ i ∈ js, fifo i = fifo j → i = j) (hn : j ∉ js) :
    fifoNamed mask fifo (j :: js) (fifo j) = true ∧ fifoNamed mask fifo js (fifo j) = false := by
  refine ⟨by simp [fifoNamed, hp], ?_⟩
  simp only [fifoNamed, List.any_eq_false, Bool.and_eq_true, beq_iff_eq, not_and]
  exact fun i hi _ he => hn (hj i hi he.symm ▸ hi)

/-- R88: one token into each FIFO of the POST mask; no other FIFO changes. -/
theorem Core.addTokens_occ (k : Core) (e : Eng) (posts : BitVec 3) (f : Nat) :
    (k.addTokens e posts).occ.get f 0 =
      k.occ.get f 0 + (if fifoNamed posts (fun j => fifoNo e (engOther e j)) [1, 2, 3] f then 1 else 0) := by
  suffices H : ∀ l : List Nat, (∀ j ∈ l, 1 ≤ j ∧ j ≤ 3) → l.Nodup → ∀ o : Store Nat,
      (l.foldl (fun o j => if posts.getLsbD (j - 1) then
        o.put (fifoNo e (engOther e j)) (o.get (fifoNo e (engOther e j)) 0 + 1) else o) o).get f 0 =
      o.get f 0 + (if fifoNamed posts (fun j => fifoNo e (engOther e j)) l f then 1 else 0) from
    H [1, 2, 3] (by simp) (by simp) k.occ
  intro l
  induction l with
  | nil => simp [fifoNamed]
  | cons j l ih =>
    intro hl hn o
    obtain ⟨hj, hl'⟩ := List.forall_mem_cons.mp hl
    obtain ⟨hnot, hn'⟩ := List.nodup_cons.mp hn
    rw [List.foldl_cons, ih hl' hn']
    by_cases hp : posts.getLsbD (j - 1) = true
    · by_cases hf : f = fifoNo e (engOther e j)
      · obtain ⟨h1, h2⟩ := fifoNamed_cons_self (fifo := fun j => fifoNo e (engOther e j)) hp
          (fun i hi he => (engOther_inj e (hl' i hi) hj).mp (fifoNo_inj.mp he).2) hnot
        subst hf
        simp [h1, h2, hp]
      · simp [fifoNamed, hp, hf, Ne.symm hf]
    · simp [fifoNamed, hp]

/-- R89: one token leaves each FIFO of the POP mask; no other FIFO changes. -/
theorem Core.dropTokens_occ (k : Core) (e : Eng) (pops : BitVec 3) (f : Nat) :
    (k.dropTokens e pops).occ.get f 0 =
      k.occ.get f 0 - (if fifoNamed pops (fun j => fifoNo (engOther e j) e) [1, 2, 3] f then 1 else 0) := by
  suffices H : ∀ l : List Nat, (∀ j ∈ l, 1 ≤ j ∧ j ≤ 3) → l.Nodup → ∀ k : Core,
      (l.foldl (fun k j => if pops.getLsbD (j - 1) then
        let f := fifoNo (engOther e j) e
        { k with occ := k.occ.put f (k.occ.get f 0 - 1), resv := k.resv.put f (k.resv.get f 0 - 1) } else k) k).occ.get f 0 =
      k.occ.get f 0 - (if fifoNamed pops (fun j => fifoNo (engOther e j) e) l f then 1 else 0) from
    H [1, 2, 3] (by simp) (by simp) k
  intro l
  induction l with
  | nil => simp [fifoNamed]
  | cons j l ih =>
    intro hl hn k
    obtain ⟨hj, hl'⟩ := List.forall_mem_cons.mp hl
    obtain ⟨hnot, hn'⟩ := List.nodup_cons.mp hn
    rw [List.foldl_cons, ih hl' hn']
    by_cases hp : pops.getLsbD (j - 1) = true
    · by_cases hf : f = fifoNo (engOther e j) e
      · obtain ⟨h1, h2⟩ := fifoNamed_cons_self (fifo := fun j => fifoNo (engOther e j) e) hp
          (fun i hi he => (engOther_inj e (hl' i hi) hj).mp (fifoNo_inj.mp he).1) hnot
        subst hf
        simp [h1, h2, hp]
      · simp [fifoNamed, hp, hf, Ne.symm hf]
    · simp [fifoNamed, hp]

/-- Each FIFO into a named engine gains the token posted, and each out of one loses the token popped (R88, R89). -/
theorem Core.retireTokens_occ (k : Core) (e : Eng) (h : Hdr) {j : Nat} (h1 : 1 ≤ j) (h3 : j ≤ 3) :
    (k.retireTokens e h).occ.get (fifoNo e (engOther e j)) 0 =
      k.occ.get (fifoNo e (engOther e j)) 0 + (if h.post.getLsbD (j - 1) then 1 else 0) ∧
    (k.retireTokens e h).occ.get (fifoNo (engOther e j) e) 0 =
      k.occ.get (fifoNo (engOther e j) e) 0 - (if h.pop.getLsbD (j - 1) then 1 else 0) := by
  simp only [Core.retireTokens, Core.addTokens_occ, Core.dropTokens_occ]
  interval_cases j <;> cases e <;> simp [fifoNamed, fifoNo, engOther, engOfIdx, engIdx]

end Sys2Proof.Machine
end

section
/-! SUPPORT. A member's retirement, its tokens moved, is the end of the member in a state that is known whole (06 R89). -/

namespace Sys2Proof.Machine

/-- The engine of a member that retires at once: pushed, unblocked, its flags ORed in. -/
def Engine.retired (x : Engine) (push : Option RingEntry) (flags : FlagSet) : Engine :=
  { x with
    ring := (x.push push).ring
    csr := { x.csr with blocked := false, fflags := x.csr.fflags ||| flags }
    inside := none
    owed := none }

/-- The state in which a member that retires at once ends. -/
def State.posted (s : State) (h : Hdr) (push : Option RingEntry) (flags : FlagSet) : State :=
  s.modCore s.cur.1 (fun k => (k.retireTokens s.cur.2 h).setEng s.cur.2 (s.curEng.retired push flags))

section
variable {s : State} {h : Hdr} {g : Grp} (push : Option RingEntry) (flags : FlagSet)

@[simp] theorem State.posted_eng : (s.posted h push flags).eng s.cur.1 s.cur.2 = s.curEng.retired push flags := by
  simp [State.posted, State.eng]

theorem State.posted_eng_ne {e : Eng} (he : e ≠ s.cur.2) : (s.posted h push flags).eng s.cur.1 e = s.eng s.cur.1 e := by
  simp [State.posted, State.eng, Ne.symm he]

@[simp] theorem State.posted_core : (s.posted h push flags).core s.cur.1 =
    (s.curCore.retireTokens s.cur.2 h).setEng s.cur.2 (s.curEng.retired push flags) := by
  simp [State.posted, State.curCore]

@[simp] theorem State.posted_cur : (s.posted h push flags).cur = s.cur := rfl

@[simp] theorem State.posted_reqOpen : (s.posted h push flags).reqOpen s.cur.1 = s.reqOpen s.cur.1 := by
  simp [State.reqOpen, State.curCore]

@[simp] theorem State.posted_unretired : (s.posted h push flags).unretired s.cur.1 s.cur.2 = s.unretired s.cur.1 s.cur.2 := by
  simp [State.unretired, State.curCore]

theorem State.posted_only : OnlyCore s (s.posted h push flags) s.cur.1 := .modCore ..

end

theorem Core.dropTokens_setEng (k : Core) (e e' : Eng) (g : Engine) (pops : BitVec 3) :
    (k.setEng e' g).dropTokens e pops = (k.dropTokens e pops).setEng e' g := by
  simp only [Core.dropTokens, List.foldl_cons, List.foldl_nil]
  cases e' <;> split <;> split <;> split <;> rfl

theorem Core.retireTokens_def (k : Core) (e : Eng) (h : Hdr) :
    k.retireTokens e h = (k.dropTokens e h.pop).addTokens e h.post := rfl

theorem Core.retireTokens_setEng (k : Core) (e e' : Eng) (g : Engine) (h : Hdr) :
    (k.setEng e' g).retireTokens e h = (k.retireTokens e h).setEng e' g := by
  rw [Core.retireTokens, Core.dropTokens_setEng, Core.retireTokens]
  cases e' <;> rfl

/-- Nothing of the engine is still to be written when its member is in issue. -/
theorem State.Issuing.unlanded {s : State} {h : Hdr} {g : Grp} (hi : s.Issuing h g) : s.curCore.unlanded s.cur.2 = false := by
  simp only [Core.unlanded, Bool.and_eq_false_iff, bne_eq_false_iff_eq, List.any_eq_false]
  by_cases hm : s.cur.2 = .M
  · exact .inl hm
  · exact .inr (fun x hx he => hm (hi.landed x hx (by simpa using he)).1)

/-- R89: with room for its posts and nothing before it, a member releases, posts and ends at once. -/
theorem State.retire_eq {s : State} {h : Hdr} {g : Grp} (hg : s.curEng.grp = some g)
    (hr : s.curCore.room s.cur.2 h.post = true) (hno : s.curCore.unlanded s.cur.2 = false)
    (hb : s.behind s.cur.1 s.cur.2 = false) (hone : s.unretired s.cur.1 s.cur.2 = false ∨ h.pop = 0 ∧ h.post = 0)
    (push : Option RingEntry) (flags : FlagSet) (flow : Flow) :
    s.retire h push flags flow =
      (s.posted h push flags).endMember s.cur.1 s.cur.2 { g with flags := g.flags ||| flags } flow := by
  -- the push and the flags
  let y : Engine := { (s.curEng.push push).unblock with
    csr := { (s.curEng.push push).unblock.csr with fflags := (s.curEng.push push).unblock.csr.fflags ||| flags }, inside := none }
  let t : State := s.modCore s.cur.1 (fun k => k.setEng s.cur.2 y)
  have hfirst : s.modEng s.cur.1 s.cur.2 (fun x =>
      let y := (x.push push).resumed (s.behind s.cur.1 s.cur.2)
      { y with csr := { y.csr with fflags := y.csr.fflags ||| flags }, inside := none }) = t := by
    simp only [hb]; rfl
  have htg : (t.eng s.cur.1 s.cur.2).grp = some g := by
    have : (t.eng s.cur.1 s.cur.2) = y := by simp [t, State.eng]
    rw [this]
    cases push <;> exact hg
  have hbeh : t.behind s.cur.1 s.cur.2 = false := by
    simpa [State.behind, Core.owing, t] using hb
  have hland : (t.core s.cur.1).unlanded s.cur.2 = false := by
    simpa [Core.unlanded, t, State.curCore] using hno
  have hq : (t.unretired s.cur.1 s.cur.2 && (h.pop != 0 || h.post != 0)) = false := by
    rcases hone with h1 | ⟨h1, h2⟩
    · have : t.unretired s.cur.1 s.cur.2 = false := by simpa [State.unretired, t] using h1
      simp [this]
    · simp [h1, h2]
  have hroom : ((t.modCore s.cur.1 (fun k => k.dropTokens s.cur.2 h.pop)).core s.cur.1).room s.cur.2 h.post = true := by
    simp only [t, State.modCore_modCore, State.core_modCore, if_true, room_dropTokens, room_setEng]
    exact hr
  have hlast : ((t.modCore s.cur.1 (fun k => k.dropTokens s.cur.2 h.pop)).modCore s.cur.1
      (fun k => k.addTokens s.cur.2 h.post)).modEng s.cur.1 s.cur.2 (fun x => { x.unblock with owed := none }) =
      s.posted h push flags := by
    have hy : ({ y.unblock with owed := none } : Engine) = s.curEng.retired push flags := by
      cases push <;> rfl
    simp only [t, State.modEng_eq_modCore, State.modCore_modCore]
    simp only [State.posted, ← Core.retireTokens_def, Core.retireTokens_setEng, Core.eng_setEng, if_true, Core.setEng_setEng, hy]
  unfold State.retire
  simp only [hfirst, htg, State.postAndEnd, hland, hbeh, hq, State.postNow, hroom, if_true, hlast]
  rfl

theorem State.Issuing.retire_eq {s : State} {h : Hdr} {g : Grp} (hi : s.Issuing h g) (push : Option RingEntry)
    (flags : FlagSet) (flow : Flow) :
    s.retire h push flags flow =
      (s.posted h push flags).endMember s.cur.1 s.cur.2 { g with flags := g.flags ||| flags } flow :=
  State.retire_eq hi.grp hi.room hi.unlanded hi.front hi.alone push flags flow

end Sys2Proof.Machine
end

section
/-! SUPPORT. The end of a group that retires at once (01 R16, R17, 04 R70): the state in which control is passed on. -/

namespace Sys2Proof.Machine

theorem Flow.join_of_ne {f : Flow} (hf : f ≠ .eret) (x : Flow) : f.join x = x := by
  cases f <;> first | rfl | exact absurd rfl hf

/-- The engine whose group has just retired. -/
def Engine.ended (x : Engine) (push : Option RingEntry) (flags : FlagSet) : Engine :=
  { x.retired push flags with grp := none }

@[simp] theorem Engine.ended_pc (x : Engine) (push : Option RingEntry) (flags : FlagSet) :
    (x.ended push flags).pc = x.pc := rfl
@[simp] theorem Engine.ended_sect (x : Engine) (push : Option RingEntry) (flags : FlagSet) :
    (x.ended push flags).sect = x.sect := rfl
@[simp] theorem Engine.ended_phase (x : Engine) (push : Option RingEntry) (flags : FlagSet) :
    (x.ended push flags).phase = x.phase := rfl
@[simp] theorem Engine.ended_target (x : Engine) (push : Option RingEntry) (flags : FlagSet) :
    (x.ended push flags).target = x.target := rfl
@[simp] theorem Engine.ended_istore (x : Engine) (push : Option RingEntry) (flags : FlagSet) :
    (x.ended push flags).istore = x.istore := rfl
@[simp] theorem Engine.ended_regs (x : Engine) (push : Option RingEntry) (flags : FlagSet) :
    (x.ended push flags).regs = x.regs := rfl
@[simp] theorem Engine.ended_loops (x : Engine) (push : Option RingEntry) (flags : FlagSet) :
    (x.ended push flags).loops = x.loops := rfl
@[simp] theorem Engine.ended_order (x : Engine) (push : Option RingEntry) (flags : FlagSet) :
    (x.ended push flags).order = x.order := rfl
@[simp] theorem Engine.ended_stack (x : Engine) (push : Option RingEntry) (flags : FlagSet) :
    (x.ended push flags).stack = x.stack := rfl
@[simp] theorem Engine.ended_hwm (x : Engine) (push : Option RingEntry) (flags : FlagSet) :
    (x.ended push flags).hwm = x.hwm := rfl
@[simp] theorem Engine.ended_sup (x : Engine) (push : Option RingEntry) (flags : FlagSet) :
    (x.ended push flags).sup = x.sup := rfl
@[simp] theorem Engine.ended_resume (x : Engine) (push : Option RingEntry) (flags : FlagSet) :
    (x.ended push flags).resume = x.resume := rfl
@[simp] theorem Engine.ended_regrp (x : Engine) (push : Option RingEntry) (flags : FlagSet) :
    (x.ended push flags).regrp = x.regrp := rfl
@[simp] theorem Engine.ended_stopped (x : Engine) (push : Option RingEntry) (flags : FlagSet) :
    (x.ended push flags).stopped = x.stopped := rfl
@[simp] theorem Engine.ended_retiring (x : Engine) (push : Option RingEntry) (flags : FlagSet) :
    (x.ended push flags).retiring = x.retiring := rfl
@[simp] theorem Engine.ended_grp (x : Engine) (push : Option RingEntry) (flags : FlagSet) :
    (x.ended push flags).grp = none := rfl

theorem State.curEng_of_cur {s t : State} (h : t.cur = s.cur) : t.curEng = t.eng s.cur.1 s.cur.2 := by
  rw [State.curEng, h]

theorem State.curCore_of_cur {s t : State} (h : t.cur = s.cur) : t.curCore = t.core s.cur.1 := by
  rw [State.curCore, h]

/-- The state in which the group of a member that retires at once passes control on. -/
def State.ended (s : State) (h : Hdr) (push : Option RingEntry) (flags : FlagSet) : State :=
  s.modCore s.cur.1 (fun k => (k.retireTokens s.cur.2 h).setEng s.cur.2 (s.curEng.ended push flags))

section
variable {s : State} {h : Hdr} {g : Grp} (push : Option RingEntry) (flags : FlagSet)

@[simp] theorem State.ended_eng : (s.ended h push flags).eng s.cur.1 s.cur.2 = s.curEng.ended push flags := by
  simp [State.ended, State.eng]

@[simp] theorem State.ended_core : (s.ended h push flags).core s.cur.1 =
    (s.curCore.retireTokens s.cur.2 h).setEng s.cur.2 (s.curEng.ended push flags) := by
  simp [State.ended, State.curCore]

@[simp] theorem State.ended_cur : (s.ended h push flags).cur = s.cur := rfl

@[simp] theorem State.ended_reqOpen : (s.ended h push flags).reqOpen s.cur.1 = s.reqOpen s.cur.1 := by
  simp [State.reqOpen, State.curCore]

@[simp] theorem State.ended_unretired : (s.ended h push flags).unretired s.cur.1 s.cur.2 = s.unretired s.cur.1 s.cur.2 := by
  simp [State.unretired, State.curCore]

@[simp] theorem State.ended_inSup : (s.ended h push flags).inSup s.cur.1 s.cur.2 = s.curEng.sup.isSome := by
  simp only [State.inSup, State.ended_eng]
  rfl

theorem State.ended_only : OnlyCore s (s.ended h push flags) s.cur.1 := .modCore ..

/-- A member that is not the last of its group hands the issue to the next one. -/
theorem State.Issuing.retire_inner (hi : s.Issuing h g) (hl : g.idx + 1 < g.size) (flow : Flow) :
    s.retire h push flags flow = (s.posted h push flags).modEng s.cur.1 s.cur.2 (fun x =>
      { x with grp := some { g with idx := g.idx + 1, flags := g.flags ||| flags, flow := flow } }) := by
  rw [hi.retire_eq, State.endMember]
  simp [Flow.join_of_ne hi.flow, hl]

/-- The last member of a group that owes nothing passes control on. -/
theorem State.Issuing.retire_last (hi : s.Issuing h g) (hl : g.idx + 1 = g.size) (flow : Flow) :
    s.retire h push flags flow = (s.ended h push flags).follow s.cur.1 s.cur.2
      (s.curEng.sect.wordOf (g.pcOf g.size) - 1) flow := by
  have hended : (s.posted h push flags).modEng s.cur.1 s.cur.2 (fun x => { x with grp := none }) = s.ended h push flags := by
    simp [State.posted, State.modEng_eq_modCore, State.ended, Engine.ended]
  rw [hi.retire_eq, State.endMember]
  simp only [Flow.join_of_ne hi.flow, hl, Nat.lt_irrefl, if_false, hended, hi.owes, State.posted_eng]
  rfl

end

-- control within a section and past its end

theorem State.toWord_inside {s : State} {c : Nat} {e : Eng} {w : Nat} (h : w < (s.eng c e).sect.len) :
    s.toWord c e w = s.modEng c e (fun g => { g with pc := g.sect.pcOf w }) := by
  simp [State.toWord, Nat.not_le.mpr h]

theorem State.toWord_past {s : State} {c : Nat} {e : Eng} {w : Nat} (h : (s.eng c e).sect.len ≤ w) :
    s.toWord c e w = s.leaveSect c e := by
  simp [State.toWord, h]

/-- R16, R17: outside supervisor state the engine stands before the next section. -/
theorem State.leaveSect_next {s : State} {c : Nat} {e : Eng} (hs : (s.eng c e).sup = none) :
    s.leaveSect c e = s.setEng c e
      { (s.eng c e).retireSect (s.unretired c e) (s.eng c e).sect.num with
        sect := { num := (s.eng c e).sect.num + 1, hdr := (s.eng c e).sect.hdr + 8 + 12 * (s.eng c e).sect.len, len := 0,
                  base := BitVec.ofNat 16 ((s.eng c e).sect.hdr + 8 + 12 * (s.eng c e).sect.len + 8) }
        phase := .entering
        target := 0
        pc := BitVec.ofNat 16 ((s.eng c e).sect.hdr + 8 + 12 * (s.eng c e).sect.len + 8)
        regrp := none } := by
  simp [State.leaveSect, hs]

/-- Outside supervisor state the loop unit decides where control falls (R70). -/
theorem State.follow_next {s : State} {c : Nat} {e : Eng} (hs : (s.eng c e).sup = none) (last : Nat)
    {g : Engine} (hb : Engine.loopBack (s.reqOpen c) 5 (s.eng c e) last = (g, none)) :
    s.follow c e last .next = (s.setEng c e g).toWord c e (last + 1) := by
  simp [State.follow, State.inSup, hs, hb]

theorem State.follow_next_loop {s : State} {c : Nat} {e : Eng} (hs : (s.eng c e).sup = none) (last : Nat)
    {g : Engine} {w : Nat} {p : Bool} (hb : Engine.loopBack (s.reqOpen c) 5 (s.eng c e) last = (g, some (w, p))) :
    s.follow c e last .next = (if p then ((s.setEng c e g).toWord c e w).park c e else (s.setEng c e g).toWord c e w) := by
  simp [State.follow, State.inSup, hs, hb]

theorem Engine.loopBack_none {g : Engine} {w : Nat} (req : Bool) (n : Nat) (h : g.activeAt w = none) :
    Engine.loopBack req n g w = (g, none) := by
  cases n <;> simp [Engine.loopBack, h]

/-- R70: a LOOP level goes round, or ends and lets the levels outside it decide. -/
theorem Engine.loopBack_loop {g : Engine} {w l : Nat} {v : LoopLvl} (req : Bool) (n : Nat) (h : g.activeAt w = some (l, v))
    (hv : v.staged = false) : Engine.loopBack req (n + 1) g w =
      if v.lc + 1 < v.total then ({ g with loops := g.loops.put l { v with lc := v.lc + 1 } }, some (v.start, true))
      else Engine.loopBack req n { g with loops := g.loops.del l } w := by
  simp [Engine.loopBack, h, hv]

/-- R70 with one active level, a LOOP level whose end word this is. -/
theorem Engine.loopBack_only {g : Engine} {w l : Nat} {v : LoopLvl} (req : Bool) (hl : g.loops = [(l, v)])
    (hv : v.staged = false) (hs : v.sect = g.sect.num) (hw : v.stop = w) : Engine.loopBack req 5 g w =
      if v.lc + 1 < v.total then ({ g with loops := [(l, { v with lc := v.lc + 1 })] }, some (v.start, true))
      else ({ g with loops := [] }, none) := by
  have hat : g.activeAt w = some (l, v) := by simp [Engine.activeAt, hl, hs, hw]
  have hdel : g.loops.del l = [] := by simp [hl, Store.del]
  have hput : g.loops.put l { v with lc := v.lc + 1 } = [(l, { v with lc := v.lc + 1 })] := by simp [hl, Store.put]
  rw [Engine.loopBack_loop req 4 hat hv, hdel, hput, Engine.loopBack_none _ _ (by simp [Engine.activeAt])]

@[simp] theorem State.reqOpen_setEng (s : State) (c : Nat) (e : Eng) (g : Engine) (c' : Nat) :
    (s.setEng c e g).reqOpen c' = s.reqOpen c' := by
  by_cases h : c = c'
  · subst h; simp [State.reqOpen, State.setEng]
  · simp [State.reqOpen, State.setEng, h]

@[simp] theorem State.reqOpen_modEng (s : State) (c : Nat) (e : Eng) (f : Engine → Engine) (c' : Nat) :
    (s.modEng c e f).reqOpen c' = s.reqOpen c' := s.reqOpen_setEng ..

theorem State.park_closed {s : State} {c : Nat} (e : Eng) (h : s.reqOpen c = false) : s.park c e = s := by
  simp [State.park, h]

end Sys2Proof.Machine
end

section
/-! Settled: what retirement does to tokens, the group, the PC, the section and the loop. -/

namespace Sys2Proof.Machine

section
variable {s : State} {h : Hdr} {g : Grp}

/-- R88, R89 of a member that is not the last of its group. -/
theorem State.Issuing.retire_inner_spec (hi : s.Issuing h g) (hl : g.idx + 1 < g.size) (push : Option RingEntry)
    (flags : FlagSet) (t : State) (ht : t = s.retire h push flags .next) :
    t.curEng = { s.curEng.retired push flags with
      grp := some { g with idx := g.idx + 1, flags := g.flags ||| flags, flow := .next } } ∧
    t.curCore.occ = (s.curCore.retireTokens s.cur.2 h).occ := by
  rw [hi.retire_inner push flags hl] at ht
  have hcur : t.cur = s.cur := by rw [ht]; rfl
  rw [State.curEng_of_cur hcur, State.curCore_of_cur hcur, ht]
  exact ⟨by simp, by simp [State.modEng_eq_modCore]⟩

/-- The last member of a group without an active level: the next word, or the next section. -/
theorem State.Issuing.retire_last_spec (hi : s.Issuing h g) (hl : g.idx + 1 = g.size) (hsup : s.curEng.sup = none)
    (hloops : s.curEng.loops = []) (hf : s.curCore.flight = []) (push : Option RingEntry) (flags : FlagSet) (t : State)
    (ht : t = s.retire h push flags .next) (w : Nat) (hw : w = s.curEng.sect.wordOf (g.pcOf g.size) - 1) :
    t.curEng.grp = none ∧
    (w + 1 < s.curEng.sect.len → t.curEng.pc = s.curEng.sect.pcOf (w + 1) ∧ t.curEng.sect = s.curEng.sect ∧
      t.curEng.phase = s.curEng.phase) ∧
    (s.curEng.sect.len ≤ w + 1 → t.curEng.phase = .entering ∧ t.curEng.sect.num = s.curEng.sect.num + 1 ∧
      t.curEng.sect.hdr = s.curEng.sect.hdr + 8 + 12 * s.curEng.sect.len ∧
      t.curEng.hwm = BitVec.ofNat 16 s.curEng.sect.num) := by
  have hback : Engine.loopBack ((s.ended h push flags).reqOpen s.cur.1) 5 ((s.ended h push flags).eng s.cur.1 s.cur.2) w =
      (s.curEng.ended push flags, none) := by
    rw [State.ended_eng]
    exact Engine.loopBack_none _ _ (by simp [Engine.activeAt, hloops])
  have hstep : t = ((s.ended h push flags).setEng s.cur.1 s.cur.2 (s.curEng.ended push flags)).toWord s.cur.1 s.cur.2 (w + 1) := by
    rw [ht, hi.retire_last push flags hl, ← hw]
    exact State.follow_next (by simpa using hsup) w hback
  have hlate : ((s.ended h push flags).setEng s.cur.1 s.cur.2 (s.curEng.ended push flags)).unretired s.cur.1 s.cur.2 = false := by
    simp [State.unretired, State.setEng, hf]
  rcases Nat.lt_or_ge (w + 1) s.curEng.sect.len with hin | hout
  · rw [State.toWord_inside (by simpa using hin)] at hstep
    rw [State.curEng_of_cur (t := t) (s := s) (by rw [hstep]; rfl), hstep]
    simp [Nat.not_le.mpr hin]
  · rw [State.toWord_past (by simpa using hout), State.leaveSect_next (by simpa using hsup)] at hstep
    rw [State.curEng_of_cur (t := t) (s := s) (by rw [hstep]; rfl), hstep]
    simp [Nat.not_lt.mpr hout, hlate, Engine.retireSect]

/-- The last member of a group at the end word of the one active LOOP level (R70). -/
theorem State.Issuing.retire_loop_spec (hi : s.Issuing h g) (hl : g.idx + 1 = g.size) (hsup : s.curEng.sup = none)
    (hreq : s.reqOpen s.cur.1 = false) {w l : Nat} {v : LoopLvl} (hw : w = s.curEng.sect.wordOf (g.pcOf g.size) - 1)
    (hloops : s.curEng.loops = [(l, v)]) (hst : v.staged = false) (hsect : v.sect = s.curEng.sect.num) (hstop : v.stop = w)
    (hstart : v.start < s.curEng.sect.len) (hnext : w + 1 < s.curEng.sect.len) (t : State)
    (ht : t = s.retire h none 0 .next) :
    (v.lc + 1 < v.total → t.curEng.loops = [(l, { v with lc := v.lc + 1 })] ∧ t.curEng.pc = s.curEng.sect.pcOf v.start) ∧
    (v.total ≤ v.lc + 1 → t.curEng.loops = [] ∧ t.curEng.pc = s.curEng.sect.pcOf (w + 1)) := by
  have hsup' : ((s.ended h none 0).eng s.cur.1 s.cur.2).sup = none := by simpa using hsup
  have hreq' : (s.ended h none 0).reqOpen s.cur.1 = false := by simpa using hreq
  have hlast : t = (s.ended h none 0).follow s.cur.1 s.cur.2 w .next := by
    rw [ht, hi.retire_last none 0 hl, ← hw]
  have hcur : t.cur = s.cur := by
    rw [ht]; exact (retire_next hi none 0).1.pkg.cur
  have hback := Engine.loopBack_only (g := s.curEng.ended none 0) false hloops hst hsect hstop
  rw [State.curEng_of_cur hcur]
  rcases Nat.lt_or_ge (v.lc + 1) v.total with hin | hout
  · rw [if_pos hin] at hback
    rw [State.follow_next_loop hsup' w (by rw [hreq', State.ended_eng]; exact hback), if_pos rfl,
      State.toWord_inside (by simpa using hstart), State.park_closed _ (by simpa using hreq)] at hlast
    rw [hlast]
    simp [Nat.not_le.mpr hin]
  · rw [if_neg (Nat.not_lt.mpr hout)] at hback
    rw [State.follow_next hsup' w (by rw [hreq', State.ended_eng]; exact hback),
      State.toWord_inside (by simpa using hnext)] at hlast
    rw [hlast]
    simp [Nat.not_lt.mpr hout]

end

/-- Settles O6, by the three ends of a member: an inner one, the last one, and the last one of a loop's body. -/
theorem retirementAdvances : Obligations.RetirementAdvances := by
  refine ⟨?_, ?_, ?_⟩
  · intro s h g push flags hi hl t ht
    obtain ⟨heng, hocc⟩ := hi.retire_inner_spec hl push flags t ht
    refine ⟨by rw [heng], by rw [heng]; rfl, by rw [heng]; rfl, by rw [heng]; rfl, by rw [heng]; rfl, ?_, ?_, ?_⟩
    · rintro v rfl
      rw [heng]; rfl
    · rintro rfl
      rw [heng]; rfl
    · intro j h1 h3
      rw [hocc]
      exact Core.retireTokens_occ _ _ _ h1 h3
  · intro s h g push flags w hi hl hsup hloops hf hw t ht
    exact hi.retire_last_spec hl hsup hloops hf push flags t ht w hw
  · intro s h g l v w hi hl hsup hreq hw hloops hst hsect hstop hstart hnext t ht
    exact hi.retire_loop_spec hl hsup hreq hw hloops hst hsect hstop hstart hnext t ht

end Sys2Proof.Machine
end

section
/-! SUPPORT. Control words in issue: a word without a result under a true guard comes to its effect (04 R59). -/

namespace Sys2Proof.Machine

/-- A word without a result that is in issue, with a true guard, comes to its effect. -/
theorem performWord_plain {i : Instr} {eff : Grp → State → Eff} {s : State} {g : Grp} {h : Hdr} (hg : s.curEng.grp = some g)
    (ht : s.guardTrue h = true) (hi : hdrD i = h) :
    performWord i (fun g => plainEff h (eff g)) s = .next (State.settle h (eff g s)) := by
  rw [performWord_member hg, hi]
  simp [plainEff, ht]

/-- The same when the effect is a flow alone. -/
theorem performWord_plain_went {i : Instr} {eff : Grp → State → Eff} {s t : State} {g : Grp} {h : Hdr} {f : Flow}
    (hg : s.curEng.grp = some g) (ht : s.guardTrue h = true) (hi : hdrD i = h) (he : eff g s = .done t none 0 f) :
    performWord i (fun g => plainEff h (eff g)) s = .next (t.went h f) := by
  rw [performWord_plain hg ht hi, he]
  rfl

-- BRC and BRP

theorem brcTakes_iff {s : State} {a b : SSrc} (hc : s.cleanSrc [a, b]) (c : Cond) :
    brcTakes c (s.srd a) (s.srd b) = true ↔ condSpec c (s.val a) (s.val b) := by
  have ha : (s.srd a).poison = false := hc a (by simp)
  have hb : (s.srd b).poison = false := hc b (by simp)
  simp [brcTakes, ha, hb, ← condHolds_iff, State.val]

/-- The active bits of a predicate, as the guard selects them. -/
theorem guardBits_getLsbD (g : PBits) (neg : Bool) (k : Nat) (hk : k < 1024) :
    (if neg then ~~~g else g).getLsbD k = (g.getLsbD k != neg) := by
  cases neg with
  | false => simp
  | true =>
    rw [if_pos rfl, BitVec.getLsbD_not, decide_eq_true hk]
    cases g.getLsbD k <;> rfl

/-- R67: BRP by its active bits. -/
theorem brpTaken_iff (all : Bool) (n : Fin 16) (p g : PBits) (neg : Bool) :
    brpTaken all n p g neg = true ↔ n = 0 ∨
      (all = false ∧ ∃ k, k < 1024 ∧ (g.getLsbD k != neg) = true ∧ p.getLsbD k = true) ∨
      (all = true ∧ ∀ k, k < 1024 → (g.getLsbD k != neg) = true → p.getLsbD k = true) := by
  have hn : (n.val == 0) = true ↔ n = 0 := by rw [beq_iff_eq, Fin.ext_iff]; rfl
  have hand : ∀ k, k < 1024 →
      (p &&& (if neg then ~~~g else g)).getLsbD k = (p.getLsbD k && (g.getLsbD k != neg)) := by
    intro k hk
    rw [BitVec.getLsbD_and, guardBits_getLsbD g neg k hk]
  unfold brpTaken
  simp only [Bool.or_eq_true, hn]
  refine or_congr Iff.rfl ?_
  cases all with
  | false =>
    simp only [Bool.false_eq_true, if_false, bne_iff_ne, true_and, false_and, or_false]
    rw [ne_eq, ← not_forall_not, not_iff_not]
    constructor
    · rintro h k ⟨hk, ha, hp⟩
      have := hand k hk
      rw [h] at this
      simp [hp, ha] at this
    · intro h
      refine BitVec.eq_of_getLsbD_eq fun k hk => ?_
      rw [hand k hk]
      cases ha : (g.getLsbD k != neg) with
      | false => simp
      | true =>
        cases hp : p.getLsbD k with
        | false => simp
        | true => exact absurd ⟨hk, by simpa using ha, hp⟩ (h k)
  | true =>
    simp only [if_true, beq_iff_eq, true_and, Bool.true_eq_false, false_and, false_or]
    constructor
    · intro h k hk ha
      have := hand k hk
      rw [h, guardBits_getLsbD g neg k hk, ha] at this
      simpa using this.symm
    · intro h
      refine BitVec.eq_of_getLsbD_eq fun k hk => ?_
      rw [hand k hk, guardBits_getLsbD g neg k hk]
      cases ha : (g.getLsbD k != neg) with
      | false => simp
      | true => simp [h k hk ha]

theorem execBrp_went {s : State} {g : Grp} (hg : s.curEng.grp = some g) (h : Hdr) (all : Bool) (p : Fin 16) (t : Target) :
    exec (.brp h all p t) s = .next (s.went h
      (if brpTaken all p (s.prd p) (s.seenCore.pred h.g.toNat) h.gn then s.gotoFlow false t else .next)) := by
  change execBrp h all p t s = _
  rw [execBrp, performWord_member hg]
  rfl

-- loops

/-- A level that LOOP or LOOPS activates (R69). -/
theorem loopEff_activates {s : State} {g : Grp} {staged : Bool} {l m : Nat} {a : SSrc} {stop : BitVec 16}
    (hn : loopTotal staged (s.val a).toNat m ≠ 0) {v : LoopLvl}
    (hv : v = { staged := staged, sect := s.curEng.sect.num, order := s.curEng.order + 1,
                total := loopTotal staged (s.val a).toNat m, lc := 0, n := (s.val a).toNat, m := m, base := 0,
                cut := (s.val a).toNat, start := s.curEng.sect.wordOf (g.pcOf (g.idx + 1)), stop := stop.toNat }) :
    loopEff staged l m a stop g s =
      .done (s.modCur (fun x => { x with loops := x.loops.put l v, order := x.order + 1 })) none 0 .next := by
  have hn' : loopTotal staged (s.srd a).val.toNat m ≠ 0 := hn
  simp only [loopEff, hv, beq_iff_eq, hn', if_false]
  rfl

theorem loopEff_passes {s : State} {g : Grp} {staged : Bool} {l m : Nat} {a : SSrc} {stop : BitVec 16}
    (hn : loopTotal staged (s.val a).toNat m = 0) :
    loopEff staged l m a stop g s = .done s none 0 (.past (stop.toNat + 1)) := by
  have hn' : loopTotal staged (s.srd a).val.toNat m = 0 := hn
  simp [loopEff, hn']

/-- R71 as R319 extends it, with nothing refilled. -/
theorem Engine.stage_iff {g : Engine} {l k : Nat} {v : LoopLvl} (hl : g.loops = [(l, v)]) (hs : v.staged = true)
    (hb : v.base = 0) (hc : v.cut = v.n) :
    g.stage k = true ↔ k < v.m ∧ 0 ≤ (v.lc : Int) - k ∧ (v.lc : Int) - k < v.n := by
  have hp : g.pipeline = some v := by simp [Engine.pipeline, hl, hs]
  simp only [Engine.stage, hp, hb, hc, Bool.and_eq_true, decide_eq_true_eq]
  omega

end Sys2Proof.Machine
end

section
/-! Settled: the transfers and the loop words. -/

namespace Sys2Proof.Machine

/-- Settles O15: each transfer word is its flow, and BRP is decided bit by bit. -/
theorem transferWords : Obligations.TransferWords := by
  intro s h g cd all a b p t hg n hn
  have hgoto : ∀ keep, s.gotoFlow keep t = .goto keep n t.word.toNat := fun keep => by rw [hn]; rfl
  refine ⟨fun ht => ⟨?_, ?_, ?_, ?_, ?_⟩, fun act hact => ⟨?_, ?_⟩⟩
  · rw [← hgoto]
    exact performWord_plain_went hg ht rfl rfl
  · intro hc hcond
    refine performWord_plain_went hg ht rfl ?_
    simp only [(brcTakes_iff hc cd).mpr hcond, if_true, hgoto]
  · intro hc hcond
    refine performWord_plain_went hg ht rfl ?_
    simp only [Bool.eq_false_iff.mpr (mt (brcTakes_iff hc cd).mp hcond), Bool.false_eq_true, if_false]
  · rw [← hgoto]
    exact performWord_plain_went hg ht rfl rfl
  · intro pc rest hst
    refine performWord_plain_went hg ht rfl ?_
    simp [retEff, hst]
  · intro hp
    simp only [hact] at hp
    rw [execBrp_went hg, if_pos ((brpTaken_iff ..).mpr hp), hgoto]
  · intro h0 hany hall
    simp only [hact] at hany hall
    rw [execBrp_went hg, if_neg]
    rw [brpTaken_iff]
    rintro (hz | ⟨ha, k, hk, hact, hp⟩ | ⟨ha, hk⟩)
    · exact h0 hz
    · exact absurd (hany ha k hk hact) (by simp [hp])
    · obtain ⟨k, hk', hact, hp⟩ := hall ha
      exact absurd (hk k hk' hact) (by simp [hp])

/-- Settles O17, from the effect of the loop words and the definition of the stage predicates. -/
theorem Settled.loopWords : Obligations.LoopWords := by
  refine ⟨?_, ?_⟩
  · intro s h g l a m1 stop hg ht n hn
    refine ⟨fun h0 => ⟨?_, ?_⟩, fun h0 act hact => ⟨?_, ?_⟩, fun v hv => ?_⟩
    · exact performWord_plain_went hg ht rfl (loopEff_passes (by simp [loopTotal, ← hn, h0]))
    · exact performWord_plain_went hg ht rfl (loopEff_passes (by simp [loopTotal, ← hn, h0]))
    · refine performWord_plain_went hg ht rfl (loopEff_activates (by simpa [loopTotal, ← hn] using h0) ?_)
      simp [hact, loopTotal, ← hn]
    · refine performWord_plain_went hg ht rfl (loopEff_activates (by simp [loopTotal, ← hn, h0]) ?_)
      simp [hact, loopTotal, ← hn, h0]
    · refine performWord_plain_went hg ht rfl ?_
      simp [brklEff, hv, Engine.cutLoops]
  · intro g l k v hl hs hb hc
    exact ⟨Engine.stage_iff hl hs hb hc, fun g' hg' => by simp [Engine.stage, Engine.pipeline, hg']⟩

end Sys2Proof.Machine
end

section
/-! SUPPORT. Where a stream stops (04 R73, R74): the section of the word retires with it. -/

namespace Sys2Proof.Machine

@[simp] theorem State.info_modCore (s : State) (c : Nat) (f : Core → Core) (n : Nat) : (s.modCore c f).info n = s.info n := rfl

@[simp] theorem State.ended_soundSleep (s : State) (h : Hdr) (push : Option RingEntry) (flags : FlagSet) :
    (s.ended h push flags).soundSleep s.cur.1 = s.soundSleep s.cur.1 := by
  have hi : ∀ n, (s.ended h push flags).info n = s.info n := fun _ => rfl
  simp [State.soundSleep, State.curCore, hi]

@[simp] theorem State.eng_modTask (s : State) (c : Nat) (f : RunTask → RunTask) (c' : Nat) (e : Eng) :
    (s.modTask c f).eng c' e = s.eng c' e := by
  by_cases hc : c = c'
  · subst hc; cases e <;> simp [State.modTask, State.eng, Core.eng]
  · simp [State.modTask, State.eng, hc]

/-- The section of the group that has just retired retires too (R16). -/
def State.left (s : State) (h : Hdr) : State := (s.ended h none 0).leaveSect s.cur.1 s.cur.2

section
variable {s : State} {h : Hdr}

/-- The engine that has left its section (R16). -/
theorem State.left_spec (hsup : s.curEng.sup = none) (hf : s.curCore.flight = []) :
    OnlyCore s (s.left h) s.cur.1 ∧ (s.left h).cur = s.cur ∧
    ∃ y : Engine, (s.left h).eng s.cur.1 s.cur.2 = y ∧ y.grp = none ∧ y.phase = .entering ∧
      y.sect.num = s.curEng.sect.num + 1 ∧ y.hwm = BitVec.ofNat 16 s.curEng.sect.num ∧ y.stopped = s.curEng.stopped := by
  have hlate : s.unretired s.cur.1 s.cur.2 = false := by simp [State.unretired, show (s.core s.cur.1).flight = [] from hf]
  have hl := State.leaveSect_next (s := s.ended h none 0) (c := s.cur.1) (e := s.cur.2) (by simpa using hsup)
  rw [State.left, hl]
  exact ⟨(State.ended_only ..).trans (.setCore ..), rfl, _, rfl, by simp [hlate, Engine.retireSect]⟩

/-- R73: the engine stops with its section retired; a SLEEP without a sound watch does not stop. -/
theorem State.ended_stopAt (h : Hdr) (why : Flow) (hsup : s.curEng.sup = none) (hf : s.curCore.flight = [])
    (hst : s.curEng.stopped = none) :
    s.StoppedAs ((s.ended h none 0).stopAt s.cur.1 s.cur.2 why)
      (if why = .sleep ∧ s.soundSleep s.cur.1 = false then none else some why) := by
  obtain ⟨hpkg, hcur, y, hy, hgrp, hphase, hsect, hhwm, hstop⟩ := State.left_spec (h := h) hsup hf
  -- a change of the engine that keeps what `StoppedAs` speaks of
  have hmod : ∀ (t : State) (f : Option Flow) (F : Engine → Engine), s.StoppedAs t f → t.cur = s.cur →
      (∀ g, (F g).grp = g.grp ∧ (F g).stopped = g.stopped ∧ (F g).phase = g.phase ∧ (F g).sect = g.sect ∧ (F g).hwm = g.hwm) →
      s.StoppedAs (t.modEng s.cur.1 s.cur.2 F) f := by
    intro t f F ⟨h1, h2, h3, h4, h5, h6⟩ hc hF
    rw [State.curEng_of_cur hc] at h2 h3 h4 h5 h6
    have he : (t.modEng s.cur.1 s.cur.2 F).curEng = F (t.eng s.cur.1 s.cur.2) := by
      rw [State.curEng_of_cur (s := s) (by simpa using hc)]; simp
    obtain ⟨f1, f2, f3, f4, f5⟩ := hF (t.eng s.cur.1 s.cur.2)
    exact ⟨h1.trans (.setCore ..), by rw [he, f1, h2], by rw [he, f2, h3], by rw [he, f3, h4], by rw [he, f4, h5],
      by rw [he, f5, h6]⟩
  have hbase : s.StoppedAs (s.left h) none := by
    refine ⟨hpkg, ?_, ?_, ?_, ?_, ?_⟩ <;> rw [State.curEng_of_cur hcur, hy] <;> simp [*]
  have hwhy : s.StoppedAs ((s.left h).modEng s.cur.1 s.cur.2 (fun x => { x with stopped := some why })) (some why) := by
    refine ⟨hpkg.trans (.setCore ..), ?_, ?_, ?_, ?_, ?_⟩ <;>
      rw [State.curEng_of_cur (s := s) (by simpa using hcur)] <;> simp [*]
  have hle : (s.ended h none 0).leaveSect s.cur.1 s.cur.2 = s.left h := rfl
  have hcur' : ((s.left h).modEng s.cur.1 s.cur.2 (fun x => { x with stopped := some why })).cur = s.cur := by simpa using hcur
  by_cases hw : why = .sleep
  · subst hw
    cases hs : s.soundSleep s.cur.1 with
    | false => simpa [State.stopAt, hs, State.left] using hbase
    | true =>
      simp only [State.stopAt, State.ended_soundSleep, hs, hle, Bool.not_true, Bool.and_false, Bool.false_eq_true, if_false,
        Bool.true_eq_false, and_false]
      split
      · exact hmod _ _ _ (hmod _ _ _ hwhy hcur' (fun _ => ⟨rfl, rfl, rfl, rfl, rfl⟩)) (by simpa using hcur)
          (fun _ => ⟨rfl, rfl, rfl, rfl, rfl⟩)
      · exact hwhy
  · have hb : (why == .sleep) = false := by simpa using hw
    simpa [State.stopAt, hb, hw, State.left] using hwhy

end

/-- The words that stop their engine, as the last of their group (R73). -/
theorem State.Issuing.went_stops {s : State} {h : Hdr} {g : Grp} (hi : s.Issuing h g) (hl : g.idx + 1 = g.size)
    (hsup : s.curEng.sup = none) (hf : s.curCore.flight = []) (hst : s.curEng.stopped = none) {why : Flow}
    (hw : (∃ p, why = .suspend p) ∨ why = .yield ∨ why = .sleep) :
    s.StoppedAs (s.went h why) (if why = .sleep ∧ s.soundSleep s.cur.1 = false then none else some why) := by
  rw [State.went, hi.retire_last none 0 hl]
  rcases hw with ⟨p, rfl⟩ | rfl | rfl
  · exact State.ended_stopAt h (.suspend p) hsup hf hst
  · exact State.ended_stopAt h .yield hsup hf hst
  · exact State.ended_stopAt h .sleep hsup hf hst

/-- R74: HALT marks the task; outside supervisor state nothing else of the package changes. -/
theorem State.Issuing.went_halt {s : State} {h : Hdr} {g : Grp} (hi : s.Issuing h g) (hl : g.idx + 1 = g.size)
    (hsup : s.curEng.sup = none) {k : RunTask} (hk : s.curCore.task = some k) :
    OnlyCore s (s.went h .halt) s.cur.1 ∧ (s.went h .halt).curEng.grp = none ∧
    (s.went h .halt).curCore.task = some { k with halting := true } := by
  have hend : s.went h .halt = ((s.ended h none 0).modEng s.cur.1 s.cur.2 (fun g =>
      if g.sup.isSome then { g.leaveSup with regrp := none } else g)).modTask s.cur.1 (fun t => { t with halting := true }) := by
    rw [State.went, hi.retire_last none 0 hl]; rfl
  have hcur : (s.went h .halt).cur = s.cur := by rw [hend]; rfl
  rw [State.curEng_of_cur hcur, State.curCore_of_cur hcur, hend]
  refine ⟨((State.ended_only ..).trans (.setCore ..)).trans (.setCore ..), ?_, ?_⟩
  · simp [hsup]
  · simp [State.modTask, State.modEng_eq_modCore, hk]

-- SUSPEND on an object (10 R176)

theorem suspendEff_none {s : State} (hb : bitsOf (s.seenEng.reg 2).val 0 16 = 0) :
    suspendEff s = .done s none 0 (.suspend none) := by
  simp [suspendEff, hb]

theorem suspendEff_object {s t u : State} {ps : List (List Place)} {w : Word} (hw : w = (s.seenEng.reg 2).val)
    (hb : bitsOf w 0 16 ≠ 0) (ha : s.Accesses (.acq .pkg) (bitsOf w 0 16) (boForm .read) [(bitsOf w 16 48 : Int)] true ps t)
    (hu : u = (t.toHome t.cur.1 (lineOf (keyOf ps))).reach [lineOf (keyOf ps)]) (hbad : u.boBad (keyOf ps) = false) :
    suspendEff s = .done u none 0 (.suspend (some ((u.boAt u.curKid (keyOf ps)).phase == 1, keyOf ps, false))) := by
  subst hw
  unfold suspendEff
  simp only [hb, if_false]
  rw [memEff_of ha]
  simp [← hu, hbad]

end Sys2Proof.Machine
end

section
/-! Settled: the words that stop a stream. -/

namespace Sys2Proof.Machine

/-- Settles O18, from what retirement does with each flow. -/
theorem stopWords : Obligations.StopWords := by
  refine ⟨?_, ?_⟩
  · intro s h g hi hl ht hsup hf _ hst
    refine ⟨fun hb => ⟨_, performWord_plain_went hi.grp ht rfl (suspendEff_none hb), ?_⟩,
      ⟨_, performWord_plain_went hi.grp ht rfl rfl, ?_⟩, ⟨_, performWord_plain_went hi.grp ht rfl rfl, ?_⟩, fun k hk => ?_⟩
    · simpa using hi.went_stops hl hsup hf hst (.inl ⟨none, rfl⟩)
    · simpa using hi.went_stops hl hsup hf hst (.inr (.inl rfl))
    · have := hi.went_stops hl hsup hf hst (.inr (.inr rfl))
      cases hs : s.soundSleep s.cur.1 <;> simpa [hs] using this
    · obtain ⟨h1, h2, h3⟩ := hi.went_halt hl hsup hk
      exact ⟨_, _, performWord_plain_went hi.grp ht rfl rfl, h1, h2, h3, rfl, rfl⟩
  · intro s t h g ps w hg ht hw hb ha u hu hbad
    exact performWord_plain_went hg ht rfl (suspendEff_object hw hb ha hu hbad)

end Sys2Proof.Machine
end

section
/-! SUPPORT. Words of fields, and the CSR words (04 R78 to R81). -/

namespace Sys2Proof.Machine

-- words of fields (00 R3)

theorem bitsOf_lt (w : Word) (lo n : Nat) : bitsOf w lo n < 2 ^ n := Nat.mod_lt _ (Nat.two_pow_pos n)

/-- A field set above all that a word holds adds to it. -/
theorem setBits_above {w : Word} {lo n : Nat} (v : Nat) (hw : w.toNat < 2 ^ lo) (hn : lo + n ≤ 64) :
    (setBits w lo n v).toNat = w.toNat + v % 2 ^ n * 2 ^ lo ∧ (setBits w lo n v).toNat < 2 ^ (lo + n) := by
  have hfield : bitsOf w lo n = 0 := by simp [bitsOf, Nat.div_eq_of_lt hw]
  have hv : v % 2 ^ n < 2 ^ n := Nat.mod_lt _ (Nat.two_pow_pos n)
  have hsum : w.toNat + v % 2 ^ n * 2 ^ lo < 2 ^ (lo + n) := by
    have : (v % 2 ^ n + 1) * 2 ^ lo ≤ 2 ^ n * 2 ^ lo := Nat.mul_le_mul_right _ hv
    rw [Nat.add_mul, Nat.one_mul] at this
    rw [Nat.pow_add, Nat.mul_comm (2 ^ lo)]
    omega
  have h64 : 2 ^ (lo + n) ≤ 2 ^ 64 := Nat.pow_le_pow_right (by omega) hn
  have heq : (setBits w lo n v).toNat = w.toNat + v % 2 ^ n * 2 ^ lo := by
    simp only [setBits, hfield, Nat.zero_mul, Nat.sub_zero, BitVec.toNat_ofNat]
    exact Nat.mod_eq_of_lt (by omega)
  exact ⟨heq, heq ▸ hsum⟩

/-- A word of one field. -/
theorem mkWord_one {n : Nat} (v : Nat) (hn : n ≤ 64) :
    (mkWord [(0, n, v)]).toNat = v % 2 ^ n ∧ (mkWord [(0, n, v)]).toNat < 2 ^ n := by
  have h := setBits_above (w := 0) (lo := 0) (n := n) v (by simp) (by omega)
  simpa [mkWord] using h

/-- A field above those of the rest adds to the word. -/
theorem mkWord_cons {lo n v : Nat} {fs : List (Nat × Nat × Nat)} (hw : (mkWord fs).toNat < 2 ^ lo) (hn : lo + n ≤ 64) :
    (mkWord ((lo, n, v) :: fs)).toNat = (mkWord fs).toNat + v % 2 ^ n * 2 ^ lo ∧
    (mkWord ((lo, n, v) :: fs)).toNat < 2 ^ (lo + n) :=
  setBits_above v hw hn

/-- A word of two fields, the upper one first. -/
theorem mkWord_two {lo n m v u : Nat} (hu : u < 2 ^ m) (hm : m ≤ lo) (hv : v < 2 ^ n) (hn : lo + n ≤ 64) :
    (mkWord [(lo, n, v), (0, m, u)]).toNat = u + v * 2 ^ lo ∧ (mkWord [(lo, n, v), (0, m, u)]).toNat < 2 ^ (lo + n) := by
  obtain ⟨h1, h2⟩ := mkWord_one u (show m ≤ 64 by omega)
  have h3 := mkWord_cons (lo := lo) (n := n) (v := v) (lt_of_lt_of_le h2 (Nat.pow_le_pow_right (by omega) hm)) hn
  rwa [h1, Nat.mod_eq_of_lt hu, Nat.mod_eq_of_lt hv] at h3

-- CSRR

theorem State.reads_csrVal {s : State} {h : Hdr} {g : Grp} (hg : s.curEng.grp = some g) (ht : s.guardTrue h = true)
    (d : SDst) (r : Csr) : s.Reads h d r (s.csrVal g r) := by
  unfold State.Reads
  change execCsrr h d r s = _
  rw [execCsrr, performWord_member hg]
  simp [scalarEff, ht, firstPoison, State.settle, State.wrote, noFlag]
  rfl

theorem State.reads_of_eq {s : State} {h : Hdr} {g : Grp} (hg : s.curEng.grp = some g) (ht : s.guardTrue h = true)
    {d : SDst} {r : Csr} {w : Word} (hw : s.csrVal g r = w) : s.Reads h d r w :=
  hw ▸ State.reads_csrVal hg ht d r

/-- BAND as a snapshot holds it (R80). -/
theorem Cryo.csr_toNat (x : Cryo) : x.csr.toNat = x.band.toNat + (if x.slip then 8 else 0) + 16 * x.st.toNat := by
  have hb : x.band.toNat < 2 ^ 3 := x.band.isLt
  have hs : (if x.slip then 1 else 0) < 2 ^ 1 := by split <;> omega
  obtain ⟨h1, h2⟩ := mkWord_two (lo := 3) hb (le_refl _) hs (by omega)
  obtain ⟨h3, -⟩ := mkWord_cons (lo := 4) (n := 4) (v := x.st.toNat) (by simpa using h2) (by omega)
  have hst : x.st.toNat < 2 ^ 4 := x.st.isLt
  rw [Cryo.csr, h3, h1, Nat.mod_eq_of_lt hst]
  split <;> omega

-- CSRW

theorem State.modCur_congr {s : State} {f f' : Engine → Engine} (h : f s.curEng = f' s.curEng) : s.modCur f = s.modCur f' := by
  simp only [State.modCur, State.modEng]
  exact congrArg _ h

theorem State.modCore_congr {s : State} {c : Nat} {f f' : Core → Core} (h : f (s.core c) = f' (s.core c)) :
    s.modCore c f = s.modCore c f' := by
  simp only [State.modCore, h]

/-- CSRW of a CSR of the engine: what it does to the CSRs is what counts. -/
theorem State.csrw_engine {s : State} {h : Hdr} {g : Grp} {a : SSrc} {r : Csr} {f : Engine → Engine}
    (hg : s.curEng.grp = some g) (ht : s.guardTrue h = true) (hr : Csr.perCore r = false)
    (hf : ({ s.curEng with csr := s.curEng.csr.write g r (s.val a) } : Engine).crossing r = f s.curEng) :
    exec (.csrw h r a) s = .next ((s.modCur f).went h .next) := by
  refine performWord_plain_went hg ht rfl ?_
  rw [← State.modCur_congr (f := fun x => { x with csr := x.csr.write g r (s.val a) }.crossing r) hf]
  simp only [csrwEff, hr, Bool.false_eq_true, if_false, State.val]

theorem State.puts_of {s : State} {h : Hdr} {g : Grp} {a : SSrc} {r : Csr} {f : Csrs → Csrs} (hg : s.curEng.grp = some g)
    (ht : s.guardTrue h = true) (hr : Csr.perCore r = false) (hf : s.curEng.csr.write g r (s.val a) = f s.curEng.csr)
    (hx : ({ s.curEng with csr := f s.curEng.csr } : Engine).crossing r = { s.curEng with csr := f s.curEng.csr }) :
    s.Puts h a r f :=
  State.csrw_engine hg ht hr (by rw [hf, hx])

theorem Engine.crossing_other (x : Engine) {r : Csr} (h1 : r ≠ .pht) (h2 : r ≠ .phtm) : x.crossing r = x := by
  simp [Engine.crossing, h1, h2]

/-- R327: PHT and PHTM meet, outside supervisor state, at a PHTM that is not 0. -/
theorem Engine.crossing_phase (x : Engine) {r : Csr} (hr : r = .pht ∨ r = .phtm) :
    x.crossing r = if x.sup = none ∧ x.csr.phtm ≠ 0 ∧ x.csr.pht = x.csr.phtm then { x with phtDue := true } else x := by
  have h : (r == .pht || r == .phtm) = true := by rcases hr with rfl | rfl <;> rfl
  simp [Engine.crossing, h, and_assoc]

-- the wait of R81

/-- R81: nothing of L and S is before the word. -/
theorem State.quiesce_go {s t : State} {g : Grp} (hg : s.curEng.grp = some g)
    (ha : ∀ e, e = .L ∨ e = .S → e ≠ s.cur.2 → s.accessing s.cur.1 e g.no = false) (ht : t = s.perform s.cur.1) (f : State → Eff) :
    s.quiesce f = if t.curCore.settled then f t else .wait t rFence := by
  have hnone : [Eng.L, Eng.S].any (fun e => e != s.cur.2 && s.accessing s.cur.1 e g.no) = false := by
    simp only [List.any_eq_false, List.mem_cons, List.not_mem_nil, or_false, Bool.and_eq_true, bne_iff_ne, not_and]
    exact fun e he hne => by simp [ha e he hne]
  simp [State.quiesce, hg, hnone, ht]

theorem State.quiesce_held {s : State} {g : Grp} (hg : s.curEng.grp = some g) {e : Eng} (he : e = .L ∨ e = .S)
    (hne : e ≠ s.cur.2) (ha : s.accessing s.cur.1 e g.no = true) (f : State → Eff) : s.quiesce f = .wait s rFence := by
  have hsome : [Eng.L, Eng.S].any (fun e => e != s.cur.2 && s.accessing s.cur.1 e g.no) = true := by
    simp only [List.any_eq_true]
    exact ⟨e, by simpa using he, by simp [hne, ha]⟩
  simp [State.quiesce, hg, hsome]

/-- CSRW of a CSR of the core. -/
theorem State.csrw_core {s t : State} {h : Hdr} {g : Grp} (a : SSrc) {r : Csr} (hg : s.curEng.grp = some g)
    (hgt : s.guardTrue h = true) (hr : Csr.perCore r = true)
    (ha : ∀ e, e = .L ∨ e = .S → e ≠ s.cur.2 → s.accessing s.cur.1 e g.no = false) (ht : t = s.perform s.cur.1) :
    exec (.csrw h r a) s = .next (if t.curCore.settled
      then (t.modCore t.cur.1 (fun k => k.csrWrite r (s.val a))).went h .next else t.waitOn t.cur.1 t.cur.2 rFence) := by
  refine (performWord_plain hg hgt rfl).trans ?_
  simp only [csrwEff, hr, if_true, State.quiesce_go hg ha ht]
  cases t.curCore.settled <;> rfl

end Sys2Proof.Machine
end

section
/-! Settled: the CSR words. -/

namespace Sys2Proof.Machine

/-- What CSRR reads (04 R78, R80). -/
theorem csrAccess_reads (s : State) (h : Hdr) (g : Grp) (d : SDst) (hg : s.curEng.grp = some g) (ht : s.guardTrue h = true) :
    (∀ w, w.toNat = g.csr.reason.toNat + (if g.csr.blocked then 256 else 0) → s.Reads h d .waitr w) ∧
    (∀ w, w.toNat = g.kcsr.2.1.toNat * 2 ^ 21 + g.kcsr.2.2.1.toNat → s.Reads h d .btbase w) ∧
    (∀ w, w.toNat = g.kcsr.2.2.2.toNat * 2 ^ 12 → s.Reads h d .ptbase w) ∧
    (∀ k, s.curCore.task = some k → s.Reads h d .rank (k.rank.setWidth 64) ∧ s.Reads h d .nrank (k.nrank.setWidth 64) ∧
      ∀ w, w.toNat = k.tile.toNat + 2 ^ 32 * k.lrec.toNat → s.Reads h d .task w) := by
  refine ⟨fun w hw => ?_, fun w hw => ?_, fun w hw => ?_, fun k hk => ⟨?_, ?_, fun w hw => ?_⟩⟩
  · refine State.reads_of_eq hg ht (BitVec.eq_of_toNat_eq ?_)
    have hb : (if g.csr.blocked then 1 else 0) < 2 ^ 1 := by split <;> omega
    have := (mkWord_two (lo := 8) (v := if g.csr.blocked then 1 else 0) g.csr.reason.isLt (le_refl 8) hb (by omega)).1
    rw [State.csrVal, this, hw]
    split <;> omega
  · refine State.reads_of_eq hg ht (BitVec.eq_of_toNat_eq ?_)
    rw [State.csrVal, (mkWord_two g.kcsr.2.2.1.isLt (by omega) g.kcsr.2.1.isLt (by omega)).1, hw]
    omega
  · refine State.reads_of_eq hg ht (BitVec.eq_of_toNat_eq ?_)
    have hp : g.kcsr.2.2.2.toNat < 2 ^ 44 := g.kcsr.2.2.2.isLt
    have := (setBits_above (w := 0) (lo := 12) (n := 44) g.kcsr.2.2.2.toNat (by simp) (by omega)).1
    rw [Nat.mod_eq_of_lt hp] at this
    rw [hw]
    simpa [State.csrVal, mkWord] using this
  · exact State.reads_of_eq hg ht (by simp [State.csrVal, hk])
  · exact State.reads_of_eq hg ht (by simp [State.csrVal, hk])
  · refine State.reads_of_eq hg ht (BitVec.eq_of_toNat_eq ?_)
    simp only [State.csrVal, hk]
    rw [(mkWord_two k.tile.isLt (by omega) k.lrec.isLt (by omega)).1, hw]
    omega

/-- A crossing of the phase timer, and the writes that are none (18 R327). -/
theorem csrAccess_phase (s : State) (h : Hdr) (g : Grp) (a : SSrc) (v : Word) (hg : s.curEng.grp = some g)
    (ht : s.guardTrue h = true) (hv : v = s.val a) :
    (s.curEng.sup.isSome ∨ s.curEng.csr.phtm = 0 ∨ v ≠ s.curEng.csr.phtm → s.Puts h a .pht (fun k => { k with pht := v })) ∧
    (s.curEng.sup.isSome ∨ v = 0 ∨ v ≠ s.curEng.csr.pht → s.Puts h a .phtm (fun k => { k with phtm := v })) ∧
    (s.curEng.sup = none → s.curEng.csr.phtm ≠ 0 → v = s.curEng.csr.phtm → exec (.csrw h .pht a) s =
      .next ((s.modCur (fun x => { x with csr := { x.csr with pht := v }, phtDue := true })).went h .next)) ∧
    (s.curEng.sup = none → v ≠ 0 → v = s.curEng.csr.pht → exec (.csrw h .phtm a) s =
      .next ((s.modCur (fun x => { x with csr := { x.csr with phtm := v }, phtDue := true })).went h .next)) := by
  subst hv
  refine ⟨fun hx => ?_, fun hx => ?_, fun hs hm he => ?_, fun hs hm he => ?_⟩
  · refine State.puts_of hg ht rfl rfl ?_
    rw [Engine.crossing_phase _ (.inl rfl), if_neg]
    rintro ⟨h1, h2, h3⟩
    rcases hx with hx | hx | hx
    · rw [h1] at hx; exact absurd hx (by simp)
    · exact h2 hx
    · exact hx h3
  · refine State.puts_of hg ht rfl rfl ?_
    rw [Engine.crossing_phase _ (.inr rfl), if_neg]
    rintro ⟨h1, h2, h3⟩
    rcases hx with hx | hx | hx
    · rw [h1] at hx; exact absurd hx (by simp)
    · exact h2 hx
    · exact hx h3.symm
  · refine State.csrw_engine hg ht rfl ?_
    rw [Engine.crossing_phase _ (.inl rfl), if_pos ⟨hs, hm, he⟩]
    rfl
  · refine State.csrw_engine hg ht rfl ?_
    rw [Engine.crossing_phase _ (.inr rfl), if_pos ⟨hs, hm, he.symm⟩]
    rfl

/-- Settles O23: CSRR reads `csrVal`, CSRW writes by `Csrs.write` and `Core.csrWrite`, and the snapshot is that of `openedGrp`. -/
theorem csrAccess : Obligations.CsrAccess := by
  refine ⟨?_, ?_, ?_⟩
  · intro s h g d hg ht
    have hr : ∀ r, s.Reads h d r (s.csrVal g r) := State.reads_csrVal hg ht d
    exact ⟨hr .fflags, hr .fenab, hr .frm, hr .cyc, hr .gsc, hr .pht, hr .phtm, hr .trapc, hr .trapv, hr .trappc, hr .ctx,
      hr .core, hr .quad, hr .die, hr .pkg, hr .band, csrAccess_reads s h g d hg ht⟩
  · intro s h g a v hg ht hv
    obtain ⟨hpht, hphtm, hphtX, hphtmX⟩ := csrAccess_phase s h g a v hg ht hv
    subst hv
    have hp : ∀ (r : Csr) (f : Csrs → Csrs), Csr.perCore r = false → r ≠ .pht → r ≠ .phtm →
        s.curEng.csr.write g r (s.val a) = f s.curEng.csr → s.Puts h a r f := fun r f hr h1 h2 hf =>
      State.puts_of hg ht hr hf (Engine.crossing_other _ h1 h2)
    refine ⟨hp .fflags _ rfl (by decide) (by decide) rfl, hp .fenab _ rfl (by decide) (by decide) rfl,
      hp .frm _ rfl (by decide) (by decide) rfl, hpht, hphtm, hphtX, hphtmX, hp .trapc _ rfl (by decide) (by decide) rfl,
      hp .trapv _ rfl (by decide) (by decide) rfl, hp .trappc _ rfl (by decide) (by decide) rfl, ?_, ?_, ?_⟩
    · intro t ha htp hset
      have hgo : ∀ r, Csr.perCore r = true → exec (.csrw h r a) s =
          .next ((t.modCore t.cur.1 (fun k => k.csrWrite r (s.val a))).went h .next) := fun r hr => by
        rw [State.csrw_core a hg ht hr ha htp, if_pos hset]
      exact ⟨hgo .ctx rfl, hgo .btbase rfl, hgo .ptbase rfl⟩
    · intro t ha htp hset
      rw [State.csrw_core a hg ht rfl ha htp, hset]
      rfl
    · intro e he hne hacc
      refine (performWord_plain hg ht rfl).trans ?_
      rw [csrwEff, if_pos (show Csr.perCore .ctx = true from rfl), State.quiesce_held hg he hne hacc]
      rfl
  · intro s c n e hre g hg
    subst hg
    simp only [State.openedGrp, hre]
    refine ⟨Cryo.csr_toNat _, trivial, trivial, trivial, ?_, ?_⟩ <;> (unfold Engine.resumed; split <;> rfl)

end Sys2Proof.Machine
end

section
/-! SUPPORT. Words that trap, return from a trap, arm a watch or drop cached entries (04 R73 to R83, 18 R303 to R311). -/

namespace Sys2Proof.Machine

-- a trap that its group owes (R75, R76)

theorem State.owe_eq {s : State} {g : Grp} (hg : s.curEng.grp = some g) (ho : g.owes = none) (d : Due) :
    s.owe d = s.modCur (fun x => { x with grp := some { g with owes := some d } }) :=
  State.modCur_congr (by simp [hg, ho])

-- BKPT in the tables of 03 and 06

theorem hdrD_bkpt (h : Hdr) (code : BitVec 16) : hdrD (.bkpt h code) = h := rfl
theorem readsOf_bkpt (h : Hdr) (code : BitVec 16) : readsOf (.bkpt h code) = [] := rfl
theorem writesOf_bkpt (h : Hdr) (code : BitVec 16) : writesOf (.bkpt h code) = [] := rfl
theorem stampOf_bkpt (h : Hdr) (code : BitVec 16) : stampOf (.bkpt h code) = none := rfl

theorem target?_bkpt (s : State) (c : Nat) (h : Hdr) (code : BitVec 16) : s.target? c (.bkpt h code) = none := by
  simp only [State.target?, stampOf_bkpt]
  split
  · contradiction
  · rfl

theorem popsFrom_bkpt {h : Hdr} (code : BitVec 16) (hp : h.pop = 0) (j : Nat) : popsFrom j [.bkpt h code] = 0 := by
  simp [popsFrom, hdrD_bkpt, hp]

theorem supForbidden_bkpt {h : Hdr} (code : BitVec 16) (hp : h.pop = 0) (hq : h.post = 0) :
    supForbidden (.bkpt h code) = false := by
  have hs : supForbidden (.bkpt h code) = (h.pop != 0 || h.post != 0 || false) := rfl
  rw [hs, hp, hq]
  rfl

/-- BKPT fails the checks of its group (R76), and no check before it. -/
theorem dynBad_bkpt {s : State} {h : Hdr} (code : BitVec 16) (hr : s.curEng.restart = none) (hg : s.curEng.grp = none)
    (ht : s.guardTrue h = true) (hp : h.pop = 0) (before m : Nat) :
    s.dynBad s.cur.1 s.cur.2 before [.bkpt h code] (.bkpt h code) m =
      some (cBreak, mkWord [(16, 16, code.toNat), (0, 2, m)]) := by
  have hre : (s.eng s.cur.1 s.cur.2).restart = none := hr
  have htok : s.tokenBad s.cur.1 s.cur.2 [.bkpt h code] m = none := by simp [State.tokenBad, popsFrom_bkpt code hp, firstSome]
  have hseen : s.seenCore = s.core s.cur.1 := by
    simp [State.seenCore, hg, Core.seenBy, State.curCore]
  have hskip : guardSkips s.cur.2 (s.core s.cur.1) (.bkpt h code) = false := by
    rw [State.guardTrue, hseen] at ht
    have hg' : guardSkips s.cur.2 (s.core s.cur.1) (.bkpt h code) =
        (s.cur.2 == .X && (true && true && (((s.core s.cur.1).pred h.g.toNat).getLsbD 0 == h.gn))) := rfl
    rw [hg']
    cases hx : s.cur.2 == .X with
    | false => rfl
    | true => simpa [beq_iff_eq.mp hx] using ht
  simp only [State.dynBad, hre, Core.seenBy, Option.bind_none, hskip, Bool.false_eq_true, if_false]
  rw [htok, readsOf_bkpt]
  rfl

theorem verdict_bkpt {s : State} {h : Hdr} (code : BitVec 16) (hr : s.curEng.restart = none) (hg : s.curEng.grp = none)
    (ht : s.guardTrue h = true) (hp : h.pop = 0) :
    s.verdict s.cur.1 s.cur.2 [.bkpt h code] 0 false = .trap cBreak (mkWord [(16, 16, code.toNat), (0, 2, 0)]) := by
  have hshort : (s.core s.cur.1).short s.cur.2 [.bkpt h code] = false := by simp [Core.short, popsFrom_bkpt code hp]
  have hgate : s.gate s.cur.1 s.cur.2 [.bkpt h code] false = .go := by
    unfold State.gate
    split
    · rename_i hM hcons
      cases hcons
      simp only [Bool.false_eq_true, if_false, target?_bkpt]
      rfl
    · rfl
  have hdyn : s.groupDyn s.cur.1 s.cur.2 0 0 [] [.bkpt h code] =
      some (cBreak, mkWord [(16, 16, code.toNat), (0, 2, 0)]) := by
    simp [State.groupDyn, dynBad_bkpt code hr hg ht hp]
  simp only [State.verdict, hgate, hshort, hdyn]
  rfl

theorem exec_bkpt {s : State} {h : Hdr} (code : BitVec 16) (hg : s.curEng.grp = none) (hr : s.curEng.restart = none)
    (ht : s.guardTrue h = true) (hp : h.pop = 0) (hpost : s.curEng.sup ≠ none → h.post = 0) :
    exec (.bkpt h code) s =
      .next (s.takeTrap s.cur.1 s.cur.2 0x0B (mkWord [(16, 16, code.toNat), (0, 2, 0)]) s.curEng.pc) := by
  have halone : s.aloneBad (.bkpt h code) = none := by
    unfold State.aloneBad
    cases hs : s.curEng.sup with
    | none => simp only [hs]; rfl
    | some u => simp [hs, supForbidden_bkpt code hp (hpost (by simp [hs]))]
  have hend : s.endSlip s.cur.1 s.cur.2 [.bkpt h code] cBreak false = s := by
    unfold State.endSlip
    split
    · rename_i hcons
      cases hcons
      simp [cBreak, cSched, State.logSlip, target?_bkpt]
    · rfl
  have hre : (s.eng s.cur.1 s.cur.2).restart = none := hr
  have hopen : s.openGroup [.bkpt h code] =
      (s.takeTrap s.cur.1 s.cur.2 cBreak (mkWord [(16, 16, code.toNat), (0, 2, 0)]) s.curEng.pc, false) := by
    simp only [State.openGroup, hre, Option.map_none, Option.getD_none, Option.isSome_none, verdict_bkpt code hr hg ht hp, hend]
    rfl
  change execBkpt h code s = _
  rw [execBkpt, performWord, hg]
  simp only [halone, hopen]
  rfl

-- a group that owes a trap ends (R309, R310)

/-- What the end of a group does before the trap it owes is taken: its loop unit, its task and where its engine stops. -/
def State.groupOver (s : State) (c : Nat) (e : Eng) (last : Nat) (flow : Flow) : State :=
  let s := s.modEng c e (fun g => g.loopsAfter (s.reqOpen c) last flow)
  match flow with
  | .halt => s.modTask c (fun t => { t with halting := true })
  | .suspend _ | .yield => s.modEng c e (fun g => { g with stopped := some flow })
  | .sleep => if s.soundSleep c then s.modEng c e (fun g => { g with stopped := some flow }) else s
  | _ => s

theorem dueTrap_arith (s : State) (c : Nat) (e : Eng) (b : FlagSet) (pc : BitVec 16) (last : Nat) (flow : Flow) :
    s.dueTrap c e (.arith b) pc last flow =
      (s.groupOver c e last flow).takeTrap c e 0x09 (mkWord [(16, 6, b.toNat)]) pc := by
  cases flow <;> rfl

theorem dueTrap_software (s : State) (c : Nat) (e : Eng) (x : BitVec 16) (pc : BitVec 16) (last : Nat) (flow : Flow)
    (hs : (s.groupOver c e last flow).inSup c e = false) :
    s.dueTrap c e (.software x) pc last flow =
      (s.groupOver c e last flow).takeTrap c e 0x0A (mkWord [(16, 16, x.toNat)]) pc := by
  have h : s.dueTrap c e (.software x) pc last flow = if (s.groupOver c e last flow).inSup c e
      then (s.groupOver c e last flow).deliver c e ((s.groupOver c e last flow).eng c e).csr.trapc.toNat
        ((s.groupOver c e last flow).eng c e).csr.trapv x.toNat false
      else (s.groupOver c e last flow).takeTrap c e cSoftware (mkWord [(16, 16, x.toNat)]) pc := by
    cases flow <;> rfl
  rw [h, if_neg (by simp [hs])]
  rfl

theorem loopsAfter_kept (req : Bool) (last : Nat) (flow : Flow) (g : Engine) :
    ∃ ls, Engine.loopsAfter req last flow g = { g with loops := ls } := by
  unfold Engine.loopsAfter
  split
  · exact ⟨_, rfl⟩
  · split
    · exact loopBack_kept ..
    · exact ⟨_, rfl⟩
    · exact ⟨_, rfl⟩

/-- The end of a group keeps the group, the flags and the supervisor state of its engine. -/
theorem groupOver_kept (s : State) (c : Nat) (e : Eng) (last : Nat) (flow : Flow) :
    ((s.groupOver c e last flow).eng c e).grp = (s.eng c e).grp ∧
    ((s.groupOver c e last flow).eng c e).csr.fflags = (s.eng c e).csr.fflags ∧
    ((s.groupOver c e last flow).eng c e).sup = (s.eng c e).sup := by
  obtain ⟨ls, hl⟩ := loopsAfter_kept (s.reqOpen c) last flow (s.eng c e)
  unfold State.groupOver
  cases flow with
  | sleep => dsimp only; split <;> simp [hl]
  | next | goto | past | eret | halt | suspend | yield => simp [hl]

/-- The trap that a group owes, as it is taken. -/
def State.takeDue (u : State) (c : Nat) (e : Eng) (d : Due) (pc : BitVec 16) : State :=
  match d with
  | .arith b => u.takeTrap c e 0x09 (mkWord [(16, 6, b.toNat)]) pc
  | .software x => u.takeTrap c e 0x0A (mkWord [(16, 16, x.toNat)]) pc

/-- R309, R310: the trap that a group owes is taken once its last member has retired. -/
theorem State.went_owing {s : State} {h : Hdr} {g : Grp} {d : Due} (hg : s.curEng.grp = some g)
    (hr : s.curCore.room s.cur.2 h.post = true) (hno : s.curCore.unlanded s.cur.2 = false)
    (hb : s.behind s.cur.1 s.cur.2 = false) (hone : s.unretired s.cur.1 s.cur.2 = false) (ho : g.owes = some d)
    (hl : g.idx + 1 = g.size) (hs : s.curEng.sup = none) :
    ∃ u : State, (u.eng s.cur.1 s.cur.2).grp = none ∧ (u.eng s.cur.1 s.cur.2).csr.fflags = s.curEng.csr.fflags ∧
      s.went h .next = u.takeDue s.cur.1 s.cur.2 d (g.pcOf g.size) := by
  let t : State := (s.posted h none 0).modEng s.cur.1 s.cur.2 (fun x => { x with grp := none })
  let last : Nat := s.curEng.sect.wordOf (g.pcOf g.size) - 1
  have ht : t.eng s.cur.1 s.cur.2 = { s.curEng.retired none 0 with grp := none } := by simp [t]
  obtain ⟨hu1, hu2, hu3⟩ := groupOver_kept t s.cur.1 s.cur.2 last (g.flow.join .next)
  have hstep : s.went h .next = t.dueTrap s.cur.1 s.cur.2 d (g.pcOf g.size) last (g.flow.join .next) := by
    rw [State.went, State.retire_eq hg hr hno hb (.inl hone), State.endMember]
    simp only [hl, Nat.lt_irrefl, if_false, ho, State.posted_eng]
    rfl
  refine ⟨t.groupOver s.cur.1 s.cur.2 last (g.flow.join .next), by rw [hu1, ht], ?_, ?_⟩
  · rw [hu2, ht]
    exact BitVec.or_zero
  · rw [hstep]
    cases d with
    | arith b => exact dueTrap_arith ..
    | software x =>
      refine dueTrap_software _ _ _ _ _ _ _ ?_
      rw [State.inSup, hu3, ht]
      exact (congrArg Option.isSome hs).trans rfl

end Sys2Proof.Machine
end

section
/-! Settled: the words that trap. -/

namespace Sys2Proof.Machine

/-- Settles O20: the trap is owed and taken with the end of the group, and BKPT fails the checks of its group. -/
theorem trapWords : Obligations.TrapWords := by
  refine ⟨?_, ?_, ?_⟩
  · intro s h g code hg ht ho
    refine ⟨fun h0 => ?_, fun h0 => ?_, ?_⟩
    · exact performWord_plain_went hg ht rfl (by simp [tfenceEff, tfenceBits, h0])
    · refine performWord_plain_went hg ht rfl ?_
      rw [tfenceEff, State.owe_eq hg ho, if_neg (by simpa [tfenceBits] using h0)]
      rfl
    · refine performWord_plain_went hg ht rfl ?_
      rw [trapEff, State.owe_eq hg ho]
  · intro s h code hg hr ht hp hpost
    exact exec_bkpt code hg hr ht hp hpost
  · intro s h g d hg hr hno hb hone ho hl hs
    obtain ⟨u, hu1, hu2, hu3⟩ := State.went_owing hg hr hno hb hone ho hl hs
    exact ⟨u, hu1, hu2, by rw [hu3]; cases d <;> rfl⟩

end Sys2Proof.Machine
end

section
/-! SUPPORT. What an engine has computed lands before its trap, and touches no engine (06 R95, 18 R303). -/

namespace Sys2Proof.Machine

theorem landRegs_eq (k : Core) (xs : List (Nat × BitVec 256 × VVal)) : ∃ v, k.landRegs xs = { k with v := v } := by
  induction xs generalizing k with
  | nil => exact ⟨k.v, rfl⟩
  | cons x xs ih =>
    obtain ⟨v, hv⟩ := ih (k.setV x.1 ((k.vreg x.1).merge x.2.2 x.2.1))
    exact ⟨v, by rw [Core.landRegs, hv]; rfl⟩

theorem foldl_wake_cores (ls : List Nat) (s : State) : (ls.foldl State.wake s).cores = s.cores := by
  induction ls generalizing s with
  | nil => rfl
  | cons l ls ih => rw [List.foldl_cons, ih, State.wake_cores]

theorem foldl_wake_supStore (ls : List Nat) (s : State) : (ls.foldl State.wake s).supStore = s.supStore := by
  induction ls generalizing s with
  | nil => rfl
  | cons l ls ih => rw [List.foldl_cons, ih, State.wake_supStore]

theorem foldl_wake_cur (ls : List Nat) (s : State) : (ls.foldl State.wake s).cur = s.cur := by
  induction ls generalizing s with
  | nil => rfl
  | cons l ls ih => rw [List.foldl_cons, ih, State.wake_cur]

/-- Landing changes of the cores only vector registers and what has landed. -/
theorem State.land_cores (s : State) (c : Nat) (e : Eng) :
    (s.land c e).cores = s.cores ∨ ∃ v l, (s.land c e).cores = (s.modCore c (fun k => { k with v := v, landing := l })).cores := by
  unfold State.land
  dsimp only
  split
  · exact .inl rfl
  · obtain ⟨v, hv⟩ := landRegs_eq { s.core c with landing := (s.core c).landing.filter (fun x => x.eng != e) }
      (((s.core c).landing.filter (fun x => x.eng == e)).flatMap Landing.regs)
    refine .inr ⟨v, (s.core c).landing.filter (fun x => x.eng != e), ?_⟩
    rw [foldl_wake_cores]
    simp only [State.setMem_cores, State.modCore, hv]

theorem State.land_core (s : State) (c : Nat) (e : Eng) :
    ∃ v l, (s.land c e).core c = { s.core c with v := v, landing := l } := by
  rcases s.land_cores c e with h | ⟨v, l, h⟩
  · exact ⟨(s.core c).v, (s.core c).landing, by simp [State.core, h]⟩
  · refine ⟨v, l, ?_⟩
    have : (s.land c e).core c = (s.modCore c (fun k => { k with v := v, landing := l })).core c := by simp only [State.core, h]
    rw [this, State.core_modCore, if_pos rfl]

@[simp] theorem State.land_eng (s : State) (c : Nat) (e e' : Eng) : (s.land c e).eng c e' = s.eng c e' := by
  obtain ⟨v, l, h⟩ := s.land_core c e
  cases e' <;> simp [State.eng, h, Core.eng]

@[simp] theorem State.land_task (s : State) (c : Nat) (e : Eng) : ((s.land c e).core c).task = (s.core c).task := by
  obtain ⟨v, l, h⟩ := s.land_core c e
  rw [h]

@[simp] theorem State.land_supStore (s : State) (c : Nat) (e : Eng) : (s.land c e).supStore = s.supStore := by
  unfold State.land
  dsimp only
  split
  · rfl
  · rw [foldl_wake_supStore]; rfl

@[simp] theorem State.land_cur (s : State) (c : Nat) (e : Eng) : (s.land c e).cur = s.cur := by
  unfold State.land
  dsimp only
  split
  · rfl
  · rw [foldl_wake_cur]; rfl

/-- The handler of a cause is that of the supervisor store (18 R304). -/
theorem State.handler_congr {s t : State} (h : t.supStore = s.supStore) (cause : Nat) : t.handler cause = s.handler cause := by
  have hw : ∀ a n, t.supWord a n = s.supWord a n := fun a n => by simp [State.supWord, h]
  have hs : ∀ fuel off, t.supSections fuel off = s.supSections fuel off := by
    intro fuel
    induction fuel with
    | zero => intro off; rfl
    | succ n ih => intro off; simp only [State.supSections, hw, ih]
  simp only [State.handler, hw, hs]

-- the registers that a handler sets aside (R305)

theorem foldl_put_get {α : Type} (f : Nat → α) (base : Nat) (is : List Nat) (r : Store α) (n : Nat) (d : α) :
    (is.foldl (fun r i => r.put (base + i) (f i)) r).get n d =
      if ∃ i ∈ is, base + i = n then f (n - base) else r.get n d := by
  induction is generalizing r with
  | nil => simp
  | cons i is ih =>
    rw [List.foldl_cons, ih]
    by_cases h : ∃ j ∈ is, base + j = n
    · obtain ⟨j, hj, he⟩ := h
      rw [if_pos ⟨j, hj, he⟩, if_pos ⟨j, by simp [hj], he⟩]
    · rw [if_neg h, Store.get_put]
      by_cases hi : base + i = n
      · rw [if_pos hi, if_pos ⟨i, by simp, hi⟩, ← hi, Nat.add_sub_cancel_left]
      · rw [if_neg hi, if_neg]
        rintro ⟨j, hj, he⟩
        rcases List.mem_cons.mp hj with rfl | hj
        · exact hi he
        · exact h ⟨j, hj, he⟩

/-- s24 to s31 read zero in a fresh handler, and the registers below them stay (R305). -/
theorem Engine.enterSup_reg (g : Engine) (h : Sect) (n : Nat) (hn : n < 32) :
    (g.enterSup h).reg n = if 24 ≤ n then SVal.zero else g.reg n := by
  unfold Engine.reg
  by_cases h0 : n = 0
  · simp [h0]
  · rw [if_neg h0, if_neg h0]
    simp only [Engine.enterSup]
    rw [foldl_put_get (fun _ => SVal.zero)]
    by_cases h24 : 24 ≤ n
    · rw [if_pos ⟨n - 24, by simp; omega, by omega⟩, if_pos h24]
    · rw [if_neg (by rintro ⟨i, -, hi⟩; omega), if_neg h24]

/-- The registers that an engine sets aside come back when it leaves supervisor state (R305, R307). -/
theorem Engine.leaveSup_reg {g : Engine} {u : Sup} (hu : g.sup = some u) (hlen : u.regs.length = 8) (n : Nat) (hn : n < 32) :
    g.leaveSup.reg n = if 24 ≤ n then u.regs.getD (n - 24) SVal.zero else g.reg n := by
  have hzip : u.regs.zip (List.range 8) = (List.range 8).map (fun i => (u.regs.getD i SVal.zero, i)) := by
    refine List.ext_getElem (by simp [hlen]) fun i h1 h2 => ?_
    have hi : i < 8 := by simpa using h2
    simp [hlen, hi, List.getD_eq_getElem?_getD]
  unfold Engine.reg
  by_cases h0 : n = 0
  · simp [h0]
  · rw [if_neg h0, if_neg h0]
    simp only [Engine.leaveSup, hu, hzip, List.foldl_map]
    rw [foldl_put_get (fun i => u.regs.getD i SVal.zero)]
    by_cases h24 : 24 ≤ n
    · rw [if_pos ⟨n - 24, by simp; omega, by omega⟩, if_pos h24]
    · rw [if_neg (by rintro ⟨i, -, hi⟩; omega), if_neg h24]

-- taking a trap

@[simp] theorem State.core_setEng_task (s : State) (c : Nat) (e : Eng) (g : Engine) (c' : Nat) :
    ((s.setEng c e g).core c').task = (s.core c').task := by
  by_cases h : c = c'
  · subst h; simp [State.setEng]
  · simp [State.setEng, h]

/-- The package once the results of the engine have landed and its group's tokens are unreserved. -/
def State.trapping (s : State) (c : Nat) (e : Eng) : State := (s.land c e).modCore c (fun k => k.dropResv e)

@[simp] theorem Core.dropResv_eng (k : Core) (e e' : Eng) : (k.dropResv e).eng e' = k.eng e' := by
  cases e' <;> rfl

@[simp] theorem State.trapping_eng (s : State) (c : Nat) (e e' : Eng) : (s.trapping c e).eng c e' = s.eng c e' := by
  have : ((s.land c e).core c).eng e' = (s.core c).eng e' := s.land_eng c e e'
  simp [State.trapping, State.eng, this]

@[simp] theorem State.trapping_task (s : State) (c : Nat) (e : Eng) : ((s.trapping c e).core c).task = (s.core c).task := by
  simp [State.trapping, Core.dropResv]

theorem State.trapping_only (s : State) (c : Nat) (e : Eng) : OnlyCore (s.land c e) (s.trapping c e) c := .modCore ..

/-- The engine with its trap recorded (R303). -/
def Engine.trapped (g : Engine) (cause : Nat) (v : Word) (pc : BitVec 16) : Engine :=
  { g with
    grp := none
    inside := none
    owed := none
    csr := { g.csr with trapc := BitVec.ofNat 8 cause, trapv := v, trappc := pc }
    pc := pc
    resume := g.sect }

/-- R303 to R305: outside supervisor state the trap is recorded; it enters its handler or is delivered. -/
theorem State.takeTrap_eq {s : State} {c : Nat} {e : Eng} {cause : Nat} (v : Word) (pc : BitVec 16)
    (hs : (s.eng c e).sup = none) (hc : cause ≠ 0x10) :
    s.takeTrap c e cause v pc = match s.handler cause with
      | some h => (s.trapping c e).setEng c e (((s.eng c e).trapped cause v pc).enterSup h)
      | none => ((s.trapping c e).setEng c e ((s.eng c e).trapped cause v pc)).deliver c e cause v 0 false := by
  have hh : ((s.trapping c e).setEng c e ((s.eng c e).trapped cause v pc)).handler cause = s.handler cause :=
    State.handler_congr (by simp [State.trapping]) cause
  have heng := s.trapping_eng c e e
  unfold State.takeTrap
  simp only [← State.trapping.eq_1, heng]
  rw [if_neg (by simp [hs]), if_neg (show ¬cause = cTransl from hc)]
  generalize s.handler cause = o at hh ⊢
  generalize s.trapping c e = t at hh ⊢
  generalize s.eng c e = x at hh ⊢
  change (match (t.setEng c e (x.trapped cause v pc)).handler cause with
    | some h => (t.setEng c e (x.trapped cause v pc)).setEng c e ((x.trapped cause v pc).enterSup h)
    | none => (t.setEng c e (x.trapped cause v pc)).deliver c e cause v 0 false) = _
  rw [hh]
  cases o with
  | none => rfl
  | some h => simp [State.setEng_eq_modCore]

/-- R308: a trap in supervisor state delivers a double trap. -/
theorem State.takeTrap_double {s : State} {c : Nat} {e : Eng} (cause : Nat) (v : Word) (pc : BitVec 16)
    (hs : (s.eng c e).sup.isSome = true) :
    s.takeTrap c e cause v pc = ((s.trapping c e).setEng c e { s.eng c e with grp := none, inside := none, owed := none }).deliver
      c e cDouble (mkWord [(8, 8, cause)]) 0 false := by
  have heng := s.trapping_eng c e e
  unfold State.takeTrap
  simp only [← State.trapping.eq_1, heng, hs, if_true]

-- a delivery (R307)

theorem State.deliver_eng (s : State) (c : Nat) (e : Eng) (cause : Nat) (d : Word) (code : Nat) (e' : Eng) :
    (s.deliver c e cause d code false).eng c e' =
      if e' = e then { s.eng c e with csr := (s.eng c e).csr.waiting rFault } else s.eng c e' := by
  have hr : (if (false = true) then rPage else rFault) = rFault := rfl
  by_cases h : e' = e
  · subst h
    simp [State.deliver, State.waitOn]
  · simp [State.deliver, State.waitOn, h, Ne.symm h]

theorem State.deliver_task (s : State) (c : Nat) (e : Eng) (cause : Nat) (d : Word) (code : Nat) :
    ((s.deliver c e cause d code false).core c).task = (s.core c).task.map (fun t => { t with delivery := t.delivery ++
      [{ cause := BitVec.ofNat 8 cause, detail := d, code := BitVec.ofNat 16 code, eng := engIdx e,
         pc := (s.eng c e).csr.trappc, page := false }] }) := by
  simp [State.deliver, State.waitOn, State.modEng_eq_modCore, State.modTask]

theorem State.deliver_only (s : State) (c : Nat) (e : Eng) (cause : Nat) (d : Word) (code : Nat) :
    OnlyCore s (s.deliver c e cause d code false) c :=
  (OnlyCore.modCore ..).trans (.setCore ..)

end Sys2Proof.Machine
end

section
/-! Settled: taking a trap and returning from one. -/

namespace Sys2Proof.Machine

/-- A trap with a handler (R305). -/
theorem trapEntry_handler {s t : State} {c : Nat} {e : Eng} {cause : Nat} {v : Word} {pc : BitVec 16} {hd : Sect}
    (hs : (s.eng c e).sup = none) (hc : cause ≠ 0x10) (hh : s.handler cause = some hd) (ht : t = s.takeTrap c e cause v pc) :
    t.eng c e = ((s.eng c e).trapped cause v pc).enterSup hd ∧ (∀ e', e' ≠ e → t.eng c e' = s.eng c e') ∧
    OnlyCore (s.land c e) t c := by
  rw [State.takeTrap_eq v pc hs hc, hh] at ht
  subst ht
  exact ⟨by simp, fun e' he => by simp [Ne.symm he], (s.trapping_only c e).trans (.setCore ..)⟩

/-- A trap without a handler is delivered (R307). -/
theorem trapEntry_delivered {s t : State} {c : Nat} {e : Eng} {cause : Nat} {v : Word} {pc : BitVec 16}
    (hs : (s.eng c e).sup = none) (hc : cause ≠ 0x10) (hh : s.handler cause = none) (ht : t = s.takeTrap c e cause v pc) :
    t.eng c e = { (s.eng c e).trapped cause v pc with csr := ((s.eng c e).trapped cause v pc).csr.waiting rFault } ∧
    (∀ e', e' ≠ e → t.eng c e' = s.eng c e') ∧ OnlyCore (s.land c e) t c ∧
    (t.core c).task = (s.core c).task.map (fun k => { k with delivery := k.delivery ++
      [{ cause := BitVec.ofNat 8 cause, detail := v, code := 0, eng := engIdx e, pc := pc, page := false }] }) := by
  rw [State.takeTrap_eq v pc hs hc, hh] at ht
  subst ht
  refine ⟨by simp [State.deliver_eng], fun e' he => by simp [State.deliver_eng, he, Ne.symm he],
    ((s.trapping_only c e).trans (.setCore ..)).trans (State.deliver_only ..), ?_⟩
  have hpc : (((s.trapping c e).setEng c e ((s.eng c e).trapped cause v pc)).eng c e).csr.trappc = pc := by
    simp [Engine.trapped]
  rw [State.deliver_task, hpc]
  simp [State.setEng_eq_modCore]

/-- Settles O21: outside supervisor state by the two ways a trap goes, inside it by the double trap. -/
theorem trapEntry : Obligations.TrapEntry := by
  refine ⟨?_, ?_⟩
  · intro s c e cause v pc hs _ hc t x ht hx
    cases hh : s.handler cause with
    | some hd =>
      obtain ⟨heng, hengs, hpkg⟩ := trapEntry_handler hs hc hh ht
      rw [heng] at hx
      subst hx
      refine ⟨rfl, rfl, rfl, rfl, rfl, rfl, rfl, fun n hn => ?_, hengs, hpkg, fun hd' he => ?_, fun he => by cases he⟩
      · rw [Engine.enterSup_reg _ _ _ (by omega), if_neg (by omega)]
        rfl
      · cases he
        refine ⟨rfl, rfl, rfl, rfl, fun n h24 h32 => ?_⟩
        rw [Engine.enterSup_reg _ _ _ h32, if_pos h24]
    | none =>
      obtain ⟨heng, hengs, hpkg, htask⟩ := trapEntry_delivered hs hc hh ht
      rw [heng] at hx
      subst hx
      refine ⟨rfl, rfl, rfl, rfl, rfl, rfl, rfl, fun _ _ => rfl, hengs, hpkg, fun hd he => ?_, fun _ => ⟨hs, fun k hk => ?_⟩⟩
      · cases he
      · exact ⟨_, by rw [htask, hk]; rfl, rfl⟩
  · intro s c e cause v pc k hs hcause hk t ht
    rw [State.takeTrap_double cause v pc hs] at ht
    have heng : t.eng c e = { s.eng c e with
        grp := none, inside := none, owed := none, csr := (s.eng c e).csr.waiting rFault } := by
      rw [ht, State.deliver_eng]; simp
    refine ⟨by rw [heng]; rfl, by rw [heng]; rfl, by rw [heng]; rfl, { k with delivery := k.delivery ++ _ },
      { cause := 0x17, detail := mkWord [(8, 8, cause)], code := 0, eng := engIdx e, pc := (s.eng c e).csr.trappc, page := false },
      ?_, rfl, rfl, ?_, rfl⟩
    · rw [ht, State.deliver_task]
      rw [State.core_setEng_task, State.trapping_task, hk, State.eng_setEng, if_pos ⟨rfl, rfl⟩]
      rfl
    · refine BitVec.eq_of_toNat_eq ?_
      have h := (setBits_above (w := 0) (lo := 8) (n := 8) cause (by simp) (by omega)).1
      rw [Nat.mod_eq_of_lt (show cause < 2 ^ 8 from hcause)] at h
      simp only [mkWord, h, BitVec.toNat_ofNat]
      simp
      omega

/-- R82, R305, R307: the stream of a task goes on after ERET. -/
theorem State.Issuing.went_eret {s : State} {h : Hdr} {g : Grp} {u : Sup} (hi : s.Issuing h g) (hl : g.idx + 1 = g.size)
    (hst : s.curEng.stopped = none) (hu : s.curEng.sup = some u) (hr : s.curEng.resume.resumable s.curEng.csr.trappc = true) :
    (s.went h .eret).cur = s.cur ∧ ∃ r, (s.went h .eret).eng s.cur.1 s.cur.2 = { (s.curEng.ended none 0).leaveSup with regrp := r } := by
  have hres : (s.curEng.ended none 0).resume.resumable (s.curEng.ended none 0).csr.trappc = true := hr
  have hstop : (s.curEng.ended none 0).leaveSup.stopped = none := by simp [Engine.leaveSup, hu, hst]
  have hend : s.went h .eret = (s.ended h none 0).eret s.cur.1 s.cur.2 := by
    rw [State.went, hi.retire_last none 0 hl]; rfl
  rw [hend]
  unfold State.eret
  simp only [State.ended_eng, hres, if_true]
  rw [if_neg (c := (s.curEng.ended none 0).leaveSup.stopped.isSome = true) (by rw [hstop]; exact Bool.false_ne_true)]
  split
  · exact ⟨rfl, (s.curEng.ended none 0).leaveSup.regrp, by rw [State.eng_setEng, if_pos ⟨rfl, rfl⟩]⟩
  · exact ⟨rfl, none, by rw [State.eng_setEng, if_pos ⟨rfl, rfl⟩]⟩

/-- Settles O22, from what leaving supervisor state restores. -/
theorem trapReturn : Obligations.TrapReturn := by
  intro s h g u hi hl ht hst hu hlen hr
  obtain ⟨hcur, r, heng⟩ := hi.went_eret hl hst hu hr
  have hsup : (s.curEng.ended none 0).sup = some u := hu
  have hreg : ∀ n, n < 32 → (s.went h .eret).curEng.reg n = if 24 ≤ n then u.regs.getD (n - 24) SVal.zero else s.curEng.reg n := by
    intro n hn
    rw [State.curEng_of_cur hcur, heng]
    exact Engine.leaveSup_reg hsup hlen n hn
  refine ⟨s.went h .eret, performWord_plain_went hi.grp ht rfl rfl, ?_, ?_, ?_, ?_, ?_, fun n hn => ?_, fun n v hn hv => ?_⟩
  · rw [State.curEng_of_cur hcur, heng]; simp [Engine.leaveSup, hu]
  · rw [State.curEng_of_cur hcur, heng]; simp [Engine.leaveSup, hu]
  · rw [State.curEng_of_cur hcur, heng]; simp [Engine.leaveSup, hu, Engine.ended, Engine.retired]
  · rw [State.curEng_of_cur hcur, heng]; simp [Engine.leaveSup, hu]
  · rw [State.curEng_of_cur hcur, heng]; simp [Engine.leaveSup, hu]
  · rw [hreg n (by omega), if_neg (by omega)]
  · rw [hreg _ (by omega), if_pos (by omega), Nat.add_sub_cancel_left, List.getD_eq_getElem?_getD, hv]
    rfl

end Sys2Proof.Machine
end

section
/-! SUPPORT. The watch of a task (10 R177), and the words that drop cached entries (04 R83). -/

namespace Sys2Proof.Machine

-- the tasks of the part

theorem Store.mem_put {xs : Store α} {k : Nat} {a : α} {x : Nat × α} (h : x ∈ Store.put xs k a) : x = (k, a) ∨ x ∈ xs := by
  induction xs with
  | nil => exact .inl (by simpa [Store.put] using h)
  | cons y xs ih =>
    obtain ⟨j, b⟩ := y
    rw [Store.put] at h
    split at h
    · rcases List.mem_cons.mp h with h | h
      · exact .inl h
      · exact .inr h
    · split at h
      · rcases List.mem_cons.mp h with h | h
        · exact .inl h
        · exact .inr (List.mem_cons_of_mem _ h)
      · rcases List.mem_cons.mp h with h | h
        · exact .inr (by simp [h])
        · exact (ih h).imp id (List.mem_cons_of_mem _)

theorem Store.mem_of_find? {xs : Store α} {k : Nat} {a : α} (h : Store.find? xs k = some a) : (k, a) ∈ xs := by
  induction xs with
  | nil => cases h
  | cons y xs ih =>
    obtain ⟨j, b⟩ := y
    rw [Store.find?_cons] at h
    split at h
    · next hj => cases h; subst hj; exact List.mem_cons_self ..
    · exact List.mem_cons_of_mem _ (ih h)

@[simp] theorem State.info_setInfo (s : State) (n : Nat) (t : TaskInfo) : (s.setInfo n t).info n = some t := by
  simp [State.info, State.setInfo]

/-- Nobody watches or waits on a line of the bytes. -/
theorem State.minded_nil_iff {s : State} {a n : Nat} : s.minded a n = [] ↔
    ∀ x ∈ s.sched.tasks, (∀ w, x.2.watch = some w → ¬(a < 128 * (w.line + 1) ∧ 128 * w.line < a + n)) ∧
      ∀ k, x.2.home = some k → ¬(a < 128 * (lineOf k + 1) ∧ 128 * lineOf k < a + n) := by
  simp only [State.minded, List.filter_eq_nil_iff, List.mem_flatMap, List.mem_append, Option.mem_toList, Option.map_eq_some_iff,
    Bool.and_eq_true, decide_eq_true_eq]
  constructor
  · intro h x hx
    exact ⟨fun w hw => h w.line ⟨x, hx, .inl ⟨w, hw, rfl⟩⟩, fun k hk => h (lineOf k) ⟨x, hx, .inr ⟨k, hk, rfl⟩⟩⟩
  · rintro h l ⟨x, hx, ⟨w, hw, rfl⟩ | ⟨k, hk, rfl⟩⟩
    · exact (h x hx).1 w hw
    · exact (h x hx).2 k hk

/-- A write of the part to bytes that nobody minds wakes nobody. -/
theorem State.partWrite_unminded {s : State} {a : Nat} {bs : List Byte} (h : s.minded a bs.length = []) :
    s.partWrite a bs = s.partPut a bs := by
  have hm : (s.partPut a bs).minded a bs.length = [] := h
  simp [State.partWrite, State.wakeSpan, hm]

theorem State.partPut_info (s : State) (a : Nat) (bs : List Byte) (n : Nat) : (s.partPut a bs).info n = s.info n := rfl

-- arming

/-- The lowest entry of a watch table of `size` entries that no other task's watch has. -/
def State.freeEntry (s : State) (slot size : Nat) : Option Nat :=
  let nums := (s.sched.tasks.filter (fun x => x.1 != slot)).filterMap (fun x => x.2.watch.bind Watch.num)
  if nums.length < size then (List.range size).find? (fun n => !nums.contains n) else none

theorem State.freeEntry_spec {s : State} {slot size n : Nat} (h : s.freeEntry slot size = some n) :
    n < size ∧ ∀ y ∈ s.sched.tasks, y.1 ≠ slot → ∀ v, y.2.watch = some v → v.num ≠ some n := by
  unfold State.freeEntry at h
  dsimp only at h
  split at h
  · have hfree := List.find?_some h
    refine ⟨List.mem_range.mp (List.mem_of_find?_eq_some h), fun y hy hne v hv hn => ?_⟩
    have : n ∈ (s.sched.tasks.filter (fun x => x.1 != slot)).filterMap (fun x => x.2.watch.bind Watch.num) :=
      List.mem_filterMap.mpr ⟨y, List.mem_filter.mpr ⟨hy, by simpa using hne⟩, by simp [hv, hn]⟩
    simp [this] at hfree
  · cases h

/-- The watch of an arming that takes entry `num` (R177). -/
def State.newWatch (s : State) (slot line : Nat) (num : Option Nat) : Watch :=
  { line := line, gen := s.recGen slot, num := num, woke := num.isNone }

/-- The number of a table entry as a record holds it. -/
def entryCode (num : Option Nat) : Nat := match num with
  | some n => n + 1
  | none => 0xFFFFFF

/-- Arming writes the task's entry and then its record. -/
theorem State.arm_eq {t : State} {k : RunTask} {x : TaskInfo} {line : Nat} {num : Option Nat} (hk : t.curCore.task = some k)
    (hx : t.info k.slot = some x) (hn : t.freeEntry k.slot 16384 = num) {u : State}
    (hu : u = t.setInfo k.slot { x with watch := some (t.newWatch k.slot line num) }) :
    t.arm line = u.setRecWord k.slot 0x38 (setBits (u.recWord k.slot 0x38) 24 24 (entryCode num)) := by
  unfold State.freeEntry at hn
  dsimp only at hn
  subst hu
  cases num <;> simp only [State.arm, hk, State.modInfo, hx, hn, State.newWatch, entryCode]

/-- R177: the watch is armed, and nobody else wakes. -/
theorem State.arm_info {t : State} {k : RunTask} {x : TaskInfo} {line : Nat} (hk : t.curCore.task = some k)
    (hx : t.info k.slot = some x) (hm : t.minded (t.recAddr k.slot + 0x38) 8 = [])
    (hl : t.recAddr k.slot + 0x38 + 8 ≤ 128 * line ∨ 128 * (line + 1) ≤ t.recAddr k.slot + 0x38) :
    (t.arm line).info k.slot = some { x with watch := some (t.newWatch k.slot line (t.freeEntry k.slot 16384)) } := by
  generalize hn : t.freeEntry k.slot 16384 = num
  let u : State := t.setInfo k.slot { x with watch := some (t.newWatch k.slot line num) }
  have hmin : u.minded (t.recAddr k.slot + 0x38) 8 = [] := by
    rw [State.minded_nil_iff] at hm ⊢
    intro y hy
    rcases Store.mem_put hy with rfl | hy
    · have hxm : (k.slot, x) ∈ t.sched.tasks := Store.mem_of_find? hx
      refine ⟨fun w hw => ?_, fun j hj => (hm _ hxm).2 j hj⟩
      cases hw
      simp only [State.newWatch]
      omega
    · exact hm y hy
  have hlen : ∀ w : Word, ([w].flatMap wordBytes).length = 8 := fun w => by simp [wordBytes, leBytes]
  rw [State.arm_eq hk hx hn (u := u) rfl, State.setRecWord, State.partWords, State.partWrite_unminded (by rw [hlen]; exact hmin),
    State.partPut_info]
  exact State.info_setInfo ..

/-- WATCH arms once its access passes. -/
theorem exec_watch {s t : State} {h : Hdr} {g : Grp} {m : MemOp} {buf : Nat} {off : Int} {ps : List (List Place)}
    (hg : s.curEng.grp = some g) (hm : s.memRef m 128 = (buf, off))
    (ha : s.Accesses .none buf { need := .read, es := 128, align := 128, noView := true } [off] false ps t) :
    exec (.watch h m) s = .next ((t.arm (lineOf (keyOf ps))).went h .next) := by
  change execWatch h m s = _
  rw [execWatch, performWord_member hg, watchEff, hm]
  simp only [memEff_of ha]
  rfl

-- TLBINV and BUFINV (R83)

theorem bitsOf_one (w : Word) (k : Nat) : bitsOf w k 1 = if w.getLsbD k then 1 else 0 := by
  rw [BitVec.getLsbD, Nat.testBit_eq_decide_div_mod_eq, bitsOf]
  have := Nat.mod_two_eq_zero_or_one (w.toNat / 2 ^ k)
  simp only [Nat.pow_one, decide_eq_true_eq]
  split <;> omega

/-- What TLBINV keeps. -/
theorem TlbE.overlaps_iff (e : TlbE) (ctx : BitVec 16) (lo : Nat) (b : Word) :
    (!e.overlaps ctx lo b.toNat) = false ↔ e.ctx = ctx ∧ (b = 0 ∨
      (e.vpage * 2 ^ e.log < lo + 65536 * b.toNat ∧ lo < (e.vpage + 1) * 2 ^ e.log)) := by
  have hb : (b.toNat == 0) = true ↔ b = 0 := by
    rw [beq_iff_eq]; exact ⟨fun h => BitVec.eq_of_toNat_eq h, fun h => by rw [h]; rfl⟩
  simp only [TlbE.overlaps, Bool.not_eq_false', Bool.and_eq_true, Bool.or_eq_true, beq_iff_eq, decide_eq_true_eq] at hb ⊢
  rw [hb]

/-- A word that waits for the accesses of L and S before it, and has no guard, comes to its effect (R81, R83). -/
theorem State.settle_quiesce {s t : State} {g : Grp} (h : Hdr) (hg : s.curEng.grp = some g)
    (ha : ∀ e, e = .L ∨ e = .S → e ≠ s.cur.2 → s.accessing s.cur.1 e g.no = false) (ht : t = s.perform s.cur.1)
    (hs : t.curCore.settled = true) (f : State → Eff) : State.settle h (s.quiesce f) = State.settle h (f t) := by
  rw [State.quiesce_go hg ha ht, if_pos hs]

end Sys2Proof.Machine
end

section
/-! Settled: NOP, STAMPB, WATCH and the invalidating words. -/

namespace Sys2Proof.Machine

/-- BUFINV with a reserved bit set faults (LOG 73). -/
theorem exec_bufinv_fault {s : State} {g : Grp} (h : Hdr) {a : SSrc} (hg : s.curEng.grp = some g)
    (h63 : (s.val a).getLsbD 63 = false) (hne : bitsOf (s.val a) 16 47 ≠ 0) :
    exec (.bufinv h a) s = .next (s.memberFault 0x0C (mkWord [(16, 48, 0), (12, 4, 1), (2, 10, 0), (0, 2, g.idx)]) 0 0 0) := by
  have hc : (bitsOf (s.srd a).val 63 1 == 0 && bitsOf (s.srd a).val 16 47 != 0) = true := by
    have h1 : bitsOf (s.srd a).val 63 1 = 0 := by rw [bitsOf_one]; exact if_neg (by simpa [State.val] using h63)
    have h2 : bitsOf (s.srd a).val 16 47 ≠ 0 := hne
    simp [h1, h2]
  change execBufinv h a s = _
  rw [execBufinv, performWord_member hg, bufinvEff, if_pos hc]
  simp only [State.settle, State.memberNo, hg]
  rfl

/-- Settles O19, a word at a time. -/
theorem watchStampInvalidate : Obligations.WatchStampInvalidate := by
  refine ⟨?_, ?_, ?_⟩
  · intro s h g a i hg
    refine ⟨?_, fun m hm => ?_⟩
    · change execNop h s = _
      rw [execNop, performWord_member hg]
      rfl
    · subst hm
      change execStampb h a i s = _
      rw [execStampb, performWord_member hg]
      rfl
  · intro s t h g m buf off ps k x hg hm ha hk hx a haddr hmind hline
    subst haddr
    refine ⟨_, _, exec_watch hg hm ha, State.arm_info hk hx hmind hline, rfl, rfl, ?_, fun n hn => ?_⟩
    · simp [State.newWatch]
    · exact State.freeEntry_spec hn
  · intro s t h g a b hg ha ht hs x hx
    subst hx
    refine ⟨⟨fun e => !e.overlaps t.curCore.ctx (bitsOf (s.val a) 16 40 * 65536) (s.val b).toNat, ?_, fun e => ?_⟩,
      fun hok => ⟨fun e => !(bitsOf (s.val a) 63 1 == 1 || (e.ctx == t.curCore.ctx && e.idx == bitsOf (s.val a) 0 16)), ?_,
        fun e => ?_⟩,
      fun h63 hne => exec_bufinv_fault h hg h63 hne⟩
    · change execTlbinv h a b s = _
      rw [execTlbinv, performWord_member hg, tlbinvEff, State.settle_quiesce _ hg ha ht hs]
      rfl
    · exact TlbE.overlaps_iff ..
    · have hc : (bitsOf (s.srd a).val 63 1 == 0 && bitsOf (s.srd a).val 16 47 != 0) = false := by
        rcases hok with h63 | h0
        · have : bitsOf (s.srd a).val 63 1 = 1 := by rw [bitsOf_one]; exact if_pos h63
          simp [this]
        · have : bitsOf (s.srd a).val 16 47 = 0 := h0
          simp [this]
      change execBufinv h a s = _
      rw [execBufinv, performWord_member hg, bufinvEff, hc]
      simp only [Bool.false_eq_true, if_false]
      rw [State.settle_quiesce _ hg ha ht hs]
      rfl
    · have h63 : (bitsOf (s.val a) 63 1 == 1) = (s.val a).getLsbD 63 := by
        rw [bitsOf_one]; cases (s.val a).getLsbD 63 <;> rfl
      simp only [h63, Bool.not_eq_false', Bool.or_eq_true, Bool.and_eq_true, beq_iff_eq]

end Sys2Proof.Machine
end

section
/-! Settled: the scalar loads and stores (O25). The lines that a CLD fills hold the key generation of its context as the access found
it; the statement takes the one after the core's earlier writes are performed, which may have changed the context table. -/

namespace Sys2Proof.Machine

/-- The group of one member that issued under context 0. -/
def cldGrp : Grp where
  first := 8
  size := 1
  idx := 0
  csr := Csrs.reset
  kcsr := (0, 0, 1, 0)
  cyc := 0
  gsc := 0
  band := 0
  pkg := 0
  flags := 0
  owes := none
  flow := .next
  again := false
  snap := none
  no := 0

/-- A pending write of one byte in layer H. -/
def cldPend (key : Nat) (b : Byte) (kid : Nat) : PendW :=
  { cells := [(key, b, 0xFF)], layer := 0, so := false, word := false, line := false, via := [], kid := kid, acc := 0, epoch := 0,
    rank := 0 }

/-- Core 0 with buffer 1, constant, at 0x10000 of HBM, its L1 on. Context 0 names key slot 1. Two writes wait: one to the line that is
loaded, and one that makes context 0 name key slot 2. -/
def cldState : State :=
  let s := State.reset.modCore 0 (fun k => { k with
    bufc := [{ ctx := 0, idx := 1, words := [0x8000000000010000, 0x0191000000001000, 0xFFFF0000, 0] }]
    tlb := [{ ctx := 0, vpage := 0, log := 30, frame := 0, kind := 1, w := true }]
    btlast := 1
    l1split := 1
    fsat := true
    wq := [cldPend 0x10008 7 1, cldPend 18 2 0]
    eS := { k.eS with grp := some cldGrp } })
  { s with mem := [(18, 1), (19, 4)], cur := (0, .S),
           mgmt := { s.mgmt with keys := [(1, { k1 := 0, k2 := 0, gen := 1 }), (2, { k1 := 0, k2 := 0, gen := 2 })] } }

/-- The places of the first double word of buffer 1. -/
def cldPlaces : List (List Place) :=
  match (cldState.access cldState.whoCur 1 (rForm .const 8) [0]).2 with
  | .ok ps => ps
  | .error _ => []

/-- The package once both writes are performed. -/
def cldDone : State := (cldState.access cldState.whoCur 1 (rForm .const 8) [0]).1.drain 0

/-- The key generation of the line of 0x10000 in the L1 of core 0. -/
def State.cldKid (s : State) : Option Nat := ((s.core 0).l1.find? 512).map Line.kid

/-- The same after a step. -/
def cldKidOf : Host.Outcome State Fault Refusal → Option Nat
  | .next s => s.cldKid
  | _ => none

def cldHdr : Hdr := ⟨true, 0, 0, 0, false⟩
def cldMem : MemOp := ⟨.imm 1, .s 0, 0, .none⟩

theorem cldState_accesses :
    cldState.Accesses .none 1 (rForm .const (2 ^ (3 : BitVec 2).toNat)) [0] false cldPlaces cldDone := by
  refine ⟨by decide +kernel, by decide +kernel, by decide +kernel, .inr (by decide +kernel), ?_, by decide +kernel, by decide +kernel,
    by decide +kernel⟩
  exact (if_pos (by decide +kernel)).symm

/-- The line that the CLD fills is of generation 1, that of its context when it is checked. -/
theorem cldKid_of_exec : cldKidOf (exec (.cld cldHdr 3 false (.s 1) cldMem) cldState) = some 1 := by decide +kernel

/-- Filled under the generation after the writes, it would be of generation 2. -/
theorem cldKid_of_done : (((cldDone.prepare cldDone.cur.1 cldDone.curKid cldPlaces.flatten).afterLoad cldDone.cur.1
    cldPlaces.flatten).loaded cldHdr (.s 1) (scalarOf false (cldPlaces.flatten.map ((cldDone.prepare cldDone.cur.1 cldDone.curKid
      cldPlaces.flatten).loadByte cldDone.cur.1 cldDone.curKid)))).cldKid = some 2 := by decide +kernel

/-- Refutes O25: two writes of the core wait as a coherent CLD of one of their lines is checked; performing them first, as the order of
13 R247 asks, changes the key slot of the context, and the line is filled under the generation that the access was checked with. -/
theorem not_scalarMemoryWords : ¬ Obligations.ScalarMemoryWords := by
  unfold Obligations.ScalarMemoryWords
  intro hall
  obtain ⟨-, -, hcld, -⟩ := hall cldState cldDone cldHdr cldGrp 3 false (.s 1) (.s 0) cldMem 1 0 cldPlaces (by decide +kernel)
    (by decide +kernel)
  have h := congrArg cldKidOf (hcld cldState_accesses (by decide +kernel) _ rfl)
  rw [cldKid_of_exec] at h
  have h' := h.trans cldKid_of_done
  exact absurd h' (by decide)

end Sys2Proof.Machine
end

section
/-! SUPPORT. Loads and stores whose access nothing holds back (12 R227 to R232): what such a load brings, with `.sp` and without. -/

namespace Sys2Proof.Machine

/-- A plain load whose access passes: its bytes, once the lines are there. -/
theorem loadEff_of {s t : State} {o : Order} {buf : Nat} {f : Form} {offs : List Int} {ps : List (List Place)}
    (ha : s.Accesses o buf f offs false ps t) (k : List (List (Byte × BitVec 4)) → State → Eff) :
    s.loadEff false o buf f offs k =
      k (ps.map (fun e => e.map ((t.prepare s.cur.1 s.curKid ps.flatten).loadByte s.cur.1 s.curKid)))
        (((t.prepare s.cur.1 s.curKid ps.flatten).sawFlip o ps.flatten).afterLoad s.cur.1 ps.flatten) := by
  simp only [State.loadEff, Bool.false_and, Bool.false_eq_true, if_false]
  rw [memEff_of ha]

/-- Elements of which none fails are all there. -/
theorem firstFail_none {offs : List Int} {rs : List (Except Fail (List Place))} {i : Nat} (hl : rs.length = offs.length)
    (h : firstFail i offs rs = none) : rs = (okPlaces rs).map .ok := by
  induction offs generalizing i rs with
  | nil => simp [List.length_eq_zero_iff.mp hl, okPlaces]
  | cons o os ih =>
    match rs, hl with
    | .error f :: rs, _ => simp [firstFail] at h
    | .ok p :: rs, hl => simpa [okPlaces] using ih (by simpa using hl) (by simpa [firstFail] using h)

theorem State.elements_length (s : State) (w : Who) (d : Desc) (f : Form) (offs : List Int) :
    (s.elements w d f offs).2.length = offs.length := by
  induction offs generalizing s with
  | nil => rfl
  | cons o os ih => simp [State.elements, ih]

/-- An access that passes: its buffer, and its elements with no failure among them. -/
theorem State.access_ok {s : State} {w : Who} {buf : Nat} {f : Form} {offs : List Int} {ps : List (List Place)}
    (h : (s.access w buf f offs).2 = .ok ps) :
    ∃ d, (s.buffer w buf f.need).2 = .ok d ∧
      ((s.buffer w buf f.need).1.elements w d f offs).2 = ps.map .ok ∧
      ((s.buffer w buf f.need).1.elements w d f offs).1 = (s.access w buf f offs).1 := by
  unfold State.access at h ⊢
  generalize hb : s.buffer w buf f.need = b at h ⊢
  obtain ⟨s1, r⟩ := b
  cases r with
  | error e => simp at h
  | ok d =>
    refine ⟨d, rfl, ?_⟩
    dsimp only at h ⊢
    generalize he : s1.elements w d f offs = es at h ⊢
    obtain ⟨s2, rs⟩ := es
    dsimp only at h ⊢
    cases hf : firstFail 0 offs rs with
    | some x => simp [hf] at h
    | none =>
      simp only [hf, Except.ok.injEq] at h
      have hl : rs.length = offs.length := by simpa [he] using s1.elements_length w d f offs
      refine ⟨?_, by simp⟩
      rw [← h]
      exact firstFail_none hl hf

theorem okPlaces_map_ok (ps : List (List Place)) : okPlaces (ps.map .ok) = ps := by
  induction ps with
  | nil => rfl
  | cons p ps ih => simp [okPlaces, ih]

theorem State.spElements_ok (s : State) (c kid es : Nat) (ps : List (List Place)) :
    s.spElements c kid es (ps.map .ok) = ps.map (fun e => e.map (s.loadByte c kid)) := by
  induction ps with
  | nil => rfl
  | cons p ps ih => simp [State.spElements, ih]

/-- A speculative load whose plain form passes every check is the plain load (06 R101). -/
theorem loadEff_sp {s t : State} {buf : Nat} {f : Form} {offs : List Int} {ps : List (List Place)}
    (hn : (f.need == .write) = false) (ha : s.Accesses .none buf f offs false ps t)
    (k : List (List (Byte × BitVec 4)) → State → Eff) :
    s.loadEff true .none buf f offs k = s.loadEff false .none buf f offs k := by
  rw [loadEff_of ha]
  obtain ⟨ht, hok, hord⟩ := ha
  obtain ⟨d, hd, hes, hst⟩ := State.access_ok hok
  rw [hn, ← hst] at hord
  unfold State.loadEff
  simp only [ht, Bool.and_false, Bool.false_eq_true, if_false, if_true]
  generalize hb : s.buffer s.whoCur buf f.need = b at hd hes hord ⊢
  obtain ⟨s1, r⟩ := b
  cases hd
  dsimp only at hes hord ⊢
  generalize he : s1.elements s.whoCur d f offs = e at hes hord ⊢
  obtain ⟨s2, rs⟩ := e
  cases hes
  simp only [okPlaces_map_ok]
  rw [orderedEff_of hord]
  simp [State.spElements_ok, State.sawFlip, Order.acquires]

/-- No operand of an address is poisoned. -/
theorem State.addrPoison_none {s : State} {first : List SVal} {m : MemOp} (hf : ∀ v ∈ first, v.poison = false)
    (hb : ∀ b, m.buf = .reg b → (s.srd b).poison = false) (ho : (s.srd m.off).poison = false) : s.addrPoison first m = none := by
  refine firstPoison_eq_none fun v hv => ?_
  cases hm : m.buf <;> simp only [hm, List.mem_append, List.mem_singleton, List.not_mem_nil, or_false] at hv
  case imm n =>
    rcases hv with hv | rfl
    · exact hf v hv
    · exact ho
  case reg b =>
    rcases hv with (hv | rfl) | rfl
    · exact hf v hv
    · exact hb b hm
    · exact ho

/-- The offset register is the one that is poisoned. -/
theorem State.addrPoison_off {s : State} {m : MemOp} (hb : ∀ b, m.buf = .reg b → (s.srd b).poison = false)
    (ho : (s.srd m.off).poison = true) : s.addrPoison [] m = some (s.srd m.off) := by
  cases hm : m.buf with
  | imm n =>
    rw [State.addrPoison, hm]
    exact firstPoison_append (pre := []) (post := []) (by simp) ho
  | reg b =>
    rw [State.addrPoison, hm]
    exact firstPoison_append (pre := [s.srd b]) (post := []) (by simpa using hb b hm) ho

/-- An access of no places waits for nothing. -/
theorem orderedEff_no_places (s : State) (k : State → Eff) : s.orderedEff .none false false [] k = k s := by
  have hw : s.writesFirst s.cur.1 false [] (s.core s.cur.1) = false := by
    simp [State.writesFirst, State.soLayers, runs, dedup, Core.owes, linesOf, PendW.touches]
  have hf : s.needsFence s.cur.1 (pinsLine .none) [] = false := by
    simp [State.needsFence, State.cachedLines, linesOf, runs, dedup, pinsLine]
  have hm : s.mustWait s.cur.1 false [] = none := by
    simp [State.mustWait, State.blockedOn, State.keysBlocked, State.outKeys, State.homeLines, State.lentHeld, State.lentHeldBy,
      State.roomHeld, State.cachedLines, linesOf, runs, dedup]
  have ht : s.ferryTurn (linesOf []) = true := by simp [State.ferryTurn, linesOf, runs, dedup]
  simp [State.orderedEff, State.beforeRel, State.relDone, State.beforeAcq, Order.releases, Order.acquires, hf, State.turnEff, hw,
    State.heldEff, hm, ht]

theorem firstBad_replicate (n : Nat) (c : BitVec 4) (hn : 0 < n) (b : Byte) : firstBad (List.replicate n (b, c)) = c := by
  obtain ⟨m, rfl⟩ := Nat.exists_eq_succ_of_ne_zero hn.ne'
  rw [List.replicate_succ, firstBad]
  split
  · rfl
  · next h =>
    have hc : c = 0 := by simpa using h
    subst hc
    induction m with
    | zero => rfl
    | succ m ih => simpa [List.replicate_succ, firstBad] using ih (by omega)

/-- A speculative load of one element that fails a check brings poison with the cause (06 R101). -/
theorem loadEff_sp_error {s : State} {buf : Nat} {f : Form} {off : Int} {x : AccFault}
    (ht : s.tablesHeld s.whoCur buf f [off] = false) (hx : (s.access s.whoCur buf f [off]).2 = .error x)
    (k : List (List (Byte × BitVec 4)) → State → Eff) :
    ∃ t, s.loadEff true .none buf f [off] k = k [List.replicate f.es (0, BitVec.ofNat 4 x.fail.cause)] t := by
  unfold State.loadEff
  simp only [ht, Bool.and_false, Bool.false_eq_true, if_false, if_true]
  unfold State.access at hx
  generalize hb : s.buffer s.whoCur buf f.need = b at hx ⊢
  obtain ⟨s1, r⟩ := b
  cases r with
  | error e =>
    simp only [Except.error.injEq] at hx
    subst hx
    simp only [List.map_cons, List.map_nil, okPlaces, List.flatten_nil, orderedEff_no_places, State.spElements]
    exact ⟨_, rfl⟩
  | ok d =>
    dsimp only at hx ⊢
    generalize he : s1.elements s.whoCur d f [off] = es at hx ⊢
    simp only [State.elements] at he
    generalize s1.element s.whoCur d f off = one at he
    obtain ⟨s2, r⟩ := one
    subst he
    cases r with
    | ok ps => simp [firstFail] at hx
    | error e =>
      simp only [firstFail, Except.error.injEq] at hx
      subst hx
      simp only [okPlaces, List.flatten_nil, orderedEff_no_places, State.spElements]
      exact ⟨_, rfl⟩

/-- Bytes that all carry one cause make a poisoned scalar. -/
theorem scalarOf_replicate (sx : Bool) {n : Nat} (hn : 0 < n) {c : BitVec 4} (hc : c ≠ 0) (b : Byte) :
    scalarOf sx (List.replicate n (b, c)) = .bad c := by
  rw [scalarOf, firstBad_replicate n c hn b, if_pos (by simpa using hc)]

end Sys2Proof.Machine
end

section
/-! Settled: the vector loads (O26) and the speculative loads (O27). -/

namespace Sys2Proof.Machine

theorem packFields_fields (w n x : Nat) : packFields w (fields w n x) = x % 2 ^ (w * n) := by
  induction n generalizing x with
  | zero => simp [fields, packFields, Nat.mod_one]
  | succ n ih => simp only [fields, packFields, ih, Nat.mod_mod, Nat.mul_succ, Nat.add_comm (w * n) w, pow_add, ← Nat.mod_mul]

/-- A bit vector cut into fields and put together again. -/
theorem packFields_fields_toNat {w n m : Nat} (x : BitVec m) (h : w * n = m) : packFields w (fields w n x.toNat) = x.toNat := by
  subst h
  rw [packFields_fields, Nat.mod_eq_of_lt x.isLt]

theorem length_fields (w n x : Nat) : (fields w n x).length = n := by
  induction n generalizing x with
  | zero => rfl
  | succ n ih => simp [fields, ih]

theorem badIndexLane_sound (sz : BitVec 2) {ix : List El} (h : ∀ e ∈ ix, e.bad = false) (i : Nat) : badIndexLane sz ix i = false := by
  unfold badIndexLane
  split
  · cases hi : ix[i / 2]? with
    | none => rfl
    | some e => simpa using h e (List.mem_of_getElem? hi)
  · simp only [List.any_eq_false, Bool.not_eq_true]
    exact fun e he => h e (List.mem_of_mem_drop (List.mem_of_mem_take he))

/-- No lane is cleared where no index is poisoned. -/
theorem VVal.zeroLanes_sound (v : VVal) {sz : BitVec 2} {ix : List El} (h : ∀ e ∈ ix, e.bad = false) :
    v.zeroLanes ((List.range 256).map (badIndexLane sz ix)) = v := by
  have hoff : (List.range 256).map (badIndexLane sz ix) = List.replicate 256 false := by
    refine List.eq_replicate_iff.mpr ⟨by rw [List.length_map, List.length_range], fun b hb => ?_⟩
    obtain ⟨i, -, rfl⟩ := List.mem_map.mp hb
    exact badIndexLane_sound sz h i
  have hkeep (l : List Nat) : ∀ n, l.length ≤ n →
      (l.zip (List.replicate n false)).map (fun x => if x.2 then 0 else x.1) = l := by
    induction l with
    | nil => simp
    | cons a l ih =>
      rintro (_ | n) hn
      · simp at hn
      · rw [List.replicate_succ, List.zip_cons_cons, List.map_cons, ih n (by simpa using hn)]
        simp
  rw [VVal.zeroLanes, hoff, hkeep _ 256 (length_fields 32 256 _).le, packFields_fields_toNat v.data rfl, BitVec.ofNat_toNat, BitVec.setWidth_eq]

/-- Elements with sound indices take their bytes in order. -/
theorem spread_sound (sz : BitVec 2) {ix : List El} {bs : List (List (Byte × BitVec 4))} (c : BitVec 4)
    (h : ∀ e ∈ ix, e.bad = false) (hl : bs.length = ix.length) : vldxEff.spread sz ix bs c = bs := by
  induction ix generalizing bs with
  | nil => simp [List.length_eq_zero_iff.mp hl, vldxEff.spread]
  | cons x xs ih =>
    match bs, hl with
    | b :: bs, hl =>
      simp [vldxEff.spread, h x (by simp), ih (fun e he => h e (by simp [he])) (by simpa using hl)]

/-- The offsets of a strided form, as the statements list them. -/
theorem strided_eq (off stride : Int) (n : Nat) : (List.range n).map (fun i => off + (i : Int) * stride) = strided off stride n := by
  simp only [strided, List.bind_eq_flatMap, List.pure_def, List.map_flatMap, List.map_singleton]
  exact List.map_eq_flatMap.symm

theorem filter_sound {ix : List El} (h : ∀ e ∈ ix, e.bad = false) : ix.filter (fun x => !x.bad) = ix :=
  List.filter_eq_self.mpr fun e he => by simp [h e he]

/-- Settles O26: each form passes its offsets to the one rule of a load that nothing holds back. -/
theorem vectorLoads : Obligations.VectorLoads := by
  unfold Obligations.VectorLoads
  rintro s t r u h g sz d a x m buf off ps hg hm rfl rfl bs rfl
  refine ⟨fun ha => ?_, fun ha => ?_, fun hs ha hl => ?_, fun ha => ?_⟩
  · change execVld h false d m s = _
    rw [execVld, performWord_member hg, vldEff]
    simp only [Bool.false_eq_true, if_false, hm]
    rw [pieces16, loadEff_of ha]
    rfl
  · change execVlds h sz false d a m s = _
    rw [execVlds, performWord_member hg, vldsEff]
    simp only [Bool.false_eq_true, if_false, hm]
    rw [strided_eq, State.val] at ha
    rw [pow2, loadEff_of ha]
    rfl
  · change execVldx h sz false d x m s = _
    rw [execVldx, performWord_member hg, vldxEff]
    simp only [Bool.false_eq_true, if_false, hm]
    rw [filter_sound hs, indexed, pow2, loadEff_of ha, VVal.zeroLanes_sound _ hs, spread_sound sz _ hs (by simpa using hl)]
    rfl
  · change execVldb h sz false d m s = _
    rw [execVldb, performWord_member hg, vldbEff]
    simp only [Bool.false_eq_true, if_false, hm]
    rw [pow2, loadEff_of ha]
    rfl

/-- Settles O27. -/
theorem speculativeLoads : Obligations.SpeculativeLoads := by
  unfold Obligations.SpeculativeLoads
  refine ⟨fun s t h g sz sx d v a m buf off ps hg ho hoff hsa hb => ⟨fun hm ha => ?_, fun hm ha => ?_, fun hm ha => ?_,
    fun hm ha => ?_⟩, fun s h g sz sx d m buf off hg ho hb hm => ⟨fun hoff => ?_, fun hoff ht x hx h16 h0 => ?_⟩⟩
  · change execLds h sz sx true d m s = execLds h sz sx false d m s
    rw [execLds, execLds, performWord_member hg, performWord_member hg, ldsEff, ldsEff]
    simp only [Bool.false_eq_true, if_false, if_true, State.addrPoison_none (first := []) (by simp) hb hoff, pow2, hm, ho]
    rw [loadEff_sp rfl ha]
    rfl
  · change execVld h true v m s = execVld h false v m s
    rw [execVld, execVld, performWord_member hg, performWord_member hg, vldEff, vldEff]
    simp only [Bool.false_eq_true, if_false, if_true, State.addrPoison_none (first := []) (by simp) hb hoff, hm, ho]
    rw [loadEff_sp rfl ha]
    rfl
  · rw [State.val] at ha
    change execVlds h sz true v a m s = execVlds h sz false v a m s
    rw [execVlds, execVlds, performWord_member hg, performWord_member hg, vldsEff, vldsEff]
    simp only [Bool.false_eq_true, if_false, if_true, State.addrPoison_none (first := [s.srd a]) (by simpa using hsa) hb hoff, pow2,
      hm, ho]
    rw [loadEff_sp rfl ha]
    rfl
  · change execVldb h sz true v m s = execVldb h sz false v m s
    rw [execVldb, execVldb, performWord_member hg, performWord_member hg, vldbEff, vldbEff]
    simp only [Bool.false_eq_true, if_false, if_true, State.addrPoison_none (first := []) (by simp) hb hoff, pow2, hm, ho]
    rw [loadEff_sp rfl ha]
    rfl
  · change execLds h sz sx true d m s = _
    rw [execLds, performWord_member hg, ldsEff]
    simp only [if_true, State.addrPoison_off hb hoff]
    rfl
  · change ∃ t, execLds h sz sx true d m s = _
    rw [execLds, performWord_member hg, ldsEff]
    simp only [if_true, State.addrPoison_none (first := []) (by simp) hb hoff, pow2, hm, ho]
    obtain ⟨t, ht⟩ := loadEff_sp_error ht hx (fun es s => loadedScalar d (scalarOf sx es.flatten) s)
    rw [ht]
    have hc : BitVec.ofNat 4 x.fail.cause ≠ 0 := fun hz => h0 (by simpa [Nat.mod_eq_of_lt h16] using congrArg BitVec.toNat hz)
    refine ⟨t, ?_⟩
    rw [List.flatten_singleton, scalarOf_replicate sx (by simp [rForm]) hc]
    rfl

end Sys2Proof.Machine
end

section
/-! SUPPORT. The bytes and nibbles of a vector register as the stores take them (12 R230, R232). -/

namespace Sys2Proof.Machine

theorem getElem?_fields (w n x i : Nat) (hi : i < n) : (fields w n x)[i]? = some (x / 2 ^ (w * i) % 2 ^ w) := by
  induction n generalizing x i with
  | zero => omega
  | succ n ih =>
    rw [fields]
    cases i with
    | zero => simp
    | succ i => rw [List.getElem?_cons_succ, ih _ _ (by omega), Nat.div_div_eq_div_mul, ← pow_add, Nat.mul_succ, Nat.add_comm w]

theorem length_vecBytes (v : VVal) : (vecBytes v).length = 1024 := by
  rw [vecBytes, List.length_map, length_fields]

/-- The bytes of a register in order are its data bytes. -/
theorem eq_vecBytes {v : VVal} {bs : List Byte} (hl : bs.length = 1024)
    (h : ∀ i, i < 1024 → bs[i]? = some (v.data.extractLsb' (8 * i) 8)) : bs = vecBytes v := by
  refine List.ext_getElem? fun i => ?_
  by_cases hi : i < 1024
  · rw [h i hi, vecBytes, List.getElem?_map, getElem?_fields 8 1024 _ i hi, Option.map_some]
    refine congrArg some (BitVec.eq_of_toNat_eq ?_)
    simp [Nat.shiftRight_eq_div_pow]
  · rw [List.getElem?_eq_none (by omega), List.getElem?_eq_none (by rw [length_vecBytes]; omega)]

/-- A bit pair, its low and its high bit. -/
theorem bitPair (x i : Nat) : (x / 2 ^ (2 * i) % 2 ^ 2 % 2 == 1) = x.testBit (2 * i) ∧
    (x / 2 ^ (2 * i) % 2 ^ 2 / 2 == 1) = x.testBit (2 * i + 1) := by
  rw [Nat.testBit_eq_decide_div_mod_eq, Nat.testBit_eq_decide_div_mod_eq, pow_succ 2 (2 * i), ← Nat.div_div_eq_div_mul]
  generalize x / 2 ^ (2 * i) = y
  constructor
  · rw [show y % 2 ^ 2 % 2 = y % 2 by omega]
    rfl
  · rw [show y % 2 ^ 2 / 2 = y / 2 % 2 by omega]
    rfl

/-- The masks that two bits for each byte spell out are those of VSTN (12 R232). -/
theorem eq_nibMasks {v : VVal} {ms : List Byte} (hl : ms.length = 1024)
    (h : ∀ i, i < 1024 → ms[i]? = some ((if v.data.getLsbD (2 * i) then 0x0F else 0) |||
      (if v.data.getLsbD (2 * i + 1) then 0xF0 else 0))) : ms = nibMasks v := by
  refine List.ext_getElem? fun i => ?_
  by_cases hi : i < 1024
  · rw [h i hi, nibMasks, List.getElem?_map, getElem?_fields 2 1024 _ i hi, Option.map_some]
    obtain ⟨hlo, hhi⟩ := bitPair v.data.toNat i
    rw [hlo, hhi]
    rfl
  · rw [List.getElem?_eq_none (by omega), List.getElem?_eq_none]
    rw [nibMasks, List.length_map, length_fields]
    omega

end Sys2Proof.Machine
end

section
/-! Settled: the vector stores (O28). -/

namespace Sys2Proof.Machine

/-- Settles O28: each form passes its offsets and its bytes to the one store of places. -/
theorem vectorStores : Obligations.VectorStores := by
  unfold Obligations.VectorStores
  rintro s t h g sz a x d m buf off ps hg hm bs hl hb put hput
  have hbs : bs = vecBytes (s.vrd a) := eq_vecBytes hl hb
  refine ⟨fun ha => ?_, fun ha => ?_, fun ha => ?_, fun ha ms hml hmb => ?_⟩
  · change execVst h a m s = _
    rw [execVst, performWord_member hg, vstEff]
    simp only [hm, vstoreEff]
    rw [memEff_of ha, hput, hbs]
    rfl
  · change execVsts h sz a d m s = _
    rw [strided_eq, State.val] at ha
    rw [execVsts, performWord_member hg, vstsEff]
    simp only [hm, vstoreEff, pow2]
    rw [memEff_of ha, hput, hbs]
    rfl
  · change execVstx h sz a x m s = _
    rw [execVstx, performWord_member hg, vstxEff]
    simp only [hm, vstoreEff, pow2, indexed]
    rw [memEff_of ha, hput, hbs]
    rfl
  · change execVstn h a x m s = _
    rw [execVstn, performWord_member hg, vstnEff]
    simp only [hm]
    rw [memEff_of ha, hput, hbs, eq_nibMasks hml hmb]
    rfl

end Sys2Proof.Machine
end

section
/-! Settled: the atomics (O30). -/

namespace Sys2Proof.Machine

theorem SDst.silent_eq (d : SDst) : SDst.silent d = decide (d = .s 0) := by
  cases d with
  | z => rfl
  | s n =>
    rw [SDst.silent]
    by_cases hn : n = 0
    · subst hn; rfl
    · have hv : n.val ≠ 0 := fun hv => hn (Fin.ext hv)
      simp [hn, hv]

/-- What an integer read of `w` bits, taken to 64, keeps of them. -/
theorem readInt_word (sx : Bool) {w x : Nat} (hw : w ≤ 64) :
    (BitVec.ofInt 64 (readInt sx w x)).toNat % 2 ^ w = x % 2 ^ w := by
  have hcong : readInt sx w x % (2 ^ w : Int) = x % (2 ^ w : Int) := by
    rw [readInt]
    split <;> simp
  have hnn : 0 ≤ readInt sx w x % (2 ^ 64 : Int) := Int.emod_nonneg _ (by decide)
  have hdvd : (2 ^ w : Int) ∣ (2 ^ 64 : Int) := by exact_mod_cast Nat.pow_dvd_pow 2 hw
  rw [BitVec.toNat_ofInt]
  zify
  rw [Int.toNat_of_nonneg hnn, Int.emod_emod_of_dvd _ hdvd, hcong]

/-- The extremes by the signed reading. -/
theorem readInt_amoInt_min (w old x : Nat) :
    readInt true w (amoInt .min w old x) = Min.min (readInt true w old) (readInt true w x) := by
  rw [amoInt]
  split <;> omega

theorem readInt_amoInt_max (w old x : Nat) :
    readInt true w (amoInt .max w old x) = Max.max (readInt true w old) (readInt true w x) := by
  rw [amoInt]
  split <;> omega

/-- CAS on sound storage compares and swaps (12 R234). -/
theorem State.compareSwap_of_sound {s w : State} {c kid key n expect x : Nat}
    (hw : w = (s.toHome c (lineOf key)).reach [lineOf key]) (hb : w.badAt key = 0) :
    s.compareSwap c kid key n expect x =
      (if w.homeNat kid key n = expect % 2 ^ (8 * n) then w.putHome kid (natCells key n x) else w, .ok (w.homeNat kid key n)) := by
  subst hw
  simp only [State.compareSwap, hb, bne_self_eq_false, Bool.false_eq_true, if_false, beq_iff_eq]

/-- Settles O30. -/
theorem atomicWords : Obligations.AtomicWords := by
  unfold Obligations.AtomicWords
  refine ⟨?_, fun w old x _ _ _ => ⟨rfl, rfl, rfl, rfl, rfl, rfl, rfl, readInt_amoInt_min w old x, readInt_amoInt_max w old x⟩, ?_⟩
  · rintro s t h g op sz d a m buf off ps hg hm u rfl
    refine ⟨fun ha w old hat => ?_, fun ha w hw hb hd old hold => ?_⟩
    · have hexec : exec (.amo h op sz d a m) s = .next (State.settle h (atomicDone w d buf off (.ok (SVal.clean (BitVec.ofInt 64
          (readInt (op == .min || op == .max) (8 * 2 ^ sz.toNat) old)))))) := by
        change execAmo h op sz d a m s = _
        rw [execAmo, performWord_member hg, amoEff]
        simp only [hm, pow2]
        rw [memEff_of ha]
        simp only [State.val, SDst.silent_eq, decide_eq_true_eq] at hat ⊢
        rw [hat]
        rfl
      rw [hexec, atomicDone]
      refine ⟨fun hd => ?_, fun hd => ⟨BitVec.ofInt 64 (readInt (op == .min || op == .max) (8 * 2 ^ sz.toNat) old), ?_,
        readInt_word _ ?_⟩⟩
      · simp [SDst.silent_eq, hd]
        rfl
      · simp [SDst.silent_eq, hd]
        rfl
      · have := sz.isLt
        calc 8 * 2 ^ sz.toNat ≤ 8 * 2 ^ 3 := Nat.mul_le_mul_left _ (Nat.pow_le_pow_right (by decide) (by omega))
          _ = 64 := rfl
    · have hexec : exec (.cas h sz d a m) s = .next (((if old = (s.sold d).val.toNat % 2 ^ (8 * 2 ^ sz.toNat) then
          w.putHome (t.noteAtomic ps.flatten).curKid (natCells (keyOf ps) (2 ^ sz.toNat) (s.val a).toNat) else w).wrote h d
            (BitVec.ofNat 64 old) 0)) := by
        change execCas h sz d a m s = _
        rw [execCas, performWord_member hg, casEff]
        simp only [hm, pow2]
        rw [memEff_of ha, State.compareSwap_of_sound hw hb, ← hold]
        simp [atomicDone, SDst.silent_eq, hd]
        rfl
      rw [hexec]
      exact ⟨fun he => by rw [if_pos he], fun he => by rw [if_neg he]⟩
  · rintro s t h g op ty a m buf off ps hg hm ha
    change execAmov h op ty a m s = _
    rw [strided_eq] at ha
    rw [execAmov, performWord_member hg, amovEff]
    simp only [hm]
    rw [memEff_of ha]
    rfl

end Sys2Proof.Machine
end

section
/-! Settled: the fences and BARR (O31). The statement asks nothing of the list of cores, in which a number may stand twice: what counts
as the state of a core is the first entry, but a release looks at every entry with its number. -/

namespace Sys2Proof.Machine

/-- A line of the L1 with these nibbles dirty, pinned or not. -/
def fenceLine (dirty : BitVec 256) (pinned : Bool) : Line :=
  { data := 0, dirty := dirty, pinned := pinned, kid := 0, badw := 0, bad := false, joint := 0, first := 0, last := 0, rank := 0,
    stale := false, via := [] }

/-- Core 0 with a group in issue and nothing to perform; a second entry with the number 0, where line 5 is dirty; and core 1, which pins
that line. -/
def fenceState : State :=
  { State.reset with
    cur := (0, .S)
    cores := [(0, { Core.reset with eS := { Engine.reset with grp := some cldGrp } }),
              (0, { Core.reset with l1 := [(5, fenceLine 1 false)] }),
              (1, { Core.reset with l1 := [(5, fenceLine 0 true)] })] }

/-- Refutes O31: an LFENCE at `.quad` of a core whose writes are all performed waits where the list of cores holds a second entry with
its number, with a dirty line that another core pins. -/
theorem not_fenceBarrierWords : ¬ Obligations.FenceBarrierWords := by
  unfold Obligations.FenceBarrierWords
  intro hall
  obtain ⟨-, -, hwide⟩ := hall.1 fenceState cldHdr cldGrp .quad 0xF (by decide)
  obtain ⟨hdone, -, -⟩ := hwide (by decide) 1 _ (.inl ⟨by decide, by decide⟩) rfl
  have h := hdone (by decide) (by decide)
  exact absurd h (by decide +kernel)

end Sys2Proof.Machine
end

section
/-! SUPPORT. Lines that take part in nothing but plain storage: nothing is closed, rebuilt or woken as they are reached and written
(11 R221, 12 R236, 10 R177). -/

namespace Sys2Proof.Machine

/-- A fold whose steps change nothing. -/
theorem foldl_eq_self {α β : Type} {f : α → β → α} {a : α} {l : List β} (h : ∀ b ∈ l, f a b = a) : l.foldl f a = a := by
  induction l with
  | nil => rfl
  | cons b l ih =>
    rw [List.foldl_cons, h b (by simp)]
    exact ih fun x hx => h x (by simp [hx])

theorem mem_dedup {x : Nat} {l : List Nat} : x ∈ dedup l ↔ x ∈ l := by
  induction l with
  | nil => simp [dedup]
  | cons y l ih =>
    rw [dedup]
    split
    · next h =>
      rw [ih, List.mem_cons]
      refine ⟨.inr, ?_⟩
      rintro (rfl | h')
      · exact List.contains_iff_mem.mp h
      · exact h'
    · simp [ih]

theorem mem_runs {x : Nat} : ∀ {l : List Nat}, x ∈ runs l ↔ x ∈ l
  | [] => by simp [runs]
  | [y] => by simp [runs]
  | y :: z :: l => by
    rw [runs]
    split
    · next h =>
      have hyz : y = z := by simpa using h
      subst hyz
      rw [mem_runs]
      simp
    · rw [List.mem_cons, mem_runs, List.mem_cons (a := x) (b := y)]

theorem mem_linesOf {l : Nat} {keys : List Nat} : l ∈ linesOf keys ↔ ∃ k ∈ keys, lineOf k = l := by
  rw [linesOf, mem_dedup, mem_runs, List.mem_map]

/-- Nothing watches a line and no record waits on an object in it. -/
def State.quietLine (s : State) (line : Nat) : Prop :=
  ∀ x ∈ s.sched.tasks, (∀ w, x.2.watch = some w → w.line ≠ line) ∧ (∀ k, x.2.home = some k → lineOf k ≠ line)

/-- No batch is open on a line, no error of DRAM stands in it, and nothing watches it. -/
def State.calm (s : State) (line : Nat) : Prop :=
  s.stor.batches.find? line = none ∧ s.stor.dramErr.contains line = false ∧ s.quietLine line

theorem State.plainLine.calm {s : State} {line : Nat} (h : s.plainLine line) : s.calm line := by
  obtain ⟨hb, he, -, -, hq⟩ := h
  exact ⟨hb, he, hq⟩

theorem State.wake_quiet {s : State} {line : Nat} (h : s.quietLine line) : s.wake line = s := by
  refine foldl_eq_self fun x hx => ?_
  obtain ⟨hw, hh⟩ := h x hx
  have hflip : s.flips x.1 x.2 line = false := by
    rw [State.flips]
    split
    · next k hk => simp [hh k hk]
    · rfl
  cases hx : x.2.watch with
  | none => simp [hflip]
  | some w => simp [hw w hx, hflip]

theorem State.reach_calm {s : State} {lines : List Nat} (h : ∀ l ∈ lines, s.calm l) : s.reach lines = s := by
  refine foldl_eq_self fun l hl => ?_
  obtain ⟨hb, he, -⟩ := h l hl
  have hc : s.closeBatch l = s := by rw [State.closeBatch, hb]
  rw [hc, State.rebuild, he]
  rfl

theorem isDram_line {key : Nat} (h : 2 ^ 56 ≤ key) : isDram (128 * lineOf key) = false := by
  refine decide_eq_false (Nat.not_le.mpr ?_)
  rw [lineOf]
  omega

/-- A write beyond the physical addresses to calm lines changes the bytes and the storage errors, and nothing else. -/
theorem State.putHome_calm {s : State} {kid : Nat} {cells : List (Nat × Byte)}
    (h : ∀ x ∈ cells, 2 ^ 56 ≤ x.1 ∧ s.calm (lineOf x.1)) :
    s.putHome kid cells = (s.setMem (putCells s.mem cells)).cleanse (cells.map (fun c => c.1)) := by
  have hl : ∀ l ∈ linesOf (cells.map (fun c => c.1)), isDram (128 * l) = false ∧ s.calm l := by
    intro l hl
    obtain ⟨k, hk, rfl⟩ := mem_linesOf.mp hl
    obtain ⟨x, hx, rfl⟩ := List.mem_map.mp hk
    exact ⟨isDram_line (h x hx).1, (h x hx).2⟩
  have hre : (linesOf (cells.map (fun c => c.1))).foldl (fun s l => s.rekey kid l) s = s :=
    foldl_eq_self fun l hm => by rw [State.rekey, (hl l hm).1]; rfl
  rw [State.putHome]
  simp only [hre]
  exact foldl_eq_self fun l hm => State.wake_quiet (hl l hm).2.2.2

theorem putCells_wf {m : Memory} (cells : List (Nat × Byte)) (h : m.wf = true) : (putCells m cells).wf = true := by
  induction cells generalizing m with
  | nil => exact h
  | cons x cells ih => exact ih (Memory.write_wf _ _ h)

theorem read_putCells_ne {m : Memory} (h : m.wf = true) {cells : List (Nat × Byte)} {k : Nat} (hk : ∀ x ∈ cells, x.1 ≠ k) :
    (putCells m cells).read k = m.read k := by
  induction cells generalizing m with
  | nil => rfl
  | cons x cells ih =>
    obtain ⟨a, b⟩ := x
    rw [putCells, ih (Memory.write_wf a b h) fun y hy => hk y (by simp [hy]), Memory.read_write h, if_neg (hk (a, b) (by simp))]

/-- `t` is `s` with other bytes and other storage errors, on whose calm lines nothing has changed. -/
structure State.Rewritten (s t : State) : Prop where
  rest    : t = { s with mem := t.mem, stor := t.stor }
  batches : t.stor.batches = s.stor.batches
  dramErr : t.stor.dramErr = s.stor.dramErr

theorem State.Rewritten.refl (s : State) : State.Rewritten s s := ⟨rfl, rfl, rfl⟩

theorem State.Rewritten.trans {s t u : State} (h : State.Rewritten s t) (k : State.Rewritten t u) : State.Rewritten s u where
  rest := by rw [k.rest, h.rest]
  batches := k.batches.trans h.batches
  dramErr := k.dramErr.trans h.dramErr

theorem State.Rewritten.calm {s t : State} (h : State.Rewritten s t) {line : Nat} (hc : s.calm line) : t.calm line := by
  obtain ⟨hb, he, hq⟩ := hc
  refine ⟨h.batches ▸ hb, h.dramErr ▸ he, ?_⟩
  rw [State.quietLine, h.rest]
  exact hq

theorem State.putHome_rewritten {s : State} {kid : Nat} {cells : List (Nat × Byte)}
    (h : ∀ x ∈ cells, 2 ^ 56 ≤ x.1 ∧ s.calm (lineOf x.1)) : State.Rewritten s (s.putHome kid cells) := by
  rw [State.putHome_calm h]
  exact ⟨rfl, rfl, rfl⟩

/-- Cells beyond the physical addresses in calm lines. -/
def State.onCalm (s : State) (cells : List Cell) : Prop := ∀ x ∈ cells, 2 ^ 56 ≤ x.1 ∧ s.calm (lineOf x.1)

/-- Masked bytes at home, one after the other. -/
theorem State.homePart_frame {kid : Nat} {cells : List Cell} {s : State} (h : s.onCalm cells) (hm : s.mem.wf = true) :
    State.Rewritten s (cells.foldl (fun s c => s.putHome kid [(c.1, mixByte (s.plain kid c.1) c.2.1 c.2.2)]) s) ∧
    ∀ k, (∀ x ∈ cells, x.1 ≠ k) →
      (cells.foldl (fun s c => s.putHome kid [(c.1, mixByte (s.plain kid c.1) c.2.1 c.2.2)]) s).mem.read k = s.mem.read k := by
  induction cells generalizing s with
  | nil => exact ⟨.refl s, fun _ _ => rfl⟩
  | cons x cells ih =>
    have hx : ∀ y ∈ [(x.1, mixByte (s.plain kid x.1) x.2.1 x.2.2)], 2 ^ 56 ≤ y.1 ∧ s.calm (lineOf y.1) := by
      simpa using h x (by simp)
    have hr := State.putHome_rewritten (kid := kid) hx
    have hmem := congrArg State.mem (State.putHome_calm (kid := kid) hx)
    obtain ⟨h1, h2⟩ := ih (s := s.putHome kid [(x.1, mixByte (s.plain kid x.1) x.2.1 x.2.2)])
      (fun y hy => ⟨(h y (by simp [hy])).1, hr.calm (h y (by simp [hy])).2⟩) (by rw [hmem]; exact putCells_wf _ hm)
    refine ⟨hr.trans h1, fun k hk => (h2 k fun y hy => hk y (by simp [hy])).trans ?_⟩
    rw [hmem]
    exact read_putCells_ne hm (by simpa using hk x (by simp))

/-- Masked bytes in calm lines beyond the physical addresses change those bytes at most (01 R14). -/
theorem State.homeMasked_frame {s : State} {kid : Nat} {cells : List Cell} (h : s.onCalm cells) (hm : s.mem.wf = true) :
    State.Rewritten s (s.homeMasked kid cells) ∧
    ∀ k, (∀ x ∈ cells, x.1 ≠ k) → (s.homeMasked kid cells).mem.read k = s.mem.read k := by
  have hreach : s.reach (linesOf (cells.map (fun c => c.1))) = s := by
    refine State.reach_calm fun l hl => ?_
    obtain ⟨k, hk, rfl⟩ := mem_linesOf.mp hl
    obtain ⟨x, hx, rfl⟩ := List.mem_map.mp hk
    exact (h x hx).2
  -- the bytes with a whole mask
  let full := (cells.filter (fun c => c.2.2 == 0xFF)).map (fun c => (c.1, c.2.1))
  have hfull : ∀ x ∈ full, 2 ^ 56 ≤ x.1 ∧ s.calm (lineOf x.1) := by
    intro x hx
    obtain ⟨y, hy, rfl⟩ := List.mem_map.mp hx
    exact h y (List.mem_of_mem_filter hy)
  obtain ⟨t, ht, hr, hw, hread⟩ : ∃ t, (if (cells.filter (fun c => c.2.2 == 0xFF)).isEmpty then s else s.putHome kid full) = t ∧
      State.Rewritten s t ∧ t.mem.wf = true ∧ ∀ k, (∀ x ∈ cells, x.1 ≠ k) → t.mem.read k = s.mem.read k := by
    split
    · exact ⟨s, rfl, .refl s, hm, fun _ _ => rfl⟩
    · have hmem := congrArg State.mem (State.putHome_calm (kid := kid) hfull)
      refine ⟨_, rfl, State.putHome_rewritten hfull, by rw [hmem]; exact putCells_wf _ hm, fun k hk => ?_⟩
      rw [hmem]
      refine read_putCells_ne hm fun x hx => ?_
      obtain ⟨y, hy, rfl⟩ := List.mem_map.mp hx
      exact hk y (List.mem_of_mem_filter hy)
  obtain ⟨h1, h2⟩ := State.homePart_frame (kid := kid) (cells := cells.filter (fun c => c.2.2 != 0xFF)) (s := t)
    (fun x hx => ⟨(h x (List.mem_of_mem_filter hx)).1, hr.calm (h x (List.mem_of_mem_filter hx)).2⟩) hw
  rw [State.homeMasked]
  simp only [hreach]
  change State.Rewritten s (List.foldl _ (if _ then s else s.putHome kid full) _) ∧ _
  rw [ht]
  exact ⟨hr.trans h1, fun k hk => (h2 k fun x hx => hk x (List.mem_of_mem_filter hx)).trans (hread k hk)⟩

end Sys2Proof.Machine
end

section
/-! SUPPORT. The cells of a store and their units (13 R246), and stores into lines that the L1 holds. -/

namespace Sys2Proof.Machine

-- the cells of a store

/-- The cells of a store, those with no bit to write left out. -/
def storeCells (grain : Nat) (xs : List (Place × Byte × Byte)) : List Aimed :=
  (xs.zipIdx.flatMap (fun x => placeCells grain x.2 x.1.1 x.1.2.1 x.1.2.2)).filter (fun x => x.cell.2.2 != 0)

/-- Both halves of a whole byte lie in it. -/
theorem placeCells_whole {grain i : Nat} {p : Place} {b mask : Byte} (hw : p.whole = true) (hf : p.far_ = none) {y : Aimed}
    (hy : y ∈ placeCells grain i p b mask) : y.at_ = p.at_ ∧ y.key = p.key := by
  have hlo : p.hi = p.lo + 1 ∧ p.lo % 2 = 0 := by simpa [Place.whole] using hw
  have hhi : p.hi / 2 = p.lo / 2 := by omega
  rw [placeCells] at hy
  simp only at hy
  split at hy
  · rw [List.mem_singleton.mp hy]
    exact ⟨rfl, rfl⟩
  · rcases List.mem_cons.mp hy with rfl | hy
    · exact ⟨rfl, rfl⟩
    · rw [List.mem_singleton.mp hy]
      exact ⟨by simp [Place.hiAt, hf], hhi⟩

theorem mem_storeCells {grain : Nat} {xs : List (Place × Byte × Byte)} (h : ∀ x ∈ xs, x.1.whole = true ∧ x.1.far_ = none) {y : Aimed}
    (hy : y ∈ storeCells grain xs) : ∃ x ∈ xs, y.at_ = x.1.at_ ∧ y.key = x.1.key := by
  obtain ⟨⟨x, i⟩, hx, hy⟩ := List.mem_flatMap.mp (List.mem_of_mem_filter hy)
  have hx := List.fst_mem_of_mem_zipIdx hx
  obtain ⟨hw, hf⟩ := h x hx
  exact ⟨x, hx, placeCells_whole hw hf hy⟩

theorem rangesOf_local {cells : List Aimed} (h : ∀ y ∈ cells, y.at_.kind = .loc) : rangesOf cells = [] := by
  have hn : cells.filter (fun x => x.at_.kind != .loc) = [] := List.filter_eq_nil_iff.mpr fun y hy => by simp [h y hy]
  rw [rangesOf, hn]
  rfl

-- the units of a store

theorem mem_unitsOf {xs : List Aimed} {u : List Aimed} (hu : u ∈ unitsOf xs) : ∃ x ∈ xs, u.head? = some x := by
  induction xs generalizing u with
  | nil => simp [unitsOf] at hu
  | cons x xs ih =>
    rw [unitsOf] at hu
    split at hu
    · exact ⟨x, by simp, by simp [List.mem_singleton.mp hu]⟩
    · next v vs hv =>
      rw [hv] at ih
      split at hu
      · split at hu
        · rcases List.mem_cons.mp hu with rfl | hu
          · exact ⟨x, by simp, rfl⟩
          · obtain ⟨y, hy, h⟩ := ih (List.mem_cons_of_mem _ hu)
            exact ⟨y, by simp [hy], h⟩
        · rcases List.mem_cons.mp hu with rfl | hu
          · exact ⟨x, by simp, rfl⟩
          · obtain ⟨y, hy, h⟩ := ih hu
            exact ⟨y, by simp [hy], h⟩
      · rcases List.mem_cons.mp hu with rfl | hu
        · exact ⟨x, by simp, rfl⟩
        · obtain ⟨y, hy, h⟩ := ih (List.mem_cons_of_mem _ hu)
          exact ⟨y, by simp [hy], h⟩

-- what changes one core alone

theorem State.mapAhead_only (s : State) (c : Nat) (f : Eng → Nat → Ahead → Option Ahead) : OnlyCore s (s.mapAhead c f) c := by
  rw [State.mapAhead]
  split
  · exact .refl s c
  · exact .modCore ..

theorem State.afterStore_only (s : State) (c : Nat) (e : Eng) (ps : List Place) : OnlyCore s (s.afterStore c e ps) c := by
  rw [State.afterStore]
  split
  · exact .refl s c
  · exact (State.mapAhead_only ..).trans (State.mapAhead_only ..)

theorem Core.record_keeps (k : Core) (pages : List Nat) :
    (k.record pages).l1 = k.l1 ∧ (k.record pages).wq = k.wq ∧ (k.record pages).l1split = k.l1split := by
  induction pages generalizing k with
  | nil => exact ⟨rfl, rfl, rfl⟩
  | cons p pages ih =>
    rw [Core.record, List.foldl_cons]
    split
    · exact ih k
    · split
      · exact ih { k with fsat := true }
      · exact ih { k with filter := k.filter ++ [p] }

-- nothing lent

/-- No write of a core counts as performed at a scope wider than the core. -/
def Core.unlent (k : Core) : Prop := (∀ z ∈ k.l1, z.2.rank = 0) ∧ ∀ w ∈ k.wq, w.rank = 0

theorem State.core_unlent {s : State} (h : ∀ y ∈ s.cores, y.2.unlent) (c : Nat) : (s.core c).unlent := by
  unfold State.core Store.get
  cases hf : Store.find? s.cores c with
  | none => exact ⟨by simp [Core.reset], by simp [Core.reset]⟩
  | some k => exact h _ (Store.mem_of_find? hf)

theorem State.record_unlent {s : State} {c : Nat} {pages : List Nat} (h : ∀ y ∈ s.cores, y.2.unlent) :
    ∀ y ∈ (s.modCore c (fun k => k.record pages)).cores, y.2.unlent := by
  intro y hy
  rcases Store.mem_put hy with rfl | hy
  · obtain ⟨h1, h2, -⟩ := (s.core c).record_keeps pages
    have hc := State.core_unlent h c
    exact ⟨by rw [h1]; exact hc.1, by rw [h2]; exact hc.2⟩
  · exact h y hy

/-- With nothing lent an agent finds nothing to be performed first (13 R245). -/
theorem State.lentBy_unlent {s : State} (h : ∀ y ∈ s.cores, y.2.unlent) (near : Nat → Nat) (lines : List Nat) :
    s.lentBy near lines = s := by
  refine foldl_eq_self fun x hx => ?_
  obtain ⟨hl, hw⟩ := h x hx
  have hown : x.2.l1.filter (fun y => y.2.rank != 0 && decide (near x.1 ≤ y.2.rank) && y.2.dirty != 0 && lines.contains y.1) = [] :=
    List.filter_eq_nil_iff.mpr fun y hy => by simp [hl y hy]
  have hsent : x.2.wq.any (fun w => w.rank != 0 && decide (near x.1 ≤ w.rank) && w.touches lines) = false :=
    List.any_eq_false.mpr fun w hwq => by simp [hw w hwq]
  simp only [hown, hsent, List.foldl_nil, Bool.false_eq_true, if_false, ite_self]

theorem State.unalias_absent {s : State} {c : Nat} {lines : List Nat} (h : ∀ l ∈ lines, (s.core c).l1.has l = false) :
    s.unalias c lines = s :=
  foldl_eq_self fun l hl => by simp [h l hl]

theorem Core.owes_none {k : Core} {lines : List Nat} (h : ∀ l ∈ lines, k.owes [l] = false) : k.owes lines = false := by
  refine List.any_eq_false.mpr fun w hw hx => ?_
  obtain ⟨x, hx, hl⟩ := List.any_eq_true.mp hx
  have hl' := List.contains_iff_mem.mp hl
  have := List.any_eq_false.mp (h _ hl') w hw
  exact this (List.any_eq_true.mpr ⟨x, hx, by simp⟩)

-- stores into lines that the L1 holds

/-- `t` differs from `s` in core `c` alone, whose L1 is on and holds these lines. -/
structure State.Holding (s t : State) (c : Nat) (lines : List Nat) : Prop where
  only : OnlyCore s t c
  on_  : (t.core c).l1On = true
  has  : ∀ l ∈ lines, (t.core c).l1.has l = true

theorem Core.unpin_has (k : Core) (l : Nat) : k.unpin.l1.has l = k.l1.has l := by
  have hfind (xs : Store Line) : Store.find? (xs.map (fun x => (x.1, { x.2 with pinned := false }))) l =
      (Store.find? xs l).map (fun y => { y with pinned := false }) := by
    induction xs with
    | nil => rfl
    | cons x xs ih =>
      obtain ⟨j, y⟩ := x
      rw [List.map_cons, Store.find?_cons, Store.find?_cons, ih]
      split <;> rfl
  simp only [Store.has, Core.unpin, hfind, Option.isSome_map]

theorem Store.has_put {α : Type} (xs : Store α) (k : Nat) (a : α) (l : Nat) (h : xs.has l = true) : (Store.put xs k a).has l = true := by
  rw [Store.has, Store.find?_put]
  split
  · rfl
  · exact h

theorem State.storeUnit_holding {s t : State} {c kid : Nat} {pin : Bool} {cs : List Cell} {lines : List Nat}
    (h : State.Holding s t c lines) (hl : lineOf (cs.headD (0, 0, 0)).1 ∈ lines) : State.Holding s (t.storeUnit c kid pin cs) c lines := by
  have hfill : t.fill c kid (lineOf (cs.headD (0, 0, 0)).1) = t := by rw [State.fill, if_pos (h.has _ hl)]
  rw [State.storeUnit]
  simp only [hfill]
  refine ⟨h.only.trans (.modCore ..), ?_, fun l hl => ?_⟩
  · rw [State.core_modCore, if_pos rfl]
    split
    · simp only [Core.l1On]
      split <;> exact h.on_
    · exact h.on_
  · rw [State.core_modCore, if_pos rfl]
    split
    · refine Store.has_put _ _ _ _ ?_
      split
      · rw [Core.unpin_has]; exact h.has l hl
      · exact h.has l hl
    · exact h.has l hl

theorem State.storeUnits_holding {s t : State} {c kid : Nat} {pin : Bool} {us : List (List Aimed)} {lines : List Nat}
    (h : State.Holding s t c lines) (hu : ∀ u ∈ us, ∃ x, u.head? = some x ∧ lineOf x.key ∈ lines) :
    State.Holding s (us.foldl (fun s u => s.storeUnit c kid pin (u.map Aimed.cell)) t) c lines := by
  induction us generalizing t with
  | nil => exact h
  | cons u us ih =>
    refine ih (State.storeUnit_holding h ?_) fun v hv => hu v (by simp [hv])
    obtain ⟨x, hx, hl⟩ := hu u (by simp)
    rw [List.headD_eq_head?_getD, List.head?_map, hx]
    exact hl

end Sys2Proof.Machine
end

section
/-! Settled: what a store changes and what it leaves (O29), from the three places a cell can go. -/

namespace Sys2Proof.Machine

-- the three places

/-- The cells that lie in the scratchpad are stored. -/
def State.storeHere (s : State) (c : Nat) (cells : List Aimed) : State :=
  if (cells.filter (fun x => x.at_.kind == .loc)).isEmpty then s
  else s.storeLoc c ((cells.filter (fun x => x.at_.kind == .loc)).map Aimed.cell)

/-- The cells that the L1 serves are stored. -/
def State.storeL1 (s : State) (c kid : Nat) (cells : List Aimed) (pin : Bool) : State :=
  let inL1 := cells.filter (fun x => s.viaL1 c x.at_)
  if inL1.isEmpty then s
  else
    ((unitsOf inL1).foldl (fun s u => s.storeUnit c kid pin (u.map Aimed.cell))
      ((s.lent c (linesOf (inL1.map Aimed.key))).ownFirst c (linesOf (inL1.map Aimed.key)))).modCore c
      (fun k => k.cure (fullKeys inL1))

/-- The other cells join the write path. -/
def State.storeOut (s : State) (c kid : Nat) (cells : List Aimed) : State :=
  let out := cells.filter (fun x => x.at_.kind != .loc && !s.viaL1 c x.at_)
  if out.isEmpty then s
  else
    ((s.lent c (linesOf (out.map Aimed.key))).unalias c (linesOf (out.map Aimed.key))).modCore c (fun k =>
      { (unitsOf out).foldl (fun k u => k.pend kid s.layerAt (fullKeys out) u) k with accNo := k.accNo + 1 })

/-- What a store does before it leaves its mark on what was read ahead. -/
def State.stored (s : State) (c kid : Nat) (cells : List Aimed) (pin : Bool) : State :=
  (((s.modCore c (fun k => k.record (rangesOf cells))).storeHere c cells).storeL1 c kid cells pin).storeOut c kid cells

theorem State.storePlaces_eq (s : State) (c kid n : Nat) (xs : List (Place × Byte × Byte)) (pin : Bool) :
    s.storePlaces c kid n xs pin =
      (s.stored c kid (storeCells n xs) pin).afterStore c (s.stored c kid (storeCells n xs) pin).cur.2 (xs.map (fun x => x.1)) := rfl

theorem filter_nil {α : Type} {p : α → Bool} {l : List α} (h : ∀ x ∈ l, p x = false) : l.filter p = [] :=
  List.filter_eq_nil_iff.mpr fun x hx => by simp [h x hx]

theorem State.storeHere_none {s : State} {c : Nat} {cells : List Aimed} (h : ∀ y ∈ cells, y.at_.kind ≠ .loc) :
    s.storeHere c cells = s := by
  rw [State.storeHere, filter_nil fun y hy => by simp [h y hy]]
  rfl

theorem State.storeL1_none {s : State} {c kid : Nat} {cells : List Aimed} {pin : Bool} (h : ∀ y ∈ cells, y.at_.kind ≠ .cached) :
    s.storeL1 c kid cells pin = s := by
  have hn : cells.filter (fun x => s.viaL1 c x.at_) = [] := filter_nil fun y hy => by simp [State.viaL1, h y hy]
  simp only [State.storeL1, hn, List.isEmpty_nil, if_true]

theorem State.storeOut_none {s : State} {c kid : Nat} {cells : List Aimed}
    (h : ∀ y ∈ cells, y.at_.kind = .loc ∨ s.viaL1 c y.at_ = true) : s.storeOut c kid cells = s := by
  have hn : cells.filter (fun x => x.at_.kind != .loc && !s.viaL1 c x.at_) = [] :=
    filter_nil fun y hy => by rcases h y hy with hl | hv <;> simp [*]
  simp only [State.storeOut, hn, List.isEmpty_nil, if_true]

-- in the scratchpad

/-- A store to the scratchpad alone. -/
theorem State.stored_local {s : State} {c kid : Nat} {cells : List Aimed} {pin : Bool} (h : ∀ y ∈ cells, y.at_.kind = .loc) :
    s.stored c kid cells pin =
      if cells.isEmpty then s.modCore c (fun k => k.record [])
      else (s.modCore c (fun k => k.record [])).storeLoc c (cells.map Aimed.cell) := by
  have hnow : cells.filter (fun x => x.at_.kind == .loc) = cells := List.filter_eq_self.mpr fun y hy => by simp [h y hy]
  rw [State.stored, rangesOf_local h, State.storeL1_none fun y hy => by simp [h y hy],
    State.storeOut_none fun y hy => .inl (h y hy), State.storeHere, hnow]

/-- Bytes stored to calm lines of the scratchpad: no other byte of memory changes. -/
theorem State.storeLoc_read {s : State} {c : Nat} {cells : List Cell} (h : s.onCalm cells) (hm : s.mem.wf = true) {k : Nat}
    (hk : ∀ x ∈ cells, x.1 ≠ k) : (s.storeLoc c cells).mem.read k = s.mem.read k := by
  have hreach : s.reach (linesOf (cells.map (fun x => x.1))) = s := by
    refine State.reach_calm fun l hl => ?_
    obtain ⟨k, hk, rfl⟩ := mem_linesOf.mp hl
    obtain ⟨x, hx, rfl⟩ := List.mem_map.mp hk
    exact (h x hx).2
  rw [State.storeLoc]
  simp only [hreach]
  split
  · rfl
  · exact (State.homeMasked_frame h hm).2 k hk

-- through the core

/-- A store none of whose lines the L1 holds, with nothing lent, changes the core alone. -/
theorem State.storeOut_only {s : State} {c kid : Nat} {cells : List Aimed} (hl : ∀ y ∈ s.cores, y.2.unlent)
    (ha : ∀ y ∈ cells, (s.core c).l1.has (lineOf y.key) = false) : OnlyCore s (s.storeOut c kid cells) c := by
  rw [State.storeOut]
  simp only
  split
  · exact .refl s c
  · rw [State.lent, State.lentBy_unlent hl, State.unalias_absent]
    · exact .modCore ..
    · intro l hm
      obtain ⟨k, hk, rfl⟩ := mem_linesOf.mp hm
      obtain ⟨y, hy, rfl⟩ := List.mem_map.mp hk
      exact ha y (List.mem_of_mem_filter hy)

/-- A store into lines that the L1 holds, with nothing lent and nothing owed to them, changes the core alone, whose L1 stays on. -/
theorem State.storeL1_only {s : State} {c kid : Nat} {cells : List Aimed} {pin : Bool} (hl : ∀ y ∈ s.cores, y.2.unlent)
    (hh : ∀ y ∈ cells, (s.core c).l1.has (lineOf y.key) = true ∧ (s.core c).owes [lineOf y.key] = false)
    (hon : (s.core c).l1On = true) :
    OnlyCore s (s.storeL1 c kid cells pin) c ∧ ((s.storeL1 c kid cells pin).core c).l1On = true := by
  rw [State.storeL1]
  generalize hin : cells.filter (fun x => s.viaL1 c x.at_) = inL1
  have hmem : ∀ l ∈ linesOf (inL1.map Aimed.key), (s.core c).l1.has l = true ∧ (s.core c).owes [l] = false := by
    intro l hm
    obtain ⟨k, hk, rfl⟩ := mem_linesOf.mp hm
    obtain ⟨y, hy, rfl⟩ := List.mem_map.mp hk
    exact hh y (List.mem_of_mem_filter (hin ▸ hy))
  split
  · exact ⟨.refl s c, hon⟩
  · rw [State.lent, State.lentBy_unlent hl, State.ownFirst, Core.owes_none fun l hm => (hmem l hm).2, if_neg (by simp)]
    have hu := State.storeUnits_holding (kid := kid) (pin := pin) (us := unitsOf inL1) ⟨.refl s c, hon, fun l hm => (hmem l hm).1⟩ (by
      intro u hu
      obtain ⟨x, hx, hhd⟩ := mem_unitsOf hu
      exact ⟨x, hhd, mem_linesOf.mpr ⟨x.key, List.mem_map_of_mem hx, rfl⟩⟩)
    refine ⟨hu.only.trans (.modCore ..), ?_⟩
    rw [State.core_modCore, if_pos rfl]
    exact hu.on_

/-- Settles O29: the three places that a cell can go to. -/
theorem storeFrame : Obligations.StoreFrame := by
  unfold Obligations.StoreFrame
  intro t c kid n xs pin hwf hw
  refine ⟨fun hx k hk => ?_, fun hrank => ⟨fun hx => ?_, fun hx hon => ?_⟩⟩
  · have hloc : ∀ y ∈ storeCells n xs, y.at_.kind = .loc := by
      intro y hy
      obtain ⟨x, hm, hat, -⟩ := mem_storeCells hw hy
      exact hat ▸ (hx x hm).1
    have hall : allLocal (xs.map (fun x => x.1)) = true := by
      rw [allLocal, List.all_eq_true]
      rintro p hp
      obtain ⟨x, hm, rfl⟩ := List.mem_map.mp hp
      exact beq_iff_eq.mpr (hx x hm).1
    rw [State.storePlaces_eq, State.afterStore, hall, Bool.or_true, if_pos rfl, State.stored_local hloc]
    split
    · rfl
    · have hcell : ∀ y ∈ (storeCells n xs).map Aimed.cell, ∃ x ∈ xs, y.1 = x.1.key := by
        intro y hy
        obtain ⟨z, hz, rfl⟩ := List.mem_map.mp hy
        obtain ⟨x, hm, -, hkey⟩ := mem_storeCells hw hz
        exact ⟨x, hm, hkey⟩
      refine (State.storeLoc_read (s := t.modCore c (fun k => k.record [])) (fun y hy => ?_) hwf fun y hy => ?_).trans rfl
      · obtain ⟨x, hm, hkey⟩ := hcell y hy
        rw [hkey]
        obtain ⟨-, -, hkey, hplain⟩ := hx x hm
        exact ⟨hkey, hplain.calm⟩
      · obtain ⟨x, hm, hkey⟩ := hcell y hy
        rw [hkey]
        exact hk x hm
  · obtain ⟨hl1, hwq, hsplit⟩ := (t.core c).record_keeps (rangesOf (storeCells n xs))
    have hcell : ∀ y ∈ storeCells n xs, y.at_.kind ≠ .loc ∧ y.at_.kind ≠ .cached ∧ (t.core c).l1.has (lineOf y.key) = false := by
      intro y hy
      obtain ⟨x, hm, hat, hkey⟩ := mem_storeCells hw hy
      rw [hat, hkey]
      exact hx x hm
    have honly : OnlyCore t (t.storePlaces c kid n xs pin) c := by
      rw [State.storePlaces_eq, State.stored, State.storeHere_none fun y hy => (hcell y hy).1,
        State.storeL1_none fun y hy => (hcell y hy).2.1]
      refine (OnlyCore.modCore ..).trans ((State.storeOut_only (State.record_unlent hrank) fun y hy => ?_).trans
        (State.afterStore_only ..))
      rw [State.core_modCore, if_pos rfl, hl1]
      exact (hcell y hy).2.2
    exact ⟨honly.mem, honly.others⟩
  · obtain ⟨hl1, hwq, hsplit⟩ := (t.core c).record_keeps (rangesOf (storeCells n xs))
    have hcell : ∀ y ∈ storeCells n xs, y.at_.kind = .cached ∧ (t.core c).l1.has (lineOf y.key) = true ∧
        (t.core c).owes [lineOf y.key] = false := by
      intro y hy
      obtain ⟨x, hm, hat, hkey⟩ := mem_storeCells hw hy
      rw [hat, hkey]
      exact hx x hm
    have hcore : (t.modCore c (fun k => k.record (rangesOf (storeCells n xs)))).core c =
        (t.core c).record (rangesOf (storeCells n xs)) := by rw [State.core_modCore, if_pos rfl]
    obtain ⟨h1, h2⟩ := State.storeL1_only (kid := kid) (pin := pin) (State.record_unlent (c := c) (pages := rangesOf (storeCells n xs)) hrank)
      (cells := storeCells n xs) (c := c)
      (by rw [hcore, hl1]; exact fun y hy => ⟨(hcell y hy).2.1, by simpa only [Core.owes, hwq] using (hcell y hy).2.2⟩)
      (by rw [hcore, Core.l1On, hsplit]; exact hon)
    have honly : OnlyCore t (t.storePlaces c kid n xs pin) c := by
      rw [State.storePlaces_eq, State.stored, State.storeHere_none fun y hy => by simp [(hcell y hy).1],
        State.storeOut_none fun y hy => .inr (by rw [State.viaL1, (hcell y hy).1, h2]; rfl)]
      exact (OnlyCore.modCore ..).trans (h1.trans (State.afterStore_only ..))
    exact ⟨honly.mem, honly.others⟩

end Sys2Proof.Machine
end

section
/-! SUPPORT. Accesses of the scratchpad, buffer 0 (01 R13): their checks, their places, and that nothing holds them back. -/

namespace Sys2Proof.Machine

/-- Whose tables the member in issue uses: those of its core. -/
@[simp] theorem State.whoCur_core (s : State) : s.whoCur.core = s.cur.1 := by
  unfold State.whoCur
  simp only
  split
  · rfl
  · split <;> rfl

/-- The bytes from a key on. -/
def spadPlaces (key n : Nat) : List Place := (List.range n).map (fun i => placeAt (key + i) 0 .loc)

theorem tablesHeld_spad (s : State) (w : Who) (f : Form) (offs : List Int) : s.tablesHeld w 0 f offs = false := by
  simp [State.tablesHeld, State.tableKeys]

theorem buffer_spad {s : State} {w : Who} {need : Need} (hw : w.core ≤ 255) (hn : (s.core w.core).spad.grants need = true) :
    s.buffer w 0 need = (s, .ok (s.core w.core).spad) := by
  rw [State.buffer, if_neg (by simp; omega), if_pos (by rfl)]
  simp [hn]

/-- The checks of one element of the scratchpad. -/
theorem spad_inside (k : Core) (need : Need) (es : Nat) (off : Int) :
    (rForm need es).inside k.spad off = (decide (0 ≤ off) && decide (off + es ≤ (k.spadLen : Int))) :=
  rfl

theorem spad_aligned (k : Core) (need : Need) (es off : Nat) : (rForm need es).aligned k.spad off = (off % es == 0) := by
  simp [Form.aligned, Core.spad, rForm]

/-- An access within the scratchpad. -/
theorem access_spad {s : State} {need : Need} {es off : Nat} (hc : s.cur.1 ≤ 255) (hn : s.curCore.spad.grants need = true)
    (hl : off + es ≤ s.curCore.spadLen) (ha : off % es = 0) :
    s.access s.whoCur 0 (rForm need es) [(off : Int)] = (s, .ok [spadPlaces (spadKey s.cur.1 off) es]) := by
  have hw : s.whoCur.core ≤ 255 := by simpa using hc
  have hn' : (s.core s.whoCur.core).spad.grants need = true := by simpa [State.curCore] using hn
  have he : s.element s.whoCur (s.core s.whoCur.core).spad (rForm need es) off = (s, .ok (spadPlaces (spadKey s.cur.1 off) es)) := by
    have hin : (rForm need es).inside (s.core s.whoCur.core).spad off = true := by
      rw [spad_inside, State.whoCur_core]
      simp only [Nat.cast_nonneg, decide_true, Bool.true_and, decide_eq_true_eq]
      exact_mod_cast hl
    rw [State.element, hin, Int.toNat_natCast, spad_aligned, ha, State.whoCur_core]
    simp only [spadPlaces, spadKey, Nat.add_assoc]
    rfl
  have hb : s.buffer s.whoCur 0 (rForm need es).need = _ := buffer_spad hw hn'
  simp [State.access, hb, State.elements, he, firstFail, okPlaces, -State.whoCur_core]

/-- One that fails a check, of bounds or of alignment. -/
theorem access_spad_fault {s : State} {need : Need} {es : Nat} {off : Int} (hc : s.cur.1 ≤ 255)
    (hn : s.curCore.spad.grants need = true) {fail : Fail}
    (hf : (off < 0 ∨ (s.curCore.spadLen : Int) < off + es) ∧ fail = fBounds 5 ∨
      0 ≤ off ∧ off + es ≤ (s.curCore.spadLen : Int) ∧ off % es ≠ 0 ∧ fail = fAlign) :
    s.access s.whoCur 0 (rForm need es) [off] = (s, .error { fail := fail, elem := 0, off := off, kind := need.code }) := by
  have hw : s.whoCur.core ≤ 255 := by simpa using hc
  have hn' : (s.core s.whoCur.core).spad.grants need = true := by simpa [State.curCore] using hn
  have he : s.element s.whoCur (s.core s.whoCur.core).spad (rForm need es) off = (s, .error fail) := by
    rw [State.element, spad_inside, State.whoCur_core]
    rcases hf with ⟨hout, rfl⟩ | ⟨h0, hl, ha, rfl⟩
    · rw [if_pos]
      simpa [State.curCore] using hout
    · have hin : decide (off + es ≤ ((s.core s.cur.1).spadLen : Int)) = true := by simpa [State.curCore] using hl
      have hal : (off.toNat % es == 0) = false := by
        have : ((off.toNat % es : Nat) : Int) = off % es := by rw [Int.natCast_mod, Int.toNat_of_nonneg h0]
        simp only [beq_eq_false_iff_ne, ne_eq]
        omega
      rw [spad_aligned, hin, hal]
      simp [h0]
  have hb : s.buffer s.whoCur 0 (rForm need es).need = _ := buffer_spad hw hn'
  simp [State.access, hb, State.elements, he, firstFail, -State.whoCur_core]
  rfl

-- places in the scratchpad

theorem mem_spadPlaces {key n : Nat} {p : Place} (h : p ∈ spadPlaces key n) : ∃ i < n, p = placeAt (key + i) 0 .loc := by
  obtain ⟨i, hi, rfl⟩ := List.mem_map.mp h
  exact ⟨i, List.mem_range.mp hi, rfl⟩

@[simp] theorem placeAt_whole (k va : Nat) (kind : PKind) : (placeAt k va kind).whole = true := by
  simp [placeAt, placeOn, Place.whole]

@[simp] theorem placeAt_key (k va : Nat) (kind : PKind) : (placeAt k va kind).key = k := by
  simp [placeAt, placeOn, Place.key]

@[simp] theorem placeAt_kind (k va : Nat) (kind : PKind) : (placeAt k va kind).kind = kind := rfl

@[simp] theorem placeAt_spots (k va : Nat) (kind : PKind) :
    (placeAt k va kind).spots = [(k, { va := va, kind := kind, page := 0 })] := by
  rw [Place.spots, placeAt_whole, if_pos rfl, placeAt_key]
  rfl

theorem spadPlaces_away (key n : Nat) : (spadPlaces key n).filter (fun p => p.kind != .loc) = [] := by
  refine filter_nil fun p hp => ?_
  obtain ⟨i, -, rfl⟩ := mem_spadPlaces hp
  rfl

theorem spadPlaces_allLocal (key n : Nat) : allLocal (spadPlaces key n) = true := by
  rw [allLocal, List.all_eq_true]
  intro p hp
  obtain ⟨i, -, rfl⟩ := mem_spadPlaces hp
  rfl

theorem spadPlaces_spots (key n : Nat) : (spadPlaces key n).flatMap Place.spots =
    (List.range n).map (fun i => (key + i, ({ va := 0, kind := .loc, page := 0 } : Spot))) := by
  rw [spadPlaces, List.flatMap_map, List.map_eq_flatMap]
  simp only [placeAt_spots]

theorem spadPlaces_outKeys (s : State) (c key n : Nat) : s.outKeys c (spadPlaces key n) = (List.range n).map (fun i => key + i) := by
  rw [State.outKeys, spadPlaces_spots, List.filterMap_map]
  simp [State.viaL1]

theorem spadPlaces_cached (s : State) (c key n : Nat) : s.cachedLines c (spadPlaces key n) = [] := by
  rw [State.cachedLines, spadPlaces_spots, List.filterMap_map]
  simp [State.viaL1, linesOf, runs, dedup]

/-- Nothing holds back an access of bytes of the scratchpad that no other agent holds. -/
theorem ordered_spad {s : State} {key n : Nat} (store : Bool) (hfree : ∀ i, i < n → s.freeKey (key + i))
    (hq : s.stor.ferryQ = []) : s.Ordered .none false store (spadPlaces key n) s := by
  have hso : s.soLayers (spadPlaces key n) = [] := by
    rw [State.soLayers, spadPlaces_spots, List.filterMap_map]
    simp [runs, dedup]
  have hw : s.writesFirst s.cur.1 store (spadPlaces key n) (s.core s.cur.1) = false := by
    rw [State.writesFirst, hso, spadPlaces_away, spadPlaces_cached]
    simp [Core.owes, PendW.touches, linesOf, runs, dedup]
  have hf : s.needsFence s.cur.1 (pinsLine .none) (spadPlaces key n) = false := by
    rw [State.needsFence, spadPlaces_cached]
    simp [pinsLine]
  have hk : s.keysBlocked s.cur.1 (s.outKeys s.cur.1 (spadPlaces key n)) = none := by
    have h1 : ((List.range n).map (fun i => key + i)).any s.ferried = false := by
      rw [List.any_map, List.any_eq_false]
      exact fun i hi => by simp [(hfree i (List.mem_range.mp hi)).1]
    have h2 : (linesOf ((List.range n).map (fun i => key + i))).any (s.pinnedFor s.cur.1) = false := by
      rw [List.any_eq_false]
      intro l hl
      obtain ⟨k, hk, rfl⟩ := mem_linesOf.mp hl
      obtain ⟨i, hi, rfl⟩ := List.mem_map.mp hk
      simp [(hfree i (List.mem_range.mp hi)).2]
    rw [spadPlaces_outKeys, State.keysBlocked, h1, h2]
    rfl
  have hb : s.mustWait s.cur.1 false (spadPlaces key n) = none := by
    rw [State.mustWait, if_pos (by rfl), State.blockedOn, hk, spadPlaces_away]
    simp [State.homeLines, State.outKeys, State.lentHeld, State.lentHeldBy, State.roomHeld, State.cachedLines, linesOf, runs, dedup]
  refine ⟨rfl, .inr hf, ?_, hw, hb, hq⟩
  exact (if_neg fun h => Bool.noConfusion (hw.symm.trans h)).symm

/-- Reading bytes of the scratchpad on calm lines prepares nothing. -/
theorem prepare_spad {s : State} {c kid key n : Nat} (h : ∀ i, i < n → s.calm (lineOf (key + i))) :
    s.prepare c kid (spadPlaces key n) = s := by
  have hl1 : (linesOf (((spadPlaces key n).flatMap Place.spots).filterMap (fun x => if s.viaL1 c x.2 then some x.1 else none))) = [] :=
    spadPlaces_cached s c key n
  have hlent : s.lent c [] = s := by
    refine foldl_eq_self fun x hx => ?_
    simp [PendW.touches]
  have hown : s.ownFirst c [] = s := by simp [State.ownFirst, Core.owes, PendW.touches]
  rw [State.prepare]
  simp only [hl1, spadPlaces_away]
  simp only [State.outKeys, State.homeLines, List.flatMap_nil, List.filterMap_nil, linesOf, List.map_nil, runs, dedup, hlent,
    State.unalias, List.foldl_nil, hown]
  refine State.reach_calm fun l hl => ?_
  obtain ⟨k, hk, rfl⟩ := mem_linesOf.mp (show l ∈ linesOf (s.outKeys c (spadPlaces key n)) from hl)
  rw [spadPlaces_outKeys] at hk
  obtain ⟨i, hi, rfl⟩ := List.mem_map.mp hk
  exact h i (List.mem_range.mp hi)

/-- A byte of the scratchpad on a plain line, as a load reads it. -/
theorem loadByte_spad {s : State} {c kid k : Nat} (h : s.plainLine (lineOf k)) :
    s.loadByte c kid (placeAt k 0 .loc) = (s.mem.read k, 0) := by
  obtain ⟨-, -, hp, hw, -⟩ := h
  have hb : s.badAt k = 0 := by
    rw [State.badAt, hp, hw (k / 8) (by rw [lineOf]; omega)]
    rfl
  have ha : s.aheadByte (placeAt k 0 .loc) = none := by
    rw [State.aheadByte, placeAt_kind]
    simp
  have hlo : (placeAt k 0 .loc).lo / 2 = k := placeAt_key k 0 .loc
  have hhi : (placeAt k 0 .loc).hi / 2 = k := by
    change (2 * k + 1) / 2 = k
    omega
  rw [State.loadByte, ha]
  simp only [State.placeByte, placeAt_whole, if_true, placeAt_key, placeAt_kind, State.coreByte, State.placeBad, hlo, hhi,
    State.coreBad, Place.hiAt]
  simp [hb, placeAt, placeOn]

end Sys2Proof.Machine
end

section
/-! SUPPORT. Little-endian bytes of words and in memory, and a store to calm bytes of the scratchpad. -/

namespace Sys2Proof.Machine

/-- The low bytes of a word, put together. -/
theorem leNat_bytes (w : Word) (n : Nat) : leNat ((List.range n).map (fun i => w.extractLsb' (8 * i) 8)) = w.toNat % 2 ^ (8 * n) := by
  have hgen (x : Nat) : ∀ n, leNat ((List.range n).map (fun i => BitVec.ofNat 8 (x / 2 ^ (8 * i)))) = x % 2 ^ (8 * n) := by
    intro n
    induction n generalizing x with
    | zero => simp [leNat, Nat.mod_one]
    | succ n ih =>
      have hshift (i : Nat) : x / 2 ^ (8 * (i + 1)) = x / 256 / 2 ^ (8 * i) := by
        rw [Nat.div_div_eq_div_mul, Nat.mul_succ, pow_add, Nat.mul_comm]
        rfl
      rw [List.range_succ_eq_map, List.map_cons, List.map_map, leNat]
      simp only [Function.comp_def, Nat.succ_eq_add_one, hshift]
      rw [ih (x / 256), Nat.mul_succ, Nat.add_comm (8 * n) 8, pow_add, Nat.mod_mul]
      simp
  rw [← hgen w.toNat n]
  refine congrArg leNat (List.map_congr_left fun i _ => BitVec.eq_of_toNat_eq ?_)
  simp [Nat.shiftRight_eq_div_pow]

/-- A word that is the zero extension of its low bytes, and one that is their sign extension. -/
theorem ofInt_readInt_low {w : Word} {n : Nat} (hn : 0 < n) (hn8 : n ≤ 8) (sx : Bool)
    (h0 : sx = false → ∀ k, 8 * n ≤ k → w.getLsbD k = false)
    (h1 : sx = true → ∀ k, 8 * n ≤ k → k < 64 → w.getLsbD k = w.getLsbD (8 * n - 1)) :
    BitVec.ofInt 64 (readInt sx (8 * n) (w.toNat % 2 ^ (8 * n))) = w := by
  cases sx with
  | false =>
    have hlt : w.toNat < 2 ^ (8 * n) := Nat.lt_pow_two_of_testBit _ fun i hi => h0 rfl i hi
    rw [Nat.mod_eq_of_lt hlt, readInt]
    simp
  | true =>
    have hint : readInt true (8 * n) (w.toNat % 2 ^ (8 * n)) = (w.setWidth (8 * n)).toInt := by
      have hmsb : (w.setWidth (8 * n)).msb = (w.toNat % 2 ^ (8 * n)).testBit (8 * n - 1) := by
        rw [BitVec.msb_eq_getLsbD_last, BitVec.getLsbD, BitVec.toNat_setWidth]
      rw [BitVec.toInt_eq_msb_cond, hmsb, readInt, BitVec.toNat_setWidth]
      simp
    rw [hint]
    change (w.setWidth (8 * n)).signExtend 64 = w
    refine BitVec.eq_of_getLsbD_eq fun k hk => ?_
    rw [BitVec.getLsbD_signExtend]
    by_cases hlow : k < 8 * n
    · simp [hk, hlow]
    · rw [h1 rfl k (by omega) hk, BitVec.msb_eq_getLsbD_last]
      simp [hk, hlow]
      omega

/-- A clean scalar load: the word that extends its bytes. -/
theorem scalarOf_clean {w : Word} {n : Nat} (hn : 0 < n) (hn8 : n ≤ 8) (sx : Bool) {bs : List Byte} (hl : bs.length = n)
    (hb : ∀ i, i < n → bs[i]? = some (w.extractLsb' (8 * i) 8))
    (h0 : sx = false → ∀ k, 8 * n ≤ k → w.getLsbD k = false)
    (h1 : sx = true → ∀ k, 8 * n ≤ k → k < 64 → w.getLsbD k = w.getLsbD (8 * n - 1)) :
    scalarOf sx (bs.map (fun b => (b, (0 : BitVec 4)))) = .clean w := by
  have hbs : bs = (List.range n).map (fun i => w.extractLsb' (8 * i) 8) := by
    refine List.ext_getElem? fun i => ?_
    by_cases hi : i < n
    · rw [hb i hi, List.getElem?_map, List.getElem?_range hi, Option.map_some]
    · rw [List.getElem?_eq_none (by omega), List.getElem?_eq_none (by simp; omega)]
  have hgood : firstBad (bs.map (fun b => (b, (0 : BitVec 4)))) = 0 := by
    clear hbs hb hl
    induction bs with
    | nil => rfl
    | cons b bs ih => simpa [firstBad] using ih
  rw [scalarOf, hgood, if_neg (by simp), List.length_map, hl, List.map_map]
  have hid : bs.map ((fun b => b.1) ∘ fun b => (b, (0 : BitVec 4))) = bs := List.map_id bs
  rw [hid, hbs, leNat_bytes, ofInt_readInt_low hn hn8 sx h0 h1]

theorem length_leBytes (n x : Nat) : (leBytes n x).length = n := by
  induction n generalizing x with
  | zero => rfl
  | succ n ih => simp [leBytes, ih]

theorem getElem?_leBytes (w : Word) {n i : Nat} (hi : i < n) : (leBytes n w.toNat)[i]? = some (w.extractLsb' (8 * i) 8) := by
  have hgen (x : Nat) : (leBytes n x)[i]? = some (BitVec.ofNat 8 (x / 2 ^ (8 * i))) := by
    induction n generalizing x i with
    | zero => omega
    | succ n ih =>
      rw [leBytes]
      cases i with
      | zero => simp
      | succ i =>
        rw [List.getElem?_cons_succ, ih (by omega), Nat.div_div_eq_div_mul, Nat.mul_succ, pow_add, Nat.mul_comm (2 ^ (8 * i))]
        rfl
  rw [hgen]
  refine congrArg some (BitVec.eq_of_toNat_eq ?_)
  simp [Nat.shiftRight_eq_div_pow]

/-- Bytes one after the other. -/
def runCells : Nat → List Byte → List (Nat × Byte)
  | _, [] => []
  | k, b :: bs => (k, b) :: runCells (k + 1) bs

theorem putCells_run (m : Memory) (k : Nat) (bs : List Byte) : putCells m (runCells k bs) = m.writeN k bs := by
  induction bs generalizing m k with
  | nil => rfl
  | cons b bs ih => exact ih (m.write k b) (k + 1)

theorem runCells_keys {k : Nat} {bs : List Byte} {x : Nat × Byte} (hx : x ∈ runCells k bs) : ∃ i < bs.length, x.1 = k + i := by
  induction bs generalizing k with
  | nil => simp [runCells] at hx
  | cons b bs ih =>
    rcases List.mem_cons.mp hx with rfl | hx
    · exact ⟨0, by simp, rfl⟩
    · obtain ⟨i, hi, h⟩ := ih hx
      exact ⟨i + 1, by simpa using hi, by omega⟩

/-- The cells of a store of whole bytes to the scratchpad. -/
theorem storeCells_spad {grain : Nat} (hg : 2 ≤ grain) (key : Nat) (bs : List Byte) :
    (storeCells grain (wholeBytes (spadPlaces key bs.length) bs)).map Aimed.cell =
      (runCells key bs).map (fun x => (x.1, x.2, (0xFF : Byte))) := by
  have hcell (j k : Nat) (b : Byte) : placeCells grain j (placeAt k 0 .loc) b 0xFF =
      [{ cell := (k, b, 0xFF), at_ := (placeAt k 0 .loc).at_, unit := 2 * j / Nat.max 1 grain }] := by
    have hgr : (placeAt k 0 .loc).grain grain = grain := rfl
    have hge : 2 ≤ Nat.max 1 grain := le_trans hg (Nat.le_max_right 1 grain)
    rw [placeCells]
    simp [hgr, hge]
  have hgen : ∀ (bs : List Byte) (k j : Nat),
      (((((List.range bs.length).map (fun i => placeAt (k + i) 0 .loc)).zip bs).map (fun x => (x.1, x.2, (0xFF : Byte)))).zipIdx j
        |>.flatMap (fun x => placeCells grain x.2 x.1.1 x.1.2.1 x.1.2.2)).map Aimed.cell =
        (runCells k bs).map (fun x => (x.1, x.2, (0xFF : Byte))) := by
    intro bs
    induction bs with
    | nil => intro k j; rfl
    | cons b bs ih =>
      intro k j
      have htail : (List.range bs.length).map ((fun i => placeAt (k + i) 0 .loc) ∘ Nat.succ) =
          (List.range bs.length).map (fun i => placeAt (k + 1 + i) 0 .loc) :=
        List.map_congr_left fun i _ => by simp only [Function.comp_apply, Nat.succ_eq_add_one]; congr 1; omega
      rw [List.length_cons, List.range_succ_eq_map, List.map_cons, List.map_map, htail, List.zip_cons_cons, List.map_cons,
        List.zipIdx_cons, List.flatMap_cons, List.map_append, ih (k + 1) (j + 1), hcell]
      rfl
  have hall : ∀ y ∈ (wholeBytes (spadPlaces key bs.length) bs).zipIdx.flatMap
      (fun x => placeCells grain x.2 x.1.1 x.1.2.1 x.1.2.2), (y.cell.2.2 != 0) = true := by
    intro y hy
    have hy' := List.mem_map_of_mem (f := Aimed.cell) hy
    rw [wholeBytes, spadPlaces, hgen bs key 0] at hy'
    obtain ⟨x, -, hx⟩ := List.mem_map.mp hy'
    rw [← hx]
    rfl
  rw [storeCells, List.filter_eq_self.mpr hall, wholeBytes, spadPlaces, hgen]

/-- Whole bytes stored to calm lines at home. -/
theorem State.homeMasked_run {s : State} {kid key : Nat} {bs : List Byte} (hne : bs ≠ []) (h : ∀ i, i < bs.length → 2 ^ 56 ≤ key + i ∧
    s.calm (lineOf (key + i))) :
    ∃ t, s.homeMasked kid ((runCells key bs).map (fun x => (x.1, x.2, (0xFF : Byte)))) = t ∧ State.Rewritten s t ∧
      t.mem = s.mem.writeN key bs := by
  have hk : ∀ x ∈ runCells key bs, 2 ^ 56 ≤ x.1 ∧ s.calm (lineOf x.1) := by
    intro x hx
    obtain ⟨i, hi, he⟩ := runCells_keys hx
    rw [he]
    exact h i hi
  have hreach : s.reach (linesOf (((runCells key bs).map (fun x => (x.1, x.2, (0xFF : Byte)))).map (fun c => c.1))) = s := by
    refine State.reach_calm fun l hl => ?_
    obtain ⟨k, hm, rfl⟩ := mem_linesOf.mp hl
    obtain ⟨y, hy, rfl⟩ := List.mem_map.mp hm
    obtain ⟨x, hx, rfl⟩ := List.mem_map.mp hy
    exact (hk x hx).2
  have hfull : ((runCells key bs).map (fun x => (x.1, x.2, (0xFF : Byte)))).filter (fun c => c.2.2 == 0xFF) =
      (runCells key bs).map (fun x => (x.1, x.2, (0xFF : Byte))) :=
    List.filter_eq_self.mpr fun y hy => by obtain ⟨x, -, rfl⟩ := List.mem_map.mp hy; rfl
  have hpart : ((runCells key bs).map (fun x => (x.1, x.2, (0xFF : Byte)))).filter (fun c => c.2.2 != 0xFF) = [] :=
    filter_nil fun y hy => by obtain ⟨x, -, rfl⟩ := List.mem_map.mp hy; rfl
  have hback : ((runCells key bs).map (fun x => (x.1, x.2, (0xFF : Byte)))).map (fun c => (c.1, c.2.1)) = runCells key bs := by
    rw [List.map_map]
    exact List.map_id _
  have hsome : ((runCells key bs).map (fun x => (x.1, x.2, (0xFF : Byte)))).isEmpty = false := by
    cases bs with
    | nil => exact absurd rfl hne
    | cons b bs => rfl
  refine ⟨s.putHome kid (runCells key bs), ?_, State.putHome_rewritten hk, ?_⟩
  · rw [State.homeMasked]
    simp only [hreach, hfull, hpart, hback, hsome, Bool.false_eq_true, if_false, List.foldl_nil]
  · rw [State.putHome_calm hk]
    exact putCells_run ..

end Sys2Proof.Machine
end

section
/-! Settled: LDS and STS on the scratchpad (O24). -/

namespace Sys2Proof.Machine

/-- What holds of the member in issue holds of it in a package whose core is the same. -/
theorem State.Issuing.congr {s t : State} {h : Hdr} {g : Grp} (hi : s.Issuing h g) (hcur : t.cur = s.cur)
    (hcore : t.core s.cur.1 = s.core s.cur.1) : t.Issuing h g := by
  obtain ⟨h1, h2, h3, h4, h5, h6, h7⟩ := hi
  have he : t.curEng = s.curEng := by rw [State.curEng, State.curEng, hcur, State.eng, hcore, State.eng]
  have hk : t.curCore = s.curCore := by rw [State.curCore, State.curCore, hcur, hcore]
  refine ⟨he ▸ h1, by rw [hk, hcur]; exact h2, by rw [hk, hcur, he]; exact h3, ?_, ?_, h6, h7⟩
  · rw [State.behind, hcur, hcore]
    exact h4
  · rw [State.unretired, hcur, hcore]
    exact h5

/-- The bytes of an aligned access share a line. -/
theorem lineOf_aligned (c off : Nat) (sz : BitVec 2) (ha : off % 2 ^ sz.toNat = 0) {i : Nat} (hi : i < 2 ^ sz.toNat) :
    lineOf (spadKey c off + i) = lineOf (spadKey c off) := by
  have hsz : sz.toNat = 0 ∨ sz.toNat = 1 ∨ sz.toNat = 2 ∨ sz.toNat = 3 := by have := sz.isLt; omega
  rw [lineOf, lineOf, spadKey]
  rcases hsz with h | h | h | h <;> rw [h] at ha hi <;> omega

theorem pow2_pos (sz : BitVec 2) : 0 < 2 ^ sz.toNat ∧ 2 ^ sz.toNat ≤ 8 :=
  ⟨Nat.two_pow_pos _, by
    calc 2 ^ sz.toNat ≤ 2 ^ 3 := Nat.pow_le_pow_right (by decide) (by have := sz.isLt; omega)
      _ = 8 := rfl⟩

/-- A store of the low bytes of a word to aligned calm bytes of the scratchpad, by an engine whose results are written at once. -/
theorem State.storePlaces_spad {s : State} {h : Hdr} {g : Grp} {kid key n : Nat} {bs : List Byte} {pin : Bool} (hi : s.Issuing h g)
    (hM : s.cur.2 ≠ .M) (hn : 0 < n) (hl : bs.length = n) (hc : ∀ i, i < n → 2 ^ 56 ≤ key + i ∧ s.calm (lineOf (key + i))) :
    ∃ t, s.storePlaces s.cur.1 kid (2 * n) (wholeBytes (spadPlaces key n) bs) pin = t ∧ t.Issuing h g ∧
      t.mem = s.mem.writeN key bs ∧ t.core s.cur.1 = s.core s.cur.1 ∧ t.cur = s.cur ∧ t.evq = s.evq ∧ t.host = s.host ∧
      t.cyc = s.cyc := by
  subst hl
  -- the places are all of the scratchpad, so that no mark is left on what was read ahead
  have hmem {x : Place × Byte × Byte} (hx : x ∈ wholeBytes (spadPlaces key bs.length) bs) : x.1 ∈ spadPlaces key bs.length := by
    obtain ⟨y, hy, rfl⟩ := List.mem_map.mp hx
    exact (List.of_mem_zip hy).1
  have hall : allLocal ((wholeBytes (spadPlaces key bs.length) bs).map (fun x => x.1)) = true := by
    rw [allLocal, List.all_eq_true]
    intro p hp
    obtain ⟨x, hx, rfl⟩ := List.mem_map.mp hp
    exact List.all_eq_true.mp (spadPlaces_allLocal key bs.length) _ (hmem hx)
  have hloc : ∀ y ∈ storeCells (2 * bs.length) (wholeBytes (spadPlaces key bs.length) bs), y.at_.kind = .loc := by
    intro y hy
    have hw : ∀ x ∈ wholeBytes (spadPlaces key bs.length) bs, x.1.whole = true ∧ x.1.far_ = none := by
      intro x hx
      obtain ⟨i, -, hp⟩ := mem_spadPlaces (hmem hx)
      rw [hp]
      exact ⟨placeAt_whole .., rfl⟩
    obtain ⟨x, hx, hat, -⟩ := mem_storeCells hw hy
    obtain ⟨i, -, hp⟩ := mem_spadPlaces (hmem hx)
    rw [hat, hp]
    rfl
  -- no member of this engine waits to land
  have hland : (s.core s.cur.1).landing.any (fun x => x.live && x.eng == s.cur.2) = false := by
    rw [List.any_eq_false]
    intro x hx he
    have he' : x.live = true ∧ x.eng = s.cur.2 := by simpa using he
    exact hM (hi.landed x hx he'.2).1
  have hne : bs ≠ [] := by rintro rfl; exact absurd hn (by simp)
  obtain ⟨t, ht, hr, htm⟩ := State.homeMasked_run (s := s.modCore s.cur.1 (fun k => k.record [])) (kid := 0) hne hc
  have hcore : t.core s.cur.1 = s.core s.cur.1 := by
    rw [hr.rest]
    change (s.modCore s.cur.1 (fun k => k.record [])).core s.cur.1 = _
    rw [State.core_modCore, if_pos rfl]
    rfl
  have hcur : t.cur = s.cur := by rw [hr.rest]; rfl
  refine ⟨t, ?_, hi.congr hcur hcore, htm, hcore, hcur, by rw [hr.rest]; rfl, by rw [hr.rest]; rfl, by rw [hr.rest]; rfl⟩
  have hcells := storeCells_spad (grain := 2 * bs.length) (by omega) key bs
  have hsome : (storeCells (2 * bs.length) (wholeBytes (spadPlaces key bs.length) bs)).isEmpty = false := by
    cases hz : storeCells (2 * bs.length) (wholeBytes (spadPlaces key bs.length) bs) with
    | nil =>
      rw [hz] at hcells
      cases bs with
      | nil => exact absurd rfl hne
      | cons b bs => exact absurd hcells (by simp [runCells])
    | cons y ys => rfl
  have hland' : ((s.modCore s.cur.1 (fun k => k.record [])).core s.cur.1).landing.any
      (fun x => x.live && x.eng == (s.modCore s.cur.1 (fun k => k.record [])).cur.2) = false := by
    rw [State.core_modCore, if_pos rfl]
    exact hland
  rw [State.storePlaces_eq, State.afterStore, hall, Bool.or_true, if_pos rfl, State.stored_local hloc, hsome, hcells, ← ht]
  rw [if_neg (by simp), State.storeLoc]
  simp only [hland', Bool.false_eq_true, if_false]

theorem spad_grants_read (k : Core) : k.spad.grants .read = true := by
  simp [Desc.grants, Core.spad]

theorem spad_grants_write (k : Core) : k.spad.grants .write = true := by
  simp [Desc.grants, Core.spad, Nat.testBit]

/-- Nothing holds an access of these bytes back. -/
theorem accesses_spad {s : State} {need : Need} {sz : BitVec 2} {off : Nat} (hc : s.cur.1 ≤ 255)
    (hn : s.curCore.spad.grants need = true) (hl : off + 2 ^ sz.toNat ≤ s.curCore.spadLen) (ha : off % 2 ^ sz.toNat = 0)
    (hfree : ∀ i, i < 2 ^ sz.toNat → s.freeKey (spadKey s.cur.1 off + i)) (hq : s.stor.ferryQ = []) :
    s.Accesses .none 0 (rForm need (2 ^ sz.toNat)) [(off : Int)] false [spadPlaces (spadKey s.cur.1 off) (2 ^ sz.toNat)] s := by
  have hacc := access_spad (need := need) hc hn hl ha
  refine ⟨tablesHeld_spad .., by rw [hacc], ?_⟩
  rw [hacc, List.flatten_singleton]
  exact ordered_spad _ hfree hq

/-- LDS of a double word, word, half or byte of the scratchpad. -/
theorem exec_lds_spad {s : State} {h : Hdr} {g : Grp} {sz : BitVec 2} {sx : Bool} {d : SDst} {m : MemOp} {off : Nat} {w : Word}
    (hg : s.curEng.grp = some g) (hc : s.cur.1 ≤ 255) (ho : m.ord = .none) (hq : s.stor.ferryQ = [])
    (hm : s.memRef m (2 ^ sz.toNat) = (0, (off : Int))) (hl : off + 2 ^ sz.toNat ≤ s.curCore.spadLen) (ha : off % 2 ^ sz.toNat = 0)
    (hp : s.plainLine (lineOf (spadKey s.cur.1 off))) (hfree : ∀ i, i < 2 ^ sz.toNat → s.freeKey (spadKey s.cur.1 off + i))
    (hw : ∀ i, i < 2 ^ sz.toNat → w.extractLsb' (8 * i) 8 = s.mem.read (spadKey s.cur.1 off + i))
    (h0 : sx = false → ∀ k, 8 * 2 ^ sz.toNat ≤ k → w.getLsbD k = false)
    (h1 : sx = true → ∀ k, 8 * 2 ^ sz.toNat ≤ k → k < 64 → w.getLsbD k = w.getLsbD (8 * 2 ^ sz.toNat - 1)) :
    exec (.lds h sz sx false d m) s = .next (s.wrote h d w 0) := by
  obtain ⟨hpos, h8⟩ := pow2_pos sz
  have hplain (i : Nat) (hi : i < 2 ^ sz.toNat) : s.plainLine (lineOf (spadKey s.cur.1 off + i)) := by
    rw [lineOf_aligned _ _ _ ha hi]
    exact hp
  change execLds h sz sx false d m s = _
  rw [execLds, performWord_member hg, ldsEff]
  simp only [Bool.false_eq_true, if_false, pow2, hm, ho]
  rw [loadEff_of (accesses_spad hc (spad_grants_read _) hl ha hfree hq)]
  simp only [List.flatten_singleton, List.map_cons, List.map_nil]
  have hprep : s.prepare s.cur.1 s.curKid (spadPlaces (spadKey s.cur.1 off) (2 ^ sz.toNat)) = s :=
    prepare_spad fun i hi => (hplain i hi).calm
  have hbytes : (spadPlaces (spadKey s.cur.1 off) (2 ^ sz.toNat)).map (s.loadByte s.cur.1 s.curKid) =
      ((List.range (2 ^ sz.toNat)).map (fun i => s.mem.read (spadKey s.cur.1 off + i))).map (fun b => (b, (0 : BitVec 4))) := by
    rw [spadPlaces, List.map_map, List.map_map]
    exact List.map_congr_left fun i hi => loadByte_spad (hplain i (List.mem_range.mp hi))
  have hval := scalarOf_clean (w := w) hpos h8 sx (bs := (List.range (2 ^ sz.toNat)).map (fun i => s.mem.read (spadKey s.cur.1 off + i)))
    (by simp) (fun i hi => by rw [List.getElem?_map, List.getElem?_range hi, Option.map_some, hw i hi]) h0 h1
  rw [hprep, hbytes, hval, State.afterLoad]
  simp only [spadPlaces_allLocal, Bool.or_true, if_true]
  rfl

/-- STS of one: its low bytes stand there. -/
theorem exec_sts_spad {s : State} {h : Hdr} {g : Grp} {sz : BitVec 2} {a : SSrc} {m : MemOp} {off : Nat} (hi : s.Issuing h g)
    (hwf : s.mem.wf = true) (hM : s.cur.2 ≠ .M) (hc : s.cur.1 ≤ 255) (ho : m.ord = .none) (hq : s.stor.ferryQ = [])
    (hm : s.memRef m (2 ^ sz.toNat) = (0, (off : Int))) (hl : off + 2 ^ sz.toNat ≤ s.curCore.spadLen) (ha : off % 2 ^ sz.toNat = 0)
    (hp : s.plainLine (lineOf (spadKey s.cur.1 off))) (hfree : ∀ i, i < 2 ^ sz.toNat → s.freeKey (spadKey s.cur.1 off + i)) :
    ∃ t, exec (.sts h sz a m) s = .next t ∧
      (∀ i, i < 2 ^ sz.toNat → t.mem.read (spadKey s.cur.1 off + i) = (s.val a).extractLsb' (8 * i) 8) ∧
      (∀ k, k < spadKey s.cur.1 off ∨ spadKey s.cur.1 off + 2 ^ sz.toNat ≤ k → t.mem.read k = s.mem.read k) ∧
      (∀ n, t.curEng.reg n = s.curEng.reg n) ∧ t.curCore.v = s.curCore.v ∧ t.curCore.p = s.curCore.p ∧
      t.curEng.csr.fflags = s.curEng.csr.fflags ∧ t.evq = s.evq ∧ t.host = s.host ∧ t.cyc = s.cyc := by
  have hcalm (i : Nat) (hi : i < 2 ^ sz.toNat) : 2 ^ 56 ≤ spadKey s.cur.1 off + i ∧ s.calm (lineOf (spadKey s.cur.1 off + i)) := by
    rw [lineOf_aligned _ _ _ ha hi]
    exact ⟨by rw [spadKey]; omega, hp.calm⟩
  have hlen := length_leBytes (2 ^ sz.toNat) (s.val a).toNat
  obtain ⟨u, hu, hiu, hmem, hcore, hcur, hev, hhost, hcyc⟩ :=
    State.storePlaces_spad (kid := s.curKid) (pin := pinsLine .none) hi hM (pow2_pos sz).1 hlen hcalm
  have hce : u.curEng = s.curEng := by rw [State.curEng, State.curEng, hcur, State.eng, hcore, State.eng]
  have hck : u.curCore = s.curCore := by rw [State.curCore, State.curCore, hcur, hcore]
  obtain ⟨hran, hregs, -, hff, hv, hpr⟩ := retire_next hiu none 0
  have hread (k : Nat) : (u.retire h none 0 .next).mem.read k =
      if spadKey s.cur.1 off ≤ k ∧ k < spadKey s.cur.1 off + 2 ^ sz.toNat then
        (leBytes (2 ^ sz.toNat) (s.val a).toNat).getD (k - spadKey s.cur.1 off) 0 else s.mem.read k := by
    rw [hran.pkg.mem, hmem, Memory.read_writeN hwf, hlen]
  refine ⟨u.retire h none 0 .next, ?_, fun i hi => ?_, fun k hk => ?_, fun n => ?_, by rw [hv, hck], by rw [hpr, hck], ?_,
    hran.pkg.evq.trans hev, hran.pkg.host.trans hhost, hran.pkg.cyc.trans hcyc⟩
  · change execSts h sz a m s = _
    rw [execSts, performWord_member hi.grp, stsEff]
    simp only [pow2, hm, ho]
    rw [memEff_of (accesses_spad hc (spad_grants_write _) hl ha hfree hq), List.flatten_singleton, ← hu]
    rfl
  · rw [hread, if_pos (by omega), Nat.add_sub_cancel_left, List.getD_eq_getElem?_getD, getElem?_leBytes (s.val a) hi]
    rfl
  · rw [hread, if_neg (by omega)]
  · rw [Engine.reg_congr (hregs.trans (congrArg Engine.regs hce)) n]
  · rw [hff, hce]
    simp

/-- An access of the scratchpad that fails a check takes the fault at its member (18 R309). -/
theorem checkedEff_spad_fault {s : State} {g : Grp} {need : Need} {es : Nat} {off : Int} {fail : Fail} (h : Hdr)
    (k : List (List Place) → State → Eff) (hg : s.curEng.grp = some g)
    (ha : s.access s.whoCur 0 (rForm need es) [off] = (s, .error { fail := fail, elem := 0, off := off, kind := need.code })) :
    State.settle h (s.checkedEff 0 (rForm need es) [off] k) = s.memberFault (trapOf fail.cause)
      (mkWord [(16, 48, (off % 2 ^ 48).toNat), (12, 4, fail.check), (2, 10, 0), (0, 2, g.idx)]) 0 (off % 2 ^ 48).toNat need.code := by
  rw [State.checkedEff, tablesHeld_spad, if_neg (by simp), ha]
  simp [State.settle, memVal, State.memberNo, hg]

theorem exec_lds_fault {s : State} {h : Hdr} {g : Grp} {sz : BitVec 2} {sx : Bool} {d : SDst} {m : MemOp} {off : Int} {fail : Fail}
    {cause check : Nat} (hg : s.curEng.grp = some g) (hm : s.memRef m (2 ^ sz.toNat) = (0, off))
    (ha : s.access s.whoCur 0 (rForm .read (2 ^ sz.toNat)) [off] = (s, .error { fail := fail, elem := 0, off := off, kind := 0 }))
    (hcause : trapOf fail.cause = cause) (hcheck : fail.check = check) :
    exec (.lds h sz sx false d m) s = .next (s.memberFault cause
      (mkWord [(16, 48, (off % 2 ^ 48).toNat), (12, 4, check), (2, 10, 0), (0, 2, g.idx)]) 0 (off % 2 ^ 48).toNat 0) := by
  subst hcause hcheck
  change execLds h sz sx false d m s = _
  rw [execLds, performWord_member hg, ldsEff]
  simp only [Bool.false_eq_true, if_false, pow2, hm, State.loadEff, Bool.false_and, State.memEff]
  rw [checkedEff_spad_fault _ _ hg ha]
  rfl

theorem exec_sts_fault {s : State} {h : Hdr} {g : Grp} {sz : BitVec 2} {a : SSrc} {m : MemOp} {off : Int} {fail : Fail}
    {cause check : Nat} (hg : s.curEng.grp = some g) (hm : s.memRef m (2 ^ sz.toNat) = (0, off))
    (ha : s.access s.whoCur 0 (rForm .write (2 ^ sz.toNat)) [off] = (s, .error { fail := fail, elem := 0, off := off, kind := 2 }))
    (hcause : trapOf fail.cause = cause) (hcheck : fail.check = check) :
    exec (.sts h sz a m) s = .next (s.memberFault cause
      (mkWord [(16, 48, (off % 2 ^ 48).toNat), (12, 4, check), (2, 10, 0), (0, 2, g.idx)]) 0 (off % 2 ^ 48).toNat 2) := by
  subst hcause hcheck
  change execSts h sz a m s = _
  rw [execSts, performWord_member hg, stsEff]
  simp only [pow2, hm, State.memEff]
  rw [checkedEff_spad_fault _ _ hg ha]
  rfl

/-- Settles O24. -/
theorem scratchpadAccess : Obligations.ScratchpadAccess := by
  unfold Obligations.ScratchpadAccess
  refine ⟨fun s h g sz sx d a m off hi hcan hc hM ho hq hm hl ha key hkey hp hfree => ?_,
    fun s h g sz sx d a m off hg hc hm f hf => ⟨fun hout => ?_, fun h0 hin hal => ?_⟩⟩
  · subst hkey
    exact ⟨fun w hw h0 h1 => exec_lds_spad hi.grp hc ho hq hm hl ha hp hfree hw h0 h1,
      exec_sts_spad hi hcan.1 hM hc ho hq hm hl ha hp hfree⟩
  · have hes : off < 0 ∨ (s.curCore.spadLen : Int) < off + (2 ^ sz.toNat : Nat) := by exact_mod_cast hout
    rw [hf, hf]
    exact ⟨exec_lds_fault hg hm (access_spad_fault hc (spad_grants_read _) (.inl ⟨hes, rfl⟩)) rfl rfl,
      exec_sts_fault hg hm (access_spad_fault hc (spad_grants_write _) (.inl ⟨hes, rfl⟩)) rfl rfl⟩
  · have hin' : off + (2 ^ sz.toNat : Nat) ≤ (s.curCore.spadLen : Int) := by exact_mod_cast hin
    have hal' : off % (2 ^ sz.toNat : Nat) ≠ 0 := by exact_mod_cast hal
    rw [hf, hf]
    exact ⟨exec_lds_fault hg hm (access_spad_fault hc (spad_grants_read _) (.inr ⟨h0, hin', hal', rfl⟩)) rfl rfl,
      exec_sts_fault hg hm (access_spad_fault hc (spad_grants_write _) (.inr ⟨h0, hin', hal', rfl⟩)) rfl rfl⟩

end Sys2Proof.Machine
end

section
/-! SUPPORT. The words whose whole next state is the write of one vector or predicate result. -/

namespace Sys2Proof.Machine

/-- A member whose effect is one vector result. -/
theorem exec_vecOut {s : State} {g : Grp} {i : Instr} {h : Hdr} {d : VDst} (r : Grp → State → VVal × FlagSet)
    (hg : s.curEng.grp = some g) (hi : exec i s = performWord i (fun g s => vecDone d (r g s) s) s) (hh : hdrD i = h) :
    exec i s = .next (s.vecOut h d (r g s)) := by
  rw [hi, performWord_member hg, hh]
  rfl

/-- A member whose effect is one predicate result. -/
theorem exec_predOut {s : State} {g : Grp} {i : Instr} {h : Hdr} {d : Fin 16} (r : State → PBits × FlagSet)
    (hg : s.curEng.grp = some g) (hi : exec i s = performWord i (fun _ s => predDone d (r s) s) s) (hh : hdrD i = h) :
    exec i s = .next (s.predOut h d (r s)) := by
  rw [hi, performWord_member hg, hh]
  rfl

/-- Lane words of one, two and three sources, by what they compute on elements (07 R105). -/
theorem exec_lanes1 {s : State} {g : Grp} {i : Instr} {h : Hdr} {t : Ty} {d : VDst} {a : VSrc} (f : Grp → Nat → Nat × FlagSet)
    (hg : s.curEng.grp = some g) (hi : exec i s = performWord i (fun g => vec1 h t d a (f g)) s) (hh : hdrD i = h) :
    exec i s = .next (s.lanes1 h t d a (f g)) := by
  rw [hi, performWord_member hg, hh]
  rfl

theorem exec_lanes2 {s : State} {g : Grp} {i : Instr} {h : Hdr} {t : Ty} {d : VDst} {a : VSrc} {b : VSSrc}
    (f : Grp → Nat → Nat → Nat × FlagSet) (hg : s.curEng.grp = some g)
    (hi : exec i s = performWord i (fun g => vec2 h t d a b (f g)) s) (hh : hdrD i = h) :
    exec i s = .next (s.lanes2 h t d a b (f g)) := by
  rw [hi, performWord_member hg, hh]
  rfl

theorem exec_lanes3 {s : State} {g : Grp} {i : Instr} {h : Hdr} {t : Ty} {d : VDst} {a : VSrc} {b : VSSrc} {c : VSrc}
    (f : Grp → Nat → Nat → Nat → Nat × FlagSet) (hg : s.curEng.grp = some g)
    (hi : exec i s = performWord i (fun g => vec3 h t d a b c (f g)) s) (hh : hdrD i = h) :
    exec i s = .next (s.lanes3 h t d a b c (f g)) := by
  rw [hi, performWord_member hg, hh]
  rfl

end Sys2Proof.Machine
end

section
/-! Settled: the lane words (O33) and the conversion words (O38). -/

namespace Sys2Proof.Machine

/-- Settles O33. -/
theorem vectorLaneWords : Obligations.VectorLaneWords := by
  unfold Obligations.VectorLaneWords
  rintro s h g t rm sat d a c b hg mode rfl
  refine ⟨⟨?_, ?_, ?_, ?_, ?_, ?_, ?_, ?_, ?_, ?_, ?_⟩, ⟨?_, ?_, ?_, ?_, ?_, ?_, ?_, ?_⟩, ?_⟩
  · exact exec_lanes2 (fun g => vaddElem t (g.mode rm) sat) hg rfl rfl
  · exact exec_lanes2 (fun g => vsubElem t (g.mode rm) sat) hg rfl rfl
  · exact exec_lanes2 (fun g => vmulElem t (g.mode rm) sat) hg rfl rfl
  · exact exec_lanes2 (fun _ => vmulhElem t) hg rfl rfl
  · exact exec_lanes3 (fun g => fuseElem .ma t (g.mode rm) sat) hg rfl rfl
  · exact exec_lanes3 (fun g => fuseElem .ms t (g.mode rm) sat) hg rfl rfl
  · exact exec_lanes3 (fun g => fuseElem .nma t (g.mode rm) sat) hg rfl rfl
  · exact exec_lanes2 (fun _ => vminmaxElem false t) hg rfl rfl
  · exact exec_lanes2 (fun _ => vminmaxElem true t) hg rfl rfl
  · exact exec_lanes1 (fun _ => vabsElem t sat) hg rfl rfl
  · exact exec_lanes1 (fun _ => vnegElem t sat) hg rfl rfl
  · exact exec_lanes2 (fun _ x y => (x &&& y, 0)) hg rfl rfl
  · exact exec_lanes2 (fun _ x y => (x ||| y, 0)) hg rfl rfl
  · exact exec_lanes2 (fun _ x y => (x ^^^ y, 0)) hg rfl rfl
  · exact exec_lanes2 (fun _ => vshlElem t) hg rfl rfl
  · exact exec_lanes2 (fun _ => vshrElem t) hg rfl rfl
  · exact exec_lanes2 (fun _ => vsraElem t) hg rfl rfl
  · exact exec_lanes1 (fun _ x => (classOf t x, 0)) hg rfl rfl
  · exact exec_lanes2 (fun g => ldexpElem (flFmt t) (g.mode rm) sat) hg rfl rfl
  · rintro f i rfl
    cases f <;> exact exec_lanes1 (fun g => Fun.elem _ (flFmt t) (g.mode rm) sat) hg rfl rfl

/-- Settles O38. -/
theorem conversionWords : Obligations.ConversionWords := by
  unfold Obligations.ConversionWords
  rintro s h g dt st rm sat part d b a c hg mode act n rfl rfl rfl
  refine ⟨?_, ?_, ?_, ?_, ?_⟩
  · exact exec_vecOut (fun g s => vcvt dt st (g.mode rm) sat part.toNat (s.vold d) (s.act h dt.width) (s.vrd a)) hg rfl rfl
  · exact exec_vecOut (fun g s => vunpk dt st (g.mode rm) sat part.toNat (s.vold d) (s.act h dt.width) (s.vrd a)) hg rfl rfl
  · exact exec_vecOut (fun g s => vpack dt st (g.mode rm) sat (s.vold d) (s.act h dt.width) (s.vrd a) (s.vrd c)) hg rfl rfl
  · exact exec_vecOut (fun g s => vdqmx dt st (g.mode rm) sat part.toNat (s.vold d) (s.act h dt.width) (s.vrd a) (s.vrd c)) hg rfl rfl
  · rintro r rfl
    change execVqmx h dt st rm sat part d b a s = _
    rw [execVqmx, performWord_member hg]
    rfl

end Sys2Proof.Machine
end

section
/-! SUPPORT. The elements of a register as lists (02 R29, 06 R98, R99): reading element `i` of what was put together from fields, and of
the write of a vector result. -/

namespace Sys2Proof.Machine

-- fields and bits

theorem packFields_lt (w : Nat) (l : List Nat) : packFields w l < 2 ^ (w * l.length) := by
  induction l with
  | nil => simp [packFields]
  | cons x l ih =>
    rw [packFields, List.length_cons, Nat.mul_succ, Nat.add_comm (w * l.length) w, pow_add]
    have hx := Nat.mod_lt x (Nat.two_pow_pos w)
    calc x % 2 ^ w + 2 ^ w * packFields w l < 2 ^ w + 2 ^ w * packFields w l := by omega
      _ = 2 ^ w * (packFields w l + 1) := by rw [Nat.mul_succ, Nat.add_comm]
      _ ≤ 2 ^ w * 2 ^ (w * l.length) := Nat.mul_le_mul_left _ ih

/-- Field `i` of what was packed. -/
theorem packFields_field (w : Nat) (l : List Nat) (i : Nat) : packFields w l / 2 ^ (w * i) % 2 ^ w = l.getD i 0 % 2 ^ w := by
  induction l generalizing i with
  | nil => simp [packFields]
  | cons x l ih =>
    have hx := Nat.mod_lt x (Nat.two_pow_pos w)
    cases i with
    | zero => simp [packFields]
    | succ i =>
      have hd : (x % 2 ^ w + 2 ^ w * packFields w l) / 2 ^ w = packFields w l := by
        rw [Nat.add_mul_div_left _ _ (Nat.two_pow_pos w), Nat.div_eq_of_lt hx, Nat.zero_add]
      rw [packFields, Nat.mul_succ, Nat.add_comm (w * i) w, pow_add, ← Nat.div_div_eq_div_mul, hd, ih, List.getD_cons_succ]

theorem getElem?_bitList (n x i : Nat) (hi : i < n) : (bitList n x)[i]? = some (x.testBit i) := by
  induction n generalizing x i with
  | zero => omega
  | succ n ih =>
    rw [bitList]
    cases i with
    | zero =>
      rw [List.getElem?_cons_zero, Nat.testBit_zero]
      rfl
    | succ i => rw [List.getElem?_cons_succ, ih _ _ (by omega), Nat.testBit_succ]

theorem length_bitList (n x : Nat) : (bitList n x).length = n := by
  induction n generalizing x with
  | zero => rfl
  | succ n ih => simp [bitList, ih]

theorem packBits_testBit (l : List Bool) (i : Nat) : (packBits l).testBit i = l.getD i false := by
  induction l generalizing i with
  | nil => simp [packBits]
  | cons b l ih =>
    rw [packBits]
    cases i with
    | zero => cases b <;> simp [Nat.testBit_zero, Nat.add_mod]
    | succ i =>
      rw [Nat.testBit_succ, List.getD_cons_succ, ← ih]
      congr 1
      cases b <;> simp <;> omega

theorem getElem?_flatMap_replicate {α : Type} (l : List α) {k : Nat} (hk : 0 < k) (i : Nat) :
    (l.flatMap (fun b => List.replicate k b))[i]? = l[i / k]? := by
  induction l generalizing i with
  | nil => simp
  | cons b l ih =>
    rw [List.flatMap_cons]
    by_cases hi : i < k
    · rw [List.getElem?_append_left (by simpa using hi), Nat.div_eq_of_lt hi]
      simp [hi]
    · have hd : i / k = (i - k) / k + 1 := by
        rw [← Nat.add_div_right _ hk, Nat.sub_add_cancel (by omega)]
      rw [List.getElem?_append_right (by simp; omega), List.length_replicate, ih, hd, List.getElem?_cons_succ]

theorem length_flatMap_replicate {α : Type} (l : List α) (k : Nat) : (l.flatMap (fun b => List.replicate k b)).length = l.length * k := by
  induction l with
  | nil => simp
  | cons b l ih => rw [List.flatMap_cons, List.length_append, List.length_replicate, ih, List.length_cons, Nat.succ_mul, Nat.add_comm]

-- the elements of a register

/-- The widths of elements. -/
def isWidth (w : Nat) : Prop := w ∈ [4, 8, 16, 32, 64]

/-- The widths of which `k` elements share a 32-bit lane. -/
structure Share (w k : Nat) : Prop where
  prod : w * k = 32
  pos  : 0 < k
  wpos : 0 < w

theorem isWidth_cases {w : Nat} (h : isWidth w) : w = 64 ∨ ∃ k, Share w k := by
  simp only [isWidth, List.mem_cons, List.not_mem_nil, or_false] at h
  rcases h with rfl | rfl | rfl | rfl | rfl
  · exact .inr ⟨8, rfl, by decide, by decide⟩
  · exact .inr ⟨4, rfl, by decide, by decide⟩
  · exact .inr ⟨2, rfl, by decide, by decide⟩
  · exact .inr ⟨1, rfl, by decide, by decide⟩
  · exact .inl rfl

theorem Share.per {w k : Nat} (h : Share w k) : 32 / w = k := by
  rw [← h.prod, Nat.mul_div_cancel_left _ h.wpos]
theorem Share.all {w k : Nat} (h : Share w k) : 8192 / w = 256 * k := by
  have : 8192 = w * (256 * k) := by rw [Nat.mul_left_comm, h.prod]
  rw [this, Nat.mul_div_cancel_left _ h.wpos]
theorem Share.lane {w k : Nat} (h : Share w k) (i : Nat) : w * i / 32 = i / k := by
  rw [← h.prod, Nat.mul_div_mul_left _ _ h.wpos]
theorem Share.ne64 {w k : Nat} (h : Share w k) : w ≠ 64 := by
  rintro rfl
  have := h.prod
  omega

theorem length_elemPoison {w : Nat} (h : isWidth w) (p : BitVec 256) : (elemPoison w p).length = 8192 / w := by
  rcases isWidth_cases h with rfl | ⟨k, hk⟩
  · simp [elemPoison, length_fields]
  · rw [elemPoison, if_neg (by simpa using hk.ne64), length_flatMap_replicate, length_bitList, hk.per, hk.all]

theorem getElem?_elemPoison {w : Nat} (h : isWidth w) (p : BitVec 256) {i : Nat} (hi : i < 8192 / w) :
    (elemPoison w p)[i]? =
      some (if w == 64 then p.getLsbD (2 * i) || p.getLsbD (2 * i + 1) else p.getLsbD (w * i / 32)) := by
  rcases isWidth_cases h with rfl | ⟨k, hk⟩
  · obtain ⟨hlo, hhi⟩ := bitPair p.toNat i
    rw [elemPoison, if_pos (by rfl), List.getElem?_map, getElem?_fields 2 128 _ i hi, if_pos (by rfl), Option.map_some, BitVec.getLsbD,
      BitVec.getLsbD, ← hlo, ← hhi]
    have hlt := Nat.mod_lt (p.toNat / 2 ^ (2 * i)) (show 0 < 2 ^ 2 by decide)
    generalize p.toNat / 2 ^ (2 * i) % 2 ^ 2 = y at hlt ⊢
    congr 1
    interval_cases y <;> rfl
  · have hw : (w == 64) = false := by simpa using hk.ne64
    have hl : i / k < 256 := Nat.div_lt_of_lt_mul (by rw [Nat.mul_comm, ← hk.all]; exact hi)
    rw [elemPoison, hw, if_neg (by simp), hk.per, getElem?_flatMap_replicate _ hk.pos, getElem?_bitList _ _ _ hl, hk.lane]
    rfl

theorem getElem?_zipEl {xs : List Nat} {bs : List Bool} {i x : Nat} {b : Bool} (hx : xs[i]? = some x) (hb : bs[i]? = some b) :
    (zipEl xs bs)[i]? = some { bits := x, bad := b } := by
  induction xs generalizing bs i with
  | nil => simp at hx
  | cons y xs ih =>
    match bs, i with
    | [], _ => simp at hb
    | c :: bs, 0 =>
      simp only [List.getElem?_cons_zero, Option.some.injEq] at hx hb
      simp [zipEl, hx, hb]
    | c :: bs, i + 1 =>
      rw [zipEl, List.getElem?_cons_succ]
      exact ih (by simpa using hx) (by simpa using hb)

theorem length_zipEl (xs : List Nat) (bs : List Bool) : (zipEl xs bs).length = min xs.length bs.length := by
  induction xs generalizing bs with
  | nil => simp [zipEl]
  | cons x xs ih => cases bs <;> simp [zipEl, ih, Nat.succ_min_succ]

/-- A register has as many elements as its width gives. -/
theorem length_els {w : Nat} (h : isWidth w) (v : VVal) : (v.els w).length = 8192 / w := by
  rw [VVal.els, length_zipEl, length_fields, length_elemPoison h, Nat.min_self]

/-- Element `i` of a register. -/
theorem getElem?_els {w : Nat} (h : isWidth w) (v : VVal) {i : Nat} (hi : i < 8192 / w) : (v.els w)[i]? = some (elAt w v i) :=
  getElem?_zipEl (getElem?_fields w _ _ i hi) (getElem?_elemPoison h _ hi)

theorem elAt_lt (w : Nat) (v : VVal) (i : Nat) : (elAt w v i).bits < 2 ^ w := Nat.mod_lt _ (Nat.two_pow_pos w)

/-- The part of a number below `2 ^ n` from bit `a` on. -/
theorem mod_div_mod (x : Nat) {n a w : Nat} (h : a + w ≤ n) : x % 2 ^ n / 2 ^ a % 2 ^ w = x / 2 ^ a % 2 ^ w := by
  obtain ⟨m, rfl⟩ := Nat.exists_eq_add_of_le h
  rw [show a + w + m = a + (w + m) by omega, pow_add, Nat.mod_mul_right_div_self, pow_add, Nat.mod_mul_right_mod]

/-- The same of a bit vector made from a number. -/
theorem ofNat_div_mod (x : Nat) {n a w : Nat} (h : a + w ≤ n) : (BitVec.ofNat n x).toNat / 2 ^ a % 2 ^ w = x / 2 ^ a % 2 ^ w := by
  rw [BitVec.toNat_ofNat, mod_div_mod x h]

theorem El.eq_mk {x : El} {n : Nat} {b : Bool} (hn : x.bits = n) (hb : x.bad = b) : x = { bits := n, bad := b } := by
  rw [← hn, ← hb]

/-- Element `i` of a narrow width within its 32-bit lane. -/
theorem elAt_narrow {w k : Nat} (h : Share w k) (v : VVal) (i : Nat) :
    (elAt w v i).bits = (elAt 32 v (i / k)).bits / 2 ^ (w * (i % k)) % 2 ^ w ∧ (elAt w v i).bad = (elAt 32 v (i / k)).bad := by
  have hj : w * (i % k) + w ≤ 32 := by
    have := Nat.mod_lt i h.pos
    calc w * (i % k) + w = w * (i % k + 1) := by rw [Nat.mul_succ]
      _ ≤ w * k := Nat.mul_le_mul_left _ this
      _ = 32 := h.prod
  have he : w * i = 32 * (i / k) + w * (i % k) := by
    rw [← h.prod, Nat.mul_assoc, ← Nat.mul_add, Nat.div_add_mod]
  constructor
  · simp only [elAt]
    rw [mod_div_mod _ hj, he, pow_add, Nat.div_div_eq_div_mul]
  · have hw : (w == 64) = false := by simpa using h.ne64
    simp only [elAt, hw, h.lane]
    simp

/-- Element `i` of 64 bits from its two lanes. -/
theorem elAt_64 (v : VVal) (i : Nat) :
    (elAt 64 v i).bits = (elAt 32 v (2 * i)).bits + 2 ^ 32 * (elAt 32 v (2 * i + 1)).bits ∧
    (elAt 64 v i).bad = ((elAt 32 v (2 * i)).bad || (elAt 32 v (2 * i + 1)).bad) := by
  constructor
  · simp only [elAt]
    rw [show 32 * (2 * i + 1) = 64 * i + 32 by omega, show 32 * (2 * i) = 64 * i by omega, pow_add, ← Nat.div_div_eq_div_mul]
    generalize v.data.toNat / 2 ^ (64 * i) = y
    rw [show (2 : Nat) ^ 64 = 2 ^ 32 * 2 ^ 32 by rw [← pow_add], Nat.mod_mul]
  · simp [elAt]

end Sys2Proof.Machine
end

section
/-! SUPPORT. The write of a vector result, element by element (06 R98, R102). -/

namespace Sys2Proof.Machine

/-- Element `i` of results, `none` where it is inactive. -/
def resAt (rs : List (Option Res)) (i : Nat) : Option Res := (rs[i]?).join

/-- Two elements lie in one 32-bit lane. -/
def sameLane (w j i : Nat) : Prop := w * j / 32 = w * i / 32

/-- The lanes a write computes. -/
def writtenLanes (w : Nat) (old : VVal) (rs : List (Option Res)) : List (Nat × Bool) :=
  if w == 64 then lanes64 (old.els 32) rs else lanesOf w (old.els 32) rs

/-- Lane `l` of a write. -/
theorem elAt_vwrite_lane (w : Nat) (old : VVal) (rs : List (Option Res)) (c : BitVec 4) {l : Nat} {x : Nat × Bool} (hl : l < 256)
    (hx : (writtenLanes w old rs)[l]? = some x) :
    elAt 32 (vwrite w old rs c).1 l = { bits := x.1 % 2 ^ 32, bad := x.2 } := by
  have hlen : (BitVec.ofNat 8192 (packFields 32 ((writtenLanes w old rs).map (fun l => l.1)))).toNat / 2 ^ (32 * l) % 2 ^ 32 =
      x.1 % 2 ^ 32 := by
    rw [ofNat_div_mod _ (by omega), packFields_field]
    simp [List.getD_eq_getElem?_getD, hx]
  have hbad : (BitVec.ofNat 256 (packBits ((writtenLanes w old rs).map (fun l => l.2)))).getLsbD (32 * l / 32) = x.2 := by
    rw [Nat.mul_div_cancel_left _ (by decide), BitVec.getLsbD_ofNat, packBits_testBit]
    simp [List.getD_eq_getElem?_getD, hx, hl]
  simp only [elAt, vwrite]
  rw [← writtenLanes, hlen, hbad]
  rfl

theorem getElem?_lanesOf {w k : Nat} (hk : Share w k) (os : List El) (rs : List (Option Res)) (l : Nat) :
    (lanesOf w os rs)[l]? = (os[l]?).map (fun o => laneOf w o.bits o.bad ((rs.drop (k * l)).take k)) := by
  induction os generalizing rs l with
  | nil => simp [lanesOf]
  | cons o os ih =>
    rw [lanesOf, hk.per]
    cases l with
    | zero => simp
    | succ l => rw [List.getElem?_cons_succ, List.getElem?_cons_succ, ih, List.drop_drop, Nat.mul_succ, Nat.add_comm k]

/-- The two lanes of a 64-bit element. -/
def pairOf (lo hi : El) : Option Res → (Nat × Bool) × (Nat × Bool)
  | none => ((lo.bits, lo.bad), (hi.bits, hi.bad))
  | some r => if r.bad then ((0, true), (0, true)) else ((r.bits % 2 ^ 32, false), (r.bits / 2 ^ 32, false))

theorem lanes64_cons (lo hi : El) (os : List El) (r : Option Res) (rs : List (Option Res)) :
    lanes64 (lo :: hi :: os) (r :: rs) = (pairOf lo hi r).1 :: (pairOf lo hi r).2 :: lanes64 os rs := by
  cases r with
  | none => rfl
  | some r =>
    rw [lanes64]
    simp only [pairOf]
    split <;> rfl

theorem getElem?_lanes64 {os : List El} {rs : List (Option Res)} {i : Nat} {lo hi : El} {r : Option Res} (hlo : os[2 * i]? = some lo)
    (hhi : os[2 * i + 1]? = some hi) (hr : rs[i]? = some r) :
    (lanes64 os rs)[2 * i]? = some (pairOf lo hi r).1 ∧ (lanes64 os rs)[2 * i + 1]? = some (pairOf lo hi r).2 := by
  induction i generalizing os rs with
  | zero =>
    match os, rs with
    | a :: b :: os, x :: rs =>
      simp only [Nat.mul_zero, Nat.zero_add, List.getElem?_cons_zero, List.getElem?_cons_succ, Option.some.injEq] at hlo hhi hr
      subst hlo hhi hr
      rw [lanes64_cons]
      exact ⟨rfl, rfl⟩
    | [], _ => simp at hlo
    | [a], _ => simp at hhi
    | a :: b :: os, [] => simp at hr
  | succ i ih =>
    match os, rs with
    | a :: b :: os, x :: rs =>
      rw [lanes64_cons]
      exact ih (by simpa [Nat.mul_succ] using hlo) (by simpa [Nat.mul_succ] using hhi) (by simpa using hr)
    | [], _ => simp at hlo
    | [a], _ => simp at hhi
    | a :: b :: os, [] => simp at hr

/-- A 64-bit element after its result is written. -/
def El.after64 (old : El) : Option Res → El
  | none => old
  | some r => if r.bad then { bits := 0, bad := true } else { bits := r.bits % 2 ^ 64, bad := false }

/-- A 64-bit element of a write. -/
theorem elAt_vwrite_64 (old : VVal) {rs : List (Option Res)} (c : BitVec 4) {i : Nat} (hi : i < 128) {r : Option Res}
    (hr : rs[i]? = some r) :
    elAt 64 (vwrite 64 old rs c).1 i = El.after64 (elAt 64 old i) r := by
  have h32 : isWidth 32 := by simp [isWidth]
  obtain ⟨h1, h2⟩ := getElem?_lanes64 (getElem?_els h32 old (by omega)) (getElem?_els h32 old (by omega)) hr
  have hlo := elAt_vwrite_lane 64 old rs c (l := 2 * i) (by omega) h1
  have hhi := elAt_vwrite_lane 64 old rs c (l := 2 * i + 1) (by omega) h2
  obtain ⟨hb, hp⟩ := elAt_64 (vwrite 64 old rs c).1 i
  rw [El.eq_mk hb hp, hlo, hhi]
  cases r with
  | none =>
    obtain ⟨ob, op⟩ := elAt_64 old i
    have hol := elAt_lt 32 old (2 * i)
    have hoh := elAt_lt 32 old (2 * i + 1)
    simp only [pairOf, Nat.mod_eq_of_lt hol, Nat.mod_eq_of_lt hoh, ← ob, ← op, El.after64]
  | some r =>
    simp only [pairOf, El.after64]
    split
    · rfl
    · simp only [Nat.mod_mod, Bool.or_self, El.mk.injEq, and_true]
      rw [show (2 : Nat) ^ 64 = 2 ^ 32 * 2 ^ 32 by rw [← pow_add], Nat.mod_mul]

/-- An element of a narrow width of a write, in terms of its lane. -/
theorem elAt_vwrite_narrow {w k : Nat} (hk : Share w k) (old : VVal) (rs : List (Option Res)) (c : BitVec 4) {i : Nat}
    (hi : i < 8192 / w) :
    (elAt w (vwrite w old rs c).1 i).bits =
      (laneOf w (elAt 32 old (i / k)).bits (elAt 32 old (i / k)).bad ((rs.drop (k * (i / k))).take k)).1 % 2 ^ 32 /
        2 ^ (w * (i % k)) % 2 ^ w ∧
    (elAt w (vwrite w old rs c).1 i).bad =
      (laneOf w (elAt 32 old (i / k)).bits (elAt 32 old (i / k)).bad ((rs.drop (k * (i / k))).take k)).2 := by
  have hl : i / k < 256 := Nat.div_lt_of_lt_mul (by rw [Nat.mul_comm, ← hk.all]; exact hi)
  have hx : (writtenLanes w old rs)[i / k]? =
      some (laneOf w (elAt 32 old (i / k)).bits (elAt 32 old (i / k)).bad ((rs.drop (k * (i / k))).take k)) := by
    rw [writtenLanes, if_neg (by simpa using hk.ne64), getElem?_lanesOf hk, getElem?_els (by simp [isWidth]) old (by omega)]
    rfl
  have hlane := elAt_vwrite_lane w old rs c hl hx
  obtain ⟨hb, hp⟩ := elAt_narrow hk (vwrite w old rs c).1 i
  rw [hb, hp, hlane]
  exact ⟨rfl, rfl⟩

/-- The results of a lane. -/
theorem mem_chunk {rs : List (Option Res)} {k l : Nat} {r : Option Res} (hr : r ∈ (rs.drop (k * l)).take k) :
    ∃ j, j / k = l ∧ rs[j]? = some r := by
  obtain ⟨n, hn⟩ := List.getElem?_of_mem hr
  rw [List.getElem?_take] at hn
  split at hn
  · next hlt =>
    rw [List.getElem?_drop] at hn
    exact ⟨k * l + n, by rw [Nat.mul_add_div (by omega), Nat.div_eq_of_lt hlt, Nat.add_zero], hn⟩
  · simp at hn

theorem getElem?_chunk (rs : List (Option Res)) {k : Nat} (hk : 0 < k) (i : Nat) :
    ((rs.drop (k * (i / k))).take k)[i % k]? = rs[i]? := by
  rw [List.getElem?_take, if_pos (Nat.mod_lt i hk), List.getElem?_drop, Nat.div_add_mod]

/-- An element of a lane none of whose written elements is poisoned: its result, or what it held. -/
theorem elAt_vwrite_sound {w : Nat} (hw : isWidth w) (old : VVal) {rs : List (Option Res)} (c : BitVec 4) {i : Nat}
    (hi : i < 8192 / w) (hl : rs.length = 8192 / w)
    (hs : ∀ j r, sameLane w j i → rs[j]? = some (some r) → r.bad = false) :
    (elAt w (vwrite w old rs c).1 i).bits = ((resAt rs i).map Res.bits).getD (elAt w old i).bits % 2 ^ w ∧
    ((∀ j, sameLane w j i → j < 8192 / w → resAt rs j ≠ none) → (elAt w (vwrite w old rs c).1 i).bad = false) := by
  rcases isWidth_cases hw with rfl | ⟨k, hk⟩
  · obtain ⟨r, hr⟩ : ∃ r, rs[i]? = some r := ⟨_, List.getElem?_eq_getElem (by omega)⟩
    rw [elAt_vwrite_64 old c hi hr]
    cases r with
    | none =>
      have hn : resAt rs i = none := by rw [resAt, hr]; rfl
      rw [hn]
      exact ⟨(Nat.mod_eq_of_lt (elAt_lt ..)).symm, fun h => absurd hn (h i rfl hi)⟩
    | some r =>
      have hb := hs i r rfl hr
      rw [resAt, hr, El.after64, hb]
      simp
  · obtain ⟨hbits, hbad⟩ := elAt_vwrite_narrow hk old rs c hi
    have hgood : ((rs.drop (k * (i / k))).take k).any (fun r => r.any Res.bad) = false := by
      rw [List.any_eq_false]
      intro r hr
      obtain ⟨j, hj, hrj⟩ := mem_chunk hr
      cases r with
      | none => simp
      | some r => simpa using hs j r (by rw [sameLane, hk.lane, hk.lane, hj]) hrj
    rw [hbits, hbad, laneOf, hgood]
    simp only [Bool.false_eq_true, if_false]
    constructor
    · have hj : w * (i % k) + w ≤ 32 := by
        have := Nat.mod_lt i hk.pos
        calc w * (i % k) + w = w * (i % k + 1) := by rw [Nat.mul_succ]
          _ ≤ w * k := Nat.mul_le_mul_left _ this
          _ = 32 := hk.prod
      obtain ⟨r, hr⟩ : ∃ r, rs[i]? = some r := ⟨_, List.getElem?_eq_getElem (by omega)⟩
      rw [mod_div_mod _ hj, packFields_field, List.getD_eq_getElem?_getD, List.getElem?_zipWith, getElem?_chunk rs hk.pos, hk.per,
        getElem?_fields _ _ _ _ (Nat.mod_lt i hk.pos), hr, ← (elAt_narrow hk old i).1]
      rw [resAt, hr]
      rfl
    · intro hall
      rw [Bool.and_eq_false_iff]
      refine .inr (List.any_eq_false.mpr fun r hr => ?_)
      obtain ⟨j, hj, hrj⟩ := mem_chunk hr
      have hjl : j < 8192 / w := by
        rw [← hl]
        exact (List.getElem?_eq_some_iff.mp hrj).1
      have hne := hall j (by rw [sameLane, hk.lane, hk.lane, hj]) hjl
      rw [resAt, hrj] at hne
      cases r with
      | none => exact absurd rfl hne
      | some r => simp

/-- A poisoned result poisons its lane and clears it (06 R102). -/
theorem elAt_vwrite_poisoned {w : Nat} (hw : isWidth w) (old : VVal) {rs : List (Option Res)} (c : BitVec 4) {i : Nat} {r : Res}
    (hi : i < 8192 / w) (hr : rs[i]? = some (some r)) (hb : r.bad = true) :
    elAt w (vwrite w old rs c).1 i = { bits := 0, bad := true } := by
  rcases isWidth_cases hw with rfl | ⟨k, hk⟩
  · rw [elAt_vwrite_64 old c hi hr]
    simp [hb, El.after64]
  · obtain ⟨hbits, hbad⟩ := elAt_vwrite_narrow hk old rs c hi
    have hany : ((rs.drop (k * (i / k))).take k).any (fun r => r.any Res.bad) = true := by
      refine List.any_eq_true.mpr ⟨some r, ?_, hb⟩
      exact List.mem_of_getElem? ((getElem?_chunk rs hk.pos i).trans hr)
    have hl : laneOf w (elAt 32 old (i / k)).bits (elAt 32 old (i / k)).bad ((rs.drop (k * (i / k))).take k) = (0, true) := by
      rw [laneOf, if_pos hany]
    rw [hl] at hbits hbad
    rw [El.eq_mk hbits hbad]
    simp

end Sys2Proof.Machine
end

section
/-! SUPPORT. Element `i` of what the lane operations make of their sources (07 R105). -/

namespace Sys2Proof.Machine

theorem getElem?_maskRes {act : List Bool} {rs : List Res} {i : Nat} {a : Bool} {r : Res} (ha : act[i]? = some a) (hr : rs[i]? = some r) :
    (maskRes act rs)[i]? = some (if a then some r else none) := by
  induction act generalizing rs i with
  | nil => simp at ha
  | cons b act ih =>
    match rs, i with
    | [], _ => simp at hr
    | x :: rs, 0 =>
      simp only [List.getElem?_cons_zero, Option.some.injEq] at ha hr
      simp [maskRes, ha, hr]
    | x :: rs, i + 1 =>
      rw [maskRes, List.getElem?_cons_succ]
      exact ih (by simpa using ha) (by simpa using hr)

theorem length_maskRes (act : List Bool) (rs : List Res) : (maskRes act rs).length = min act.length rs.length := by
  induction act generalizing rs with
  | nil => simp [maskRes]
  | cons a act ih => cases rs <;> simp [maskRes, ih, Nat.succ_min_succ]

/-- A result that is written is one of an active lane. -/
theorem maskRes_some {act : List Bool} {rs : List Res} {i : Nat} {r : Res} (h : (maskRes act rs)[i]? = some (some r)) :
    act.getD i false = true ∧ rs[i]? = some r := by
  induction act generalizing rs i with
  | nil => simp [maskRes] at h
  | cons b act ih =>
    match rs, i with
    | [], _ => simp [maskRes] at h
    | x :: rs, 0 =>
      cases b <;> simp [maskRes] at h
      simp [h]
    | x :: rs, i + 1 =>
      rw [maskRes, List.getElem?_cons_succ] at h
      simpa using ih h

theorem getElem?_lane2 {f : Nat → Nat → Nat × FlagSet} {xs ys : List El} {i : Nat} {x y : El} (hx : xs[i]? = some x)
    (hy : ys[i]? = some y) :
    (lane2 f xs ys)[i]? = some (if x.bad || y.bad then Res.poisoned else .ok (f x.bits y.bits)) := by
  induction xs generalizing ys i with
  | nil => simp at hx
  | cons a xs ih =>
    match ys, i with
    | [], _ => simp at hy
    | b :: ys, 0 =>
      simp only [List.getElem?_cons_zero, Option.some.injEq] at hx hy
      simp [lane2, hx, hy]
    | b :: ys, i + 1 =>
      rw [lane2, List.getElem?_cons_succ]
      exact ih (by simpa using hx) (by simpa using hy)

theorem length_lane2 (f : Nat → Nat → Nat × FlagSet) (xs ys : List El) : (lane2 f xs ys).length = min xs.length ys.length := by
  induction xs generalizing ys with
  | nil => simp [lane2]
  | cons a xs ih => cases ys <;> simp [lane2, ih, Nat.succ_min_succ]

theorem getElem?_vselEls {ps : List Bool} {bs cs : List El} {i : Nat} {p : Bool} {b c : El} (hp : ps[i]? = some p) (hb : bs[i]? = some b)
    (hc : cs[i]? = some c) : (vselEls ps bs cs)[i]? = some (Res.ofEl (if p then b else c)) := by
  induction ps generalizing bs cs i with
  | nil => simp at hp
  | cons q ps ih =>
    match bs, cs, i with
    | [], _, _ => simp at hb
    | _ :: _, [], _ => simp at hc
    | x :: bs, y :: cs, 0 =>
      simp only [List.getElem?_cons_zero, Option.some.injEq] at hp hb hc
      simp [vselEls, hp, hb, hc]
    | x :: bs, y :: cs, i + 1 =>
      rw [vselEls, List.getElem?_cons_succ]
      exact ih (by simpa using hp) (by simpa using hb) (by simpa using hc)

theorem length_vselEls (ps : List Bool) (bs cs : List El) : (vselEls ps bs cs).length = min ps.length (min bs.length cs.length) := by
  induction ps generalizing bs cs with
  | nil => simp [vselEls]
  | cons q ps ih =>
    match bs, cs with
    | [], _ => simp [vselEls]
    | _ :: _, [] => simp [vselEls]
    | x :: bs, y :: cs => simp [vselEls, ih, Nat.succ_min_succ]

theorem getElem?_of_getD {l : List Bool} {i : Nat} (hi : i < l.length) : l[i]? = some (l.getD i false) := by
  rw [List.getD_eq_getElem?_getD, List.getElem?_eq_getElem hi]
  rfl

theorem Res.ofEl_bad (e : El) : (Res.ofEl e).bad = e.bad := by
  rw [Res.ofEl]
  split
  · next h => rw [h]; rfl
  · next h => simpa using h

/-- A lane of 32 bits or more holds one element, or a part of one. -/
theorem sameLane_wide {w i j : Nat} (hw : w = 32 ∨ w = 64) (h : sameLane w j i) : j = i := by
  rw [sameLane] at h
  rcases hw with rfl | rfl <;> omega

end Sys2Proof.Machine
end

section
/-! SUPPORT. Predicates written and read at an element width (06 R97). -/

namespace Sys2Proof.Machine

theorem getElem?_pickBits {as ns os : List Bool} {i : Nat} {a n o : Bool} (ha : as[i]? = some a) (hn : ns[i]? = some n)
    (ho : os[i]? = some o) : (pickBits as ns os)[i]? = some (if a then n else o) := by
  induction as generalizing ns os i with
  | nil => simp at ha
  | cons x as ih =>
    match ns, os, i with
    | [], _, _ => simp at hn
    | _ :: _, [], _ => simp at ho
    | y :: ns, z :: os, 0 =>
      simp only [List.getElem?_cons_zero, Option.some.injEq] at ha hn ho
      simp [pickBits, ha, hn, ho]
    | y :: ns, z :: os, i + 1 =>
      rw [pickBits, List.getElem?_cons_succ]
      exact ih (by simpa using ha) (by simpa using hn) (by simpa using ho)

/-- An element of `8 m` bits has `m` predicate bits. -/
theorem width8 {w : Nat} (h : w ∈ [8, 16, 32, 64]) : ∃ m, 0 < m ∧ w = 8 * m ∧ (8192 / w) * m = 1024 := by
  simp only [List.mem_cons, List.not_mem_nil, or_false] at h
  rcases h with rfl | rfl | rfl | rfl
  · exact ⟨1, by decide, rfl, rfl⟩
  · exact ⟨2, by decide, rfl, rfl⟩
  · exact ⟨4, by decide, rfl, rfl⟩
  · exact ⟨8, by decide, rfl, rfl⟩

/-- Bit `k` of a predicate after a write. -/
theorem predWrite_bit {w k : Nat} (hw : w ∈ [8, 16, 32, 64]) (old : PBits) {act l : List Bool} (ha : act.length = 8192 / w)
    (hl : l.length = 8192 / w) (hk : k < 1024) :
    (predWrite w old act l).getLsbD k =
      if act.getD (8 * k / w) false then l.getD (8 * k / w) false else old.getLsbD k := by
  obtain ⟨m, hm, rfl, hn⟩ := width8 hw
  have h4 : (8 * m == 4) = false := by
    have : 8 * m ≠ 4 := by omega
    simpa using this
  have hd : 8 * k / (8 * m) = k / m := Nat.mul_div_mul_left _ _ (by decide)
  have hlt : k / m < 8192 / (8 * m) := Nat.div_lt_of_lt_mul (by rw [Nat.mul_comm, hn]; exact hk)
  have hpick := getElem?_pickBits (i := k) (as := act.flatMap (fun b => List.replicate m b)) (ns := l.flatMap (fun b => List.replicate m b))
    (os := bitList 1024 old.toNat) (a := act.getD (k / m) false) (n := l.getD (k / m) false) (o := old.getLsbD k)
    (by rw [getElem?_flatMap_replicate _ hm]; exact getElem?_of_getD (by omega))
    (by rw [getElem?_flatMap_replicate _ hm]; exact getElem?_of_getD (by omega)) (getElem?_bitList _ _ _ hk)
  rw [hd, predWrite]
  simp only [h4, Bool.false_eq_true, if_false, Nat.mul_div_cancel_left m (show 0 < 8 by decide)]
  rw [BitVec.getLsbD_ofNat, packBits_testBit, List.getD_eq_getElem?_getD, hpick]
  simp [hk]

/-- What is read back at the width it was written at. -/
theorem predLanes_predWrite {w : Nat} (hw : w ∈ [8, 16, 32, 64]) (old : PBits) {act l : List Bool} (ha : act.length = 8192 / w)
    (hl : l.length = 8192 / w) (hall : ∀ i, i < 8192 / w → act.getD i false = true) :
    predLanes w (predWrite w old act l) = l := by
  have hbit (k : Nat) (hk : k < 1024) := predWrite_bit hw old ha hl hk
  generalize predWrite w old act l = p at hbit ⊢
  obtain ⟨m, hm, rfl, hn⟩ := width8 hw
  have h4 : (8 * m == 4) = false := by
    have : 8 * m ≠ 4 := by omega
    simpa using this
  rw [predLanes, h4]
  simp only [Bool.false_eq_true, if_false, Nat.mul_div_cancel_left m (show 0 < 8 by decide)]
  refine List.ext_getElem? fun i => ?_
  by_cases hi : i < 8192 / (8 * m)
  · have hmi : m * i < 1024 := by
      rw [← hn, Nat.mul_comm]
      exact Nat.mul_lt_mul_of_pos_right hi hm
    have hd : 8 * (m * i) / (8 * m) = i := by rw [← Nat.mul_assoc, Nat.mul_div_cancel_left i (by omega)]
    have hb := hbit (m * i) hmi
    rw [hd, hall i hi, if_pos rfl, BitVec.getLsbD, Nat.testBit_eq_decide_div_mod_eq] at hb
    have hodd : p.toNat / 2 ^ (m * i) % 2 ^ m % 2 = p.toNat / 2 ^ (m * i) % 2 :=
      Nat.mod_mod_of_dvd _ (dvd_pow_self 2 hm.ne')
    rw [List.getElem?_map, getElem?_fields _ _ _ _ hi, Option.map_some, hodd, getElem?_of_getD (by omega), ← hb]
    rfl
  · rw [List.getElem?_eq_none (by rw [List.length_map, length_fields]; omega), List.getElem?_eq_none (by omega)]

end Sys2Proof.Machine
end

section
/-! Settled: the lane rules (O34) and the element values (O35). -/

namespace Sys2Proof.Machine

theorem Ty.width_pos (t : Ty) : 0 < t.width := by cases t <;> decide

/-- An element as an integer of its type, in the two ways it is said. -/
theorem readInt_eq_elInt (t : Ty) {x : Nat} (hx : x < 2 ^ t.width) : readInt t.isSigned t.width x = elInt t x := by
  have htop : x.testBit (t.width - 1) = decide (2 ^ (t.width - 1) ≤ x) := by
    have hp : 2 ^ t.width = 2 * 2 ^ (t.width - 1) := by
      rw [← pow_succ', Nat.sub_add_cancel (Ty.width_pos t)]
    rw [Nat.testBit_eq_decide_div_mod_eq]
    refine decide_eq_decide.mpr ⟨fun h => ?_, fun h => ?_⟩
    · by_contra hlt
      rw [Nat.div_eq_of_lt (by omega)] at h
      omega
    · have hd : x / 2 ^ (t.width - 1) = 1 :=
        Nat.div_eq_of_lt_le (by omega) (by omega)
      rw [hd]
  rw [readInt, elInt, htop]

/-- An exact integer delivered, in the two ways it is said. -/
theorem deliverInt_eq_intSpec (t : Ty) (sat : Bool) (e : Int) : deliverInt t.isSigned t.width sat e = intSpec t sat e := by
  have hlo : intLo t.isSigned t.width ≤ intHi t.isSigned t.width := by
    rw [intLo, intHi]
    have h1 := Int.pow_pos (n := 2) (by decide) (m := t.width - 1)
    have h2 := Int.pow_pos (n := 2) (by decide) (m := t.width)
    split <;> omega
  have hspec : intSpec t sat e =
      if sat && decide (e < intLo t.isSigned t.width) then (lowBits t.width (intLo t.isSigned t.width), fClamp)
      else if sat && decide (intHi t.isSigned t.width < e) then (lowBits t.width (intHi t.isSigned t.width), fClamp)
      else (lowBits t.width e, 0) := rfl
  rw [hspec, deliverInt]
  generalize intLo t.isSigned t.width = lo at hlo ⊢
  generalize intHi t.isSigned t.width = hi at hlo ⊢
  cases sat with
  | false => simp
  | true =>
    simp only [if_true, Bool.true_and, decide_eq_true_eq, clampInt, gt_iff_lt, flagIf]
    by_cases h1 : e < lo
    · simp [h1, ne_of_gt h1]
    · by_cases h2 : hi < e
      · simp [h1, h2, ne_of_lt h2]
      · simp [h1, h2]

/-- Settles O34. -/
theorem laneRules : Obligations.LaneRules := by
  unfold Obligations.LaneRules
  refine ⟨fun w i old a b act f hw ha hi r hr => ?_, fun w k old act l hw ha hl hk =>
    ⟨predWrite_bit hw old ha hl hk, predLanes_predWrite hw old ha hl⟩, fun t x y ht hx hy => ?_,
    fun w i old b c act pick hw ha hp hi hai e he r hr => ?_⟩
  · subst hr
    have hw' : isWidth w := hw
    have hel (j : Nat) (hj : j < 8192 / w) : (lane2 f (a.els w) (b.els w))[j]? =
        some (if (elAt w a j).bad || (elAt w b j).bad then Res.poisoned else .ok (f (elAt w a j).bits (elAt w b j).bits)) :=
      getElem?_lane2 (getElem?_els hw' a hj) (getElem?_els hw' b hj)
    have hlen : (maskRes act (lane2 f (a.els w) (b.els w))).length = 8192 / w := by
      rw [length_maskRes, length_lane2, length_els hw', length_els hw', ha, Nat.min_self, Nat.min_self]
    have hat (j : Nat) (hj : j < 8192 / w) : (maskRes act (lane2 f (a.els w) (b.els w)))[j]? =
        some (if act.getD j false then some (if (elAt w a j).bad || (elAt w b j).bad then Res.poisoned
          else .ok (f (elAt w a j).bits (elAt w b j).bits)) else none) :=
      getElem?_maskRes (getElem?_of_getD (by omega)) (hel j hj)
    refine ⟨fun hs => ?_, fun hai hbad => ?_⟩
    · obtain ⟨hbits, hgood⟩ := elAt_vwrite_sound hw' old
        (firstCause [(readsBad act (a.els w), a.cause), (readsBad act (b.els w), b.cause)]) hi hlen (by
          intro j r hj hr
          obtain ⟨haj, hrj⟩ := maskRes_some hr
          obtain ⟨h1, h2⟩ := hs j hj haj
          have hjl : j < 8192 / w := hlen ▸ (List.getElem?_eq_some_iff.mp hr).1
          rw [hel j hjl, h1, h2] at hrj
          cases hrj
          rfl)
      refine ⟨fun hai => ⟨?_, fun h32 => ?_⟩, fun hai => ?_⟩
      · obtain ⟨h1, h2⟩ := hs i rfl hai
        exact hbits.trans (by rw [resAt, hat i hi, hai, h1, h2]; rfl)
      · refine hgood fun j hj _ => ?_
        have hwide : w = 32 ∨ w = 64 := by
          simp only [List.mem_cons, List.not_mem_nil, or_false] at hw
          omega
        rw [sameLane_wide hwide hj, resAt, hat i hi, hai]
        simp
      · refine hbits.trans ?_
        rw [resAt, hat i hi, hai]
        exact Nat.mod_eq_of_lt (elAt_lt ..)
    · have hr : (maskRes act (lane2 f (a.els w) (b.els w)))[i]? = some (some Res.poisoned) := by
        rw [hat i hi, hai]
        rcases hbad with h | h <;> simp [h]
      have := elAt_vwrite_poisoned hw' old (firstCause [(readsBad act (a.els w), a.cause), (readsBad act (b.els w), b.cause)]) hi hr rfl
      rw [vmap2]
      exact ⟨congrArg El.bits this, congrArg El.bad this⟩
  · simp only [vcmpElem, ht, if_true, readInt_eq_elInt t hx, readInt_eq_elInt t hy]
    simp
  · subst hr
    have hw' : isWidth w := by
      simp only [List.mem_cons, List.not_mem_nil, or_false] at hw
      rcases hw with rfl | rfl <;> simp [isWidth]
    have hwide : w = 32 ∨ w = 64 := by simpa using hw
    have hlen : (maskRes act (vselEls pick (b.els w) (c.els w))).length = 8192 / w := by
      rw [length_maskRes, length_vselEls, length_els hw', length_els hw', ha, hp]
      simp
    have hat : (maskRes act (vselEls pick (b.els w) (c.els w)))[i]? = some (some (Res.ofEl e)) := by
      rw [getElem?_maskRes (getElem?_of_getD (by omega))
        (getElem?_vselEls (getElem?_of_getD (by omega)) (getElem?_els hw' b hi) (getElem?_els hw' c hi)), hai, he]
      rfl
    rw [vselect]
    cases hb : e.bad with
    | false =>
      obtain ⟨hbits, hgood⟩ := elAt_vwrite_sound hw' old (firstCause
        [(readsBad (act.zipWith (· && ·) pick) (b.els w), b.cause),
          (readsBad (act.zipWith (fun a p => a && !p) pick) (c.els w), c.cause)]) hi hlen (by
          intro j r hj hr
          rw [sameLane_wide hwide hj, hat] at hr
          cases hr
          rw [Res.ofEl_bad, hb])
      have hlt : e.bits < 2 ^ w := by rw [he]; split <;> exact elAt_lt ..
      have hval : (Res.ofEl e).bits = e.bits := by rw [Res.ofEl, hb]; rfl
      refine ⟨hgood fun j hj _ => by rw [sameLane_wide hwide hj, resAt, hat]; simp, fun _ => ?_, by simp⟩
      refine hbits.trans ?_
      rw [resAt, hat]
      exact (congrArg (· % 2 ^ w) hval).trans (Nat.mod_eq_of_lt hlt)
    | true =>
      have := elAt_vwrite_poisoned hw' old (firstCause
        [(readsBad (act.zipWith (· && ·) pick) (b.els w), b.cause),
          (readsBad (act.zipWith (fun a p => a && !p) pick) (c.els w), c.cause)]) hi hat (by rw [Res.ofEl_bad, hb])
      exact ⟨congrArg El.bad this, by simp, fun _ => congrArg El.bits this⟩

-- floating values that the format has

/-- Digits that start at the position where the format's own end are kept whole, in every mode. -/
theorem roundAt_exact (mode : Rnd) (neg : Bool) (m : Nat) (e : Int) : roundAt mode neg m e false e = (m, false) := by
  have hd : e - (e - 2) = 2 := by omega
  have hl : Nat.min 2 (Nat.log2 (4 * m) + 2) = 2 := Nat.min_eq_left (by omega)
  have hup : roundsUp mode neg (m % 2 == 1) 0 (4 / 2) = false := by cases mode <;> simp [roundsUp]
  simp only [roundAt, hd, Bool.false_eq_true, if_false, Nat.add_zero, show ¬ ((2 : Int) ≤ 0) by decide, show (2 : Int).toNat = 2 from rfl,
    hl, show 2 ^ 2 = 4 from rfl, Nat.mul_div_cancel_left m (show 0 < 4 by decide), Nat.mul_mod_right, hup]
  rfl

/-- The exponent of the leading bit. -/
theorem log2_four_mul_add_one {m : Nat} (hm : m ≠ 0) : Nat.log2 (4 * m + 1) = Nat.log2 m + 2 := by
  refine (Nat.log2_eq_iff (by omega)).mpr ?_
  have h1 := Nat.log2_self_le hm
  have h2 := @Nat.lt_log2_self m
  rw [pow_succ] at h2
  constructor
  · rw [pow_add]; omega
  · rw [show Nat.log2 m + 2 + 1 = Nat.log2 m + 3 by omega, pow_add]; omega

/-- A subnormal number. -/
theorem FFmt.round_subnormal (f : FFmt) (mode : Rnd) (sat neg : Bool) {m : Nat} (hm : m ≠ 0) (hlt : m < 2 ^ f.mbits) :
    f.round mode sat neg m (f.emin - f.mbits) = (f.signBit neg + m, 0) := by
  have hlog : Nat.log2 m < f.mbits := (Nat.log2_lt hm).mpr hlt
  have hq : (if ((Nat.log2 (4 * m + 1) : Nat) : Int) + (f.emin - f.mbits - 2) < f.emin then f.emin
      else ((Nat.log2 (4 * m + 1) : Nat) : Int) + (f.emin - f.mbits - 2)) = f.emin := by
    rw [log2_four_mul_add_one hm, if_pos (by omega)]
  have hne : ¬ (m == 2 ^ (f.mbits + 1)) = true := by
    rw [pow_succ, beq_iff_eq]
    omega
  have h0 : ¬ (m == 0 && !false) = true := by simpa using hm
  rw [FFmt.round, if_neg h0]
  simp only [hq, roundAt_exact mode neg, if_neg hne, if_pos hlt, flagIf]
  rfl

/-- A normal number. -/
theorem FFmt.round_normal (f : FFmt) (mode : Rnd) (sat neg : Bool) {a ex : Nat} (ha : a < 2 ^ f.mbits) (hex : 0 < ex)
    (hmax : ex * 2 ^ f.mbits + a ≤ f.maxBits) :
    f.round mode sat neg (a + 2 ^ f.mbits) ((ex : Int) - f.bias - f.mbits) = (f.signBit neg + (ex * 2 ^ f.mbits + a), 0) := by
  have hpos := Nat.two_pow_pos f.mbits
  have hm : a + 2 ^ f.mbits ≠ 0 := by omega
  have hlog : Nat.log2 (a + 2 ^ f.mbits) = f.mbits := (Nat.log2_eq_iff hm).mpr ⟨by omega, by rw [pow_succ]; omega⟩
  have hq : (if ((Nat.log2 (4 * (a + 2 ^ f.mbits) + 1) : Nat) : Int) + ((ex : Int) - f.bias - f.mbits - 2) < f.emin then f.emin
      else ((Nat.log2 (4 * (a + 2 ^ f.mbits) + 1) : Nat) : Int) + ((ex : Int) - f.bias - f.mbits - 2)) = (ex : Int) - f.bias := by
    rw [log2_four_mul_add_one hm, hlog, FFmt.emin]
    split <;> omega
  have hne : ¬ (a + 2 ^ f.mbits == 2 ^ (f.mbits + 1)) = true := by
    rw [pow_succ, beq_iff_eq]
    omega
  have h0 : ¬ (a + 2 ^ f.mbits == 0 && !false) = true := by simp
  have hmag : ((ex : Int) - f.bias - f.mbits + f.mbits + f.bias) * (2 ^ f.mbits : Int) + (((a + 2 ^ f.mbits : Nat) : Int) - 2 ^ f.mbits) =
      ((ex * 2 ^ f.mbits + a : Nat) : Int) := by
    push_cast
    ring
  rw [FFmt.round, if_neg h0]
  simp only [hq, roundAt_exact mode neg, if_neg hne, if_neg (show ¬ a + 2 ^ f.mbits < 2 ^ f.mbits by omega), hmag]
  rw [if_neg (Int.not_lt.mpr (Int.ofNat_le.mpr hmax)), Int.toNat_natCast]
  rfl

/-- The word of a number from its sign, its exponent field and its fraction. -/
theorem FFmt.word_parts (f : FFmt) {x : Nat} (hx : x < 2 ^ f.width) :
    f.signBit (x.testBit (f.ebits + f.mbits)) + (x / 2 ^ f.mbits % 2 ^ f.ebits * 2 ^ f.mbits + x % 2 ^ f.mbits) = x := by
  have hwidth : f.width = f.ebits + f.mbits + 1 := by rw [FFmt.width]; omega
  have hs : x / 2 ^ (f.ebits + f.mbits) < 2 := Nat.div_lt_of_lt_mul (by rw [hwidth, pow_succ] at hx; exact hx)
  have hsign : f.signBit (x.testBit (f.ebits + f.mbits)) = x / 2 ^ (f.ebits + f.mbits) * 2 ^ (f.ebits + f.mbits) := by
    rw [FFmt.signBit, Nat.testBit_eq_decide_div_mod_eq, Nat.mod_eq_of_lt hs]
    rcases Nat.le_one_iff_eq_zero_or_eq_one.mp (Nat.lt_succ_iff.mp hs) with h | h <;> simp [h]
  have h1 := Nat.div_add_mod x (2 ^ f.mbits)
  have h2 := Nat.div_add_mod (x / 2 ^ f.mbits) (2 ^ f.ebits)
  rw [hsign, Nat.add_comm f.ebits f.mbits, pow_add, ← Nat.div_div_eq_div_mul]
  calc _ = 2 ^ f.mbits * (2 ^ f.ebits * (x / 2 ^ f.mbits / 2 ^ f.ebits) + x / 2 ^ f.mbits % 2 ^ f.ebits) + x % 2 ^ f.mbits := by ring
    _ = x := by rw [h2, h1]

/-- A finite number of a format with infinities is delivered as itself (02 R31). -/
theorem FFmt.round_read {f : FFmt} (hinf : f.hasInf = true) (hmax : f.maxBits + 1 = f.infBits) (mode : Rnd) (sat : Bool) {n : Bool}
    {x m : Nat} {e : Int} (hx : x < 2 ^ f.width) (hr : f.read x = .fin n m e) (hm : m ≠ 0) : f.round mode sat n m e = (x, 0) := by
  have hword := f.word_parts hx
  have hfrac := Nat.mod_lt x (Nat.two_pow_pos f.mbits)
  have hexp := Nat.mod_lt (x / 2 ^ f.mbits) (Nat.two_pow_pos f.ebits)
  rw [FFmt.read] at hr
  simp only [hinf, Bool.and_true] at hr
  generalize x / 2 ^ f.mbits % 2 ^ f.ebits = ex at hword hexp hr
  generalize x % 2 ^ f.mbits = a at hword hfrac hr
  split at hr
  · next h0 =>
    cases hr
    rw [beq_iff_eq] at h0
    rw [h0, Nat.zero_mul, Nat.zero_add] at hword
    rw [f.round_subnormal mode sat _ hm hfrac, hword]
  · next h0 =>
    split at hr
    · split at hr <;> exact absurd hr (by simp)
    · next hones =>
      have hlt : ex < 2 ^ f.ebits - 1 := by
        have : ¬ ex = 2 ^ f.ebits - 1 := by simpa using hones
        omega
      simp only [hones] at hr
      cases hr
      refine (f.round_normal mode sat _ hfrac (Nat.pos_of_ne_zero (by simpa using h0)) ?_).trans (by rw [hword])
      have hle : (ex + 1) * 2 ^ f.mbits ≤ f.infBits := Nat.mul_le_mul_right _ hlt
      rw [Nat.succ_mul] at hle
      omega

/-- Settles O35. -/
theorem elementValues : Obligations.ElementValues := by
  unfold Obligations.ElementValues
  refine ⟨fun t mode sat x y z ht hx hy hz => ?_, fun t mode sat n x m e ht hx hr hm => ?_⟩
  · have hrx := readInt_eq_elInt t hx
    have hry := readInt_eq_elInt t hy
    have hrz := readInt_eq_elInt t hz
    simp only [vaddElem, vsubElem, vmulElem, fuseElem, vabsElem, vnegElem, vmulhElem, vminmaxElem, vshlElem, vshrElem, intElem, ht, if_true,
      hrx, hry, hrz, deliverInt_eq_intSpec, Nat.shiftLeft_eq, Nat.shiftRight_eq_div_pow]
    refine ⟨trivial, trivial, trivial, trivial, trivial, trivial, trivial, trivial, by simp [intSpec, lowBits], ?_, ?_, trivial, trivial⟩
    · by_cases h : elInt t x < elInt t y
      · simp [h, h.le]
      · simp [h, Int.not_lt.mp h]
    · by_cases h : elInt t x < elInt t y
      · simp [h, h.le]
      · simp [h, Int.not_lt.mp h]
  · cases t <;> simp only [Ty.isFl, Bool.false_eq_true] at ht
    all_goals exact FFmt.round_read rfl rfl mode sat hx hr hm

end Sys2Proof.Machine
end

section
/-! SUPPORT. Members whose effect is a vector or predicate result leave the rest of the package (06 R91, 01 R20). -/

namespace Sys2Proof.Machine

/-- A change of a core's files that leaves its engines and all that `Core.Kept` names. -/
theorem Ran.modCore {s : State} {f : Core → Core} (hk : Core.Kept s.curCore (f s.curCore))
    (he : ∀ e, (f s.curCore).eng e = s.curCore.eng e) : Ran s (s.modCore s.cur.1 f) where
  pkg := .modCore ..
  core := by simpa [State.curCore] using hk
  eng := by
    have : (s.modCore s.cur.1 f).curEng = s.curEng := by
      simpa [State.curEng, State.eng, State.curCore] using he s.cur.2
    rw [this]
    exact .refl _
  engs e _ := by simpa [State.eng, State.curCore] using he e

/-- It keeps the issue of the group, where it keeps tokens, landings and commands in flight. -/
theorem State.Issuing.modCore {s : State} {h : Hdr} {g : Grp} {f : Core → Core} (hi : s.Issuing h g)
    (he : ∀ e, (f s.curCore).eng e = s.curCore.eng e)
    (hk : (f s.curCore).occ = s.curCore.occ ∧ (f s.curCore).landing = s.curCore.landing ∧ (f s.curCore).flight = s.curCore.flight) :
    (s.modCore s.cur.1 f).Issuing h g := by
  obtain ⟨h1, h2, h3, h4, h5, h6, h7⟩ := hi
  obtain ⟨ho, hl, hf⟩ := hk
  have hcore : (s.modCore s.cur.1 f).core s.cur.1 = f s.curCore := by simp [State.curCore]
  have heng : (s.modCore s.cur.1 f).curEng = s.curEng := by
    simpa [State.curEng, State.eng, State.curCore] using he s.cur.2
  have hcur : (s.modCore s.cur.1 f).curCore = f s.curCore := by simp [State.curCore]
  refine ⟨by rw [heng]; exact h1, ?_, ?_, ?_, ?_, h6, h7⟩
  · rw [hcur, Core.room, ho]
    exact h2
  · rw [hcur, hl, heng]
    exact h3
  · rw [State.modCore_cur, State.behind, hcore, Core.owing, hf]
    exact h4
  · rw [State.modCore_cur, State.unretired, hcore, hf]
    exact h5

theorem Core.Kept.setV (k : Core) (n : Nat) (v : VVal) : Core.Kept k (k.setV n v) := by constructor <;> rfl

theorem Core.Kept.setPred (k : Core) (n : Nat) (p : PBits) : Core.Kept k (k.setPred n p) := by
  rw [Core.setPred]
  split
  · exact .refl k
  · constructor <;> rfl

theorem Core.setPred_eng (k : Core) (n : Nat) (p : PBits) (e : Eng) : (k.setPred n p).eng e = k.eng e := by
  rw [Core.setPred]
  split
  · rfl
  · cases e <;> rfl

/-- A vector destination written: what stays. -/
theorem State.vwr_frame {s : State} {h : Hdr} {g : Grp} (hi : s.Issuing h g) (d : VDst) (v : VVal) :
    (s.vwr d v).Issuing h g ∧ Ran s (s.vwr d v) ∧ (s.vwr d v).curEng = s.curEng ∧ (s.vwr d v).curCore.p = s.curCore.p ∧
    ∀ n : Fin 768, d ≠ .v n → (s.vwr d v).curCore.vreg n.val = s.curCore.vreg n.val := by
  cases d with
  | z => exact ⟨hi, .refl s, rfl, rfl, fun _ _ => rfl⟩
  | v m =>
    have hcur : (s.vwr (.v m) v).curCore = s.curCore.setV m.val v := by simp [State.vwr, State.curCore]
    have heng : ∀ e, (s.curCore.setV m.val v).eng e = s.curCore.eng e := fun e => by cases e <;> rfl
    refine ⟨hi.modCore (f := fun k => k.setV m.val v) heng ⟨rfl, rfl, rfl⟩,
      Ran.modCore (f := fun k => k.setV m.val v) (.setV ..) heng, ?_, ?_, fun n hn => ?_⟩
    · simpa [State.vwr, State.curEng, State.eng, State.curCore] using heng s.cur.2
    · rw [hcur]; rfl
    · have hne : m.val ≠ n.val := fun he => hn (by rw [Fin.ext he])
      rw [hcur, Core.vreg, Core.setV, Store.get_put, if_neg hne, Core.vreg]

/-- A predicate destination written: what stays. -/
theorem State.pwr_frame {s : State} {h : Hdr} {g : Grp} (hi : s.Issuing h g) (d : Fin 16) (p : PBits) :
    (s.pwr d p).Issuing h g ∧ Ran s (s.pwr d p) ∧ (s.pwr d p).curEng = s.curEng ∧ (s.pwr d p).curCore.v = s.curCore.v ∧
    ∀ n : Fin 16, d ≠ n → (s.pwr d p).curCore.pred n.val = s.curCore.pred n.val := by
  have hcur : (s.pwr d p).curCore = s.curCore.setPred d.val p := by simp [State.pwr, State.curCore]
  refine ⟨hi.modCore (f := fun k => k.setPred d.val p) (Core.setPred_eng _ _ _) ?_,
    Ran.modCore (f := fun k => k.setPred d.val p) (.setPred ..) (Core.setPred_eng _ _ _), ?_, ?_, fun n hn => ?_⟩
  · rw [Core.setPred]
    split <;> exact ⟨rfl, rfl, rfl⟩
  · simpa [State.pwr, State.curEng, State.eng, State.curCore] using Core.setPred_eng s.curCore d.val p s.cur.2
  · rw [hcur, Core.setPred]
    split <;> rfl
  · have hne : d.val ≠ n.val := fun he => hn (Fin.ext he)
    rw [hcur, Core.setPred]
    split
    · rfl
    · rw [Core.pred, Core.pred, Store.get_put, if_neg hne]

/-- A word with a vector destination is one vector result. -/
theorem vecShape_exec {i : Instr} {h : Hdr} {d : VDst} (hs : vecShape i = some (h, d)) :
    hdrD i = h ∧ ∃ r : Grp → State → VVal × FlagSet, exec i = performWord i (fun g s => vecDone d (r g s) s) := by
  unfold vecShape at hs
  split at hs
  all_goals
    cases hs <;>
    exact ⟨rfl, _, rfl⟩

/-- A word with a predicate destination is one predicate result. -/
theorem predShape_exec {i : Instr} {h : Hdr} {d : Fin 16} (hs : predShape i = some (h, d)) :
    hdrD i = h ∧ ∃ r : State → PBits × FlagSet, exec i = performWord i (fun _ s => predDone d (r s) s) := by
  unfold predShape at hs
  split at hs
  all_goals
    cases hs <;>
    exact ⟨rfl, _, rfl⟩

end Sys2Proof.Machine
end

section
/-! Settled: what a vector or predicate word leaves (O41), and the predicate words (O36). -/

namespace Sys2Proof.Machine

/-- Settles O41, from the one shape of the words with one destination. -/
theorem vectorFrame : Obligations.VectorFrame := by
  unfold Obligations.VectorFrame
  intro s g i h hi
  refine ⟨fun d hs => ?_, fun d hs => ?_⟩
  · obtain ⟨hh, r, he⟩ := vecShape_exec hs
    obtain ⟨hiu, hru, heng, hp, hv⟩ := State.vwr_frame hi d (r g s).1
    obtain ⟨hran, hregs, -, hff, hvv, hpp⟩ := retire_next hiu (some (.vec (r g s).1)) (r g s).2
    refine ⟨_, exec_vecOut r hi.grp (congrFun he s) hh, hru.trans hran, fun n hn => ?_, hpp.trans hp, fun n => ?_, (r g s).2, ?_⟩
    · exact (congrArg (fun v => Store.get v n.val VVal.zero) hvv).trans (hv n hn)
    · exact Engine.reg_congr (hregs.trans (congrArg Engine.regs heng)) n
    · rw [← heng]
      exact hff
  · obtain ⟨hh, r, he⟩ := predShape_exec hs
    obtain ⟨hiu, hru, heng, hv, hp⟩ := State.pwr_frame hi d (r s).1
    obtain ⟨hran, hregs, -, hff, hvv, hpp⟩ := retire_next hiu (some (.pred (r s).1)) (r s).2
    refine ⟨_, exec_predOut r hi.grp (congrFun he s) hh, hru.trans hran, hvv.trans hv, fun n hn => ?_, fun n => ?_, (r s).2, ?_⟩
    · refine Eq.trans ?_ (hp n hn)
      rw [Core.pred, Core.pred]
      exact congrArg (fun p => if n.val = 0 then BitVec.allOnes 1024 else Store.get p n.val 0) hpp
    · exact Engine.reg_congr (hregs.trans (congrArg Engine.regs heng)) n
    · rw [← heng]
      exact hff

theorem countTrue_eq (l : List Bool) : countTrue l = l.countP id := by
  induction l with
  | nil => rfl
  | cons b l ih => cases b <;> simp [countTrue, ih, Nat.add_comm]

/-- The first true lane, or the number of lanes. -/
theorem firstTrue_eq {l : List Bool} {k : Nat} (h1 : k < l.length → l.getD k false = true) (h2 : k ≤ l.length)
    (h3 : ∀ j, j < k → l.getD j false = false) (n : Nat) : firstTrue l n = n + k := by
  induction l generalizing k n with
  | nil => simpa [firstTrue] using h2
  | cons b l ih =>
    cases k with
    | zero =>
      have hb : b = true := by simpa using h1 (by simp)
      simp [firstTrue, hb]
    | succ k =>
      have hb : b = false := by simpa using h3 0 (by omega)
      rw [firstTrue, hb, if_neg (by simp),
        ih (fun h => by simpa using h1 (by simpa using h)) (by simpa using h2) (fun j hj => by simpa using h3 (j + 1) (by omega))]
      omega

/-- Settles O36. -/
theorem predicateWords : Obligations.PredicateWords := by
  unfold Obligations.PredicateWords
  rintro s h g t vc d a b v x c y sd sa hg act la lb put rfl rfl rfl hput
  refine ⟨?_, ?_, ?_, ?_, ?_, ?_, fun k h1 h2 h3 => ?_, ?_, ?_, ?_⟩
  · rw [hput]
    exact exec_predOut (fun s => (predWrite t.width (s.pold d) (s.act h t.width)
      ((predLanes t.width (s.prd a)).zipWith (· && ·) (predLanes t.width (s.prd b))), 0)) hg rfl rfl
  · rw [hput]
    exact exec_predOut (fun s => (predWrite t.width (s.pold d) (s.act h t.width)
      ((predLanes t.width (s.prd a)).zipWith (· || ·) (predLanes t.width (s.prd b))), 0)) hg rfl rfl
  · rw [hput]
    exact exec_predOut (fun s => (predWrite t.width (s.pold d) (s.act h t.width)
      ((predLanes t.width (s.prd a)).zipWith (· != ·) (predLanes t.width (s.prd b))), 0)) hg rfl rfl
  · rw [hput]
    exact exec_predOut (fun s => (predWrite t.width (s.pold d) (s.act h t.width) ((predLanes t.width (s.prd a)).map not), 0)) hg rfl rfl
  · rw [hput]
    change execPmov h t d a sa s = _
    rw [execPmov, performWord_member hg]
    rfl
  · change execPcnt h t sd a s = _
    rw [execPcnt, performWord_member hg, countTrue_eq]
    rfl
  · change execPfirst h t sd a s = _
    have hk : firstTrue (s.counted h t a) 0 = k := (firstTrue_eq h1 h2 h3 0).trans (Nat.zero_add k)
    rw [execPfirst, performWord_member hg, hk]
    rfl
  · exact exec_predOut (fun s => vcompare t.width (s.pold d) (s.act h t.width) ((s.vrd x).operand t.width) (s.vsrd t.width y)
      (vcmpElem vc t)) hg rfl rfl
  · rw [hput]
    change execVclassP h t d x sa s = _
    rw [execVclassP, performWord_member hg]
    rfl
  · exact exec_vecOut (fun _ s => vselect t.width (s.vold v) (s.act h t.width) (predLanes t.width (s.prd a)) (s.vsrd t.width y)
      ((s.vrd c).operand t.width)) hg rfl rfl

end Sys2Proof.Machine
end

section
/-! Settled: the reductions and the scan (07 R121 to R123, O37). -/

namespace Sys2Proof.Machine

theorem isWidth_width (t : Ty) : isWidth t.width := by cases t <;> simp [isWidth, Ty.width]

theorem sumInts_eq (t : Ty) {l : List El} (hl : ∀ e ∈ l, e.bits < 2 ^ t.width) :
    sumInts t l = (l.map (fun e => elInt t e.bits)).sum := by
  induction l with
  | nil => rfl
  | cons x l ih =>
    rw [sumInts, readInt_eq_elInt t (hl x (by simp)), ih fun e he => hl e (by simp [he]), List.map_cons, List.sum_cons]

theorem mem_of_activeEls {act : List Bool} {l : List El} {e : El} (h : e ∈ activeEls act l) : e ∈ l := by
  induction act generalizing l with
  | nil => simp [activeEls] at h
  | cons a act ih =>
    cases l with
    | nil => simp [activeEls] at h
    | cons x l =>
      rw [activeEls] at h
      split at h
      · rcases List.mem_cons.mp h with rfl | h
        · simp
        · simp [ih h]
      · simp [ih h]

theorem els_bits_lt {w : Nat} (hw : isWidth w) (v : VVal) {e : El} (he : e ∈ v.els w) : e.bits < 2 ^ w := by
  obtain ⟨i, hi⟩ := List.getElem?_of_mem he
  have hlt : i < 8192 / w := by
    rw [← length_els hw v]
    exact List.getElem?_eq_some_iff.mp hi |>.1
  rw [getElem?_els hw v hlt, Option.some.injEq] at hi
  rw [← hi]
  exact elAt_lt w v i

theorem elAt_reduceWrite_zero {w : Nat} (h : w ≤ 8192) (r : Nat × FlagSet) (c : BitVec 4) :
    elAt w (reduceWrite w (.ok r) c).1 0 = { bits := r.1 % 2 ^ w, bad := false } := by
  refine El.eq_mk ?_ ?_
  · change (BitVec.ofNat 8192 (r.1 % 2 ^ w)).toNat / 2 ^ (w * 0) % 2 ^ w = _
    rw [Nat.mul_zero, ofNat_div_mod _ (by omega), pow_zero, Nat.div_one, Nat.mod_mod]
  · change (if w == 64 then (0 : BitVec 256).getLsbD _ || (0 : BitVec 256).getLsbD _ else (0 : BitVec 256).getLsbD _) = false
    split <;> simp

theorem elAt_reduceWrite_above {w j : Nat} (hj : 0 < j) (h : w * j + w ≤ 8192) (r : Nat × FlagSet) (c : BitVec 4) :
    elAt w (reduceWrite w (.ok r) c).1 j = { bits := 0, bad := false } := by
  refine El.eq_mk ?_ ?_
  · change (BitVec.ofNat 8192 (r.1 % 2 ^ w)).toNat / 2 ^ (w * j) % 2 ^ w = _
    have hle : w ≤ w * j := Nat.le_mul_of_pos_right w hj
    rw [ofNat_div_mod _ h, Nat.div_eq_of_lt, Nat.zero_mod]
    exact (Nat.mod_lt _ (Nat.two_pow_pos w)).trans_le (Nat.pow_le_pow_right (by decide) hle)
  · change (if w == 64 then (0 : BitVec 256).getLsbD _ || (0 : BitVec 256).getLsbD _ else (0 : BitVec 256).getLsbD _) = false
    split <;> simp

/-- An integer element that VMIN or VMAX prefers to `a`, or takes as well. -/
def wins (isMax : Bool) (t : Ty) (b a : Nat) : Prop :=
  if isMax then readInt t.isSigned t.width a ≤ readInt t.isSigned t.width b
  else readInt t.isSigned t.width b ≤ readInt t.isSigned t.width a

theorem wins_refl (isMax : Bool) (t : Ty) (a : Nat) : wins isMax t a a := by
  cases isMax <;> simp [wins]

theorem wins_trans {isMax : Bool} {t : Ty} {a b c : Nat} (h1 : wins isMax t a b) (h2 : wins isMax t b c) : wins isMax t a c := by
  cases isMax <;> simp only [wins, Bool.false_eq_true, if_false, if_true] at *
  · exact h1.trans h2
  · exact h2.trans h1

/-- The one of two elements that VMIN or VMAX gives. -/
theorem vminmaxElem_wins (isMax : Bool) {t : Ty} (ht : t.isInt = true) (a b : Nat) :
    ((vminmaxElem isMax t a b).1 = a ∨ (vminmaxElem isMax t a b).1 = b) ∧
    wins isMax t (vminmaxElem isMax t a b).1 a ∧ wins isMax t (vminmaxElem isMax t a b).1 b := by
  simp only [vminmaxElem, ht, if_true]
  cases isMax <;> by_cases hlt : readInt t.isSigned t.width a < readInt t.isSigned t.width b <;> simp [wins, hlt] <;> omega

/-- The fold from an element on: one of the elements, which wins over each. -/
theorem foldMinMax_some (isMax : Bool) {t : Ty} (ht : t.isInt = true) (l : List El) (b : Nat) (fl : FlagSet) :
    ∃ r fl', foldMinMax isMax t l (some (b, fl)) = some (r, fl') ∧ (r = b ∨ ∃ e ∈ l, r = e.bits) ∧ wins isMax t r b ∧
      ∀ e ∈ l, wins isMax t r e.bits := by
  induction l generalizing b fl with
  | nil => exact ⟨b, fl, rfl, .inl rfl, wins_refl .., by simp⟩
  | cons x l ih =>
    obtain ⟨hor, hb, hx⟩ := vminmaxElem_wins isMax ht b x.bits
    obtain ⟨r, fl', he, hm, hr, hall⟩ := ih (vminmaxElem isMax t b x.bits).1 (fl ||| (vminmaxElem isMax t b x.bits).2)
    refine ⟨r, fl', he, ?_, wins_trans hr hb, ?_⟩
    · rcases hm with hm | ⟨e, hel, hm⟩
      · rcases hor with h | h
        · exact .inl (hm.trans h)
        · exact .inr ⟨x, by simp, hm.trans h⟩
      · exact .inr ⟨e, by simp [hel], hm⟩
    · intro e hel
      rcases List.mem_cons.mp hel with rfl | hel
      · exact wins_trans hr hx
      · exact hall e hel

/-- VRMAX and VRMIN of integers with an active element, none poisoned: one of them, which wins over each, in element 0. -/
theorem vrminmax_int (isMax : Bool) {t : Ty} (ht : t.isInt = true) {act : List Bool} {x : Operand}
    (hb : ∀ e ∈ activeEls act x.els, e.bad = false) (hlt : ∀ e ∈ activeEls act x.els, e.bits < 2 ^ t.width)
    (hne : activeEls act x.els ≠ []) :
    (∃ e ∈ activeEls act x.els, (elAt t.width (vrminmax isMax t act x).1 0).bits = e.bits) ∧
    ∀ e ∈ activeEls act x.els, wins isMax t (elAt t.width (vrminmax isMax t act x).1 0).bits e.bits := by
  have hany : (activeEls act x.els).any El.bad = false := by
    rw [List.any_eq_false]
    intro e he
    rw [hb e he]
    exact Bool.false_ne_true
  obtain ⟨y, l, hl⟩ := List.exists_cons_of_ne_nil hne
  obtain ⟨r, fl, he, hm, hy, hall⟩ := foldMinMax_some isMax ht l y.bits 0
  have hv : vrminmax isMax t act x = reduceWrite t.width (.ok (r, 0)) x.cause := by
    rw [vrminmax, hany, hl]
    change (match foldMinMax isMax t l (some (y.bits, 0)) with | none => _ | some (r, _) => _) = _
    rw [he]
    simp only [ht, if_true]
  have hmem : ∃ e ∈ activeEls act x.els, r = e.bits := by
    rw [hl]
    rcases hm with rfl | ⟨e, hel, rfl⟩
    · exact ⟨y, by simp, rfl⟩
    · exact ⟨e, by simp [hel], rfl⟩
  have h0 : (elAt t.width (vrminmax isMax t act x).1 0).bits = r := by
    obtain ⟨e, hel, rfl⟩ := hmem
    rw [hv, elAt_reduceWrite_zero (by cases t <;> decide)]
    exact Nat.mod_eq_of_lt (hlt e hel)
  rw [h0, hl]
  rw [hl] at hmem
  refine ⟨hmem, fun e hel => ?_⟩
  rcases List.mem_cons.mp hel with rfl | hel
  · exact hy
  · exact hall e hel

/-- VRADD of integers, none poisoned (R122). -/
theorem vradd_int {t : Ty} (ht : t.isInt = true) (mode : Rnd) (sat : Bool) {act : List Bool} {x : Operand}
    (hb : ∀ e ∈ activeEls act x.els, e.bad = false) :
    vradd t mode sat act x = reduceWrite 64 (.ok (deliverInt t.isSigned 64 sat (sumInts t (activeEls act x.els)))) x.cause := by
  have hany : (activeEls act x.els).any El.bad = false := by
    rw [List.any_eq_false]
    intro e he
    rw [hb e he]
    exact Bool.false_ne_true
  simp only [vradd, ht, if_true, hany, Bool.false_eq_true, if_false]

theorem lowBits_lt (w : Nat) (x : Int) : lowBits w x < 2 ^ w := by
  rw [lowBits, Int.toNat_lt' (Nat.two_pow_pos w)]
  exact_mod_cast Int.emod_lt_of_pos x (by positivity)

theorem deliverInt_lt (sg : Bool) (w : Nat) (sat : Bool) (x : Int) : (deliverInt sg w sat x).1 < 2 ^ w := by
  rw [deliverInt]
  split <;> exact lowBits_lt ..

/-- Settles O37. -/
theorem reductionWords : Obligations.ReductionWords := by
  unfold Obligations.ReductionWords
  rintro s h g t rm sat d a hg mode act x rfl rfl rfl
  refine ⟨?_, ?_, ?_, ?_, fun ht hb wide hw sum hsum => ?_⟩
  · exact exec_vecOut (fun g s => vradd t (g.mode rm) sat (s.act h t.width) ((s.vrd a).operand t.width)) hg rfl rfl
  · exact exec_vecOut (fun _ s => vrminmax true t (s.act h t.width) ((s.vrd a).operand t.width)) hg rfl rfl
  · exact exec_vecOut (fun _ s => vrminmax false t (s.act h t.width) ((s.vrd a).operand t.width)) hg rfl rfl
  · exact exec_vecOut (fun g s => vscan t (g.mode rm) sat (s.vold d) (s.act h t.width) ((s.vrd a).operand t.width)) hg rfl rfl
  · have hlt : ∀ e ∈ activeEls (s.act h t.width) ((s.vrd a).operand t.width).els, e.bits < 2 ^ t.width :=
      fun e he => els_bits_lt (isWidth_width t) (s.vrd a) (mem_of_activeEls he)
    have hwide : wide.width = 64 ∧ wide.isSigned = t.isSigned := by
      subst hw
      cases t <;> exact ⟨rfl, rfl⟩
    have hd : deliverInt t.isSigned 64 sat sum = intSpec wide sat sum := by
      rw [← deliverInt_eq_intSpec, hwide.1, hwide.2]
    have hv := vradd_int ht (resolveRM g.csr.frm rm) sat hb
    rw [sumInts_eq t hlt, ← hsum, hd] at hv
    have hlow : (intSpec wide sat sum).1 < 2 ^ 64 := hd ▸ deliverInt_lt ..
    rw [hv]
    refine ⟨?_, rfl, fun j h0 h1 => elAt_reduceWrite_above h0 (by omega) _ _, fun hne => ?_⟩
    · rw [elAt_reduceWrite_zero (by decide), Nat.mod_eq_of_lt hlow]
    · obtain ⟨hmax, hall⟩ := vrminmax_int true ht hb hlt hne
      obtain ⟨-, hmin⟩ := vrminmax_int false ht hb hlt hne
      refine ⟨hmax, fun e he => ?_⟩
      have h1 := hall e he
      have h2 := hmin e he
      simp only [wins, Bool.false_eq_true, if_false, if_true] at h1 h2
      rw [readInt_eq_elInt t (elAt_lt ..), readInt_eq_elInt t (hlt e he)] at h1 h2
      exact ⟨h1, h2⟩

end Sys2Proof.Machine
end

section
/-! SUPPORT. What a permutation with every lane active and sound leaves in an element (08 R134 to R139). -/

namespace Sys2Proof.Machine

theorem elAt_sound {v : VVal} (hv : v.poison = 0) (w j : Nat) : elAt w v j = { bits := (elAt w v j).bits, bad := false } := by
  refine El.eq_mk rfl ?_
  simp only [elAt, hv]
  split <;> simp

theorem getElem?_replicate_true {n i : Nat} (h : i < n) : (List.replicate n true)[i]? = some true := by
  rw [List.getElem?_replicate, if_pos h]

/-- A write of sound results in every element. -/
theorem elAt_vwrite_all {w : Nat} (hw : isWidth w) (old : VVal) (c : BitVec 4) {rs : List Res} (hl : rs.length = 8192 / w)
    (hs : ∀ (j : Nat) (r : Res), rs[j]? = some r → r.bad = false) {i : Nat} (hi : i < 8192 / w) {r : Res} (hr : rs[i]? = some r) :
    elAt w (vwrite w old (maskRes (List.replicate (8192 / w) true) rs) c).1 i = { bits := r.bits % 2 ^ w, bad := false } := by
  have hget : ∀ j, j < 8192 / w → ∃ q, rs[j]? = some q ∧
      (maskRes (List.replicate (8192 / w) true) rs)[j]? = some (some q) := fun j hj => by
    have hq := List.getElem?_eq_getElem (l := rs) (i := j) (by omega)
    exact ⟨_, hq, (getElem?_maskRes (getElem?_replicate_true hj) hq).trans rfl⟩
  obtain ⟨hbits, hbad⟩ := elAt_vwrite_sound hw old (rs := maskRes (List.replicate (8192 / w) true) rs) c hi
    (by rw [length_maskRes, List.length_replicate, hl, Nat.min_self]) (fun j q _ hq => hs j q (maskRes_some hq).2)
  refine El.eq_mk ?_ (hbad fun j _ hj => ?_)
  · obtain ⟨q, hq, hm⟩ := hget i hi
    rw [hr, Option.some.injEq] at hq
    rw [hbits, resAt, hm, hq]
    rfl
  · obtain ⟨q, -, hm⟩ := hget j hj
    rw [resAt, hm]
    exact Option.some_ne_none q

theorem Res.ofEl_bits {e : El} (h : e.bad = false) : (Res.ofEl e).bits = e.bits := by
  rw [Res.ofEl, h]
  rfl

/-- The same of elements that are moved. -/
theorem elAt_vwrite_els {w : Nat} (hw : isWidth w) (old : VVal) (c : BitVec 4) {es : List El} (hl : es.length = 8192 / w)
    (hs : ∀ (j : Nat) (e : El), es[j]? = some e → e.bad = false) {i : Nat} (hi : i < 8192 / w) {e : El} (he : es[i]? = some e)
    (hlt : e.bits < 2 ^ w) :
    elAt w (vwrite w old (maskRes (List.replicate (8192 / w) true) (es.map Res.ofEl)) c).1 i = { bits := e.bits, bad := false } := by
  have hr : (es.map Res.ofEl)[i]? = some (Res.ofEl e) := by rw [List.getElem?_map, he, Option.map_some]
  rw [elAt_vwrite_all hw old c (by rw [List.length_map, hl]) (fun j r h => ?_) hi hr, Res.ofEl_bits (hs i e he), Nat.mod_eq_of_lt hlt]
  rw [List.getElem?_map, Option.map_eq_some_iff] at h
  obtain ⟨x, hx, rfl⟩ := h
  rw [Res.ofEl_bad]
  exact hs j x hx

theorem els_sound {w : Nat} (hw : isWidth w) {v : VVal} (hv : v.poison = 0) {j : Nat} {e : El} (he : (v.els w)[j]? = some e) :
    e.bad = false := by
  have hj : j < 8192 / w := length_els hw v ▸ (List.getElem?_eq_some_iff.mp he).1
  rw [getElem?_els hw v hj, Option.some.injEq] at he
  rw [← he, elAt_sound hv]

theorem length_permEls (w n : Nat) (a : VVal) (i : Nat) (xs : List El) : (permEls w n a i xs).length = xs.length := by
  induction xs generalizing i with
  | nil => rfl
  | cons x xs ih => simp [permEls, ih]

theorem getElem?_permEls (w n : Nat) (a : VVal) (i : Nat) (xs : List El) (j : Nat) :
    (permEls w n a i xs)[j]? = (xs[j]?).map (fun x => elAt w a (permIndex w n (i + j) x.bits)) := by
  induction xs generalizing i j with
  | nil => simp [permEls]
  | cons x xs ih =>
    cases j with
    | zero => simp [permEls]
    | succ j =>
      rw [permEls, List.getElem?_cons_succ, ih, List.getElem?_cons_succ]
      simp only [Nat.add_assoc, Nat.add_comm 1 j]

/-- Where no index is poisoned the picked elements are moved. -/
theorem orBad_sound {xs ys : List El} (hl : xs.length = ys.length) (h : ∀ (j : Nat) (e : El), ys[j]? = some e → e.bad = false) :
    orBad xs ys = xs.map Res.ofEl := by
  induction xs generalizing ys with
  | nil => simp [orBad]
  | cons x xs ih =>
    cases ys with
    | nil => simp at hl
    | cons y ys =>
      rw [orBad, h 0 y rfl, ih (by simpa using hl) (fun j e he => h (j + 1) e (by simpa using he))]
      rfl

theorem length_replaceAt (xs : List El) (k : Nat) (e : El) : (replaceAt xs k e).length = xs.length := by
  induction xs generalizing k with
  | nil => simp [replaceAt]
  | cons x xs ih => cases k <;> simp [replaceAt, ih]

theorem getElem?_replaceAt (xs : List El) (k : Nat) (e : El) (j : Nat) :
    (replaceAt xs k e)[j]? = if j = k then (xs[j]?).map (fun _ => e) else xs[j]? := by
  induction xs generalizing k j with
  | nil => simp [replaceAt]
  | cons x xs ih => cases k <;> cases j <;> simp [replaceAt, ih]

theorem vperm_el {t : Ty} (old : VVal) {a b : VVal} (ha : a.poison = 0) (hb : b.poison = 0) {i : Nat} (hi : i < t.lanes) :
    elAt t.width (vperm t old (List.replicate t.lanes true) a b).1 i =
      { bits := (elAt t.width a (permIndex t.width t.lanes i (elAt t.width b i).bits)).bits, bad := false } := by
  have hw := isWidth_width t
  have hlen := (length_permEls t.width t.lanes a 0 (b.els t.width)).trans (length_els hw b)
  rw [vperm, orBad_sound (by rw [length_permEls]) fun j e he => els_sound hw hb he]
  refine elAt_vwrite_els hw old _ hlen (fun j e he => ?_) hi ?_ (elAt_lt ..)
  · rw [getElem?_permEls, Option.map_eq_some_iff] at he
    obtain ⟨x, -, rfl⟩ := he
    rw [elAt_sound ha]
  · rw [getElem?_permEls, getElem?_els hw b hi, Option.map_some, Nat.zero_add]

theorem vshuf_el {t : Ty} (old : VVal) {a b : VVal} (ha : a.poison = 0) (hb : b.poison = 0) (c : Word) {i k : Nat} (hi : i < t.lanes)
    (hk : k = c.toNat % t.lanes + i) :
    elAt t.width (vshuf t old (List.replicate t.lanes true) a b (.clean c)).1 i =
      { bits := if k < t.lanes then (elAt t.width a k).bits else (elAt t.width b (k - t.lanes)).bits, bad := false } := by
  have hw := isWidth_width t
  have hm : c.toNat % t.lanes < t.lanes := Nat.mod_lt _ (by omega)
  have hla : (a.els t.width).length = t.lanes := length_els hw a
  have hlb : (b.els t.width).length = t.lanes := length_els hw b
  have hget : ∀ j, ((a.els t.width).drop (c.toNat % t.lanes) ++ (b.els t.width).take (c.toNat % t.lanes))[j]? =
      if c.toNat % t.lanes + j < t.lanes then (a.els t.width)[c.toNat % t.lanes + j]?
      else if j < t.lanes then (b.els t.width)[c.toNat % t.lanes + j - t.lanes]? else none := fun j => by
    rw [List.getElem?_append, List.length_drop, hla, List.getElem?_drop, List.getElem?_take]
    by_cases h1 : c.toNat % t.lanes + j < t.lanes
    · rw [if_pos (by omega), if_pos h1]
    · rw [if_neg (by omega), if_neg h1]
      by_cases h2 : j < t.lanes
      · rw [if_pos (by omega), if_pos h2, show j - (t.lanes - c.toNat % t.lanes) = c.toNat % t.lanes + j - t.lanes by omega]
      · rw [if_neg (by omega), if_neg h2]
  have hne : (SVal.clean c).poison = false := rfl
  rw [vshuf, hne, if_neg Bool.false_ne_true]
  have hlen : ((a.els t.width).drop (c.toNat % t.lanes) ++ (b.els t.width).take (c.toNat % t.lanes)).length = 8192 / t.width := by
    rw [List.length_append, List.length_drop, List.length_take, hla, hlb, Nat.min_eq_left hm.le]
    exact Nat.sub_add_cancel hm.le
  have hsound : ∀ (j : Nat) (e : El), ((a.els t.width).drop (c.toNat % t.lanes) ++ (b.els t.width).take (c.toNat % t.lanes))[j]? = some e →
      e.bad = false := fun j e he => by
    rw [hget] at he
    split at he
    · exact els_sound hw ha he
    · split at he
      · exact els_sound hw hb he
      · exact absurd he (by simp)
  by_cases hlt : k < t.lanes
  · rw [if_pos hlt]
    refine elAt_vwrite_els hw old _ hlen hsound hi ?_ (elAt_lt ..)
    rw [hget, if_pos (by omega), ← hk, getElem?_els hw a hlt]
  · rw [if_neg hlt]
    refine elAt_vwrite_els hw old _ hlen hsound hi ?_ (elAt_lt ..)
    rw [hget, if_neg (by omega), if_pos hi, ← hk, getElem?_els hw b]
    change k - t.lanes < t.lanes
    omega

theorem vbcst_el {t : Ty} (old : VVal) {a : VVal} (ha : a.poison = 0) (lane : Nat) {i : Nat} (hi : i < t.lanes) :
    elAt t.width (vbcst t lane old (List.replicate t.lanes true) a).1 i = { bits := (elAt t.width a lane).bits, bad := false } := by
  have h := elAt_vwrite_els (isWidth_width t) old a.cause (es := List.replicate t.lanes (elAt t.width a lane))
    (by rw [List.length_replicate]; rfl) (fun j e he => ?_) hi (by rw [List.getElem?_replicate, if_pos hi]) (elAt_lt ..)
  · rwa [List.map_replicate] at h
  · rw [(List.mem_replicate.mp (List.mem_of_getElem? he)).2, elAt_sound ha]

theorem vins_el {t : Ty} (old : VVal) {a : VVal} (ha : a.poison = 0) (c : Word) {i lane : Nat} (hi : i < t.lanes) :
    elAt t.width (vins t lane old (List.replicate t.lanes true) a (.clean c)).1 i =
      { bits := if i = lane then c.toNat % 2 ^ t.width else (elAt t.width a i).bits, bad := false } := by
  have hw := isWidth_width t
  have hlen := (length_replaceAt (a.els t.width) lane { bits := c.toNat % 2 ^ t.width, bad := false }).trans (length_els hw a)
  refine elAt_vwrite_els hw old _ hlen (fun j e he => ?_) hi 
    (e := { bits := if i = lane then c.toNat % 2 ^ t.width else (elAt t.width a i).bits, bad := false }) ?_ ?_
  · rw [getElem?_replaceAt] at he
    split at he
    · rw [Option.map_eq_some_iff] at he
      obtain ⟨x, -, rfl⟩ := he
      rfl
    · exact els_sound hw ha he
  · rw [getElem?_replaceAt, getElem?_els hw a hi]
    by_cases hl : i = lane
    · rw [if_pos hl, if_pos hl]
      rfl
    · rw [if_neg hl, if_neg hl, ← elAt_sound ha]
  · change (if i = lane then c.toNat % 2 ^ t.width else (elAt t.width a i).bits) < 2 ^ t.width
    split
    · exact Nat.mod_lt _ (Nat.two_pow_pos _)
    · exact elAt_lt ..

/-- A register's data is that of its elements. -/
theorem data_ext_of_els {w : Nat} (hw : isWidth w) {u v : VVal} (h : ∀ i, i < 8192 / w → (elAt w u i).bits = (elAt w v i).bits) :
    u.data = v.data := by
  have hm : w * (8192 / w) = 8192 := by
    rcases isWidth_cases hw with rfl | ⟨k, hk⟩
    · rfl
    · rw [hk.all, Nat.mul_left_comm, hk.prod]
  have hf : fields w (8192 / w) u.data.toNat = fields w (8192 / w) v.data.toNat := by
    refine List.ext_getElem? fun i => ?_
    by_cases hi : i < 8192 / w
    · rw [getElem?_fields w _ _ i hi, getElem?_fields w _ _ i hi]
      exact congrArg some (h i hi)
    · rw [List.getElem?_eq_none (by rw [length_fields]; omega), List.getElem?_eq_none (by rw [length_fields]; omega)]
  refine BitVec.eq_of_toNat_eq ?_
  rw [← packFields_fields_toNat u.data hm, ← packFields_fields_toNat v.data hm, hf]

/-- A register is sound where its elements are. -/
theorem poison_zero_of_els {w : Nat} (hw : isWidth w) {v : VVal} (h : ∀ i, i < 8192 / w → (elAt w v i).bad = false) : v.poison = 0 := by
  refine BitVec.eq_of_getLsbD_eq fun l hl => ?_
  have hbad : (elAt 32 v l).bad = v.poison.getLsbD l := by
    change v.poison.getLsbD (32 * l / 32) = _
    rw [Nat.mul_div_cancel_left l (by decide)]
  refine (hbad.symm.trans ?_).trans (BitVec.getLsbD_zero (w := 256)).symm
  rcases isWidth_cases hw with rfl | ⟨k, hk⟩
  · have hi := h (l / 2) (by omega)
    rw [(elAt_64 v (l / 2)).2, Bool.or_eq_false_iff] at hi
    obtain ⟨hlo, hhi⟩ := hi
    obtain hl2 | hl2 : l = 2 * (l / 2) ∨ l = 2 * (l / 2) + 1 := by omega
    · rw [hl2]
      exact hlo
    · rw [hl2]
      exact hhi
  · have hi := h (k * l) (by rw [hk.all, Nat.mul_comm]; exact Nat.mul_lt_mul_of_pos_right hl hk.pos)
    rwa [(elAt_narrow hk v (k * l)).2, Nat.mul_div_cancel_left l hk.pos] at hi

theorem maskOpt_some (act : List Bool) (rs : List Res) : maskOpt act (rs.map some) = maskRes act rs := by
  induction act generalizing rs with
  | nil => rfl
  | cons a act ih =>
    cases rs with
    | nil => rfl
    | cons r rs => rw [List.map_cons, maskOpt, maskRes, ih]

/-- The field of a register as the result that keeps its bits. -/
def passed (x : Nat) : Res := { bits := x, bad := false, flags := 0 }

theorem vpclr_el {t : Ty} (old a : VVal) {i : Nat} (hi : i < t.lanes) :
    elAt t.width (vpclr t old (List.replicate t.lanes true) a).1 i = { bits := (elAt t.width a i).bits, bad := false } := by
  have hp : pclrRes t.width a = ((fields t.width (8192 / t.width) a.data.toNat).map passed).map some := by
    rw [pclrRes, List.map_map]
    rfl
  rw [vpclr, hp, maskOpt_some]
  refine (elAt_vwrite_all (isWidth_width t) old a.cause (by rw [List.length_map, length_fields]) (fun j r hr => ?_) hi
    (r := passed (elAt t.width a i).bits) ?_).trans ?_
  · rw [List.getElem?_map, Option.map_eq_some_iff] at hr
    obtain ⟨x, -, rfl⟩ := hr
    rfl
  · rw [List.getElem?_map, getElem?_fields t.width _ _ i (show i < 8192 / t.width from hi)]
    rfl
  · rw [passed, Nat.mod_eq_of_lt (elAt_lt ..)]

end Sys2Proof.Machine
end

section
/-! Settled: the permutations and the poison words (O39). -/

namespace Sys2Proof.Machine

/-- Settles O39. -/
theorem permuteWords : Obligations.PermuteWords := by
  unfold Obligations.PermuteWords
  refine ⟨?_, ?_⟩
  · rintro s h g t lane d sd a b c p hg act rfl old rfl
    refine ⟨?_, ?_, ?_, ?_, ?_, ?_, ?_, ?_, fun ha hb => ?_, fun ha => ?_⟩
    · exact exec_vecOut (fun _ s => vperm t (s.vold d) (s.act h t.width) (s.vrd a) (s.vrd b)) hg rfl rfl
    · exact exec_vecOut (fun _ s => vshuf t (s.vold d) (s.act h t.width) (s.vrd a) (s.vrd b) (s.srd c)) hg rfl rfl
    · exact exec_vecOut (fun _ s => vbcst t lane.toNat (s.vold d) (s.act h t.width) (s.vrd a)) hg rfl rfl
    · exact exec_vecOut (fun _ s => vins t lane.toNat (s.vold d) (s.act h t.width) (s.vrd a) (s.srd c)) hg rfl rfl
    · exact exec_vecOut (fun _ s => vcomp t (s.vold d) (s.act h t.width) (predLanes t.width (s.prd p)) (s.vrd a)) hg rfl rfl
    · exact exec_vecOut (fun _ s => vexpd t (s.vold d) (s.act h t.width) (predLanes t.width (s.prd p)) (s.vrd a)) hg rfl rfl
    · exact exec_vecOut (fun _ s => vpclr t (s.vold d) (s.act h t.width) (s.vrd a)) hg rfl rfl
    · exact exec_vecOut (fun _ s => vpchk t (s.vold d) (s.act h t.width) (s.vrd a)) hg rfl rfl
    · change execVexts h t lane sd a s = _
      have hv : vexts t lane.toNat (s.vrd a) = .clean (BitVec.ofInt 64 (elInt t (elAt t.width (s.vrd a) lane.toNat).bits)) := by
        simp only [vexts, hb, Bool.false_eq_true, if_false, readInt_eq_elInt t (elAt_lt ..)]
      rw [execVexts, performWord_member hg, vextsEff, if_pos ha, hv]
      rfl
    · change execVexts h t lane sd a s = _
      rw [execVexts, performWord_member hg, vextsEff, if_neg (by rw [ha]; exact Bool.false_ne_true)]
      rfl
  · rintro t i old a b c lane act - hi rfl ha hb -
    have hw := isWidth_width t
    refine ⟨fun h16 => ?_, fun h8 => ?_, fun k hk => ?_, ?_, ?_, ?_, ?_⟩
    · rw [vperm_el old ha hb hi, permIndex, if_neg (by rw [beq_iff_eq]; omega)]
    · rw [vperm_el old ha hb hi, permIndex, if_pos (by rw [h8]; rfl)]
    · exact vshuf_el old ha hb c hi hk
    · exact vbcst_el old ha lane hi
    · exact vins_el old ha c hi
    · exact data_ext_of_els hw fun j hj => by rw [vpclr_el old a hj]
    · exact poison_zero_of_els hw fun j hj => by rw [vpclr_el old a hj]

end Sys2Proof.Machine
end

section
/-! Settled: VTRN (08 R138, O40). -/

namespace Sys2Proof.Machine

theorem length_trnEls (w : Nat) (src : List VVal) (c n g : Nat) : (trnEls w src c n g).length = src.length * n := by
  induction n generalizing g with
  | zero => rfl
  | succ n ih => rw [trnEls, List.length_append, List.length_map, ih, Nat.mul_succ, Nat.add_comm]

/-- Element `r` of group `q` of a column is element `c` of that group of source `r`. -/
theorem getElem?_trnEls (w : Nat) {src : List VVal} (c g : Nat) {n q r : Nat} (hq : q < n) {v : VVal} (hr : src[r]? = some v) :
    (trnEls w src c n g)[src.length * q + r]? = some (elAt w v (16 * (g + q) + c)) := by
  have hlt : r < src.length := (List.getElem?_eq_some_iff.mp hr).1
  induction n generalizing g q with
  | zero => omega
  | succ n ih =>
    rw [trnEls]
    cases q with
    | zero =>
      rw [Nat.mul_zero, Nat.zero_add, List.getElem?_append_left (by simpa using hlt), List.getElem?_map, hr]
      rfl
    | succ q =>
      rw [Nat.mul_succ, List.getElem?_append_right (by rw [List.length_map]; omega), List.length_map,
        show src.length * q + src.length + r - src.length = src.length * q + r by omega, ih (g + 1) (by omega)]
      congr 3
      omega

theorem lanes_groups (t : Ty) : 16 * (t.lanes / 16) = t.lanes := by cases t <;> rfl

theorem mem_trnEls {w : Nat} {src : List VVal} (hs : ∀ v ∈ src, v.poison = 0) (c n g : Nat) {e : El} (he : e ∈ trnEls w src c n g) :
    e.bad = false := by
  induction n generalizing g with
  | zero => simp [trnEls] at he
  | succ n ih =>
    rcases List.mem_append.mp he with he | he
    · obtain ⟨v, hv, rfl⟩ := List.mem_map.mp he
      rw [elAt_sound (hs v hv)]
    · exact ih (g + 1) he

/-- Column `c` of the transpose of sixteen sound registers, every lane active. -/
theorem vtrn1_el (t : Ty) (old : VVal) {src : List VVal} (hl : src.length = 16) (hs : ∀ v ∈ src, v.poison = 0) (c : Nat) {q r : Nat}
    (hq : q < t.lanes / 16) {v : VVal} (hr : src[r]? = some v) :
    (elAt t.width (vtrn1 t old (List.replicate t.lanes true) src c).1 (16 * q + r)).bits = (elAt t.width v (16 * q + c)).bits := by
  have hlt : r < 16 := hl ▸ (List.getElem?_eq_some_iff.mp hr).1
  have hg := getElem?_trnEls t.width c 0 hq hr
  rw [hl, Nat.zero_add] at hg
  have hlen : (trnEls t.width src c (t.lanes / 16) 0).length = 8192 / t.width := by
    rw [length_trnEls, hl]
    exact lanes_groups t
  have hin : 16 * q + r < 8192 / t.width := by
    have := lanes_groups t
    change _ < t.lanes
    omega
  have h := elAt_vwrite_els (isWidth_width t) old
    (trnCause src (chunks 16 (t.lanes / 16) ((List.replicate t.lanes true).zipWith (fun a (x : El) => a && x.bad)
      (trnEls t.width src c (t.lanes / 16) 0))) 0) hlen
    (fun j e he => mem_trnEls hs _ _ _ (List.mem_of_getElem? he)) hin hg (elAt_lt ..)
  rw [Ty.lanes] at h ⊢
  rw [vtrn1, Ty.lanes]
  rw [h]

/-- The writes of VTRN one after another: what each leaves in its register, and what stays. -/
theorem State.trnWrite_frame {h : Hdr} {g : Grp} (t : Ty) (act : List Bool) (src : List VVal) (d n c : Nat) {s : State} (hi : s.Issuing h g) :
    (s.trnWrite t act src d n c).Issuing h g ∧ Ran s (s.trnWrite t act src d n c) ∧
    (s.trnWrite t act src d n c).curEng = s.curEng ∧ (s.trnWrite t act src d n c).curCore.p = s.curCore.p ∧
    (∀ m, m < d + c ∨ d + c + n ≤ m → (s.trnWrite t act src d n c).curCore.vreg m = s.curCore.vreg m) ∧
    ∀ j, c ≤ j → j < c + n →
      (s.trnWrite t act src d n c).curCore.vreg (d + j) = (vtrn1 t (s.curCore.vreg (d + j)) act src j).1 := by
  induction n generalizing s c with
  | zero => exact ⟨hi, .refl s, rfl, rfl, fun _ _ => rfl, fun j h1 h2 => by omega⟩
  | succ n ih =>
    have heng : ∀ e, (s.curCore.setV (d + c) (vtrn1 t (s.curCore.vreg (d + c)) act src c).1).eng e = s.curCore.eng e :=
      fun e => by cases e <;> rfl
    have hi1 : (s.modCore s.cur.1 (fun k => k.setV (d + c) (vtrn1 t (k.vreg (d + c)) act src c).1)).Issuing h g :=
      hi.modCore (f := fun k => k.setV (d + c) (vtrn1 t (k.vreg (d + c)) act src c).1) heng ⟨rfl, rfl, rfl⟩
    have hr1 : Ran s (s.modCore s.cur.1 (fun k => k.setV (d + c) (vtrn1 t (k.vreg (d + c)) act src c).1)) :=
      Ran.modCore (f := fun k => k.setV (d + c) (vtrn1 t (k.vreg (d + c)) act src c).1) (.setV ..) heng
    have he1 : (s.modCore s.cur.1 (fun k => k.setV (d + c) (vtrn1 t (k.vreg (d + c)) act src c).1)).curEng = s.curEng := by
      simpa [State.curEng, State.eng, State.curCore] using heng s.cur.2
    have hc1 : (s.modCore s.cur.1 (fun k => k.setV (d + c) (vtrn1 t (k.vreg (d + c)) act src c).1)).curCore =
        s.curCore.setV (d + c) (vtrn1 t (s.curCore.vreg (d + c)) act src c).1 := by
      simp [State.curCore]
    have hv1 : ∀ m, (s.modCore s.cur.1 (fun k => k.setV (d + c) (vtrn1 t (k.vreg (d + c)) act src c).1)).curCore.vreg m =
        if d + c = m then (vtrn1 t (s.curCore.vreg (d + c)) act src c).1 else s.curCore.vreg m := fun m => by
      rw [hc1, Core.vreg, Core.setV, Store.get_put]
      rfl
    rw [State.trnWrite]
    generalize s.modCore s.cur.1 (fun k => k.setV (d + c) (vtrn1 t (k.vreg (d + c)) act src c).1) = u at hi1 hr1 he1 hc1 hv1 ⊢
    obtain ⟨hi2, hr2, he2, hp2, hout, hin⟩ := ih (c + 1) hi1
    refine ⟨hi2, hr1.trans hr2, he2.trans he1, hp2.trans (by rw [hc1]; rfl), fun m hm => ?_, fun j h1 h2 => ?_⟩
    · rw [hout m (by omega), hv1, if_neg (by omega)]
    · by_cases hj : j = c
      · subst hj
        rw [hout (d + j) (by omega), hv1, if_pos rfl]
      · rw [hin j (by omega) (by omega), hv1, if_neg (by omega)]

/-- Settles O40. -/
theorem transposeWord : Obligations.TransposeWord := by
  unfold Obligations.TransposeWord
  intro s h g t d a hi _ _ hact hsound
  obtain ⟨src, hsrc⟩ : ∃ src, src = (List.range 16).map (fun r => s.seenCore.vreg (a.val + r)) := ⟨_, rfl⟩
  have hget : ∀ r, r < 16 → src[r]? = some (s.seenCore.vreg (a.val + r)) := fun r hr => by
    rw [hsrc, List.getElem?_map, List.getElem?_range hr, Option.map_some]
  have hlen : src.length = 16 := by rw [hsrc, List.length_map, List.length_range]
  have hpoison : ∀ v ∈ src, v.poison = 0 := fun v hv => by
    rw [hsrc] at hv
    obtain ⟨r, hr, rfl⟩ := List.mem_map.mp hv
    exact hsound r (List.mem_range.mp hr)
  obtain ⟨hiu, hru, heng, hp, hout, hin⟩ := State.trnWrite_frame t (s.act h t.width) src d.val 16 0 hi
  have hex : exec (.vtrn h t d a) s = .next ((s.trnWrite t (s.act h t.width) src d.val 16 0).retire h
      (some (.vec ((s.trnWrite t (s.act h t.width) src d.val 16 0).curCore.vreg d.val))) 0 .next) := by
    change execVtrn h t d a s = _
    rw [execVtrn, performWord_member hi.grp, vtrnEff, hsrc]
    rfl
  obtain ⟨hran, hregs, -, -, hvv, hpp⟩ := retire_next hiu
    (some (.vec ((s.trnWrite t (s.act h t.width) src d.val 16 0).curCore.vreg d.val))) 0
  refine ⟨_, hex, hru.trans hran, fun q r c hq hr hc => ?_, fun n hn => ?_, fun n => ?_, hpp.trans hp⟩
  · have hv := (congrArg (fun v => Store.get v (d.val + c) VVal.zero) hvv).trans (hin c (by omega) (by omega))
    rw [Core.vreg]
    refine (congrArg (fun v => (elAt t.width v (16 * q + r)).bits) hv).trans ?_
    rw [hact]
    exact vtrn1_el t _ hlen hpoison c hq (hget r hr)
  · exact (congrArg (fun v => Store.get v n VVal.zero) hvv).trans (hout n (by omega))
  · exact Engine.reg_congr (hregs.trans (congrArg Engine.regs heng)) n

end Sys2Proof.Machine
end

section
/-! Settled: who moves, and what a step runs (O4, O5). -/

namespace Sys2Proof.Machine

/-- The meaning of every word is that of a member or of a group of its own. -/
theorem exec_word {i : Instr} (h : (hdrOf i).isSome = true) : ∃ eff, exec i = performWord i eff := by
  obtain ⟨k, hk⟩ := Option.isSome_iff_exists.mp h
  unfold hdrOf at hk
  split at hk
  all_goals
    cases hk <;>
    exact ⟨_, rfl⟩

theorem openGroup_go {s : State} {is : List Instr}
    (h : s.verdict s.cur.1 s.cur.2 is ((s.curEng.restart.map Grp.idx).getD 0) s.curEng.restart.isSome = .go) :
    s.openGroup is = (s.issue s.cur.1 s.cur.2 is, true) := by
  rw [State.curEng] at h
  rw [State.openGroup, h]

/-- A word that opens a group of its own issues it and is then its one member. -/
theorem performWord_alone {s : State} {i : Instr} {eff : Grp → State → Eff} (hg : s.curEng.grp = none) (hb : s.aloneBad i = none)
    (hv : s.verdict s.cur.1 s.cur.2 [i] ((s.curEng.restart.map Grp.idx).getD 0) s.curEng.restart.isSome = .go) {g : Grp}
    (hi : (s.issue s.cur.1 s.cur.2 [i]).curEng.grp = some g) :
    performWord i eff s = performWord i eff (s.issue s.cur.1 s.cur.2 [i]) := by
  rw [performWord_member hi]
  simp only [performWord, hg, hb, openGroup_go hv, hi]

@[simp] theorem State.post_cur (s : State) (i : EvInfo) : (s.post i).cur = s.cur := by
  rw [State.post]
  split
  · exact State.writeEvent_cur ..
  · split <;> rfl

@[simp] theorem State.modGang_cur (s : State) (n : Nat) (f : Gang → Gang) : (s.modGang n f).cur = s.cur := by
  rw [State.modGang]
  split <;> rfl

@[simp] theorem State.logSlip_cur (s : State) (c : Nat) (i : Instr) (again : Bool) : (s.logSlip c i again).cur = s.cur := by
  rw [State.logSlip]
  repeat' split
  all_goals simp

@[simp] theorem State.syncAhead_cur (s : State) (c : Nat) (e : Eng) : (s.syncAhead c e).cur = s.cur :=
  (State.mapAhead_only ..).cur

/-- What a group does before it is open: the log of a slip, and the reads it overtakes. -/
def State.issuing (s : State) (c : Nat) (e : Eng) (is : List Instr) : State :=
  let s := match e, is with
    | .M, i :: _ => s.logSlip c i (s.openedGrp c e is.length).again
    | _, _ => s
  if is.any (fun i => (hdrD i).pop != 0) then s.syncAhead c e else s

theorem State.issuing_cur (s : State) (c : Nat) (e : Eng) (is : List Instr) : (s.issuing c e is).cur = s.cur := by
  simp only [State.issuing]
  repeat' split
  all_goals simp

/-- The group that issues is in issue. -/
theorem issue_grp (s : State) (is : List Instr) :
    (s.issue s.cur.1 s.cur.2 is).curEng.grp = some (s.openedGrp s.cur.1 s.cur.2 is.length) := by
  have h : s.issue s.cur.1 s.cur.2 is = ((s.issuing s.cur.1 s.cur.2 is).modCore s.cur.1 (fun k =>
      { k.reserve s.cur.2 is with issueNo := k.issueNo + 1 })).modEng s.cur.1 s.cur.2 (fun g =>
        { g.resumed ((s.issuing s.cur.1 s.cur.2 is).behind s.cur.1 s.cur.2) with
          grp := some (s.openedGrp s.cur.1 s.cur.2 is.length)
          regrp := if g.sup.isSome then g.regrp else none
          wdog := 0
          issued := (s.issuing s.cur.1 s.cur.2 is).cyc.toNat + 1 }) := rfl
  rw [h, State.curEng, State.modEng_cur, State.modCore_cur, State.issuing_cur, State.eng_modEng, if_pos ⟨rfl, rfl⟩]

/-- A move of the clocked parts does nothing in SAFE, and only then. -/
theorem stands_of_ne {s : State} (h : s.cryo.st ≠ 7) (m : Move) : s.stands m = false := by
  rw [State.stands, beq_false_of_ne h, Bool.false_and]

theorem stands_of_eq {s : State} (h : s.cryo.st = 7) (m : Move) : s.stands m = m.clocked := by
  rw [State.stands, h]
  rfl

/-- Settles O5. -/
theorem agendaAndLoneWords : Obligations.AgendaAndLoneWords := by
  unfold Obligations.AgendaAndLoneWords
  refine ⟨fun s ms i c e => ⟨fun ha h => ?_, fun ha h hc => ?_, fun ha h hc => ?_, fun ha h1 h2 => ?_, fun ha h => ?_, fun ha h => ?_⟩,
    fun s i hi hg hb hv => ?_⟩
  · have hst : State.stands { s with agenda := ms } (.ev i) = false := by
      rcases h with h | h
      · rw [State.stands, Move.clocked, h, Bool.not_true, Bool.and_false]
      · exact stands_of_ne (s := { s with agenda := ms }) h _
    simp only [step, ha, hst, Bool.false_eq_true, if_false]
  · have hst : State.stands { s with agenda := ms } (.run c e) = false := stands_of_ne (s := { s with agenda := ms }) h _
    simp only [step, ha, hst, Bool.false_eq_true, if_false, if_neg (show ¬ c > 255 by omega)]
  · have hst : State.stands { s with agenda := ms } (.run c e) = false := stands_of_ne (s := { s with agenda := ms }) h _
    simp only [step, ha, hst, Bool.false_eq_true, if_false, if_pos hc]
  · have hst : State.stands { s with agenda := ms } (.ev i) = true := by
      rw [stands_of_eq (s := { s with agenda := ms }) h2, Move.clocked, h1]
      rfl
    simp only [step, ha, hst, if_true]
  · have hst : State.stands { s with agenda := ms } (.run c e) = true := stands_of_eq (s := { s with agenda := ms }) h _
    simp only [step, ha, hst, if_true]
  · have hst : s.stands (.run s.cur.1 s.cur.2) = true := stands_of_eq h _
    simp only [step, ha, hst, if_true]
  · obtain ⟨eff, he⟩ := exec_word hi
    rw [he, performWord_alone hg hb hv (issue_grp s [i])]
    exact ⟨rfl, by rw [issue_grp]; rfl⟩

/-- With nothing on the agenda and clocks that run, a step is one of the current engine. -/
theorem step_engine {s : State} (ha : s.agenda = []) (hc : s.cryo.st ≠ 7) : step s = runEngine s := by
  simp only [step, ha, stands_of_ne hc, Bool.false_eq_true, if_false]

theorem runEngine_word {s u : State} {i : Instr} (h : s.fetch = .word i u) : runEngine s = exec i u := by
  rw [runEngine, h]

section
variable {s : State} {t : RunTask} (ht : s.curCore.task = some t) (hst : s.curEng.stopped ≠ some .sleep) (hsl : s.curEng.slept = none)
  (hp : s.curEng.phaseNow = false)
include ht hst hsl hp

/-- A current engine of a task that neither sleeps nor owes a trap of the phase timer goes on with the group in issue. -/
theorem fetch_inGroup {r : Grp} (hg : s.curEng.grp = some r) : s.fetch = s.inGroup s.cur.1 s.cur.2 t r := by
  have hsleep : (s.curEng.stopped == some .sleep) = false := by rwa [beq_eq_false_iff_ne]
  rw [State.curCore] at ht
  rw [State.curEng] at *
  simp only [State.fetch, ht, hsleep, hsl, hp, hg, Bool.false_and, Bool.false_eq_true, if_false, ite_self]

/-- With none in issue it looks at the group at its PC. -/
theorem fetch_atGroup (hg : s.curEng.grp = none) (hi : s.curEng.idleNow t s.cur.2 = false) (hr : s.curEng.phase = .running) :
    s.fetch = s.atGroup s.cur.1 s.cur.2 := by
  have hsleep : (s.curEng.stopped == some .sleep) = false := by rwa [beq_eq_false_iff_ne]
  rw [State.curCore] at ht
  rw [State.curEng] at *
  simp only [State.fetch, ht, hsleep, hsl, hp, hg, hi, hr, Bool.false_and, Bool.false_eq_true, if_false, ite_self]

end

/-- A lone word breaks no rule of groups. -/
theorem groupBad_alone (e : Eng) (i : Instr) : groupBad e 0 [] 0 true false i = false := by
  have hd : ∀ l : List Rd, (l.filterMap Rd.dist).any (fun k => decide (k ≤ 0)) = false := fun l => by
    rw [List.any_eq_false]
    intro k hk
    obtain ⟨r, -, hr⟩ := List.mem_filterMap.mp hk
    unfold Rd.dist at hr
    split at hr <;> cases hr <;> simp
  have hl : decide (groupLimit e ≤ 0) = false := by cases e <;> rfl
  simp only [groupBad, hd, ge_iff_le, hl]
  simp

theorem checkGroup_alone {e : Eng} {sup : Bool} {len w m0 : Nat} {x : IWord} {i : Instr} (hx : x.getLsbD 95 = true)
    (hd : decodeWord e x = .ok i) (hp : placeBad (Raw.ofWord x) w len = none) (h0 : sup = false → privilegeField i = none)
    (h1 : sup = true → supForbidden i = false) : checkGroup e sup len w m0 [x] = .ok [i] := by
  have hc : checkWord e sup w len x = .ok i := by
    rw [checkWord, hd]
    simp only [hp]
    cases sup with
    | false => simp [h0 rfl]
    | true => simp [h1 rfl]
  simp only [checkGroup, checkFrom, hc, hx, List.isEmpty_nil, Bool.not_true, groupBad_alone, Bool.false_eq_true, if_false, if_true]

section
variable {s : State} (hdebt : s.curEng.debt = 0) (hslot : s.slotTaken s.cur.2 s.curEng = false)
  (hw : s.curEng.sect.wordOf s.curEng.pc < s.curEng.sect.len)
include hdebt hslot hw

/-- The current engine inside its section, owing nothing, its slot free, at a word that stands alone. -/
theorem atGroup_alone {i : Instr}
    (hc : checkGroup s.cur.2 s.curEng.sup.isSome s.curEng.sect.len (s.curEng.sect.wordOf s.curEng.pc)
      ((s.curEng.restart.map Grp.idx).getD 0) (s.curEng.members s.supStore 5 (s.curEng.sect.wordOf s.curEng.pc)) = .ok [i]) :
    s.atGroup s.cur.1 s.cur.2 = .word i s := by
  have hge : ¬ s.curEng.sect.wordOf s.curEng.pc ≥ s.curEng.sect.len := by omega
  rw [State.curEng] at *
  simp only [State.atGroup, hdebt, bne_self_eq_false, Bool.false_and, Bool.false_eq_true, if_false, if_neg hge, hslot, hc]

/-- The same at a longer group that opens. -/
theorem atGroup_opens {i j : Instr} {is : List Instr} {u : State}
    (hc : checkGroup s.cur.2 s.curEng.sup.isSome s.curEng.sect.len (s.curEng.sect.wordOf s.curEng.pc)
      ((s.curEng.restart.map Grp.idx).getD 0) (s.curEng.members s.supStore 5 (s.curEng.sect.wordOf s.curEng.pc)) = .ok (i :: j :: is))
    (hu : s.openGroup (i :: j :: is) = (u, true)) : s.atGroup s.cur.1 s.cur.2 = .word i u := by
  have hge : ¬ s.curEng.sect.wordOf s.curEng.pc ≥ s.curEng.sect.len := by omega
  rw [State.curEng] at *
  simp only [State.atGroup, hdebt, bne_self_eq_false, Bool.false_and, Bool.false_eq_true, if_false, if_neg hge, hslot, hc, hu]

end

/-- Settles O4. -/
theorem stepRunsDecoded : Obligations.StepRunsDecoded := by
  unfold Obligations.StepRunsDecoded
  intro s i t ha hcr ht hst hsl hp
  rw [step_engine ha hcr]
  refine ⟨fun r hg ho hpg hdl hbo hd => ?_, fun hg hi hr hdebt hslot w hw hlt x hx h95 hd hpl h0 h1 => ?_,
    fun hg hi hr hdebt hslot w hw hlt j is u hc hu => ?_⟩
  · refine runEngine_word ?_
    rw [fetch_inGroup ht hst hsl hp hg]
    have hwait : ((s.curEng.inside == some (.bowait true) || s.curEng.inside == some (.bowait false)) && s.curEng.sup.isNone &&
        (s.reqOpen s.cur.1 || !t.delivery.isEmpty)) = false := by
      by_contra hne
      rw [Bool.not_eq_false, Bool.and_eq_true, Bool.and_eq_true, Bool.or_eq_true, beq_iff_eq, beq_iff_eq] at hne
      obtain ⟨⟨hin, hsup⟩, hopen⟩ := hne
      have hq : t.request = none ∧ t.delivery = [] := by
        rcases hin with hin | hin <;> exact hbo _ hin (Option.isNone_iff_eq_none.mp hsup)
      rw [State.curCore] at ht
      simp [State.reqOpen, ht, hq] at hopen
    have hm : s.memberInstr s.cur.1 s.cur.2 (r.pcOf r.idx) = some i := by
      rw [State.curEng] at hd
      rw [State.memberInstr, hd]
    rw [State.curEng] at *
    simp only [State.inGroup, ho, hpg, hdl, Bool.or_self, Bool.false_eq_true, if_false, hwait, hm]
  · refine runEngine_word ?_
    subst hw hx
    have hmem : s.curEng.members s.supStore 5 (s.curEng.sect.wordOf s.curEng.pc) =
        [s.curEng.wordAt s.supStore (s.curEng.sect.pcOf (s.curEng.sect.wordOf s.curEng.pc))] := by
      rw [Engine.members, if_neg (by omega), if_pos h95]
    have hc := checkGroup_alone (e := s.cur.2) (sup := s.curEng.sup.isSome) (m0 := (s.curEng.restart.map Grp.idx).getD 0) h95 hd hpl
      (fun h => h0 (by simpa using h)) (fun h => h1 (by intro hn; rw [hn] at h; cases h))
    rw [← hmem] at hc
    rw [fetch_atGroup ht hst hsl hp hg hi hr, atGroup_alone hdebt hslot hlt hc]
  · refine runEngine_word ?_
    subst hw
    rw [fetch_atGroup ht hst hsl hp hg hi hr, atGroup_opens hdebt hslot hlt hc hu]

end Sys2Proof.Machine
end

section
/-! Settled: the state after reset and the worked encodings (O8, O9, O60). -/

namespace Sys2Proof.Machine

theorem withWord_bytes (s : State) (w : IWord) : (s.withWord w).mem = s.mem ∧ (s.withWord w).supStore = s.supStore :=
  ⟨rfl, rfl⟩

theorem withStep_bytes (s : State) (i : Instr) : (s.withStep i).mem = s.mem ∧ (s.withStep i).supStore = s.supStore :=
  ⟨rfl, rfl⟩

theorem withEntry_bytes (s : State) (i : Instr) : (s.withEntry i).mem = s.mem ∧ (s.withEntry i).supStore = s.supStore :=
  ⟨rfl, rfl⟩

/-- Placing a word for the next step leaves the package's bytes. -/
theorem withFetchWord_bytes (s : State) (n w : Nat) :
    (s.withFetchWord n w).mem = s.mem ∧ (s.withFetchWord n w).supStore = s.supStore := by
  rw [State.withFetchWord]
  split
  · exact withWord_bytes ..
  · split
    · split
      · exact withStep_bytes ..
      · exact withEntry_bytes ..
    · exact ⟨rfl, rfl⟩

/-- Settles O8: reset holds no byte, and a word placed changes none. -/
theorem canonAtReset : Obligations.CanonAtReset := by
  unfold Obligations.CanonAtReset
  have h0 : State.reset.canon := ⟨rfl, rfl⟩
  refine ⟨h0, fun n w => ?_⟩
  obtain ⟨hm, hs⟩ := withFetchWord_bytes State.reset n w
  rw [State.canon, hm, hs]
  exact h0

/-- Settles O9. -/
theorem resetValues : Obligations.ResetValues := by
  unfold Obligations.ResetValues
  refine ⟨by decide, by decide, ⟨rfl, rfl, rfl, rfl, fun _ => rfl⟩, fun _ => rfl, by decide, fun _ => ⟨rfl, rfl, rfl, rfl, rfl⟩, by decide,
    by decide, rfl⟩

/-- Settles O60, by running the decoder on each word. -/
theorem decodedWords : Obligations.DecodedWords := by
  unfold Obligations.DecodedWords
  refine ⟨?_, by decide⟩
  rintro h rfl
  decide

end Sys2Proof.Machine
end

section
/-! SUPPORT. What a write of a register leaves in its field (00 R5, R6). -/

namespace Sys2Proof.Machine

theorem getLsbD_blend (old val mask : Word) (i : Nat) :
    (blend old val mask).getLsbD i = if mask.getLsbD i then val.getLsbD i else old.getLsbD i := by
  have hout (h : ¬ i < 64) : old.getLsbD i = false := BitVec.getLsbD_of_ge _ _ (by omega)
  rw [blend, BitVec.getLsbD_or, BitVec.getLsbD_and, BitVec.getLsbD_and, BitVec.getLsbD_not]
  by_cases h : i < 64
  · cases mask.getLsbD i <;> simp only [h, decide_true, Bool.not_true, Bool.not_false, Bool.and_true, Bool.and_false, Bool.or_false,
      Bool.false_or, Bool.false_eq_true, if_true, if_false]
  · rw [hout h]
    cases mask.getLsbD i <;> simp

/-- A write of the whole register. -/
theorem blend_all (old val : Word) : blend old val (BitVec.allOnes 64) = val := by
  refine BitVec.eq_of_getLsbD_eq fun i hi => ?_
  rw [getLsbD_blend, BitVec.getLsbD_allOnes, decide_eq_true hi, if_pos rfl]

/-- The mask of the low half, and of the high half. -/
theorem getLsbD_lowHalf (i : Nat) : (0xFFFFFFFF : Word).getLsbD i = decide (i < 32) := by
  rw [show (0xFFFFFFFF : Word) = (BitVec.allOnes 32).setWidth 64 from rfl, BitVec.getLsbD_setWidth, BitVec.getLsbD_allOnes]
  by_cases h : i < 32 <;> simp [h]
  omega

theorem getLsbD_highHalf (i : Nat) : (0xFFFFFFFF00000000 : Word).getLsbD i = decide (32 ≤ i ∧ i < 64) := by
  rw [show (0xFFFFFFFF00000000 : Word) = BitVec.allOnes 64 <<< 32 by decide, BitVec.getLsbD_shiftLeft, BitVec.getLsbD_allOnes]
  by_cases h : i < 32 <;> by_cases h2 : i < 64 <;> simp [h, h2] <;> omega

theorem getLsbD_low48 (i : Nat) : (0x0000FFFFFFFFFFFF : Word).getLsbD i = decide (i < 48) := by
  rw [show (0x0000FFFFFFFFFFFF : Word) = (BitVec.allOnes 48).setWidth 64 from rfl, BitVec.getLsbD_setWidth, BitVec.getLsbD_allOnes]
  by_cases h : i < 48 <;> simp [h]
  omega

theorem getLsbD_baseBits (i : Nat) : baseBits.getLsbD i = decide (12 ≤ i ∧ i < 56) := by
  rw [show baseBits = (BitVec.allOnes 44).setWidth 64 <<< 12 by decide, BitVec.getLsbD_shiftLeft, BitVec.getLsbD_setWidth,
    BitVec.getLsbD_allOnes]
  refine Bool.eq_iff_iff.mpr ?_
  simp only [Bool.and_eq_true, Bool.not_eq_true', decide_eq_true_eq, decide_eq_false_iff_not]
  omega

theorem blend_lowHalf (old : BitVec 32) (val : Word) : (blend (old.setWidth 64) val 0xFFFFFFFF).setWidth 32 = val.setWidth 32 := by
  ext i hi
  rw [← BitVec.getLsbD_eq_getElem, ← BitVec.getLsbD_eq_getElem, BitVec.getLsbD_setWidth, BitVec.getLsbD_setWidth, getLsbD_blend,
    getLsbD_lowHalf]
  simp [hi]

theorem toNat_low48 (w : Word) : (w &&& 0x0000FFFFFFFFFFFF).toNat = w.toNat % 2 ^ 48 := by
  rw [BitVec.toNat_and]
  exact Nat.and_two_pow_sub_one_eq_mod w.toNat 48

/-- The high half of a 48-bit register takes the low 16 bits of what is written there. -/
theorem toNat_blend_high (old v : Word) :
    (blend old (v <<< 32) 0xFFFFFFFF00000000 &&& 0x0000FFFFFFFFFFFF).toNat = old.toNat % 2 ^ 32 + v.toNat % 2 ^ 16 * 2 ^ 32 := by
  refine Nat.eq_of_testBit_eq fun i => ?_
  rw [Nat.add_comm, Nat.mul_comm, Nat.testBit_two_pow_mul_add _ (Nat.mod_lt _ (Nat.two_pow_pos 32)), Nat.testBit_mod_two_pow,
    Nat.testBit_mod_two_pow]
  change (blend old (v <<< 32) 0xFFFFFFFF00000000 &&& 0x0000FFFFFFFFFFFF).getLsbD i = _
  rw [BitVec.getLsbD_and, getLsbD_low48, getLsbD_blend, getLsbD_highHalf, BitVec.getLsbD_shiftLeft]
  change _ = if i < 32 then decide (i < 32) && old.getLsbD i else decide (i - 32 < 16) && v.getLsbD (i - 32)
  by_cases h1 : i < 32
  · simp [h1, show ¬ 32 ≤ i by omega, show i < 48 by omega]
  · by_cases h2 : i < 48
    · simp [h1, h2, show 32 ≤ i by omega, show i < 64 by omega, show i - 32 < 16 by omega]
    · simp [h2, h1, show ¬ i - 32 < 16 by omega]

/-- A base register keeps the frame of 4 KiB that an address of HBM names. -/
theorem toNat_baseBits {v : Word} (h : bitsOf v 48 8 = 0) : (v &&& baseBits).toNat = v.toNat % 2 ^ 48 / 4096 * 4096 := by
  have hz : ∀ i, 48 ≤ i → i < 56 → v.getLsbD i = false := fun i h1 h2 => by
    have := congrArg (fun n => Nat.testBit n (i - 48)) h
    simp only [bitsOf, Nat.testBit_mod_two_pow, Nat.testBit_div_two_pow, Nat.zero_testBit, show i - 48 < 8 by omega, decide_true,
      Bool.true_and] at this
    rwa [show i - 48 + 48 = i by omega] at this
  refine Nat.eq_of_testBit_eq fun i => ?_
  rw [show (4096 : Nat) = 2 ^ 12 from rfl, Nat.testBit_mul_two_pow, Nat.testBit_div_two_pow, Nat.testBit_mod_two_pow]
  change (v &&& baseBits).getLsbD i = (decide (12 ≤ i) && (decide (i - 12 + 12 < 48) && v.getLsbD (i - 12 + 12)))
  rw [BitVec.getLsbD_and, getLsbD_baseBits]
  by_cases h1 : 12 ≤ i
  · rw [Nat.sub_add_cancel h1]
    by_cases h2 : i < 48
    · simp [h1, h2, show i < 56 by omega]
    · by_cases h3 : i < 56
      · simp [hz i (by omega) h3]
      · simp [h2, h3]
  · simp [h1]

theorem mayRebase_none {s : State} (h : s.sched.tasks ≠ []) (w : Word) : s.mayRebase w = false := by
  rw [State.mayRebase, List.isEmpty_eq_false_iff.mpr h, Bool.false_and]

theorem bitsOf_baseBits {v : Word} (h : bitsOf v 48 8 = 0) : bitsOf (v &&& baseBits) 48 8 = 0 := by
  have h48 : v.toNat % 2 ^ 48 / 4096 * 4096 < 2 ^ 48 :=
    (Nat.div_mul_le_self _ _).trans_lt (Nat.mod_lt _ (Nat.two_pow_pos 48))
  rw [bitsOf, toNat_baseBits h, Nat.div_eq_of_lt h48, Nat.zero_mod]

theorem accessMask_none {off size : Nat} (h : (size ≠ 4 ∧ size ≠ 8) ∨ off % size ≠ 0) : accessMask off size = none := by
  have h8 : ¬ (size = 8 ∧ off % 8 = 0) := fun ⟨h1, h2⟩ => by subst h1; omega
  have h4 : ¬ (size = 4 ∧ off % 4 = 0) := fun ⟨h1, h2⟩ => by subst h1; omega
  simp only [accessMask, Bool.and_eq_true, decide_eq_true_eq, if_neg h8, if_neg h4]

end Sys2Proof.Machine
end

section
/-! Settled: links, TDISP, the register window and accesses from outside (O59). -/

namespace Sys2Proof.Machine

/-- A store from outside is a write at home. -/
theorem outside_store (s : State) (kid key : Nat) (bs : List Byte) :
    s.outside kid key (.store bs) =
      (s.answerWith none).homeWrite kid ((bs.zip (List.range bs.length)).map (fun x => (key + x.2, x.1))) := rfl

/-- A load from outside answers with what it finds. -/
theorem outside_load (s : State) (kid key n : Nat) :
    s.outside kid key (.load n) =
      (s.answerWith (s.foundBy kid key (.load n))).reach (linesOf ((List.range n).map (fun i => key + i))) := rfl

/-- A pending write that is performed, or not. -/
theorem performAt_of {s : State} {c i : Nat} {w : PendW} (hw : (s.core c).wq[i]? = some w) :
    s.performAt c i =
      if s.heldBack c w || !mayPass ((s.core c).wq.take i) w || (w.layer == 0 && (s.core c).oldLines (2 ^ 64) w.epoch) then s
      else (s.modCore c (fun k => { k with wq := k.wq.eraseIdx i })).performPend ((s.core c).wq.eraseIdx i) w := by
  simp only [State.performAt, hw]

theorem peer_keyed {s : State} {ctx kid pa : Nat} {op : ExtOp} (hk : s.kidOf ctx = some kid) (hn : pa + ExtOp.count op ≤ s.hbmSize)
    (ha : ExtOp.isAtomic op = false) (hu : s.soundUp = true) (hf : s.freeOf pa (ExtOp.count op) = true) :
    s.peer ctx pa op = (s.outside kid pa op).agentAhead := by
  simp [State.peer, hk, ha, hu, hf, Nat.not_lt.mpr hn]

/-- What the BAR4 aperture does with a store inside it. -/
theorem bar4_store {s : State} {addr : Nat} {bs : List Byte} (h1 : addr + bs.length ≤ 2 ^ 32) (h2 : addr + bs.length ≤ s.hbmSize)
    (hp : s.host.pcieUp = true) (o : Origin) :
    s.bar4 o addr (.store bs) = if !s.reachesAperture o addr bs.length then s.answerWith none
      else if !s.freeOf addr bs.length then s
      else ((s.answerWith none).homeWrite 0 ((bs.zip (List.range bs.length)).map (fun x => (addr + x.2, x.1)))).agentAhead := by
  have hmin : ¬ addr + bs.length > Nat.min (2 ^ 32) s.hbmSize := Nat.not_lt.mpr (Nat.le_min.mpr ⟨h1, h2⟩)
  have hc : (decide (addr + bs.length > Nat.min (2 ^ 32) s.hbmSize) || !ExtOp.pcie (.store bs) ||
      (ExtOp.isAtomic (.store bs) && addr % ExtOp.count (.store bs) != 0) || !s.host.pcieUp) = false := by
    rw [decide_eq_false hmin, hp]
    rfl
  rw [State.bar4]
  change (if (decide (addr + bs.length > Nat.min (2 ^ 32) s.hbmSize) || _ || _ || _) = true then s else _) = _
  rw [if_neg (ne_true_of_eq_false hc)]
  rfl

/-- Settles O59. -/
theorem linkWindowEvents : Obligations.LinkWindowEvents := by
  unfold Obligations.LinkWindowEvents
  refine ⟨fun s => ⟨rfl, rfl, fun _ => rfl, fun p hp => ?_, fun l hl hs => ?_, fun n run hn => ?_, fun w hw => ?_, fun idx w t hw ht => ?_⟩,
    fun s v => ⟨fun o off size h => ?_, ?_, ?_, ?_, ?_, fun ht => ?_, fun ht hv => ?_, ?_, rfl⟩,
    fun s o addr bs h1 h2 hp => ⟨fun hr => ?_, fun hr hf => ?_⟩, fun s ctx pa op hk hs => ?_,
    fun s u kid key n keys hkeys hu => ⟨fun h => ?_, fun h => ?_⟩, fun s ctx pa bs n kid h1 h2 hk hs => ⟨fun hf => ?_, fun hf => ?_⟩,
    fun s c i w hw => ⟨fun hh hm hl => ?_, fun h => ?_⟩, fun s c w hw hh hl => ?_⟩
  · refine ⟨{ s with mgmt := { s.mgmt with ports := s.mgmt.ports.put p false } }, ?_, ?_, rfl, fun p' hp' => ?_⟩
    · change execSoundPortDown p s = _
      rw [execSoundPortDown, if_pos hp]
    · exact (Store.find?_put ..).trans (if_pos rfl)
    · exact (Store.find?_put ..).trans (if_neg (Ne.symm hp'))
  · refine ⟨{ s with mgmt := { s.mgmt with links := s.mgmt.links.put l (s.mgmt.links.get l 0 + 1), sent := s.mgmt.sent.del l } },
      ?_, ?_, rfl, fun l' hl' => ?_⟩
    · change execLinkRekey l s = _
      rw [execLinkRekey, if_pos (by rw [hs, decide_eq_true hl]; rfl)]
    · exact (Store.find?_put ..).trans (if_pos rfl)
    · exact (Store.find?_put ..).trans (if_neg (Ne.symm hl'))
  · refine ⟨{ s with host := { s.host with tdiRun :=
        if run then n :: s.host.tdiRun.filter (fun t => t != n) else s.host.tdiRun.filter (fun t => t != n) } }, ?_, ?_, rfl,
      fun n' hn' => ?_⟩
    · change execTdispMessage n run s = _
      rw [execTdispMessage, if_pos hn]
    · cases run <;> simp
    · cases run <;> simp [hn']
  · change execPageServiceRetry w s = _
    rw [execPageServiceRetry, hw]
    rfl
  · have he : exec (.pageServiceRetry idx) s = .next (if t.hasWaiter w then s else t) := by
      change execPageServiceRetry idx s = _
      rw [execPageServiceRetry, hw, ht]
    rw [he]
    exact ⟨fun h => by rw [h]; rfl, fun h => by rw [h]; rfl⟩
  · change Host.Outcome.next (s.regWrite o off size v) = _
    rw [State.regWrite, accessMask_none h]
  · change Host.Outcome.next { s with host := { s.host with
      polage := (blend (s.host.polage.setWidth 64) v (BitVec.allOnes 64)).setWidth 32 } } = _
    rw [blend_all]
  · change Host.Outcome.next { s with host := { s.host with polage := (blend (s.host.polage.setWidth 64) v 0xFFFFFFFF).setWidth 32 } } = _
    rw [blend_lowHalf]
  · refine ⟨{ s with host := { s.host with polpr := blend s.host.polpr v (BitVec.allOnes 64) &&& 0x0000FFFFFFFFFFFF } }, rfl, ?_, rfl⟩
    rw [blend_all]
    exact toNat_low48 v
  · exact ⟨{ s with host := { s.host with polwd := blend s.host.polwd (v <<< 32) 0xFFFFFFFF00000000 &&& 0x0000FFFFFFFFFFFF } }, rfl,
      toNat_blend_high .., rfl⟩
  · change Host.Outcome.next (if s.mayRebase (blend s.host.lpbase v (BitVec.allOnes 64) &&& baseBits) then _ else s) = _
    rw [mayRebase_none ht, if_neg Bool.false_ne_true]
  · have hb : s.mayRebase (v &&& baseBits) = true := by
      rw [State.mayRebase, ht, bitsOf_baseBits hv]
      rfl
    refine ⟨{ s with host := { s.host with lpbase := v &&& baseBits } }, ?_, toNat_baseBits hv, rfl⟩
    change Host.Outcome.next (if s.mayRebase (blend s.host.lpbase v (BitVec.allOnes 64) &&& baseBits) then
      { s with host := { s.host with lpbase := blend s.host.lpbase v (BitVec.allOnes 64) &&& baseBits } } else s) = _
    rw [blend_all, if_pos hb]
  · refine ⟨{ s with evq := { s.evq with lost := s.evq.lost &&& ~~~ones v (BitVec.allOnes 64) 0 32 } }, rfl, ?_, rfl⟩
    have : ones v (BitVec.allOnes 64) 0 32 = v.setWidth 32 := by
      rw [ones, BitVec.and_allOnes, BitVec.setWidth_eq_extractLsb' (by decide)]
    rw [this]
  · refine ⟨s.answerWith none, ?_, rfl⟩
    change Host.Outcome.next (s.bar4 o addr (.store bs)) = _
    rw [bar4_store h1 h2 hp, hr]
    rfl
  · change Host.Outcome.next (s.bar4 o addr (.store bs)) = _
    rw [bar4_store h1 h2 hp, hr, hf]
    rfl
  · change Host.Outcome.next (s.peer ctx.toNat pa op) = _
    simp only [State.peer, hk, hs, if_true]
  · subst hkeys hu
    have hany : ((List.range n).map (fun i => key + i)).any
        (fun k => (s.reach (linesOf ((List.range n).map (fun i => key + i)))).badAt k != 0) = false := by
      rw [List.any_eq_false]
      intro k hk
      rw [h k hk]
      simp
    simp only [State.foundBy, ExtOp.count, hany, Bool.false_eq_true, if_false]
  · subst hkeys hu
    have hany : ((List.range n).map (fun i => key + i)).any
        (fun k => (s.reach (linesOf ((List.range n).map (fun i => key + i)))).badAt k != 0) = true := by
      obtain ⟨k, hk, hb⟩ := h
      exact List.any_eq_true.mpr ⟨k, hk, by simpa using hb⟩
    simp only [State.foundBy, ExtOp.count, hany, if_true]
  · change Host.Outcome.next (s.peer ctx.toNat pa (.store bs)) = _
    rw [peer_keyed hk h1 rfl hs hf, outside_store]
  · change Host.Outcome.next (s.peer ctx.toNat pa (.load n)) = _
    rw [peer_keyed hk h2 rfl hs hf, outside_load]
  · change Host.Outcome.next (s.performAt c i) = _
    have hl0 : (w.layer == 0 && (s.core c).oldLines (2 ^ 64) w.epoch) = false := by
      by_cases h0 : w.layer = 0
      · rw [hl h0, Bool.and_false]
      · rw [beq_false_of_ne h0, Bool.false_and]
    rw [performAt_of hw, hh, hm, hl0]
    rfl
  · change Host.Outcome.next (s.performAt c i) = _
    rw [performAt_of hw, if_pos]
    rcases h with h | h | ⟨h0, h⟩
    · rw [h]; rfl
    · rw [h, Bool.not_false, Bool.or_true, Bool.true_or]
    · rw [h0, h]
      exact Bool.or_true _
  · change Host.Outcome.next (s.performAt c 0) = _
    have hl0 : (w.layer == 0 && (s.core c).oldLines (2 ^ 64) w.epoch) = false := by
      by_cases h0 : w.layer = 0
      · rw [hl h0, Bool.and_false]
      · rw [beq_false_of_ne h0, Bool.false_and]
    rw [performAt_of hw, hh, hl0]
    simp [mayPass, List.eraseIdx_zero]

end Sys2Proof.Machine
end

section
/-! Settled: boot, the management port and the memory keys (O57). -/

namespace Sys2Proof.Machine

/-- The checks an image passes, in the two ways they are said (22 R379). -/
theorem imageOk_iff (s : State) (x : Image) :
    s.imageOk x = true ↔ x.magic = 0x4B525659 ∧ x.length.toNat ≤ 12582912 ∧ x.length.toNat = x.body.length ∧ x.resv0 = true ∧
      Config.rsaOk x = true ∧ Config.slhOk x = true ∧ s.mgmt.svn.toNat ≤ x.svn.toNat := by
  rw [State.imageOk, show maxBody = 12582912 from rfl]
  simp only [Bool.and_eq_true, beq_iff_eq, decide_eq_true_eq, and_assoc]

theorem powered_of {s : State} (h : s.cryo.st ≠ 0 ∨ s.mgmt.waiting = true) : s.powered = true := by
  simpa [State.powered] using h

/-- CRYOST as the port and the register show it (20 R345). -/
theorem cryost_toNat (s : State) :
    s.cryost.toNat = s.holdSecs + s.cryo.value * 256 + (if s.cryo.badcmd then 65536 else 0) ∧ s.holdSecs < 256 ∧
      s.cryo.value = s.cryo.st.toNat * 16 + (if s.cryo.slip then 8 else 0) + s.cryo.band.toNat ∧ s.cryo.value < 256 := by
  have hh : s.holdSecs < 2 ^ 8 := by
    rw [State.holdSecs]
    split
    · exact (Nat.min_le_left _ _).trans_lt (by decide)
    · decide
  have hb : s.cryo.band.toNat < 8 := s.cryo.band.isLt
  have hst : s.cryo.st.toNat < 16 := s.cryo.st.isLt
  have hv : s.cryo.value < 2 ^ 8 := by
    rw [Cryo.value]
    split <;> omega
  obtain ⟨h1, h2⟩ := mkWord_two (lo := 8) hh (le_refl _) hv (by omega)
  obtain ⟨h3, -⟩ := mkWord_cons (lo := 16) (n := 1) (v := if s.cryo.badcmd then 1 else 0) (by simpa using h2) (by omega)
  refine ⟨?_, hh, rfl, hv⟩
  rw [State.cryost, h3, h1]
  cases s.cryo.badcmd <;> simp

theorem thtemp_toNat (s : State) (i : Nat) (h : (s.cryo.temps.get i noTherm).kelvin < 65536) :
    (s.thtemp i).toNat = (s.cryo.temps.get i noTherm).kelvin + (if (s.cryo.temps.get i noTherm).valid then 65536 else 0) := by
  obtain ⟨h1, -⟩ := mkWord_two (lo := 16) (m := 16) (n := 1) (v := if (s.cryo.temps.get i noTherm).valid then 1 else 0) h (le_refl _)
    (by split <;> omega) (by omega)
  rw [State.thtemp]
  refine h1.trans ?_
  split <;> rfl

/-- A key that may be loaded, and one that may not (22 R383). -/
theorem loadKey_good (s : State) {k1 k2 : BitVec 256} {slot : Nat} (hs : slot ≠ 0) (hk : k1 ≠ k2) :
    s.loadKey k1 k2 slot false = ({ s with mgmt := { s.mgmt with
      keys := s.mgmt.keys.put slot { k1 := k1, k2 := k2, gen := keyGen k1 k2 } } }, 1) := by
  rw [State.loadKey, beq_false_of_ne hs, beq_false_of_ne hk]
  rfl

theorem loadKey_erase (s : State) (k1 k2 : BitVec 256) {slot : Nat} (hs : slot ≠ 0) :
    s.loadKey k1 k2 slot true = ({ s with mgmt := { s.mgmt with keys := s.mgmt.keys.del slot } }, 1) := by
  rw [State.loadKey, beq_false_of_ne hs]
  rfl

theorem loadKey_refused (s : State) {k1 k2 : BitVec 256} {slot : Nat} (h : slot = 0 ∨ k1 = k2) :
    s.loadKey k1 k2 slot false = (s, 2) := by
  have hc : (slot == 0 || (!false && k1 == k2)) = true := by
    rcases h with h | h <;> simp [h]
  rw [State.loadKey, if_pos hc]

theorem slot_ne_zero {slot : BitVec 10} (h : slot ≠ 0) : slot.toNat ≠ 0 := fun h0 => h (BitVec.eq_of_toNat_eq (by simpa using h0))

/-- KEYLD over the port in a secured session. -/
theorem execKeyld_secured {s : State} (hp : s.powered = true) (hs : s.mgmt.session.isSome = true) (k1 k2 : BitVec 256) (slot : BitVec 10)
    (e : Bool) {t : State} {n : Nat} (hl : s.loadKey k1 k2 slot.toNat e = (t, n)) :
    exec (.keyld true k1 k2 slot e) s = .next (t.replyWith [BitVec.ofNat 64 n]) := by
  change execKeyld true k1 k2 slot e s = _
  rw [execKeyld, hs, hp, hl]
  rfl

/-- GO through the block, on a stream that may use it. -/
theorem keyldGo_good {s : State} {o : Origin} (ho : s.onIde o = true) (slot : BitVec 10) (e : Bool) {t : State}
    (hl : s.loadKey s.host.k1 s.host.k2 slot.toNat e = (t, 1)) :
    s.keyldGo o slot.toNat e = { t with host := { t.host with kstat := 1, kslot := slot, k1 := 0, k2 := 0 } } := by
  have hd : s.keyldDrops o = false := by
    cases o with
    | tdi n => simpa [State.onIde, State.keyldDrops] using ho
    | sideband => cases ho
    | host => rfl
    | firmware => rfl
    | ide => rfl
  rw [State.keyldGo, hd, ho, hl]
  simp

/-- The image that the boot ROM loads. -/
theorem flashed_eq {s : State} {img rom : Image} (h : (s.mgmt.flash = none ∧ rom = img) ∨ s.mgmt.flash = some rom) :
    s.flashed img = rom := by
  rcases h with ⟨hf, hr⟩ | hf
  · rw [State.flashed, hf, hr]
    rfl
  · rw [State.flashed, hf]
    rfl

/-- Settles O57. -/
theorem managementCommands : Obligations.ManagementCommands := by
  unfold Obligations.ManagementCommands
  refine ⟨fun s img rom ok hok t ht hrom => ⟨fun h0 hw hr => ?_, fun h0 hw hr => ?_, fun hw hi => ?_, fun h => ?_⟩,
    fun s h => ⟨?_, ?_, ?_, fun n => ?_, fun block nonce => ?_, fun peer => ?_⟩,
    fun s k1 k2 slot h => ⟨fun hs hk hse => ?_, fun hs hse => ?_, fun hb hse => ?_, fun e => ?_⟩,
    fun s o slot => ⟨fun i hi => ⟨fun ho => ?_, fun n ho hn => ?_, fun ho => ?_⟩, ⟨rfl, fun n hn => ?_⟩, fun ho hs hk => ?_, fun ho hs => ?_⟩⟩
  · have hi : s.imageOk rom = true := (imageOk_iff ..).mpr ((hok _).mp hr)
    change execPowerUp img s = _
    simp only [execPowerUp, h0, hw, hi, flashed_eq hrom, bne_self_eq_false, Bool.or_self, Bool.false_eq_true, if_false, if_true, ht]
    rfl
  · have hi : s.imageOk rom = false := by
      rw [Bool.eq_false_iff]
      exact fun hi => hr ((hok _).mpr ((imageOk_iff ..).mp hi))
    change execPowerUp img s = _
    simp only [execPowerUp, h0, hw, flashed_eq hrom, hi, bne_self_eq_false, Bool.or_self, Bool.false_eq_true, if_false]
  · have hi : s.imageOk img = true := (imageOk_iff ..).mpr ((hok _).mp hi)
    change execRecover img s = _
    rw [execRecover, hw, hi, ht]
    rfl
  · have hi : (s.mgmt.waiting && s.imageOk img) = false := by
      rcases h with h | h
      · rw [h, Bool.false_and]
      · rw [Bool.and_eq_false_imp]
        exact fun _ => Bool.eq_false_iff.mpr fun hi => h ((hok _).mpr ((imageOk_iff ..).mp hi))
    change execRecover img s = _
    rw [execRecover, hi]
    rfl
  · obtain ⟨hc, hh, hv, hv8⟩ := cryost_toNat s
    have hb : s.cryo.band.toNat < 8 := s.cryo.band.isLt
    refine ⟨s.replyWith (s.cryost :: (List.range 12).map s.thtemp), ?_, rfl, by simp [State.replyWith], ?_, ?_, ?_, fun i x hi hx hk => ?_⟩
    · change execRdband s = _
      rw [execRdband, powered_of h]
      rfl
    · change bitsOf s.cryost 12 4 = _
      rw [bitsOf, hc, hv]
      split <;> split <;> omega
    · change bitsOf s.cryost 8 3 = _
      rw [bitsOf, hc, hv]
      split <;> split <;> omega
    · change bitsOf s.cryost 16 1 = _
      rw [bitsOf, hc]
      split <;> omega
    · have hg : (s.replyWith (s.cryost :: (List.range 12).map s.thtemp)).mgmt.reply.getD (i + 1) 0 = s.thtemp i := by
        simp [State.replyWith, hi]
      rw [hg, hx]
      exact thtemp_toNat s i (hx ▸ hk)
  · refine ⟨Config.power s.free, ?_⟩
    change execRdpwr s = _
    rw [execRdpwr, powered_of h]
    rfl
  · have he : exec .rderr s = .next (State.replyWith
        { s with evq := { s.evq with errs := [], lost := 0 }, coll := { s.coll with flushN := 0, mismN := 0, lateN := 0 } }
        [BitVec.ofNat 64 (s.evq.errs.get 0 0), BitVec.ofNat 64 (s.evq.errs.get 1 0), s.sndcnt, s.evq.lost.setWidth 64]) := by
      change execRderr s = _
      rw [execRderr, powered_of h]
      rfl
    exact ⟨_, he, rfl, rfl, rfl, rfl, rfl, rfl, rfl⟩
  · change execCryo n s = _
    rw [execCryo, powered_of h]
    rfl
  · change execGetMeasurements block nonce s = _
    rw [execGetMeasurements, powered_of h]
    rfl
  · change execKeyExchange peer s = _
    rw [execKeyExchange, powered_of h]
    rfl
  · refine ⟨_, execKeyld_secured (powered_of h) hse k1 k2 slot false (loadKey_good s (slot_ne_zero hs) hk), rfl, _,
      (Store.find?_put ..).trans (if_pos rfl), rfl, rfl⟩
  · exact execKeyld_secured (powered_of h) hse k1 k2 slot true (loadKey_erase s k1 k2 (slot_ne_zero hs))
  · exact execKeyld_secured (powered_of h) hse k1 k2 slot false
      (loadKey_refused s (hb.imp (fun h => by rw [h]; rfl) id))
  · rfl
  · rcases hi with rfl | rfl <;> rcases ho with rfl | rfl <;> rfl
  · subst ho
    have hd : s.keyldDrops (.tdi n) = true := by simpa [State.keyldDrops] using hn
    rcases hi with rfl | rfl
    · exact congrArg Host.Outcome.next (if_pos hd)
    · exact congrArg Host.Outcome.next (if_pos hd)
  · subst ho
    rcases hi with rfl | rfl <;> rfl
  · simpa [State.onIde] using hn
  · have hg := keyldGo_good ho slot false (loadKey_good s (slot_ne_zero hs) hk)
    exact ⟨_, congrArg Host.Outcome.next hg, rfl, rfl, rfl, rfl, _, (Store.find?_put ..).trans (if_pos rfl), rfl, rfl⟩
  · exact congrArg Host.Outcome.next (keyldGo_good ho slot true (loadKey_erase s s.host.k1 s.host.k2 (slot_ne_zero hs)))

end Sys2Proof.Machine
end

section
/-! Settled: the work queues (O58). -/

namespace Sys2Proof.Machine

@[simp] theorem State.wq_setWq (s : State) (q : Nat) (w : Wq) : (s.setWq q w).wq q = w := by
  rw [State.wq, State.setWq, Store.get_put, if_pos rfl]

theorem State.setWq_msixMasked (s : State) (q : Nat) (w : Wq) (v : Nat) : (s.setWq q w).msixMasked v = s.msixMasked v := rfl

theorem State.sendMsix_wq (s : State) (v q : Nat) : (s.sendMsix v).wq q = s.wq q := by
  rw [State.sendMsix, State.wq, State.wq]
  cases s.msixMasked v <;> rfl

/-- A vector that is sent, or pends (22 R369). -/
theorem State.sendMsix_msix (s : State) (v : Nat) :
    (s.sendMsix v).host.msix = s.host.msix ++ (if s.msixMasked v then [] else [v]) ∧
    (s.msixMasked v = true → v ∈ (s.sendMsix v).host.pend) := by
  rw [State.sendMsix]
  cases s.msixMasked v <;> simp

/-- The entry that the queue in service has taken has its effect. -/
theorem State.entry_taken {s : State} {i : Instr} (k : State → Nat → State) (hc : (s.wq s.host.wqCur).cur = some i)
    (hs : (s.wq s.host.wqCur).st = 1) : s.entry i k = k s s.host.wqCur := by
  rw [State.entry, hc, hs]
  simp [wqRun]

theorem State.entry_other {s : State} {i j : Instr} (k : State → Nat → State) (hc : (s.wq s.host.wqCur).cur = some i) (hij : i ≠ j) :
    s.entry j k = s := by
  rw [State.entry, hc, beq_false_of_ne (fun h => hij (Option.some.inj h))]
  rfl

theorem readDbo_none {s : State} {c n : Nat} {e : EvInfo} (h : bitsOf (s.lrecWord n 0x20) 0 16 = 0) : s.readDbo c n e = (s, .none) := by
  simp only [State.readDbo, h, if_true]

/-- LAUNCH past its checks: the records are armed as the done object allows (22 R374). -/
def State.launched (s : State) (q n : Nat) : State :=
  if s.lrecTiles n == 0 then s.acceptWq q
  else
    match s.readDbo noCore n { kind := 6 } with
    | (s, .none) => (s.armRecords n none [] none).acceptWq q
    | (s, .at_ key st) => (s.armRecords n none [] (some (key, st))).acceptWq q
    | (s, .held _) => s.waitWq q
    | (s, .fault f buf) => s.badRef q f.fail buf (f.off % (2 ^ 48 : Int)).toNat

theorem State.launched_empty {s : State} {q n : Nat} (h : s.lrecTiles n = 0) : s.launched q n = s.acceptWq q := by
  rw [State.launched, h]
  rfl

theorem State.launched_none {s : State} {q n : Nat} (h : s.lrecTiles n ≠ 0) (hd : bitsOf (s.lrecWord n 0x20) 0 16 = 0) :
    s.launched q n = (s.armRecords n none [] none).acceptWq q := by
  rw [State.launched, beq_false_of_ne h, readDbo_none hd]
  rfl

theorem State.launched_at {s u : State} {q n key st : Nat} (h : s.lrecTiles n ≠ 0) (hd : s.readDbo noCore n { kind := 6 } = (u, .at_ key st)) :
    s.launched q n = (u.armRecords n none [] (some (key, st))).acceptWq q := by
  rw [State.launched, beq_false_of_ne h, hd]
  rfl

/-- LAUNCH with the done object not in the way of its checks. -/
theorem State.launchEntry_plain {s : State} (q : Nat) (r : BitVec 16) (tiles : BitVec 32) (he : s.evq.enabled = true) (hp : s.partHeld = false) :
    s.launchEntry q r false tiles =
      if s.armStatus (r.setWidth 64) (s.wq q).ctxid.toNat != 0 then s.haltWq q (errArm (s.armStatus (r.setWidth 64) (s.wq q).ctxid.toNat))
      else s.launched q r.toNat := by
  simp only [State.launchEntry, he, hp, Bool.not_true, Bool.or_self, Bool.false_eq_true, if_false, bne_self_eq_false]
  rfl

theorem State.launchEntry_sett {s : State} (q : Nat) (r : BitVec 16) (tiles : BitVec 32) (he : s.evq.enabled = true) (hp : s.partHeld = false) :
    s.launchEntry q r true tiles =
      if s.patchStatus (r.setWidth 64) (tiles.setWidth 64) 1 (s.wq q).ctxid.toNat != 0 then
        s.haltWq q (errArm (s.patchStatus (r.setWidth 64) (tiles.setWidth 64) 1 (s.wq q).ctxid.toNat))
      else if (s.patch r.toNat 1 (tiles.setWidth 64)).armStatus (r.setWidth 64) (s.wq q).ctxid.toNat != 0 then
        (s.patch r.toNat 1 (tiles.setWidth 64)).haltWq q
          (errArm ((s.patch r.toNat 1 (tiles.setWidth 64)).armStatus (r.setWidth 64) (s.wq q).ctxid.toNat))
      else (s.patch r.toNat 1 (tiles.setWidth 64)).launched q r.toNat := by
  simp only [State.launchEntry, he, hp, Bool.not_true, Bool.or_self, Bool.false_eq_true, if_false, if_true]
  rfl

theorem State.seqEntry_of {s : State} (q : Nat) (n : BitVec 4) (a b c d e f : Word) (he : s.evq.enabled = true)
    (hs : (s.seq n.toNat).startable = true) :
    s.seqEntry q n [a, b, c, d, e, f] =
      if bitsOf d 16 16 != (s.wq q).ctxid.toNat then s.haltWq q 5
      else match s.seqValid [a, b, c, d, e, f, 0, 0] with
        | (s, true, _) => (s.seqBegin n.toNat [a, b, c, d, e, f, 0, 0]).acceptWq q
        | (s, false, some (f, buf)) => s.badRef q f.fail buf (f.off % (2 ^ 48 : Int)).toNat
        | (s, false, none) => s.haltWq q 5 := by
  simp only [State.seqEntry, he, hs, Bool.not_true, Bool.or_self, Bool.false_eq_true, if_false]
  rfl

/-- An object that a queue reaches. -/
theorem State.wqObject_of {s u : State} {q : Nat} {bo : Word} {need : Need} {key : Nat} (k : State → Nat → Nat → State)
    (hh : s.boHeld (s.whoWq q) (refBuf bo) (refOff bo) = false) (hk : s.boKey (s.whoWq q) (refBuf bo) (refOff bo) need = (u, .ok key))
    (hf : u.ferried key = false) (hp : u.pinnedFor noCore (lineOf key) = false) :
    s.wqObject q bo need k = k (u.reach [lineOf key]) ((s.whoWq q).kid.getD 0) key := by
  simp only [State.wqObject, hh, hk, hf, hp, Bool.or_self, Bool.false_eq_true, if_false]

/-- Settles O58. -/
theorem workQueueEvents : Obligations.WorkQueueEvents := by
  unfold Obligations.WorkQueueEvents
  refine ⟨fun s q errc he => ?_, fun s q => ?_, fun s o q w tail hw => ⟨fun hr hl => ?_, fun hr hl hs => ?_, fun hr => ?_, fun hr => ?_⟩,
    fun s q ctx i hq hctx hc hs => ?_, fun s q i hc hs => ?_, fun s q hs => ?_⟩
  · obtain ⟨hm, hp⟩ := (s.setWq q { (s.wq q).idle wqHalted with
      erridx := BitVec.ofNat 16 (s.wq q).at_, errc := BitVec.ofNat 8 errc, retry := false, skip := false }).sendMsix_msix 2047
    refine ⟨_, rfl, ?_, ?_, ?_, hm, hp, ?_, ?_, rfl⟩
    all_goals rw [State.haltWq, State.sendMsix_wq, State.wq_setWq]
    · rfl
    · exact (BitVec.toNat_ofNat ..).trans (Nat.mod_eq_of_lt he)
    · exact BitVec.toNat_ofNat ..
    · rfl
    · rfl
  · refine ⟨_, rfl, ?_, ?_, ?_, rfl⟩
    all_goals rw [State.acceptWq, State.wq_setWq]
    · rfl
    · rfl
    · rfl
  · subst hw
    change Host.Outcome.next (s.doorbell o q tail.toNat) = _
    rw [State.doorbell, hr, if_pos hl]
    rfl
  · subst hw
    change Host.Outcome.next (s.doorbell o q tail.toNat) = _
    rw [State.doorbell, hr, if_neg (Nat.not_lt.mpr hl), beq_false_of_ne (show (s.wq q).st ≠ wqHalted from hs)]
    rfl
  · change Host.Outcome.next (s.doorbell o q tail.toNat) = _
    rw [State.doorbell, hr]
    rfl
  · subst hw
    refine ⟨fun h0 => ?_, fun h2 => ?_, fun st hst h2 => ⟨?_, ?_⟩, fun h2 => ⟨?_, ?_⟩⟩
    · change Host.Outcome.next (s.wqEnable o q true) = _
      rw [State.wqEnable, if_pos hr, Wq.setEnable, h0]
      rfl
    · change Host.Outcome.next (s.wqEnable o q false) = _
      rw [State.wqEnable, if_pos hr, Wq.setEnable, beq_false_of_ne (show (s.wq q).st ≠ wqHalted from h2)]
      rfl
    · change Host.Outcome.next (s.wqRetry o q) = _
      rw [State.wqRetry, hr, h2, hst]
      rfl
    · change Host.Outcome.next (s.wqSkip o q) = _
      rw [State.wqSkip, hr, h2, hst]
      rfl
    · change Host.Outcome.next (s.wqRetry o q) = _
      rw [State.wqRetry, hr, beq_false_of_ne (show (s.wq q).st ≠ wqHalted from h2)]
      rfl
    · change Host.Outcome.next (s.wqSkip o q) = _
      rw [State.wqSkip, hr, beq_false_of_ne (show (s.wq q).st ≠ wqHalted from h2)]
      rfl
  · subst hq hctx
    refine ⟨fun r tiles hi he hp => ?_, fun r tiles hi he hp => ?_, fun n a b c d e f u ok ds hi he hn hds => ?_,
      fun src dst len bo hi => ?_, fun bo ph u v key hi hh hk hf hpin hv => ?_,
      fun bo n vec msix u v w key kid hi hh hk hf hpin hv hkid hw => ?_, fun p arg bo rank nrank u v d hi hr hd => ?_,
      fun j r b t hj hij => ?_⟩
    · subst hi
      have hx : exec (.launch r false tiles) s = .next (s.launchEntry s.host.wqCur r false tiles) :=
        congrArg Host.Outcome.next (State.entry_taken _ hc hs)
      rw [hx, State.launchEntry_plain _ _ _ he hp]
      refine ⟨fun st hst h0 => ?_, fun h0 => ?_⟩
      · rw [if_pos (by rw [hst]; exact bne_iff_ne.mpr h0), hst]
        rfl
      · rw [h0]
        exact ⟨fun ht => congrArg _ (State.launched_empty ht), fun ht hd => congrArg _ (State.launched_none ht hd),
          fun u key st ht hd => congrArg _ (State.launched_at ht hd)⟩
    · subst hi
      have hx : exec (.launch r true tiles) s = .next (s.launchEntry s.host.wqCur r true tiles) :=
        congrArg Host.Outcome.next (State.entry_taken _ hc hs)
      rw [hx, State.launchEntry_sett _ _ _ he hp]
      refine ⟨fun st hst h0 => ?_, fun u hu h0 h1 => ?_⟩
      · rw [if_pos (by rw [hst]; exact bne_iff_ne.mpr h0), hst]
        rfl
      · subst hu
        rw [h0, h1]
        exact ⟨fun ht => congrArg _ (State.launched_empty ht), fun ht hd => congrArg _ (State.launched_none ht hd)⟩
    · subst hi hds
      have hx : exec (.seq n a b c d e f) s = .next (s.seqEntry s.host.wqCur n [a, b, c, d, e, f]) :=
        congrArg Host.Outcome.next (State.entry_taken _ hc hs)
      rw [hx, State.seqEntry_of _ _ _ _ _ _ _ _ he hn]
      refine ⟨fun h0 => by rw [if_pos (bne_iff_ne.mpr h0)], fun h0 hv => ?_⟩
      rw [if_neg (by simpa using h0), hv]
      refine ⟨fun hok => by rw [hok], fun x buf hok => by rw [hok], fun hok => ?_⟩
      obtain ⟨b, o⟩ := ok
      rw [show b = true from hok]
    · subst hi
      have hx : exec (.copy src dst len bo) s = .next (s.copyEntry s.host.wqCur src dst len bo) :=
        congrArg Host.Outcome.next (State.entry_taken _ hc hs)
      rw [hx, State.copyEntry]
      refine ⟨fun h0 => by rw [if_pos (bne_iff_ne.mpr h0)], fun u v h0 hr hv => ?_⟩
      simp only [h0, bne_self_eq_false, Bool.false_eq_true, if_false, hr, hv]
    · subst hi hv
      have hx : exec (.waitbo bo ph) s = .next (s.waitboEntry s.host.wqCur bo ph) :=
        congrArg Host.Outcome.next (State.entry_taken _ hc hs)
      rw [hx, State.waitboEntry, State.wqObject_of _ hh hk hf hpin]
      refine ⟨fun hb hn => ?_, fun hb hn x hx => ?_, fun hb hph => ?_, fun hb hph => ?_⟩
      · rw [if_pos hb]
        simp only [hn, if_true]
        rw [← hn]
        rfl
      · subst hx
        rw [if_pos hb]
        simp only [hn, Bool.false_eq_true, if_false]
        rfl
      · rw [if_neg (ne_true_of_eq_false hb), if_pos (beq_iff_eq.mpr ((beq_eq_decide ..).trans hph))]
        rfl
      · rw [if_neg (ne_true_of_eq_false hb), if_neg (fun h => hph ((beq_eq_decide ..).symm.trans (beq_iff_eq.mp h)))]
    · subst hi hv hkid hw
      have hx : exec (.signal bo n vec msix) s = .next (s.signalEntry s.host.wqCur bo n vec msix) :=
        congrArg Host.Outcome.next (State.entry_taken _ hc hs)
      rw [hx, State.signalEntry, State.wqObject_of _ hh hk hf hpin]
      refine ⟨fun h => ?_, fun hm hb => ?_⟩
      · have hno : (msix && !(u.reach [lineOf key]).boBad key) = false := by
          rcases h with h | h <;> simp [h]
        simp only [hno, Bool.false_eq_true, if_false]
      · simp only [hm, hb, Bool.not_false, Bool.and_self, if_true]
    · subst hi
      have hx : exec (.coll p arg bo rank nrank) s = .next (s.collEntry s.host.wqCur p arg bo rank nrank) :=
        congrArg Host.Outcome.next (State.entry_taken _ hc hs)
      rw [hx, State.collEntry, hr]
      refine ⟨fun h => ?_, fun h1 h2 h3 h4 => ?_⟩
      · have hno : (refOff p % 64 != 0 || !(d.layer == 0 && d.view == 0)) = true := by
          rcases h with h | h | h <;> simp [h]
        simp only [hd, hno, if_true]
        rfl
      · simp [hd, h1, h2, h3, h4]
    · subst hj
      exact congrArg Host.Outcome.next (State.entry_other _ hc hij)
  · have hx : exec (.wqWaitEnd q) s = .next (s.wqResume q) := rfl
    have hst : ((s.wq q).st != wqWaiting) = false := by rw [hs]; rfl
    rw [hx, State.wqResume, hst, hc]
    exact ⟨fun r b t hi => hi ▸ rfl, fun n a b c d e f hi => hi ▸ rfl, fun src dst len bo hi => hi ▸ rfl, fun bo ph hi => hi ▸ rfl,
      fun bo n vec msix hi => hi ▸ rfl, fun p arg bo rank nrank hi => hi ▸ rfl⟩
  · change Host.Outcome.next (s.wqResume q) = _
    rw [State.wqResume, bne_iff_ne.mpr (show (s.wq q).st ≠ wqWaiting from hs)]
    rfl

end Sys2Proof.Machine
end

section
/-! SUPPORT. What events and the part's own writes leave (10 R177, 18 R315), and the sequencers' reads. -/

namespace Sys2Proof.Machine

/-- A field that wakes, the part's writes and the event ring leave stays as events are posted. -/
theorem State.post_keeps {α : Type} (f : State → α) (hi : ∀ (s : State) n g, f (s.modInfo n g) = f s)
    (hp : ∀ (s : State) a bs, f (s.partPut a bs) = f s) (he : ∀ (s : State) q, f { s with evq := q } = f s) (s : State) (i : EvInfo) :
    f (s.post i) = f s := by
  rw [State.post]
  split
  · refine (he (State.partWords _ _ _) _).trans ?_
    exact (State.wakeSpan_keeps f hi hp ..).trans (hp ..)
  · split
    · exact he ..
    · exact he ..

theorem State.modInfo_seqs (s : State) (n : Nat) (g : TaskInfo → TaskInfo) : (s.modInfo n g).sched.seqs = s.sched.seqs := by
  unfold State.modInfo
  split <;> rfl

/-- Events leave the sequencers. -/
theorem State.post_seqs (s : State) (i : EvInfo) : (s.post i).sched.seqs = s.sched.seqs :=
  State.post_keeps (fun s => s.sched.seqs) State.modInfo_seqs (fun _ _ _ => rfl) (fun _ _ => rfl) s i

@[simp] theorem State.seq_setSeq (s : State) (n : Nat) (x : Seq) : (s.setSeq n x).seq n = x := by
  rw [State.seq, State.setSeq, Store.get_put, if_pos rfl]

theorem State.seqEvent_seq (s : State) (no kind k : Nat) (x : Seq) (n : Nat) : (s.seqEvent no kind k x).seq n = s.seq n := by
  rw [State.seqEvent, State.seq, State.seq, State.post_seqs]

theorem State.seqDone_st (s : State) (no : Nat) (x : Seq) : ((s.seqDone no x).seq no).st = 6 := by
  rw [State.seqDone, State.seqEvent_seq, State.seq_setSeq]
  rfl

theorem State.seqThen_ok {α : Type} {no : Nat} {x : Seq} {r : State × SeqRead α} {u : State} {a : α} (k : State → α → State)
    (h : r = (u, .ok a)) : State.seqThen no x r k = k u a := by
  rw [h]
  rfl

/-- A sequencer that loads its next row. -/
theorem State.seqStart_load {s : State} {n : Nat} (he : s.evq.enabled = true) (hw : s.hasWaiter (.seq n) = false) (hst : (s.seq n).st = 1)
    (ha : (s.seq n).abort = false) :
    s.seqStart n =
      if (s.seq n).k0 > (s.seq n).n then s.setSeq n ((s.seq n).fail 2 0 0)
      else if (s.seq n).step ≥ (s.seq n).n then s.seqDone n (s.seq n)
      else State.seqThen n (s.seq n) (s.seqWords (s.seq n) ((s.seq n).word 0) (128 * (s.seq n).step) 8 16)
        (fun u row => u.loadRow n (s.seq n) row) := by
  have harm : (1 == sqArm) = false := rfl
  have hload : (1 != sqLoad) = false := rfl
  simp only [State.seqStart, he, hw, hst, ha, harm, hload, Bool.not_true, Bool.or_self, Bool.false_eq_true, if_false]

/-- A row that pauses nothing, its end object found: the object is armed, then the graph (R191). -/
theorem State.loadRow_arm {s v : State} {n key kid : Nat} {x : Seq} {row : List Nat} (h0 : row.getD 0 0 < 4) (h1 : row.getD 1 0 = 0)
    (hp : (row.getD 0 0).testBit 1 = false ∨ x.next ≠ 0) (hv : s.seqEbo x (.atomic false) = (v, .ok key))
    (hkid : kid = ((x.who v).kid).getD 0) :
    s.loadRow n x row =
      ((v.boOp kid key { kind := 6, ctx := x.ctx } (refBuf x.ebo) (refOff x.ebo) (fun b => b.arm x.ebytes)).setSeq n { x with
        q := (BitVec.ofNat 64 x.step :: BitVec.ofNat 64 x.n :: (row.drop 2).map (BitVec.ofNat 64)) ++ [BitVec.ofNat 64 (row.getD 0 0)]
        next := 2, st := 2, phase := decide ((v.boAt kid key).phase = 1), noted := v.boBad key }).armGraph n x.glen := by
  have hgood : (decide (row.getD 0 0 ≥ 4) || row.getD 1 0 != 0) = false := by
    rw [h1, decide_eq_false (by omega)]
    rfl
  have hpause : ((row.getD 0 0).testBit 1 && x.next == 0) = false := by
    rcases hp with h | h
    · rw [h, Bool.false_and]
    · rw [beq_false_of_ne h, Bool.and_false]
  have hph : ((v.boAt kid key).phase == 1) = decide ((v.boAt kid key).phase = 1) := beq_eq_decide ..
  subst hkid
  simp only [State.loadRow, hgood, hpause, Bool.false_eq_true, if_false, State.seqThen_ok _ hv, hph]
  rfl

/-- What the flip of an end object that is readable brings (R191). -/
theorem State.seqFlip_of {s u : State} {n key : Nat} {x : Seq} (hu : s.seqEbo x .read = (u, .ok key)) (hb : u.boBad key = false) :
    s.seqFlip n x = if ((u.boAt (((x.who u).kid).getD 0) key).phase == 1) == x.phase then u
      else if x.step + 1 ≥ x.n then u.seqDone n { x with step := x.step + 1 }
      else u.setSeq n { x with step := x.step + 1, st := sqLoad, next := 0 } := by
  simp only [State.seqFlip, State.seqThen_ok _ hu, hb, Bool.false_eq_true, if_false]

end Sys2Proof.Machine
end

section
/-! SUPPORT. A task that is killed, and a page that is served, on its core (18 R313). -/

namespace Sys2Proof.Machine

/-- The first entry of a core that a test picks, where what replaces the core's entry passes the test as it did. -/
theorem head_filter_put {α : Type} (P : Nat × α → Bool) {c : Nat} {k k' : α} {xs : Store α} (hf : xs.find? c = some k)
    (hk : P (c, k) = true → P (c, k') = true) (h : (xs.filter P).head?.map (fun x => x.1) = some c) :
    ((xs.put c k').filter P).head?.map (fun x => x.1) = some c := by
  induction xs with
  | nil => cases h
  | cons y xs ih =>
    obtain ⟨j, b⟩ := y
    rw [Store.find?] at hf
    rw [Store.put]
    by_cases hjc : c < j
    · rw [if_pos hjc, List.filter_cons]
      split
      · rfl
      · exact h
    · rw [if_neg hjc]
      by_cases hj : c = j
      · subst hj
        rw [if_pos rfl, Option.some.injEq] at hf
        subst hf
        rw [if_pos rfl]
        rw [List.filter_cons] at h ⊢
        cases hb : P (c, b) with
        | true => rw [hk hb]; rfl
        | false =>
          rw [hb, if_neg Bool.false_ne_true] at h
          split
          · rfl
          · exact h
      · rw [if_neg (Ne.symm hj)] at hf
        rw [if_neg hj]
        rw [List.filter_cons] at h ⊢
        cases hb : P (j, b) with
        | true =>
          rw [hb, if_pos rfl] at h
          exact absurd (Option.some.inj h).symm hj
        | false =>
          rw [hb, if_neg Bool.false_ne_true] at h
          rw [if_neg Bool.false_ne_true]
          exact ih hf h

/-- A change of a core's task that leaves its slot leaves the core that runs the slot. -/
theorem State.coreOf_modTask {s : State} {slot c : Nat} {t : RunTask} {f : RunTask → RunTask} (h : s.coreOf slot = some c)
    (ht : (s.core c).task = some t) (hf : (f t).slot = t.slot) : (s.modTask c f).coreOf slot = some c := by
  have hfind : s.cores.find? c = some (s.core c) := by
    rw [State.core] at ht ⊢
    rw [Store.get] at ht ⊢
    cases hx : Store.find? s.cores c with
    | none => rw [hx] at ht; cases ht
    | some k => rfl
  refine head_filter_put (α := Core) (fun x => (x.2.task.map RunTask.slot) == some slot) hfind (fun hp => ?_) h
  change ((((s.core c).task.map f).map RunTask.slot) == some slot) = true
  rw [ht] at hp ⊢
  change (some (f t).slot == some slot) = true
  rw [hf]
  exact hp

theorem State.post_cores (s : State) (i : EvInfo) : (s.post i).cores = s.cores :=
  State.post_keeps State.cores (fun _ _ _ => State.modInfo_cores ..) (fun _ _ _ => rfl) (fun _ _ => rfl) s i

theorem State.freeSlot_cores (s : State) (slot : Nat) : (s.freeSlot slot).cores = s.cores := by
  rw [State.freeSlot]
  cases (s.info slot).bind TaskInfo.bind with
  | none => exact (State.partWords_cores ..).trans (State.partWords_cores ..)
  | some b => exact (State.partWords_cores ..).trans (State.partWords_cores ..)

/-- The end of a task that is on no core leaves the cores. -/
theorem State.killAway_cores (s : State) (slot : Nat) : (s.killAway slot).cores = s.cores := by
  rw [State.killAway]
  split
  · rfl
  · split
    · refine (State.freeSlot_cores ..).trans ?_
      split
      · exact (State.partWords_cores ..).trans (State.post_cores ..)
      · exact State.post_cores ..
    · exact State.modInfo_cores ..

/-- What page service clears in an engine. -/
def Engine.paged (g : Engine) : Engine := { g.unblock with page := false }

theorem State.restall_cores (s : State) (n : Nat) : (s.restall n).cores = s.cores := by
  rw [State.restall, State.modGang]
  split <;> rfl

/-- An engine that waited for page service goes on with its group (18 R313). -/
theorem State.resumeOn_cores {s : State} {c : Nat} {e : Eng} (t : RunTask) (hp : (s.eng c e).page = true) :
    (s.resumeOn c e t).cores = (s.modEng c e Engine.paged).cores := by
  have hm : ((if e == .M then s.servePages c else s).modEng c e Engine.paged).cores = (s.modEng c e Engine.paged).cores := by
    split <;> rfl
  have hleft : ∀ (u : State) (b : Bool), (if b then u else u.modInfo t.slot (fun x => { x with fault := none })).cores = u.cores :=
    fun u b => by
      cases b
      · exact State.modInfo_cores ..
      · rfl
  rw [State.resumeOn, hp, if_neg (by decide)]
  cases t.gang with
  | none => exact (hleft _ _).trans hm
  | some g => exact (State.restall_cores ..).trans ((hleft _ _).trans hm)

theorem State.eng_of_cores {s t : State} (h : t.cores = s.cores) (c : Nat) (e : Eng) : t.eng c e = s.eng c e := by
  rw [State.eng, State.eng, State.core, State.core, h]

/-- The engines of a core that wait for page service no more. -/
def State.unpaged (s : State) (c : Nat) : State := allEngs.foldl (fun s e => s.modEng c e (fun g => { g with page := false })) s

theorem State.unpaged_eng (s : State) (c : Nat) (g : Eng) : ((s.unpaged c).eng c g).page = false := by
  cases g <;> simp [State.unpaged, allEngs]

theorem State.unpaged_task (s : State) (c : Nat) : ((s.unpaged c).core c).task = (s.core c).task := by
  simp [State.unpaged, allEngs, State.modEng, State.setEng, Core.setEng]

end Sys2Proof.Machine
end

section
/-! Settled: the step sequencers, FRPLY and the registers of the event ring (O54). -/

namespace Sys2Proof.Machine

/-- Commands of a slot none of which waits for service stay. -/
theorem State.wakeCmds_none {s : State} {slot : Nat}
    (h : s.coll.cmds.filter (fun y => y.2.slot == slot && y.2.st == csFaulted) = []) : s.wakeCmds slot = s := by
  rw [State.wakeCmds, h]
  rfl

theorem State.faultOut_of {s : State} {slot f : Nat} {x : TaskInfo} (hx : s.info slot = some x) (hd : x.dying = false)
    (hh : s.heldEvent slot = false) (hf : x.fault = some f) : s.faultOut slot = true := by
  rw [State.faultOut, hx, hh]
  simp [hd, hf]

/-- With no event that waits and no task whose kill does, nothing goes out. -/
theorem State.drainAll_quiet {s : State} (hw : s.evq.waiting = []) (hd : ∀ x ∈ s.sched.tasks, x.2.dying = false) : s.drainAll = s := by
  rw [State.drainAll, hw]
  refine foldl_eq_self fun x hx => ?_
  rw [hd x hx]
  rfl

theorem exec_seqStepStart {s : State} {n : Nat} (hn : n < 16) (hp : s.partHeld = false) :
    exec (.seqStepStart n) s = .next (s.seqStart n) := by
  change execSeqStepStart n s = _
  rw [execSeqStepStart, if_pos hn, hp]
  rfl

/-- The end of a step in RUN with no population left to drain. -/
theorem exec_seqStepEnd {s : State} {n : Nat} (hn : n < 16) (hp : s.partHeld = false) (hw : s.hasWaiter (.seq n) = false)
    (hpop : (s.seq n).pop = 0) (hst : (s.seq n).st = 3) (ha : (s.seq n).abort = false) :
    exec (.seqStepEnd n) s = .next (s.seqFlip n (s.seq n)) := by
  have hrun : (3 != sqRun) = false := rfl
  change execSeqStepEnd n s = _
  rw [execSeqStepEnd, if_pos hn, hp]
  simp only [State.seqEnd, hw, hpop, hst, ha, hrun, bne_self_eq_false, Bool.or_self, Bool.false_and, Bool.false_eq_true, if_false]

/-- Settles O54. -/
theorem sequencerService : Obligations.SequencerService := by
  unfold Obligations.SequencerService
  refine ⟨fun s n x hn hx => ⟨fun hp he hw hst ha => ⟨fun hk => ?_, fun hk hs => ?_, fun hk hs u row hu => ⟨fun hr => ?_, fun h0 h1 h2 h3 h4 => ?_,
      fun h0 h1 h2 v key kid hv hkid w hwv => ?_⟩⟩,
      fun hp hw hpop hst ha u key ph hu hb hph => ⟨fun h => ?_, fun h hl => ?_, fun h hl => ?_⟩, fun h => ?_, fun h hb => ?_, fun h1 h2 => ?_,
      fun h hpop => ?_, fun h => ?_⟩,
    fun s e slot x hx hd hh hc => ⟨fun f hco hf hr => ?_, fun c t f hco ht hdel hf hpg => ?_, fun f u v hco hf hr hu hv => ?_,
      fun c t f hco ht hf => ?_⟩, fun s v h hw hd => ⟨?_, ?_⟩⟩
  · subst hx
    rw [exec_seqStepStart hn hp, State.seqStart_load he hw hst ha, if_pos hk]
  · subst hx
    refine ⟨_, by rw [exec_seqStepStart hn hp, State.seqStart_load he hw hst ha, if_neg (by omega), if_pos hs], State.seqDone_st ..⟩
  · subst hx
    have hbad : (decide (row.getD 0 0 ≥ 4) || row.getD 1 0 != 0) = true := by
      rcases hr with h | h
      · rw [decide_eq_true h, Bool.true_or]
      · rw [bne_iff_ne.mpr h, Bool.or_true]
    rw [exec_seqStepStart hn hp, State.seqStart_load he hw hst ha, if_neg (by omega), if_neg (by omega), State.seqThen_ok _ hu]
    simp only [State.loadRow, hbad, if_true]
  · subst hx
    have hgood : (decide (row.getD 0 0 ≥ 4) || row.getD 1 0 != 0) = false := by
      rw [h1, decide_eq_false (by omega)]
      rfl
    refine ⟨(u.setSeq n { (s.seq n) with st := sqPaused }).seqEvent n 12 (s.seq n).step (s.seq n), ?_, ?_⟩
    · rw [exec_seqStepStart hn hp, State.seqStart_load he hw hst ha, if_neg (by omega), if_neg (by omega), State.seqThen_ok _ hu]
      simp only [State.loadRow, hgood, h2, h3, h4, Bool.false_eq_true, if_false, beq_self_eq_true, Bool.and_self, if_true]
    · rw [State.seqEvent_seq, State.seq_setSeq]
      rfl
  · subst hx hwv
    rw [exec_seqStepStart hn hp, State.seqStart_load he hw hst ha, if_neg (by omega), if_neg (by omega), State.seqThen_ok _ hu,
      State.loadRow_arm h0 h1 h2 hv hkid]
  · subst hx
    rw [exec_seqStepEnd hn hp hw hpop hst ha, State.seqFlip_of hu hb, beq_eq_decide ((u.boAt _ key).phase), ← hph, h, beq_self_eq_true]
    rfl
  · subst hx
    rw [exec_seqStepEnd hn hp hw hpop hst ha, State.seqFlip_of hu hb, beq_eq_decide ((u.boAt _ key).phase), ← hph, beq_false_of_ne h,
      if_neg Bool.false_ne_true, if_neg (by omega)]
    rfl
  · subst hx
    refine ⟨_, by rw [exec_seqStepEnd hn hp hw hpop hst ha, State.seqFlip_of hu hb, beq_eq_decide ((u.boAt _ key).phase), ← hph,
      beq_false_of_ne h, if_neg Bool.false_ne_true, if_pos (by omega)], State.seqDone_st ..⟩
  · subst hx
    change execSqctlResume n s = _
    rw [execSqctlResume, if_pos hn, State.seqResume, h]
    rfl
  · subst hx
    change execSqctlResume n s = _
    rw [execSqctlResume, if_pos hn, State.seqResume, h, bne_iff_ne.mpr hb]
    rfl
  · subst hx
    have hheld : ((s.seq n).st == sqHeld && s.cryo.band != 4) = false := by
      rcases h2 with h2 | h2
      · rw [beq_false_of_ne (show (s.seq n).st ≠ sqHeld from h2), Bool.false_and]
      · rw [h2]
        exact Bool.and_false _
    change execSqctlResume n s = _
    rw [execSqctlResume, if_pos hn, State.seqResume, beq_false_of_ne (show (s.seq n).st ≠ sqPaused from h1), hheld]
    rfl
  · subst hx
    change execSqctlAbort n s = _
    rw [execSqctlAbort, if_pos hn, State.seqAbort, hpop]
    rcases h with h | h | h <;> rw [h] <;> rfl
  · subst hx
    have hno : ((s.seq n).pop == 0 && ((s.seq n).st == sqLoad || (s.seq n).st == sqPaused || (s.seq n).st == sqHeld)) = false := by
      rcases h with ⟨h1, h4, h5⟩ | h
      · rw [beq_false_of_ne (show (s.seq n).st ≠ sqLoad from h1), beq_false_of_ne (show (s.seq n).st ≠ sqPaused from h4),
          beq_false_of_ne (show (s.seq n).st ≠ sqHeld from h5)]
        exact Bool.and_false _
      · rw [beq_false_of_ne h, Bool.false_and]
    change execSqctlAbort n s = _
    rw [execSqctlAbort, if_pos hn, State.seqAbort, hno]
    rfl
  · have hr' : (s.recState slot == tFaulted) = true := by rw [hr]; rfl
    change Host.Outcome.next (s.frplyResume e slot) = _
    rw [State.frplyResume, State.faultOut_of hx hd hh hf]
    simp only [Bool.not_true, Bool.false_eq_true, if_false, State.wakeCmds_none hc, hco, hx, hf, hr', if_true]
  · have hres : s.frplyResume e slot = s.resumeOn c e t := by
      rw [State.frplyResume, State.faultOut_of hx hd hh hf]
      simp only [Bool.not_true, Bool.false_eq_true, if_false, State.wakeCmds_none hc, hco, hx, ht, hdel, List.isEmpty_nil, if_true]
    have heng : (s.resumeOn c e t).eng c e = (s.eng c e).paged := by
      rw [State.eng_of_cores (State.resumeOn_cores t hpg), State.eng_modEng, if_pos ⟨rfl, rfl⟩]
    refine ⟨_, congrArg Host.Outcome.next hres, ?_, ?_, ?_, ?_⟩ <;> rw [heng] <;> rfl
  · subst hu hv
    have hk : s.kill slot = s.killAway slot := by rw [State.kill, hco]
    have hco' : (s.killAway slot).coreOf slot = none := by
      rw [State.coreOf, State.killAway_cores]
      exact hco
    change Host.Outcome.next (s.frplyKill slot) = _
    rw [State.frplyKill, State.faultOut_of hx hd hh hf]
    simp only [Bool.not_true, Bool.false_eq_true, if_false, hk, hco']
    simp only [State.killAway, hx, hr, hh, Bool.not_false, Bool.and_self, if_true]
  · have hk : s.kill slot = s.modTask c (fun t => { t with killing := true }) := by rw [State.kill, hco]
    have hco' : (s.kill slot).coreOf slot = some c := by
      rw [hk]
      exact State.coreOf_modTask hco ht rfl
    have hcore : ∀ u : State, u.cores = ((s.kill slot).unpaged c).cores →
        (u.core c).task = some { t with killing := true } ∧ ∀ g, (u.eng c g).page = false := fun u hu => by
      refine ⟨?_, fun g => ?_⟩
      · rw [State.core, hu]
        change (((s.kill slot).unpaged c).core c).task = _
        rw [State.unpaged_task, hk]
        simp [State.modTask, ht]
      · rw [State.eng_of_cores hu, State.unpaged_eng]
    have he : s.frplyKill slot = match (((s.kill slot).unpaged c).core c).task.bind RunTask.gang with
        | some g => ((s.kill slot).unpaged c).restall g
        | none => (s.kill slot).unpaged c := by
      rw [State.frplyKill, State.faultOut_of hx hd hh hf]
      simp only [Bool.not_true, Bool.false_eq_true, if_false, hco']
      rfl
    refine ⟨_, congrArg Host.Outcome.next he, hcore _ ?_⟩
    split
    · exact State.restall_cores ..
    · rfl
  · exact congrArg Host.Outcome.next (State.drainAll_quiet (s := { s with evq := { s.evq with
      base := v.extractLsb' 12 44, log2n := v.extractLsb' 0 5 } }) hw hd)
  · exact congrArg Host.Outcome.next (State.drainAll_quiet (s := { s with evq := { s.evq with head := h } }) hw hd)

end Sys2Proof.Machine
end

section
/-! Settled: the mechanisms of the memory levels (11 R219 to R223, 20 R336). -/

namespace Sys2Proof.Machine

/-- A field written: the word below it, its value, and the word above it. -/
theorem setBits_toNat {lo n : Nat} (w : Word) (v : Nat) (hn : lo + n ≤ 64) :
    (setBits w lo n v).toNat = w.toNat % 2 ^ lo + v % 2 ^ n * 2 ^ lo + w.toNat / 2 ^ (lo + n) * 2 ^ (lo + n) := by
  have hv : v % 2 ^ n < 2 ^ n := Nat.mod_lt _ (Nat.two_pow_pos n)
  have hlo : w.toNat % 2 ^ lo < 2 ^ lo := Nat.mod_lt _ (Nat.two_pow_pos lo)
  have hw : w.toNat = w.toNat % 2 ^ lo + bitsOf w lo n * 2 ^ lo + w.toNat / 2 ^ (lo + n) * 2 ^ (lo + n) := by
    have h1 := Nat.mod_add_div w.toNat (2 ^ lo)
    have h2 := Nat.mod_add_div (w.toNat / 2 ^ lo) (2 ^ n)
    rw [Nat.div_div_eq_div_mul, ← Nat.pow_add] at h2
    calc w.toNat = w.toNat % 2 ^ lo + 2 ^ lo * (w.toNat / 2 ^ lo % 2 ^ n + 2 ^ n * (w.toNat / 2 ^ (lo + n))) := by
          rw [h2, h1]
      _ = _ := by simp only [bitsOf]; ring
  have hlow : w.toNat % 2 ^ lo + v % 2 ^ n * 2 ^ lo < 2 ^ (lo + n) := by
    have : (v % 2 ^ n + 1) * 2 ^ lo ≤ 2 ^ n * 2 ^ lo := Nat.mul_le_mul_right _ hv
    rw [Nat.add_mul, Nat.one_mul] at this
    rw [Nat.pow_add, Nat.mul_comm (2 ^ lo)]
    omega
  have hhigh : w.toNat / 2 ^ (lo + n) < 2 ^ (64 - (lo + n)) := by
    rw [Nat.div_lt_iff_lt_mul (Nat.two_pow_pos _), ← Nat.pow_add, Nat.sub_add_cancel hn]
    exact w.isLt
  have hlt : w.toNat % 2 ^ lo + v % 2 ^ n * 2 ^ lo + w.toNat / 2 ^ (lo + n) * 2 ^ (lo + n) < 2 ^ 64 := by
    have : (w.toNat / 2 ^ (lo + n) + 1) * 2 ^ (lo + n) ≤ 2 ^ (64 - (lo + n)) * 2 ^ (lo + n) := Nat.mul_le_mul_right _ hhigh
    rw [← Nat.pow_add, Nat.sub_add_cancel hn, Nat.add_mul, Nat.one_mul] at this
    omega
  rw [setBits, BitVec.toNat_ofNat, ← Nat.mod_eq_of_lt hlt]
  congr 1
  omega

/-- A bit above a field that is written stays. -/
theorem setBits_getLsbD_above {lo n k : Nat} (w : Word) (v : Nat) (hn : lo + n ≤ 64) (hk : lo + n ≤ k) :
    (setBits w lo n v).getLsbD k = w.getLsbD k := by
  have hlo : w.toNat % 2 ^ lo < 2 ^ lo := Nat.mod_lt _ (Nat.two_pow_pos lo)
  have hlow : w.toNat % 2 ^ lo + v % 2 ^ n * 2 ^ lo < 2 ^ (lo + n) := by
    have : (v % 2 ^ n + 1) * 2 ^ lo ≤ 2 ^ n * 2 ^ lo := Nat.mul_le_mul_right _ (Nat.mod_lt _ (Nat.two_pow_pos n))
    rw [Nat.add_mul, Nat.one_mul] at this
    rw [Nat.pow_add, Nat.mul_comm (2 ^ lo)]
    omega
  have hdiv : (setBits w lo n v).toNat / 2 ^ (lo + n) = w.toNat / 2 ^ (lo + n) := by
    rw [setBits_toNat w v hn, Nat.add_mul_div_right _ _ (Nat.two_pow_pos _), Nat.div_eq_of_lt hlow, Nat.zero_add]
  have hbit (x : Word) : x.getLsbD k = (x.toNat / 2 ^ (lo + n)).testBit (k - (lo + n)) := by
    rw [Nat.testBit_div_two_pow, Nat.sub_add_cancel hk, BitVec.testBit_toNat]
  rw [hbit, hbit, hdiv]

/-- A bit that is cleared. -/
theorem setBits_getLsbD_clear {k : Nat} (w : Word) (hk : k + 1 ≤ 64) : (setBits w k 1 0).getLsbD k = false := by
  have hlo : w.toNat % 2 ^ k < 2 ^ k := Nat.mod_lt _ (Nat.two_pow_pos k)
  have hdiv : (setBits w k 1 0).toNat / 2 ^ k = 2 * (w.toNat / 2 ^ (k + 1)) := by
    rw [setBits_toNat w 0 hk, Nat.zero_mod, Nat.zero_mul, Nat.add_zero,
      show w.toNat / 2 ^ (k + 1) * 2 ^ (k + 1) = 2 * (w.toNat / 2 ^ (k + 1)) * 2 ^ k by rw [Nat.pow_succ]; ring,
      Nat.add_mul_div_right _ _ (Nat.two_pow_pos _), Nat.div_eq_of_lt hlo, Nat.zero_add]
  have hbit : ((setBits w k 1 0).toNat / 2 ^ k).testBit 0 = (setBits w k 1 0).getLsbD k := by
    rw [Nat.testBit_div_two_pow, Nat.zero_add, BitVec.testBit_toNat]
  rw [hdiv] at hbit
  rw [← hbit]
  simp

-- what wakes and events leave

theorem State.foldl_wake_host (ls : List Nat) (s : State) : (ls.foldl (fun s l => s.wake l) s).host = s.host := by
  induction ls generalizing s with
  | nil => rfl
  | cons l ls ih => exact (ih _).trans (State.wake_host s l)

/-- What the storage holds beside the keys of its lines stays as lines come under a key. -/
theorem State.rekey_stor {α : Type} (f : Storage → α) (hk : ∀ (x : Storage) k, f { x with lineKey := k } = f x) (s : State) (kid l : Nat) :
    f (s.rekey kid l).stor = f s.stor := by
  rw [State.rekey]
  split
  · refine (hk _ _).trans ?_
    split
    · split <;> rfl
    · rfl
  · rfl

theorem State.partPut_stor {α : Type} (f : Storage → α) (hk : ∀ (x : Storage) k, f { x with lineKey := k } = f x)
    (ho : ∀ (x : Storage) a n, f (x.overwrite a n) = f x) (s : State) (a : Nat) (bs : List Byte) : f (s.partPut a bs).stor = f s.stor := by
  have keyed (ls : List Nat) (t : State) : f (ls.foldl (fun s l => s.rekey 0 l) t).stor = f t.stor := by
    induction ls generalizing t with
    | nil => rfl
    | cons l ls ih => exact (ih _).trans (State.rekey_stor f hk t 0 l)
  refine (ho _ _ _).trans ?_
  rw [State.partKey]
  split
  · rfl
  · exact keyed _ s

/-- What the storage holds beside the marks and the keys of its lines stays as events are posted. -/
theorem State.post_stor {α : Type} (f : Storage → α) (hk : ∀ (x : Storage) k, f { x with lineKey := k } = f x)
    (ho : ∀ (x : Storage) a n, f (x.overwrite a n) = f x) (s : State) (i : EvInfo) : f (s.post i).stor = f s.stor :=
  State.post_keeps (fun s => f s.stor) (fun s n g => by rw [State.modInfo]; split <;> rfl) (State.partPut_stor f hk ho) (fun _ _ => rfl) s i

theorem State.post_dramErr (s : State) (i : EvInfo) : (s.post i).stor.dramErr = s.stor.dramErr :=
  State.post_stor (fun x => x.dramErr) (fun _ _ => rfl) (fun _ _ _ => rfl) s i
theorem State.post_slNow (s : State) (i : EvInfo) : (s.post i).stor.slNow = s.stor.slNow :=
  State.post_stor (fun x => x.slNow) (fun _ _ => rfl) (fun _ _ _ => rfl) s i
theorem State.post_deadB (s : State) (i : EvInfo) : (s.post i).stor.deadB = s.stor.deadB :=
  State.post_stor (fun x => x.deadB) (fun _ _ => rfl) (fun _ _ _ => rfl) s i
theorem State.post_unserved (s : State) (i : EvInfo) : (s.post i).stor.unserved = s.stor.unserved :=
  State.post_stor (fun x => x.unserved) (fun _ _ => rfl) (fun _ _ _ => rfl) s i

-- migration (R219)

/-- The boundary goes past unit `u`; at the top the version changes. -/
def State.unitMoved (t : State) (u : Nat) : State :=
  if t.hbmSize / 65536 ≤ u + 1 then { t with host := { t.host with migbnd := u + 1, curv := t.host.newv, mapBusy := false, mapGo := false } }
  else { t with host := { t.host with migbnd := u + 1 } }

theorem State.remapUnit_eq {s : State} (hb : s.host.mapBusy = true) :
    s.remapUnit = (((frameLines s.host.migbnd).foldl (fun s l => s.wake l) s).unmoving s.host.migbnd).unitMoved s.host.migbnd := by
  unfold State.remapUnit
  rw [hb, if_neg (by decide)]
  dsimp only
  generalize frameLines s.host.migbnd = ls
  rfl

theorem State.remapUnit_host {s : State} (hb : s.host.mapBusy = true) : s.remapUnit.host.migbnd = s.host.migbnd + 1 ∧
    (s.host.migbnd + 1 < s.hbmSize / 65536 → s.remapUnit.host.mapBusy = true ∧ s.remapUnit.host.curv = s.host.curv) ∧
    (s.hbmSize / 65536 ≤ s.host.migbnd + 1 → s.remapUnit.host.mapBusy = false ∧ s.remapUnit.host.curv = s.host.newv) := by
  rw [State.remapUnit_eq hb]
  have hhost : (((frameLines s.host.migbnd).foldl (fun s l => s.wake l) s).unmoving s.host.migbnd).host = s.host := by
    generalize frameLines s.host.migbnd = ls
    exact State.foldl_wake_host ls s
  generalize ((frameLines s.host.migbnd).foldl (fun s l => s.wake l) s).unmoving s.host.migbnd = t at hhost ⊢
  have hsize : t.hbmSize = s.hbmSize := by rw [State.hbmSize, State.channels, State.cap, hhost]; rfl
  rw [State.unitMoved, hsize]
  generalize s.hbmSize / 65536 = z
  split
  · next h => exact ⟨rfl, fun h' => absurd h' (Nat.not_lt.mpr h), fun _ => ⟨rfl, congrArg (fun h : HostWin => h.newv) hhost⟩⟩
  · next h => exact ⟨rfl, fun _ => ⟨(congrArg (fun h : HostWin => h.mapBusy) hhost).trans hb,
      show t.host.curv = s.host.curv from congrArg _ hhost⟩, fun h' => absurd h' h⟩

-- rebuild and scrub (R221, R336)

theorem isHbm_of_lt {a : Nat} (h : a < 2 ^ 48) : isHbm a = true := by
  rw [isHbm, Nat.div_eq_of_lt h]
  rfl

theorem not_isHbm {a : Nat} (h : 2 ^ 48 ≤ a) : isHbm a = false := by
  rw [isHbm, beq_eq_false_iff_ne]
  exact (Nat.div_pos h (Nat.two_pow_pos _)).ne'

theorem isHbm_iff (a : Nat) : isHbm a = true ↔ a < 2 ^ 48 :=
  ⟨fun h => Nat.lt_of_not_le fun h' => absurd (not_isHbm h') (by rw [h]; decide), isHbm_of_lt⟩

/-- A second line of the stripe is lost. -/
theorem State.stripeLost_iff (s : State) (line : Nat) : s.stripeLost line = true ↔
    ∃ l ∈ s.stor.dramErr ++ s.stor.poison, l ≠ line ∧ 128 * l < 2 ^ 48 ∧ s.stripe l = s.stripe line := by
  simp only [State.stripeLost, List.any_eq_true, Bool.and_eq_true, bne_iff_ne, isHbm_iff, beq_iff_eq, and_assoc]

/-- The line is no longer one to be rebuilt. -/
def State.relieved (s : State) (line : Nat) : State :=
  { s with stor := { s.stor with dramErr := s.stor.dramErr.filter (fun l => l != line) } }

theorem State.rebuild_sound {s : State} {line : Nat} (h : s.stor.dramErr.contains line = false) : s.rebuild line = s := by
  rw [State.rebuild, h]; rfl

theorem State.rebuild_good {s : State} {line : Nat} (h : s.stor.dramErr.contains line = true) (hm : isHbm (128 * line) = true)
    (hg : s.stripeLost line = false ∨ s.copyGood line = true) :
    s.rebuild line = ((s.relieved line).post { kind := 7, detail := Config.openDetail 7 [line] }).countErr 0 := by
  have hgood : (isHbm (128 * line) && (!s.stripeLost line || s.copyGood line)) = true := by
    rw [hm]
    obtain h | h := hg <;> simp [h]
  rw [State.rebuild, if_pos h, hgood]
  rfl

theorem State.rebuild_poisoned {s : State} {line : Nat} (h : s.stor.dramErr.contains line = true)
    (hg : isHbm (128 * line) = false ∨ (s.stripeLost line = true ∧ s.copyGood line = false)) :
    s.rebuild line = { s.relieved line with stor := { (s.relieved line).stor with poison := line :: s.stor.poison } } := by
  have hgood : (isHbm (128 * line) && (!s.stripeLost line || s.copyGood line)) = false := by
    obtain h | ⟨h, h'⟩ := hg
    · simp [h]
    · simp [h, h']
  rw [State.rebuild, if_pos h, hgood]
  rfl

theorem State.relieved_dramErr (s : State) (line : Nat) : line ∉ (s.relieved line).stor.dramErr := by simp [State.relieved]

/-- A rebuild leaves nothing of the line to be rebuilt. -/
theorem State.rebuild_dramErr (s : State) (line : Nat) : line ∉ (s.rebuild line).stor.dramErr := by
  by_cases h : s.stor.dramErr.contains line = true
  · by_cases hg : isHbm (128 * line) = true ∧ (s.stripeLost line = false ∨ s.copyGood line = true)
    · rw [State.rebuild_good h hg.1 hg.2, State.countErr_stor, State.post_dramErr]
      exact s.relieved_dramErr line
    · rw [State.rebuild_poisoned h (by grind)]
      exact s.relieved_dramErr line
  · rw [State.rebuild_sound (Bool.eq_false_iff.mpr h)]
    simpa using h

theorem exec_patrolScrub {s : State} {line : Nat} (hb : s.cryo.band.toNat < 4) (h0 : s.cryo.st ≠ 0) (h7 : s.cryo.st ≠ 7)
    (hl : 128 * line < 2 ^ 49) :
    exec (.patrolScrub line) s = .next { s.rebuild line with cryo := { (s.rebuild line).cryo with patrol := line } } := by
  have hd : (isDram (128 * line) && s.scrubs) = true := by
    simp only [isDram, State.scrubs, hb, bne_iff_ne.mpr h0, bne_iff_ne.mpr h7, decide_true, Bool.and_true, decide_eq_true_eq]
    omega
  change execPatrolScrub line s = _
  rw [execPatrolScrub, if_pos hd]

-- retirement (R222, R223)

/-- Bundle `b` of a slice whose pages have moved is given up: the word that its register shows, and its pages of the bank. -/
def State.bundleGone (t : State) (c layer b : Nat) (w : Word) (bank : List Nat) : State :=
  { t with stor := { t.stor with
      slNow := t.stor.slNow.put (slcapOff c layer) w
      unserved := t.stor.unserved ++ bank
      deadB := (4 * c + 2 * layer + b) :: t.stor.deadB } }

theorem State.retireBundle_eq {s : State} {c layer b : Nat} (hp : s.present c = true) (hl : layer ≤ 1) (hb : b ≤ 1)
    (hbit : (s.slcap c layer).getLsbD (16 + b) = true)
    (hroom : ((s.latentBehind c layer b).drop (s.spareUnits c layer b).length ++ s.bankBehind c layer b).length ≤ s.stor.reserve.length)
    (hheld : ∀ u ∈ s.latentBehind c layer b ++ s.bankBehind c layer b, s.heldUnit (s.pageAt u) = false) :
    ∃ (t : State) (left lat : Nat) (i : EvInfo), s.retireBundle c layer b =
      (t.bundleGone c layer b (setBits (setBits (setBits (s.slcap c layer) (16 + b) 1 0) 8 8 left) 0 8 lat) (s.bankBehind c layer b)).post i := by
  have hbusy : (s.latentBehind c layer b ++ s.bankBehind c layer b).any (fun u => s.heldUnit (s.pageAt u)) = false := by
    rw [List.any_eq_false]
    intro u hu
    rw [hheld u hu]
    decide
  unfold State.retireBundle
  rw [if_neg]
  · exact ⟨_, _, _, _, rfl⟩
  · rw [hp, hbit, hbusy, decide_eq_false (Nat.not_lt.mpr hl), decide_eq_false (Nat.not_lt.mpr hb), decide_eq_false (Nat.not_lt.mpr hroom)]
    decide

/-- Of SLCAP the bit of a bundle that is given up reads 0. -/
theorem State.slcap_bundleGone (t : State) (c layer b left lat : Nat) (w : Word) (bank : List Nat) (i : EvInfo) (hb : b ≤ 1) :
    (((t.bundleGone c layer b (setBits (setBits (setBits w (16 + b) 1 0) 8 8 left) 0 8 lat) bank).post i).slcap c layer).getLsbD
      (16 + b) = false := by
  rw [State.slcap, State.post_slNow, State.bundleGone, Store.get_put, if_pos rfl, setBits_getLsbD_above _ _ (by omega) (by omega),
    setBits_getLsbD_above _ _ (by omega) (by omega), setBits_getLsbD_clear _ (by omega)]

/-- Settles O55, a mechanism at a time. -/
theorem memoryMechanisms : Obligations.MemoryMechanisms := by
  unfold Obligations.MemoryMechanisms
  intro s newv line c layer b
  refine ⟨fun hb => ?_, fun hb => ?_, fun hb => ⟨_, rfl, State.remapUnit_host hb⟩, fun he hl => ?_, fun he hl => ⟨fun u hg hu => ?_, fun hx hc => ?_⟩,
    fun hb h0 h7 hl => ⟨_, exec_patrolScrub hb h0 h7 hl, s.rebuild_dramErr line, rfl, fun hh he => ?_⟩, rfl,
    fun latent bank spares hlat hbank hspare hp hl hb hbit hroom hheld => ?_⟩
  · exact congrArg _ (if_pos hb)
  · exact congrArg _ (if_neg (by rw [hb]; decide))
  · exact (if_pos (isHbm_of_lt hl)).trans (congrArg _ (State.rebuild_sound he))
  · have hgood : s.stripeLost line = false ∨ s.copyGood line = true := by
      refine hg.imp_left fun h => Bool.eq_false_iff.mpr fun hlost => ?_
      obtain ⟨l, hm, hne, hlt, heq⟩ := (s.stripeLost_iff line).mp hlost
      exact h l hm hne hlt heq
    rw [hu]
    exact (if_pos (isHbm_of_lt hl)).trans (congrArg _ (State.rebuild_good he (isHbm_of_lt hl) hgood))
  · exact (if_pos (isHbm_of_lt hl)).trans (congrArg _ (State.rebuild_poisoned he (.inr ⟨(s.stripeLost_iff line).mpr hx, hc⟩)))
  · rw [State.rebuild_poisoned he (.inl (not_isHbm hh))]
    exact List.mem_cons_self
  · subst hlat hbank hspare
    obtain ⟨t, left, lat, i, ht⟩ := State.retireBundle_eq hp hl hb hbit hroom hheld
    refine ⟨_, congrArg (Host.Outcome.next : State → Host.Outcome State Fault Refusal) ht,
      State.slcap_bundleGone _ _ _ _ _ _ _ _ _ hb, ?_, fun u hu => ?_⟩
    · rw [State.post_deadB]; exact List.mem_cons_self
    · rw [State.post_unserved]; exact List.mem_append_right _ hu

end Sys2Proof.Machine
end

section
/-! SUPPORT. What the bookkeeping of the part leaves: a predicate on states that no write of memory and no other field than the
supervisor store, the controller, the wall clock and the engine in turn can break is kept by every operation below. The canonical form of memory is
one, and so is any fact about the controller and the wall clock. -/

namespace Sys2Proof.Machine

/-- A predicate that only the supervisor store, the controller, the wall clock, the engine in turn and the form of memory can break. -/
structure Inert (I : State → Prop) : Prop where
  same : ∀ {s t : State}, t.mem = s.mem → t.supStore = s.supStore → t.cryo = s.cryo → t.wall = s.wall → t.cur = s.cur → I s → I t
  mem : ∀ {s : State} {m : Memory}, (s.mem.wf = true → m.wf = true) → I s → I { s with mem := m }

theorem canon_inert : Inert State.canon where
  same hm hs _ _ _ h := ⟨hm ▸ h.1, hs ▸ h.2⟩
  mem hm h := ⟨hm h.1, h.2⟩

theorem cryo_inert (c : Cryo) (w : Nat) : Inert (fun s => s.cryo = c ∧ s.wall = w) where
  same _ _ hc hw _ h := ⟨hc.trans h.1, hw.trans h.2⟩
  mem _ h := h

theorem cur_inert (x : Nat × Eng) : Inert (fun s => s.cur = x) where
  same _ _ _ _ hr h := hr.trans h
  mem _ h := h

theorem stores_inert (x : Memory) (c : Cryo) (w : Nat) (r : Nat × Eng) :
    Inert (fun s => s.supStore = x ∧ s.cryo = c ∧ s.wall = w ∧ s.cur = r) where
  same _ hs hc hw hr h := ⟨hs.trans h.1, hc.trans h.2.1, hw.trans h.2.2.1, hr.trans h.2.2.2⟩
  mem _ h := h

namespace Inert

section
variable {I : State → Prop} (hI : Inert I) {s : State}
include hI

/-- A state that holds the same memory, stores and clocks. -/
theorem of_eq {t : State} (h : I s) (he : (t.mem, t.supStore, t.cryo, t.wall, t.cur) = (s.mem, s.supStore, s.cryo, s.wall, s.cur)) : I t := by
  simp only [Prod.mk.injEq] at he
  obtain ⟨hm, hs, hc, hw, hr⟩ := he
  exact hI.same hm hs hc hw hr h

/-- A state whose memory is of the canonical form where the other's is, and that else holds the same. -/
theorem of_mem {t : State} (h : I s) (hm : s.mem.wf = true → t.mem.wf = true)
    (he : (t.supStore, t.cryo, t.wall, t.cur) = (s.supStore, s.cryo, s.wall, s.cur)) : I t := by
  simp only [Prod.mk.injEq] at he
  obtain ⟨hs, hc, hw, hr⟩ := he
  exact hI.same (s := { s with mem := t.mem }) rfl hs hc hw hr (hI.mem hm h)

omit hI in
theorem ite {t u : State} {P : Prop} [Decidable P] (ht : I t) (hu : I u) : I (if P then t else u) := by
  split
  · exact ht
  · exact hu

omit hI in
theorem foldl {α : Type} {f : State → α → State} (l : List α) (hf : ∀ t a, I t → I (f t a)) (h : I s) : I (l.foldl f s) := by
  induction l generalizing s with
  | nil => exact h
  | cons a l ih => exact ih (hf s a h)

-- fields

theorem setCore {c : Nat} {k : Core} (h : I s) : I (s.setCore c k) := hI.of_eq h rfl
theorem modCore {c : Nat} {f : Core → Core} (h : I s) : I (s.modCore c f) := hI.of_eq h rfl
theorem modTask {c : Nat} {f : RunTask → RunTask} (h : I s) : I (s.modTask c f) := hI.of_eq h rfl
theorem setMem {m : Memory} (hm : s.mem.wf = true → m.wf = true) (h : I s) : I (s.setMem m) := hI.of_mem h hm rfl
theorem setInfo {n : Nat} {t : TaskInfo} (h : I s) : I (s.setInfo n t) := hI.of_eq h rfl
theorem setGang {n : Nat} {g : Gang} (h : I s) : I (s.setGang n g) := hI.of_eq h rfl
theorem countErr {n : Nat} (h : I s) : I (s.countErr n) := hI.of_eq h rfl
theorem cleanse {keys : List Nat} (h : I s) : I (s.cleanse keys) := hI.of_eq h rfl
theorem setSeq {n : Nat} {x : Seq} (h : I s) : I (s.setSeq n x) := hI.of_eq h rfl

theorem modInfo {n : Nat} {f : TaskInfo → TaskInfo} (h : I s) : I (s.modInfo n f) := by
  unfold State.modInfo
  split
  · exact hI.setInfo h
  · exact h

theorem modGang {n : Nat} {f : Gang → Gang} (h : I s) : I (s.modGang n f) := by
  unfold State.modGang
  split
  · exact hI.setGang h
  · exact h

-- the part's own writes and wakes

theorem rekey {kid line : Nat} (h : I s) : I (s.rekey kid line) := by
  unfold State.rekey
  refine Inert.ite (hI.of_eq (s := match s.stor.lineKey.find? line with
    | some g =>
      if g = kid then s
      else s.setMem (s.mem.writeN (128 * line) ((List.range 128).map (fun i => s.plain kid (128 * line + i))))
    | none => s) ?_ rfl) h
  split
  · exact Inert.ite h (hI.setMem (Memory.writeN_wf _ _) h)
  · exact h

theorem partKey {a n : Nat} (h : I s) : I (s.partKey a n) :=
  Inert.ite h (Inert.foldl _ (fun _ _ => hI.rekey) h)

theorem partPut {a : Nat} {bs : List Byte} (h : I s) : I (s.partPut a bs) :=
  have ⟨hs, hc, hw, hr⟩ := (stores_inert s.supStore s.cryo s.wall s.cur).partKey (s := s) (a := a) (n := bs.length) ⟨rfl, rfl, rfl, rfl⟩
  hI.of_mem (hI.partKey (a := a) (n := bs.length) h) (Memory.writeN_wf _ _) (by rw [hs, hc, hw, hr]; rfl)

theorem putState {n st r : Nat} (h : I s) : I (s.putState n st r) := hI.partPut h
theorem putReady {n : Nat} (h : I s) : I (s.putReady n) := hI.modInfo (hI.putState h)

theorem putLet {n : Nat} (h : I s) : I (s.putLet n) := by
  unfold State.putLet
  split
  · exact Inert.ite (hI.putState h) (hI.putReady h)
  · exact h

theorem wakeFrom {fuel line : Nat} (h : I s) : I (State.wakeFrom fuel s line) := by
  induction fuel generalizing s line with
  | zero => exact h
  | succ n ih =>
    refine Inert.foldl _ (fun t x ht => ?_) h
    have woken : I (match x.2.watch with
        | some w =>
          if w.line = line && !w.woke then
            let s := t.modInfo x.1 (fun t => { t with watch := some { w with woke := true } })
            if s.wakes x.1 w then State.wakeFrom n (s.putReady x.1) (lineOf (s.recAddr x.1 + 0x20)) else s
          else t
        | none => t) := by
      split
      · exact Inert.ite (Inert.ite (ih (hI.putReady (hI.modInfo ht))) (hI.modInfo ht)) ht
      · exact ht
    exact Inert.ite (ih (hI.putLet woken)) woken

theorem wake {line : Nat} (h : I s) : I (s.wake line) := hI.wakeFrom h
theorem wakes {ls : List Nat} (h : I s) : I (ls.foldl (fun s l => s.wake l) s) := Inert.foldl _ (fun _ _ => hI.wake) h
theorem wakeSpan {a n : Nat} (h : I s) : I (s.wakeSpan a n) := hI.wakes h
theorem partWrite {a : Nat} {bs : List Byte} (h : I s) : I (s.partWrite a bs) := hI.wakeSpan (hI.partPut h)
theorem partWords {a : Nat} {ws : List Word} (h : I s) : I (s.partWords a ws) := hI.partWrite h
theorem setRecWord {n off : Nat} {w : Word} (h : I s) : I (s.setRecWord n off w) := hI.partWords h
theorem setRecState {n st r : Nat} (h : I s) : I (s.setRecState n st r) := hI.setRecWord h
theorem writeEvent {ws : List Word} (h : I s) : I (s.writeEvent ws) := hI.of_eq (hI.partWords h) rfl

theorem post {i : EvInfo} (h : I s) : I (s.post i) :=
  Inert.ite (hI.writeEvent h) (Inert.ite (hI.of_eq h rfl) (hI.of_eq h rfl))

-- at home

theorem rebuild {line : Nat} (h : I s) : I (s.rebuild line) :=
  have hr : I { s with stor := { s.stor with dramErr := s.stor.dramErr.filter (fun l => l != line) } } := hI.of_eq h rfl
  Inert.ite (Inert.ite (hI.countErr (hI.post hr)) (hI.of_eq h rfl)) h

theorem putHome {kid : Nat} {cells : List (Nat × Byte)} (h : I s) : I (s.putHome kid cells) :=
  hI.wakes (hI.cleanse (hI.setMem (putCells_wf _) (Inert.foldl _ (fun _ _ => hI.rekey) h)))

theorem memErr {i : EvInfo} {b o : Nat} (h : I s) : I (s.memErr i b o) := hI.countErr (hI.post h)

theorem refuseOps {ops : List (Nat × Word × Option Giver)} {key : Nat} (h : I s) : I (s.refuseOps ops key) := by
  refine Inert.foldl _ (fun t o ht => ?_) h
  split
  · exact hI.memErr ht
  · exact ht

theorem closeBatch {line : Nat} (h : I s) : I (s.closeBatch line) := by
  unfold State.closeBatch
  split
  · exact h
  · exact Inert.foldl _ (fun t key ht => Inert.ite (hI.refuseOps ht) (hI.putHome ht)) (hI.of_eq h rfl)

theorem reach {ls : List Nat} (h : I s) : I (s.reach ls) :=
  Inert.foldl _ (fun _ _ ht => hI.rebuild (hI.closeBatch ht)) h

theorem homeMasked {kid : Nat} {cells : List Cell} (h : I s) : I (s.homeMasked kid cells) :=
  Inert.foldl _ (fun _ _ => hI.putHome) (Inert.ite (hI.reach h) (hI.putHome (hI.reach h)))

-- caches and write paths

theorem mapAhead {c : Nat} {f : Eng → Nat → Ahead → Option Ahead} (h : I s) : I (s.mapAhead c f) := Inert.ite h (hI.modCore h)
theorem mapAllAhead {f : Nat → Eng → Nat → Ahead → Option Ahead} (h : I s) : I (s.mapAllAhead f) :=
  Inert.ite h (Inert.foldl _ (fun _ _ => hI.mapAhead) h)

theorem lineBytes {line : Nat} {l : Line} {ns : Nibs} (h : I s) : I (s.lineBytes line l ns) := by
  unfold State.lineBytes
  exact Inert.ite (hI.of_eq (hI.homeMasked h) rfl) (hI.of_eq (hI.homeMasked h) rfl)

theorem writeLine {c line : Nat} (h : I s) : I (s.writeLine c line) := by
  unfold State.writeLine
  split
  · exact h
  · exact Inert.ite h (hI.modCore (hI.lineBytes h))

theorem performPend {rest : List PendW} {w : PendW} (h : I s) : I (s.performPend rest w) :=
  hI.of_eq (hI.homeMasked (kid := w.kid) (cells := w.cells) h) rfl

theorem drainFrom {c : Nat} {may : PendW → Bool} {kept ws : List PendW} (h : I s) : I (s.drainFrom c may kept ws) := by
  induction ws generalizing s kept with
  | nil => exact hI.modCore h
  | cons w ws ih => exact Inert.ite (ih h) (ih (hI.performPend h))

theorem performIn {c : Nat} {mask : BitVec 4} (h : I s) : I (s.performIn c mask) :=
  hI.drainFrom (Inert.ite (Inert.foldl _ (fun _ _ ht => Inert.ite ht (hI.writeLine ht)) h) h)

theorem perform {c : Nat} (h : I s) : I (s.perform c) := hI.performIn h
theorem drainIn {c : Nat} {mask : BitVec 4} (h : I s) : I (s.drainIn c mask) :=
  Inert.ite h (Inert.ite (hI.performIn h) (hI.drainFrom h))
theorem drain {c : Nat} (h : I s) : I (s.drain c) := hI.drainIn h

theorem dropLine {c line : Nat} (h : I s) : I (s.dropLine c line) := by
  unfold State.dropLine
  refine hI.modCore (hI.writeLine ?_)
  split
  · exact Inert.ite (hI.perform h) h
  · exact h

theorem passOn {c r : Nat} (h : I s) : I (s.passOn c r) := by
  refine Inert.foldl _ (fun t x ht => Inert.ite ht (Inert.ite ?_ (hI.modCore ht))) h
  have dropped := Inert.foldl (s := t) (x.2.l1.filter (fun y => y.2.dirty != 0 && y.2.via.contains c)) (f := fun s y =>
    if s.lineHeld x.1 y.1 || s.lineStuck x.1 y.1 then s else s.dropLine x.1 y.1) (fun _ _ hu => Inert.ite hu (hI.dropLine hu)) ht
  exact Inert.ite (hI.drain dropped) dropped

theorem releaseIn {c : Nat} {mask : BitVec 4} (h : I s) : I (s.releaseIn c mask) := by
  have hp := hI.passOn (c := c) (r := 3) (hI.performIn (c := c) (mask := mask) h)
  unfold State.releaseIn
  exact hI.mapAllAhead (Inert.ite (hI.modCore hp) hp)
theorem release {c : Nat} (h : I s) : I (s.release c) := hI.releaseIn h

theorem releaseAt {c : Nat} {e : Eng} {r : Nat} {mask : BitVec 4} (h : I s) : I (s.releaseAt c e r mask) := by
  have wide := hI.releaseIn (c := c) (mask := mask) h
  have near := hI.drainIn (c := c) (mask := mask &&& 0x6) h
  have lent := hI.passOn (c := c) (r := r) (hI.modCore (c := c) (f := fun k => k.lend r) near)
  unfold State.releaseAt
  exact hI.mapAllAhead (Inert.ite wide (Inert.ite near (Inert.ite (hI.modCore lent) lent)))

-- tasks and sequencers

theorem unstage {c : Nat} (h : I s) : I (s.unstage c) := by
  unfold State.unstage
  split
  · exact hI.setRecState (hI.modCore h)
  · exact h

theorem dropUnit {u : List Nat × List Nat} (h : I s) : I (s.dropUnit u) := by
  unfold State.dropUnit
  refine hI.of_eq (Inert.foldl u.1 (fun t c ht => ?_) h) rfl
  split
  · exact Inert.ite (hI.unstage ht) ht
  · exact ht

theorem giveBack {c : Nat} (h : I s) : I (s.giveBack c) := by
  unfold State.giveBack
  split
  · exact hI.unstage (hI.dropUnit h)
  · exact hI.unstage h

theorem request1 {c : Nat} (h : I s) : I (s.request1 c) := by
  unfold State.request1
  split
  · exact h
  · exact Inert.ite h (hI.modInfo (hI.modTask h))

theorem requestCore {c : Nat} (h : I s) : I (s.requestCore c) := by
  unfold State.requestCore
  split
  · exact h
  · split
    · exact hI.request1 h
    · exact Inert.foldl _ (fun _ _ => hI.request1) (hI.modGang h)

theorem requestAll (h : I s) : I s.requestAll := Inert.foldl _ (fun _ _ => hI.requestCore) h

theorem forget {c m n : Nat} (h : I s) : I (s.forget c m n) := hI.of_mem h (Memory.writeN_wf _ _) rfl
theorem restoreCore {c : Nat} (h : I s) : I (s.restoreCore c) := hI.forget h
theorem gateCore {c : Nat} (h : I s) : I (s.gateCore c) := hI.requestCore (hI.giveBack (hI.release h))

theorem holdSeqs (h : I s) : I s.holdSeqs := Inert.foldl _ (fun _ _ ht => Inert.ite (hI.setSeq ht) ht) h
theorem seqResume {n : Nat} (h : I s) : I (s.seqResume n) := Inert.ite (hI.setSeq h) (Inert.ite (hI.setSeq h) (hI.setSeq h))
theorem freeSeqs (h : I s) : I s.freeSeqs := Inert.foldl _ (fun _ _ ht => Inert.ite (hI.seqResume ht) ht) h
theorem bandEvent {a b c : Nat} (h : I s) : I (s.bandEvent a b c) := hI.post h

end

end Inert

end Sys2Proof.Machine
end

section
/-! Settled: bands, samples, the hold timer and the commands of the cryogenic controller (20 R335 to R346). -/

namespace Sys2Proof.Machine

-- the controller through a change of band

/-- BAND, SLIP and the refresh take the new band. -/
def Cryo.banded (c : Cryo) (new : Nat) : Cryo :=
  if c.band.toNat = new then c else { c with band := BitVec.ofNat 3 new, slip := decide (2 ≤ new), refresh := refreshOf new }

@[simp] theorem Cryo.banded_st (c : Cryo) (n : Nat) : (c.banded n).st = c.st := by unfold Cryo.banded; split <;> rfl
@[simp] theorem Cryo.banded_hold (c : Cryo) (n : Nat) : (c.banded n).hold = c.hold := by unfold Cryo.banded; split <;> rfl
@[simp] theorem Cryo.banded_asked (c : Cryo) (n : Nat) : (c.banded n).asked = c.asked := by unfold Cryo.banded; split <;> rfl
@[simp] theorem Cryo.banded_temps (c : Cryo) (n : Nat) : (c.banded n).temps = c.temps := by unfold Cryo.banded; split <;> rfl
@[simp] theorem Cryo.banded_sampled (c : Cryo) (n : Nat) : (c.banded n).sampled = c.sampled := by unfold Cryo.banded; split <;> rfl

theorem Cryo.banded_band {c : Cryo} {n : Nat} (hn : n ≤ 4) : (c.banded n).band.toNat = n := by
  unfold Cryo.banded
  split
  · assumption
  · exact (BitVec.toNat_ofNat n 3).trans (Nat.mod_eq_of_lt (by omega))

theorem State.setBand_cryo (s : State) (new : Nat) : (s.setBand new).cryo = s.cryo.banded new ∧ (s.setBand new).wall = s.wall := by
  unfold State.setBand Cryo.banded
  by_cases h : s.cryo.band.toNat = new
  · simp [h]
  · rw [if_neg (by simpa using h), if_neg h]
    have hI := cryo_inert { s.cryo with band := BitVec.ofNat 3 new, slip := decide (2 ≤ new), refresh := refreshOf new } s.wall
    have hback := Inert.foldl (s.lostCores new s.cryo.band.toNat) (fun t c => hI.restoreCore (s := t) (c := c))
      (Inert.foldl (s.lostCores s.cryo.band.toNat new) (fun t c => hI.gateCore (s := t) (c := c))
        (s := { s with cryo := { s.cryo with band := BitVec.ofNat 3 new, slip := decide (2 ≤ new), refresh := refreshOf new } }) ⟨rfl, rfl⟩)
    dsimp only
    split
    · exact hI.requestAll (hI.holdSeqs hback)
    · split
      · exact hI.freeSeqs hback
      · exact hback

theorem State.toSafe_cryo (s : State) : s.toSafe.cryo = { s.cryo.banded 4 with st := 7, hold := none, cmd := 0 } := by
  rw [← (s.setBand_cryo 4).1]
  rfl

theorem State.toSafe_spec (s : State) : s.toSafe.cryo.st = 7 ∧ s.toSafe.cryo.band.toNat = 4 := by
  rw [State.toSafe_cryo]
  exact ⟨rfl, Cryo.banded_band (le_refl 4)⟩

theorem State.toWarmup_cryo (s : State) :
    s.toWarmup.cryo = { s.cryo with st := 6, warmAt := s.wall, hold := none, cmd := 0 } ∧ s.toWarmup.wall = s.wall :=
  have hI := cryo_inert { s.cryo with st := 6, warmAt := s.wall, hold := none, cmd := 0 } s.wall
  hI.requestAll (hI.holdSeqs ⟨rfl, rfl⟩)

/-- The state of the part that a retreat to band `new` leads to, from COLD_RUN or WARM_RUN (R343). -/
def retreatSt (new : Nat) : Nat := if new = 4 then 6 else if 2 ≤ new then 5 else 4

theorem State.bandEvent_cryo (s : State) (a b c : Nat) : (s.bandEvent a b c).cryo = s.cryo ∧ (s.bandEvent a b c).wall = s.wall :=
  (cryo_inert s.cryo s.wall).bandEvent ⟨rfl, rfl⟩

/-- A retreat from COLD_RUN or WARM_RUN up to its event. -/
def State.retreating (s : State) (new : Nat) (w : Nat × Therm) : State :=
  ((State.setSt { s with cryo := { s.cryo with hold := none } } (retreatSt new)).setBand new).bandEvent s.cryo.value w.1 w.2.kelvin

theorem State.retreating_cryo (s : State) (new : Nat) (w : Nat × Therm) :
    (s.retreating new w).cryo = { s.cryo with hold := none, st := BitVec.ofNat 4 (retreatSt new) }.banded new ∧
      (s.retreating new w).wall = s.wall := by
  have he := State.bandEvent_cryo ((State.setSt { s with cryo := { s.cryo with hold := none } } (retreatSt new)).setBand new)
    s.cryo.value w.1 w.2.kelvin
  have hb := State.setBand_cryo (State.setSt { s with cryo := { s.cryo with hold := none } } (retreatSt new)) new
  exact ⟨he.1.trans hb.1, he.2.trans hb.2⟩

theorem State.retreat_cold {s : State} (h : s.cryo.st = 4 ∨ s.cryo.st = 5) (new : Nat) (w : Nat × Therm) :
    s.retreat new w = if new = 4 then (s.retreating new w).toWarmup else s.retreating new w := by
  have hst : (s.cryo.st == 4 || s.cryo.st == 5) = true := by rcases h with h | h <;> rw [h] <;> decide
  unfold State.retreat State.retreating retreatSt
  simp only [hst, Bool.true_and, if_true, beq_iff_eq]

theorem State.retreat_other {s : State} (h : ¬(s.cryo.st = 4 ∨ s.cryo.st = 5)) (new : Nat) (w : Nat × Therm) :
    (s.retreat new w).cryo = { s.cryo with hold := none }.banded new := by
  have hst : (s.cryo.st == 4 || s.cryo.st == 5) = false := by simpa using h
  unfold State.retreat
  simp only [hst, Bool.false_and, Bool.false_eq_true, if_false]
  exact (State.bandEvent_cryo ..).1.trans (State.setBand_cryo ..).1

-- samples

theorem bandOf_le (t : Therm) : bandOf t ≤ 4 := by unfold bandOf; grind

theorem bandOf_valid (k : Nat) : bandOf { valid := true, kelvin := k } =
    if k ≤ 1440 then 0 else if k ≤ 1760 then 1 else if k ≤ 2400 then 2 else if k ≤ 4000 then 3 else 4 := rfl

/-- The readings are taken. -/
def State.sensed (s : State) : State := { s with cryo := { s.cryo with temps := s.sensors, sampled := s.wall } }

/-- What the sample shows moves the part. -/
def State.moved (s : State) (band : Nat) (w : Nat × Therm) : State :=
  if band > s.cryo.band.toNat && s.cryo.mayRetreat then s.retreat band w
  else if s.cryo.mayCool then { s with cryo := s.cryo.timed band s.wall }
  else s

/-- Training ends in SAFE when the part gets too warm for it. -/
def State.trained (s : State) (band : Nat) : State := if s.cryo.st == 3 && 2 ≤ band then s.toSafe else s

theorem State.sample_eq {s : State} (h0 : s.cryo.st ≠ 0) (hdue : s.cryo.sampled + 1000 ≤ s.wall) :
    s.sample = ((s.sensed.moved (bandOf (warmestSensor s.sensors).2) (warmestSensor s.sensors)).trained
      (bandOf (warmestSensor s.sensors).2)).judgeAsked := by
  unfold State.sample
  rw [if_neg (by rw [beq_false_of_ne h0, decide_eq_false (Nat.not_lt.mpr hdue)]; decide)]
  rfl

/-- What a sample leaves of the controller: the commands asked, the readings, and when they were taken. -/
def Cryo.read (c : Cryo) : List Asked × Store Therm × Nat := (c.asked, c.temps, c.sampled)

theorem Cryo.read_banded (c : Cryo) (n : Nat) : (c.banded n).read = c.read := by simp [Cryo.read]

theorem State.retreat_read (s : State) (new : Nat) (w : Nat × Therm) : (s.retreat new w).cryo.read = s.cryo.read := by
  by_cases h : s.cryo.st = 4 ∨ s.cryo.st = 5
  · have hr : (s.retreating new w).cryo.read = s.cryo.read := by
      rw [(s.retreating_cryo new w).1]
      exact Cryo.read_banded { s.cryo with hold := none, st := BitVec.ofNat 4 (retreatSt new) } new
    rw [State.retreat_cold h]
    split
    · rw [(State.toWarmup_cryo _).1]
      exact hr
    · exact hr
  · rw [State.retreat_other h]
    exact Cryo.read_banded { s.cryo with hold := none } new

theorem Cryo.timed_read (c : Cryo) (b w : Nat) : (c.timed b w).read = c.read := by
  unfold Cryo.timed
  split
  · split <;> rfl
  · rfl

theorem State.moved_read (s : State) (b : Nat) (w : Nat × Therm) : (s.moved b w).cryo.read = s.cryo.read := by
  unfold State.moved
  split
  · exact s.retreat_read b w
  · split
    · exact s.cryo.timed_read b s.wall
    · rfl

theorem State.trained_read (s : State) (b : Nat) : (s.trained b).cryo.read = s.cryo.read := by
  unfold State.trained
  split
  · rw [State.toSafe_cryo]
    exact s.cryo.read_banded 4
  · rfl

theorem State.judgeAsked_none {s : State} (h : s.cryo.asked = []) : s.judgeAsked = s := by
  rw [State.judgeAsked, h]
  have : ({ s.cryo with asked := [] } : Cryo) = s.cryo := by rw [← h]
  rw [this]
  rfl

theorem State.sensed_asked {s : State} {b : Nat} {w : Nat × Therm} (ha : s.cryo.asked = []) :
    ((s.sensed.moved b w).trained b).cryo.asked = [] := by
  have hm := (s.sensed.moved b w).trained_read b
  rw [s.sensed.moved_read] at hm
  exact (congrArg Prod.fst hm).trans ha

/-- A sample that finds no command waiting. -/
theorem exec_tempSample {s : State} (h0 : s.cryo.st ≠ 0) (hdue : s.cryo.sampled + 1000 ≤ s.wall) (ha : s.cryo.asked = []) :
    exec .tempSample s = .next ((s.sensed.moved (bandOf (warmestSensor s.sensors).2) (warmestSensor s.sensors)).trained
      (bandOf (warmestSensor s.sensors).2)) := by
  change Host.Outcome.next s.sample = _
  rw [State.sample_eq h0 hdue, State.judgeAsked_none (State.sensed_asked ha)]

theorem State.moved_warmer {s : State} {b : Nat} (h : s.cryo.band.toNat < b) (hr : s.cryo.mayRetreat = true) (w : Nat × Therm) :
    s.moved b w = s.retreat b w := by
  rw [State.moved, if_pos (by rw [hr, decide_eq_true h]; rfl)]

theorem State.moved_colder {s : State} {b : Nat} (h : b ≤ s.cryo.band.toNat) (hc : s.cryo.mayCool = true) (w : Nat × Therm) :
    s.moved b w = { s with cryo := s.cryo.timed b s.wall } := by
  rw [State.moved, decide_eq_false (Nat.not_lt.mpr h), if_neg (by simp), if_pos hc]

theorem State.trained_other {s : State} (h : s.cryo.st ≠ 3) (b : Nat) : s.trained b = s := by
  rw [State.trained, beq_false_of_ne h]; rfl

theorem State.trained_warm {s : State} (h : s.cryo.st = 3) {b : Nat} (hb : 2 ≤ b) : s.trained b = s.toSafe := by
  rw [State.trained, h, decide_eq_true hb]; rfl

theorem Cryo.mayCool_of {c : Cryo} (h : c.st = 2 ∨ c.st = 3 ∨ c.st = 4 ∨ c.st = 5) : c.mayCool = true := by
  rw [Cryo.mayCool]
  rcases h with h | h | h | h <;> rw [h] <;> decide

theorem Cryo.mayRetreat_of {c : Cryo} (h : c.mayCool = true) : c.mayRetreat = true := by rw [Cryo.mayRetreat, h]; rfl

theorem Cryo.timed_st (c : Cryo) (b w : Nat) : (c.timed b w).st = c.st := by
  unfold Cryo.timed
  split
  · split <;> rfl
  · rfl

/-- A sample that is a retreat (R340, R343). -/
theorem State.warmer_sample {s : State} {b : Nat} (w : Nat × Therm) (h : s.cryo.band.toNat < b) (hb : b ≤ 4) :
    let t := (s.moved b w).trained b
    (s.cryo.st = 2 → t.cryo.band.toNat = b ∧ t.cryo.st = 2 ∧ t.cryo.hold = none) ∧
    (s.cryo.st = 3 → 2 ≤ b → t.cryo.band.toNat = 4 ∧ t.cryo.st = 7) ∧
    (s.cryo.st = 4 ∨ s.cryo.st = 5 → t.cryo.hold = none ∧ t.cryo.band.toNat = b ∧
      (b ≤ 1 → t.cryo.st = 4) ∧ (b = 2 ∨ b = 3 → t.cryo.st = 5) ∧ (b = 4 → t.cryo.st = 6 ∧ t.cryo.warmAt = s.wall)) := by
  have warm (hst : s.cryo.st = 2 ∨ s.cryo.st = 3 ∨ s.cryo.st = 4 ∨ s.cryo.st = 5) : s.moved b w = s.retreat b w :=
    State.moved_warmer h (Cryo.mayRetreat_of (Cryo.mayCool_of hst)) w
  refine ⟨fun hst => ?_, fun hst h2 => ?_, fun hst => ?_⟩
  · have hr := State.retreat_other (s := s) (by rw [hst]; decide) b w
    have hs : (s.retreat b w).cryo.st = 2 := by rw [hr, Cryo.banded_st]; exact hst
    rw [warm (.inl hst), State.trained_other (by rw [hs]; decide), hr]
    exact ⟨Cryo.banded_band hb, (Cryo.banded_st ..).trans hst, Cryo.banded_hold ..⟩
  · have hs : (s.retreat b w).cryo.st = 3 := by
      rw [State.retreat_other (s := s) (by rw [hst]; decide) b w, Cryo.banded_st]; exact hst
    rw [warm (.inr (.inl hst)), State.trained_warm hs h2]
    exact ⟨(State.toSafe_spec _).2, (State.toSafe_spec _).1⟩
  · obtain ⟨hc, hw⟩ := s.retreating_cryo b w
    have hband : (s.retreating b w).cryo.band.toNat = b := by rw [hc]; exact Cryo.banded_band hb
    rw [warm (.inr (.inr hst)), State.retreat_cold hst]
    by_cases h4 : b = 4
    · obtain ⟨hu, -⟩ := (s.retreating b w).toWarmup_cryo
      rw [if_pos h4, State.trained_other (by rw [hu]; exact (by decide : (6 : BitVec 4) ≠ 3)), hu]
      exact ⟨rfl, hband, fun h' => by omega, fun h' => by omega, fun _ => ⟨rfl, hw⟩⟩
    · have hs : (s.retreating b w).cryo.st = BitVec.ofNat 4 (if 2 ≤ b then 5 else 4) := by
        rw [hc, Cryo.banded_st, retreatSt, if_neg h4]
      rw [if_neg h4, State.trained_other (by rw [hs]; split <;> decide)]
      refine ⟨by rw [hc]; exact Cryo.banded_hold .., hband, fun h' => ?_, fun h' => ?_, fun h' => absurd h' h4⟩
      · rw [hs, if_neg (by omega)]; rfl
      · rw [hs, if_pos (by omega)]; rfl

-- the hold timer

/-- The state of the part as the hold timer runs out: COLD_TRAIN after COOLDOWN, COLD_RUN after WARM_RUN, in a cold band (R343). -/
theorem State.holdExpire_due {s : State} {t : Nat} (hh : s.cryo.hold = some t) (hc : s.cryo.mayCool = true)
    (hdue : t + s.cryo.holdUs ≤ s.wall) :
    s.holdExpire.cryo = { s.cryo with hold := none, st := if s.cryo.st = 2 ∧ s.cryo.warmest.toNat ≤ 1 then 3
      else if s.cryo.st = 5 ∧ s.cryo.warmest.toNat ≤ 1 then 4 else s.cryo.st }.banded s.cryo.warmest.toNat := by
  unfold State.holdExpire
  rw [hh]
  dsimp only
  rw [if_neg (by rw [hc, decide_eq_false (Nat.not_lt.mpr hdue)]; decide)]
  refine (State.bandEvent_cryo ..).1.trans ((State.setBand_cryo ..).1.trans ?_)
  refine congrArg (fun c : Cryo => c.banded s.cryo.warmest.toNat) ?_
  simp only [Bool.and_eq_true, beq_iff_eq, decide_eq_true_eq]
  split
  · rfl
  · split <;> rfl

theorem State.holdExpire_early {s : State} {t : Nat} (hh : s.cryo.hold = some t) (hdue : s.wall < t + s.cryo.holdUs) :
    s.holdExpire = s := by
  unfold State.holdExpire
  rw [hh]
  exact if_pos (by rw [decide_eq_true hdue, Bool.or_true])

-- commands

theorem State.ask_off {s : State} (h : s.cryo.st = 0) (host : Bool) (cmd : Nat) : s.ask host cmd = s.cryoCmd cmd := by
  rw [State.ask, h]; rfl

/-- A command joins those that wait: after them, but one of the side-band before those of the host of its cycle (R376). -/
theorem State.ask_waits {s : State} (h : s.cryo.st ≠ 0) (host : Bool) (cmd : Nat) : s.ask host cmd =
    { s with cryo := { s.cryo with
        asked := s.cryo.asked.filter (fun y => !(!host && y.at_ == s.moment && y.host)) ++ { at_ := s.moment, host := host, cmd := cmd } ::
          s.cryo.asked.filter (fun y => !host && y.at_ == s.moment && y.host) } } := by
  rw [State.ask, beq_false_of_ne h]; rfl

theorem State.cool_done {s : State} (h : s.cryo.st = 1) (hr : s.runningCores = []) :
    s.cool = { s with cryo := { s.cryo with st := 2, cmd := 0 } } := by
  have hidle : s.cores.any (fun x => x.2.task.isSome) = false := by
    rw [State.runningCores, List.map_eq_nil_iff, List.filter_eq_nil_iff] at hr
    simpa using hr
  have hall : State.requestAll { s with cryo := { s.cryo with cmd := 1 } } = { s with cryo := { s.cryo with cmd := 1 } } := by
    rw [State.requestAll, show State.runningCores { s with cryo := { s.cryo with cmd := 1 } } = [] from hr]
    rfl
  rw [State.cool, if_pos (by rw [h]; rfl), hall, State.coolDown, if_pos]
  change (s.cryo.st == 1 && true && !s.cores.any (fun x => x.2.task.isSome)) = true
  rw [hidle, h]
  rfl

theorem State.warm_taken {s : State} (h : s.cryo.st = 4 ∨ s.cryo.st = 5 ∨ s.cryo.st = 7) : s.warm = s.toWarmup := by
  rw [State.warm, if_pos]
  rcases h with h | h | h <;> rw [h] <;> decide

theorem State.abort_taken {s : State} (h : s.cryo.st = 2) : s.abortCool.cryo.st = 1 ∧ s.abortCool.cryo.band.toNat = 4 ∧
    s.abortCool.cryo.hold = none := by
  have hb := State.setBand_cryo (State.setSt { s with cryo := { s.cryo with hold := none } } 1) 4
  rw [State.abortCool, if_pos (by rw [h]; rfl)]
  dsimp only
  rw [hb.1]
  exact ⟨Cryo.banded_st .., Cryo.banded_band (le_refl 4), Cryo.banded_hold ..⟩

/-- A command of 1 to 4 in a state that has no transition for it. -/
theorem State.cryoCmd_bad {s : State} {n : Nat} (h : (n = 1 ∧ s.cryo.st ≠ 1) ∨ (n = 2 ∧ s.cryo.st ≠ 4 ∧ s.cryo.st ≠ 5 ∧ s.cryo.st ≠ 7) ∨
    (n = 3 ∧ s.cryo.st ≠ 6) ∨ (n = 4 ∧ s.cryo.st ≠ 2)) : s.cryoCmd n = s.badCommand := by
  obtain ⟨rfl, h⟩ | ⟨rfl, h4, h5, h7⟩ | ⟨rfl, h⟩ | ⟨rfl, h⟩ := h
  · change s.cool = _
    rw [State.cool, beq_false_of_ne h]; rfl
  · change s.warm = _
    rw [State.warm, beq_false_of_ne h4, beq_false_of_ne h5, beq_false_of_ne h7]; rfl
  · change s.powerOffCmd = _
    rw [State.powerOffCmd, beq_false_of_ne h]; rfl
  · change s.abortCool = _
    rw [State.abortCool, beq_false_of_ne h]; rfl

theorem State.cryoCmd_none {s : State} {n : Nat} (h : n = 0 ∨ 4 < n) : s.cryoCmd n = s := by
  match n, h with
  | 0, _ => rfl
  | n + 5, _ => rfl

-- the end of warm-up

theorem State.released_cryo (s : State) : (s.cores.foldl (fun s x => s.release x.1) s).cryo = s.cryo :=
  (Inert.foldl (I := fun t => t.cryo = s.cryo ∧ t.wall = s.wall) s.cores (fun _ _ => (cryo_inert s.cryo s.wall).release) ⟨rfl, rfl⟩).1

theorem State.warmed_on {s u : State} (hst : s.cryo.st = 6) (hd : s.drained = true)
    (hu : u = s.cores.foldl (fun s x => s.release x.1) s) (hs : ∀ x ∈ u.cores, x.2.settled = true) (hoff : s.cryo.offAt = false) :
    s.warmed = (u.setBand 4).setSt 1 := by
  have hkeep : u.cryo = s.cryo := hu ▸ s.released_cryo
  have hsettled : u.cores.any (fun x => !x.2.settled) = false := by
    rw [List.any_eq_false]
    intro x hx
    rw [hs x hx]
    decide
  have hoff' : (u.setBand 4).cryo.offAt = false := by
    rw [(u.setBand_cryo 4).1, hkeep, Cryo.banded]
    split <;> exact hoff
  unfold State.warmed
  rw [if_neg (by rw [hst, hd]; decide)]
  dsimp only
  rw [← hu, hsettled, hoff']
  rfl

theorem exec_heartbeatMiss {s : State} (h : s.cryo.st ≠ 0) : exec .heartbeatMiss s = .next s.toSafe := by
  change execHeartbeatMiss s = _
  rw [execHeartbeatMiss, beq_false_of_ne h]; rfl

theorem exec_trainingDone {s : State} (h : s.cryo.st = 3) (pass : Bool) :
    exec (.trainingDone pass) s = .next (if pass then s.setSt 4 else s.toSafe) := by
  change execTrainingDone pass s = _
  rw [execTrainingDone, if_neg (by rw [h]; decide)]
  cases pass <;> rfl

/-- Settles O56: a change of band first, then what each event and command makes of the controller. -/
theorem cryogenicEvents : Obligations.CryogenicEvents := by
  unfold Obligations.CryogenicEvents
  refine ⟨fun k => ⟨fun t ht => ?_, fun h => ?_, fun h h' => ?_, fun h h' => ?_, fun h h' => ?_, fun h => ?_⟩,
    fun s new hn => ?_, fun s h0 hdue => ?_, fun s u b h0 hdue ha hb hu => ⟨fun hle hst => ?_, fun hlt => ?_⟩, fun s h => ?_,
    fun s t hh hc hw => ⟨fun hd => congrArg _ (State.holdExpire_early hh hd), fun hd => ?_⟩, fun s i cmd n hi => ⟨?_, fun hp => if_pos hp⟩,
    fun s host cmd x y q hx t ht => ⟨fun h0 => State.ask_off h0 host cmd, fun h0 ha hq => ?_, fun h0 ha hy hq => ?_, fun h0 ha hh hat hy hq => ?_,
      State.judgeAsked_none, fun ha hq => ?_⟩,
    fun s => ⟨fun h hr => State.cool_done h hr, fun h => ?_, fun h => ?_, fun h => State.abort_taken h, fun n hn => State.cryoCmd_none hn,
      fun n hn => State.cryoCmd_bad hn⟩,
    fun s => ⟨fun h => ⟨exec_trainingDone h true, _, exec_trainingDone h false, s.toSafe_spec⟩, fun h hd u hu hs hoff => ?_, fun h hd => ?_,
      fun h hd => ?_, fun h => ⟨_, exec_heartbeatMiss h, s.toSafe_spec⟩⟩⟩
  · simp [bandOf, ht]
  · rw [bandOf_valid, if_pos h]
  · rw [bandOf_valid, if_neg (by omega), if_pos h']
  · rw [bandOf_valid, if_neg (by omega), if_neg (by omega), if_pos h']
  · rw [bandOf_valid, if_neg (by omega), if_neg (by omega), if_neg (by omega), if_pos h']
  · rw [bandOf_valid, if_neg (by omega), if_neg (by omega), if_neg (by omega), if_neg (by omega)]
  · rw [(s.setBand_cryo new).1]
    refine ⟨Cryo.banded_st .., Cryo.banded_band hn, fun hne => ?_, Cryo.banded_hold ..⟩
    rw [Cryo.banded, if_neg (Ne.symm hne)]
  · have hread := ((s.sensed.moved (bandOf (warmestSensor s.sensors).2) (warmestSensor s.sensors)).trained_read
      (bandOf (warmestSensor s.sensors).2)).trans (State.moved_read ..)
    simp only [Cryo.read, Prod.mk.injEq] at hread
    exact ⟨_, congrArg _ (State.sample_eq h0 hdue), hread⟩
  · have hcool : s.cryo.mayCool = true := Cryo.mayCool_of (by tauto)
    rw [exec_tempSample h0 hdue ha, ← hb, State.moved_colder (s := s.sensed) hle hcool, hu, State.trained_other]
    · rfl
    · exact fun h => absurd ((Cryo.timed_st ..).symm.trans h) (by rcases hst with h | h | h <;> · change s.cryo.st ≠ 3; rw [h]; decide)
  · have hread := ((s.sensed.moved (bandOf (warmestSensor s.sensors).2) (warmestSensor s.sensors)).trained_read
      (bandOf (warmestSensor s.sensors).2)).trans (State.moved_read ..)
    simp only [Cryo.read, Prod.mk.injEq] at hread
    refine ⟨_, exec_tempSample h0 hdue ha, hread.2.1, hread.2.2, ?_⟩
    rw [← hb]
    exact State.warmer_sample (s := s.sensed) _ hlt (hb ▸ bandOf_le _)
  · exact congrArg _ (if_pos (by rcases h with h | h <;> simp [h]))
  · have hc' := State.holdExpire_due hh hc hd
    refine ⟨_, rfl, ?_, BitVec.eq_of_toNat_eq ?_, fun h2 hle => ?_, fun h5 hle => ?_⟩
    · rw [hc', Cryo.banded_hold]
    · rw [hc', Cryo.banded_band hw]
    · rw [hc', Cryo.banded_st]
      exact if_pos ⟨h2, hle⟩
    · rw [hc', Cryo.banded_st, if_neg (by rw [h5]; exact fun h => absurd h.1 (by decide))]
      exact if_pos ⟨h5, hle⟩
  · rcases hi with ⟨rfl, rfl⟩ | ⟨rfl, rfl⟩ | ⟨rfl, rfl⟩ | ⟨rfl, rfl⟩ <;> rfl
  · rw [State.ask_waits h0, ha, ht, hq, hx]; rfl
  · have hafter : (!host && y.at_ == s.moment && y.host) = false := by
      rcases hy with h | h | h
      · rw [h]; rfl
      · rw [beq_false_of_ne h, Bool.and_false]; rfl
      · rw [h, Bool.and_false]
    rw [State.ask_waits h0, ha, List.filter_cons, List.filter_cons, hafter, ht, hq, hx]; rfl
  · have hafter : (!host && y.at_ == s.moment && y.host) = true := by rw [hh, hat, hy]; simp
    rw [State.ask_waits h0, ha, List.filter_cons, List.filter_cons, hafter, ht, hq, hx]; rfl
  · rw [State.judgeAsked, ha, ht, hq]; rfl
  · obtain ⟨hc, -⟩ := s.toWarmup_cryo
    rw [show s.cryoCmd 2 = s.toWarmup from State.warm_taken h, hc]
    exact ⟨rfl, rfl, rfl⟩
  · change s.powerOffCmd = _
    rw [State.powerOffCmd, if_pos (by rw [h]; rfl)]
  · refine ⟨_, congrArg Host.Outcome.next (State.warmed_on h hd hu hs hoff), rfl, ?_⟩
    change (u.setBand 4).cryo.band.toNat = 4
    rw [(u.setBand_cryo 4).1, Cryo.banded_band (le_refl 4)]
  · exact ⟨_, if_pos (by rw [h, decide_eq_true hd]; rfl), s.toSafe_spec⟩
  · exact if_neg (by rw [h, decide_eq_false (Nat.not_le.mpr hd)]; decide)

end Sys2Proof.Machine
end

section
/-! Settled: the words on launch records and reuse entries (10 R181, R182, 14 R279, R280). -/

namespace Sys2Proof.Machine

-- fields

/-- Clearing a field leaves the bits outside it. -/
theorem setBits_getLsbD_zero {lo n : Nat} (w : Word) (hn : lo + n ≤ 64) (k : Nat) :
    (setBits w lo n 0).getLsbD k = (w.getLsbD k && !decide (lo ≤ k ∧ k < lo + n)) := by
  have hlt : w.toNat % 2 ^ lo < 2 ^ (lo + n) :=
    lt_of_lt_of_le (Nat.mod_lt _ (Nat.two_pow_pos lo)) (Nat.pow_le_pow_right (by omega) (by omega))
  have hval : (setBits w lo n 0).toNat = 2 ^ (lo + n) * (w.toNat / 2 ^ (lo + n)) + w.toNat % 2 ^ lo := by
    rw [setBits_toNat w 0 hn, Nat.zero_mod, Nat.zero_mul]
    ring
  rw [← BitVec.testBit_toNat, ← BitVec.testBit_toNat, hval, Nat.testBit_two_pow_mul_add _ hlt]
  split
  · rw [Nat.testBit_mod_two_pow, Bool.and_comm]
    congr 1
    grind
  · rw [Nat.testBit_div_two_pow, show k - (lo + n) + (lo + n) = k by omega]
    grind

theorem bitsOf_high (a : Word) {k : Nat} (hk : k ≤ 64) : (bitsOf a k (64 - k) != 0) = decide (2 ^ k ≤ a.toNat) := by
  have hlt : a.toNat / 2 ^ k < 2 ^ (64 - k) := by
    rw [Nat.div_lt_iff_lt_mul (Nat.two_pow_pos _), ← Nat.pow_add, Nat.sub_add_cancel hk]
    exact a.isLt
  rw [bitsOf, Nat.mod_eq_of_lt hlt, Bool.eq_iff_iff, bne_iff_ne, decide_eq_true_iff, ne_eq, Nat.div_eq_zero_iff]
  have := Nat.two_pow_pos k
  omega

-- the shape of these words

theorem State.partHeld_none {s : State} (h : s.noneHeld = true) : s.partHeld = false := by
  simp only [State.noneHeld, Bool.and_eq_true, List.isEmpty_iff] at h
  rw [State.partHeld, h.1, h.2]
  rfl

/-- A word that has a scalar result. -/
theorem settle_giveScalar (h : Hdr) (d : SDst) (v : Word) (s : State) : State.settle h (giveScalar d (.clean v) s) = s.wrote h d v 0 := rfl

/-- Statuses 1 to 3 (R182). -/
theorem State.lrecStatus_eq (s : State) (a : Word) (ctx : Nat) : s.lrecStatus a ctx =
    if 2 ^ 16 ≤ a.toNat ∨ s.lrecValid a.toNat = false then 1 else if s.lrecCtx a.toNat ≠ ctx then 2
    else if s.lrecOut a.toNat ≠ 0 then 3 else 0 := by
  rw [State.lrecStatus, bitsOf_high a (k := 16) (by omega)]
  simp only [Bool.or_eq_true, decide_eq_true_eq, Bool.not_eq_true', bne_iff_ne]

theorem State.patchStatus_eq (s : State) (a b : Word) (sel : BitVec 4) (ctx : Nat) : s.patchStatus a b sel.toNat ctx =
    if 2 ^ 16 ≤ a.toNat ∨ s.lrecValid a.toNat = false then 1 else if s.lrecCtx a.toNat ≠ ctx then 2
    else if s.lrecOut a.toNat ≠ 0 then 3 else if sel = 1 ∧ 2 ^ 32 ≤ b.toNat then 6 else 0 := by
  have hsel : (sel.toNat == 1) = decide (sel = 1) := by
    rw [Bool.eq_iff_iff, beq_iff_eq, decide_eq_true_iff]
    exact ⟨fun h => BitVec.eq_of_toNat_eq h, fun h => h ▸ rfl⟩
  rw [State.patchStatus, s.lrecStatus_eq, bitsOf_high b (k := 32) (by omega), hsel]
  grind

theorem State.armStatus_eq (s : State) (a : Word) (ctx : Nat) : s.armStatus a ctx =
    if 2 ^ 16 ≤ a.toNat ∨ s.lrecValid a.toNat = false then 1 else if s.lrecCtx a.toNat ≠ ctx then 2
    else if s.lrecOut a.toNat ≠ 0 then 3 else if 2 ^ 20 - s.sched.tasks.length < s.lrecTiles a.toNat then 4
    else if s.lrecSg a.toNat ≠ 0 ∧ (s.unitExists (s.lrecSg a.toNat) = false ∨ s.lrecTiles a.toNat % shapeSize (s.lrecSg a.toNat) ≠ 0) then 5
    else 0 := by
  rw [State.armStatus, s.lrecStatus_eq, show slotCount = 2 ^ 20 from rfl]
  grind

/-- The status of RCHK and RINV before the class is read. -/
def State.reuseStatus (s : State) (n ctx : Nat) : Nat :=
  if 2 ^ 16 ≤ n ∨ s.lrecValid n = false then 1 else if s.lrecCtx n ≠ ctx then 2 else if s.lrecClass n = 0 then 8 else 0

/-- A record of another context than 1 and 2 speak of. -/
theorem State.lrecStatus_valid {s : State} {a : Word} {ctx : Nat} (h1 : ¬(2 ^ 16 ≤ a.toNat ∨ s.lrecValid a.toNat = false))
    (h2 : ¬s.lrecCtx a.toNat ≠ ctx) : (s.lrecStatus a ctx == 1 || s.lrecStatus a ctx == 2) = false := by
  rw [s.lrecStatus_eq, if_neg h1, if_neg h2]
  split <;> rfl

/-- What follows the read of the class. -/
def ClassRead.go (z : ClassRead) (u : State) (fail : State → Nat → Eff) (ok : State → RClass → Eff) : Eff :=
  match z with
  | .fault f => .fault u { fail := f, elem := 0, off := 0 } 0
  | .bad _ _ => fail u 9
  | .ok x => ok u x

theorem State.reuseSteps_fail {s : State} {a : Word} {k : Nat} (hk : s.reuseStatus a.toNat s.curCore.ctx.toNat = k) (h : k ≠ 0)
    (fail : State → Nat → Eff) (ok : State → RClass → Eff) : s.reuseSteps a fail ok = fail s k := by
  unfold State.reuseSteps
  extract_lets st n
  unfold State.reuseStatus at hk
  by_cases h1 : 2 ^ 16 ≤ a.toNat ∨ s.lrecValid a.toNat = false
  · have hst : st = 1 := (s.lrecStatus_eq a _).trans (if_pos h1)
    rw [if_pos (by rw [hst]; decide), hst, ← hk, if_pos h1]
  · replace hk := (if_neg h1).symm.trans hk
    by_cases h2 : s.lrecCtx a.toNat ≠ s.curCore.ctx.toNat
    · have hst : st = 2 := (s.lrecStatus_eq a _).trans ((if_neg h1).trans (if_pos h2))
      rw [if_pos (by rw [hst]; decide), hst, ← hk, if_pos h2]
    · replace hk := (if_neg h2).symm.trans hk
      by_cases h3 : s.lrecClass a.toNat = 0
      · rw [if_neg (by rw [show (st == 1 || st == 2) = false from State.lrecStatus_valid h1 h2]; decide),
          if_pos (by rw [show s.lrecClass n = 0 from h3]; decide), ← hk, if_pos h3]
      · exact absurd (hk.symm.trans (if_neg h3)) h

theorem State.reuseSteps_read {s u : State} {a : Word} {z : ClassRead} (hn : s.noneHeld = true)
    (h : s.reuseStatus a.toNat s.curCore.ctx.toNat = 0)
    (hz : s.readClass s.whoCur (s.lrecClass a.toNat) (s.lrecSg a.toNat) = (u, z)) (fail : State → Nat → Eff) (ok : State → RClass → Eff) :
    s.reuseSteps a fail ok = z.go u fail ok := by
  unfold State.reuseStatus at h
  have h1 : ¬(2 ^ 16 ≤ a.toNat ∨ s.lrecValid a.toNat = false) := fun h' => absurd ((if_pos h').symm.trans h) (by decide)
  rw [if_neg h1] at h
  have h2 : ¬s.lrecCtx a.toNat ≠ s.curCore.ctx.toNat := fun h' => absurd ((if_pos h').symm.trans h) (by decide)
  rw [if_neg h2] at h
  have h3 : s.lrecClass a.toNat ≠ 0 := fun h' => absurd ((if_pos h').symm.trans h) (by decide)
  unfold State.reuseSteps
  extract_lets st n
  rw [if_neg (by rw [show (st == 1 || st == 2) = false from State.lrecStatus_valid h1 h2]; decide),
    if_neg (by rw [beq_false_of_ne (show s.lrecClass n ≠ 0 from h3)]; decide), if_neg (by rw [State.partHeld_none hn]; decide),
    if_neg (by rw [hn, Bool.not_true, Bool.false_and]; decide), show s.readClass s.whoCur (s.lrecClass n) (s.lrecSg n) = (u, z) from hz]
  cases z <;> rfl

/-- The word of a status (R279, R280). -/
theorem statusWord_eq {st : Nat} {w : Word} (hst : st < 256) (hw : w.toNat = st * 2 ^ 56) : statusWord st = w := by
  refine BitVec.eq_of_toNat_eq ?_
  rw [statusWord, (mkWord_cons (fs := []) (lo := 56) (n := 8) (v := st) (by simp [mkWord]) (by omega)).1, hw,
    Nat.mod_eq_of_lt (show st < 2 ^ 8 from hst)]
  simp [mkWord]

theorem State.reuseStatus_lt (s : State) (n ctx : Nat) : s.reuseStatus n ctx < 256 := by
  unfold State.reuseStatus
  grind

-- LPATCH and LARM

theorem exec_lpatch {s : State} {h : Hdr} {g : Grp} {sel : BitVec 4} {d : SDst} {a b : SSrc} (hg : s.curEng.grp = some g)
    (hn : s.noneHeld = true) : exec (.lpatch h sel d a b) s =
      .next (State.wrote (if s.patchStatus (s.val a) (s.val b) sel.toNat s.curCore.ctx.toNat == 0
        then s.patch (s.val a).toNat sel.toNat (s.val b) else s) h d
        (BitVec.ofNat 64 (s.patchStatus (s.val a) (s.val b) sel.toNat s.curCore.ctx.toNat)) 0) := by
  change execLpatch h sel d a b s = _
  rw [execLpatch, performWord_member hg, lpatchEff, State.partHeld_none hn]
  rfl

/-- The field that LPATCH writes (R181). -/
theorem State.patch_eq {s : State} {n off : Nat} {sel : BitVec 4} {y w : Word}
    (h : (sel = 0 ∧ off = 0x10 ∧ w = y) ∨ (2 ≤ sel.toNat ∧ off = 0xC0 + 8 * (sel.toNat - 2) ∧ w = y) ∨
      (sel = 1 ∧ off = 0x28 ∧ w.toNat = (s.lrecWord n 0x28).toNat / 2 ^ 32 * 2 ^ 32 + y.toNat)) (hy : sel = 1 → y.toNat < 2 ^ 32) :
    s.patch n sel.toNat y = s.setLrec n off w := by
  obtain ⟨rfl, rfl, rfl⟩ | ⟨h2, rfl, rfl⟩ | ⟨rfl, rfl, hw⟩ := h
  · rfl
  · rw [State.patch, if_neg (by simp only [beq_iff_eq]; omega), if_neg (by simp only [beq_iff_eq]; omega)]
  · have hfield : setBits (s.lrecWord n 0x28) 0 32 y.toNat = w := by
      refine BitVec.eq_of_toNat_eq ?_
      rw [setBits_toNat _ _ (by omega), hw, Nat.mod_eq_of_lt (hy rfl)]
      simp [Nat.mod_one]
      ring
    rw [← hfield]
    rfl

theorem exec_larm {s : State} {h : Hdr} {g : Grp} {d : SDst} {a : SSrc} (hg : s.curEng.grp = some g) :
    exec (.larm h d a) s = .next (State.settle h (larmEff d (s.val a) s)) := by
  change execLarm h d a s = _
  rw [execLarm, performWord_member hg]
  rfl

/-- The records that LARM arms, with the binding of its task (R182, R193). -/
def State.armed (u : State) (c : Nat) (e : Eng) (n : Nat) (home : Option (Nat × Nat)) : State :=
  (u.acquireAt c e 3 0xF).armRecords n ((u.core c).task.bind RunTask.bind)
    (match (u.core c).task.bind RunTask.bind with
      | some i => (u.seq i).q
      | none => []) home

/-- LARM whose status is 0, once its engine's accesses are released. -/
theorem larmEff_go {s r u : State} {d : SDst} {a : Word} {z : DboRead} (hn : s.noneHeld = true)
    (hst : s.armStatus a s.curCore.ctx.toNat = 0) (hr : r = s.releaseAt s.cur.1 s.cur.2 3 0xF) (hdone : r.released s.cur.1 3 0xF = true)
    (ht : r.lrecTiles a.toNat ≠ 0)
    (hz : r.readDbo s.cur.1 a.toNat (r.taskEv s.cur.1 { kind := 6, eng := engIdx s.cur.2, pc := (r.eng s.cur.1 s.cur.2).pc.toNat }) = (u, z)) :
    larmEff d a s = match z with
      | .fault x buf => .fault u x buf
      | .held reason => .wait u reason
      | .none => giveScalar d (.clean 0) (u.armed s.cur.1 s.cur.2 a.toNat none)
      | .at_ key st => giveScalar d (.clean 0) (u.armed s.cur.1 s.cur.2 a.toNat (some (key, st))) := by
  subst hr
  unfold larmEff
  simp only [State.partHeld_none hn, hst, hdone, hz, beq_false_of_ne ht, bne_self_eq_false, Bool.not_true, Bool.false_eq_true, if_false]
  cases z <;> rfl

theorem larmEff_empty {s r : State} {d : SDst} {a : Word} (hn : s.noneHeld = true)
    (hst : s.armStatus a s.curCore.ctx.toNat = 0) (hr : r = s.releaseAt s.cur.1 s.cur.2 3 0xF) (hdone : r.released s.cur.1 3 0xF = true)
    (ht : r.lrecTiles a.toNat = 0) : larmEff d a s = giveScalar d (.clean 0) r := by
  subst hr
  unfold larmEff
  simp only [State.partHeld_none hn, hst, hdone, ht, beq_self_eq_true, bne_self_eq_false, Bool.not_true, Bool.false_eq_true, if_false, if_true]

theorem larmEff_refused {s : State} {d : SDst} {a : Word} (hn : s.noneHeld = true) (hst : s.armStatus a s.curCore.ctx.toNat ≠ 0) :
    larmEff d a s = giveScalar d (.clean (BitVec.ofNat 64 (s.armStatus a s.curCore.ctx.toNat))) s := by
  unfold larmEff
  simp only [State.partHeld_none hn, bne_iff_ne.mpr hst, Bool.false_eq_true, if_false, if_true]

-- RCHK and RINV

theorem exec_rchk {s : State} {h : Hdr} {g : Grp} {d : SDst} {a b : SSrc} (hg : s.curEng.grp = some g) :
    exec (.rchk h d a b) s = .next (State.settle h (rchkEff d (s.val a) (s.val b) s)) := by
  change execRchk h d a b s = _
  rw [execRchk, performWord_member hg]
  rfl

theorem exec_rinv {s r : State} {h : Hdr} {g : Grp} {d : SDst} {a b : SSrc} (hg : s.curEng.grp = some g)
    (hr : r = s.releaseAt s.cur.1 s.cur.2 3 0xF) (hcur : r.cur = s.cur) (hdone : r.released s.cur.1 3 0xF = true) :
    exec (.rinv h d a b) s = .next (State.settle h (rinvThen d (s.val a) (s.val b) r)) := by
  change execRinv h d a b s = _
  rw [execRinv, performWord_member hg, rinvEff, ← hr]
  rw [if_pos (by rw [hcur]; exact hdone)]
  rfl

theorem rchkEff_status {s : State} {d : SDst} {a b : Word} {k : Nat} (hk : s.reuseStatus a.toNat s.curCore.ctx.toNat = k) (h : k ≠ 0) :
    rchkEff d a b s = giveScalar d (.clean (statusWord k)) s :=
  State.reuseSteps_fail hk h _ _

/-- What RCHK gives of a class that its conditions find. -/
def rchkClass (d : SDst) (a b : Word) (u : State) (x : RClass) : Eff :=
  match (if bitsOf b 32 32 != 0 then none else u.entryIndex x a.toNat b.toNat) with
  | none => giveScalar d (.clean (statusWord 10)) u
  | some i => u.memEff .none x.ebuf (entryForm .read) [((x.eoff + 32 * i : Nat) : Int)] false (fun ps s =>
      let (s, bs) := s.loadPlaces s.cur.1 s.curKid ps.flatten
      giveScalar d (if firstBad bs != 0 then .bad (firstBad bs)
        else .clean (mkWord [(0, 48, bitsOf (leWord (bs.map (fun x => x.1))) 0 48)])) s)

theorem rchkEff_read {s u : State} {d : SDst} {a b : Word} {z : ClassRead} (hn : s.noneHeld = true)
    (hk : s.reuseStatus a.toNat s.curCore.ctx.toNat = 0)
    (hz : s.readClass s.whoCur (s.lrecClass a.toNat) (s.lrecSg a.toNat) = (u, z)) :
    rchkEff d a b s = z.go u (fun s st => giveScalar d (.clean (statusWord st)) s) (rchkClass d a b) :=
  State.reuseSteps_read hn hk hz _ _

/-- The index that a tile names. -/
theorem tileIndex_eq (u : State) (x : RClass) (n : Nat) (y : Word) :
    (if bitsOf y 32 32 != 0 then none else u.entryIndex x n y.toNat) = if 2 ^ 32 ≤ y.toNat then none else u.entryIndex x n y.toNat := by
  rw [bitsOf_high y (k := 32) (by omega)]
  simp only [decide_eq_true_eq]

theorem mkWord_low (w : Word) (n : Nat) (hn : n ≤ 64) : (mkWord [(0, n, bitsOf w 0 n)]).toNat = w.toNat % 2 ^ n := by
  rw [(mkWord_one (bitsOf w 0 n) hn).1, bitsOf]
  simp

/-- The statement of RINV on a class that its conditions find. -/
def rinvClass (d : SDst) (a b : Word) (u : State) (x : RClass) : Eff :=
  match (if b == BitVec.allOnes 64 then some (u.entryIndices x a.toNat) else if bitsOf b 32 32 != 0 then none
    else (u.entryIndex x a.toNat b.toNat).map (fun i => [i])) with
  | none => giveScalar d (.clean (statusWord 10)) u
  | some is => u.memEff .none x.ebuf (entryForm (.atomic false)) (is.map (fun i => ((x.eoff + 32 * i : Nat) : Int))) true
      (fun ps s => giveScalar d (.clean 0) ((ps.zip is).foldl (fun s p =>
        (s.noteAtomic (p.1.take 8)).invalidate s.curKid (keyOf [p.1]) x.ebuf (x.eoff + 32 * p.2)) s))

theorem rinvThen_read {s u : State} {d : SDst} {a b : Word} {z : ClassRead} (hn : s.noneHeld = true)
    (hk : s.reuseStatus a.toNat s.curCore.ctx.toNat = 0)
    (hz : s.readClass s.whoCur (s.lrecClass a.toNat) (s.lrecSg a.toNat) = (u, z)) :
    rinvThen d a b s = z.go u (fun s st => giveScalar d (.clean (statusWord st)) s) (rinvClass d a b) :=
  State.reuseSteps_read hn hk hz _ _

theorem entries_named {u : State} {x : RClass} {n : Nat} {y : Word} {is : List Nat}
    (h : (y = BitVec.allOnes 64 ∧ is = u.entryIndices x n) ∨ (y.toNat < 2 ^ 32 ∧ ∃ i, u.entryIndex x n y.toNat = some i ∧ is = [i])) :
    (if y == BitVec.allOnes 64 then some (u.entryIndices x n) else if bitsOf y 32 32 != 0 then none
      else (u.entryIndex x n y.toNat).map (fun i => [i])) = some is := by
  obtain ⟨rfl, rfl⟩ | ⟨hy, i, hi, rfl⟩ := h
  · exact if_pos (beq_self_eq_true _)
  · have hne : y ≠ BitVec.allOnes 64 := fun h => by rw [h] at hy; exact absurd hy (by decide)
    rw [beq_false_of_ne hne, if_neg (by decide), bitsOf_high y (k := 32) (by omega), decide_eq_false (Nat.not_le.mpr hy), if_neg (by decide), hi]
    rfl

theorem entries_unnamed {u : State} {x : RClass} {n : Nat} {y : Word} (hne : y ≠ BitVec.allOnes 64)
    (h : 2 ^ 32 ≤ y.toNat ∨ u.entryIndex x n y.toNat = none) :
    (if y == BitVec.allOnes 64 then some (u.entryIndices x n) else if bitsOf y 32 32 != 0 then none
      else (u.entryIndex x n y.toNat).map (fun i => [i])) = none := by
  rw [beq_false_of_ne hne, if_neg (by decide), bitsOf_high y (k := 32) (by omega)]
  obtain h | h := h
  · rw [decide_eq_true h, if_pos rfl]
  · rw [h]
    split <;> rfl

theorem invalidated_bit (w : Word) (k : Nat) :
    (invalidated w).getLsbD k = (w.getLsbD k && !decide (k = 40 ∨ k = 42 ∨ (32 ≤ k ∧ k < 40))) := by
  rw [invalidated, setBits_getLsbD_zero _ (by omega), setBits_getLsbD_zero _ (by omega), setBits_getLsbD_zero _ (by omega)]
  grind

/-- LPATCH (R181, R182). -/
theorem exec_lpatch_status {s : State} {h : Hdr} {g : Grp} {sel : BitVec 4} {d : SDst} {a b : SSrc} {st : Nat} (hg : s.curEng.grp = some g)
    (hn : s.noneHeld = true) (hst : s.patchStatus (s.val a) (s.val b) sel.toNat s.curCore.ctx.toNat = st) :
    (st ≠ 0 → exec (.lpatch h sel d a b) s = .next (s.wrote h d (BitVec.ofNat 64 st) 0)) ∧
    (st = 0 → exec (.lpatch h sel d a b) s = .next ((s.patch (s.val a).toNat sel.toNat (s.val b)).wrote h d 0 0)) := by
  have hex := exec_lpatch (h := h) (sel := sel) (d := d) (a := a) (b := b) hg hn
  rw [hst] at hex
  refine ⟨fun h0 => ?_, fun h0 => ?_⟩
  · rw [hex, beq_false_of_ne h0]; rfl
  · rw [hex, h0]; rfl

/-- RCHK whose class passes its conditions and whose entry is read (R279). -/
theorem exec_rchk_entry {s u t v : State} {h : Hdr} {g : Grp} {d : SDst} {a b : SSrc} {k : RClass} {i : Nat} {ps : List (List Place)}
    {bs : List (Byte × BitVec 4)} (hg : s.curEng.grp = some g) (hn : s.noneHeld = true)
    (hk : s.reuseStatus (s.val a).toNat s.curCore.ctx.toNat = 0)
    (hz : s.readClass s.whoCur (s.lrecClass (s.val a).toNat) (s.lrecSg (s.val a).toNat) = (u, .ok k))
    (hy : (s.val b).toNat < 2 ^ 32) (hi : u.entryIndex k (s.val a).toNat (s.val b).toNat = some i)
    (hacc : u.Accesses .none k.ebuf (entryForm .read) [((k.eoff + 32 * i : Nat) : Int)] false ps t)
    (hload : t.loadPlaces t.cur.1 t.curKid ps.flatten = (v, bs)) :
    exec (.rchk h d a b) s = .next (State.settle h (giveScalar d (if firstBad bs != 0 then .bad (firstBad bs)
      else .clean (mkWord [(0, 48, bitsOf (leWord (bs.map (fun x => x.1))) 0 48)])) v)) := by
  rw [exec_rchk hg, rchkEff_read hn hk hz]
  change Host.Outcome.next (State.settle h (rchkClass d (s.val a) (s.val b) u k)) = _
  rw [rchkClass, tileIndex_eq, if_neg (Nat.not_le.mpr hy), hi]
  refine congrArg (fun e => Host.Outcome.next (State.settle h e)) ((memEff_of hacc _).trans ?_)
  rw [hload]

/-- RCHK that finds a condition of R265 broken, or a tile beyond the class. -/
theorem exec_rchk_bad {s u : State} {h : Hdr} {g : Grp} {d : SDst} {a b : SSrc} {k : RClass} {c : Nat} {w : Word} (hg : s.curEng.grp = some g)
    (hn : s.noneHeld = true) (hk : s.reuseStatus (s.val a).toNat s.curCore.ctx.toNat = 0)
    (hz : s.readClass s.whoCur (s.lrecClass (s.val a).toNat) (s.lrecSg (s.val a).toNat) = (u, .bad k c)) (hw : w.toNat = 9 * 2 ^ 56) :
    exec (.rchk h d a b) s = .next (u.wrote h d w 0) := by
  rw [exec_rchk hg, rchkEff_read hn hk hz, ← statusWord_eq (by decide) hw]
  rfl

theorem exec_rchk_tile {s u : State} {h : Hdr} {g : Grp} {d : SDst} {a b : SSrc} {k : RClass} {w : Word} (hg : s.curEng.grp = some g)
    (hn : s.noneHeld = true) (hk : s.reuseStatus (s.val a).toNat s.curCore.ctx.toNat = 0)
    (hz : s.readClass s.whoCur (s.lrecClass (s.val a).toNat) (s.lrecSg (s.val a).toNat) = (u, .ok k))
    (hi : 2 ^ 32 ≤ (s.val b).toNat ∨ u.entryIndex k (s.val a).toNat (s.val b).toNat = none) (hw : w.toNat = 10 * 2 ^ 56) :
    exec (.rchk h d a b) s = .next (u.wrote h d w 0) := by
  have hnone : (if 2 ^ 32 ≤ (s.val b).toNat then none else u.entryIndex k (s.val a).toNat (s.val b).toNat) = none := by
    obtain hi | hi := hi
    · exact if_pos hi
    · rw [hi]; exact ite_self _
  rw [exec_rchk hg, rchkEff_read hn hk hz, ← statusWord_eq (by decide) hw]
  change Host.Outcome.next (State.settle h (rchkClass d (s.val a) (s.val b) u k)) = _
  rw [rchkClass, tileIndex_eq, hnone]
  rfl

/-- RINV once its engine's accesses are released: `r` is the package then. -/
structure State.RinvFrom (s r : State) (h : Hdr) (d : SDst) (a b : SSrc) : Prop where
  run  : exec (.rinv h d a b) s = .next (State.settle h (rinvThen d (s.val a) (s.val b) r))
  none : r.noneHeld = true

theorem State.RinvFrom.bad {s r u : State} {h : Hdr} {d : SDst} {a b : SSrc} {k : RClass} {c : Nat} {w : Word} (hf : s.RinvFrom r h d a b)
    (hk : r.reuseStatus (s.val a).toNat r.curCore.ctx.toNat = 0)
    (hz : r.readClass r.whoCur (r.lrecClass (s.val a).toNat) (r.lrecSg (s.val a).toNat) = (u, .bad k c)) (hw : w.toNat = 9 * 2 ^ 56) :
    exec (.rinv h d a b) s = .next (u.wrote h d w 0) := by
  rw [hf.run, rinvThen_read hf.none hk hz, ← statusWord_eq (by decide) hw]
  rfl

theorem State.RinvFrom.tile {s r u : State} {h : Hdr} {d : SDst} {a b : SSrc} {k : RClass} {w : Word} (hf : s.RinvFrom r h d a b)
    (hk : r.reuseStatus (s.val a).toNat r.curCore.ctx.toNat = 0)
    (hz : r.readClass r.whoCur (r.lrecClass (s.val a).toNat) (r.lrecSg (s.val a).toNat) = (u, .ok k)) (hne : s.val b ≠ BitVec.allOnes 64)
    (hi : 2 ^ 32 ≤ (s.val b).toNat ∨ u.entryIndex k (s.val a).toNat (s.val b).toNat = .none) (hw : w.toNat = 10 * 2 ^ 56) :
    exec (.rinv h d a b) s = .next (u.wrote h d w 0) := by
  rw [hf.run, rinvThen_read hf.none hk hz, ← statusWord_eq (by decide) hw]
  change Host.Outcome.next (State.settle h (rinvClass d (s.val a) (s.val b) u k)) = _
  rw [rinvClass, entries_unnamed hne hi]
  rfl

theorem State.RinvFrom.entries {s r u t : State} {h : Hdr} {d : SDst} {a b : SSrc} {k : RClass} {is : List Nat} {ps : List (List Place)}
    (hf : s.RinvFrom r h d a b) (hk : r.reuseStatus (s.val a).toNat r.curCore.ctx.toNat = 0)
    (hz : r.readClass r.whoCur (r.lrecClass (s.val a).toNat) (r.lrecSg (s.val a).toNat) = (u, .ok k))
    (his : (s.val b = BitVec.allOnes 64 ∧ is = u.entryIndices k (s.val a).toNat) ∨
      ((s.val b).toNat < 2 ^ 32 ∧ ∃ i, u.entryIndex k (s.val a).toNat (s.val b).toNat = some i ∧ is = [i]))
    (hacc : u.Accesses .none k.ebuf (entryForm (.atomic false)) (is.map (fun i => ((k.eoff + 32 * i : Nat) : Int))) true ps t) :
    exec (.rinv h d a b) s = .next (((ps.zip is).foldl (fun v p =>
      (v.noteAtomic (p.1.take 8)).invalidate v.curKid (keyOf [p.1]) k.ebuf (k.eoff + 32 * p.2)) t).wrote h d 0 0) := by
  rw [hf.run, rinvThen_read hf.none hk hz]
  change Host.Outcome.next (State.settle h (rinvClass d (s.val a) (s.val b) u k)) = _
  rw [rinvClass, entries_named his]
  exact congrArg (fun e => Host.Outcome.next (State.settle h e)) (memEff_of hacc _)

/-- LARM with status 0 whose records depend on what DBO names (R182, R193). -/
theorem exec_larm_go {s r u : State} {h : Hdr} {g : Grp} {d : SDst} {a : SSrc} {home : Option (Nat × Nat)} (hg : s.curEng.grp = some g)
    (hn : s.noneHeld = true) (hst : s.armStatus (s.val a) s.curCore.ctx.toNat = 0) (hr : r = s.releaseAt s.cur.1 s.cur.2 3 0xF)
    (hdone : r.released s.cur.1 3 0xF = true) (ht : r.lrecTiles (s.val a).toNat ≠ 0)
    (hread : (bitsOf (r.lrecWord (s.val a).toNat 0x20) 0 16 = 0 ∧ u = r ∧ home = none) ∨
      (∃ key z, r.readDbo s.cur.1 (s.val a).toNat
        (r.taskEv s.cur.1 { kind := 6, eng := engIdx s.cur.2, pc := (r.eng s.cur.1 s.cur.2).pc.toNat }) = (u, .at_ key z) ∧
        home = some (key, z))) :
    exec (.larm h d a) s = .next ((u.armed s.cur.1 s.cur.2 (s.val a).toNat home).wrote h d 0 0) := by
  obtain ⟨hbuf, rfl, rfl⟩ | ⟨key, z, hz, rfl⟩ := hread
  · rw [exec_larm hg, larmEff_go hn hst hr hdone ht (u := u) (z := .none) (by rw [State.readDbo, if_pos hbuf])]
    rfl
  · rw [exec_larm hg, larmEff_go hn hst hr hdone ht hz]
    rfl

/-- Settles O42: LPATCH, LARM, RCHK and RINV in turn. -/
theorem reuseWords : Obligations.ReuseWords := by
  unfold Obligations.ReuseWords
  refine ⟨fun s h g sel d a b hg hn x y n ctx st hx hy hnx hctx => ?_, invalidated_bit⟩
  subst hnx hx hy hctx
  refine ⟨fun hst => ?_, fun hst => ?_, fun hst => ?_, fun r hr hdone hrn hst => ?_⟩
  · have hps : s.patchStatus (s.val a) (s.val b) sel.toNat s.curCore.ctx.toNat = st := by
      rw [s.patchStatus_eq]; split_ifs at hst ⊢ <;> exact hst.symm
    refine ⟨(exec_lpatch_status hg hn hps).1, fun h0 off w hf => ?_⟩
    rw [(exec_lpatch_status hg hn hps).2 h0, State.patch_eq hf]
    intro hsel
    rw [s.patchStatus_eq, h0] at hps
    by_contra hbig
    rw [if_pos (show sel = 1 ∧ 2 ^ 32 ≤ (s.val b).toNat from ⟨hsel, Nat.not_lt.mp hbig⟩)] at hps
    split_ifs at hps
  · have has : s.armStatus (s.val a) s.curCore.ctx.toNat = st := by
      rw [s.armStatus_eq]; split_ifs at hst ⊢ <;> exact hst.symm
    refine ⟨fun h0 => ?_, fun h0 r hr hdone ht => ?_, fun h0 r hr hdone ht u home hread bind q hbind hq => ?_⟩
    · rw [exec_larm hg, larmEff_refused hn (by rw [has]; exact h0), has]; rfl
    · rw [exec_larm hg, larmEff_empty hn (has.trans h0) hr hdone ht]; rfl
    · subst hbind hq
      exact exec_larm_go hg hn (has.trans h0) hr hdone ht hread
  · have hrs : s.reuseStatus (s.val a).toNat s.curCore.ctx.toNat = st := by
      rw [State.reuseStatus]; split_ifs at hst ⊢ <;> exact hst.symm
    refine ⟨fun h0 w hw => ?_, fun h0 u r hr => ⟨fun k c hbad w hw => ?_, fun k hok => ⟨fun hi w hw => ?_, fun i ps t v bs hy32 hi hacc hload => ?_⟩⟩⟩
    · rw [exec_rchk hg, rchkEff_status hrs h0, statusWord_eq (hrs ▸ s.reuseStatus_lt ..) hw]; rfl
    · exact exec_rchk_bad hg hn (hrs.trans h0) (hbad ▸ hr) hw
    · exact exec_rchk_tile hg hn (hrs.trans h0) (hok ▸ hr) hi hw
    · rw [exec_rchk_entry hg hn (hrs.trans h0) (hok ▸ hr) hy32 hi hacc hload]
      refine ⟨fun hb w hw => ?_, fun hb => ?_⟩
      · rw [hb, ← BitVec.eq_of_toNat_eq ((mkWord_low _ 48 (by omega)).trans hw.symm)]; rfl
      · rw [if_pos (bne_iff_ne.mpr hb)]; rfl
  · have hf : s.RinvFrom r h d a b := ⟨exec_rinv hg hr (hr ▸ (cur_inert s.cur).releaseAt rfl) hdone, hrn⟩
    have hrs : r.reuseStatus (s.val a).toNat r.curCore.ctx.toNat = st := by
      rw [State.reuseStatus]; split_ifs at hst ⊢ <;> exact hst.symm
    refine ⟨fun h0 w hw => ?_, fun h0 u z hz => ⟨fun k c hbad w hw => ?_, fun k hok => ⟨fun hne hi w hw => ?_, fun is ps t his hacc => ?_⟩⟩⟩
    · rw [hf.run, rinvThen, State.reuseSteps_fail hrs h0, statusWord_eq (hrs ▸ r.reuseStatus_lt ..) hw]; rfl
    · exact hf.bad (hrs.trans h0) (hbad ▸ hz) hw
    · exact hf.tile (hrs.trans h0) (hok ▸ hz) hne hi hw
    · exact hf.entries (hrs.trans h0) (hok ▸ hz) his hacc

end Sys2Proof.Machine
end

section
/-! SUPPORT. The same for the walks and checks of an access, the caches and write paths, and what is performed at a home
(11 R206 to R217, 12 R225, R233 to R242, 13 R245 to R256). -/

namespace Sys2Proof.Machine

/-- A predicate that what an access of memory does to the package keeps: reads at home, the event of a multi-hit, and what its core
caches of translations and of buffer entries. -/
structure Visited (I : State → Prop) : Prop where
  post : ∀ {s : State} {i : EvInfo}, I s → I (s.post i)
  read : ∀ {s : State} {kid : Nat} {keys : List Nat}, I s → I (s.homeRead kid keys).1
  cache : ∀ {s : State} {c : Nat} {f : Core → Core}, (∀ k, ∃ x y, f k = { k with tlb := x, bufc := y }) → I s → I (s.modCore c f)

theorem Inert.ite_fst {I : State → Prop} {α : Type} {x : State} {a : α} {y : State × α} {P : Prop} [Decidable P] (hx : I x)
    (hy : I y.1) : I (if P then (x, a) else y).1 := by
  split
  · exact hx
  · exact hy

namespace Visited

section
variable {I : State → Prop} (hI : Visited I) {s : State}
include hI

theorem xlate {w : Who} {va : Nat} (h : I s) : I (s.xlate w va).1 := by
  unfold State.xlate
  refine Inert.ite_fst h (Inert.ite_fst h ?_)
  extract_lets hits
  cases smallest hits with
  | some t => exact Inert.ite (hI.post h) h
  | none =>
    cases s.walk va 5 0 w.ptroot with
    | some l => exact hI.cache (fun k => ⟨_, k.bufc, rfl⟩) h
    | none => exact h

theorem locate {w : Who} {l i : Nat} {n : Need} {va : Nat} (h : I s) : I (s.locate w l i n va).1 := by
  have hx := hI.xlate (w := w) (va := va) h
  unfold State.locate
  generalize s.xlate w va = p at hx ⊢
  obtain ⟨u, r⟩ := p
  cases r <;> exact hx

theorem bufEntry {w : Who} {n : Nat} (h : I s) : I (s.bufEntry w n).1 := by
  unfold State.bufEntry
  dsimp only
  split
  · exact h
  · have hl := hI.locate (w := w) (l := 0) (i := 3) (n := .read) (va := w.btbase + 32 * n) h
    generalize s.locate w 0 3 .read (w.btbase + 32 * n) = p at hl ⊢
    obtain ⟨u, r⟩ := p
    cases r with
    | error f => exact hl
    | ok x => exact Inert.ite (hI.cache (fun k => ⟨k.tlb, _, rfl⟩) (hI.read hl)) (hI.read hl)

theorem buffer {w : Who} {n : Nat} {need : Need} (h : I s) : I (s.buffer w n need).1 := by
  unfold State.buffer
  refine Inert.ite_fst h (Inert.ite_fst h (Inert.ite_fst h ?_))
  have hb := hI.bufEntry (w := w) (n := n) h
  generalize s.bufEntry w n = p at hb ⊢
  obtain ⟨u, r⟩ := p
  cases r <;> exact hb

theorem placeView {w : Who} {d : Desc} {need : Need} {bs : List Nat} (h : I s) : I (s.placeView w d need bs).1 := by
  induction bs generalizing s with
  | nil => exact h
  | cons b bs ih =>
    have h0 := hI.locate (w := w) (l := d.layer) (i := d.ilv) (n := need) (va := d.base + d.nibAt (2 * b) / 2) h
    rw [State.placeView]
    dsimp only
    generalize s.locate w d.layer d.ilv need (d.base + d.nibAt (2 * b) / 2) = p at h0 ⊢
    obtain ⟨u, r0⟩ := p
    cases r0 with
    | error f => exact h0
    | ok x =>
      have h1 := hI.locate (w := w) (l := d.layer) (i := d.ilv) (n := need) (va := d.base + d.nibAt (2 * b + 1) / 2) h0
      dsimp only
      generalize u.locate w d.layer d.ilv need (d.base + d.nibAt (2 * b + 1) / 2) = q at h1 ⊢
      obtain ⟨v, r1⟩ := q
      cases r1 with
      | error f => exact h1
      | ok y =>
        have h2 := ih h1
        dsimp only
        generalize State.placeView v w d need bs = z at h2 ⊢
        obtain ⟨x, rest⟩ := z
        cases rest <;> exact h2

theorem element {w : Who} {d : Desc} {f : Form} {off : Int} (h : I s) : I (s.element w d f off).1 := by
  unfold State.element
  exact Inert.ite_fst h (Inert.ite_fst h (Inert.ite_fst h (Inert.ite_fst (hI.locate h) (hI.placeView h))))

theorem elements {w : Who} {d : Desc} {f : Form} {os : List Int} (h : I s) : I (s.elements w d f os).1 := by
  induction os generalizing s with
  | nil => exact h
  | cons o os ih => exact ih (hI.element h)

theorem access {w : Who} {buf : Nat} {f : Form} {offs : List Int} (h : I s) : I (s.access w buf f offs).1 := by
  have hb := hI.buffer (w := w) (n := buf) (need := f.need) h
  unfold State.access
  generalize s.buffer w buf f.need = p at hb ⊢
  obtain ⟨u, r⟩ := p
  cases r with
  | error e => exact hb
  | ok d =>
    have he := hI.elements (w := w) (d := d) (f := f) (os := offs) hb
    dsimp only at he ⊢
    split <;> exact he

theorem code {c buf off n : Nat} (h : I s) : I (s.code c buf off n).1 := by
  have ha := hI.access (w := s.whoEng c) (buf := buf) (f := { need := .exec, es := 4, align := 4 })
    (offs := (List.range n).map (fun i => ((off + 4 * i : Nat) : Int))) h
  unfold State.code State.codeBy
  generalize s.access _ buf { need := .exec, es := 4, align := 4 } ((List.range n).map (fun i => ((off + 4 * i : Nat) : Int))) = p at ha ⊢
  obtain ⟨u, r⟩ := p
  cases r with
  | error x => exact ha
  | ok es => exact hI.read (kid := (s.whoEng c).kid.getD 0) ha

end
end Visited

namespace Inert

section
variable {I : State → Prop} (hI : Inert I) {s : State}
include hI


omit hI in
theorem ite_pair {α : Type} {x y : State} {a b : α} {P : Prop} [Decidable P] (hx : I x) (hy : I y) :
    I (if P then (x, a) else (y, b)).1 := by
  split
  · exact hx
  · exact hy

theorem modEng {c : Nat} {e : Eng} {f : Engine → Engine} (h : I s) : I (s.modEng c e f) := hI.of_eq h rfl
theorem setEng {c : Nat} {e : Eng} {g : Engine} (h : I s) : I (s.setEng c e g) := hI.of_eq h rfl
theorem modCur {f : Engine → Engine} (h : I s) : I (s.modCur f) := hI.of_eq h rfl
theorem waitOn {c : Nat} {e : Eng} {r : BitVec 8} (h : I s) : I (s.waitOn c e r) := hI.of_eq h rfl

theorem drainEvents {n : Nat} (h : I s) : I (s.drainEvents n) := by
  induction n generalizing s with
  | zero => exact h
  | succ n ih =>
    unfold State.drainEvents
    split
    · exact h
    · exact Inert.ite (ih (hI.writeEvent (hI.of_eq h rfl))) h

-- reads and writes at home

theorem homeRead {kid : Nat} {keys : List Nat} (h : I s) : I (s.homeRead kid keys).1 := hI.reach h
theorem homeWrite {kid : Nat} {cells : List (Nat × Byte)} (h : I s) : I (s.homeWrite kid cells) := hI.putHome (hI.reach h)
theorem homeWord {kid key : Nat} (h : I s) : I (s.homeWord kid key).1 := hI.reach h

-- traps

theorem land {c : Nat} {e : Eng} (h : I s) : I (s.land c e) :=
  Inert.ite h (Inert.foldl _ (fun _ _ => hI.wake) (hI.setMem (landCells_wf _) (hI.modCore h)))
theorem deliver {c : Nat} {e : Eng} {cause : Nat} {v : Word} {code : Nat} {page : Bool} (h : I s) : I (s.deliver c e cause v code page) :=
  hI.waitOn (hI.modTask h)

theorem pageFault {c : Nat} {e : Eng} {v : Word} {b o k : Nat} (h : I s) : I (s.pageFault c e v b o k) := by
  unfold State.pageFault
  dsimp only
  split
  · exact hI.post h
  · split
    · exact hI.waitOn (hI.modEng (hI.modGang (hI.modInfo (hI.post h))))
    · exact hI.deliver (hI.modInfo (hI.post h))

theorem takeTrap {c : Nat} {e : Eng} {cause : Nat} {v : Word} {pc : BitVec 16} {b o k : Nat} (h : I s) :
    I (s.takeTrap c e cause v pc b o k) := by
  have hl := hI.modCore (c := c) (f := fun k => k.dropResv e) (hI.land (c := c) (e := e) h)
  unfold State.takeTrap
  refine Inert.ite (hI.deliver (hI.setEng hl)) (Inert.ite (hI.pageFault (hI.setEng hl)) ?_)
  split
  · exact hI.setEng (hI.setEng hl)
  · exact hI.deliver (hI.setEng hl)

-- translation and checks

theorem visited : Visited I where
  post h := hI.post h
  read h := hI.homeRead h
  cache _ h := hI.modCore h

theorem access {w : Who} {buf : Nat} {f : Form} {offs : List Int} (h : I s) : I (s.access w buf f offs).1 := hI.visited.access h

-- what is read ahead

theorem passAhead {c : Nat} {e : Eng} {ws : List Nat} (h : I s) : I (s.passAhead c e ws) := hI.mapAhead h
theorem soAhead {c : Nat} {e : Eng} {ls : List Nat} (h : I s) : I (s.soAhead c e ls) := hI.mapAhead h
theorem syncAhead {c : Nat} {e : Eng} (h : I s) : I (s.syncAhead c e) := hI.mapAhead h
theorem releaseAhead {c : Nat} {e : Eng} {r : Nat} {m : BitVec 4} (h : I s) : I (s.releaseAhead c e r m) := hI.mapAllAhead h
theorem agentAhead (h : I s) : I s.agentAhead := hI.mapAllAhead h
theorem acquireAhead {c : Nat} {e : Eng} {r : Nat} {m : BitVec 4} (h : I s) : I (s.acquireAhead c e r m) := hI.mapAhead h
theorem flipAhead {c : Nat} {e : Eng} {k n : Nat} (h : I s) : I (s.flipAhead c e k n) := hI.mapAhead h
theorem creditAhead {k n : Nat} {ws : List Nat} (h : I s) : I (s.creditAhead k n ws) := hI.mapAllAhead h
theorem creditAllAhead {k n : Nat} {near : Nat → Bool} (h : I s) : I (s.creditAllAhead k n near) := hI.mapAllAhead h
theorem dropAhead {u : Nat} (h : I s) : I (s.dropAhead u) := hI.mapAllAhead h
theorem afterLoad {c : Nat} {ps : List Place} (h : I s) : I (s.afterLoad c ps) :=
  Inert.ite h (hI.modCur (hI.soAhead (hI.mapAhead h)))
theorem afterStore {c : Nat} {e : Eng} {ps : List Place} (h : I s) : I (s.afterStore c e ps) := Inert.ite h (hI.soAhead (hI.passAhead h))
theorem refused {c : Nat} {ps : List Place} (h : I s) : I (s.refused c ps) := Inert.ite h (hI.modCur (hI.mapAhead h))

-- acquires, fences, what other cores lent

theorem ownFirst {c : Nat} {ls : List Nat} (h : I s) : I (s.ownFirst c ls) := Inert.ite (hI.drain h) h
theorem synced {c r : Nat} (h : I s) : I (s.synced c r) :=
  Inert.foldl _ (fun _ _ ht => Inert.ite ht (Inert.ite ht (hI.modCore ht))) h
theorem acquireL1 {c r : Nat} (h : I s) : I (s.acquireL1 c r) := Inert.ite (hI.synced (hI.modCore h)) h
theorem acquireAt {c : Nat} {e : Eng} {r : Nat} {m : BitVec 4} (h : I s) : I (s.acquireAt c e r m) := hI.acquireAhead (hI.acquireL1 h)

theorem fenced {c : Nat} {e : Eng} {r : Nat} {m : BitVec 4} (h : I s) : I (s.fenced c e r m) := by
  unfold State.fenced
  exact Inert.ite (hI.modCore (hI.acquireAt h)) (hI.acquireAt h)

theorem lentBy {near : Nat → Nat} {ls : List Nat} (h : I s) : I (s.lentBy near ls) := by
  refine Inert.foldl _ (fun t x ht => Inert.ite ht ?_) h
  have own (ys : List (Nat × Line)) : I (ys.foldl (fun s y => if s.lineHeld x.1 y.1 || s.lineStuck x.1 y.1 then s else s.dropLine x.1 y.1) t) :=
    Inert.foldl _ (fun _ _ hu => Inert.ite hu (hI.dropLine hu)) ht
  exact Inert.ite (hI.drain (own _)) (own _)

theorem lent {c : Nat} {ls : List Nat} (h : I s) : I (s.lent c ls) := hI.lentBy h

-- the L1

theorem roomFor {c line : Nat} (h : I s) : I (s.roomFor c line) := by
  unfold State.roomFor
  have hu : I (if ((s.core c).inSet line).all (fun x => x.2.pinned) then s.modCore c Core.unpin else s) := Inert.ite (hI.modCore h) h
  refine Inert.ite h ?_
  dsimp only
  split
  · exact hI.dropLine hu
  · split
    · exact hI.dropLine (hI.perform hu)
    · exact hI.perform hu

theorem fill {c kid line : Nat} (h : I s) : I (s.fill c kid line) := by
  unfold State.fill
  exact Inert.ite h (hI.modCore (hI.reach (hI.roomFor h)))

theorem refetch {c line : Nat} (h : I s) : I (s.refetch c line) := by
  unfold State.refetch
  split
  · exact h
  · exact Inert.ite (hI.modCore h) (Inert.ite (hI.modCore (hI.reach h)) h)

theorem unalias {c : Nat} {ls : List Nat} (h : I s) : I (s.unalias c ls) := Inert.foldl _ (fun _ _ ht => Inert.ite (hI.dropLine ht) ht) h

theorem landWhere {c : Nat} {p : Eng → Nat → Bool} (h : I s) : I (s.landWhere c p) := by
  unfold State.landWhere
  exact Inert.ite h (hI.modCore (Inert.foldl _ (fun _ _ => hI.wake) (hI.setMem (landCells_wf _) h)))

theorem landLine {c line : Nat} (h : I s) : I (s.landLine c line) := hI.landWhere h
theorem storeLoc {c : Nat} {cells : List Cell} (h : I s) : I (s.storeLoc c cells) := Inert.ite (hI.modCore (hI.reach h)) (hI.homeMasked h)

theorem prepare {c kid : Nat} {ps : List Place} (h : I s) : I (s.prepare c kid ps) :=
  hI.reach (Inert.foldl _ (fun _ _ ht => hI.fill (hI.refetch ht)) (hI.ownFirst (hI.unalias (hI.lent h))))

theorem loadPlaces {c kid : Nat} {ps : List Place} (h : I s) : I (s.loadPlaces c kid ps).1 := hI.afterLoad (hI.prepare h)

theorem storeUnit {c kid : Nat} {pin : Bool} {cs : List Cell} (h : I s) : I (s.storeUnit c kid pin cs) := by
  unfold State.storeUnit
  exact hI.modCore (hI.fill h)

theorem storePlaces {c kid grain : Nat} {xs : List (Place × Byte × Byte)} {pin : Bool} (h : I s) : I (s.storePlaces c kid grain xs pin) := by
  unfold State.storePlaces
  extract_lets cells s1 now s2 inL1 lines stored s3 out lines' full layer s4
  have h1 : I s1 := hI.modCore h
  have h2 : I s2 := Inert.ite h1 (hI.storeLoc h1)
  have h3 : I s3 := Inert.ite h2 (hI.modCore (Inert.foldl _ (fun _ _ => hI.storeUnit) (hI.ownFirst (hI.lent h2))))
  have h4 : I s4 := Inert.ite h3 (hI.modCore (hI.unalias (hI.lent h3)))
  exact hI.afterStore h4

-- atomics and barrier objects

theorem toHome {c line : Nat} (h : I s) : I (s.toHome c line) := hI.ownFirst (hI.unalias (hI.lent (hI.landLine h)))

theorem reduce {kid key : Nat} {op : AmoOp} {t : Ty} {x : Word} {by_ : Option Giver} (h : I s) : I (s.reduce kid key op t x by_).1 := by
  unfold State.reduce
  extract_lets line ty n joins u old b got
  have hu : I u := Inert.ite h (hI.reach h)
  exact Inert.ite_pair (hI.putHome hu) (hI.of_eq hu rfl)

theorem atomic {c kid key : Nat} {op : AmoOp} {t : Ty} {x : Word} {by_ : Option Giver} (h : I s) : I (s.atomic c kid key op t x by_).1 := by
  unfold State.atomic
  extract_lets u bad
  have hu : I u := hI.rebuild (hI.toHome h)
  refine Inert.ite_fst (hI.reach hu) ?_
  split
  · exact hI.putHome (hI.reach hu)
  · exact hI.reduce hu

theorem compareSwap {c kid key n x y : Nat} (h : I s) : I (s.compareSwap c kid key n x y).1 := by
  unfold State.compareSwap
  extract_lets u bad
  have hu : I u := hI.reach (hI.toHome h)
  exact Inert.ite_pair hu (Inert.ite (hI.putHome hu) hu)

theorem boPut {kid key : Nat} {b : BoVal} (h : I s) : I (s.boPut kid key b) := hI.putHome h

theorem boOp {kid key : Nat} {i : EvInfo} {buf off : Nat} {f : BoVal → BoVal} (h : I s) : I (s.boOp kid key i buf off f) := by
  unfold State.boOp
  exact Inert.ite (hI.memErr (hI.reach h)) (hI.boPut (hI.reach h))

theorem boKey {w : Who} {buf off : Nat} {need : Need} (h : I s) : I (s.boKey w buf off need).1 := by
  have ha := hI.access (w := w) (buf := buf) (f := boForm need) (offs := [(off : Int)]) h
  unfold State.boKey
  generalize s.access w buf (boForm need) [(off : Int)] = p at ha ⊢
  obtain ⟨u, r⟩ := p
  cases r <;> exact ha

theorem creditBy {w : Who} {source buf off : Nat} {amount : BoVal → Nat} {i : EvInfo} {tag : Word} (h : I s) :
    I (s.creditBy w source buf off amount i tag).1 := by
  unfold State.creditBy
  refine Inert.ite_fst h ?_
  have hk := hI.boKey (w := w) (buf := buf) (off := off) (need := .atomic false) h
  generalize s.boKey w buf off (.atomic false) = p at hk ⊢
  obtain ⟨u, r⟩ := p
  have hk : I u := hk
  cases r with
  | ok key =>
    have hl : I (if source == 3 then u.lentBy (quadNear w.core) [lineOf key] else u) := Inert.ite (hI.lentBy hk) hk
    exact Inert.ite_pair hk (hI.boOp (Inert.ite hl (hI.creditAllAhead (hI.reach hl))))
  | error f => exact Inert.ite_pair (hI.post hk) (hI.post hk)

theorem agentCredit {w : Who} {source buf off n : Nat} {i : EvInfo} {tag : Word} (h : I s) :
    I (s.agentCredit w source buf off n i tag).1 := hI.creditBy h

end

end Inert

end Sys2Proof.Machine
end

section
/-! Settled: the acceptance of commands and their status (16 R287, R295). -/

namespace Sys2Proof.Machine

theorem Inert.beforeRel {I : State → Prop} (hI : Inert I) {s : State} {o : Order} {ps : List Place} (h : I s) : I (s.beforeRel o ps) := by
  unfold State.beforeRel
  split
  · exact hI.releaseAt h
  · exact h

theorem Inert.beforeAcq {I : State → Prop} (hI : Inert I) {s : State} {o : Order} {ps : List Place} (h : I s) : I (s.beforeAcq o ps) := by
  unfold State.beforeAcq
  split
  · exact hI.acquireAt h
  · exact h

/-- What an access that nothing holds back does before it is performed. -/
theorem Inert.ordered {I : State → Prop} (hI : Inert I) {s t : State} {o : Order} {home store : Bool} {ps : List Place}
    (hs : s.Ordered o home store ps t) (h : I s) : I t := by
  obtain ⟨-, -, rfl, -⟩ := hs
  exact Inert.ite (hI.drain (hI.beforeAcq (hI.beforeRel h))) (hI.beforeAcq (hI.beforeRel h))

theorem Inert.accesses {I : State → Prop} (hI : Inert I) {s t : State} {o : Order} {buf : Nat} {f : Form} {offs : List Int} {home : Bool}
    {ps : List (List Place)} (hs : s.Accesses o buf f offs home ps t) (h : I s) : I t :=
  hI.ordered hs.2.2 (hI.access h)

-- the tag

/-- The lowest command slot that is FREE, DONE or ABORTED. -/
theorem freeTag_lowest {cmds : Store CmdSlot} {tag : Nat} (ht : tag < 64) (hfree : ∀ z, cmds.find? tag = some z → z.st = 0 ∨ z.st = 5 ∨ z.st = 6)
    (hbelow : ∀ k, k < tag → ∃ z, cmds.find? k = some z ∧ z.st ≠ 0 ∧ z.st ≠ 5 ∧ z.st ≠ 6) : freeTag cmds 0 = some tag := by
  rw [freeTag, List.drop_zero, List.head?_filter, List.find?_range_eq_some]
  refine ⟨?_, List.mem_range.mpr ht, fun k hk => ?_⟩
  · cases hz : cmds.find? tag with
    | none => rfl
    | some z =>
      obtain h | h | h := hfree z hz <;> simp [h, csFree, csDone, csAborted]
  · obtain ⟨z, hz, h0, h5, h6⟩ := hbelow k hk
    rw [hz]
    simp [h0, h5, h6, csFree, csDone, csAborted]

-- acceptance

/-- A command that passes step 3, for a task that has a free tag and a queue that has room. -/
theorem acceptEff_ready {was s u : State} {kind : Nat} {d : SDst} {ops : List Word} {bo : BoRef} {desc desc' : List Word} {t : RunTask} {tag : Nat}
    (hheld : s.rangesHeld s.whoCur (cmdRanges kind ops desc (boRefWord bo)) = false)
    (hplan : s.planCmd s.whoCur s.cur.1 kind ops (boRefWord bo) desc s.memberNo = (u, .ready desc'))
    (ht : was.curCore.task = some t) (htag : freeTag ((was.info t.slot).map TaskInfo.cmds |>.getD []) 0 = some tag)
    (hroom : was.queueRoom s.cur.1 kind 0 = true) (hswap : u.swapping s.cur.1 kind ops = false) :
    acceptEff was kind d ops bo desc s = giveScalar d (.clean (BitVec.ofNat 64 tag)) (u.accept s.cur.1 t tag kind ops (boRefWord bo) desc') := by
  unfold acceptEff
  simp only [hheld, Bool.false_eq_true, if_false, hplan, ht, htag, hroom, hswap, Bool.not_true, Bool.or_false]
  rfl

/-- Only a fill waits for a swap. -/
theorem State.swapping_other (s : State) (c : Nat) {kind : Nat} (ops : List Word) (h : kind ≠ kFill) : s.swapping c kind ops = false := by
  simp [State.swapping, h]

theorem State.memberNo_of {s : State} {g : Grp} (h : s.curEng.grp = some g) : s.memberNo = g.idx := by
  rw [State.memberNo, h]; rfl

theorem State.accept_slot {s : State} {c tag kind : Nat} {t : RunTask} {x : TaskInfo} {ops desc : List Word} {bo : Word}
    (hx : s.info t.slot = some x) : ∃ y z, (s.accept c t tag kind ops bo desc).info t.slot = some y ∧ y.cmds.find? tag = some z ∧
      z.st = 1 ∧ z.kind = kind ∧ z.err = 0 ∧ z.doneb = 0 := by
  have slot (u : State) (n : Nat) (hu : u.info t.slot = some x) :
      ∃ y z, (u.setSlot t.slot tag { st := csQueued, kind := kind, err := 0, doneb := 0, cmd := n }).info t.slot = some y ∧
        y.cmds.find? tag = some z ∧ z.st = 1 ∧ z.kind = kind ∧ z.err = 0 ∧ z.doneb = 0 := by
    refine ⟨{ x with cmds := x.cmds.put tag { st := csQueued, kind := kind, err := 0, doneb := 0, cmd := n } }, _, ?_,
      (Store.find?_put ..).trans (if_pos rfl), rfl, rfl, rfl, rfl⟩
    rw [State.setSlot, State.modInfo, hu]
    exact (Store.find?_put ..).trans (if_pos rfl)
  unfold State.accept
  split
  · exact slot s _ hx
  · exact slot (s.modCore c _) _ hx

-- ASTAT

theorem exec_astat {s : State} {h : Hdr} {g : Grp} {d : SDst} {a : SSrc} {t : RunTask} {x : TaskInfo} (hg : s.curEng.grp = some g)
    (ht : s.curCore.task = some t) (hx : s.info t.slot = some x) : exec (.astat h d a) s = .next (s.wrote h d
      (((x.cmds.find? (s.val a).toNat).map (fun y => y.word (((s.gangOf s.cur.1).map Gang.stall).getD false && !s.midway y))).getD 0) 0) := by
  change execAstat h d a s = _
  rw [execAstat, performWord_member hg, astatEff, ht, Option.bind_some, hx]
  rfl

/-- The status word of a slot (R295). -/
theorem CmdSlot.word_toNat {z : CmdSlot} {stall : Bool} {st : Nat} (hst : st = if stall = true ∧ (z.st = 1 ∨ z.st = 2) then 3 else z.st)
    (h1 : z.st < 8) (h2 : z.kind < 32) (h3 : z.err < 256) (h4 : z.doneb < 2 ^ 48) :
    (z.word stall).toNat = st * 2 ^ 61 + z.kind * 2 ^ 56 + z.err * 2 ^ 48 + z.doneb := by
  have hcode : (if stall && (z.st == csQueued || z.st == csActive) then csHeld else z.st) = st := by
    rw [hst]
    simp only [csQueued, csActive, csHeld, Bool.and_eq_true, Bool.or_eq_true, beq_iff_eq]
  have hlt : st < 8 := by rw [hst]; split <;> omega
  rw [CmdSlot.word, hcode]
  obtain ⟨e2, l2⟩ := mkWord_two (lo := 48) (n := 8) (m := 48) (v := z.err) h4 (le_refl _) h3 (by omega)
  obtain ⟨e3, l3⟩ := mkWord_cons (lo := 56) (n := 5) (v := z.kind) l2 (by omega)
  obtain ⟨e4, -⟩ := mkWord_cons (lo := 61) (n := 3) (v := st) l3 (by omega)
  rw [e4, e3, e2, Nat.mod_eq_of_lt (show st < 2 ^ 3 from hlt), Nat.mod_eq_of_lt (show z.kind < 2 ^ 5 from h2)]
  ring

-- the row commands

/-- A row command whose descriptor is read without poison and is one that can be (R291). -/
theorem rowsEff_of {s v r w : State} {kind : Nat} {d : SDst} {a : Word} {bo : BoRef} {ps : List (List Place)} {bs : List (Byte × BitVec 4)}
    {ws : List Word} (hacc : s.Accesses .none (bitsOf a 0 16) { need := .read, es := 32, align := 32, noView := true }
      [(bitsOf a 16 48 : Int)] false ps v) (hr : r = v.prepare s.cur.1 s.curKid ps.flatten) (hw : w = r.afterLoad s.cur.1 ps.flatten)
    (hbs : bs = ps.flatten.map (r.loadByte s.cur.1 s.curKid)) (hgood : firstBad bs = 0)
    (hws : ws = (List.range 4).map (fun i => leWord (((bs.drop (8 * i)).take 8).map (fun b => b.1))))
    (hrow : rowBad w w.cur.1 (RowDesc.of ws) = false) (halign : refOff (RowDesc.of ws).idx % 4 = 0) :
    rowsEff kind d [a] bo s = acceptEff s kind d [a] bo ws w := by
  have hflat : (ps.map (fun e => e.map (r.loadByte s.cur.1 s.curKid))).flatten = bs := by rw [hbs, ← List.map_flatten]
  have hjudge : w.judgeRows w.cur.1 w.memberNo ws = .ready ws := by
    rw [State.judgeRows, hrow, halign]; rfl
  rw [rowsEff]
  refine (loadEff_of hacc _).trans ?_
  dsimp only
  rw [← hr, hflat, hgood, ← hws]
  rw [show (r.sawFlip .none ps.flatten).afterLoad s.cur.1 ps.flatten = w from hw ▸ rfl, hjudge]
  rfl

/-- Settles O43: acceptance, the slot of an accepted command, and ASTAT. -/
theorem asyncWords : Obligations.AsyncWords := by
  unfold Obligations.AsyncWords
  refine ⟨fun s h g d a b c bo t x tag hg ht hx htag hfree hbelow => ?_, fun s c tag kind t x ops desc bo hx => State.accept_slot hx,
    fun s h g d a t x hg ht hx => ⟨fun hz => ?_, fun z hz h1 h2 h3 h4 stall st hstall hst w hw => ?_⟩⟩
  · have htagged : freeTag ((s.info t.slot).map TaskInfo.cmds |>.getD []) 0 = some tag := by
      rw [hx]; exact freeTag_lowest htag hfree hbelow
    refine ⟨fun i kind ops hi hroom hheld u hplan hswap => ?_,
      fun i kind hi hroom ps v hacc r w bs hr hw hbs hgood ws hws hrow halign hheld u hplan => ?_⟩
    · have hrun := acceptEff_ready (d := d) hheld (by rw [State.memberNo_of hg]; exact hplan) ht htagged hroom hswap
      obtain ⟨rfl, rfl, rfl⟩ | ⟨rfl, rfl, rfl⟩ | ⟨rfl, rfl, rfl⟩ | ⟨rfl, rfl, rfl⟩ := hi
      · change execAcpy h d a b c bo s = _
        rw [execAcpy, performWord_member hg]
        exact congrArg (fun e => Host.Outcome.next (State.settle h e)) hrun
      · change execAfill h d a b c bo s = _
        rw [execAfill, performWord_member hg]
        exact congrArg (fun e => Host.Outcome.next (State.settle h e)) hrun
      · change execAferry h d a b c bo s = _
        rw [execAferry, performWord_member hg]
        exact congrArg (fun e => Host.Outcome.next (State.settle h e)) hrun
      · change execAcoll h d a b bo s = _
        rw [execAcoll, performWord_member hg]
        exact congrArg (fun e => Host.Outcome.next (State.settle h e)) hrun
    · have hcur : w.cur = s.cur := by
        rw [hw, hr]
        exact (cur_inert s.cur).afterLoad ((cur_inert s.cur).prepare ((cur_inert s.cur).accesses hacc rfl))
      have hrun : rowsEff kind d [s.val a] bo s = giveScalar d (.clean (BitVec.ofNat 64 tag))
          (u.accept w.cur.1 t tag kind [s.val a] (boRefWord bo) ws) := by
        rw [rowsEff_of hacc hr hw hbs hgood hws hrow halign]
        refine acceptEff_ready hheld hplan ht htagged (by rw [hcur]; exact hroom) (u.swapping_other _ _ ?_)
        obtain ⟨-, rfl⟩ | ⟨-, rfl⟩ := hi <;> decide
      obtain ⟨rfl, rfl⟩ | ⟨rfl, rfl⟩ := hi
      · change execAgath h d a bo s = _
        rw [execAgath, performWord_member hg]
        exact congrArg (fun e => Host.Outcome.next (State.settle h e)) hrun
      · change execAscat h d a bo s = _
        rw [execAscat, performWord_member hg]
        exact congrArg (fun e => Host.Outcome.next (State.settle h e)) hrun
  · rw [exec_astat hg ht hx, hz]; rfl
  · rw [exec_astat hg ht hx, hz, Option.map_some, Option.getD_some, ← hstall,
      BitVec.eq_of_toNat_eq ((CmdSlot.word_toNat hst h1 h2 h3 h4).trans hw.symm)]

end Sys2Proof.Machine
end

section
/-! Settled: the matrix words (09 R156 to R164). -/

namespace Sys2Proof.Machine

-- fetches from a weight bank

theorem State.bankOff_add (s : State) (c layer off i : Nat) : s.bankOff c layer (off + i) = s.bankOff c layer off + i := by
  simp only [State.bankOff, Nat.add_assoc]

/-- A part of what can be fetched can be. -/
theorem State.bankClear.part {s : State} {c layer off n : Nat} (h : s.bankClear c layer off n) {i m : Nat} (hm : i + m ≤ n) :
    s.bankClear c layer (off + i) m := by
  intro j k hj hk
  refine h (i + j) k (by omega) ?_
  rw [hk, s.bankOff_add, Nat.add_assoc]

theorem State.bankHeld_clear {s : State} {c layer off n : Nat} (h : s.bankClear c layer off n) : s.bankHeld c layer off n = false := by
  rw [State.bankHeld, List.any_eq_false]
  intro x hx
  rw [State.bankKeys, List.map_map, List.mem_map] at hx
  obtain ⟨i, hi, rfl⟩ := hx
  rw [Function.comp_apply, (h i _ (List.mem_range.mp hi) rfl).2.2]
  decide

/-- What can be fetched is fetched. -/
theorem State.fetchBank_clear {s : State} {c layer off n : Nat} (h : s.bankClear c layer off n) :
    s.fetchBank c layer off n = .bytes ((List.range n).map (s.bankByte c layer off)) := by
  have hserved : (runs ((s.bankKeys c layer off n).map (fun k => k / 65536))).find? s.stor.unserved.contains = none := by
    rw [List.find?_eq_none]
    intro u hu
    obtain ⟨k, hk, rfl⟩ := List.mem_map.mp (mem_runs.mp hu)
    obtain ⟨i, hi, rfl⟩ := List.mem_map.mp hk
    rw [(h i _ (List.mem_range.mp hi) rfl).1]
    decide
  have hgood : (((s.bankKeys c layer off n).map s.place).zip (List.range n)).find? (fun x => s.badAt x.1 != 0) = none := by
    rw [List.find?_eq_none]
    intro x hx
    obtain ⟨k, hk, he⟩ := List.mem_map.mp (List.of_mem_zip (a := x.1) (b := x.2) hx).1
    obtain ⟨i, hi, rfl⟩ := List.mem_map.mp hk
    rw [← he, (h i _ (List.mem_range.mp hi) rfl).2.1]
    decide
  rw [State.fetchBank, hserved]
  dsimp only
  rw [hgood]
  dsimp only
  rw [State.bankKeys, List.map_map, List.map_map]
  rfl

/-- Block `j` of a tile. -/
def State.bankBlock (s : State) (c layer off size j : Nat) : BitVec 131072 :=
  bitsOfBytes 131072 ((List.range size).map (s.bankByte c layer (off + size * j)))

theorem State.loadBlocks_clear {s : State} {c layer off size : Nat} (n j : Nat) (acc : List (BitVec 131072))
    (h : s.bankClear c layer (off + size * j) (n * size)) :
    s.loadBlocks c layer off size n j acc = (acc ++ (List.range n).map (fun i => s.bankBlock c layer off size (j + i)), none) := by
  induction n generalizing j acc with
  | zero => simp [State.loadBlocks]
  | succ n ih =>
    have hfirst : s.fetchBank c layer (off + size * j) size = .bytes ((List.range size).map (s.bankByte c layer (off + size * j))) :=
      State.fetchBank_clear (h.part (i := 0) (by rw [Nat.succ_mul]; omega))
    have hrest : s.bankClear c layer (off + size * (j + 1)) (n * size) := by
      rw [Nat.mul_succ, ← Nat.add_assoc]
      exact h.part (by rw [Nat.succ_mul]; omega)
    rw [State.loadBlocks, hfirst]
    dsimp only
    rw [ih (j + 1) _ hrest, List.range_succ_eq_map, List.map_cons, List.map_map, List.append_assoc]
    refine congrArg (fun l => (acc ++ l, none)) (congrArg₂ List.cons rfl (List.map_congr_left fun i _ => ?_))
    rw [Function.comp_apply, Nat.succ_eq_add_one, Nat.add_right_comm, Nat.add_assoc j]

-- MMA

theorem mmaRows_mcfg (v : Store VVal) (ac wc bank row0 areg creg blk data scales : Nat) (fresh : Bool) (n i : Nat) (k : Core) (fl : FlagSet) :
    (mmaRows v ac wc bank row0 areg creg blk data scales fresh n i k fl).1.mcfg = k.mcfg := by
  induction n generalizing i k fl with
  | zero => rfl
  | succ n ih =>
    unfold mmaRows
    extract_lets rho bit as ea ebs key cs
    generalize mmaRow wc as data ea ebs cs 256 = p
    rw [ih]

theorem mmaBlock_mcfg (v : Store VVal) (k : Core) (bank : Nat) (b : Word) (areg creg blk data scales : Nat) (fl : FlagSet) :
    (mmaBlock v k bank b areg creg blk data scales fl).1.mcfg = k.mcfg := mmaRows_mcfg ..

/-- A streamed MMA whose blocks can be fetched applies them all. -/
theorem mmaStream_clear {s : State} {v : Store VVal} {c bank : Nat} {b : Word} {areg creg scales : Nat} (n blk : Nat) (k : Core) (fl : FlagSet)
    (h : s.bankClear c (mmaLayer b) (mmaOff b + mBlockBytes (wcode k.mcfg) * blk) (n * mBlockBytes (wcode k.mcfg))) :
    (mmaStream s v c bank b areg creg scales n blk k fl).2.2 = none := by
  induction n generalizing blk k fl with
  | zero => rfl
  | succ n ih =>
    have hfirst := State.fetchBank_clear (h.part (i := 0) (m := mBlockBytes (wcode k.mcfg)) (by rw [Nat.succ_mul]; omega))
    rw [Nat.add_zero] at hfirst
    rw [mmaStream]
    dsimp only
    rw [hfirst]
    refine ih _ _ _ ?_
    have hk : ({ (mmaBlock v k bank b areg creg blk (leNat ((List.range (mBlockBytes (wcode k.mcfg))).map
        (s.bankByte c (mmaLayer b) (mmaOff b + mBlockBytes (wcode k.mcfg) * blk)))) scales fl).1 with mkp := BitVec.ofNat 16 (blk + 1) } : Core).mcfg
        = k.mcfg := mmaBlock_mcfg ..
    rw [hk, Nat.mul_succ, ← Nat.add_assoc]
    exact h.part (by rw [Nat.succ_mul]; omega)

-- the words

theorem exec_mldw {s : State} {h : Hdr} {g : Grp} {a : SSrc} {stamp : BitVec 24} {w : Word} {k : Core} {wc layer off first left : Nat}
    (hg : s.curEng.grp = some g) (hw : w = s.val a) (hk : k = s.curCore) (hwc : wc = wcode k.mcfg)
    (hfirst : first = if g.again then k.mkp.toNat else 0) (hleft : left = mBlocks wc - first) (hlayer : layer = bitsOf w 32 1)
    (hoff : off = bitsOf w 0 22) (hclear : s.bankClear s.cur.1 layer (off + mBlockBytes wc * first) (left * mBlockBytes wc))
    {blocks : List (BitVec 131072)} (hblocks : blocks = (if g.again then k.preload.blocks.take first else []) ++
      (List.range left).map (fun j => s.bankBlock s.cur.1 layer off (mBlockBytes wc) (first + j))) :
    exec (.mldw h a stamp) s = .next ((s.setCore s.cur.1 { k with
        preload := { blocks := blocks, scales := if g.again || !mIsMx wc then k.preload.scales else k.scaleQ.headD 0
                     wcode := BitVec.ofNat 3 wc, valid := true }
        scaleQ := if g.again || !mIsMx wc then k.scaleQ else k.scaleQ.drop 1
        mkp := BitVec.ofNat 16 blocks.length }).flew h none
      (s.flightOf (s.useOf (.mldw h a stamp)) (ceilDiv (left * mBlockBytes wc) 500)
        (ceilDiv (left * mBlockBytes wc) 500 + portDelay s.cur.1) (portDelay s.cur.1) 0 (layerBank layer))) := by
  have hload := State.loadBlocks_clear left first (if g.again then k.preload.blocks.take first else []) hclear
  have hheld := State.bankHeld_clear hclear
  rw [← hblocks] at hload
  change execMldw h a stamp s = _
  rw [execMldw, performWord_member hg]
  refine congrArg (fun e => Host.Outcome.next (State.settle h e)) ?_
  subst hw hk hwc hlayer hoff hleft hfirst
  unfold mldwEff
  dsimp only
  rw [if_neg (by rw [State.val] at hheld; rw [hheld]; decide)]
  rw [State.val] at hload
  rw [hload]
  rfl

theorem exec_mlds {s : State} {h : Hdr} {g : Grp} {a : SSrc} {stamp : BitVec 24} {layer off n : Nat} (hg : s.curEng.grp = some g)
    (hlayer : layer = bitsOf (s.val a) 32 1) (hoff : off = bitsOf (s.val a) 0 22) (hn : n = mBlocks (wcode s.curCore.mcfg) * 256)
    (hclear : s.bankClear s.cur.1 layer off n) :
    exec (.mlds h a stamp) s = .next ((s.setCore s.cur.1 { s.curCore with
        scaleQ := s.curCore.scaleQ ++ [bitsOfBytes 32768 ((List.range n).map (s.bankByte s.cur.1 layer off))], mkp := 0 }).flew h none
      (s.flightOf (s.useOf (.mlds h a stamp)) (ceilDiv n 500) (ceilDiv n 500 + portDelay s.cur.1) (portDelay s.cur.1) 0 (layerBank layer))) := by
  have hheld := State.bankHeld_clear hclear
  have hfetch := State.fetchBank_clear hclear
  change execMlds h a stamp s = _
  rw [execMlds, performWord_member hg]
  refine congrArg (fun e => Host.Outcome.next (State.settle h e)) ?_
  subst hlayer hoff hn
  unfold mldsEff
  dsimp only
  rw [State.val] at hheld hfetch
  rw [if_neg (by rw [hheld]; decide), hfetch]
  rfl

theorem exec_mcfg {s : State} {h : Hdr} {g : Grp} {a : SSrc} {stamp : BitVec 24} {w : Word} {k : Core} {wc : Nat} (hg : s.curEng.grp = some g)
    (hw : w = s.val a) (hk : k = s.curCore) (hwc : wc = wcode k.mcfg) :
    exec (.mcfg h a stamp) s = .next ((s.setCore s.cur.1 (if wcode (w.setWidth 13) = wc then { k with mcfg := w.setWidth 13 }
        else { k with mcfg := w.setWidth 13, active := { k.active with valid := false }, preload := { k.preload with valid := false },
                      scaleQ := [] })).flew h none
      (s.flightOf (s.useOf (.mcfg h a stamp)) 1 1 0 0 0)) := by
  change execMcfg h a stamp s = _
  rw [execMcfg, performWord_member hg]
  subst hw hk hwc
  refine congrArg (fun k' => Host.Outcome.next ((s.setCore s.cur.1 k').flew h none (s.flightOf (s.useOf (.mcfg h a stamp)) 1 1 0 0 0))) ?_
  simp only [beq_iff_eq]
  rfl

/-- Rows that are kept read as before, the others as +0. -/
theorem Store.get_filter {α : Type} (xs : Store α) (p : Nat → Bool) (n : Nat) (z : α) :
    Store.get (xs.filter (fun x => p x.1)) n z = if p n then xs.get n z else z := by
  have hfind : Store.find? (xs.filter (fun x => p x.1)) n = if p n then Store.find? xs n else none := by
    induction xs with
    | nil => simp [Store.find?]
    | cons x xs ih =>
      obtain ⟨j, a⟩ := x
      by_cases hj : j = n
      · subst hj
        by_cases hp : p j = true
        · simp [hp, Store.find?]
        · rw [List.filter_cons, if_neg hp, ih, if_neg hp, if_neg hp]
      · by_cases hp : p j = true
        · rw [List.filter_cons, if_pos hp, Store.find?, if_neg hj, ih, Store.find?, if_neg hj]
        · rw [List.filter_cons, if_neg hp, ih, Store.find?, if_neg hj]
  rw [Store.get, hfind]
  split <;> rfl

theorem exec_mma_plane {s : State} {h : Hdr} {g : Grp} {bank : BitVec 2} {vd : Fin 768} {a : SSrc} {cr : BitVec 10} {stamp : BitVec 24} {k : Core}
    {rows : Nat} (hg : s.curEng.grp = some g) (hk : k = s.curCore) (hstrm : mmaStrm (s.val a) = false)
    (hrows : rows = mmaN (s.val a) * (if mBits (acode k.mcfg) = 16 then 2 else 1)) {r : Core × FlagSet}
    (hr : r = mmaPlane s.seenCore.v bank.toNat (s.val a) vd.val cr.toNat (mBlocks (wcode k.mcfg)) 0 k 0) :
    exec (.mma h bank vd a cr stamp) s = .next ((s.setCore s.cur.1 r.1).flew h none
      { s.flightOf (s.useOf (.mma h bank vd a cr stamp)) rows (rows + 36) 0 r.2 0 with
        redo := some (k.redoOf s.seenCore.v bank.toNat (s.val a) vd.val cr.toNat 0) }) := by
  change execMma h bank vd a cr stamp s = _
  rw [execMma, performWord_member hg]
  refine congrArg (fun e => Host.Outcome.next (State.settle h e)) ?_
  subst hk hrows hr
  rw [State.val] at *
  unfold mmaEff
  dsimp only
  rw [if_neg (by rw [hstrm]; decide)]
  simp only [beq_iff_eq]

theorem exec_mma_stream {s : State} {h : Hdr} {g : Grp} {bank : BitVec 2} {vd : Fin 768} {a : SSrc} {cr : BitVec 10} {stamp : BitVec 24}
    {k k1 k2 : Core} {w : Word} {rows first left wc fetch : Nat} (hg : s.curEng.grp = some g) (hk : k = s.curCore) (hw : w = s.val a)
    (hwc : wc = wcode k.mcfg) (hstrm : mmaStrm w = true) (hrows : rows = mmaN w * (if mBits (acode k.mcfg) = 16 then 2 else 1))
    (hfirst : first = if g.again then k.mkp.toNat else 0) (hleft : left = mBlocks wc - first)
    (hclear : s.bankClear s.cur.1 (mmaLayer w) (mmaOff w + mBlockBytes wc * first) (left * mBlockBytes wc))
    (hk1 : k1 = { k with mkp := BitVec.ofNat 16 first })
    (hk2 : k2 = if g.again || !mIsMx wc then k1 else { k1 with popped := k1.scaleQ.headD 0, scaleQ := k1.scaleQ.drop 1 })
    {r : Core × FlagSet × Option Fetched} (hr : r = mmaStream s s.seenCore.v s.cur.1 bank.toNat w vd.val cr.toNat k2.popped.toNat left first k2 0)
    (hfetch : fetch = ceilDiv (left * mBlockBytes wc) 500) :
    exec (.mma h bank vd a cr stamp) s = .next ((s.setCore s.cur.1 r.1).flew h none
      { s.flightOf (s.useOf (.mma h bank vd a cr stamp)) (Nat.max (fetch + portDelay s.cur.1) rows)
          (Nat.max (fetch + portDelay s.cur.1) rows + 36) (Nat.max (fetch + portDelay s.cur.1) rows - Nat.max fetch rows) r.2.1
          (layerBank (mmaLayer w)) with
        redo := some (k.redoOf s.seenCore.v bank.toNat w vd.val cr.toNat first) }) := by
  have hmcfg : k2.mcfg = k.mcfg := by
    rw [hk2, hk1]
    split <;> rfl
  have hheld := State.bankHeld_clear hclear
  have hgo : r.2.2 = none := hr ▸ mmaStream_clear left first k2 0 (by rw [hmcfg, ← hwc]; exact hclear)
  change execMma h bank vd a cr stamp s = _
  rw [execMma, performWord_member hg]
  refine congrArg (fun e => Host.Outcome.next (State.settle h e)) ?_
  obtain ⟨k', fl, stop⟩ := r
  subst hgo
  subst hk hw hfetch hrows hleft hfirst hk1 hwc
  unfold mmaEff
  dsimp only
  rw [State.val] at *
  rw [if_pos hstrm, if_neg (by rw [hheld]; decide), ← hk2, ← hr]
  simp only [beq_iff_eq]

/-- Settles O44, a word at a time. -/
theorem matrixWords : Obligations.MatrixWords := by
  unfold Obligations.MatrixWords
  intro s h g a d bank vd cr stamp hg w k c wc size first left hw hk hc hwc hsize hfirst hleft
  subst hc hsize
  refine ⟨exec_mcfg hg hw hk hwc, ?_, ?_, ?_, ⟨k.acc.filter (fun x => x.1 / 256 != bank.toNat), ?_, fun n => ?_⟩, fun r hr => ?_,
    fun layer off n busy hlayer hoff hn hbusy hclear => ?_,
    fun layer off busy hlayer hoff hbusy hclear blocks hblocks scales queue hscales hqueue => ?_,
    fun rows hrows => ⟨fun hstrm r hr => ?_, fun hstrm hclear k1 k2 hk1 hk2 r hr fetch busy hfetch hbusy => ?_⟩⟩
  · change execMswp h stamp s = _
    rw [execMswp, performWord_member hg, hk]; rfl
  · change execMkpr h d stamp s = _
    rw [execMkpr, performWord_member hg, hk]; rfl
  · change execMbswp h a stamp s = _
    rw [execMbswp, performWord_member hg, hk, hw]; rfl
  · change execMza h bank stamp s = _
    rw [execMza, performWord_member hg, hk]; rfl
  · refine (Store.get_filter k.acc (fun n => n / 256 != bank.toNat) n 0).trans ?_
    by_cases hb : n / 256 = bank.toNat <;> simp [hb]
  · change execMdrn h bank vd a stamp s = _
    rw [execMdrn, performWord_member hg, hr, hk, hw]; rfl
  · subst hk hw hwc hbusy
    exact exec_mlds hg hlayer hoff hn hclear
  · subst hbusy hscales hqueue
    exact exec_mldw hg hw hk hwc hfirst hleft hlayer hoff hclear hblocks
  · subst hw hwc
    exact exec_mma_plane hg hk hstrm hrows hr
  · subst hbusy
    exact exec_mma_stream hg hk hw hwc hstrm hrows hfirst hleft hclear hk1 hk2 hr hfetch

end Sys2Proof.Machine
end

section
/-! Settled: the engines' own steps (06 R89, 09 R149, R153, R154, 01 R16, R18). -/

namespace Sys2Proof.Machine

-- the oldest word of M in flight

/-- What the retirement of a word of M in flight takes: its flags are raised and its tokens leave (06 R89, 02 R38). -/
def Core.flightTaken (k : Core) (f : Flight) : Core :=
  if f.owing then k
  else (k.setEng .M { k.eng .M with csr := { (k.eng .M).csr with fflags := (k.eng .M).csr.fflags ||| f.flags } }).dropTokens .M f.pops

/-- What it leaves of M: the wait for room is over, and the last word of a section that M has left retires it (01 R16). -/
def Engine.flightLeft (g : Engine) (f : Flight) (later : List Flight) : Engine :=
  let g := if f.owing then g.unblock else g
  if later.isEmpty then g.lastRetired else g

/-- The whole retirement of a word of M in flight whose results have landed and whose posts have room. -/
def Core.flightDone (k : Core) (f : Flight) (later : List Flight) : Core :=
  let k := { (k.flightTaken f).addTokens .M f.posts with flight := later }
  k.setEng .M ((k.eng .M).flightLeft f later)

theorem Core.flightTaken_occ (k : Core) (f : Flight) (i : Nat) :
    (k.flightTaken f).occ.get i 0 =
      k.occ.get i 0 - (if fifoNamed f.pops (fun j => fifoNo (engOther .M j) .M) [1, 2, 3] i && !f.owing then 1 else 0) := by
  unfold Core.flightTaken
  cases f.owing
  · simp [Core.dropTokens_occ]
  · simp

theorem Core.flightTaken_eng (k : Core) (f : Flight) :
    (k.flightTaken f).eng .M =
      if f.owing then k.eng .M else { k.eng .M with csr := { (k.eng .M).csr with fflags := (k.eng .M).csr.fflags ||| f.flags } } := by
  unfold Core.flightTaken
  cases f.owing <;> simp

theorem Core.flightTaken_room (k : Core) (f : Flight) (posts : BitVec 3) : (k.flightTaken f).room .M posts = k.room .M posts := by
  simp only [Core.room, Core.flightTaken_occ]
  simp [fifoNamed, fifoNo, engOther, engOfIdx, engIdx]

theorem Core.flightDone_eng (k : Core) (f : Flight) (later : List Flight) :
    (k.flightDone f later).eng .M = ((k.flightTaken f).eng .M).flightLeft f later := by
  rw [Core.flightDone, Core.eng_setEng, if_pos rfl]
  rfl

theorem Core.flightDone_flight (k : Core) (f : Flight) (later : List Flight) : (k.flightDone f later).flight = later := rfl

theorem Engine.lastRetired_csr (g : Engine) : g.lastRetired.csr = g.csr := by
  unfold Engine.lastRetired
  split <;> rfl

theorem Engine.flightLeft_fflags (g : Engine) (f : Flight) (later : List Flight) :
    (g.flightLeft f later).csr.fflags = g.csr.fflags := by
  unfold Engine.flightLeft
  cases f.owing <;> cases later.isEmpty <;> simp [Engine.lastRetired_csr, Engine.unblock, Csrs.going]

theorem Engine.flightLeft_last (g : Engine) (f : Flight) {n : BitVec 16} (hn : g.retiring = some n) :
    (g.flightLeft f []).hwm = n ∧ (g.flightLeft f []).retiring = none := by
  unfold Engine.flightLeft Engine.lastRetired
  cases f.owing <;> simp [Engine.unblock, hn]

/-- The oldest word of M in flight retires when its cycle has come and its posts have room. -/
theorem State.completeMatrix_ready {s : State} {early : Bool} {c : Nat} {f : Flight} {later : List Flight}
    (hf : (s.core c).flight = f :: later)
    (hnow : f.owing = true ∨ f.done ≤ s.cyc.toNat ∨ (early = true ∧ f.soon ≤ s.cyc.toNat))
    (hroom : ((if f.owing then s else s.land c .M).core c).room .M f.posts = true) :
    s.completeMatrix early c = (if f.owing then s else s.land c .M).modCore c (fun k => k.flightDone f later) := by
  have hcond : (!(f.owing || decide (f.done ≤ s.cyc.toNat) || (early && decide (f.soon ≤ s.cyc.toNat)))) = false := by
    rcases hnow with h | h | ⟨h, h'⟩ <;> simp [*]
  unfold State.completeMatrix
  rw [hf]
  dsimp only
  rw [if_neg (by rw [hcond]; decide)]
  cases ho : f.owing with
  | true =>
    rw [ho, if_pos rfl] at hroom
    simp only [if_true, hroom, Bool.true_or, State.modEng_eq_modCore, State.modCore_modCore, Core.flightDone, Core.flightTaken,
      Engine.flightLeft, ho]
  | false =>
    rw [ho, if_neg Bool.false_ne_true] at hroom
    have htaken : ((s.land c .M).modEng c .M (fun g =>
          { g with csr := { g.csr with fflags := g.csr.fflags ||| f.flags } })).modCore c (fun k => k.dropTokens .M f.pops) =
        (s.land c .M).modCore c (fun k => k.flightTaken f) := by
      simp [State.modEng_eq_modCore, Core.flightTaken, ho]
    have hroom' : (((s.land c .M).modCore c (fun k => k.flightTaken f)).core c).room .M f.posts = true := by
      simpa [Core.flightTaken_room] using hroom
    simp only [Bool.false_eq_true, if_false, htaken, hroom', Bool.true_or, if_true]
    simp only [State.modEng_eq_modCore, State.modCore_modCore, Core.flightDone, Engine.flightLeft, ho, Bool.false_eq_true, if_false]

/-- The oldest word of M in flight at its completion cycle (06 R89, 09 R149, 01 R16). -/
theorem engineEvents_complete (s : State) (c : Nat) (f : Flight) (later : List Flight) (u : State)
    (hf : (s.core c).flight = f :: later)
    (hnow : f.owing = true ∨ f.done ≤ s.cyc.toNat ∨ (s.earlyBand = true ∧ f.soon ≤ s.cyc.toNat))
    (hu : u = (if f.owing then s else s.land c .M)) (hroom : (u.core c).room .M f.posts = true) :
    ∃ t : State, exec (.matrixComplete c) s = .next t ∧ OnlyCore u t c ∧ (t.core c).flight = later ∧
      (t.eng c .M).csr.fflags = (u.eng c .M).csr.fflags ||| (if f.owing then 0 else f.flags) ∧
      (∀ n, later = [] → (u.eng c .M).retiring = some n → (t.eng c .M).hwm = n ∧ (t.eng c .M).retiring = none) ∧
      ∀ j : Nat, 1 ≤ j → j ≤ 3 →
        (t.core c).occ.get (fifoNo .M (engOther .M j)) 0 =
          (u.core c).occ.get (fifoNo .M (engOther .M j)) 0 + (if f.posts.getLsbD (j - 1) then 1 else 0) ∧
        (t.core c).occ.get (fifoNo (engOther .M j) .M) 0 =
          (u.core c).occ.get (fifoNo (engOther .M j) .M) 0 - (if f.pops.getLsbD (j - 1) && !f.owing then 1 else 0) := by
  have hcore : (u.modCore c (fun k => k.flightDone f later)).core c = (u.core c).flightDone f later := by simp
  have heng : (u.modCore c (fun k => k.flightDone f later)).eng c .M = (((u.core c).flightTaken f).eng .M).flightLeft f later := by
    rw [State.eng, hcore, Core.flightDone_eng]
  refine ⟨u.modCore c (fun k => k.flightDone f later), ?_, .modCore .., ?_, ?_, fun n hl hn => ?_, fun j h1 h3 => ?_⟩
  · exact congrArg Host.Outcome.next ((State.completeMatrix_ready hf hnow (hu ▸ hroom)).trans (by rw [hu]))
  · rw [hcore, Core.flightDone_flight]
  · rw [heng, Engine.flightLeft_fflags, Core.flightTaken_eng]
    cases f.owing <;> simp [State.eng]
  · subst hl
    rw [heng]
    refine Engine.flightLeft_last _ f ?_
    rw [Core.flightTaken_eng]
    cases f.owing <;> exact hn
  · rw [hcore]
    simp only [Core.flightDone, Core.setEng_occ]
    rw [show ∀ k : Core, ({ k with flight := later } : Core).occ = k.occ from fun _ => rfl]
    simp only [Core.addTokens_occ, Core.flightTaken_occ]
    interval_cases j <;> simp [fifoNamed, fifoNo, engOther, engOfIdx, engIdx]

-- schedule misses

theorem State.gangOf_of {s : State} {c n : Nat} {g : Gang} (hn : (s.core c).task.bind RunTask.gang = some n)
    (hg : s.sched.gangs.find? n = some g) : s.gangOf c = some g := by
  obtain ⟨t, ht, hn⟩ := Option.bind_eq_some_iff.mp hn
  rw [State.gangOf, ht]
  exact (congrArg (·.bind s.sched.gangs.find?) hn).trans hg

/-- The word of a missed schedule: the target, GSC, and whether the command is late (18 R310). -/
theorem missVal_toNat (target gsc : Word) (late : Bool) :
    (missVal target gsc late).toNat =
      target.toNat % 2 ^ 24 * 2 ^ 40 + gsc.toNat % 2 ^ 24 * 2 ^ 16 + (if late then 16 else 0) := by
  have h1 := setBits_above (w := 0) (lo := 4) (n := 1) (if late then 1 else 0) (by simp) (by omega)
  have h2 := mkWord_cons (lo := 16) (n := 24) (v := bitsOf gsc 0 24) (fs := [(4, 1, if late then 1 else 0)])
    (lt_of_lt_of_le h1.2 (by norm_num)) (by omega)
  have h3 := mkWord_cons (lo := 40) (n := 24) (v := bitsOf target 0 24) h2.2 (by omega)
  have hb : ∀ w : Word, bitsOf w 0 24 = w.toNat % 2 ^ 24 := fun w => by simp [bitsOf]
  have h1' : (mkWord [(4, 1, if late then 1 else 0)]).toNat = if late then 16 else 0 := by
    refine h1.1.trans ?_
    cases late <;> rfl
  rw [missVal, h3.1, h2.1, h1', hb, hb, Nat.mod_mod, Nat.mod_mod]
  omega

section
variable {s : State} {c n : Nat} {i : Instr} {target : Word} {g : Gang} (hi : s.stamped c = some (i, target))
  (hn : (s.core c).task.bind RunTask.gang = some n) (hg : s.sched.gangs.find? n = some g)
include hi hn hg

omit hg in
/-- A command whose target has not come is not missed (09 R153). -/
theorem State.miss_early (h : s.gsc c < target) : s.miss c = s := by
  unfold State.miss
  rw [hi, hn]
  simp [h]

/-- A missed command is judged: it traps, or acts on its gang in slip mode (09 R153, R154). -/
theorem State.miss_judged (hl : g.late.contains c = false) (hs : g.slip.has c = false)
    (hm : target < s.gsc c ∨ (target = s.gsc c ∧ s.acts c i = false)) :
    s.miss c = if s.cryo.slip then
        s.setGang n (if target < s.gsc c then { g with late := c :: g.late } else { g with slip := g.slip.put c s.cyc.toNat })
      else (s.knowSect c .M).takeTrap c .M cSched (missVal target (s.gsc c) (decide (target < s.gsc c)))
        ((s.beforeNext c).getD (s.eng c .M)).pc := by
  have hmiss : (decide (s.gsc c < target) || (s.gsc c == target && s.acts c i) || s.judged c ||
      ((s.gangOf c).map (fun g => g.slip.has c)).getD false) = false := by
    rw [State.judged, State.gangOf_of hn hg]
    simp only [Option.map_some, Option.getD_some, hl, hs, Bool.or_false, Bool.or_eq_false_iff, decide_eq_false_iff_not]
    rcases hm with h | ⟨h, ha⟩
    · refine ⟨fun h' => ?_, ?_⟩
      · have := BitVec.lt_def.mp h
        have := BitVec.lt_def.mp h'
        omega
      · rw [beq_false_of_ne (fun he => BitVec.lt_irrefl target (by rwa [he] at h))]
        rfl
    · rw [h, ha, Bool.and_false]
      exact ⟨BitVec.lt_irrefl _, rfl⟩
  unfold State.miss
  rw [hi, hn]
  dsimp only
  rw [if_neg (by rw [hmiss]; decide), State.modGang, hg]
  dsimp only
  cases s.beforeNext c <;> rfl

end

/-- A stamped command of M at its target and past it (09 R153, R154). -/
theorem engineEvents_miss (s : State) (c : Nat) (i : Instr) (target : Word) (n : Nat) (g : Gang)
    (hi : s.stamped c = some (i, target)) (hn : (s.core c).task.bind RunTask.gang = some n)
    (hg : s.sched.gangs.find? n = some g) :
    (s.gsc c < target → exec (.scheduleMiss c) s = .next s) ∧
    (g.late.contains c = false → g.slip.has c = false →
      (s.cryo.slip = false → target < s.gsc c ∨ (target = s.gsc c ∧ s.acts c i = false) →
        ∀ v : Word, v.toNat = target.toNat % 2 ^ 24 * 2 ^ 40 + (s.gsc c).toNat % 2 ^ 24 * 2 ^ 16 + (if target < s.gsc c then 16 else 0) →
        ∀ x, s.beforeNext c = some x → exec (.scheduleMiss c) s = .next ((s.knowSect c .M).takeTrap c .M 0x12 v x.pc)) ∧
      (s.cryo.slip = true → target = s.gsc c → s.acts c i = false →
        exec (.scheduleMiss c) s = .next (s.setGang n { g with slip := g.slip.put c s.cyc.toNat })) ∧
      (s.cryo.slip = true → target < s.gsc c → exec (.scheduleMiss c) s = .next (s.setGang n { g with late := c :: g.late }))) := by
  refine ⟨fun h => congrArg Host.Outcome.next (State.miss_early hi hn h), fun hl hs => ⟨fun hslip hm v hv x hx => ?_,
    fun hslip he ha => ?_, fun hslip hlt => ?_⟩⟩ <;> refine congrArg Host.Outcome.next ?_
  · have hval : missVal target (s.gsc c) (decide (target < s.gsc c)) = v := by
      refine BitVec.eq_of_toNat_eq ?_
      rw [missVal_toNat, hv]
      simp only [decide_eq_true_eq]
    rw [State.miss_judged hi hn hg hl hs hm, hslip, if_neg Bool.false_ne_true, hx, hval]
    rfl
  · rw [State.miss_judged hi hn hg hl hs (.inr ⟨he, ha⟩), if_pos hslip, if_neg (he ▸ BitVec.lt_irrefl _)]
  · rw [State.miss_judged hi hn hg hl hs (.inl hlt), if_pos hslip, if_pos hlt]

-- sections

/-- A section is entered once its words are read and its waits are met (01 R16, R18). -/
theorem engineEvents_enter (s : State) (c : Nat) (e : Eng) (t : RunTask) (u x v : State) (bs ws : List Byte) (len : Nat)
    (ht : (s.core c).task = some t) (hphase : (s.eng c e).phase = .entering) (hsup : (s.eng c e).sup = none)
    (hgrp : (s.eng c e).grp = none) (hidle : (s.eng c e).idleNow t e = false) (hreq : s.reqOpen c = false ∨ t.halting = true)
    (hret : s.unretired c e = false) (hstream : t.streams.getD (engIdx e) 0 ≠ 0) (hb : s.sectBlocked c e t 0 2 = none)
    (hc : s.sectCode c e t 0 2 = (u, .ok bs)) (hlen : len = bitsOf (leWord bs) 48 16) (hle : len ≤ 5460)
    (hx : x = u.modEng c e (fun g => { g with sect := { g.sect with len := len, base := BitVec.ofNat 16 ((s.eng c e).sect.hdr + 8) } }))
    (hb' : x.sectBlocked c e t 8 (3 * len) = none) (hc' : x.sectCode c e t 8 (3 * len) = (v, .ok ws))
    (hw : v.waitsMet c e (leWord bs) = true) :
    (len = 0 → exec (.enterSection c e) s = .next (v.modEng c e (fun g =>
      { g.unblock with phase := .finished, arrived := some (0, v.cyc.toNat + 1) }))) ∧
    (len ≠ 0 → exec (.enterSection c e) s = .next (((v.syncAhead c e).modCore c (fun k =>
      { k with codeQ := k.codeQ.del (4 + engIdx e) })).modEng c e (fun g =>
        { (g.loadWords ws).unblock with phase := .running, pc := g.sect.pcOf g.target, target := 0 }))) := by
  have hexec : exec (.enterSection c e) s = .next (s.enter c e) := by
    have hgo : (s.reqOpen c && !t.halting) = false := by rcases hreq with h | h <;> simp [h]
    change execEnterSection c e s = _
    unfold execEnterSection
    simp only [ht, hphase, hsup, hgrp, hidle, hgo]
    rfl
  have henter : s.enter c e = if len = 0 then
        v.modEng c e (fun g => { g.unblock with phase := .finished, arrived := some (0, v.cyc.toNat + 1) })
      else ((v.syncAhead c e).modCore c (fun k => { k with codeQ := k.codeQ.del (4 + engIdx e) })).modEng c e (fun g =>
        { (g.loadWords ws).unblock with phase := .running, pc := g.sect.pcOf g.target, target := 0 }) := by
    unfold State.enter
    simp only [ht, hret, Bool.false_eq_true, if_false, beq_iff_eq, hstream, hb, hc, ← hlen, gt_iff_lt, not_lt.mpr hle, ← hx, hb', hc', hw,
      Bool.not_true]
  rw [hexec, henter]
  exact ⟨fun h => by rw [if_pos h], fun h => by rw [if_neg h]⟩

-- posts

/-- A late post is made (06 R89). -/
theorem engineEvents_post (s : State) (c : Nat) (e : Eng) (r : Grp) (o : Owed) (u : State) (hr : (s.eng c e).grp = some r)
    (ho : (s.eng c e).owed = some o) (hu : u = s.land c e) (hl : (u.core c).unlanded e = false) (hb : u.behind c e = false)
    (hf : u.unretired c e = false ∨ o.pops = 0 ∧ o.posts = 0) (hroom : (u.core c).room e o.posts = true) :
    exec (.tokenPost c e) s = .next ((((u.modCore c (fun k => k.dropTokens e o.pops)).modCore c (fun k =>
      k.addTokens e o.posts)).modEng c e (fun x => { x.unblock with owed := none })).endMember c e r o.flow) := by
  have hexec : exec (.tokenPost c e) s = .next ((s.land c e).postAndEnd c e r o.pops o.posts o.flow) := by
    change execTokenPost c e s = _
    unfold execTokenPost
    rw [hr, ho]
  have hfree : (u.unretired c e && (o.pops != 0 || o.posts != 0)) = false := by
    rcases hf with h | ⟨h, h'⟩
    · rw [h, Bool.false_and]
    · rw [h, h']
      simp
  have hroom' : ((u.modCore c (fun k => k.dropTokens e o.pops)).core c).room e o.posts = true := by
    rw [State.core_modCore, if_pos rfl]
    simp only [Core.room, Core.dropTokens_occ] at hroom ⊢
    simp only [List.all_eq_true, Bool.or_eq_true, decide_eq_true_eq] at hroom ⊢
    exact fun j hj => (hroom j hj).imp_right (lt_of_le_of_lt (Nat.sub_le _ _))
  rw [hexec, ← hu]
  unfold State.postAndEnd State.postNow
  simp only [hl, hb, hfree, hroom', Bool.false_eq_true, if_false, if_true]

/-- Settles O45: the parts of the engines' own steps assembled. -/
theorem engineEvents : Obligations.EngineEvents :=
  fun s c e => ⟨engineEvents_complete s c, engineEvents_miss s c, engineEvents_enter s c e, engineEvents_post s c e⟩

end Sys2Proof.Machine
end

section
/-! Settled: what ends a wait or a line (12 R236, R242, 10 R167, 21 R364, 13 R255). -/

namespace Sys2Proof.Machine

-- BOWAIT

/-- BOWAIT whose object's phase differs loads its word 0 and goes on. -/
theorem bowaitEff_flipped {s t u v : State} {a : SSrc} {m : MemOp} {buf : Nat} {off : Int} {ps : List (List Place)} (d : SDst)
    (hm : s.memRef m 16 = (buf, off)) (hacc : s.Accesses .none buf (boForm .read) [off] true ps t)
    (hu : u = (t.toHome t.cur.1 (lineOf (keyOf ps))).reach [lineOf (keyOf ps)]) (hbad : u.boBad (keyOf ps) = false)
    (hv : v = (match Order.acquires m.ord with
      | some sc => (u.acquireL1 u.cur.1 (roleRank sc ps.flatten)).flipAhead u.cur.1 u.cur.2 (keyOf ps) (u.boAt u.curKid (keyOf ps)).flips
      | none => u).afterStore u.cur.1 u.cur.2 ps.flatten)
    (hcur : ∀ sc, ((u.acquireL1 u.cur.1 (roleRank sc ps.flatten)).flipAhead u.cur.1 u.cur.2 (keyOf ps)
      (u.boAt u.curKid (keyOf ps)).flips).cur = u.cur)
    (hphase : (u.boAt u.curKid (keyOf ps)).phase ≠ bitsOf (s.val a) 0 1) :
    bowaitEff d a m s = loadedScalar d (.clean (leWord ((List.range 8).map (fun i => v.plain v.curKid (keyOf ps + i))))) v := by
  have hdiff : ((u.boAt u.curKid (keyOf ps)).phase != bitsOf (s.srd a).val 0 1) = true := bne_iff_ne.mpr hphase
  unfold bowaitEff
  rw [hm]
  dsimp only
  rw [memEff_of hacc, ← hu, hbad, if_neg Bool.false_ne_true, if_pos hdiff, hv]
  cases ho : Order.acquires m.ord with
  | none => rfl
  | some sc => rw [hcur sc]

theorem waitEvents_bowait (s s' : State) (c : Nat) (e : Eng) (r : Grp) (b : Bool) (h : Hdr) (d : SDst) (a : SSrc) (m : MemOp)
    (t u v : State) (buf : Nat) (off : Int) (ps : List (List Place)) (hs' : s' = { s with cur := (c, e) })
    (hin : (s.eng c e).inside = some (.bowait b)) (hgrp : (s.eng c e).grp = some r)
    (hmem : s.memberInstr c e (r.pcOf r.idx) = some (.bowait h d a m)) (hm : s'.memRef m 16 = (buf, off))
    (hacc : s'.Accesses .none buf (boForm .read) [off] true ps t)
    (hu : u = (t.toHome t.cur.1 (lineOf (keyOf ps))).reach [lineOf (keyOf ps)]) (hbad : u.boBad (keyOf ps) = false)
    (hv : v = (match Order.acquires m.ord with
      | some sc => (u.acquireL1 u.cur.1 (roleRank sc ps.flatten)).flipAhead u.cur.1 u.cur.2 (keyOf ps) (u.boAt u.curKid (keyOf ps)).flips
      | none => u).afterStore u.cur.1 u.cur.2 ps.flatten)
    (hphase : (u.boAt u.curKid (keyOf ps)).phase ≠ bitsOf (s'.val a) 0 1) :
    ∃ w : Word, exec (.bowaitComplete c e) s = .next { (v.wrote h d w 0) with cur := s.cur } := by
  have hgrp' : s'.curEng.grp = some r := by rw [hs']; exact hgrp
  refine ⟨leWord ((List.range 8).map (fun i => v.plain v.curKid (keyOf ps + i))), ?_⟩
  change execBowaitComplete c e s = _
  unfold execBowaitComplete
  dsimp only
  rw [hin, hgrp]
  dsimp only
  rw [hmem]
  dsimp only
  rw [← hs', execBowait, performWord_member hgrp', bowaitEff_flipped d hm hacc hu hbad hv
    (fun sc => (cur_inert u.cur).flipAhead ((cur_inert u.cur).acquireL1 rfl)) hphase]
  rfl

-- barrier episodes

@[simp] theorem State.modEng_task (s : State) (c : Nat) (e : Eng) (f : Engine → Engine) (x : Nat) :
    ((s.modEng c e f).core x).task = (s.core x).task := by
  rw [State.modEng_eq_modCore, State.core_modCore]
  split
  · next h => subst h; cases e <;> rfl
  · rfl

theorem Engine.released_arrived {g : Engine} {lv : Level} {k : Nat} (h : g.arrived = some (levelRank lv, k)) :
    (g.released lv).arrived = some (levelRank lv, 0) := by
  unfold Engine.released
  rw [h]
  dsimp only
  by_cases hk : k = 0
  · simp [hk, h]
  · simp [hk]

/-- The BARR words of one core that count in an episode may retire. -/
def State.releaseCore (lv : Level) (n : Nat) (s : State) (x : Nat) : State :=
  if (s.core x).task.bind RunTask.gang == some n then allEngs.foldl (fun s e => s.modEng x e (fun g => g.released lv)) s else s

@[simp] theorem State.releaseCore_mem (lv : Level) (n : Nat) (s : State) (x : Nat) : (s.releaseCore lv n x).mem = s.mem := by
  unfold State.releaseCore
  split <;> rfl

@[simp] theorem State.releaseCore_stor (lv : Level) (n : Nat) (s : State) (x : Nat) : (s.releaseCore lv n x).stor = s.stor := by
  unfold State.releaseCore
  split <;> rfl

@[simp] theorem State.releaseCore_task (lv : Level) (n : Nat) (s : State) (x y : Nat) :
    ((s.releaseCore lv n x).core y).task = (s.core y).task := by
  unfold State.releaseCore
  split
  · simp [allEngs]
  · rfl

/-- The release of one core changes an engine of it, once, and no other core. -/
theorem State.releaseCore_eng (lv : Level) (n : Nat) (s : State) (x y : Nat) (f : Eng) :
    (s.releaseCore lv n x).eng y f =
      if x = y ∧ (s.core x).task.bind RunTask.gang = some n then (s.eng y f).released lv else s.eng y f := by
  unfold State.releaseCore
  by_cases hg : (s.core x).task.bind RunTask.gang = some n
  · rw [if_pos (beq_iff_eq.mpr hg)]
    by_cases hx : x = y
    · subst hx
      cases f <;> simp [allEngs, hg]
    · simp [allEngs, hx]
  · simp [hg]

/-- What has arrived at the level has arrived or goes on, and goes on once its core has been released. -/
theorem State.releaseAll_arrived (lv : Level) (n : Nat) (x : Nat) (f : Eng) : ∀ (l : List Nat) (s : State) (k : Nat),
    (s.core x).task.bind RunTask.gang = some n → (s.eng x f).arrived = some (levelRank lv, k) → (x ∈ l ∨ k = 0) →
    ((l.foldl (State.releaseCore lv n) s).eng x f).arrived = some (levelRank lv, 0)
  | [], s, k, _, ha, hx => by
    obtain rfl : k = 0 := hx.resolve_left (by simp)
    exact ha
  | y :: l, s, k, hg, ha, hx => by
    rw [List.foldl_cons]
    by_cases hy : y = x
    · subst hy
      refine State.releaseAll_arrived lv n y f l _ 0 (by rw [State.releaseCore_task, hg]) ?_ (.inr rfl)
      rw [State.releaseCore_eng, if_pos ⟨rfl, hg⟩]
      exact Engine.released_arrived ha
    · refine State.releaseAll_arrived lv n x f l _ k (by rw [State.releaseCore_task, hg]) ?_ ?_
      · rw [State.releaseCore_eng, if_neg (fun h => hy h.1), ha]
      · exact hx.imp_left (fun h => (List.mem_cons.mp h).resolve_left (Ne.symm hy))

/-- The last arrival of participants that have all arrived by `last`. -/
theorem foldl_max_arrived {f : Nat → Option Nat} {step : Option Nat → Nat → Option Nat} {last : Nat}
    (hstep : ∀ a k x, f x = some k → step (some a) x = some (Nat.max a k)) : ∀ (l : List Nat) (m : Nat), m ≤ last →
    (∀ x ∈ l, ∃ k, f x = some k ∧ k ≤ last) → ∃ m', l.foldl step (some m) = some m' ∧ m' ≤ last
  | [], m, hm, _ => ⟨m, rfl, hm⟩
  | x :: l, m, hm, h => by
    obtain ⟨k, hk, hle⟩ := h x (List.mem_cons_self ..)
    obtain ⟨m', hf, hm'⟩ := foldl_max_arrived hstep l (Nat.max m k) (Nat.max_le.mpr ⟨hm, hle⟩) (fun y hy => h y (List.mem_cons_of_mem _ hy))
    exact ⟨m', by rw [List.foldl_cons, hstep m k x hk, hf], hm'⟩

/-- An episode whose participants have all arrived and whose latency has passed releases every core of its unit. -/
theorem State.episode_complete {s : State} {c n last : Nat} {lv : Level} {g : Gang}
    (hn : (s.core c).task.bind RunTask.gang = some n) (hg : s.sched.gangs.find? n = some g)
    (ha : ∀ x ∈ g.cores, x ∈ levelUnit lv c → ∃ k, s.coreArrived n x lv = some k ∧ k ≤ last)
    (hl : last + levelLat lv ≤ s.cyc.toNat + 1) :
    s.episode c lv = (g.cores.filter (fun x => (levelUnit lv c).contains x)).foldl (State.releaseCore lv n) s := by
  unfold State.episode
  rw [hn]
  dsimp only
  rw [hg]
  dsimp only
  generalize hfold : List.foldl _ (some 0) (g.cores.filter (fun x => (levelUnit lv c).contains x)) = r
  obtain ⟨m, rfl, hle⟩ : ∃ m, r = some m ∧ m ≤ last := by
    rw [← hfold]
    refine foldl_max_arrived (f := fun x => s.coreArrived n x lv) (fun a k x hk => ?_) _ 0 (Nat.zero_le last) (fun x hx => ?_)
    · rw [hk]
    · obtain ⟨h1, h2⟩ := List.mem_filter.mp hx
      exact ha x h1 (List.contains_iff_mem.mp h2)
  dsimp only
  rw [if_neg (by omega)]
  rfl

theorem waitEvents_episode (s : State) (c : Nat) (lv : Level) (i : Instr) (n : Nat) (g : Gang) (last : Nat)
    (hi : (lv ≠ .pod ∧ i = .episodeComplete c lv) ∨ (lv = .pod ∧ i = .podEpisodeComplete c ∧ g.pod.isSome = true))
    (hn : (s.core c).task.bind RunTask.gang = some n) (hg : s.sched.gangs.find? n = some g)
    (ha : ∀ x ∈ g.cores, x ∈ levelUnit lv c → ∃ k, s.coreArrived n x lv = some k ∧ k ≤ last)
    (hl : last + levelLat lv ≤ s.cyc.toNat + 1) :
    ∃ t : State, exec i s = .next t ∧ t.mem = s.mem ∧ t.stor = s.stor ∧ ∀ x ∈ g.cores, x ∈ levelUnit lv c →
      (s.core x).task.bind RunTask.gang = some n → ∀ f k, k ≠ 0 → (s.eng x f).arrived = some (levelRank lv, k) →
        (t.eng x f).arrived = some (levelRank lv, 0) := by
  have hexec : exec i s = .next (s.episode c lv) := by
    rcases hi with ⟨hlv, rfl⟩ | ⟨rfl, rfl, hpod⟩
    · change execEpisodeComplete c lv s = _
      rw [execEpisodeComplete, if_neg (by simpa using hlv)]
    · change execPodEpisodeComplete c s = _
      rw [execPodEpisodeComplete, State.gangOf_of hn hg]
      exact if_pos hpod
  have hkeep : ∀ (l : List Nat) (s : State), (l.foldl (State.releaseCore lv n) s).mem = s.mem ∧
      (l.foldl (State.releaseCore lv n) s).stor = s.stor := by
    intro l
    induction l with
    | nil => exact fun s => ⟨rfl, rfl⟩
    | cons x l ih => exact fun s => by simpa using ih (s.releaseCore lv n x)
  rw [hexec, State.episode_complete hn hg ha hl]
  refine ⟨_, rfl, (hkeep _ _).1, (hkeep _ _).2, fun x hx hu hgx f k _ har => ?_⟩
  exact State.releaseAll_arrived lv n x f _ s k hgx har (.inl (List.mem_filter.mpr ⟨hx, List.contains_iff_mem.mpr hu⟩))

-- batches

theorem dedup_same {key : Nat} : ∀ {l : List Nat}, l ≠ [] → (∀ x ∈ l, x = key) → dedup l = [key]
  | [], h, _ => absurd rfl h
  | [x], _, hx => by rw [hx x (by simp)]; rfl
  | x :: y :: l, _, hx => by
    have hxy : x = y := (hx x (by simp)).trans (hx y (by simp)).symm
    rw [dedup, if_pos (by simp [hxy])]
    exact dedup_same (by simp) (fun z hz => hx z (List.mem_cons_of_mem _ hz))

/-- A batch on one element is applied as one write of it (12 R236). -/
theorem waitEvents_batch (s : State) (line : Nat) (b : Batch) (key n : Nat) (hb : s.stor.batches.find? line = some b)
    (hne : b.ops ≠ []) (hkey : ∀ o ∈ b.ops, o.1 = key) (hn : n = b.ty.width / 8) (hgood : s.badAt key = 0) (u : State)
    (hu : u = { s with stor := { s.stor with batches := s.stor.batches.del line } }) :
    exec (.batchApply line) s = .next (u.putHome b.kid (natCells key n
      (batchVal b.op b.ty (u.homeNat b.kid key n) (b.ops.map (fun o => o.2.1.toNat))))) := by
  have hkeys : dedup (b.ops.map (fun o => o.1)) = [key] := by
    refine dedup_same (by simpa using hne) (fun x hx => ?_)
    obtain ⟨o, ho, rfl⟩ := List.mem_map.mp hx
    exact hkey o ho
  have hops : opsAt b.ops key = b.ops.map (fun o => o.2.1.toNat) := by
    rw [opsAt, List.filter_eq_self.mpr (fun o ho => beq_iff_eq.mpr (hkey o ho))]
  have hgood' : (u.badAt key != 0) = false := by
    rw [show u.badAt key = s.badAt key from by rw [hu]; rfl, hgood]
    decide
  change Host.Outcome.next (s.closeBatch line) = _
  refine congrArg Host.Outcome.next ?_
  unfold State.closeBatch
  rw [hb]
  dsimp only
  rw [hkeys, ← hu, List.foldl_cons, List.foldl_nil, hgood', if_neg Bool.false_ne_true, hops, hn]

/-- A batch of integer additions adds the sum of its operands (12 R236). -/
theorem batchVal_add (t : Ty) (old : Nat) (xs : List Nat) (ho : old < 2 ^ t.width) :
    batchVal .add t old xs = (old + xs.sum) % 2 ^ t.width := by
  suffices H : ∀ (xs : List Nat) (old : Nat), old < 2 ^ t.width →
      (xs.map (fun x => x % 2 ^ t.width)).foldl (fun a x => amoInt .add t.width a x) old = (old + xs.sum) % 2 ^ t.width from H xs old ho
  intro xs
  induction xs with
  | nil => exact fun old ho => by simp [Nat.mod_eq_of_lt ho]
  | cons x xs ih =>
    intro old _
    have hadd : amoInt .add t.width old (x % 2 ^ t.width) = (old + x) % 2 ^ t.width := by simp [amoInt]
    rw [List.map_cons, List.foldl_cons, hadd, ih _ (Nat.mod_lt _ (Nat.two_pow_pos _)), List.sum_cons, Nat.mod_add_mod, Nat.add_assoc]

-- eviction

/-- An L1 line leaves unless it is pinned, or held, or dirty behind what a fence puts before it (13 R255, R248). -/
theorem waitEvents_evict (s : State) (c line : Nat) (l : Line) (hl : (s.core c).l1.find? line = some l) :
    (l.pinned = true → exec (.l1Evict c line) s = .next s) ∧
    (l.pinned = false → s.lineHeld c line = false → l.dirty = 0 ∨ s.mayGo c line l.last = true →
      exec (.l1Evict c line) s = .next (s.dropLine c line)) := by
  have hexec : exec (.l1Evict c line) s =
      if l.pinned || s.lineHeld c line || (l.dirty != 0 && !s.mayGo c line l.last) then .next s else .next (s.dropLine c line) := by
    change execL1Evict c line s = _
    unfold execL1Evict
    rw [hl]
  rw [hexec]
  refine ⟨fun hp => by rw [hp]; rfl, fun hp hh hd => ?_⟩
  rw [hp, hh]
  rcases hd with hd | hd <;> simp [hd]

/-- Settles O46: the parts of what ends a wait or a line assembled. -/
theorem waitEvents : Obligations.WaitEvents := by
  intro s c e
  refine ⟨fun s' r b h d a m t u v buf off ps => waitEvents_bowait s s' c e r b h d a m t u v buf off ps,
    fun lv i n g last hi hn hg ha hl => waitEvents_episode s c lv i n g last hi hn hg ha ?_,
    waitEvents_batch s, batchVal_add, waitEvents_evict s c⟩
  cases lv <;> exact hl

end Sys2Proof.Machine
end

section
/-! SUPPORT. What a core's task leaves as it goes: the records of tasks keep what the part holds of them through every write of the
part to its own memory, through the wakes of such a write and through events. -/

namespace Sys2Proof.Machine

/-- A predicate that sees of a state the host's registers and, of the part's records of tasks, a part that no write, wake or change of
state of a record touches: the saved image and residence. -/
structure Tame (I : State → Prop) : Prop where
  same : ∀ {s t : State}, t.sched.tasks = s.sched.tasks → t.host = s.host → I s → I t
  note : ∀ {s : State} {n : Nat} {f : TaskInfo → TaskInfo}, (∀ x, (f x).saved = x.saved ∧ (f x).resident = x.resident) →
    I s → I (s.modInfo n f)

theorem State.info_modInfo (s : State) (n m : Nat) (f : TaskInfo → TaskInfo) :
    (s.modInfo n f).info m = if n = m then (s.info m).map f else s.info m := by
  by_cases hm : n = m
  · subst hm
    unfold State.modInfo
    cases h : s.info n <;> simp [h]
  · unfold State.modInfo
    cases h : s.info n <;> simp [State.info, State.setInfo, hm]

/-- The part keeps a record of the task in a slot, of which `P` says what image it holds and whether it is resident. -/
def State.Holds (P : Option Core → Bool → Prop) (h : HostWin) (slot : Nat) (s : State) : Prop :=
  s.host = h ∧ ∃ y, s.info slot = some y ∧ P y.saved y.resident

theorem State.holds_tame (P : Option Core → Bool → Prop) (h : HostWin) (slot : Nat) : Tame (State.Holds P h slot) where
  same ht hh := fun ⟨h1, y, h2, h3⟩ => ⟨hh.trans h1, y, by rw [State.info, ht]; exact h2, h3⟩
  note {s n f} hf := fun ⟨h1, y, h2, h3⟩ => by
    refine ⟨by rw [State.modInfo_host, h1], ?_⟩
    rw [State.info_modInfo, h2]
    by_cases hn : n = slot
    · refine ⟨f y, by rw [if_pos hn]; rfl, ?_⟩
      rw [(hf y).1, (hf y).2]
      exact h3
    · exact ⟨y, by rw [if_neg hn], h3⟩

namespace Tame

section
variable {I : State → Prop} (hI : Tame I) {s : State}
include hI

/-- A state with the same records of tasks and registers of the host. -/
theorem of_eq {t : State} (h : I s) (he : (t.sched.tasks, t.host) = (s.sched.tasks, s.host)) : I t := by
  obtain ⟨ht, hh⟩ := Prod.mk.inj he
  exact hI.same ht hh h

theorem modCore {c : Nat} {f : Core → Core} (h : I s) : I (s.modCore c f) := hI.of_eq h rfl
theorem partPut {a : Nat} {bs : List Byte} (h : I s) : I (s.partPut a bs) := hI.of_eq h rfl
theorem putReady {n : Nat} (h : I s) : I (s.putReady n) := hI.note (fun _ => ⟨rfl, rfl⟩) (hI.partPut h)

theorem putLet {n : Nat} (h : I s) : I (s.putLet n) := by
  unfold State.putLet
  split
  · exact Inert.ite (hI.partPut h) (hI.putReady h)
  · exact h

theorem wakeFrom {fuel line : Nat} (h : I s) : I (State.wakeFrom fuel s line) := by
  induction fuel generalizing s line with
  | zero => exact h
  | succ n ih =>
    refine Inert.foldl _ (fun t x ht => ?_) h
    dsimp only
    have later : ∀ u, I u → I (if u.flips x.1 x.2 line then State.wakeFrom n (u.putLet x.1) (lineOf (u.recAddr x.1 + 0x20)) else u) :=
      fun u hu => Inert.ite (ih (hI.putLet hu)) hu
    refine later _ ?_
    split
    · have hw := fun w => hI.note (n := x.1) (f := fun t => { t with watch := w }) (fun _ => ⟨rfl, rfl⟩) ht
      exact Inert.ite (Inert.ite (ih (hI.putReady (hw _))) (hw _)) ht
    · exact ht

theorem wake {line : Nat} (h : I s) : I (s.wake line) := hI.wakeFrom h
theorem wakeSpan {a n : Nat} (h : I s) : I (s.wakeSpan a n) := Inert.foldl _ (fun _ _ => hI.wake) h
theorem partWords {a : Nat} {ws : List Word} (h : I s) : I (s.partWords a ws) := hI.wakeSpan (hI.partPut h)
theorem setRecWord {n off : Nat} {w : Word} (h : I s) : I (s.setRecWord n off w) := hI.partWords h
theorem setRecState {n st r : Nat} (h : I s) : I (s.setRecState n st r) := hI.setRecWord h
theorem enterReady {n : Nat} (h : I s) : I (s.enterReady n) := hI.wake (hI.putReady h)
theorem writeEvent {ws : List Word} (h : I s) : I (s.writeEvent ws) := hI.of_eq (hI.partWords h) rfl

theorem post {i : EvInfo} (h : I s) : I (s.post i) :=
  Inert.ite (hI.writeEvent h) (Inert.ite (hI.of_eq h rfl) (hI.of_eq h rfl))

-- a task leaves its core

theorem coolDown (h : I s) : I s.coolDown := Inert.ite (hI.of_eq h rfl) h

theorem modGang {n : Nat} {f : Gang → Gang} (h : I s) : I (s.modGang n f) := by
  unfold State.modGang
  split
  · exact hI.of_eq h rfl
  · exact h

theorem leaveCore {c : Nat} {g : Option Nat} {b : Bool} (h : I s) : I (s.leaveCore c g b) := by
  unfold State.leaveCore
  have hc : I (s.modCore c Core.vacate).coolDown := hI.coolDown (hI.modCore h)
  cases g with
  | none => exact hc
  | some n => exact Inert.ite (hI.modGang hc) (hI.of_eq hc rfl)

theorem recordStop {c n : Nat} {e : Option Eng} {b : Bool} (h : I s) : I (s.recordStop c n e b) := by
  unfold State.recordStop
  refine hI.setRecWord (hI.setRecWord ?_)
  split
  · exact hI.setRecWord (hI.setRecWord (hI.setRecWord h))
  · exact hI.setRecWord h

theorem stopState {c n : Nat} {f : Flow} (h : I s) : I (s.stopState c n f) := by
  unfold State.stopState
  split
  · next phase key noted =>
    have hn : I ((s.setRecState n (if phase then tWaitBo1 else tWaitBo0) rBo.toNat).modInfo n (fun t =>
        { t with home := some key, boRef := s.recWord n 0x30, boNoted := noted })) :=
      hI.note (fun _ => ⟨rfl, rfl⟩) (hI.setRecState h)
    exact Inert.ite (hI.enterReady hn) hn
  · exact hI.note (fun _ => ⟨rfl, rfl⟩) (hI.enterReady h)
  · exact Inert.ite (hI.setRecState h) (hI.enterReady h)
  · exact hI.enterReady h

theorem holdCmds {n : Nat} (h : I s) : I (s.holdCmds n) := hI.note (fun _ => ⟨rfl, rfl⟩) (hI.of_eq h rfl)

theorem postFault {c : Nat} {d : Delivery} (h : I s) : I (s.postFault c d) := Inert.ite h (hI.post h)

theorem rekey {kid line : Nat} (h : I s) : I (s.rekey kid line) := by
  unfold State.rekey
  refine Inert.ite ?_ h
  split
  · exact hI.of_eq h (by split <;> rfl)
  · exact hI.of_eq h rfl

theorem partKey {a n : Nat} (h : I s) : I (s.partKey a n) := Inert.ite h (Inert.foldl _ (fun _ _ => hI.rekey) h)

theorem partDone {a : Nat} {parts : List (Nat × Nat)} {m : Memory} (h : I s) : I (s.partDone a parts m) :=
  Inert.foldl _ (fun _ _ => hI.wakeSpan) (hI.of_eq h rfl)

theorem writeBlock {a : Nat} {k : Core} {count : Nat} {mat full gang : Bool} {g : Word} (h : I s) :
    I (s.writeBlock a k count mat full gang g) :=
  hI.partDone (Inert.foldl _ (fun _ _ => hI.partKey) h)

end
end Tame

end Sys2Proof.Machine
end

section
/-! Settled: timers, requests and saves (18 R317, R320, R321, R325 to R327). -/

namespace Sys2Proof.Machine

-- watchdog and phase timer

/-- The word of a watchdog trap: cycles waited, the reason, the member (18 R310). -/
theorem wdogVal_toNat (g : Engine) :
    (wdogVal g).toNat = g.wdog % 2 ^ 48 * 2 ^ 16 + g.csr.reason.toNat * 2 ^ 8 + (g.grp.map Grp.idx).getD 0 % 4 := by
  obtain ⟨h1, h1'⟩ := mkWord_one ((g.grp.map Grp.idx).getD 0) (show 2 ≤ 64 by omega)
  obtain ⟨h2, h2'⟩ := mkWord_cons (lo := 8) (n := 8) (v := g.csr.reason.toNat) (lt_of_lt_of_le h1' (by norm_num)) (by omega)
  obtain ⟨h3, -⟩ := mkWord_cons (lo := 16) (n := 48) (v := g.wdog) h2' (by omega)
  have hr : g.csr.reason.toNat < 2 ^ 8 := g.csr.reason.isLt
  rw [wdogVal, h3, h2, h1, Nat.mod_eq_of_lt hr]
  omega

theorem mkWord_high (v : Nat) : (mkWord [(16, 48, v)]).toNat = v % 2 ^ 48 * 2 ^ 16 := by
  have := (mkWord_cons (lo := 16) (n := 48) (v := v) (fs := []) (by simp [mkWord]) (by omega)).1
  rw [this]
  simp [mkWord]

/-- A wait of an issued group is abandoned: the group issues again after the trap (18 R326). -/
theorem State.abandon_issued {s : State} {c : Nat} {e : Eng} {r : Grp} (cause : Nat) (v : Word) (ho : s.owingOf c e = none)
    (hr : (s.eng c e).grp = some r) (hw : (s.eng c e).owed = none) :
    s.abandon c e cause v = (s.keep c e (some r)).takeTrap c e cause v (r.pcOf r.idx) := by
  unfold State.abandon
  dsimp only
  rw [ho, hr, hw]

/-- One of an engine between groups is abandoned before the group, or the section, it stands before. -/
theorem State.abandon_between {s : State} {c : Nat} {e : Eng} (cause : Nat) (v : Word) (ho : s.owingOf c e = none)
    (hr : (s.eng c e).grp = none) :
    s.abandon c e cause v = (s.knowSect c e).takeTrap c e cause v
      (if (s.eng c e).phase = .entering then (s.eng c e).sect.pcOf (s.eng c e).target else (s.eng c e).pc) := by
  unfold State.abandon
  dsimp only
  rw [ho, hr]
  dsimp only
  by_cases hp : (s.eng c e).phase = .entering
  · rw [if_pos (beq_iff_eq.mpr hp), if_pos hp]
  · have hk : s.knowSect c e = s := by
      unfold State.knowSect
      rw [beq_false_of_ne hp]
      rfl
    rw [if_neg (by simpa using hp), if_neg hp, hk]

@[simp] theorem State.modEng_flight (s : State) (c : Nat) (e : Eng) (f : Engine → Engine) :
    ((s.modEng c e f).core c).flight = (s.core c).flight := by
  rw [State.modEng_eq_modCore, State.core_modCore, if_pos rfl, Core.setEng_flight]

theorem State.owingOf_modEng (s : State) (c : Nat) (e : Eng) (f : Engine → Engine) : (s.modEng c e f).owingOf c e = s.owingOf c e := by
  unfold State.owingOf
  rw [State.modEng_flight]

theorem timerSaveEvents_watchdog (s : State) (c : Nat) (e : Eng) (t : RunTask) (ht : (s.core c).task = some t) (r : Grp) (v : Word)
    (hpol : bitsOf s.host.polwd 0 48 ≠ 0) (hlim : bitsOf s.host.polwd 0 48 ≤ (s.eng c e).wdog) (hruns : s.wdogRuns c e = true)
    (hun : unwatched (s.eng c e).csr.reason = false) (hdel : t.delivering e = false) (hpage : (s.eng c e).page = false)
    (hkill : t.killing = false) (hover : s.waitOver c e = false) (ho : s.owingOf c e = none) (hr : (s.eng c e).grp = some r)
    (hw : (s.eng c e).owed = none)
    (hv : v.toNat = (s.eng c e).wdog % 2 ^ 48 * 2 ^ 16 + (s.eng c e).csr.reason.toNat * 2 ^ 8 + r.idx % 4) :
    exec (.watchdogExpire c e) s = .next (((s.modEng c e (fun x => { x.unblock with wdog := 0 })).keep c e (some r)).takeTrap
      c e 0x16 v (r.pcOf r.idx)) := by
  have hshut : (s.eng c e).shut t e = false := by
    rw [Engine.shut, hr, hdel, hpage, hkill]
    rfl
  have hval : wdogVal (s.eng c e) = v := by
    refine BitVec.eq_of_toNat_eq ?_
    rw [wdogVal_toNat, hv, hr]
    rfl
  have hexp : s.wdogExpire c e = (s.modEng c e (fun x => { x.unblock with wdog := 0 })).abandon c e cWatchdog (wdogVal (s.eng c e)) := by
    unfold State.wdogExpire
    rw [ht]
    dsimp only
    rw [hshut, beq_false_of_ne hpol, decide_eq_false (Nat.not_lt.mpr hlim), hruns, hun, hover]
    rfl
  change Host.Outcome.next (s.wdogExpire c e) = _
  rw [hexp, hval, State.abandon_issued _ _ ((s.owingOf_modEng c e _).trans ho) (r := r)]
  · rfl
  · simpa [Engine.unblock] using hr
  · simpa [Engine.unblock] using hw

theorem timerSaveEvents_phase (s : State) (c : Nat) (e : Eng) (t : RunTask) (ht : (s.core c).task = some t) (v : Word)
    (hnow : (s.eng c e).phaseNow = true) (hidle : (s.eng c e).idleNow t e = false) (hr : (s.eng c e).grp = none)
    (ho : s.owingOf c e = none) (hv : v.toNat = (s.eng c e).csr.pht.toNat % 2 ^ 48 * 2 ^ 16) :
    exec (.phaseTimerExpire c e) s = .next (((s.modEng c e (fun x => { x with phtDue := false })).knowSect c e).takeTrap c e 0x15 v
      (if (s.eng c e).phase = .entering then (s.eng c e).sect.pcOf (s.eng c e).target else (s.eng c e).pc)) := by
  have hshut : (s.eng c e).shut t e = false := by rw [Engine.shut, hr, ← hidle]; rfl
  have heng : (s.modEng c e (fun x => { x with phtDue := false })).eng c e = { s.eng c e with phtDue := false } := by simp
  have hval : mkWord [(16, 48, bitsOf (s.eng c e).csr.pht 0 48)] = v := by
    refine BitVec.eq_of_toNat_eq ?_
    rw [mkWord_high, hv, bitsOf]
    simp
  change execPhaseTimerExpire c e s = _
  unfold execPhaseTimerExpire
  rw [ht]
  dsimp only
  rw [hnow, hshut]
  refine congrArg Host.Outcome.next ?_
  unfold State.phaseTrap
  dsimp only
  rw [State.abandon_between _ _ ((s.owingOf_modEng c e _).trans ho) (by rw [heng]; exact hr), heng]
  rw [hval]
  rfl

-- requests

theorem timerSaveEvents_request (s : State) (c : Nat) (t : RunTask) (ht : (s.core c).task = some t) (hg : t.gang = none)
    (hreq : t.request = none) (hc : s.coreOf t.slot = some c) (x : TaskInfo) (hx : s.info t.slot = some x) :
    ∃ u : State, exec (.preemptRequest t.slot) s = .next u ∧ (u.core c).task = some { t with request := some s.cyc.toNat } ∧
      u.info t.slot = some { x with request := some s.cyc.toNat, late := false } ∧ u.mem = s.mem := by
  refine ⟨(s.modTask c (fun t => { t with request := some s.cyc.toNat })).modInfo t.slot (fun x =>
    { x with request := some s.cyc.toNat, late := false }), ?_, ?_, ?_, ?_⟩
  · change execPreemptRequest t.slot s = _
    unfold execPreemptRequest
    rw [hc]
    refine congrArg Host.Outcome.next ?_
    unfold State.requestCore State.request1
    simp only [ht, hg, hreq, Option.isSome_none, Bool.false_eq_true, if_false]
  · rw [State.core, State.modInfo_cores]
    change (((s.modTask c _).core c).task) = _
    rw [State.modTask, State.core_modCore, if_pos rfl, ht]
    rfl
  · rw [State.info_modInfo, if_pos rfl, show (s.modTask c _).info t.slot = s.info t.slot from rfl, hx]
    rfl
  · rw [State.modInfo]
    split <;> rfl

theorem timerSaveEvents_late (s : State) (c : Nat) (t : RunTask) (x : TaskInfo) (at_ : Nat) (hc : s.coreOf t.slot = some c)
    (hx : s.info t.slot = some x) (hreq : x.request = some at_) (hlate : x.late = false) (hpol : bitsOf s.host.polpr 0 48 ≠ 0)
    (hdue : at_ + bitsOf s.host.polpr 0 48 ≤ s.cyc.toNat) (hband : s.cryo.band ≠ 4) (hst : s.cryo.st ≠ 6) :
    exec (.savelate t.slot) s = .next ((s.post { s.taskEv c { kind := 11 } with core := 0 }).modInfo t.slot (fun y => { y with late := true })) := by
  have hcryo : ((s.post { s.taskEv c { kind := 11 } with core := 0 }).modInfo t.slot (fun y => { y with late := true })).cryo = s.cryo := by
    rw [State.modInfo_cryo]
    exact ((cryo_inert s.cryo s.wall).post ⟨rfl, rfl⟩).1
  change Host.Outcome.next (s.saveLate t.slot) = _
  refine congrArg Host.Outcome.next ?_
  unfold State.saveLate
  rw [hx, hc]
  dsimp only
  rw [hreq]
  dsimp only
  rw [beq_false_of_ne hpol, decide_eq_false (Nat.not_lt.mpr hdue), hlate]
  simp only [Bool.or_false, Bool.false_eq_true, if_false]
  rw [if_neg]
  rw [hcryo, beq_false_of_ne hband, beq_false_of_ne hst]
  decide

-- saves

theorem State.leaveCore_task (s : State) (c : Nat) (g : Option Nat) (b : Bool) : ((s.leaveCore c g b).core c).task = none := by
  have hcool : ∀ u : State, u.coolDown.cores = u.cores := fun u => by
    unfold State.coolDown
    split <;> rfl
  have hcores : (s.leaveCore c g b).cores = (s.modCore c Core.vacate).cores := by
    unfold State.leaveCore
    cases g with
    | none => exact hcool _
    | some n =>
      dsimp only
      split
      · rw [State.modGang]
        split
        · exact hcool _
        · exact hcool _
      · exact hcool _
  rw [State.core, hcores]
  change ((s.modCore c Core.vacate).core c).task = none
  rw [State.core_modCore, if_pos rfl]
  rfl

theorem host_tame (h : HostWin) : Tame (fun s => s.host = h) where
  same _ hh h := hh.trans h
  note _ h := (State.modInfo_host ..).trans h

/-- A save, through the change that gives a record its image (18 R320, R321). -/
theorem Tame.saveTask {I J : State → Prop} (hI : Tame I) (hJ : Tame J) {s : State} {c block : Nat} {t : RunTask} {why : SaveWhy}
    (hsave : ∀ (u : State) (f : TaskInfo → TaskInfo), (∀ x, (f x).saved.isSome = true ∧ (f x).resident = false) → I u →
      J (u.modInfo t.slot f)) (h : I s) : J (s.saveTask c t why block) := by
  unfold State.saveTask
  extract_lets full carry g count mat k s1 s2 s3 kept s4 first s5 s6 page s7
  have h3 : I s3 := Inert.foldl _ (fun _ _ => hI.partWords) (hI.writeBlock (hI.partWords h))
  have h6 : J s6 := hJ.holdCmds (hsave _ _ (fun _ => ⟨rfl, rfl⟩) (hI.recordStop (hI.of_eq h3 rfl)))
  have h7 : J s7 := by
    unfold s7
    clear_value s6 carry
    split
    · split
      · exact hJ.stopState h6
      · exact hJ.enterReady h6
    · exact Inert.ite (hJ.enterReady h6) (hJ.note (fun _ => ⟨rfl, rfl⟩) (Inert.foldl _ (fun _ _ => hJ.postFault) (hJ.setRecState h6)))
  exact hJ.leaveCore h7

/-- A record that the part keeps of a task takes the image of a save, and is not resident. -/
theorem State.saveTask_holds {s : State} {c block : Nat} {t : RunTask} {why : SaveWhy} {x : TaskInfo} (hx : s.info t.slot = some x) :
    State.Holds (fun k b => k.isSome = true ∧ b = false) s.host t.slot (s.saveTask c t why block) := by
  refine Tame.saveTask (State.holds_tame (fun _ _ => True) s.host t.slot) (State.holds_tame _ s.host t.slot) (fun u f hf hu => ?_)
    ⟨rfl, x, hx, trivial⟩
  obtain ⟨hh, y, hy, -⟩ := hu
  refine ⟨by rw [State.modInfo_host, hh], f y, ?_, hf y⟩
  rw [State.info_modInfo, if_pos rfl, hy]
  rfl

theorem timerSaveEvents_save (s : State) (c : Nat) (t : RunTask) (ht : (s.core c).task = some t) (why : SaveWhy) (u : State) (b : Nat)
    (v : State) (hpart : s.partHeld = false) (hkill : t.killing = false) (hnow : s.saveNow c t = some why) (hu : u = s.release c)
    (hrel : u.released c 3 0xF = true) (hcmd : u.cmdsUnder t.slot = false) (htake : u.takeBlock = some (b, v)) :
    u.host.srhead ≠ u.host.srtail ∧ b = (u.partWord (u.srBase + 8 * (u.host.srhead.toNat % u.srSize))).toNat ∧
      v.host.srhead = u.host.srhead + 1 ∧
      ∃ w : State, exec (.save c) s = .next w ∧ (w.core c).task = none ∧ w.host.srhead = v.host.srhead ∧
        (∀ x, v.info t.slot = some x → ∃ y, w.info t.slot = some y ∧ y.saved.isSome = true ∧ y.resident = false) := by
  have hexec : exec (.save c) s = .next (v.saveTask c t why b) := by
    change Host.Outcome.next (if s.partHeld then s else s.save c) = _
    rw [hpart, if_neg Bool.false_ne_true]
    unfold State.save
    simp only [ht, hnow, ← hu, hrel, hcmd, htake, hkill, Bool.not_true, Bool.or_self, Bool.false_eq_true, if_false]
  unfold State.takeBlock at htake
  split at htake
  · cases htake
  next hne =>
  obtain ⟨rfl, hv⟩ := Prod.mk.inj (Option.some.inj htake)
  refine ⟨by simpa using hne, rfl, by rw [← hv], v.saveTask c t why _, hexec, State.leaveCore_task .., ?_, fun x hx => ?_⟩
  · exact congrArg HostWin.srhead (Tame.saveTask (host_tame v.host) (host_tame v.host)
      (fun _ _ _ h => (State.modInfo_host ..).trans h) (rfl : v.host = v.host))
  · obtain ⟨-, y, hy, hsaved⟩ := State.saveTask_holds (why := why) (c := c) hx
    exact ⟨y, hy, hsaved⟩

/-- Settles O47: the parts of timers, requests and saves assembled. -/
theorem timerSaveEvents : Obligations.TimerSaveEvents := by
  intro s c e t ht
  exact ⟨timerSaveEvents_watchdog s c e t ht, timerSaveEvents_phase s c e t ht, timerSaveEvents_request s c t ht,
    timerSaveEvents_late s c t, timerSaveEvents_save s c t ht⟩

end Sys2Proof.Machine
end

section
/-! SUPPORT. What a fetch leaves of a core: an access of memory and a read at home change of the cores nothing but what is cached of
translations and of buffer entries. -/

namespace Sys2Proof.Machine

-- reads at home

theorem State.rekey_cores (s : State) (kid line : Nat) : (s.rekey kid line).cores = s.cores := by
  unfold State.rekey
  split
  · dsimp only
    split
    · split <;> rfl
    · rfl
  · rfl

theorem foldl_cores {α : Type} {f : State → α → State} (hf : ∀ s a, (f s a).cores = s.cores) (l : List α) (s : State) :
    (l.foldl f s).cores = s.cores := by
  induction l generalizing s with
  | nil => rfl
  | cons a l ih => rw [List.foldl_cons, ih, hf]

theorem State.putHome_cores (s : State) (kid : Nat) (cells : List (Nat × Byte)) : (s.putHome kid cells).cores = s.cores :=
  (foldl_cores State.wake_cores _ _).trans (foldl_cores (fun s l => s.rekey_cores kid l) _ _)

theorem State.rebuild_cores (s : State) (line : Nat) : (s.rebuild line).cores = s.cores := by
  unfold State.rebuild
  split
  · dsimp only
    split
    · exact State.post_cores ..
    · rfl
  · rfl

theorem State.refuseOps_cores (s : State) (ops : List (Nat × Word × Option Giver)) (key : Nat) : (s.refuseOps ops key).cores = s.cores := by
  refine foldl_cores (fun s o => ?_) _ _
  split
  · exact State.post_cores ..
  · rfl

theorem State.closeBatch_cores (s : State) (line : Nat) : (s.closeBatch line).cores = s.cores := by
  unfold State.closeBatch
  split
  · rfl
  · refine foldl_cores (fun s key => ?_) _ _
    split
    · exact State.refuseOps_cores ..
    · exact State.putHome_cores ..

theorem State.reach_cores (s : State) (lines : List Nat) : (s.reach lines).cores = s.cores :=
  foldl_cores (fun s l => ((s.closeBatch l).rebuild_cores l).trans (s.closeBatch_cores l)) _ _

theorem State.homeRead_cores (s : State) (kid : Nat) (keys : List Nat) : (s.homeRead kid keys).1.cores = s.cores := State.reach_cores ..

-- accesses

/-- A predicate that sees of a state the cores alone, and of a core nothing that an access caches, is kept by every access. -/
theorem Visited.of_cores {I : State → Prop} (same : ∀ {s t : State}, t.cores = s.cores → I s → I t)
    (cache : ∀ {s : State} {c : Nat} {f : Core → Core}, (∀ k, ∃ x y, f k = { k with tlb := x, bufc := y }) → I s → I (s.modCore c f)) :
    Visited I where
  post h := same (State.post_cores ..) h
  read h := same (State.homeRead_cores ..) h
  cache := cache

end Sys2Proof.Machine
end

section
/-! Settled: the dispatcher (10 R171, R183 to R186, 01 R8, R12). -/

namespace Sys2Proof.Machine

-- orders

theorem mem_insertBy {α : Type} {le : α → α → Bool} {x y : α} {l : List α} : y ∈ insertBy le x l ↔ y = x ∨ y ∈ l := by
  induction l with
  | nil => simp [insertBy]
  | cons z l ih =>
    unfold insertBy
    split
    · simp
    · rw [List.mem_cons, ih, List.mem_cons]
      exact or_left_comm

theorem mem_sortBy {α : Type} {le : α → α → Bool} {y : α} {l : List α} : y ∈ sortBy le l ↔ y ∈ l := by
  induction l with
  | nil => rfl
  | cons z l ih => rw [sortBy, mem_insertBy, ih, List.mem_cons]

-- the choice

/-- What is chosen in a context of a level is a candidate of it. -/
theorem State.pickIn_cand {s : State} {c lvl ctx slot : Nat} {missed : Bool} (h : s.pickIn c lvl ctx = some (slot, missed)) :
    ∃ t, (slot, t) ∈ s.sched.tasks ∧ s.slotPrio slot = lvl ∧ s.isCand c slot t = true := by
  have hmem : ∀ x : Nat × TaskInfo, x ∈ sortBy (candLe s) (s.sched.tasks.filter (fun x =>
      s.slotPrio x.1 == lvl && s.slotCtx x.1 == ctx && s.isCand c x.1 x.2)) →
      x ∈ s.sched.tasks ∧ s.slotPrio x.1 = lvl ∧ s.isCand c x.1 x.2 = true := fun x hx => by
    obtain ⟨h1, h2⟩ := List.mem_filter.mp (mem_sortBy.mp hx)
    simp only [Bool.and_eq_true, beq_iff_eq] at h2
    exact ⟨h1, h2.1.1, h2.2⟩
  unfold State.pickIn at h
  dsimp only at h
  split at h
  · next x hx =>
    obtain ⟨rfl, -⟩ := Prod.mk.inj (Option.some.inj h)
    obtain ⟨h1, h2, h3⟩ := hmem x (List.mem_of_mem_take (List.mem_of_find?_eq_some hx))
    exact ⟨x.2, h1, h2, h3⟩
  · obtain ⟨x, hx, he⟩ := Option.map_eq_some_iff.mp h
    obtain ⟨rfl, -⟩ := Prod.mk.inj he
    obtain ⟨h1, h2, h3⟩ := hmem x (List.mem_of_mem_head? hx)
    exact ⟨x.2, h1, h2, h3⟩

/-- A context of a level with a candidate is chosen from. -/
theorem State.pickIn_isSome {s : State} {c lvl : Nat} {x : Nat × TaskInfo} (hx : x ∈ s.sched.tasks) (hp : s.slotPrio x.1 = lvl)
    (hc : s.isCand c x.1 x.2 = true) : (s.pickIn c lvl (s.slotCtx x.1)).isSome = true := by
  have hmem : x ∈ sortBy (candLe s) (s.sched.tasks.filter (fun y =>
      s.slotPrio y.1 == lvl && s.slotCtx y.1 == s.slotCtx x.1 && s.isCand c y.1 y.2)) :=
    mem_sortBy.mpr (List.mem_filter.mpr ⟨hx, by simp [hp, hc]⟩)
  unfold State.pickIn
  dsimp only
  split
  · rfl
  · rw [Option.isSome_map]
    exact List.isSome_head?.mpr (List.ne_nil_of_mem hmem)

theorem State.pickCtx_some {s : State} {c lvl : Nat} {ctxs : List Nat} {slot : Nat} {missed : Bool} {pos : Nat} : ∀ {n m : Nat},
    s.pickCtx c lvl ctxs n m = some (slot, missed, pos) → ∃ ctx, s.pickIn c lvl ctx = some (slot, missed)
  | 0, _, h => by cases h
  | n + 1, m, h => by
    unfold State.pickCtx at h
    dsimp only at h
    split at h
    · next hp =>
      obtain ⟨rfl, rfl, -⟩ : _ ∧ _ ∧ _ := by simpa using h
      exact ⟨_, hp⟩
    · exact State.pickCtx_some h

/-- A rotation that comes to nothing has found no candidate at any of its places. -/
theorem State.pickCtx_none {s : State} {c lvl : Nat} {ctxs : List Nat} : ∀ {n m : Nat}, s.pickCtx c lvl ctxs n m = none →
    ∀ j, m ≤ j → j < m + n → s.pickIn c lvl (ctxs.getD ((s.sched.ptr.get lvl 0 + j) % ctxs.length) 0) = none
  | 0, m, _, j, h1, h2 => by omega
  | n + 1, m, h, j, h1, h2 => by
    unfold State.pickCtx at h
    dsimp only at h
    split at h
    · cases h
    · next hp =>
      rcases Nat.lt_or_ge m j with hj | hj
      · exact State.pickCtx_none h j hj (by omega)
      · obtain rfl : j = m := by omega
        exact hp

/-- A whole rotation comes to every place. -/
theorem exists_rotation (p i : Nat) {n : Nat} (hi : i < n) : ∃ j, j < n ∧ (p + j) % n = i := by
  refine ⟨(i + n - p % n) % n, Nat.mod_lt _ (by omega), ?_⟩
  have hsum : p + (i + n - p % n) = i + n * (p / n + 1) := by
    have hp : p % n < n := Nat.mod_lt _ (by omega)
    have hd := Nat.mod_add_div p n
    rw [Nat.mul_succ]
    omega
  rw [Nat.add_mod_mod, hsum, Nat.add_mul_mod_self_left, Nat.mod_eq_of_lt hi]

/-- Every context with a candidate of a level is among its contexts, so a level without a choice has no candidate. -/
theorem State.pickCtx_none_of_level {s : State} {c lvl : Nat} (h : s.pickCtx c lvl (s.levelCtxs lvl) (s.levelCtxs lvl).length 0 = none)
    {x : Nat × TaskInfo} (hx : x ∈ s.sched.tasks) (hc : s.isCand c x.1 x.2 = true) : s.slotPrio x.1 ≠ lvl := by
  intro hp
  have hel : s.eligible x.1 x.2 = true := by
    unfold State.isCand at hc
    exact (Bool.and_eq_true_iff.mp hc).1
  have hctx : s.slotCtx x.1 ∈ s.levelCtxs lvl := by
    refine mem_sortBy.mpr (mem_dedup.mpr (List.mem_map.mpr ⟨x, List.mem_filter.mpr ⟨hx, ?_⟩, rfl⟩))
    simp [hp, hel]
  obtain ⟨i, hi, he⟩ := List.getElem_of_mem hctx
  obtain ⟨j, hj, hm⟩ := exists_rotation (s.sched.ptr.get lvl 0) i hi
  have hnone := State.pickCtx_none h j (Nat.zero_le j) (by omega)
  rw [hm, List.getD_eq_getElem _ _ hi, he] at hnone
  have hsome := State.pickIn_isSome hx hp hc
  rw [hnone] at hsome
  cases hsome

/-- The choice never passes over a candidate of higher priority (10 R185). -/
theorem State.pickLevel_spec {s u : State} {c slot : Nat} : ∀ {n : Nat}, s.pickLevel c n = some (slot, u) →
    (∃ t, (slot, t) ∈ s.sched.tasks ∧ s.isCand c slot t = true) ∧
    ∀ x ∈ s.sched.tasks, s.isCand c x.1 x.2 = true → s.slotPrio x.1 < n → s.slotPrio x.1 ≤ s.slotPrio slot
  | 0, h => by cases h
  | n + 1, h => by
    unfold State.pickLevel at h
    dsimp only at h
    split at h
    · next hp =>
      obtain ⟨rfl, -⟩ := Prod.mk.inj (Option.some.inj h)
      obtain ⟨ctx, hctx⟩ := State.pickCtx_some hp
      obtain ⟨t, ht, hprio, hc⟩ := State.pickIn_cand hctx
      exact ⟨⟨t, ht, hc⟩, fun x _ _ hlt => by omega⟩
    · next hp =>
      obtain ⟨h1, h2⟩ := State.pickLevel_spec h
      refine ⟨h1, fun x hx hc hlt => h2 x hx hc ?_⟩
      have := State.pickCtx_none_of_level hp hx hc
      omega

theorem dispatchEvents_choose (s : State) (c slot : Nat) (hpart : s.partHeld = false) (hmay : s.mayStage = true)
    (hallow : s.allowed c = true) (hfree : (s.core c).stage = none) (hres : s.reserved c = none) (hserve : s.mayServe c = true)
    (s1 u v : State) (codes : Store (Nat × List Byte)) (hs1 : s1 = { s with sched := { s.sched with served := (s.cyc.toNat + 1, c) } })
    (hpick : s1.pickLevel c 8 = some (slot, u)) (hgang : u.slotGang slot = false) (hheld : u.headHeld slot = false)
    (hfault : u.stageFault slot = (v, none))
    (hcodes : codes = allEngs.filterMap (fun e => (v.stagedCode slot e).map (fun x => (engIdx e, x)))) :
    exec (.choose c) s = .next ((v.modCore c (fun k =>
      { k with stage := some slot, codeQ := codes ++ k.codeQ.filter (fun x => 4 ≤ x.1) })).setRecState slot 1 0) := by
  have hres1 : s1.reserved c = none := by rw [hs1]; exact hres
  change Host.Outcome.next (if s.partHeld then s else s.choose c) = _
  rw [hpart, if_neg Bool.false_ne_true]
  refine congrArg Host.Outcome.next ?_
  unfold State.choose
  simp only [← hs1, hmay, hallow, hfree, hserve, hres1, hpick, hgang, hheld, Option.isSome_none, Bool.not_true, Bool.or_self,
    Bool.false_eq_true, if_false]
  unfold State.stageOn
  simp only [hfault, ← hcodes]
  rfl

theorem dispatchEvents_age (s : State) (slot : Nat) (t : TaskInfo) (ht : s.info slot = some t) (hpol : s.host.polage ≠ 0)
    (hr : s.isReady slot = true) (hp : s.slotPrio slot < 7) (hdue : t.rise + s.host.polage.toNat ≤ s.cyc.toNat) :
    exec (.agingRise slot) s =
      .next ((s.setRecWord slot 0x20 (setBits (s.recWord slot 0x20) 48 4 (s.slotPrio slot + 1))).modInfo slot (fun t =>
        { t with rise := s.cyc.toNat })) := by
  change Host.Outcome.next (s.ageTask slot) = _
  refine congrArg Host.Outcome.next ?_
  unfold State.ageTask
  rw [ht]
  dsimp only
  rw [bne_iff_ne.mpr hpol, hr, decide_eq_true hp, decide_eq_true hdue]
  rfl

end Sys2Proof.Machine
end

section
/-! Settled: dispatch (10 R173, R184, 01 R8, R12, 06 R87). -/

namespace Sys2Proof.Machine

/-- An engine of a fresh dispatch, its PC aside (01 R8, R12). -/
structure Engine.Fresh (g : Engine) (c0 c1 tile : Word) : Prop where
  reg1   : g.reg 1 = .clean c0
  reg2   : g.reg 2 = .clean c1
  reg3   : g.reg 3 = .clean tile
  zero   : ∀ n, 5 < n → g.reg n = SVal.zero
  loops  : g.loops = []
  stack  : g.stack = []
  ring   : g.ring = []
  fflags : g.csr.fflags = 0
  fenab  : g.csr.fenab = 0
  frm    : g.csr.frm = 0
  phase  : g.phase = .finished ∨ g.phase = .entering

/-- A core of a fresh dispatch of a task of no gang, PCs aside (06 R87). -/
structure Core.Fresh (k : Core) (slot : Nat) (c0 c1 tile : Word) : Prop where
  task  : ∃ t, k.task = some t ∧ t.slot = slot ∧ t.gang = none
  stage : k.stage = none
  preds : k.p = []
  occ   : k.occ = []
  eng   : ∀ e, (k.eng e).Fresh c0 c1 tile

theorem freshRegs_high {c0 c1 arg : Word} {tile n : Nat} (hn : 5 < n) : (freshRegs c0 c1 tile arg).get n SVal.zero = SVal.zero := by
  unfold freshRegs Store.get
  simp [Store.find?, show 1 ≠ n by omega, show 2 ≠ n by omega, show 3 ≠ n by omega, show 4 ≠ n by omega, show 5 ≠ n by omega]

theorem Engine.fresh_fresh (c0 c1 arg phtm : Word) (tile res cyc : Nat) :
    (Engine.fresh (freshRegs c0 c1 tile arg) phtm res cyc).Fresh c0 c1 (BitVec.ofNat 64 tile) := by
  have hreg : ∀ g : Engine, g.regs = freshRegs c0 c1 tile arg → ∀ n, n ≠ 0 → g.reg n = (freshRegs c0 c1 tile arg).get n SVal.zero :=
    fun g hg n hn => by rw [Engine.reg, if_neg hn, hg]
  unfold Engine.fresh
  split
  · exact ⟨hreg _ rfl 1 (by decide), hreg _ rfl 2 (by decide), hreg _ rfl 3 (by decide),
      fun n hn => (hreg _ rfl n (by omega)).trans (freshRegs_high hn), rfl, rfl, rfl, rfl, rfl, rfl, .inl rfl⟩
  · exact ⟨hreg _ rfl 1 (by decide), hreg _ rfl 2 (by decide), hreg _ rfl 3 (by decide),
      fun n hn => (hreg _ rfl n (by omega)).trans (freshRegs_high hn), rfl, rfl, rfl, rfl, rfl, rfl, .inr rfl⟩

/-- Whether a core is that of a fresh dispatch does not turn on what an access caches, so that it stays so while the task's streams
are read. -/
theorem Core.fresh_visited (c slot : Nat) (c0 c1 tile : Word) : Visited (fun s => (s.core c).Fresh slot c0 c1 tile) :=
  Visited.of_cores (fun h hf => by rwa [State.core, h]) (fun {s c' f} hf h => by
    rw [State.core_modCore]
    split
    · next hc =>
      subst hc
      obtain ⟨x, y, hxy⟩ := hf (s.core c')
      rw [hxy]
      exact ⟨h.task, h.stage, h.preds, h.occ, fun e => by have := h.eng e; cases e <;> exact this⟩
    · exact h)

theorem Core.Fresh.modTask {s : State} {c slot : Nat} {c0 c1 tile : Word} (h : (s.core c).Fresh slot c0 c1 tile) (x : List Nat) :
    ((s.modTask c (fun t => { t with streams := x })).core c).Fresh slot c0 c1 tile := by
  obtain ⟨t, ht, hs, hg⟩ := h.task
  rw [State.modTask, State.core_modCore, if_pos rfl]
  refine ⟨⟨{ t with streams := x }, by simp [ht], hs, hg⟩, h.stage, h.preds, h.occ, fun e => ?_⟩
  have := h.eng e
  cases e <;> exact this

theorem Core.Fresh.readStreams {s : State} {c slot : Nat} {c0 c1 tile : Word} (t : RunTask) (h : (s.core c).Fresh slot c0 c1 tile) :
    ((s.readStreams c t).core c).Fresh slot c0 c1 tile := by
  have hc := (Core.fresh_visited c slot c0 c1 tile).code (c := c) (buf := t.cbuf.toNat) (off := t.coff) (n := 8) h
  unfold State.readStreams
  generalize s.code c t.cbuf.toNat t.coff 8 = p at hc ⊢
  obtain ⟨u, r⟩ := p
  cases r <;> exact Core.Fresh.modTask hc _

/-- An engine stands at the first word of the section whose header lies at an offset. -/
def Engine.atHeader (g : Engine) (hdr : Nat) : Engine :=
  { g with sect := { g.sect with hdr := hdr, base := BitVec.ofNat 16 (hdr + 8) }, pc := BitVec.ofNat 16 (hdr + 8) }

/-- The engines find their sections: each stands at one, and nothing else of the core changes. -/
theorem Core.Fresh.placed {k : Core} {slot : Nat} {c0 c1 tile : Word} (h : k.Fresh slot c0 c1 tile) (e : Eng) (hdr : Nat) :
    (k.setEng e ((k.eng e).atHeader hdr)).Fresh slot c0 c1 tile := by
  have hother : ∀ e', ((k.setEng e ((k.eng e).atHeader hdr)).eng e').Fresh c0 c1 tile := fun e' => by
    rw [Core.eng_setEng]
    split
    · have := h.eng e
      exact ⟨this.reg1, this.reg2, this.reg3, this.zero, this.loops, this.stack, this.ring, this.fflags, this.fenab, this.frm, this.phase⟩
    · exact h.eng e'
  obtain ⟨htask, hstage, hp, hocc, -⟩ := h
  cases e <;> exact ⟨htask, hstage, hp, hocc, hother⟩

/-- Every engine of a core stands at the first word of a section. -/
theorem State.placeAll_spec {s : State} {c slot : Nat} {c0 c1 tile : Word} (h : (s.core c).Fresh slot c0 c1 tile)
    (f : State → Eng → Nat) :
    ((allEngs.foldl (fun s e => s.modEng c e (fun g => g.atHeader (f s e))) s).core c).Fresh slot c0 c1 tile ∧
    ∀ e, ((allEngs.foldl (fun s e => s.modEng c e (fun g => g.atHeader (f s e))) s).eng c e).pc =
      ((allEngs.foldl (fun s e => s.modEng c e (fun g => g.atHeader (f s e))) s).eng c e).sect.base := by
  have hstep : ∀ (u : State) (e : Eng), (u.core c).Fresh slot c0 c1 tile →
      ((u.modEng c e (fun g => g.atHeader (f u e))).core c).Fresh slot c0 c1 tile := fun u e hu => by
    rw [State.modEng_eq_modCore, State.core_modCore, if_pos rfl]
    exact hu.placed e _
  refine ⟨Inert.foldl (I := fun u => (u.core c).Fresh slot c0 c1 tile) _ hstep h, fun e => ?_⟩
  cases e <;> simp [allEngs, Engine.atHeader]

/-- A fresh start, which reads C0, C1 and the tile of the task it is given. -/
theorem State.startFresh_spec (s : State) (c slot : Nat) (t : RunTask) (hg : t.gang = none) :
    ((s.startFresh c slot t).core c).Fresh t.slot t.carry.1 t.carry.2 (BitVec.ofNat 64 t.tile.toNat) ∧
    ∀ e, ((s.startFresh c slot t).eng c e).pc = ((s.startFresh c slot t).eng c e).sect.base := by
  unfold State.startFresh
  extract_lets n regs eng s1 s2 s3
  have h1 : (s1.core c).Fresh t.slot t.carry.1 t.carry.2 (BitVec.ofNat 64 t.tile.toNat) := by
    unfold s1
    rw [State.core_modCore, if_pos rfl]
    refine ⟨⟨t, rfl, rfl, hg⟩, rfl, rfl, rfl, fun e => ?_⟩
    cases e <;> exact Engine.fresh_fresh ..
  have h2 : (s2.core c).Fresh t.slot t.carry.1 t.carry.2 (BitVec.ofNat 64 t.tile.toNat) := by
    have hc : s2.cores = s1.cores := State.modInfo_cores ..
    rw [State.core, hc]
    exact h1
  exact State.placeAll_spec (h2.readStreams t) (fun s e => s.walkTo c e (s.eng c e).sect.num 0)

theorem dispatchEvents_start (s : State) (c slot : Nat) (hst : (s.core c).stage = some slot) (hpart : s.partHeld = false)
    (hcan : s.canStart c = true) :
    (∀ u, s.reserved c = some u → slot ∈ u.2 → u.1.all s.canStart = true → exec (.dispatch c) s = .next (s.startGang u)) ∧
    (s.reserved c = none → (s.bindCore c slot).slotSaved slot = false →
      ∃ (t : State) (k : RunTask), exec (.dispatch c) s = .next t ∧ (t.core c).task = some k ∧ k.slot = slot ∧ k.gang = none ∧
        (t.core c).stage = none ∧ (t.core c).p = [] ∧ (t.core c).occ = [] ∧
        ∀ e, (t.eng c e).reg 1 = .clean (s.recWord slot 0x28) ∧ (t.eng c e).reg 2 = .clean (s.recWord slot 0x30) ∧
          (t.eng c e).reg 3 = .clean (BitVec.ofNat 64 (s.slotTile slot)) ∧ (∀ n, 5 < n → (t.eng c e).reg n = SVal.zero) ∧
          (t.eng c e).loops = [] ∧ (t.eng c e).stack = [] ∧ (t.eng c e).ring = [] ∧ (t.eng c e).csr.fflags = 0 ∧
          (t.eng c e).csr.fenab = 0 ∧ (t.eng c e).csr.frm = 0 ∧ (t.eng c e).pc = (t.eng c e).sect.base ∧
          ((t.eng c e).phase = .finished ∨ (t.eng c e).phase = .entering)) := by
  have hexec : exec (.dispatch c) s = .next (s.dispatch c) := by
    change Host.Outcome.next (if s.partHeld then s else s.dispatch c) = _
    rw [hpart, if_neg Bool.false_ne_true]
  rw [hexec]
  refine ⟨fun u hu hin hall => ?_, fun hu hsaved => ?_⟩
  · refine congrArg Host.Outcome.next ?_
    unfold State.dispatch
    simp only [hst, hcan, hu, hall, List.contains_iff_mem.mpr hin, Bool.not_true, Bool.false_eq_true, if_false, if_true]
  · obtain ⟨r, hr⟩ : ∃ r : State, s.dispatch c = r.startFresh c slot (s.newTask slot none) := by
      unfold State.dispatch State.start
      simp only [hst, hcan, hu, hsaved, Bool.not_true, Bool.false_eq_true, if_false]
      exact ⟨_, rfl⟩
    have htile : (s.newTask slot none).tile.toNat = s.slotTile slot :=
      (BitVec.toNat_ofNat ..).trans (Nat.mod_eq_of_lt (bitsOf_lt ..))
    obtain ⟨hf, hpc⟩ := r.startFresh_spec c slot (s.newTask slot none) rfl
    obtain ⟨k, hk, hslot, hgang⟩ := hf.task
    rw [htile] at hf
    refine ⟨_, k, congrArg Host.Outcome.next hr, hk, hslot, hgang, hf.stage, hf.preds, hf.occ, fun e => ?_⟩
    have := hf.eng e
    exact ⟨this.reg1, this.reg2, this.reg3, this.zero, this.loops, this.stack, this.ring, this.fflags, this.fenab, this.frm, hpc e, this.phase⟩

/-- Settles O48: the parts of the dispatcher assembled. -/
theorem dispatchEvents : Obligations.DispatchEvents := by
  intro s c slot
  refine ⟨fun hpart hin => ?_, dispatchEvents_age s slot, dispatchEvents_choose s c slot, fun u hu => State.pickLevel_spec hu,
    dispatchEvents_start s c slot⟩
  change execMakeResident slot s = _
  rw [execMakeResident, hpart, hin]
  rfl

end Sys2Proof.Machine
end

section
/-! Settled: how a task leaves, and the reuse probe of one record (10 R175 to R178, 14 R271, R272, 18 R313). -/

namespace Sys2Proof.Machine

-- write-back and end

theorem leavingEvents_writeBack (s : State) (c : Nat) (t : RunTask) (e : Eng) (f : Flow) (u : State) (hpart : s.partHeld = false)
    (ht : (s.core c).task = some t) (hcarry : s.carryEng c = some (e, f)) (hhalt : t.halting = false) (hkill : t.killing = false)
    (hdel : t.delivery = []) (hstop : s.allStopped c = true) (hfl : (s.core c).flight = []) (hu : u = s.release c)
    (hrel : u.released c 3 0xF = true) :
    ∃ v : State, exec (.writeBack c) s = .next v ∧ (v.core c).task = none ∧
      v = (((u.recordStop c t.slot (some e) false).stopState c t.slot f).modInfo t.slot (fun x =>
        { x with resident := false, request := none, late := false })).leaveCore c t.gang false := by
  refine ⟨_, ?_, State.leaveCore_task .., rfl⟩
  change Host.Outcome.next (if s.partHeld then s else s.writeBack c) = _
  rw [hpart, if_neg Bool.false_ne_true]
  unfold State.writeBack
  simp only [ht, hcarry, hhalt, hkill, hdel, hstop, hfl, ← hu, hrel, List.isEmpty_nil, Bool.not_true, Bool.or_self, Bool.false_eq_true,
    if_false]

theorem leavingEvents_end (s : State) (c : Nat) (t : RunTask) (u : State) (hpart : s.partHeld = false)
    (ht : (s.core c).task = some t) (hwait : s.hasWaiter (.taskEnd c) = false) (hheld : s.heldEvent t.slot = false)
    (hu : u = s.release c) (hrel : u.released c 3 0xF = true) :
    (∀ v w, t.killing = false → t.halting = true ∨ (s.allFinished c = true ∧ t.delivery = []) → s.quietEngs c t = true →
      (∀ d ∈ t.delivery, d.page = false) → t.delivery = [] ∨ s.evq.roomFor t.delivery.length = true →
      u.doneUpdate c t = (v, true) → v.outputCredit c t = (w, true) →
      exec (.taskEnd c) s = .next ((t.delivery.foldl (fun x d => x.postFault c d) w).endTask c t)) ∧
    (t.killing = true → t.saving = false → s.killable c t = true → s.evq.roomFor 1 = true →
      exec (.taskEnd c) s = .next ((u.post (killEv { u.taskEv c { kind := 2 } with core := 0 })).endTask c t)) := by
  have hexec : exec (.taskEnd c) s = .next (s.taskEnd c) := by
    change Host.Outcome.next (if s.partHeld then s else s.taskEnd c) = _
    rw [hpart, if_neg Bool.false_ne_true]
  rw [hexec]
  refine ⟨fun v w hkill hends hquiet hpage hroom hdone hcred => ?_, fun hkill hsave hk hroom => ?_⟩ <;>
    refine congrArg Host.Outcome.next ?_
  · have hends' : (t.halting || (s.allFinished c && t.delivery.isEmpty)) = true := by
      rcases hends with h | ⟨h, h'⟩
      · rw [h, Bool.true_or]
      · rw [h, h', List.isEmpty_nil, Bool.and_self, Bool.or_true]
    have hpage' : t.delivery.any Delivery.page = false := List.any_eq_false.mpr (fun d hd => by rw [hpage d hd]; decide)
    have hroom' : (t.delivery.length == 0 || s.evq.roomFor t.delivery.length) = true := by
      rcases hroom with h | h
      · rw [h]
        rfl
      · rw [h, Bool.or_true]
    unfold State.taskEnd
    simp only [ht, hkill, hends', hquiet, hpage', hwait, hheld, hroom', ← hu, hrel, hdone, hcred, Bool.false_eq_true, if_false,
      Bool.not_true, Bool.not_false, Bool.and_self, Bool.or_self]
  · unfold State.taskEnd
    simp only [ht, hkill, hsave, hk, hwait, hheld, hroom, ← hu, hrel, if_true, Bool.false_eq_true, if_false,
      Bool.not_true, Bool.not_false, Bool.and_self, Bool.or_self, Bool.or_true]

-- the reuse probe of one record

theorem leavingEvents_probe (s : State) (slot : Nat) (r u : State) (f : Found) (hpart : s.partHeld = false)
    (hwait : s.hasWaiter (.probe slot) = false) (hgang : s.slotGang slot = false) (hprobing : s.probing slot = true)
    (hbegin : (s.beginAll [slot]).beginProbe [slot] = (r, .ok ())) (hplace : r.probePlace slot = some none)
    (hboth : r.probeBoth none [(slot, 0)] = (u, .ok [f])) (k : Nat) (hk : k = ((r.info slot).map TaskInfo.stepNo).getD 0) :
    (u.entryMoved f = true → exec (.probeDecision slot) s = .next (u.restartProbe [slot])) ∧
    (u.entryMoved f = false → f.skip = false → exec (.probeDecision slot) s = .next (u.actCompute f k 0)) ∧
    (u.entryMoved f = false → f.skip = true → ∀ v, u.actSkip f = (v, true) → exec (.probeDecision slot) s = .next v) := by
  have htiles : s.probeTiles slot = [slot] := by
    unfold State.probeTiles
    simp [hgang, hprobing]
  have hexec : exec (.probeDecision slot) s =
      .next (if u.entryMoved f then u.restartProbe [slot] else u.actAll f.skip k 0 [f]) := by
    change Host.Outcome.next (if s.partHeld then s else s.probe slot) = _
    rw [hpart, if_neg Bool.false_ne_true]
    refine congrArg Host.Outcome.next ?_
    unfold State.probe
    simp only [htiles, List.isEmpty_cons, List.any_cons, List.any_nil, hwait, Bool.or_self, Bool.false_eq_true, if_false, hbegin, hplace,
      List.length_singleton, List.range_one, List.zip_cons_cons, List.zip_nil_right, hboth, Bool.or_false, List.all_cons, List.all_nil,
      Bool.and_true, hk]
  rw [hexec]
  refine ⟨fun hm => by rw [if_pos hm], fun hm hs => ?_, fun hm hs v hv => ?_⟩ <;>
    rw [if_neg (by rw [hm]; exact Bool.false_ne_true), hs]
  · rfl
  · unfold State.actAll
    rw [if_pos rfl, hv]
    rfl

/-- The number of the first word of an entry that a computation opens (14 R272). -/
theorem entryWord_toNat (n d k : Nat) :
    (mkWord [(48, 16, n), (42, 1, 1), (41, 1, d), (0, 32, k)]).toNat =
      k % 2 ^ 32 + d % 2 * 2 ^ 41 + 2 ^ 42 + n % 2 ^ 16 * 2 ^ 48 := by
  obtain ⟨h0, h0'⟩ := mkWord_one k (show 32 ≤ 64 by omega)
  obtain ⟨h1, h1'⟩ := mkWord_cons (lo := 41) (n := 1) (v := d) (lt_of_lt_of_le h0' (by norm_num)) (by omega)
  obtain ⟨h2, h2'⟩ := mkWord_cons (lo := 42) (n := 1) (v := 1) h1' (by omega)
  obtain ⟨h3, -⟩ := mkWord_cons (lo := 48) (n := 16) (v := n) (lt_of_lt_of_le h2' (by norm_num)) (by omega)
  rw [h3, h2, h1, h0]
  omega

theorem getLsbD_iff_div {w : Word} {i : Nat} : w.getLsbD i = decide (w.toNat / 2 ^ i % 2 = 1) := by
  rw [BitVec.getLsbD, Nat.testBit_eq_decide_div_mod_eq]

theorem leavingEvents_entry (s : State) (f : Found) (k unit : Nat) : ∃ w0 w1 w2 : Word, f.newEntry s k unit = [w0, w1, w2, 0] ∧
    w0.toNat % 2 ^ 32 = k % 2 ^ 32 ∧ bitsOf w0 32 8 = 0 ∧ w0.getLsbD 40 = false ∧ w0.getLsbD 42 = true ∧
    (w0.getLsbD 41 = true ↔ f.dirty = true) ∧ bitsOf w0 48 16 = s.slotLrec f.slot ∧ bitsOf w1 0 32 = f.tile % 2 ^ 32 := by
  have h0 := entryWord_toNat (s.slotLrec f.slot) (if f.dirty then 1 else 0) k
  have hn : s.slotLrec f.slot < 2 ^ 16 := bitsOf_lt ..
  have hd : (if f.dirty then 1 else 0) ≤ 1 := by split <;> decide
  have htile := (mkWord_one f.tile (show 32 ≤ 64 by omega)).1
  refine ⟨_, _, _, rfl, ?_, ?_, ?_, ?_, ?_, ?_, ?_⟩
  · rw [h0]
    omega
  · rw [bitsOf, h0]
    omega
  · rw [getLsbD_iff_div, h0, decide_eq_false_iff_not]
    omega
  · rw [getLsbD_iff_div, h0, decide_eq_true_eq]
    omega
  · rw [getLsbD_iff_div, h0, decide_eq_true_eq]
    cases f.dirty
    · simp only [Bool.false_eq_true, if_false, iff_false]
      omega
    · simp only [if_true, iff_true]
      omega
  · rw [bitsOf, h0]
    omega
  · generalize s.lrecWord (s.slotLrec f.slot) 0x50 = w50
    obtain ⟨h1, h1'⟩ := mkWord_cons (lo := 32) (n := 16) (v := bitsOf w50 0 16)
      (mkWord_one f.tile (show 32 ≤ 64 by omega)).2 (by omega)
    obtain ⟨h2, -⟩ := mkWord_cons (lo := 48) (n := 8) (v := bitsOf w50 16 8) h1' (by omega)
    rw [bitsOf, h2, h1, htile]
    omega

/-- Settles O49: the parts of how a task leaves assembled. -/
theorem leavingEvents : Obligations.LeavingEvents :=
  fun s c => ⟨leavingEvents_writeBack s c, leavingEvents_end s c,
    fun slot r u f => leavingEvents_probe s slot r u f, leavingEvents_entry s⟩

end Sys2Proof.Machine
end

section
/-! Settled: the copy and ferry engines (16 R287 to R289, R293, R296, R299). -/

namespace Sys2Proof.Machine

-- granules

/-- The credit of a granule that its object takes: the command goes on, or it is DONE with the last one (16 R288). -/
theorem State.creditCmd_made {u v : State} {no i n k : Nat} {x y : Cmd}
    (hc : (u.coverAhead no x i k).agentCredit (x.who u) 3 (refBuf x.bo) (refOff x.bo) n (x.ev { kind := 15 })
      (BitVec.ofNat 64 x.tag) = (v, .made))
    (hy : y = { (x.setTarget i (k + 1)).dropRead with
      doneb := (x.doneb + n) % 2 ^ 48, st := 2, marred := false
      landed := x.landed.filter (fun j => j != i), parts := x.parts.filter (fun p => p.1 != i) }) (finished : Cmd → Bool) :
    u.creditCmd no x i n (k + 1) finished = if finished y then v.closeCmd no y csDone 0 else v.keepCmd no y := by
  unfold State.creditCmd
  rw [Nat.add_sub_cancel, hc, hy]
  rfl

/-- What becomes of a command with the granule of a target that moves: it waits, it faults, or the granule's `n` bytes are credited. -/
def State.granuleMoved (u : State) (no i : Nat) (t : Nat × Nat × Nat) (n : Nat) (x : Cmd) : Moved → State
  | .stays => u
  | .fault f buf =>
    if f.fail.cause == 1 then u.cmdPage no x i buf (f.off % (2 ^ 48 : Int)).toNat false false else u.cmdAbort no x t.2.2 f buf
  | .landed => u.creditCmd no x i n (t.2.2 + 1) (fun y => y.targets.all (fun z => z.2.2 ≥ y.granules))

section
variable {s : State} {no i : Nat} {x : Cmd} {t : Nat × Nat × Nat}

/-- What may move of a command is its granule (16 R287, R297). -/
theorem exec_granuleTransfer (hx : s.cmd no = some x) (ht : x.targets[i]? = some t) (hh : x.hold = false) (hk : x.kind ≠ 4)
    (hst : x.st ≠ 4) (hstall : s.stalled x.gang = false ∨ x.under i = true) (hmay : s.mayStart no x = true) :
    exec (.granuleTransfer no i) s = .next (s.runGranule no x i t) := by
  have hmove : s.mayMove no x i = true := by
    have hstall' : (s.stalled x.gang && !x.under i) = false := by rcases hstall with h | h <;> simp [h]
    unfold State.mayMove
    rw [hh, beq_false_of_ne (show x.kind ≠ kFerry from hk), beq_false_of_ne (show x.st ≠ csFaulted from hst), hstall', hmay]
    rfl
  change execGranuleTransfer no i s = _
  unfold execGranuleTransfer
  simp only [hx, ht, hh, hmove, Bool.false_eq_true, if_false, if_true]

theorem State.runGranule_moves {lo hi : Nat} {u : State} {x' : Cmd} {r : Moved} (hg : t.2.2 < x.granules) (htot : x.total ≠ 0)
    (hland : x.landed.contains i = false) (hlo : lo = t.2.2 * 65536) (hhi : hi = Nat.min x.total (lo + 65536))
    (hm : s.moveGranule no x i t lo hi (fun j => !x.parts.contains (i, j)) = (u, x', r)) :
    s.runGranule no x i t = u.granuleMoved no i t (hi - lo) x' r := by
  subst hlo hhi
  unfold State.runGranule
  rw [if_neg htot, if_neg (Nat.not_le.mpr hg), hland, if_neg Bool.false_ne_true]
  change (match s.moveGranule no x i t (t.2.2 * 65536) (Nat.min x.total (t.2.2 * 65536 + 65536)) (fun j => !x.parts.contains (i, j)) with
    | (s1, _, .stays) => s1
    | (s1, y, .fault f buf) =>
      if f.fail.cause == 1 then s1.cmdPage no y i buf (f.off % (2 ^ 48 : Int)).toNat false false
      else s1.cmdAbort no y t.2.2 f buf
    | (s1, y, .landed) => s1.creditCmd no y i _ (t.2.2 + 1) _) = _
  rw [hm]
  cases r <;> rfl

end

theorem commandEvents_transfer (s : State) (no i : Nat) (x : Cmd) (t : Nat × Nat × Nat) (hx : s.cmd no = some x)
    (ht : x.targets[i]? = some t) (hh : x.hold = false) (hk : x.kind ≠ 4) (hst : x.st ≠ 4)
    (hstall : s.stalled x.gang = false ∨ x.under i = true) (hmay : s.mayStart no x = true) (hg : t.2.2 < x.granules)
    (htot : x.total ≠ 0) (hland : x.landed.contains i = false) (lo hi : Nat) (u : State) (x' : Cmd) (r : Moved)
    (hlo : lo = t.2.2 * 65536) (hhi : hi = Nat.min x.total (lo + 65536))
    (hm : s.moveGranule no x i t lo hi (fun j => !x.parts.contains (i, j)) = (u, x', r)) :
    (r = .landed → ∀ v, (u.coverAhead no x' i t.2.2).agentCredit (x'.who u) 3 (refBuf x'.bo) (refOff x'.bo) (hi - lo) (x'.ev { kind := 15 })
        (BitVec.ofNat 64 x'.tag) = (v, .made) →
      ∀ y, y = { (x'.setTarget i (t.2.2 + 1)).dropRead with
          doneb := (x'.doneb + (hi - lo)) % 2 ^ 48, st := 2, marred := false
          landed := x'.landed.filter (fun j => j != i), parts := x'.parts.filter (fun p => p.1 != i) } →
        ((∀ z ∈ y.targets, y.granules ≤ z.2.2) → exec (.granuleTransfer no i) s = .next (v.closeCmd no y 5 0)) ∧
        ((∃ z ∈ y.targets, z.2.2 < y.granules) → exec (.granuleTransfer no i) s = .next (v.keepCmd no y))) ∧
    (∀ f buf, r = .fault f buf →
      (f.fail.cause = 1 →
        exec (.granuleTransfer no i) s = .next (u.cmdPage no x' i buf (f.off % (2 ^ 48 : Int)).toNat false false)) ∧
      (f.fail.cause ≠ 1 → exec (.granuleTransfer no i) s = .next (u.cmdAbort no x' t.2.2 f buf))) := by
  rw [exec_granuleTransfer hx ht hh hk hst hstall hmay, State.runGranule_moves hg htot hland hlo hhi hm]
  refine ⟨fun hr v hv y hy => ?_, fun f buf hr => ?_⟩ <;> subst hr
  · unfold State.granuleMoved
    rw [State.creditCmd_made hv hy]
    refine ⟨fun hall => ?_, fun ⟨z, hz, hlt⟩ => ?_⟩ <;> refine congrArg Host.Outcome.next ?_
    · rw [if_pos (List.all_eq_true.mpr (fun z hz => decide_eq_true (hall z hz)))]
      rfl
    · rw [if_neg]
      intro hall
      exact absurd (of_decide_eq_true (List.all_eq_true.mp hall z hz)) (Nat.not_le.mpr hlt)
  · exact ⟨fun h => congrArg Host.Outcome.next (if_pos (beq_iff_eq.mpr h)),
      fun h => congrArg Host.Outcome.next (if_neg (by simpa using h))⟩

theorem commandEvents_restart (s : State) (no i : Nat) (x : Cmd) (t : Nat × Nat × Nat) (hx : s.cmd no = some x)
    (ht : x.targets[i]? = some t) (hh : x.hold = false) (hk : x.kind ≠ 4) (hst : x.st = 4) (hstop : x.stop = i) (y : Cmd) (u : State)
    (hy : y = { x with st := 2 }) (hu : u = s.runGranule no y i t) :
    ((∃ z, u.cmd no = some z ∧ z.st = 4) → exec (.granuleRestart no i) s = .next s) ∧
    ((∀ z, u.cmd no = some z → z.st ≠ 4) → (x.gang = none → exec (.granuleRestart no i) s = .next u) ∧
    (∀ n, x.gang = some n →
      (s.gangFaults n (fun k => k != no) = false → exec (.granuleRestart no i) s = .next (u.restall n)) ∧
      (s.gangFaults n (fun k => k != no) = true → exec (.granuleRestart no i) s = .next ((s.keepCmd no y).restall n)))) := by
  have hgo : (x.st != csFaulted || x.stop != i) = false := by rw [hst, hstop]; simp [csFaulted]
  have hexec : exec (.granuleRestart no i) s =
      if (match u.cmd no with
        | some z => z.st == csFaulted
        | none => false) then .next s
      else .next (match x.gang with
        | some g => (if s.stalledBut no x then s.keepCmd no y else u).restall g
        | none => if s.stalledBut no x then s.keepCmd no y else u) := by
    change execGranuleRestart no i s = _
    unfold execGranuleRestart
    rw [hx]
    dsimp only
    rw [ht]
    dsimp only
    rw [hgo, if_neg Bool.false_ne_true, if_neg (show ¬ x.kind = kFerry from hk),
      show ({ x with st := csActive } : Cmd) = y from hy.symm, ← hu, hh]
    rfl
  rw [hexec]
  refine ⟨fun ⟨z, hz, hf⟩ => ?_, fun hnot => ?_⟩
  · rw [hz]
    exact if_pos (beq_iff_eq.mpr hf)
  · have hstill : (match u.cmd no with
        | some z => z.st == csFaulted
        | none => false) = false := by
      cases hz : u.cmd no with
      | none => rfl
      | some z => exact beq_false_of_ne (hnot z hz)
    rw [hstill, if_neg Bool.false_ne_true]
    refine ⟨fun hn => ?_, fun n hn => ⟨fun hf => ?_, fun hf => ?_⟩⟩
    · rw [State.stalledBut, hn]
      rfl
    · rw [show s.stalledBut no x = false by rw [State.stalledBut, hn]; exact hf, hn]
      rfl
    · rw [show s.stalledBut no x = true by rw [State.stalledBut, hn]; exact hf, hn]
      rfl

-- the ferry

theorem State.pinnedAny_of_cores {s t : State} (h : t.cores = s.cores) (ls : List Nat) : t.pinnedAny ls = s.pinnedAny ls := by
  unfold State.pinnedAny State.pinnedFor
  rw [h]

theorem State.keepCmd_cores (s : State) (no : Nat) (x : Cmd) : (s.keepCmd no x).cores = s.cores := State.modInfo_cores ..

theorem commandEvents_ferry (s : State) (no p q : Nat) (x : Cmd) (ls : List Nat) (hx : s.cmd no = some x) (hk : x.kind = 4)
    (hf : s.framesOf x = [p, q]) (hls : ls = frameLines p ++ frameLines q) (h0 : (x.targets.headD (0, 0, 0)).2.2 = 0) :
    (x.st = 1 → s.stalled x.gang = false → s.stor.frames.length < 32 → s.heldUnit p = false → s.heldUnit q = false →
      s.pinnedAny ls = true →
      ∀ u, u = { s with stor := { s.stor with frames := s.stor.frames ++ [p, q] } } →
      exec (.ferryExchange no) s = .next (u.keepCmd no { x with st := 2 })) ∧
    (x.st = 2 → s.pinnedAny ls = false → ∀ u v y, u = ((s.flushLines ls).ferryBad x [p, q]).swapFrames p q →
      v = { u with stor := { u.stor with frames := u.stor.frames.filter (fun f => !([p, q].contains f)) } } → y = x.setTarget 0 1 →
      exec (.ferryExchange no) s = .next ((v.keepCmd no y).creditCmd no y 0 131072 2 (fun _ => true))) := by
  have hexec : exec (.ferryExchange no) s = .next (s.ferry no x) := by
    change execFerryExchange no s = _
    rw [execFerryExchange, hx]
  have hlines : [p, q].flatMap frameLines = ls := by rw [hls]; simp
  rw [hexec]
  refine ⟨fun hst hstall hroom hp hq hpin u hu => ?_, fun hst hpin u v y hu hv hy => ?_⟩ <;> refine congrArg Host.Outcome.next ?_
  · have hkind : (x.kind != kFerry || x.st == csFaulted) = false := by rw [hk, hst]; rfl
    have hq1 : (x.st == csQueued && s.stalled x.gang) = false := by rw [hstall, Bool.and_false]
    have hact : (x.st == csActive) = false := by rw [hst]; rfl
    have hfree : (decide (32 ≤ s.stor.frames.length) || [p, q].any s.heldUnit) = false := by simp [hp, hq, hroom]
    have hpin' : (u.keepCmd no { x with st := csActive }).pinnedAny ls = true := by
      rw [State.pinnedAny_of_cores (State.keepCmd_cores ..), hu]
      exact hpin
    unfold State.ferry
    simp only [hkind, hq1, hact, h0, hf, ge_iff_le, hfree, hlines, ← hu, hpin', bne_self_eq_false, Bool.false_eq_true, if_false, if_true,
      Bool.and_false, Bool.not_false]
    rfl
  · have hkind : (x.kind != kFerry || x.st == csFaulted) = false := by rw [hk, hst]; rfl
    have hq1 : (x.st == csQueued && s.stalled x.gang) = false := by rw [hst]; rfl
    have hact : (x.st == csActive) = true := by rw [hst]; rfl
    have hx2 : ({ x with st := csActive } : Cmd) = x := by
      cases x
      simp only at hst
      subst hst
      rfl
    unfold State.ferry
    simp only [hkind, hq1, hact, h0, hf, hlines, hpin, hx2, bne_self_eq_false, Bool.false_eq_true, if_false, if_true,
      Bool.not_true, Bool.false_and, List.headD_cons, List.getD_cons_succ, List.getD_cons_zero, ← hu, ← hv, ← hy]

-- the exchange

theorem Memory.readN_length (m : Memory) (a n : Nat) : (m.readN a n).length = n := by
  induction n generalizing a with
  | zero => rfl
  | succ n ih => rw [Memory.readN, List.length_cons, ih]

theorem Memory.readN_getD (m : Memory) (a : Nat) {n k : Nat} (hk : k < n) (d : Byte) : (m.readN a n).getD k d = m.read (a + k) := by
  induction n generalizing a k with
  | zero => omega
  | succ n ih =>
    cases k with
    | zero => rfl
    | succ k => rw [Memory.readN, List.getD_cons_succ, ih _ (by omega), Nat.add_assoc, Nat.add_comm 1 k]

/-- Two frames whose contents have changed places. -/
def Memory.swapped (m : Memory) (p q : Nat) : Memory :=
  (m.writeN (p * granule) (m.readN (q * granule) granule)).writeN (q * granule) (m.readN (p * granule) granule)

theorem Memory.read_swapped {m : Memory} (h : m.wf = true) {p q : Nat} (a : Nat) :
    (m.swapped p q).read a = if a / 65536 = q then m.read (p * 65536 + a % 65536)
      else if a / 65536 = p then m.read (q * 65536 + a % 65536) else m.read a := by
  have hin : ∀ f, (f * 65536 ≤ a ∧ a < f * 65536 + 65536) ↔ a / 65536 = f := fun f => by omega
  have hoff : ∀ f, a / 65536 = f → a - f * 65536 = a % 65536 := fun f hf => by omega
  have hlt : a % 65536 < 65536 := Nat.mod_lt _ (by decide)
  rw [Memory.swapped, granule, Memory.read_writeN (Memory.writeN_wf _ _ h), Memory.read_writeN h, Memory.readN_length, Memory.readN_length]
  simp only [hin]
  by_cases hq : a / 65536 = q
  · rw [if_pos hq, if_pos hq, hoff q hq, Memory.readN_getD _ _ hlt]
  · rw [if_neg hq, if_neg hq]
    by_cases hp : a / 65536 = p
    · rw [if_pos hp, if_pos hp, hoff p hp, Memory.readN_getD _ _ hlt]
    · rw [if_neg hp, if_neg hp]

theorem State.mapAllAhead_mem (s : State) (f : Nat → Eng → Nat → Ahead → Option Ahead) :
    (s.mapAllAhead f).mem = s.mem ∧ (s.mapAllAhead f).sched = s.sched := by
  unfold State.mapAllAhead
  split
  · exact ⟨rfl, rfl⟩
  · suffices H : ∀ (l : List (Nat × Core)) (s : State), (l.foldl (fun s x => s.mapAhead x.1 (f x.1)) s).mem = s.mem ∧
        (l.foldl (fun s x => s.mapAhead x.1 (f x.1)) s).sched = s.sched from H _ s
    intro l
    induction l with
    | nil => exact fun _ => ⟨rfl, rfl⟩
    | cons x l ih =>
      intro s
      rw [List.foldl_cons]
      obtain ⟨h1, h2⟩ := ih (s.mapAhead x.1 (f x.1))
      have hone : (s.mapAhead x.1 (f x.1)).mem = s.mem ∧ (s.mapAhead x.1 (f x.1)).sched = s.sched := by
        unfold State.mapAhead
        split <;> exact ⟨rfl, rfl⟩
      exact ⟨h1.trans hone.1, h2.trans hone.2⟩

/-- Marks and clean copies of two frames, and what was read ahead of them, turn over without a change of memory, as do wakes where no
task watches or waits on an object. -/
theorem State.turned_mem (s : State) (m : Memory) (p q : Nat) (clean : State → Store Nat)
    (hquiet : ∀ x ∈ s.sched.tasks, x.2.watch = none ∧ x.2.home = none) (ls : List Nat) :
    (ls.foldl (fun s l => s.wake l) ((State.dropAhead { (s.setMem m).swapMarks p q with
      stor := { ((s.setMem m).swapMarks p q).stor with clean := clean ((s.setMem m).swapMarks p q) } } p).dropAhead q)).mem = m := by
  generalize ht : ({ (s.setMem m).swapMarks p q with
    stor := { ((s.setMem m).swapMarks p q).stor with clean := clean ((s.setMem m).swapMarks p q) } } : State) = t
  have hmem : t.mem = m := by rw [← ht]; rfl
  have hsched : t.sched = s.sched := by rw [← ht]; rfl
  have hline : ∀ l, ((t.dropAhead p).dropAhead q).quietLine l := fun l x hx => by
    rw [show ((t.dropAhead p).dropAhead q).sched = s.sched from
      (State.mapAllAhead_mem ..).2.trans ((State.mapAllAhead_mem ..).2.trans hsched)] at hx
    obtain ⟨hw, hh⟩ := hquiet x hx
    exact ⟨fun w h => absurd (hw.symm.trans h) (by simp), fun k h => absurd (hh.symm.trans h) (by simp)⟩
  rw [foldl_eq_self (fun l _ => State.wake_quiet (hline l))]
  exact (State.mapAllAhead_mem ..).1.trans ((State.mapAllAhead_mem ..).1.trans hmem)

/-- Where no task watches or waits on an object, an exchange does nothing to memory but exchange (16 R293). -/
theorem State.swapFrames_mem {s : State} (p q : Nat) (hquiet : ∀ x ∈ s.sched.tasks, x.2.watch = none ∧ x.2.home = none) :
    (s.swapFrames p q).mem = s.mem.swapped p q := by
  rw [Memory.swapped]
  exact State.turned_mem s _ p q (fun u => u.stor.clean.filter (fun x => x.1 != p && x.1 != q)) hquiet _

theorem commandEvents_exchange (s : State) (p q k : Nat) (hwf : s.mem.wf = true) (hpq : p ≠ q) (hk : k < 65536)
    (hquiet : ∀ x ∈ s.sched.tasks, x.2.watch = none ∧ x.2.home = none) :
    (s.swapFrames p q).mem.read (p * 65536 + k) = s.mem.read (q * 65536 + k) ∧
    (s.swapFrames p q).mem.read (q * 65536 + k) = s.mem.read (p * 65536 + k) ∧
    ∀ a, a / 65536 ≠ p → a / 65536 ≠ q → (s.swapFrames p q).mem.read a = s.mem.read a := by
  have hdiv : ∀ f, (f * 65536 + k) / 65536 = f := fun f => by omega
  have hmod : ∀ f, (f * 65536 + k) % 65536 = k := fun f => by omega
  rw [State.swapFrames_mem p q hquiet]
  refine ⟨?_, ?_, fun a hp hq => ?_⟩
  · rw [Memory.read_swapped hwf, hdiv, hmod, if_neg hpq, if_pos rfl]
  · rw [Memory.read_swapped hwf, hdiv, hmod, if_pos rfl]
  · rw [Memory.read_swapped hwf, if_neg hq, if_neg hp]

/-- Settles O50: the parts of the copy and ferry engines assembled. -/
theorem commandEvents : Obligations.CommandEvents := by
  refine ⟨fun s no i x t hx ht hh => ⟨fun hk hst hstall hmay hg htot hland lo hi u x' r =>
    commandEvents_transfer s no i x t hx ht hh hk hst hstall hmay hg htot hland lo hi u x' r,
    commandEvents_restart s no i x t hx ht hh⟩, commandEvents_ferry, commandEvents_exchange⟩

end Sys2Proof.Machine
end

section
/-! Settled: the steps of collective programs (21 R355 to R362). -/

namespace Sys2Proof.Machine

-- how a step ends

/-- What becomes of a program with the end of a step: it pays its credits and goes on, waits inside the step, or stops. -/
def State.stepEnds (no : Nat) (p : Prog) (i : Instr) : State × StepEnd → State
  | (u, .done q owe) => u.payAll no q owe
  | (u, .stay q) =>
    u.setProg no { q with phase := Nat.max 1 q.phase, cur := some i, since := if p.phase = 0 then u.wall else p.since }
  | (u, .stop q status cause) => u.stopProg no q status cause

/-- A step that may run and is in order runs. -/
theorem State.doStep_runs {s : State} {no : Nat} {p : Prog} {i : Instr} {a : StepArgs} {f : State → Prog → State × StepEnd}
    (hp : s.prog? no = some p) (hr : p.runnable = true) (hs : s.stalled p.gang = false)
    (hl : (a.li || a.sa || a.sb) = true → p.loops ≠ []) (hi : i.wf .L = true) (hc : p.phase = 0 ∨ p.cur = some i) :
    s.doStep no i a f = State.stepEnds no p i (f s p) := by
  have hgo : (!p.runnable || s.stalled p.gang || !(p.phase == 0 || p.cur == some i)) = false := by
    rcases hc with h | h <;> simp [hr, hs, h]
  have hok : (!i.wf .L || ((a.li || a.sa || a.sb) && p.loops.isEmpty)) = false := by
    have hloop : ((a.li || a.sa || a.sb) && p.loops.isEmpty) = false := by
      cases h : a.li || a.sa || a.sb
      · rfl
      · simpa using hl h
    rw [hi, hloop]
    rfl
  unfold State.doStep
  rw [hp]
  dsimp only
  rw [hgo, if_neg Bool.false_ne_true, hok, if_neg Bool.false_ne_true]
  generalize f s p = r
  obtain ⟨u, e⟩ := r
  cases e <;> rfl

/-- `i` is a step word, and `f` what its step comes to. -/
def State.StepOf (s : State) (no : Nat) (p : Prog) (a : StepArgs) (i : Instr) (f : State × StepEnd) : Prop :=
  (i = .send a ∧ f = s.sendStep p a) ∨ (i = .recv a ∧ f = s.recvStep p a) ∨ (i = .pushred a ∧ f = s.pushStep no p a) ∨
    (i = .pull a ∧ f = s.pullStep no p a) ∨ (i = .collCopy a ∧ f = s.copyStep p a) ∨ (i = .wait a ∧ f = s.waitStep p a) ∨
    (i = .collSignal a ∧ f = s.signalStep p a) ∨ (i = .collLoop a ∧ f = s.loopStep p a) ∨ (i = .endl a ∧ f = s.endlStep p) ∨
    (i = .countx a ∧ f = s.countStep p) ∨ (i = .pfxsum a ∧ f = s.pfxStep p) ∨ (i = .collEnd a ∧ f = s.endStep p)

section
variable {s : State} {no : Nat} {p : Prog} {a : StepArgs} (hno : s.coll.cur = no) (hp : s.prog? no = some p)
  (hr : p.runnable = true) (hs : s.stalled p.gang = false) (hl : (a.li || a.sa || a.sb) = true → p.loops ≠ [])
include hno hp hr hs hl

/-- Every step word is its step, and what becomes of its program. -/
theorem exec_collStep {i : Instr} {f : State × StepEnd}
    (hif : s.StepOf no p a i f)
    (hi : i.wf .L = true) (hc : p.phase = 0 ∨ p.cur = some i) : exec i s = .next (State.stepEnds no p i f) := by
  subst hno
  rcases hif with h | h | h | h | h | h | h | h | h | h | h | h <;> obtain ⟨rfl, rfl⟩ := h <;>
    exact congrArg Host.Outcome.next (State.doStep_runs hp hr hs hl hi hc)

/-- A step that is done and owes nothing: the program stands at the next. -/
theorem exec_collStep_done {i : Instr} {f : State × StepEnd} {u : State} {q : Prog}
    (hif : s.StepOf no p a i f)
    (hi : i.wf .L = true) (hc : p.phase = 0 ∨ p.cur = some i) (hf : f = (u, .done q [])) (ha : q.after = 0)
    {r : Prog} (hq : r = { q with owe := [], phase := 0, cur := none }) : exec i s = .next (u.setProg no r) := by
  rw [exec_collStep hno hp hr hs hl hif hi hc, hf, hq]
  exact congrArg Host.Outcome.next (if_pos ha)

/-- Waits, loops and signals (21 R356, R358, R361). -/
theorem collectiveSteps_control (hphase : p.phase = 0) (go : Prog → Prog)
    (hgo : ∀ q : Prog, go q = { q with owe := [], phase := 0, cur := none }) :
    (Instr.wf .L (.wait a) = true → a.len.toNat ≤ p.sig.get a.slot.toNat 0 →
      exec (.wait a) s = .next (s.setProg no (go { p with step := p.step + 1 }))) ∧
    (Instr.wf .L (.collLoop a) = true → p.loops.length < 4 → a.len ≠ 0 → exec (.collLoop a) s =
      .next (s.setProg no (go { p with step := p.step + 1, loops := (p.step + 1, 0, a.len.toNat) :: p.loops }))) ∧
    (Instr.wf .L (.endl a) = true → ∀ start i n ls, p.loops = (start, i, n) :: ls →
      (i + 1 < n → exec (.endl a) s = .next (s.setProg no (go { p with step := start, loops := (start, i + 1, n) :: ls }))) ∧
      (n ≤ i + 1 → exec (.endl a) s = .next (s.setProg no (go { p with step := p.step + 1, loops := ls })))) ∧
    (Instr.wf .L (.collSignal a) = true → ∀ d, p.peerOf a = some d → s.hasPath (s.pkgOf p.comm d) = true →
      s.openMsgs p isWrite = false → s.epochHeld p d = false → exec (.collSignal a) s =
        .next ((s.sendMsg (p.msg d (.signal a.slot.toNat))).setProg no (go { p with step := p.step + 1 }))) := by
  have hafter : p.after = 0 := by
    simp only [Prog.runnable, Bool.and_eq_true, beq_iff_eq] at hr
    exact hr.2
  refine ⟨fun hi hlen => ?_, fun hi hlt hlen => ?_, fun hi start i n ls hls => ⟨fun hlt => ?_, fun hge => ?_⟩,
    fun hi d hd hpath hopen hheld => ?_⟩
  · refine exec_collStep_done (u := s) (q := p.next) hno hp hr hs hl
      (by simp [State.StepOf]; rfl) hi (.inl hphase) ?_ hafter (hgo _)
    exact if_pos hlen
  · refine exec_collStep_done (u := s) (q := { p.next with loops := (p.step + 1, 0, a.len.toNat) :: p.loops }) hno hp hr hs hl
      (by simp [State.StepOf]; rfl) hi (.inl hphase) ?_ hafter (hgo _)
    unfold State.loopStep
    rw [if_neg (by omega), if_neg (by simpa using hlen)]
  · refine exec_collStep_done (u := s) (q := { p with step := start, loops := (start, i + 1, n) :: ls }) hno hp hr hs hl
      (by simp [State.StepOf]; rfl) hi (.inl hphase) ?_ hafter (hgo _)
    unfold State.endlStep
    rw [hls]
    exact if_pos hlt
  · refine exec_collStep_done (u := s) (q := { p.next with loops := ls }) hno hp hr hs hl
      (by simp [State.StepOf]; rfl) hi (.inl hphase) ?_ hafter (hgo _)
    unfold State.endlStep
    rw [hls]
    exact if_neg (by omega)
  · refine exec_collStep_done (u := (s.sendMsg (p.msg d (.signal a.slot.toNat)))) (q := p.next) hno hp hr hs hl
      (by simp [State.StepOf]; rfl) hi (.inl hphase) ?_ hafter (hgo _)
    unfold State.signalStep
    rw [hd]
    dsimp only
    rw [hpath, hopen, hheld]
    rfl

end

-- the start of a program

@[simp] theorem State.showProg_coll (s : State) (no : Nat) (p : Prog) (st err : Nat) : (s.showProg no p st err).coll = s.coll :=
  State.modInfo_coll ..

theorem State.showProg_stor (s : State) (no : Nat) (p : Prog) (st err : Nat) : (s.showProg no p st err).stor = s.stor := by
  unfold State.showProg State.modInfo
  split <;> rfl

/-- A program starts in the epoch of its rank, and counts it (21 R360). -/
theorem State.startProg_spec (u : State) (no : Nat) (q : Prog) :
    (u.startProg no q).prog? no = some { q with started := true, epoch := u.epochOf q.comm q.rank % 65536 } ∧
    (u.startProg no q).epochOf q.comm q.rank = u.epochOf q.comm q.rank + 1 := by
  refine ⟨?_, ?_⟩
  · unfold State.startProg State.prog?
    rw [State.showProg_coll]
    exact (Store.find?_put ..).trans (if_pos rfl)
  · have hcut : (u.startProg no q).stor.cut.contains q.comm = false := by
      unfold State.startProg
      rw [State.showProg_stor]
      exact List.contains_eq_mem .. |>.trans (decide_eq_false (by simp [State.setProg]))
    have hepochs : (u.startProg no q).coll.epochs.get (rankKey q.comm q.rank) 0 = u.epochOf q.comm q.rank + 1 := by
      unfold State.startProg
      rw [State.showProg_coll]
      exact (Store.get_put ..).trans (if_pos rfl)
    rw [State.epochOf, hcut, if_neg Bool.false_ne_true, hepochs]

theorem collectiveSteps_start (s u : State) (no : Nat) (p q : Prog) (ws : List Word) (hp : s.prog? no = some p)
    (hst : p.started = false) (hstatus : p.status = none) (hhdr : p.hdr = []) (hstall : s.stalled p.gang = false)
    (hread : s.readWords (p.who s) p.cbuf 0 24 = (u, .ok ws)) (hq : q = { p with hdr := ws, comm := bitsOf (ws.getD 0 0) 16 16 })
    (hbehind : u.progBehind no q = false) :
    (u.commOk q = false → exec (.collProgramStart no) s = .next (u.stopProg no q 7 0)) ∧
    (u.commOk q = true → ∃ (t : State) (x : Prog), exec (.collProgramStart no) s = .next t ∧ t.prog? no = some x ∧ x.started = true ∧
      x.epoch = u.epochOf q.comm q.rank % 65536 ∧ x.hdr = ws ∧ x.step = p.step ∧
      t.epochOf q.comm q.rank = u.epochOf q.comm q.rank + 1) := by
  have hexec : exec (.collProgramStart no) s = .next (if u.commOk q then u.startProg no q else u.stopProg no q 7 0) := by
    change Host.Outcome.next (s.collStart no) = _
    refine congrArg Host.Outcome.next ?_
    unfold State.collStart
    have hgo : (p.started || p.status.isSome || s.stalled p.gang) = false := by rw [hst, hstatus, hstall]; rfl
    have hempty : p.hdr.isEmpty = true := by rw [hhdr]; rfl
    rw [hp]
    dsimp only
    rw [hgo, if_neg Bool.false_ne_true, hempty, if_pos rfl, hread]
    dsimp only
    rw [← hq, hbehind, if_neg Bool.false_ne_true]
  rw [hexec]
  refine ⟨fun h => by rw [h, if_neg Bool.false_ne_true], fun h => ?_⟩
  obtain ⟨hprog, hepoch⟩ := u.startProg_spec no q
  rw [if_pos h]
  exact ⟨_, _, rfl, hprog, rfl, rfl, by rw [hq], by rw [hq], hepoch⟩

/-- A waiting step is run again. -/
theorem collectiveSteps_again (s : State) (no : Nat) (p : Prog) (i : Instr) (a : StepArgs) (hp : s.prog? no = some p)
    (hc : p.cur = some i)
    (hi : i = .send a ∨ i = .recv a ∨ i = .pushred a ∨ i = .pull a ∨ i = .collCopy a ∨ i = .wait a ∨ i = .collSignal a ∨
      i = .collLoop a ∨ i = .countx a ∨ i = .pfxsum a ∨ i = .collEnd a) :
    ∃ t : State, exec i { s with coll := { s.coll with cur := no } } = .next t ∧ exec (.collStepComplete no) s = .next t := by
  have hcur : (({ s with coll := { s.coll with cur := no } }).prog? no).bind Prog.cur = some i := by
    rw [show ({ s with coll := { s.coll with cur := no } } : State).prog? no = s.prog? no from rfl, hp]
    exact hc
  have hexec : ∀ r, exec (.collStepComplete no) s = r ↔ execCollStepComplete no s = r := fun _ => Iff.rfl
  rcases hi with h | h | h | h | h | h | h | h | h | h | h <;> subst h <;>
    refine ⟨_, rfl, (hexec _).mpr ?_⟩ <;> unfold execCollStepComplete <;> dsimp only <;> rw [hcur] <;> rfl

/-- Settles O51: the parts of the steps of collective programs assembled. -/
theorem collectiveSteps : Obligations.CollectiveSteps := by
  refine ⟨fun s no p a hno hp hr hs hl => ⟨fun i f hif hi hc => ?_, fun hphase go hgo =>
    collectiveSteps_control hno hp hr hs hl hphase go hgo⟩, collectiveSteps_start, fun s comm rank => ⟨fun h => ?_, fun h => ?_⟩,
    collectiveSteps_again⟩
  · have hexec := exec_collStep hno hp hr hs hl hif hi hc
    exact ⟨fun u q owe hf => by rw [hexec, hf]; rfl, fun u q hf => by rw [hexec, hf]; rfl, fun u q st c hf => by rw [hexec, hf]; rfl⟩
  · rw [State.epochOf, if_pos h]
  · rw [State.epochOf, if_neg (by rw [h]; exact Bool.false_ne_true)]

end Sys2Proof.Machine
end

section
/-! Settled: the steps of collective programs that move data (21 R356 to R361). -/

namespace Sys2Proof.Machine

-- what each step comes to

section
variable {s : State} {p : Prog} {a : StepArgs} {so do_ : Nat} (hso : so = (if a.sa then p.loopIdx * a.len.toNat else 0))
  (hdo : do_ = (if a.sb then p.loopIdx * a.len.toNat else 0))

theorem State.sendBytes_read {v u : State} {d len o q : Nat} {bs : List (Byte × Bool)}
    (hr : v.streamRead (p.who v) (refBuf (p.handle a.ha)) (refOff (p.handle a.ha) + o) len = (u, .ok bs)) :
    v.sendBytes p a d len o q = ((u.noteBad p (p.handle a.ha) (refOff (p.handle a.ha) + o) bs).sendAll p d (refBuf (p.handle a.hb))
      a.c (refOff (p.handle a.hb) + q) len (refOff (p.handle a.hb) + q) (splitGranules bs), .done p.next []) := by
  unfold State.sendBytes
  dsimp only
  rw [hr]
  rfl

include hso hdo in
theorem State.sendStep_sends {v : State} {d len o q : Nat} (hd : p.peerOf a = some d) (hpath : s.hasPath (s.pkgOf p.comm d) = true)
    (hheld : s.epochHeld p d = false)
    (hsrc : (a.ix = false ∧ v = s ∧ len = a.len.toNat ∧ o = so ∧ q = do_) ∨
      (a.ix = true ∧ ∃ n x y u1 u2, s.xchg p 0 d 1 = (u1, .ok n) ∧ head0 n < 2 ^ 32 ∧ u1.xchg p 2 d 1 = (u2, .ok x) ∧
        u2.xchg p 4 d 1 = (v, .ok y) ∧ len = head0 n ∧ o = head0 x ∧ q = head0 y)) :
    s.sendStep p a = v.sendBytes p a d len o q := by
  unfold State.sendStep
  rw [hd]
  dsimp only
  rw [hpath, hheld]
  rcases hsrc with ⟨hix, hv, hlen, ho, hq⟩ | ⟨hix, n, x, y, u1, u2, h1, hlt, h2, h4, hlen, ho, hq⟩
  · rw [hix, hv, hlen, ho, hq, hso, hdo]
    rfl
  · rw [hix, h1, hlen, ho, hq]
    change (if head0 n ≥ 2 ^ 32 then _ else andThen (u1.xchg p 2 d 1) p _) = _
    rw [if_neg (Nat.not_le.mpr hlt), h2]
    change andThen (u2.xchg p 4 d 1) p _ = _
    rw [h4]
    rfl

theorem State.recvStep_counts {v : State} {d n : Nat} {q : Prog} (hphase : p.phase = 0) (hd : p.peerOf a = some d)
    (hpath : s.hasPath (s.pkgOf p.comm d) = true) (hn : s.recvLen p a d = (v, .ok n)) (hlt : n < 2 ^ 32)
    (hq : q = { p with expect := p.expect.put d ((p.expect.get d 0 + n) % 2 ^ 32), phase := 4 }) :
    s.recvStep p a = if q.expect.get d 0 ≤ p.recv.get d 0 then (v, .done q.next (owed a.c n)) else (v, .stay q) := by
  unfold State.recvStep
  rw [hd]
  dsimp only
  rw [hpath, hn, hq]
  change (if n ≥ 2 ^ 32 then _ else _) = _
  rw [if_neg (Nat.not_le.mpr hlt), if_neg (show ¬ p.phase = 4 by rw [hphase]; decide)]

include hso in
theorem State.pushStep_sends {no n : Nat} {u w x : State} {bs : List (Byte × Bool)} {m : Msg} (hphase : p.phase = 0)
    (hn : redFields a = some n) (hpushed : s.coll.pushed.contains (no * 64 + a.slot.toNat) = false) (hred : s.noReduce p.comm = false)
    (hhome : s.commHome p.comm = 0xFFFF ∨ s.soundUp = true)
    (hr : s.streamRead (p.who s) (refBuf (p.handle a.ha)) (refOff (p.handle a.ha) + so) a.len.toNat = (u, .ok bs))
    (hw : w = u.noteBad p (p.handle a.ha) (refOff (p.handle a.ha) + so) bs)
    (hm : m = p.msg (if s.commHome p.comm = 0xFFFF then p.rank else 2 ^ 20 + s.commHome p.comm)
      (.contrib a.slot.toNat (w.coll.gens.get (genKey p.comm p.rank a.slot.toNat) 0)
        (signature a.ty.toNat a.rop.toNat (a.len.toNat / n)) (bs.map (fun b => b.1))
        ((List.range (a.len.toNat / n)).filter (fun e => ((bs.drop (n * e)).take n).any (fun b => b.2))) p.tmo))
    (hx : x = w.sendMsg m) :
    s.pushStep no p a =
      ({ x with coll := { x.coll with pushed := (no * 64 + a.slot.toNat) :: x.coll.pushed } }, .stay { p with phase := 4 }) := by
  have hsound : (s.commHome p.comm != 0xFFFF && !s.soundUp) = false := by rcases hhome with h | h <;> simp [h]
  subst hso
  unfold State.pushStep
  rw [if_neg (by rw [hphase]; decide), if_neg (by rw [hphase]; decide), if_neg (by rw [hphase]; decide), hn]
  dsimp only
  rw [hpushed, hred, hsound, if_neg Bool.false_ne_true, if_neg Bool.false_ne_true, if_neg Bool.false_ne_true, hr, hx, hm, hw]
  rfl

include hdo in
theorem State.pullStep_writes {no n : Nat} {m : Msg} {sl g : Nat} {sig : BitVec 32} {bytes : List Byte} {bad : List Nat}
    {mask : List Bool} {flags : FlagSet} {partly : Bool} {ps : List Place} {u v w : State} (hn : redFields a = some n)
    (hred : s.noReduce p.comm = false) (hm : s.resultFor p a.slot.toNat = some m)
    (hbody : m.body = .result sl g sig bytes bad mask flags partly false)
    (hsig : sig = signature a.ty.toNat a.rop.toNat (a.len.toNat / n)) (hps : s.maskPlaces p mask.length = (u, .ok ps))
    (hwrite : u.streamWrite (p.who u) (refBuf (p.handle a.hb)) (refOff (p.handle a.hb) + do_)
      ((bytes.zip (List.range bytes.length)).map (fun (x : Byte × Nat) => (x.1, bad.contains (x.2 / n)))) = (v, .ok ()))
    (hw : w = ((v.writeMask p ps mask).dropResults p.comm p.rank a.slot.toNat).setGen p.comm p.rank a.slot.toNat (g + 1)) :
    s.pullStep no p a =
      ({ w with coll := { w.coll with pushed := w.coll.pushed.filter (fun k => k != no * 64 + a.slot.toNat) } },
        .done { p with step := p.step + 1, flags := p.flags ||| flags, poison := p.poison || !bad.isEmpty, partly := p.partly || partly
                       missing := (mask.filter (fun b => !b)).length, bytes := p.bytes + a.len.toNat } (owed a.c a.len.toNat)) := by
  subst hdo
  unfold State.pullStep
  rw [hn]
  dsimp only
  rw [hred, if_neg Bool.false_ne_true, hm]
  dsimp only
  rw [hbody]
  dsimp only
  rw [Bool.false_or, if_neg (by simp [hsig]), hps]
  change andThen (u.streamWrite _ _ _ _) p _ = _
  rw [hwrite, hw]
  rfl

include hso hdo in
theorem State.copyStep_moves {u1 u2 u3 u4 u5 u6 : State} {x y : Desc} {k es : Nat} {sp dp : List (List Place)} {bad : Bool}
    {src dst : Word} (hsrc : src = p.handle a.ha) (hdst : dst = p.handle a.hb)
    (hx : s.entryOf (p.who s) (refBuf src) = (u1, .ok x)) (hy : u1.entryOf (p.who s) (refBuf dst) = (u2, .ok y))
    (hk : copyUnit x y = some k) (hes : es = Nat.max 1 (k / 2)) (hmod : a.len.toNat % es = 0)
    (hread : u2.access (p.who s) (refBuf src) { need := .read, es := es, align := es }
      (offsFrom (refOff src + so) es (a.len.toNat / es)) = (u3, .ok sp))
    (hwrite : u3.access (p.who s) (refBuf dst) { need := .write, es := es, align := es, nibble := true }
      (offsFrom (refOff dst + do_) es (a.len.toNat / es)) = (u4, .ok dp))
    (hh : u4.inH (p.who s) (refBuf dst) = (u5, true)) (hheld : u5.agentHeld (sp.flatten ++ dp.flatten) = false)
    (hmove : u5.movePlaces ((p.who s).kid.getD 0) sp.flatten dp.flatten = (u6, bad)) :
    s.copyStep p a = (if bad then u6.memErr (p.ev { kind := 6 }) (refBuf src) (refOff src + so) else u6,
      .done { p with step := p.step + 1, bytes := p.bytes + a.len.toNat } (owed a.c a.len.toNat)) := by
  subst hsrc hdst hso hdo hes
  have hfit : (a.len.toNat % Nat.max 1 (k / 2) != 0 || !true) = false := by rw [hmod]; rfl
  unfold State.copyStep
  extract_lets w n off src dst
  split
  next heq =>
  cases heq.symm.trans hx
  split
  next heq =>
  cases heq.symm.trans hy
  extract_lets unit
  have hunit : unit = some k := hk
  clear_value unit
  subst hunit
  split
  next heq => cases heq
  next heq =>
  cases heq
  extract_lets es offs
  split
  next heq =>
  cases heq.symm.trans hread
  split
  next heq => cases heq
  next heq =>
  cases heq
  split
  next heq =>
  cases heq.symm.trans hwrite
  split
  next heq => cases heq
  next heq =>
  cases heq
  split
  next heq =>
  cases heq.symm.trans hh
  rw [if_neg (Bool.eq_false_iff.mp hfit), hheld, if_neg Bool.false_ne_true]
  split
  next heq =>
  cases heq.symm.trans hmove
  rfl

theorem State.countStep_sends {u x : State} {ws : List Word} (hphase : p.phase = 0) (hpath : s.allPaths p = true)
    (hr : s.xchg p 0 0 p.nrank = (u, .ok ws)) (hx : x = u.sendVals p (.count p.countNo) 0 ws) :
    s.countStep p = (x, .stay { p with phase := 4 }) := by
  unfold State.countStep
  rw [if_pos (by omega), hpath, hr, hx]
  rfl

theorem State.countStep_ends {u : State} (hphase : p.phase = 4) (hall : p.allIn p.rcnt = true)
    (hput : s.xchgPut p 1 (p.column p.rcnt) = (u, .ok ())) :
    s.countStep p = (u, .done { p.next with rcnt := [], countNo := p.countNo + 1 } []) := by
  unfold State.countStep
  rw [if_neg (by omega), if_pos hall, hput]
  rfl

theorem State.pfxStep_sends {u1 u2 u3 u4 x : State} {sc rc : List Word} (hphase : p.phase = 0) (hpath : s.allPaths p = true)
    (h1 : s.xchg p 0 0 p.nrank = (u1, .ok sc)) (h2 : u1.xchg p 1 0 p.nrank = (u2, .ok rc))
    (hlt : ∀ n ∈ prefixSums 0 sc ++ prefixSums 0 rc, n < 2 ^ 48)
    (h3 : u2.xchgPut p 2 ((prefixSums 0 sc).map (BitVec.ofNat 64)) = (u3, .ok ()))
    (h4 : u3.xchgPut p 3 ((prefixSums 0 rc).map (BitVec.ofNat 64)) = (u4, .ok ()))
    (hx : x = u4.sendVals p (.offset p.prefNo) 0 ((prefixSums 0 rc).map (BitVec.ofNat 64))) :
    s.pfxStep p = (x, .stay { p with phase := 4 }) := by
  have hany : (prefixSums 0 sc ++ prefixSums 0 rc).any (fun x => x ≥ 2 ^ 48) = false :=
    List.any_eq_false.mpr (fun n hn => by simpa using hlt n hn)
  unfold State.pfxStep
  rw [if_pos (by omega), hpath, h1]
  change andThen (u1.xchg p 1 0 p.nrank) p _ = _
  rw [h2]
  change (if (prefixSums 0 sc ++ prefixSums 0 rc).any (fun x => x ≥ 2 ^ 48) then _ else andThen (u2.xchgPut p 2 _) p _) = _
  rw [hany, if_neg Bool.false_ne_true, h3]
  change andThen (u3.xchgPut p 3 _) p _ = _
  rw [h4, hx]
  rfl

theorem State.pfxStep_ends {u : State} (hphase : p.phase = 4) (hall : p.allIn p.doff = true)
    (hput : s.xchgPut p 4 (p.column p.doff) = (u, .ok ())) :
    s.pfxStep p = (u, .done { p.next with doff := [], prefNo := p.prefNo + 1 } []) := by
  unfold State.pfxStep
  rw [if_neg (by omega), if_pos hall, hput]
  rfl

theorem State.endStep_writes {u : State} (hopen : s.openMsgs p isOpen = false)
    (hrec : s.writeRec { p with status := some 0 } = (u, .ok ())) :
    s.endStep p = (u, .done { p with status := some 0, after := 1 } [32]) := by
  unfold State.endStep
  rw [hopen, if_neg Bool.false_ne_true]
  dsimp only
  rw [hrec]
  rfl

end

/-- Settles O52: each step's own lemma, and what becomes of its program. -/
theorem collectiveDataSteps : Obligations.CollectiveDataSteps := by
  intro s no p a so do_ hno hp hr hs hl hso hdo go hgo hold hhold
  have hafter : p.after = 0 := by
    simp only [Prog.runnable, Bool.and_eq_true, beq_iff_eq] at hr
    exact hr.2
  have hstay : ∀ (i : Instr) (u v : State), p.phase = 0 → v.wall = u.wall →
      State.stepEnds no p i (v, .stay { p with phase := 4 }) = v.setProg no (hold i u) := fun i u v hphase hv => by
    rw [hhold, State.stepEnds, if_pos hphase, hv]
    rfl
  refine ⟨fun hphase => ⟨fun hi => ⟨fun hd => ?_, fun d v len o q u bs hd hpath hheld hsrc hread => ?_⟩,
    fun hi => ⟨fun hd => ?_, fun d hd hpath => ?_, fun d n v q hd hpath hn hlt hq => ⟨fun hle => ?_, fun hgt => ?_⟩⟩,
    fun hi n u bs w x m hn hpushed hred hhome hread hw hm hx => ?_,
    fun hi n m sl g sig bytes bad mask flags partly ps u v w hn hred hm hbody hsig hps hwrite hw => ?_,
    fun hi u1 u2 u3 u4 u5 u6 x y k es sp dp bad src dst hsrc hdst hx hy hk hes hmod hread hwrite hh hheld hmove => ?_,
    fun hi hpath u ws x hread hx => ?_,
    fun hi hpath u1 u2 u3 u4 sc rc x h1 h2 hlt h3 h4 hx => ?_, fun hi hopen u hrec => ?_⟩,
    fun hi hphase hcur => ?_, fun hi hphase hcur hall u hput => ?_, fun hi hphase hcur hall u hput => ?_⟩
  · refine exec_collStep_done (u := s) (q := p.next) hno hp hr hs hl (by simp [State.StepOf]; rfl) hi (.inl hphase) ?_ hafter (hgo _)
    unfold State.sendStep
    rw [hd]
  · exact exec_collStep_done hno hp hr hs hl (by simp [State.StepOf]) hi (.inl hphase)
      ((State.sendStep_sends hso hdo hd hpath hheld hsrc).trans (State.sendBytes_read hread)) hafter (hgo _)
  · refine exec_collStep_done (u := s) (q := p.next) hno hp hr hs hl (by simp [State.StepOf]; rfl) hi (.inl hphase) ?_ hafter (hgo _)
    unfold State.recvStep
    rw [hd]
  · rw [exec_collStep hno hp hr hs hl (by simp [State.StepOf]; rfl) hi (.inl hphase)]
    unfold State.recvStep
    rw [hd]
    dsimp only
    rw [hpath]
    rfl
  · rw [exec_collStep hno hp hr hs hl (by simp [State.StepOf]; rfl) hi (.inl hphase),
      State.recvStep_counts hphase hd hpath hn hlt hq, if_pos hle]
    rfl
  · rw [exec_collStep hno hp hr hs hl (by simp [State.StepOf]; rfl) hi (.inl hphase),
      State.recvStep_counts hphase hd hpath hn hlt hq, if_neg (Nat.not_le.mpr hgt), State.stepEnds, if_pos hphase, hq]
    rfl
  · rw [exec_collStep hno hp hr hs hl (by simp [State.StepOf]; rfl) hi (.inl hphase),
      State.pushStep_sends hso hphase hn hpushed hred hhome hread hw hm hx]
    exact congrArg Host.Outcome.next (hstay _ _ _ hphase rfl)
  · rw [exec_collStep hno hp hr hs hl (by simp [State.StepOf]; rfl) hi (.inl hphase),
      State.pullStep_writes hdo hn hred hm hbody hsig hps hwrite hw]
    rfl
  · rw [exec_collStep hno hp hr hs hl (by simp [State.StepOf]; rfl) hi (.inl hphase),
      State.copyStep_moves hso hdo hsrc hdst hx hy hk hes hmod hread hwrite hh hheld hmove]
    rfl
  · rw [exec_collStep hno hp hr hs hl (by simp [State.StepOf]; rfl) hi (.inl hphase), State.countStep_sends hphase hpath hread hx]
    exact congrArg Host.Outcome.next (hstay _ _ _ hphase rfl)
  · rw [exec_collStep hno hp hr hs hl (by simp [State.StepOf]; rfl) hi (.inl hphase),
      State.pfxStep_sends hphase hpath h1 h2 hlt h3 h4 hx]
    exact congrArg Host.Outcome.next (hstay _ _ _ hphase rfl)
  · rw [exec_collStep hno hp hr hs hl (by simp [State.StepOf]; rfl) hi (.inl hphase), State.endStep_writes hopen hrec]
    rfl
  · refine exec_collStep_done (u := s) (q := p.next) hno hp hr hs hl (by simp [State.StepOf]; rfl) hi (.inr hcur) ?_ hafter (hgo _)
    unfold State.pushStep
    rw [hphase]
    rfl
  · exact exec_collStep_done hno hp hr hs hl (by simp [State.StepOf]) hi (.inr hcur)
      (State.countStep_ends hphase hall hput) hafter (hgo _)
  · exact exec_collStep_done hno hp hr hs hl (by simp [State.StepOf]) hi (.inr hcur)
      (State.pfxStep_ends hphase hall hput) hafter (hgo _)

end Sys2Proof.Machine
end

section
/-! Settled: what arrives at the collective engine (21 R353, R354, R357, R361, R362). -/

namespace Sys2Proof.Machine

-- the first of a store's entries that a test names, once one of them is replaced

theorem Store.firstOf_put {α : Type} {xs : Store α} {P : Nat × α → Bool} {k : Nat} {p a : α} (h : List.find? P xs = some (k, p))
    (ha : P (k, a) = true) : List.find? P (Store.put xs k a) = some (k, a) := by
  induction xs with
  | nil => simp at h
  | cons x xs ih =>
    obtain ⟨j, b⟩ := x
    unfold Store.put
    split
    · simp [ha]
    · split
      · simp [ha]
      · rename_i hne
        cases hP : P (j, b)
        · rw [List.find?_cons_of_neg (by simp [hP])] at h ⊢
          exact ih h
        · rw [List.find?_cons_of_pos hP] at h
          cases h
          exact absurd rfl hne

theorem Store.firstOf_put_other {α : Type} {xs : Store α} {P : Nat × α → Bool} {k : Nat} {a : α}
    (h : ∀ q, List.find? P xs ≠ some (k, q)) (ha : P (k, a) = false) : List.find? P (Store.put xs k a) = List.find? P xs := by
  induction xs with
  | nil => simp [Store.put, ha]
  | cons x xs ih =>
    obtain ⟨j, b⟩ := x
    unfold Store.put
    split
    · rw [List.find?_cons_of_neg (by simp [ha])]
    · split
      · rename_i heq
        subst heq
        cases hP : P (k, b)
        · rw [List.find?_cons_of_neg (by simp [ha]), List.find?_cons_of_neg (by simp [hP])]
        · exact absurd (List.find?_cons_of_pos hP) (h b)
      · cases hP : P (j, b)
        · rw [List.find?_cons_of_neg (by simp [hP]), List.find?_cons_of_neg (by simp [hP])]
          refine ih (fun q hq => h q ?_)
          rw [List.find?_cons_of_neg (by simp [hP]), hq]
        · rw [List.find?_cons_of_pos hP, List.find?_cons_of_pos hP]

-- the running program of a rank

/-- A program runs for the rank `rank` of `comm` in `epoch`. -/
def Prog.runsAt (comm rank epoch : Nat) (x : Nat × Prog) : Bool :=
  x.2.started && x.2.status.isNone && x.2.comm == comm && x.2.rank == rank && x.2.epoch == epoch

theorem State.progAt_eq (s : State) (comm rank epoch : Nat) :
    s.progAt comm rank epoch = List.find? (Prog.runsAt comm rank epoch) s.coll.progs := List.head?_filter

/-- A signal that its program takes raises that program's counter, whatever program its sender has. -/
theorem State.countSent_raised {s t : State} {m : Msg} {n k : Nat} {p : Prog} (hp : s.progAt m.comm m.dst m.epoch = some (k, p))
    (hsrc : ∀ q, s.progAt m.comm m.src m.epoch = some (k, q) → q = p) (ht : t.coll.progs = s.coll.progs.put k (addSig n p)) :
    (t.countSent m 0).prog? k = some (addSig n p) := by
  rw [State.progAt_eq] at hp
  have hruns : Prog.runsAt m.comm m.dst m.epoch (k, p) = true := List.find?_some hp
  have hat : t.prog? k = some (addSig n p) := by
    unfold State.prog?
    rw [ht, Store.find?_put, if_pos rfl]
  unfold State.countSent
  by_cases hsame : m.src = m.dst
  · have hfirst : t.progAt m.comm m.src m.epoch = some (k, addSig n p) := by
      rw [State.progAt_eq, ht, hsame]
      exact Store.firstOf_put hp hruns
    rw [hfirst]
    exact (Store.find?_put ..).trans (if_pos rfl)
  · have hrank : p.rank = m.dst := by
      simp only [Prog.runsAt, Bool.and_eq_true, beq_iff_eq] at hruns
      exact hruns.1.2
    have hother : t.progAt m.comm m.src m.epoch = s.progAt m.comm m.src m.epoch := by
      rw [State.progAt_eq, State.progAt_eq, ht]
      have hnot : Prog.runsAt m.comm m.src m.epoch (k, addSig n p) = false := by
        have : ((addSig n p).rank == m.src) = false := beq_false_of_ne (fun h => hsame (h.symm.trans hrank))
        simp [Prog.runsAt, this]
      refine Store.firstOf_put_other (fun q hq => hsame ?_) hnot
      have hqp := hsrc q ((State.progAt_eq ..).trans hq)
      have hq' : Prog.runsAt m.comm m.src m.epoch (k, q) = true := List.find?_some hq
      simp only [Prog.runsAt, Bool.and_eq_true, beq_iff_eq] at hq'
      exact hq'.1.2.symm.trans (by rw [hqp, hrank])
    rw [hother]
    split
    · rename_i j q hq
      have hj : k ≠ j := fun h => hsame (by
        subst h
        have hqp := hsrc q hq
        have hq' : Prog.runsAt m.comm m.src m.epoch (k, q) = true := List.find?_some ((State.progAt_eq ..).symm.trans hq)
        simp only [Prog.runsAt, Bool.and_eq_true, beq_iff_eq] at hq'
        exact hq'.1.2.symm.trans (by rw [hqp, hrank]))
      exact (Store.find?_put ..).trans ((if_neg (Ne.symm hj)).trans hat)
    · exact hat

theorem State.countSent_mem (s : State) (m : Msg) (n : Nat) : (s.countSent m n).mem = s.mem := by
  unfold State.countSent
  split <;> rfl

theorem collectiveArrivals_signal (s : State) (no : Nat) (m : Msg) (hm : s.coll.inbox.find? no = some m) (n k : Nat) (p : Prog)
    (hbody : m.body = .signal n) (hgate : s.epochGate m.comm m.dst m.epoch ≠ .later)
    (hp : s.progAt m.comm m.dst m.epoch = some (k, p)) (hhere : s.rankHere m.comm m.src = true)
    (hsrc : ∀ q, s.progAt m.comm m.src m.epoch = some (k, q) → q = p) :
    ∃ t, exec (.peerWrite no) s = .next t ∧
      t.prog? k = some { p with sig := p.sig.put n ((p.sig.get n 0 + 1) % 2 ^ 32) } ∧ t.mem = s.mem := by
  have hmay : (s.epochGate m.comm m.dst m.epoch != .later) = true := bne_iff_ne.mpr hgate
  have hexec : exec (.peerWrite no) s = .next (s.arrive no m) := by
    change execPeerWrite no s = _
    unfold execPeerWrite
    rw [hm]
  let v := ((s.putMsg no { m with body := .raised n }).setProg k (addSig n p)).dropMsg no
  have harrive : s.arrive no m = v.countSent m 0 := by
    unfold State.arrive
    dsimp only
    rw [hbody]
    dsimp only
    rw [hmay, if_pos rfl]
    unfold State.handOver
    rw [show (s.putMsg no { m with body := .raised n }).progAt m.comm m.dst m.epoch = some (k, p) from hp]
    dsimp only
    unfold State.answer
    rw [show (((s.putMsg no { m with body := .raised n }).setProg k (addSig n p)).dropMsg no).rankHere m.comm m.src = true from hhere,
      if_pos rfl]
    rfl
  rw [hexec, harrive]
  exact ⟨_, rfl, State.countSent_raised hp hsrc rfl, State.countSent_mem ..⟩

theorem collectiveArrivals_write (s : State) (no : Nat) (m : Msg) (hm : s.coll.inbox.find? no = some m) (buf off : Nat)
    (bytes : List Byte) (bad : List Nat) (c : Bool) (base len : Nat) (u v : State) (ps : List Place) (w : Who)
    (hbody : m.body = .write buf off bytes bad c base len) (hgate : s.epochGate m.comm m.dst m.epoch ≠ .later)
    (hw : w = s.whoAgent noCore (s.commCtx m.comm) 65536) (hps : s.streamPlaces w buf base len = (v, .ok ps))
    (hu : v.streamWrite w buf off ((bytes.zip (List.range bytes.length)).map (fun (x : Byte × Nat) => (x.1, bad.contains x.2))) =
      (u, .ok ())) (l : Msg) (hl : l = { m with body := .landed bytes.length }) :
    exec (.peerWrite no) s = .next (((u.putMsg no l).handOver no l (addRecv m bytes.length)).answer m bytes.length c none) := by
  have hmay : (s.epochGate m.comm m.dst m.epoch != .later) = true := bne_iff_ne.mpr hgate
  change execPeerWrite no s = _
  unfold execPeerWrite
  rw [hm]
  refine congrArg Host.Outcome.next ?_
  unfold State.arrive
  dsimp only
  rw [hbody]
  dsimp only
  rw [hmay, if_pos rfl]
  unfold State.performWrite
  dsimp only
  rw [← hw, hps]
  dsimp only
  rw [hu, hl]

theorem bump_eq (x : BitVec 16) : bump x = if x = 0xFFFF then 0xFFFF else x + 1 := by
  have hones : BitVec.allOnes 16 = 0xFFFF := by decide
  unfold bump
  rw [hones]
  by_cases h : x = 0xFFFF
  · rw [if_pos h, h]
    rfl
  · rw [if_neg h, if_neg (by simpa using h)]

-- messages and instances are state of the collective engine

theorem State.sendMsg_spec (s : State) (m : Msg) : ∃ c : Coll, s.sendMsg m = { s with coll := c } ∧ c.insts = s.coll.insts ∧
    c.homeGen = s.coll.homeGen ∧ c.lateN = s.coll.lateN ∧ c.flushN = s.coll.flushN := by
  unfold State.sendMsg
  dsimp only
  split <;> exact ⟨_, rfl, rfl, rfl, rfl, rfl⟩

theorem State.sendEach_spec (f : Nat → Msg) (rs : List Nat) (s : State) :
    ∃ c : Coll, rs.foldl (fun s r => s.sendMsg (f r)) s = { s with coll := c } ∧ c.insts = s.coll.insts ∧
      c.homeGen = s.coll.homeGen ∧ c.lateN = s.coll.lateN ∧ c.flushN = s.coll.flushN := by
  induction rs generalizing s with
  | nil => exact ⟨s.coll, rfl, rfl, rfl, rfl, rfl⟩
  | cons r rs ih =>
    obtain ⟨c, hc, hi, hh, hl, hf⟩ := s.sendMsg_spec (f r)
    obtain ⟨d, hd, di, dh, dl, df⟩ := ih (s.sendMsg (f r))
    rw [hc] at hd di dh dl df
    exact ⟨d, by rw [List.foldl_cons, hc, hd], di.trans hi, dh.trans hh, dl.trans hl, df.trans hf⟩

/-- A reduction that closes leaves its slot, opens the next generation, and is counted when it closes early. -/
theorem State.closeInst_spec (s : State) (comm slot : Nat) (x : Instance) (partly : Bool) :
    ∃ c : Coll, s.closeInst comm slot x partly = { s with coll := c } ∧
      c.homeGen = s.coll.homeGen.put (slotKey comm slot) ((x.gen + 1) % 65536) ∧ c.lateN = s.coll.lateN ∧
      c.flushN = if partly then bump s.coll.flushN else s.coll.flushN := by
  unfold State.closeInst
  extract_lets n ty op count size mask bad coll u
  split
  next bytes flags _ =>
  obtain ⟨c, hc, -, hh, hl, hf⟩ := State.sendEach_spec (fun r =>
    { comm := comm, src := r, dst := r, epoch := 0, step := 0, no := 0
      body := .result slot x.gen x.sig bytes bad mask flags partly x.bad }) (List.range n) u
  exact ⟨c, hc, hh, hl, hf⟩

theorem State.flush_due {s : State} {comm slot : Nat} {x : Instance} (hx : s.coll.insts.find? (slotKey comm slot) = some x)
    (h0 : x.tmo ≠ 0) (hlt : x.since + x.tmo < s.wall) : s.flush comm slot = s.closeInst comm slot x true := by
  have hover : x.over s.wall = true := by simp [Instance.over, h0, hlt]
  unfold State.flush
  rw [hx]
  exact if_pos hover

theorem State.flush_early {s : State} {comm slot : Nat} {x : Instance} (hx : s.coll.insts.find? (slotKey comm slot) = some x)
    (h : x.tmo = 0 ∨ s.wall ≤ x.since + x.tmo) : s.flush comm slot = s := by
  have hover : x.over s.wall = false := by
    rcases h with h | h
    · simp [Instance.over, h]
    · simp [Instance.over, Nat.not_lt.mpr h]
  unfold State.flush
  rw [hx]
  dsimp only
  rw [hover, if_neg Bool.false_ne_true]

/-- A flush touches the collective engine alone, and counts no late contribution. -/
theorem State.flush_spec (s : State) (comm slot : Nat) :
    ∃ c : Coll, s.flush comm slot = { s with coll := c } ∧ c.lateN = s.coll.lateN := by
  unfold State.flush
  split
  · split
    · obtain ⟨c, hc, -, hl, -⟩ := s.closeInst_spec comm slot _ true
      exact ⟨c, hc, hl⟩
    · exact ⟨s.coll, rfl, rfl⟩
  · exact ⟨s.coll, rfl, rfl⟩

/-- The answer to a PUSHRED is its program's. -/
theorem State.answerPush_spec (s : State) (m : Msg) (phase : Nat) :
    ∃ ps : Store Prog, s.answerPush m phase = { s with coll := { s.coll with progs := ps } } := by
  unfold State.answerPush State.setProg
  split
  · split <;> exact ⟨_, rfl⟩
  · exact ⟨_, rfl⟩

theorem collectiveArrivals_contribution (s : State) (no : Nat) (m : Msg) (hm : s.coll.inbox.find? no = some m) (slot gen : Nat)
    (sig : BitVec 32) (bytes : List Byte) (bad : List Nat) (tmo key : Nat) (x : Instance) (u : State)
    (hbody : m.body = .contrib slot gen sig bytes bad tmo) (hkey : key = slotKey m.comm slot) (hu : u = (s.dropMsg no).flush m.comm slot)
    (hx : x = u.coll.insts.get key { gen := gen, sig := sig, bad := false, since := s.wall, tmo := tmo, parts := [] })
    (y : Instance) (hy : y = { x with bad := x.bad || x.sig != sig, parts := x.parts.put m.src (bytes, bad) }) :
    ∃ t, exec (.contribution no) s = .next t ∧
      (gen ≠ u.coll.homeGen.get key 0 → t.coll.insts = u.coll.insts ∧
        t.coll.lateN = (if s.coll.lateN = 0xFFFF then 0xFFFF else s.coll.lateN + 1)) ∧
      (gen = u.coll.homeGen.get key 0 → y.parts.length ≠ s.commRanks m.comm → t.coll.insts.find? key = some y) ∧
      (gen = u.coll.homeGen.get key 0 → y.parts.length = s.commRanks m.comm →
        t.coll.homeGen.get key 0 = (y.gen + 1) % 65536) := by
  have hexec : exec (.contribution no) s = .next (s.contribute no m slot gen sig bytes bad tmo) := by
    change execContribution no s = _
    unfold execContribution
    rw [hm]
    dsimp only
    rw [hbody]
  obtain ⟨c, hc, hlate⟩ := (s.dropMsg no).flush_spec m.comm slot
  have hwall : u.wall = s.wall := by rw [hu, hc]; rfl
  have hranks : ∀ d : Coll, State.commRanks { u with coll := d } m.comm = s.commRanks m.comm := fun d => by rw [hu, hc]; rfl
  have hlateN : u.coll.lateN = s.coll.lateN := by rw [hu, hc]; exact hlate
  obtain ⟨ps, hps⟩ := u.answerPush_spec m 2
  have hcontr : s.contribute no m slot gen sig bytes bad tmo =
      if gen != u.coll.homeGen.get key 0 then
        ({ u with coll := { u.coll with lateN := bump u.coll.lateN } }).lateAt m slot (u.coll.homeGen.get key 0)
      else if y.parts.length = s.commRanks m.comm then (u.answerPush m 2).closeInst m.comm slot y false
      else { u.answerPush m 2 with coll := { (u.answerPush m 2).coll with insts := (u.answerPush m 2).coll.insts.put key y } } := by
    rw [hy, hx, ← hwall, hkey, hu, ← hranks { u.coll with progs := ps }, ← hps, hu]
    rfl
  rw [hexec, hcontr]
  refine ⟨_, rfl, fun hne => ?_, fun heq hlen => ?_, fun heq hlen => ?_⟩
  · rw [if_pos (bne_iff_ne.mpr hne)]
    unfold State.lateAt
    obtain ⟨qs, hqs⟩ := State.answerPush_spec ((State.setGen { u with coll := { u.coll with lateN := bump u.coll.lateN } } m.comm m.src
      slot (u.coll.homeGen.get key 0)).dropResults m.comm m.src slot) m 3
    rw [hqs]
    refine ⟨rfl, ?_⟩
    change bump u.coll.lateN = _
    rw [hlateN, bump_eq]
  · rw [heq, bne_self_eq_false, if_neg Bool.false_ne_true, if_neg hlen]
    exact (Store.find?_put ..).trans (if_pos rfl)
  · rw [heq, bne_self_eq_false, if_neg Bool.false_ne_true, if_pos hlen]
    obtain ⟨d, hd, hgen, -⟩ := (u.answerPush m 2).closeInst_spec m.comm slot y false
    rw [hd]
    change d.homeGen.get key 0 = _
    rw [hgen, hkey, Store.get_put, if_pos rfl]

theorem collectiveArrivals_flush (s : State) (comm slot : Nat) (x : Instance) (hx : s.coll.insts.find? (slotKey comm slot) = some x) :
    (x.tmo = 0 ∨ s.wall ≤ x.since + x.tmo → exec (.flush comm slot) s = .next s ∧ s.flush comm slot = s) ∧
    (x.tmo ≠ 0 → x.since + x.tmo < s.wall → ∃ t, exec (.flush comm slot) s = .next t ∧ t = s.flush comm slot ∧
      t.coll.homeGen.get (slotKey comm slot) 0 = (x.gen + 1) % 65536 ∧
      t.coll.flushN = (if s.coll.flushN = 0xFFFF then 0xFFFF else s.coll.flushN + 1)) := by
  refine ⟨fun h => ⟨congrArg Host.Outcome.next (State.flush_early hx h), State.flush_early hx h⟩, fun h0 hlt => ⟨_, rfl, rfl, ?_⟩⟩
  obtain ⟨c, hc, hgen, -, hflush⟩ := s.closeInst_spec comm slot x true
  rw [State.flush_due hx h0 hlt, hc]
  refine ⟨?_, ?_⟩
  · change c.homeGen.get _ 0 = _
    rw [hgen, Store.get_put, if_pos rfl]
  · change c.flushN = _
    rw [hflush, if_pos rfl, bump_eq]

/-- The fold of integer sums is their sum modulo 2^32 (R352). -/
theorem foldl_add_mod (xs : List Nat) (a : Nat) :
    xs.foldl (fun a y => amoInt .add 32 a y) (a % 2 ^ 32) = (a + xs.sum) % 2 ^ 32 := by
  induction xs generalizing a with
  | nil => simp
  | cons x xs ih =>
    have hstep : amoInt .add 32 (a % 2 ^ 32) x = (a + x) % 2 ^ 32 := Nat.mod_add_mod ..
    rw [List.foldl_cons, hstep, ih, List.sum_cons, Nat.add_assoc]

theorem foldElem_sum (xs : List Nat) (h : ∀ x ∈ xs, x < 2 ^ 32) : foldElem 2 0 xs = (xs.sum % 2 ^ 32, 0) := by
  cases xs with
  | nil => rfl
  | cons x xs =>
    have hx : x = x % 2 ^ 32 := (Nat.mod_eq_of_lt (h x (List.mem_cons_self ..))).symm
    have hfold : xs.foldl (fun a y => amoInt .add 32 a y) x = (x + xs.sum) % 2 ^ 32 := by
      conv_lhs => rw [hx]
      exact foldl_add_mod xs x
    rw [List.sum_cons, ← hfold]
    rfl

/-- Settles O53: each arrival by its lemma. -/
theorem collectiveArrivals : Obligations.CollectiveArrivals := by
  refine ⟨fun s no m hm => ⟨collectiveArrivals_signal s no m hm, collectiveArrivals_write s no m hm,
    collectiveArrivals_contribution s no m hm⟩, collectiveArrivals_flush, foldElem_sum, fun s no p hp hr hphase htmo hover => ?_⟩
  have hgo : (p.runnable && p.phase != 0 && p.tmo != 0 && p.since + p.tmo ≤ s.wall) = true := by
    simp [hr, hphase, htmo, hover]
  change execCollTimeout no s = _
  unfold execCollTimeout
  rw [hp]
  exact if_pos hgo

end Sys2Proof.Machine
end

section
/-! SUPPORT. What is done at a home, to records and to the event ring, neither reads nor changes a core: it commutes with another choice of
the cores. -/

namespace Sys2Proof.Machine

/-- The state with other cores. -/
def State.withCores (s : State) (cs : Store Core) : State := { s with cores := cs }

section
variable (s : State) (cs : Store Core)

theorem State.withCores_self : s.withCores s.cores = s := rfl
@[simp] theorem State.withCores_cores : (s.withCores cs).cores = cs := rfl

theorem foldl_withCores {α : Type} {f : State → α → State} (hf : ∀ s a, f (s.withCores cs) a = (f s a).withCores cs) (l : List α) :
    l.foldl f (s.withCores cs) = (l.foldl f s).withCores cs := by
  induction l generalizing s with
  | nil => rfl
  | cons a l ih => rw [List.foldl_cons, List.foldl_cons, hf, ih]

-- memory, records and wakes

theorem State.rekey_withCores (kid line : Nat) : (s.withCores cs).rekey kid line = (s.rekey kid line).withCores cs := by
  unfold State.rekey
  rw [show (s.withCores cs).stor = s.stor from rfl]
  split
  · dsimp only
    split
    · split <;> rfl
    · rfl
  · rfl

theorem State.partKey_withCores (a n : Nat) : (s.withCores cs).partKey a n = (s.partKey a n).withCores cs := by
  unfold State.partKey
  split
  · rfl
  · exact foldl_withCores s cs (fun s l => s.rekey_withCores cs 0 l) _

theorem State.partPut_withCores (a : Nat) (bs : List Byte) : (s.withCores cs).partPut a bs = (s.partPut a bs).withCores cs := by
  unfold State.partPut
  rw [State.partKey_withCores]
  rfl

theorem State.modInfo_withCores (slot : Nat) (f : TaskInfo → TaskInfo) :
    (s.withCores cs).modInfo slot f = (s.modInfo slot f).withCores cs := by
  unfold State.modInfo
  rw [show (s.withCores cs).info slot = s.info slot from rfl]
  split <;> rfl

theorem State.putState_withCores (slot st reason : Nat) :
    (s.withCores cs).putState slot st reason = (s.putState slot st reason).withCores cs := State.partPut_withCores ..

theorem State.putReady_withCores (slot : Nat) : (s.withCores cs).putReady slot = (s.putReady slot).withCores cs := by
  unfold State.putReady
  rw [State.putState_withCores, State.modInfo_withCores]
  rfl

theorem State.putLet_withCores (slot : Nat) : (s.withCores cs).putLet slot = (s.putLet slot).withCores cs := by
  unfold State.putLet
  rw [show (s.withCores cs).info slot = s.info slot from rfl]
  split
  · split
    · exact State.putState_withCores ..
    · exact State.putReady_withCores ..
  · rfl

theorem State.wakeFrom_withCores (fuel line : Nat) :
    State.wakeFrom fuel (s.withCores cs) line = (State.wakeFrom fuel s line).withCores cs := by
  induction fuel generalizing s line with
  | zero => rfl
  | succ fuel ih =>
    unfold State.wakeFrom
    refine foldl_withCores s cs (fun s x => ?_) _
    have hwatch : ∀ w : Watch, (if w.line = line && !w.woke then
          let t := (s.withCores cs).modInfo x.1 (fun t => { t with watch := some { w with woke := true } })
          if t.wakes x.1 w then State.wakeFrom fuel (t.putReady x.1) (lineOf (t.recAddr x.1 + 0x20)) else t
        else s.withCores cs) = (if w.line = line && !w.woke then
          let t := s.modInfo x.1 (fun t => { t with watch := some { w with woke := true } })
          if t.wakes x.1 w then State.wakeFrom fuel (t.putReady x.1) (lineOf (t.recAddr x.1 + 0x20)) else t
        else s).withCores cs := fun w => by
      rw [State.modInfo_withCores]
      split
      · dsimp only
        generalize s.modInfo x.1 _ = t
        rw [show (t.withCores cs).wakes x.1 w = t.wakes x.1 w from rfl]
        split
        · rw [State.putReady_withCores]
          exact ih ..
        · rfl
      · rfl
    have hflip : ∀ t : State, (if (t.withCores cs).flips x.1 x.2 line then
          State.wakeFrom fuel ((t.withCores cs).putLet x.1) (lineOf ((t.withCores cs).recAddr x.1 + 0x20)) else t.withCores cs) =
        (if t.flips x.1 x.2 line then State.wakeFrom fuel (t.putLet x.1) (lineOf (t.recAddr x.1 + 0x20)) else t).withCores cs := fun t => by
      rw [show (t.withCores cs).flips x.1 x.2 line = t.flips x.1 x.2 line from rfl]
      split
      · rw [State.putLet_withCores]
        exact ih ..
      · rfl
    rcases hw : x.2.watch with - | w
    · exact hflip s
    · dsimp only
      dsimp only at hwatch
      rw [hwatch w]
      exact hflip _

theorem State.wake_withCores (line : Nat) : (s.withCores cs).wake line = (s.wake line).withCores cs := State.wakeFrom_withCores ..

theorem State.partWrite_withCores (a : Nat) (bs : List Byte) : (s.withCores cs).partWrite a bs = (s.partWrite a bs).withCores cs := by
  unfold State.partWrite
  rw [State.partPut_withCores]
  exact foldl_withCores _ cs (fun s l => s.wake_withCores cs l) _

theorem State.writeEvent_withCores (ws : List Word) : (s.withCores cs).writeEvent ws = (s.writeEvent ws).withCores cs := by
  unfold State.writeEvent State.partWords
  dsimp only
  rw [State.partWrite_withCores]
  rfl

theorem State.post_withCores (i : EvInfo) : (s.withCores cs).post i = (s.post i).withCores cs := by
  unfold State.post
  dsimp only
  rw [State.writeEvent_withCores]
  rw [show (s.withCores cs).evq = s.evq from rfl, show (s.withCores cs).cyc = s.cyc from rfl]
  split
  · rfl
  · split <;> rfl

-- what is performed at a home

theorem State.putHome_withCores (kid : Nat) (cells : List (Nat × Byte)) :
    (s.withCores cs).putHome kid cells = (s.putHome kid cells).withCores cs := by
  unfold State.putHome
  dsimp only
  rw [foldl_withCores s cs (fun s l => s.rekey_withCores cs kid l)]
  generalize (linesOf _).foldl _ s = u
  exact foldl_withCores ((u.setMem (putCells u.mem cells)).cleanse (cells.map (fun c => c.1))) cs (fun s l => s.wake_withCores cs l) _

theorem State.memErr_withCores (i : EvInfo) (buf off : Nat) :
    (s.withCores cs).memErr i buf off = (s.memErr i buf off).withCores cs := by
  unfold State.memErr
  rw [State.post_withCores]
  rfl

theorem State.refuseOps_withCores (ops : List (Nat × Word × Option Giver)) (key : Nat) :
    (s.withCores cs).refuseOps ops key = (s.refuseOps ops key).withCores cs := by
  refine foldl_withCores s cs (fun s o => ?_) _
  split
  · exact State.memErr_withCores ..
  · rfl

theorem State.closeBatch_withCores (line : Nat) : (s.withCores cs).closeBatch line = (s.closeBatch line).withCores cs := by
  unfold State.closeBatch
  rw [show (s.withCores cs).stor = s.stor from rfl]
  split
  · rfl
  · refine foldl_withCores { s with stor := _ } cs (fun s key => ?_) _
    rw [show (s.withCores cs).badAt key = s.badAt key from rfl]
    split
    · exact State.refuseOps_withCores ..
    · exact State.putHome_withCores ..

theorem State.rebuild_withCores (line : Nat) : (s.withCores cs).rebuild line = (s.rebuild line).withCores cs := by
  have hpost := State.post_withCores { s with stor := { s.stor with dramErr := s.stor.dramErr.filter (fun l => l != line) } } cs
    { kind := 7, detail := Config.openDetail 7 [line] }
  unfold State.rebuild
  rw [show (s.withCores cs).stor = s.stor from rfl]
  split
  · dsimp only
    rw [show (s.withCores cs).stripeLost line = s.stripeLost line from rfl, show (s.withCores cs).copyGood line = s.copyGood line from rfl]
    split
    · exact congrArg (fun t : State => t.countErr 0) hpost
    · rfl
  · rfl

theorem State.reach_withCores (lines : List Nat) : (s.withCores cs).reach lines = (s.reach lines).withCores cs :=
  foldl_withCores s cs (fun s l => by rw [State.closeBatch_withCores, State.rebuild_withCores]) _

theorem State.homeRead_withCores (kid : Nat) (keys : List Nat) :
    (s.withCores cs).homeRead kid keys = ((s.homeRead kid keys).1.withCores cs, (s.homeRead kid keys).2) := by
  unfold State.homeRead
  dsimp only
  rw [State.reach_withCores]
  rfl

end
end Sys2Proof.Machine
end

section
/-! SUPPORT. An access, a fetch and a walk along section headers see of their core what its registers name and what it caches, and
nothing of its tokens and engines. -/

namespace Sys2Proof.Machine

/-- The core with other tokens and another engine. -/
def Core.restated (o : Store Nat) (r : Store Nat) (e : Eng) (g : Engine) (k : Core) : Core :=
  ({ k with occ := o, resv := r }).setEng e g

/-- A change of a core that no access sees. -/
structure Core.Unseen (F : Core → Core) : Prop where
  tlb : ∀ k, (F k).tlb = k.tlb
  bufc : ∀ k, (F k).bufc = k.bufc
  ctx : ∀ k, (F k).ctx = k.ctx
  task : ∀ k, (F k).task = k.task
  btbase : ∀ k, (F k).btbase = k.btbase
  btlast : ∀ k, (F k).btlast = k.btlast
  ptroot : ∀ k, (F k).ptroot = k.ptroot
  spad : ∀ k, (F k).spad = k.spad
  caches : ∀ k x y, F { k with tlb := x, bufc := y } = { F k with tlb := x, bufc := y }

theorem Core.restated_unseen (o r : Store Nat) (e : Eng) (g : Engine) : Core.Unseen (Core.restated o r e g) := by
  cases e <;> exact ⟨fun _ => rfl, fun _ => rfl, fun _ => rfl, fun _ => rfl, fun _ => rfl, fun _ => rfl, fun _ => rfl, fun _ => rfl,
    fun _ _ _ => rfl⟩

theorem State.walk_withCores (s : State) (cs : Store Core) (va fuel level table : Nat) :
    (s.withCores cs).walk va fuel level table = s.walk va fuel level table := by
  induction fuel generalizing level table with
  | zero => rfl
  | succ fuel ih =>
    unfold State.walk
    simp only [ih]
    rfl

theorem ite_pairs {α : Type} (f : State → State) {P : Prop} [Decidable P] {x y x' y' : State × α} (hx : x' = (f x.1, x.2))
    (hy : y' = (f y.1, y.2)) : (if P then x' else y') = (f (if P then x else y).1, (if P then x else y).2) := by
  split
  · exact hx
  · exact hy

theorem State.modCore_eq_withCores (s : State) (c : Nat) (f : Core → Core) :
    s.modCore c f = s.withCores (s.cores.put c (f (s.core c))) := rfl

namespace Core.Unseen

section
variable {F : Core → Core} (hF : Core.Unseen F) {s : State} {c : Nat} {w : Who} (hw : w.core = c)

/-- What no core has a part in commutes with the change. -/
theorem home {f : State → State} (hf : ∀ s cs, f (State.withCores s cs) = (f s).withCores cs) (hc : (f s).cores = s.cores) :
    f (s.modCore c F) = (f s).modCore c F := by
  have h := hf s (s.cores.put c (F (s.core c)))
  unfold State.modCore State.setCore State.core
  rw [hc]
  exact h

theorem homeRead (kid : Nat) (keys : List Nat) :
    (s.modCore c F).homeRead kid keys = ((s.homeRead kid keys).1.modCore c F, (s.homeRead kid keys).2) := by
  have h := State.homeRead_withCores s (s.cores.put c (F (s.core c))) kid keys
  unfold State.modCore State.setCore State.core
  rw [State.homeRead_cores]
  exact h

include hF

theorem tlbCached (x : Core → List TlbE) (hx : ∀ k, x (F k) = x k) : (s.modCore c F).modCore c (fun k => { k with tlb := x k }) =
    (s.modCore c (fun k => { k with tlb := x k })).modCore c F := by
  rw [State.modCore_modCore, State.modCore_modCore]
  refine congrArg (fun f => s.modCore c f) (funext fun k => ?_)
  have h := hF.caches k (x k) k.bufc
  rw [hx]
  refine Eq.trans ?_ h.symm
  rw [← hF.bufc k]

theorem bufCached (y : Core → List BufE) (hy : ∀ k, y (F k) = y k) : (s.modCore c F).modCore c (fun k => { k with bufc := y k }) =
    (s.modCore c (fun k => { k with bufc := y k })).modCore c F := by
  rw [State.modCore_modCore, State.modCore_modCore]
  refine congrArg (fun f => s.modCore c f) (funext fun k => ?_)
  have h := hF.caches k k.tlb (y k)
  rw [hy]
  refine Eq.trans ?_ h.symm
  rw [← hF.tlb k]

theorem taskEv (i : EvInfo) : (s.modCore c F).taskEv c i = s.taskEv c i := by
  unfold State.taskEv
  rw [State.core_modCore, if_pos rfl, hF.task, hF.ctx]

theorem whoEng : (s.modCore c F).whoEng c = s.whoEng c := by
  unfold State.whoEng
  rw [State.core_modCore, if_pos rfl]
  dsimp only
  rw [hF.task, hF.ctx, hF.btbase, hF.btlast, hF.ptroot]
  rfl

include hw

theorem xlate (va : Nat) : (s.modCore c F).xlate w va = ((s.xlate w va).1.modCore c F, (s.xlate w va).2) := by
  have hwalk : (s.modCore c F).walk va 5 0 w.ptroot = s.walk va 5 0 w.ptroot := by
    rw [State.modCore_eq_withCores, State.walk_withCores]
  have hpost : ∀ i, (s.modCore c F).post i = (s.post i).modCore c F := fun i =>
    home (f := fun s => s.post i) (fun s cs => s.post_withCores cs i) (State.post_cores ..)
  unfold State.xlate
  generalize (2 : Nat) ^ 56 = top
  rw [hw, hwalk, State.core_modCore, if_pos rfl, hF.tlb, hF.taskEv, hpost]
  refine ite_pairs (fun t => t.modCore c F) rfl (ite_pairs (fun t => t.modCore c F) rfl ?_)
  extract_lets hits
  cases smallest hits with
  | some t => exact congrArg (fun u : State => (u, some t.leaf)) (apply_ite (fun u : State => u.modCore c F) ..).symm
  | none =>
    cases s.walk va 5 0 w.ptroot with
    | none => rfl
    | some l => exact congrArg (fun u : State => (u, some l)) (hF.tlbCached _ (fun k => by rw [hF.tlb]))

theorem locate (l i : Nat) (n : Need) (va : Nat) :
    (s.modCore c F).locate w l i n va = ((s.locate w l i n va).1.modCore c F, (s.locate w l i n va).2) := by
  unfold State.locate
  rw [hF.xlate hw]
  generalize s.xlate w va = p
  obtain ⟨u, r⟩ := p
  cases r <;> rfl

theorem bufEntry (n : Nat) : (s.modCore c F).bufEntry w n = ((s.bufEntry w n).1.modCore c F, (s.bufEntry w n).2) := by
  unfold State.bufEntry
  rw [hw, State.core_modCore, if_pos rfl, hF.bufc, hF.locate hw]
  dsimp only
  split
  · rfl
  · generalize s.locate w 0 3 .read (w.btbase + 32 * n) = p
    obtain ⟨u, r⟩ := p
    cases r with
    | error f => rfl
    | ok x =>
      dsimp only
      rw [homeRead]
      cases w.tlb
      · rfl
      · dsimp only
        rw [if_pos rfl, if_pos rfl, hF.bufCached _ (fun k => by rw [hF.bufc])]

theorem buffer (n : Nat) (need : Need) : (s.modCore c F).buffer w n need = ((s.buffer w n need).1.modCore c F, (s.buffer w n need).2) := by
  unfold State.buffer
  rw [hw, State.core_modCore, if_pos rfl, hF.spad, hF.bufEntry hw]
  refine ite_pairs (fun t => t.modCore c F) rfl (ite_pairs (fun t => t.modCore c F) rfl (ite_pairs (fun t => t.modCore c F) rfl ?_))
  generalize s.bufEntry w n = p
  obtain ⟨u, r⟩ := p
  cases r <;> rfl

theorem placeView (d : Desc) (need : Need) (bs : List Nat) :
    (s.modCore c F).placeView w d need bs = ((s.placeView w d need bs).1.modCore c F, (s.placeView w d need bs).2) := by
  induction bs generalizing s with
  | nil => rfl
  | cons b bs ih =>
    rw [State.placeView, State.placeView]
    dsimp only
    rw [hF.locate hw]
    generalize s.locate w d.layer d.ilv need (d.base + d.nibAt (2 * b) / 2) = p
    obtain ⟨u, r0⟩ := p
    cases r0 with
    | error f => rfl
    | ok x =>
      dsimp only
      rw [hF.locate hw]
      generalize u.locate w d.layer d.ilv need (d.base + d.nibAt (2 * b + 1) / 2) = q
      obtain ⟨v, r1⟩ := q
      cases r1 with
      | error f => rfl
      | ok y =>
        dsimp only
        rw [ih]
        generalize State.placeView v w d need bs = z
        obtain ⟨x, rest⟩ := z
        cases rest <;> rfl

theorem element (d : Desc) (f : Form) (off : Int) :
    (s.modCore c F).element w d f off = ((s.element w d f off).1.modCore c F, (s.element w d f off).2) := by
  unfold State.element
  dsimp only
  rw [hF.locate hw, hF.placeView hw]
  split
  · rfl
  · split
    · rfl
    · split
      · rfl
      · split <;> rfl

theorem elements (d : Desc) (f : Form) (os : List Int) :
    (s.modCore c F).elements w d f os = ((s.elements w d f os).1.modCore c F, (s.elements w d f os).2) := by
  induction os generalizing s with
  | nil => rfl
  | cons o os ih =>
    rw [State.elements, State.elements]
    dsimp only
    rw [hF.element hw, ih]

theorem access (buf : Nat) (f : Form) (offs : List Int) :
    (s.modCore c F).access w buf f offs = ((s.access w buf f offs).1.modCore c F, (s.access w buf f offs).2) := by
  unfold State.access
  rw [hF.buffer hw]
  generalize s.buffer w buf f.need = p
  obtain ⟨u, r⟩ := p
  cases r with
  | error e => rfl
  | ok d =>
    dsimp only
    rw [hF.elements hw]
    dsimp only
    split <;> rfl

omit hw

-- headers and targets

theorem code (buf off n : Nat) : ((s.modCore c F).code c buf off n).2 = (s.code c buf off n).2 := by
  unfold State.code State.codeBy
  rw [hF.whoEng, hF.access (show (s.whoEng c).core = c from rfl)]
  generalize s.access (s.whoEng c) buf _ _ = p
  obtain ⟨u, r⟩ := p
  cases r with
  | error x => rfl
  | ok es =>
    dsimp only
    rw [homeRead]

theorem lenAt (e : Eng) (hdr : Nat) : (s.modCore c F).lenAt c e hdr = s.lenAt c e hdr := by
  unfold State.lenAt
  rw [State.core_modCore, if_pos rfl, hF.task]
  simp only [hF.code]

theorem seek (e : Eng) (d hdr len : Nat) : (s.modCore c F).seek c e d hdr len = s.seek c e d hdr len := by
  induction d generalizing hdr len with
  | zero => rfl
  | succ d ih =>
    unfold State.seek
    rw [hF.lenAt]
    simp only [ih]

/-- The section that a target names, for an engine that stands in the same section outside supervisor state. -/
theorem targetSect {e : Eng} {t : Target} (hsect : ((s.modCore c F).eng c e).sect = (s.eng c e).sect)
    (hsup : ((s.modCore c F).eng c e).sup = none) (hsup' : (s.eng c e).sup = none) :
    (s.modCore c F).targetSect c e t = s.targetSect c e t := by
  unfold State.targetSect
  dsimp only
  rw [hsect, hsup, hsup', hF.seek]
  simp only [Option.isSome_none, Bool.false_eq_true, if_false]

end
end Core.Unseen
end Sys2Proof.Machine
end

section
/-! Settled: where a taken transfer of the last member of a group leads (01 R17, 04 R67, R71). -/

namespace Sys2Proof.Machine

-- standing at a word, or before a section

theorem State.toWord_stands {u : State} {c : Nat} {e : Eng} (hsup : (u.eng c e).sup = none) (w : Nat) :
    (u.toWord c e w).cur = u.cur ∧ (u.toWord c e w).reqOpen c = u.reqOpen c ∧
    ((u.toWord c e w).eng c e).grp = (u.eng c e).grp ∧ ((u.toWord c e w).eng c e).loops = (u.eng c e).loops ∧
    (w < (u.eng c e).sect.len → (u.toWord c e w).eng c e = { u.eng c e with pc := (u.eng c e).sect.pcOf w }) := by
  rcases Nat.lt_or_ge w (u.eng c e).sect.len with hin | hout
  · rw [State.toWord_inside hin]
    exact ⟨rfl, State.reqOpen_modEng .., by simp, by simp, fun _ => by simp⟩
  · rw [State.toWord_past hout, State.leaveSect_next hsup]
    refine ⟨rfl, State.reqOpen_setEng .., ?_, ?_, fun h => absurd h (Nat.not_lt.mpr hout)⟩
    · rw [State.eng_setEng, if_pos ⟨rfl, rfl⟩]
      cases u.unretired c e <;> rfl
    · rw [State.eng_setEng, if_pos ⟨rfl, rfl⟩]
      cases u.unretired c e <;> rfl

theorem State.toSect_stands {u : State} {c : Nat} {e : Eng} (hsup : (u.eng c e).sup = none) (hlate : u.unretired c e = false)
    (num word : Nat) :
    (u.toSect c e num word).cur = u.cur ∧
    ((u.toSect c e num word).eng c e).grp = (u.eng c e).grp ∧ ((u.toSect c e num word).eng c e).loops = (u.eng c e).loops ∧
    (∀ x, u.targetSect c e { delta := BitVec.ofNat 14 (num - (u.eng c e).sect.num), word := BitVec.ofNat 16 word } = some x →
      (u.toSect c e num word).eng c e =
        { u.eng c e with hwm := BitVec.ofNat 16 (num - 1), sect := x, phase := .entering, target := word, pc := x.pcOf word,
                         regrp := none }) := by
  unfold State.toSect
  dsimp only
  cases u.targetSect c e { delta := BitVec.ofNat 14 (num - (u.eng c e).sect.num), word := BitVec.ofNat 16 word } with
  | none => exact ⟨rfl, rfl, rfl, fun x hx => nomatch hx⟩
  | some z =>
    dsimp only
    rw [hsup, hlate]
    refine ⟨rfl, ?_, ?_, fun x hx => ?_⟩
    · simp [Engine.retireSect]
    · simp [Engine.retireSect]
    · cases hx
      simp [Engine.retireSect, hsup]

-- the loop unit at a transfer

/-- The engine as a group ends whose transfer keeps its levels, or ends those whose range does not hold its target. -/
def Engine.sent (x : Engine) (keep : Bool) (n w : Nat) : Engine :=
  if keep then x.ended none 0 else (x.ended none 0).leaveLoops n w

@[simp] theorem Engine.sent_grp (x : Engine) (keep : Bool) (n w : Nat) : (x.sent keep n w).grp = none := by
  unfold Engine.sent
  split <;> rfl
@[simp] theorem Engine.sent_sect (x : Engine) (keep : Bool) (n w : Nat) : (x.sent keep n w).sect = x.sect := by
  unfold Engine.sent
  split <;> rfl
@[simp] theorem Engine.sent_sup (x : Engine) (keep : Bool) (n w : Nat) : (x.sent keep n w).sup = x.sup := by
  unfold Engine.sent
  split <;> rfl
@[simp] theorem Engine.sent_phase (x : Engine) (keep : Bool) (n w : Nat) : (x.sent keep n w).phase = x.phase := by
  unfold Engine.sent
  split <;> rfl
@[simp] theorem Engine.sent_hwm (x : Engine) (keep : Bool) (n w : Nat) : (x.sent keep n w).hwm = x.hwm := by
  unfold Engine.sent
  split <;> rfl

theorem Engine.sent_keeps (x : Engine) (n w : Nat) : (x.sent true n w).loops = x.loops := rfl

theorem Engine.mem_sent (x : Engine) (n w : Nat) (l : Nat × LoopLvl) : l ∈ (x.sent false n w).loops ↔ l ∈ x.loops ∧
    ∀ z ∈ x.loops, z.2.order ≤ l.2.order → z.2.sect = n ∧ z.2.start ≤ w ∧ w ≤ z.2.stop := by
  change l ∈ x.loops.filter _ ↔ _
  rw [List.mem_filter]
  refine and_congr_right fun _ => ?_
  simp only [Bool.not_eq_true', List.any_eq_false, Bool.and_eq_true, Bool.or_eq_true, decide_eq_true_eq, bne_iff_ne, ne_eq, not_and,
    not_or, not_not, Nat.not_lt]
  exact forall₂_congr fun z _ => imp_congr_right fun _ => and_assoc

-- the whole transfer

/-- At the end of a group the cores are as they were, but for tokens and the engine. -/
theorem State.ended_restated (s : State) (h : Hdr) : ∃ o r, ∀ y : Engine,
    (s.ended h none 0).setEng s.cur.1 s.cur.2 y = s.modCore s.cur.1 (Core.restated o r s.cur.2 y) := by
  obtain ⟨o, r, hk⟩ := s.curCore.retireTokens_eq s.cur.2 h
  refine ⟨o, r, fun y => ?_⟩
  unfold State.setEng
  rw [State.ended_core, State.ended, State.modCore, State.setCore_setCore, Core.setEng_setEng, hk]
  rfl

/-- The state as control goes to section `n`. -/
theorem State.Issuing.went_goto {s : State} {h : Hdr} {g : Grp} (hi : s.Issuing h g) (hl : g.idx + 1 = g.size)
    (hsup : s.curEng.sup = none) (hreq : s.reqOpen s.cur.1 = false) (keep : Bool) (n w : Nat) :
    ∃ u : State, (∀ t, u.targetSect s.cur.1 s.cur.2 t = s.targetSect s.cur.1 s.cur.2 t) ∧ u.cur = s.cur ∧
      u.eng s.cur.1 s.cur.2 = s.curEng.sent keep n w ∧ u.unretired s.cur.1 s.cur.2 = s.unretired s.cur.1 s.cur.2 ∧
      s.went h (.goto keep n w) =
        if n = s.curEng.sect.num then u.toWord s.cur.1 s.cur.2 w else u.toSect s.cur.1 s.cur.2 n w := by
  obtain ⟨o, r, hu⟩ := s.ended_restated h
  let u := (s.ended h none 0).setEng s.cur.1 s.cur.2 (s.curEng.sent keep n w)
  have heng : u.eng s.cur.1 s.cur.2 = s.curEng.sent keep n w := by simp [u]
  have hsect : (u.eng s.cur.1 s.cur.2).sect = (s.eng s.cur.1 s.cur.2).sect := by rw [heng, Engine.sent_sect]; rfl
  have hsup' : (u.eng s.cur.1 s.cur.2).sup = none := by rw [heng, Engine.sent_sup, hsup]
  have hleft : (if keep || (s.ended h none 0).inSup s.cur.1 s.cur.2 then s.ended h none 0
      else (s.ended h none 0).modEng s.cur.1 s.cur.2 (fun g => g.leaveLoops n w)) = u := by
    have hin : (s.ended h none 0).inSup s.cur.1 s.cur.2 = false := by simp [hsup]
    rw [hin, Bool.or_false]
    cases keep
    · change (s.ended h none 0).setEng _ _ _ = _
      rw [State.ended_eng]
      rfl
    · change s.ended h none 0 = (s.ended h none 0).setEng _ _ (s.curEng.ended none 0)
      unfold State.setEng
      rw [State.ended_core, State.ended, State.modCore, State.setCore_setCore, Core.setEng_setEng]
      rfl
  refine ⟨u, fun t => ?_, rfl, heng, ?_, ?_⟩
  · rw [show u = _ from hu _] at hsect hsup' ⊢
    exact (Core.restated_unseen ..).targetSect hsect hsup' hsup
  · simp [u, State.unretired, State.setEng, State.curCore]
  · change s.retire h none 0 (.goto keep n w) = _
    rw [hi.retire_last none 0 hl]
    unfold State.follow
    dsimp only
    rw [hleft, show (u.eng s.cur.1 s.cur.2).sect = s.curEng.sect from hsect]
    have hopen : u.reqOpen s.cur.1 = false := by simp [u, hreq]
    by_cases hn : n = s.curEng.sect.num
    · rw [if_pos hn, if_pos (beq_iff_eq.mpr hn)]
      obtain ⟨-, hword, -⟩ := State.toWord_stands hsup' w
      rw [State.park_closed _ (hword.trans hopen), ite_self]
    · rw [if_neg hn, if_neg (fun h => hn (beq_iff_eq.mp h))]

/-- Settles O16, by what the state is like as control goes to the section of the target. -/
theorem transferTargets : Obligations.TransferTargets := by
  intro s h g n w hi hl hsup hflight hreq keep y hy
  obtain ⟨u, htarget, hcur, heng, hlate, hwent⟩ := hi.went_goto hl hsup hreq keep n w
  have hsup' : (u.eng s.cur.1 s.cur.2).sup = none := by rw [heng, Engine.sent_sup, hsup]
  have hdone : u.unretired s.cur.1 s.cur.2 = false := by
    rw [hlate]
    unfold State.unretired
    rw [show (s.core s.cur.1).flight = [] from hflight]
    exact Bool.and_false _
  have hloops : y.grp = none ∧ y.loops = (s.curEng.sent keep n w).loops ∧
      (n = s.curEng.sect.num → w < s.curEng.sect.len →
        y = { s.curEng.sent keep n w with pc := s.curEng.sect.pcOf w }) ∧
      (n ≠ s.curEng.sect.num → ∀ x, s.targetSect s.cur.1 s.cur.2
          { delta := BitVec.ofNat 14 (n - s.curEng.sect.num), word := BitVec.ofNat 16 w } = some x →
        y = { s.curEng.sent keep n w with hwm := BitVec.ofNat 16 (n - 1), sect := x, phase := .entering, target := w,
                                          pc := x.pcOf w, regrp := none }) := by
    by_cases hn : n = s.curEng.sect.num
    · rw [if_pos hn] at hwent
      obtain ⟨hc, -, hgrp, hlps, hin⟩ := State.toWord_stands hsup' w
      rw [hwent, State.curEng_of_cur (hc.trans hcur)] at hy
      rw [heng] at hgrp hlps hin
      rw [Engine.sent_sect] at hin
      rw [hy]
      exact ⟨hgrp.trans (Engine.sent_grp ..), hlps, fun _ => hin, fun h => absurd hn h⟩
    · rw [if_neg hn] at hwent
      obtain ⟨hc, hgrp, hlps, hto⟩ := State.toSect_stands hsup' hdone n w
      rw [hwent, State.curEng_of_cur (hc.trans hcur)] at hy
      rw [heng] at hgrp hlps hto
      rw [Engine.sent_sect] at hto
      rw [hy]
      exact ⟨hgrp.trans (Engine.sent_grp ..), hlps, fun h => absurd h hn, fun _ x hx => hto x ((htarget _).trans hx)⟩
  obtain ⟨hgrp, hlps, hin, hto⟩ := hloops
  refine ⟨hgrp, fun hk => ?_, fun hk x => ?_, fun hn hw => ?_, fun x hlt hx => ?_⟩
  · rw [hlps, hk, Engine.sent_keeps]
  · rw [hlps, hk]
    exact Engine.mem_sent ..
  · rw [hin hn hw]
    exact ⟨rfl, Engine.sent_sect .., Engine.sent_phase .., Engine.sent_hwm ..⟩
  · rw [hto (Nat.ne_of_gt hlt) x hx]
    exact ⟨rfl, rfl, rfl, rfl, rfl, rfl, rfl⟩

end Sys2Proof.Machine
end

section
/-! SUPPORT. What no operation of issue, retirement and entering sections can break (01 R16 to R18, 06 R88 to R95, 18 R303 to R328). -/

namespace Sys2Proof.Machine

/-- The predicate holds of the state that an effect comes to. -/
inductive Eff.All (I : State → Prop) : Eff → Prop where
  | done {s : State} {push : Option RingEntry} {flags : FlagSet} {f : Flow} : I s → Eff.All I (.done s push flags f)
  | wait {s : State} {r : BitVec 8} : I s → Eff.All I (.wait s r)
  | fault {s : State} {x : AccFault} {buf : Nat} : I s → Eff.All I (.fault s x buf)
  | trapAt {s : State} {cause : Nat} {v : Word} : I s → Eff.All I (.trapAt s cause v)
  | flight {s : State} {push : Option RingEntry} {f : Flight} : I s → Eff.All I (.flight s push f)

/-- The predicate holds of the next state, where there is one. -/
def Goes (I : State → Prop) (o : Host.Outcome State Fault Refusal) : Prop := ∀ t, o = .next t → I t

theorem Goes.next {I : State → Prop} {s : State} (h : I s) : Goes I (.next s) := fun _ ht => by
  cases ht
  exact h

theorem Eff.All.ite {I : State → Prop} {x y : Eff} {P : Prop} [Decidable P] (hx : x.All I) (hy : y.All I) :
    (if P then x else y).All I := by
  split
  · exact hx
  · exact hy

/-- The predicate holds of the state in which an engine goes on by itself, or performs a word. -/
def Next.All (I : State → Prop) : Next → Prop
  | .own s => I s
  | .word _ s => I s

theorem Next.All.ite {I : State → Prop} {x y : Next} {P : Prop} [Decidable P] (hx : x.All I) (hy : y.All I) :
    (if P then x else y).All I := by
  split
  · exact hx
  · exact hy

namespace Inert

section
variable {I : State → Prop} (hI : Inert I) {s : State}
include hI

-- fetches of code and checks of ranges

theorem codeBy {w : Who} {buf off n : Nat} (h : I s) : I (s.codeBy w buf off n).1 := by
  have ha := hI.access (w := w) (buf := buf) (f := { need := .exec, es := 4, align := 4 })
    (offs := (List.range n).map (fun i => ((off + 4 * i : Nat) : Int))) h
  unfold State.codeBy
  generalize s.access w buf { need := .exec, es := 4, align := 4 } ((List.range n).map (fun i => ((off + 4 * i : Nat) : Int))) = p at ha ⊢
  obtain ⟨u, r⟩ := p
  cases r with
  | error x => exact ha
  | ok es => exact hI.homeRead (kid := w.kid.getD 0) ha

theorem code {c buf off n : Nat} (h : I s) : I (s.code c buf off n).1 := hI.codeBy h

theorem rangeOk {w : Who} {r : Range} (h : I s) : I (s.rangeOk w r).1 := by
  have hb := hI.visited.buffer (w := w) (n := r.buf) (need := r.need) h
  unfold State.rangeOk
  generalize s.buffer w r.buf r.need = p at hb ⊢
  obtain ⟨u, d⟩ := p
  cases d <;> exact hb

theorem rangesOk {w : Who} {rs : List Range} (h : I s) : I (s.rangesOk w rs).1 := by
  induction rs generalizing s with
  | nil => exact h
  | cons r rs ih =>
    have hr := hI.rangeOk (w := w) (r := r) h
    unfold State.rangesOk
    generalize s.rangeOk w r = p at hr ⊢
    obtain ⟨u, x⟩ := p
    cases x with
    | some x => exact hr
    | none => exact ih hr

-- where control goes

theorem park {c : Nat} {e : Eng} (h : I s) : I (s.park c e) := Inert.ite (hI.modEng h) h
theorem keep {c : Nat} {e : Eng} {r : Option Grp} (h : I s) : I (s.keep c e r) := Inert.ite h (hI.modEng h)
theorem dropFlights {c : Nat} {f : Flight} {later : List Flight} (h : I s) : I (s.dropFlights c f later) := hI.modEng (hI.modCore h)
theorem queueWord {c : Nat} {pops posts : BitVec 3} {pc : BitVec 16} (h : I s) : I (s.queueWord c pops posts pc) := by
  unfold State.queueWord
  exact hI.modCore h

theorem leaveSect {c : Nat} {e : Eng} (h : I s) : I (s.leaveSect c e) := by
  unfold State.leaveSect
  refine Inert.ite ?_ (hI.setEng h)
  split
  · exact hI.setEng h
  · exact hI.takeTrap h

theorem toWord {c : Nat} {e : Eng} {w : Nat} (h : I s) : I (s.toWord c e w) := Inert.ite (hI.leaveSect h) (hI.modEng h)

theorem toSect {c : Nat} {e : Eng} {num w : Nat} (h : I s) : I (s.toSect c e num w) := by
  unfold State.toSect
  dsimp only
  split
  · exact h
  · exact Inert.ite (hI.setEng h) (hI.setEng h)

theorem stopAt {c : Nat} {e : Eng} {why : Flow} (h : I s) : I (s.stopAt c e why) := by
  have hstop : I ((s.leaveSect c e).modEng c e (fun x => { x with stopped := some why })) := hI.modEng (hI.leaveSect h)
  unfold State.stopAt
  exact Inert.ite (hI.leaveSect h) (Inert.ite (hI.waitOn (hI.modEng hstop)) hstop)

theorem unsleep {c : Nat} {e : Eng} {x : Slept} (h : I s) : I (s.unsleep c e x) := hI.modEng h

theorem eret {c : Nat} {e : Eng} (h : I s) : I (s.eret c e) := by
  unfold State.eret
  exact Inert.ite (Inert.ite (hI.leaveSect (hI.setEng h)) (hI.setEng h)) (hI.takeTrap h)

theorem follow {c : Nat} {e : Eng} {last : Nat} {f : Flow} (h : I s) : I (s.follow c e last f) := by
  cases f with
  | next =>
    unfold State.follow
    refine Inert.ite (hI.toWord h) ?_
    dsimp only
    split
    · exact Inert.ite (hI.park (hI.toWord (hI.setEng h))) (hI.toWord (hI.setEng h))
    · exact hI.toWord (hI.setEng h)
  | goto keep sect word =>
    have hleft : I (if keep || s.inSup c e then s else s.modEng c e (fun g => g.leaveLoops sect word)) := Inert.ite h (hI.modEng h)
    unfold State.follow
    exact Inert.ite (Inert.ite (hI.park (hI.toWord hleft)) (hI.toWord hleft)) (hI.toSect hleft)
  | past w => exact hI.toWord h
  | suspend p => exact hI.stopAt (c := c) (e := e) (why := .suspend p) h
  | yield => exact hI.stopAt (c := c) (e := e) (why := .yield) h
  | sleep => exact hI.stopAt h
  | halt => exact hI.modTask (hI.modEng h)
  | eret => exact hI.eret h

-- retirement

theorem dueTrap {c : Nat} {e : Eng} {d : Due} {pc : BitVec 16} {last : Nat} {f : Flow} (h : I s) : I (s.dueTrap c e d pc last f) := by
  have hl : I (s.modEng c e (fun g => g.loopsAfter (s.reqOpen c) last f)) := hI.modEng h
  unfold State.dueTrap
  generalize s.modEng c e (fun g => g.loopsAfter (s.reqOpen c) last f) = u at hl
  have hf : I (match f with
    | .halt => u.modTask c (fun t => { t with halting := true })
    | .suspend _ | .yield => u.modEng c e (fun g => { g with stopped := some f })
    | .sleep => if u.soundSleep c then u.modEng c e (fun g => { g with stopped := some f }) else u
    | _ => u) := by
    split
    · exact hI.modTask hl
    · exact hI.modEng hl
    · exact hI.modEng hl
    · exact Inert.ite (hI.modEng hl) hl
    · exact hl
  cases d with
  | software code => exact Inert.ite (hI.deliver hf) (hI.takeTrap hf)
  | arith b => exact hI.takeTrap hf

theorem endMember {c : Nat} {e : Eng} {g : Grp} {f : Flow} (h : I s) : I (s.endMember c e g f) := by
  unfold State.endMember
  refine Inert.ite (hI.modEng h) ?_
  dsimp only
  split
  · exact hI.dueTrap (hI.modEng h)
  · exact hI.follow (hI.modEng h)

theorem postTrap {c : Nat} {e : Eng} {g : Grp} {o : Nat} (h : I s) : I (s.postTrap c e g o) := hI.takeTrap (hI.keep h)
theorem waitRetire {c : Nat} {e : Eng} {g : Grp} {pops posts : BitVec 3} {f : Flow} (h : I s) :
    I (s.waitRetire c e g pops posts f) := hI.modEng h

theorem postNow {c : Nat} {e : Eng} {g : Grp} {posts : BitVec 3} {f : Flow} (h : I s) : I (s.postNow c e g posts f) := by
  unfold State.postNow
  refine Inert.ite (hI.endMember (hI.modEng (hI.modCore h))) (Inert.ite (hI.endMember (hI.modEng h)) ?_)
  split
  · exact Inert.ite (hI.endMember (hI.modEng h)) (hI.postTrap h)
  · exact hI.waitOn (hI.waitRetire h)

theorem postAndEnd {c : Nat} {e : Eng} {g : Grp} {pops posts : BitVec 3} {f : Flow} (h : I s) :
    I (s.postAndEnd c e g pops posts f) := by
  have hw : I (s.waitRetire c e g pops posts f) := hI.waitRetire h
  unfold State.postAndEnd
  exact Inert.ite (Inert.ite (hI.waitOn hw) hw) (Inert.ite (hI.waitOn hw)
    (Inert.ite (Inert.ite (hI.endMember (hI.modEng (hI.queueWord h))) (hI.waitOn hw)) (hI.postNow (hI.modCore h))))

theorem retire {h' : Hdr} {push : Option RingEntry} {flags : FlagSet} {f : Flow} (h : I s) : I (s.retire h' push flags f) := by
  unfold State.retire
  dsimp only
  split
  · exact hI.postAndEnd (hI.modEng h)
  · exact hI.modEng h

theorem memberFault {cause : Nat} {v : Word} {b o k : Nat} (h : I s) : I (s.memberFault cause v b o k) := by
  unfold State.memberFault
  dsimp only
  split
  · exact hI.takeTrap (hI.keep h)
  · exact hI.takeTrap h

theorem settle {h' : Hdr} {x : Eff} (h : x.All I) : I (State.settle h' x) := by
  cases h with
  | done h => exact hI.retire h
  | wait h => exact hI.waitOn h
  | fault h => exact hI.memberFault h
  | trapAt h => exact hI.memberFault h
  | flight h =>
    unfold State.settle
    dsimp only
    split
    · exact hI.endMember (hI.modCore (hI.modCur h))
    · exact hI.modCur h

-- issue

theorem logSlip {c : Nat} {i : Instr} {again : Bool} (h : I s) : I (s.logSlip c i again) := by
  unfold State.logSlip
  split
  · refine Inert.ite (hI.modGang (hI.post h)) ?_
    split
    · exact hI.modGang (hI.post h)
    · exact h
  · exact h

theorem noteLate {c : Nat} {e : Eng} {is : List Instr} {again : Bool} (h : I s) : I (s.noteLate c e is again) := by
  unfold State.noteLate
  split
  · split
    · exact Inert.ite (hI.modGang h) h
    · exact h
  · exact h

theorem issue {c : Nat} {e : Eng} {is : List Instr} (h : I s) : I (s.issue c e is) := by
  unfold State.issue
  dsimp only
  have hlog : I (match e, is with
    | .M, i :: _ => s.logSlip c i (s.openedGrp c e is.length).again
    | _, _ => s) := by
    split
    · exact hI.logSlip h
    · exact h
  exact hI.modEng (hI.modCore (Inert.ite (hI.syncAhead hlog) hlog))

theorem endSlip {c : Nat} {e : Eng} {is : List Instr} {cause : Nat} {again : Bool} (h : I s) : I (s.endSlip c e is cause again) := by
  unfold State.endSlip
  split
  · exact Inert.ite h (hI.logSlip h)
  · exact h

theorem openGroup {is : List Instr} (h : I s) : I (s.openGroup is).1 := by
  unfold State.openGroup
  dsimp only
  split
  · exact hI.issue h
  · exact Inert.ite (hI.park (hI.waitOn (hI.noteLate h))) (hI.waitOn (hI.noteLate h))
  · exact hI.takeTrap (hI.endSlip h)

/-- A word keeps what its effect keeps. -/
theorem performWord {i : Instr} {eff : Grp → State → Eff} (heff : ∀ g u, I u → (eff g u).All I) (h : I s) :
    Goes I (performWord i eff s) := by
  have ho := hI.openGroup (is := [i]) h
  unfold Machine.performWord
  split
  · exact Goes.next (hI.settle (heff _ _ h))
  · split
    · exact Goes.next (hI.takeTrap h)
    · split
      · rename_i t hopen
        rw [hopen] at ho
        exact Goes.next ho
      · rename_i t hopen
        rw [hopen] at ho
        split
        · exact Goes.next (hI.settle (heff _ _ ho))
        · exact Goes.next ho

-- entering a section

theorem sectCode {c : Nat} {e : Eng} {t : RunTask} {off n : Nat} (h : I s) : I (s.sectCode c e t off n).1 := by
  unfold State.sectCode
  dsimp only
  split
  · split
    · exact h
    · exact hI.code h
  · exact hI.code h

theorem streamFault {c : Nat} {e : Eng} {k : Nat} (h : I s) : I (s.streamFault c e k) := hI.takeTrap h

theorem enter {c : Nat} {e : Eng} (h : I s) : I (s.enter c e) := by
  unfold State.enter
  split
  · exact h
  · rename_i t _
    extract_lets g base at_ finish
    have hat : ∀ {n u}, I u → I (at_ n u) := fun hu => hI.modEng hu
    have hfinish : ∀ {u}, I u → I (finish u) := fun hu => hI.modEng hu
    refine Inert.ite (hI.waitOn h) (Inert.ite (hfinish h) ?_)
    split
    · exact hI.waitOn h
    · have h1 := hI.sectCode (c := c) (e := e) (t := t) (off := 0) (n := 2) h
      generalize s.sectCode c e t 0 2 = p at h1 ⊢
      obtain ⟨u, r⟩ := p
      cases r with
      | error x => exact hI.streamFault (hat h1)
      | ok bs =>
        dsimp only
        refine Inert.ite (hI.streamFault (hat h1)) ?_
        have h2 := hat (n := bitsOf (leWord bs) 48 16) h1
        dsimp only at h2
        generalize at_ (bitsOf (leWord bs) 48 16) u = v at h2 ⊢
        split
        · exact hI.waitOn h2
        · have h3 := hI.sectCode (c := c) (e := e) (t := t) (off := 8) (n := 3 * bitsOf (leWord bs) 48 16) h2
          generalize v.sectCode c e t 8 (3 * bitsOf (leWord bs) 48 16) = q at h3 ⊢
          obtain ⟨x, r⟩ := q
          cases r with
          | error y => exact hI.streamFault h3
          | ok ws =>
            exact Inert.ite (hI.waitOn h3) (Inert.ite (hfinish h3) (hI.modEng (hI.modCore (hI.syncAhead h3))))

theorem knowSect {c : Nat} {e : Eng} (h : I s) : I (s.knowSect c e) := Inert.ite (hI.modEng h) h

theorem abandon {c : Nat} {e : Eng} {cause : Nat} {v : Word} (h : I s) : I (s.abandon c e cause v) := by
  unfold State.abandon
  dsimp only
  split
  · exact hI.takeTrap (hI.modEng (hI.dropFlights h))
  · exact hI.takeTrap (hI.modEng (hI.keep (hI.modCore h)))
  · exact hI.takeTrap (hI.keep h)
  · exact Inert.ite (hI.takeTrap (hI.knowSect h)) (hI.takeTrap h)

theorem phaseTrap {c : Nat} {e : Eng} (h : I s) : I (s.phaseTrap c e) := hI.abandon (hI.modEng h)

theorem payDebt {c : Nat} {e : Eng} (h : I s) : I (s.payDebt c e) := by
  unfold State.payDebt
  refine Inert.ite (hI.modEng (hI.modCore h)) ?_
  split
  · exact hI.takeTrap (hI.modEng h)
  · exact hI.waitOn h

theorem breakOff {c : Nat} {e : Eng} {r : Grp} (h : I s) : I (s.breakOff c e r) := hI.modEng (hI.modCore (hI.keep h))

-- what the current engine does next

theorem atGroup {c : Nat} {e : Eng} (h : I s) : (s.atGroup c e).All I := by
  unfold State.atGroup
  refine Next.All.ite (hI.payDebt h) (Next.All.ite (hI.leaveSect h) (Next.All.ite h ?_))
  dsimp only
  split
  · exact hI.takeTrap h
  · exact h
  · rename_i is _ _
    have ho := hI.openGroup (is := is) h
    split
    · rename_i t hopen
      rw [hopen] at ho
      exact ho
    · rename_i t hopen
      rw [hopen] at ho
      split
      · exact ho
      · exact ho

theorem inGroup {c : Nat} {e : Eng} {t : RunTask} {r : Grp} (h : I s) : (s.inGroup c e t r).All I := by
  unfold State.inGroup
  dsimp only
  split
  · exact hI.postAndEnd (hI.land h)
  · refine Next.All.ite h (Next.All.ite (hI.breakOff h) ?_)
    split <;> exact h

theorem fetch (h : I s) : s.fetch.All I := by
  unfold State.fetch
  dsimp only
  split
  · exact h
  · refine Next.All.ite (hI.modEng h) ?_
    split
    · exact hI.unsleep h
    · refine Next.All.ite (hI.phaseTrap h) ?_
      split
      · exact hI.inGroup h
      · refine Next.All.ite h ?_
        split
        · exact Next.All.ite (hI.park h) (hI.enter h)
        · exact hI.atGroup h
        · exact h

end
end Inert
end Sys2Proof.Machine
end

section
/-! SUPPORT. What no effect of a scalar, command, matrix or memory word can break (04 R59 to R66, 09 R156 to R164, 10 R168, R182,
12 R227 to R242, 16 R287 to R295). -/

namespace Sys2Proof.Machine

namespace Inert

section
variable {I : State → Prop} (hI : Inert I) {s : State}
include hI

-- operands

theorem swr {d : SDst} {v : SVal} (h : I s) : I (s.swr d v) := by
  unfold State.swr
  split
  · exact hI.modCur h
  · exact h

theorem vwr {d : VDst} {v : VVal} (h : I s) : I (s.vwr d v) := by
  unfold State.vwr
  split
  · exact hI.modCore h
  · exact h

theorem pwr {d : Fin 16} {p : PBits} (h : I s) : I (s.pwr d p) := hI.modCore h
theorem wanting {ks : List Nat} (h : I s) : I (s.wanting ks) := hI.modCur h
theorem queueFerry (h : I s) : I s.queueFerry := hI.of_eq h rfl

-- scalar words

theorem scalarEff {h' : Hdr} {d : SDst} {src : List SVal} {r : Word × FlagSet} (h : I s) : (scalarEff h' d src r s).All I := by
  unfold Machine.scalarEff
  refine Eff.All.ite ?_ (.done h)
  split
  · exact .done (hI.swr h)
  · exact .done (hI.swr h)

-- the waits of an access

theorem heldEff {r : Option (BitVec 8)} {ps : List Place} {k : State → Eff} (hk : ∀ u, I u → (k u).All I) (h : I s) :
    (s.heldEff r ps k).All I := by
  unfold State.heldEff
  split
  · exact .wait (Inert.ite (hI.queueFerry (hI.wanting (hI.refused h))) (hI.wanting (hI.refused h)))
  · exact Eff.All.ite (hk _ h) (.wait (hI.queueFerry (hI.wanting h)))

theorem turnEff {home store : Bool} {ps : List Place} {k : State → Eff} (hk : ∀ u, I u → (k u).All I) (h : I s) :
    (s.turnEff home store ps k).All I := by
  have hd : I (if s.writesFirst s.cur.1 store ps (s.core s.cur.1) then s.drain s.cur.1 else s) := Inert.ite (hI.drain h) h
  exact Eff.All.ite (.wait (hI.wanting hd)) (hI.heldEff hk hd)

theorem orderedEff {o : Order} {home store : Bool} {ps : List Place} {k : State → Eff} (hk : ∀ u, I u → (k u).All I) (h : I s) :
    (s.orderedEff o home store ps k).All I := by
  have hr : I (s.beforeRel o ps) := hI.beforeRel h
  have hrel : I ((s.beforeRel o ps).releaseAt s.cur.1 (s.beforeRel o ps).cur.2 3 0xF) := hI.releaseAt hr
  unfold State.orderedEff
  exact Eff.All.ite (.wait hr) (Eff.All.ite (Eff.All.ite (hI.turnEff hk (hI.beforeAcq (hI.fenced hrel))) (.wait hrel))
    (hI.turnEff hk (hI.beforeAcq hr)))

theorem checkedEff {buf : Nat} {f : Form} {offs : List Int} {k : List (List Place) → State → Eff}
    (hk : ∀ ps u, I u → (k ps u).All I) (h : I s) : (s.checkedEff buf f offs k).All I := by
  have ha := hI.access (w := s.whoCur) (buf := buf) (f := f) (offs := offs) h
  unfold State.checkedEff
  refine Eff.All.ite (.wait (hI.wanting h)) ?_
  generalize s.access s.whoCur buf f offs = p at ha ⊢
  obtain ⟨u, r⟩ := p
  cases r with
  | error x => exact .fault ha
  | ok ps => exact hk ps u ha

theorem memEff {o : Order} {buf : Nat} {f : Form} {offs : List Int} {home : Bool} {k : List (List Place) → State → Eff}
    (hk : ∀ ps u, I u → (k ps u).All I) (h : I s) : (s.memEff o buf f offs home k).All I :=
  hI.checkedEff (fun ps _ hu => hI.orderedEff (hk ps) hu) h

theorem noteAtomic {ps : List Place} (h : I s) : I (s.noteAtomic ps) := hI.afterStore (hI.modCore h)

theorem sawFlip {o : Order} {ps : List Place} (h : I s) : I (s.sawFlip o ps) := by
  unfold State.sawFlip
  split
  · exact Inert.ite (hI.flipAhead h) h
  · exact h

theorem loadEff {sp : Bool} {o : Order} {buf : Nat} {f : Form} {offs : List Int} {k : List (List (Byte × BitVec 4)) → State → Eff}
    (hk : ∀ bs u, I u → (k bs u).All I) (h : I s) : (s.loadEff sp o buf f offs k).All I := by
  have hb := hI.visited.buffer (w := s.whoCur) (n := buf) (need := f.need) h
  unfold State.loadEff
  refine Eff.All.ite (.wait (hI.wanting h)) (Eff.All.ite ?_ ?_)
  · dsimp only
    generalize s.buffer s.whoCur buf f.need = p at hb ⊢
    obtain ⟨u, d⟩ := p
    cases d with
    | error e => exact hI.orderedEff (fun v hv => hk _ _ (hI.afterLoad (hI.prepare hv))) hb
    | ok d => exact hI.orderedEff (fun v hv => hk _ _ (hI.afterLoad (hI.prepare hv))) (hI.visited.elements hb)
  · exact hI.memEff (fun ps v hv => hk _ _ (hI.afterLoad (hI.sawFlip (hI.prepare hv)))) h

-- records and slots

theorem setLrec {n off : Nat} {w : Word} (h : I s) : I (s.setLrec n off w) := hI.partWords h
theorem setOut {n v : Nat} (h : I s) : I (s.setOut n v) := hI.setLrec h
theorem patch {n sel : Nat} {b : Word} (h : I s) : I (s.patch n sel b) :=
  Inert.ite (hI.setLrec h) (Inert.ite (hI.setLrec h) (hI.setLrec h))

theorem readDbo {c n : Nat} {i : EvInfo} (h : I s) : I (s.readDbo c n i).1 := by
  have ha := hI.access (w := s.whoAgent c (s.lrecCtx n) n) (buf := bitsOf (s.lrecWord n 0x20) 0 16) (f := boForm .read)
    (offs := [((bitsOf (s.lrecWord n 0x20) 16 48 : Nat) : Int)]) h
  unfold State.readDbo
  refine Inert.ite_fst h ?_
  dsimp only
  generalize s.access (s.whoAgent c (s.lrecCtx n) n) (bitsOf (s.lrecWord n 0x20) 0 16) (boForm .read)
    [((bitsOf (s.lrecWord n 0x20) 16 48 : Nat) : Int)] = p at ha ⊢
  obtain ⟨u, r⟩ := p
  refine Inert.ite_fst ha ?_
  cases r with
  | error x => exact ha
  | ok ps =>
    have hat : I ((if c > 255 then u else u.toHome c (lineOf (keyOf ps))).reach [lineOf (keyOf ps)]) :=
      hI.reach (Inert.ite ha (hI.toHome ha))
    exact Inert.ite_fst ha (Inert.ite_fst ha (Inert.ite_pair (hI.memErr hat) hat))

theorem modSeq {n : Nat} {f : Seq → Seq} (h : I s) : I (s.modSeq n f) := hI.setSeq h
theorem writeRecord {n slot tile st r : Nat} (h : I s) : I (s.writeRecord n slot tile st r) := hI.partWords h

theorem armRecords {n : Nat} {bind : Option Nat} {q : List Word} {home : Option (Nat × Nat)} (h : I s) :
    I (s.armRecords n bind q home) := by
  unfold State.armRecords
  refine Inert.ite h ?_
  dsimp only
  split
  · exact hI.modSeq (hI.setLrec (Inert.foldl _ (fun _ _ ht => hI.setInfo (hI.writeRecord ht)) h))
  · exact hI.setLrec (Inert.foldl _ (fun _ _ ht => hI.setInfo (hI.writeRecord ht)) h)

theorem freeSlot {slot : Nat} (h : I s) : I (s.freeSlot slot) := by
  have hd : I ((s.setOut (bitsOf (s.recWord slot 0x20) 0 16) (s.lrecOut (bitsOf (s.recWord slot 0x20) 0 16) - 1)).setRecState slot tDone 0) :=
    hI.setRecState (hI.setOut h)
  unfold State.freeSlot
  dsimp only
  generalize (s.setOut _ _).setRecState slot tDone 0 = u at hd ⊢
  split
  · exact hI.of_eq (s := u) hd rfl
  · exact hI.of_eq hd rfl

-- command words

theorem addCmd {x : Cmd} (h : I s) : I (s.addCmd x) := hI.of_eq h rfl
theorem addProg {x : Prog} (h : I s) : I (s.addProg x) := hI.of_eq h rfl
theorem setSlot {slot tag : Nat} {x : CmdSlot} (h : I s) : I (s.setSlot slot tag x) := hI.modInfo h
theorem setCmd {n : Nat} {x : Cmd} (h : I s) : I (s.setCmd n x) := hI.of_eq h rfl

theorem accept {c : Nat} {t : RunTask} {tag kind : Nat} {ops : List Word} {bo : Word} {desc : List Word} (h : I s) :
    I (s.accept c t tag kind ops bo desc) := by
  unfold State.accept
  exact Inert.ite (hI.addProg (hI.setSlot h)) (hI.addCmd (hI.setSlot (hI.modCore h)))

theorem planCmd {w : Who} {c kind : Nat} {ops : List Word} {bo : Word} {desc : List Word} {m : Nat} (h : I s) :
    I (s.planCmd w c kind ops bo desc m).1 := by
  have hr := hI.rangesOk (w := w) (rs := cmdRanges kind ops desc bo) h
  unfold State.planCmd
  generalize s.rangesOk w (cmdRanges kind ops desc bo) = p at hr ⊢
  obtain ⟨u, x⟩ := p
  cases x <;> exact hr

theorem acceptEff {was : State} {kind : Nat} {d : SDst} {ops : List Word} {bo : BoRef} {desc : List Word} (h : I s) :
    (acceptEff was kind d ops bo desc s).All I := by
  have hp := hI.planCmd (w := s.whoCur) (c := s.cur.1) (kind := kind) (ops := ops) (bo := boRefWord bo) (desc := desc) (m := s.memberNo) h
  unfold Machine.acceptEff
  refine Eff.All.ite (.wait h) ?_
  dsimp only
  generalize s.planCmd s.whoCur s.cur.1 kind ops (boRefWord bo) desc s.memberNo = p at hp ⊢
  obtain ⟨u, r⟩ := p
  cases r with
  | fault x buf => exact .fault hp
  | trap cause v => exact .trapAt hp
  | ready desc =>
    dsimp only
    split
    · exact .wait hp
    · split
      · exact .wait hp
      · exact Eff.All.ite (.wait hp) (.done (hI.swr (hI.accept hp)))

theorem rowsEff {kind : Nat} {d : SDst} {ops : List Word} {bo : BoRef} (h : I s) : (rowsEff kind d ops bo s).All I := by
  unfold Machine.rowsEff
  refine hI.loadEff (fun es u hu => Eff.All.ite (.trapAt hu) ?_) h
  split
  · exact hI.acceptEff hu
  · exact .fault hu
  · exact .trapAt hu

theorem asyncEff {kind : Nat} {d : SDst} {ops : List Word} {bo : BoRef} (h : I s) : (asyncEff kind d ops bo s).All I :=
  Eff.All.ite (hI.rowsEff h) (hI.acceptEff h)

theorem astatEff {d : SDst} {a : Word} (h : I s) : (astatEff d a s).All I := .done (hI.swr h)

-- matrix words

theorem bankWait {c layer off n : Nat} (h : I s) : (bankWait c layer off n s).All I := .wait (hI.modCur h)

theorem bankFault {layer : Nat} {f : Fetched} (h : I s) : (bankFault layer s f).All I := by
  cases f with
  | bytes bs => exact .done h
  | moved u => exact .fault (hI.of_eq h rfl)
  | bad off => exact .trapAt h

theorem mcfgEff {i : Instr} {a : SSrc} (h : I s) : (mcfgEff i a s).All I := .flight (hI.setCore h)

theorem mldwEff {i : Instr} {a : SSrc} {again : Bool} (h : I s) : (mldwEff i a again s).All I := by
  unfold Machine.mldwEff
  refine Eff.All.ite (hI.bankWait h) ?_
  split
  dsimp only
  split
  · exact hI.bankFault (hI.setCore h)
  · exact .flight (hI.setCore h)

theorem mldsEff {i : Instr} {a : SSrc} (h : I s) : (mldsEff i a s).All I := by
  unfold Machine.mldsEff
  refine Eff.All.ite (hI.bankWait h) ?_
  split
  · exact .flight (hI.setCore h)
  · exact hI.bankFault (hI.setCore h)

theorem mswpEff {i : Instr} (h : I s) : (mswpEff i s).All I := .flight (hI.modCore h)

theorem mmaEff {i : Instr} {bank areg : Nat} {b : SSrc} {creg : Nat} {again : Bool} (h : I s) :
    (mmaEff i bank areg b creg again s).All I := by
  unfold Machine.mmaEff
  refine Eff.All.ite (Eff.All.ite (hI.bankWait h) ?_) (.flight (hI.setCore h))
  dsimp only
  split
  · exact hI.bankFault (hI.modCur (hI.setCore h))
  · exact .flight (hI.setCore h)

theorem reread {c reg : Nat} {mask : BitVec 256} (h : I s) : I (s.reread c reg mask) := by
  unfold State.reread
  dsimp only
  split
  · exact h
  · split
    · exact h
    · refine Inert.ite h ?_
      split
      · exact h
      · exact hI.modCore h

theorem mzaEff {i : Instr} {bank : Nat} (h : I s) : (mzaEff i bank s).All I := .flight (hI.modCore h)
theorem mdrnEff {i : Instr} {bank vd : Nat} {b : SSrc} (h : I s) : (mdrnEff i bank vd b s).All I := .flight (hI.setCore h)
theorem mkprEff {i : Instr} {d : SDst} (h : I s) : (mkprEff i d s).All I := .flight (hI.swr h)
theorem mbswpEff {i : Instr} {a : SSrc} (h : I s) : (mbswpEff i a s).All I := .flight (hI.modCore h)

-- loads and stores

theorem loadedScalar {d : SDst} {v : SVal} (h : I s) : (loadedScalar d v s).All I := .done (hI.swr h)
theorem loadedVec {d : VDst} {v : VVal} (h : I s) : (loadedVec d v s).All I := .done (hI.vwr h)

theorem ldsEff {sz : BitVec 2} {sx sp : Bool} {d : SDst} {m : MemOp} (h : I s) : (ldsEff sz sx sp d m s).All I := by
  unfold Machine.ldsEff
  split
  · exact hI.loadedScalar h
  · exact hI.loadEff (fun _ _ hu => hI.loadedScalar hu) h

theorem stsEff {sz : BitVec 2} {a : SSrc} {m : MemOp} (h : I s) : (stsEff sz a m s).All I :=
  hI.memEff (fun _ _ hu => .done (hI.storePlaces hu)) h

theorem roFill {quad kid line : Nat} (h : I s) : I (s.roFill quad kid line) := Inert.ite h (hI.of_eq (hI.reach (ls := [line]) h) rfl)
theorem roSnap {quad kid line : Nat} (h : I s) : I (s.roSnap quad kid line) := Inert.ite (hI.of_eq h rfl) h

theorem roServe {quad kid line n view : Nat} {mask : Nibs} (h : I s) : I (s.roServe quad kid line n view mask) := by
  unfold State.roServe
  split
  · exact h
  · exact Inert.ite (hI.of_eq h rfl) (Inert.ite (hI.of_eq h rfl) h)

theorem cldEff {sz : BitVec 2} {sx : Bool} {d : SDst} {m : MemOp} (h : I s) : (cldEff sz sx d m s).All I := by
  unfold Machine.cldEff
  refine hI.checkedEff (fun es u hu => Eff.All.ite ?_ ?_) h
  · exact hI.orderedEff (fun v hv => hI.loadedScalar (hI.afterLoad (hI.prepare hv))) hu
  · exact hI.heldEff (fun v hv => hI.loadedScalar (hI.reach (Inert.foldl _ (fun _ _ => hI.roFill) hv))) hu

theorem vldEff {sp : Bool} {d : VDst} {m : MemOp} (h : I s) : (vldEff sp d m s).All I := by
  unfold Machine.vldEff
  split
  · exact hI.loadedVec h
  · exact hI.loadEff (fun _ _ hu => hI.loadedVec hu) h

theorem vldsEff {sz : BitVec 2} {sp : Bool} {d : VDst} {a : SSrc} {m : MemOp} (h : I s) : (vldsEff sz sp d a m s).All I := by
  unfold Machine.vldsEff
  split
  · exact hI.loadedVec h
  · exact hI.loadEff (fun _ _ hu => hI.loadedVec hu) h

theorem vldxEff {sz : BitVec 2} {sp : Bool} {d : VDst} {a : VSrc} {m : MemOp} (h : I s) : (vldxEff sz sp d a m s).All I := by
  unfold Machine.vldxEff
  split
  · exact hI.loadedVec h
  · exact hI.loadEff (fun _ _ hu => hI.loadedVec hu) h

theorem vldbEff {sz : BitVec 2} {sp : Bool} {d : VDst} {m : MemOp} (h : I s) : (vldbEff sz sp d m s).All I := by
  unfold Machine.vldbEff
  split
  · exact hI.loadedVec h
  · exact hI.loadEff (fun _ _ hu => hI.loadedVec hu) h

theorem vstoreEff {o : Order} {buf : Nat} {f : Form} {grain : Nat} {offs : List Int} {bs : List Byte} (h : I s) :
    (vstoreEff s o buf f grain offs bs).All I := hI.memEff (fun _ _ hu => .done (hI.storePlaces hu)) h

theorem vstEff {a : VSrc} {m : MemOp} (h : I s) : (vstEff a m s).All I := hI.vstoreEff h
theorem vstsEff {sz : BitVec 2} {a : VSrc} {d : SSrc} {m : MemOp} (h : I s) : (vstsEff sz a d m s).All I := hI.vstoreEff h
theorem vstxEff {sz : BitVec 2} {a d : VSrc} {m : MemOp} (h : I s) : (vstxEff sz a d m s).All I := hI.vstoreEff h
theorem vstnEff {a d : VSrc} {m : MemOp} (h : I s) : (vstnEff a d m s).All I := hI.memEff (fun _ _ hu => .done (hI.storePlaces hu)) h

-- atomics

theorem atomicDone {d : SDst} {buf : Nat} {off : Int} {r : Except (BitVec 4) SVal} (h : I s) : (atomicDone s d buf off r).All I := by
  cases r with
  | ok v => exact Eff.All.ite (.done h) (hI.loadedScalar h)
  | error c => exact Eff.All.ite (.done (hI.memErr h)) (hI.loadedScalar h)

theorem amoEff {op : AmoOp} {sz : BitVec 2} {d : SDst} {a : SSrc} {m : MemOp} (h : I s) : (amoEff op sz d a m s).All I := by
  unfold Machine.amoEff
  refine hI.memEff (fun ps u hu => ?_) h
  dsimp only
  exact hI.atomicDone (hI.atomic (hI.noteAtomic hu))

theorem casEff {sz : BitVec 2} {d : SDst} {a : SSrc} {m : MemOp} (h : I s) : (casEff sz d a m s).All I := by
  unfold Machine.casEff
  refine hI.memEff (fun ps u hu => ?_) h
  dsimp only
  exact hI.atomicDone (hI.compareSwap (hI.noteAtomic hu))

theorem amovRun {op : AmoOp} {t : Ty} {buf : Nat} {off : Int} {es i : Nat} {xs : List Nat} {pss : List (List Place)} (h : I s) :
    I (s.amovRun op t buf off es i xs pss) := by
  induction xs generalizing s i pss with
  | nil => cases pss <;> exact h
  | cons x xs ih =>
    cases pss with
    | nil => exact h
    | cons ps rest =>
      have ha := hI.atomic (c := s.cur.1) (kid := s.curKid) (key := keyOf [ps]) (op := op) (t := t) (x := BitVec.ofNat 64 x)
        (by_ := some (s.giver buf (off + (es * i : Nat)).toNat)) h
      unfold State.amovRun
      generalize s.atomic s.cur.1 s.curKid (keyOf [ps]) op t (BitVec.ofNat 64 x) (some (s.giver buf (off + (es * i : Nat)).toNat)) = p at ha ⊢
      obtain ⟨u, r⟩ := p
      cases r with
      | ok v => exact ih ha
      | error c => exact ih (hI.memErr ha)

theorem amovEff {op : AmoOp} {t : Ty} {a : VSrc} {m : MemOp} (h : I s) : (amovEff op t a m s).All I :=
  hI.memEff (fun _ _ hu => .done (hI.amovRun (hI.noteAtomic hu))) h

-- fences, barriers and barrier objects

theorem fenceEff {sc : Scope} {mask : BitVec 4} (h : I s) : (fenceEff sc mask s).All I := by
  have hr : I (s.releaseAt s.cur.1 s.cur.2 (fenceRank sc mask) mask) := hI.releaseAt h
  exact Eff.All.ite (.done h) (Eff.All.ite (.done (hI.fenced hr)) (.wait (hI.modCur hr)))

theorem barrEff {lv : Level} (h : I s) : (barrEff lv s).All I := by
  unfold Machine.barrEff
  split
  · exact .done (hI.modCur (hI.syncAhead h))
  · exact .wait (hI.modCur h)
  · exact .wait (hI.modCur h)

theorem boWordEff {a : SSrc} {m : MemOp} {f : Nat → BoVal → BoVal} (h : I s) : (boWordEff a m f s).All I := by
  unfold Machine.boWordEff
  refine hI.memEff (fun ps u hu => ?_) h
  have ht := hI.toHome (c := u.cur.1) (line := lineOf (keyOf ps)) (hI.noteAtomic (ps := ps.flatten) hu)
  dsimp only
  split
  · exact .done (hI.boOp (hI.creditAllAhead (hI.reach ht)))
  · exact .done (hI.boOp ht)

theorem bowaitEff {d : SDst} {a : SSrc} {m : MemOp} (h : I s) : (bowaitEff d a m s).All I := by
  unfold Machine.bowaitEff
  refine hI.memEff (fun ps u hu => ?_) h
  have ht := hI.reach (ls := [lineOf (keyOf ps)]) (hI.toHome (c := u.cur.1) (line := lineOf (keyOf ps)) hu)
  refine Eff.All.ite (.wait (hI.modCur (Inert.ite ht (hI.memErr ht)))) (Eff.All.ite ?_ (.wait (hI.modCur ht)))
  dsimp only
  split
  · exact hI.loadedScalar (hI.afterStore (hI.flipAhead (hI.acquireL1 ht)))
  · exact hI.loadedScalar (hI.afterStore ht)

end
end Inert
end Sys2Proof.Machine
end

section
/-! SUPPORT. The canonical form under the engines' own steps, the clock, saves and the choice of a task (09 R149 to R154, 10 R167, R171,
R184 to R186, 18 R317 to R328). -/

namespace Sys2Proof.Machine

theorem Goes.ite {I : State → Prop} {x y : Host.Outcome State Fault Refusal} {P : Prop} [Decidable P] (hx : Goes I x) (hy : Goes I y) :
    Goes I (if P then x else y) := by
  split
  · exact hx
  · exact hy

namespace State.canon

section
variable {s : State}

/-- A state that holds the same memory and supervisor store. -/
theorem of_eq {t : State} (h : s.canon) (he : (t.mem, t.supStore) = (s.mem, s.supStore)) : t.canon := by
  obtain ⟨hm, hs⟩ := Prod.mk.inj he
  exact ⟨hm ▸ h.1, hs ▸ h.2⟩

/-- A state whose memory is of the canonical form where the other's is, and that holds the same supervisor store. -/
theorem of_mem {t : State} (h : s.canon) (hm : s.mem.wf = true → t.mem.wf = true) (hs : t.supStore = s.supStore) : t.canon :=
  ⟨hm h.1, hs ▸ h.2⟩

-- the engines' own steps

theorem commandTrap {c : Nat} {f : Flight} {later : List Flight} {o : Nat} (h : s.canon) : (s.commandTrap c f later o).canon :=
  canon_inert.takeTrap (Inert.ite (canon_inert.modCore h) (canon_inert.dropFlights h))

theorem completeMatrix {early : Bool} {c : Nat} (h : s.canon) : (s.completeMatrix early c).canon := by
  unfold State.completeMatrix
  split
  · exact h
  · rename_i f later _
    have hl : (if f.owing then s
        else ((s.land c .M).modEng c .M (fun g => { g with csr := { g.csr with fflags := g.csr.fflags ||| f.flags } })).modCore c (fun k =>
          k.dropTokens .M f.pops)).canon := Inert.ite h (canon_inert.modCore (canon_inert.modEng (canon_inert.land h)))
    refine Inert.ite h (Inert.ite (canon_inert.modEng (canon_inert.modCore hl)) ?_)
    dsimp only
    split
    · exact hl.commandTrap
    · exact canon_inert.waitOn (canon_inert.modCore hl)

theorem completeDue {n c : Nat} (h : s.canon) : (State.completeDue n s c).canon := by
  induction n generalizing s with
  | zero => exact h
  | succ n ih =>
    unfold State.completeDue
    split
    · exact Inert.ite (ih h.completeMatrix) h
    · exact h

theorem miss {c : Nat} (h : s.canon) : (s.miss c).canon := by
  unfold State.miss
  split
  · exact Inert.ite h (Inert.ite (canon_inert.modGang h) (canon_inert.takeTrap (canon_inert.knowSect h)))
  · exact h

theorem execEnterSection {c : Nat} {e : Eng} (h : s.canon) : Goes State.canon (execEnterSection c e s) := by
  unfold Machine.execEnterSection
  dsimp only
  split
  · exact Goes.next h
  · exact Goes.ite (Goes.next h) (Goes.ite (Goes.next (canon_inert.park h)) (Goes.next (canon_inert.enter h)))

theorem execTokenPost {c : Nat} {e : Eng} (h : s.canon) : Goes State.canon (execTokenPost c e s) := by
  unfold Machine.execTokenPost
  split
  · exact Goes.next (canon_inert.postAndEnd (canon_inert.land h))
  · exact Goes.next h

theorem back {x : Nat × Eng} {o : Host.Outcome State Fault Refusal} (h : Goes State.canon o) : Goes State.canon (back x o) := by
  intro t ht
  cases o with
  | next u =>
    cases ht
    exact (h u rfl).of_eq rfl
  | fault _ => cases ht
  | refused _ => cases ht

theorem execBowaitComplete {c : Nat} {e : Eng} (h : s.canon) : Goes State.canon (execBowaitComplete c e s) := by
  unfold Machine.execBowaitComplete
  dsimp only
  split
  · split
    · exact back (canon_inert.performWord (fun _ _ hu => canon_inert.bowaitEff hu) (h.of_eq rfl))
    · exact Goes.next h
  · exact Goes.next h

theorem episode {c : Nat} {lv : Level} (h : s.canon) : (s.episode c lv).canon := by
  unfold State.episode
  split
  · exact h
  · split
    · exact h
    · dsimp only
      split
      · exact h
      · exact Inert.ite h (Inert.foldl _ (fun _ _ ht => Inert.ite (Inert.foldl _ (fun _ _ hu => canon_inert.modEng hu) ht) ht) h)

theorem execL1Evict {c line : Nat} (h : s.canon) : Goes State.canon (execL1Evict c line s) := by
  unfold Machine.execL1Evict
  split
  · exact Goes.ite (Goes.next h) (Goes.next (canon_inert.dropLine h))
  · exact Goes.next h

-- the clock and the timers

theorem tickEng {c : Nat} {e : Eng} (h : s.canon) : (s.tickEng c e).canon := canon_inert.modEng h
theorem restall {n : Nat} (h : s.canon) : (s.restall n).canon := canon_inert.modGang h

theorem missed (cs : List Nat) (h : s.canon) : (cs.foldl (fun s c => match s.stamped c with
    | some (_, t) => if t ≤ s.gsc c then s.miss c else s
    | none => s) s).canon := by
  refine Inert.foldl _ (fun t c ht => ?_) h
  split
  · exact Inert.ite ht.miss ht
  · exact ht

theorem ticked (cs : List Nat) (h : s.canon) : (cs.foldl (fun s c => allEngs.foldl (fun s e => s.tickEng c e) s) s).canon :=
  Inert.foldl _ (fun _ _ ht => Inert.foldl _ (fun _ _ => tickEng) ht) h

theorem tick (h : s.canon) : s.tick.canon := by
  unfold State.tick
  extract_lets busy s₁ s₂ gangs s₃
  have h₁ : s₁.canon := h.missed busy
  have h₂ : s₂.canon := h₁.ticked busy
  clear_value s₂
  have h₃ : s₃.canon := h₂.of_eq rfl
  exact Inert.ite h (Inert.foldl _ (fun _ _ => completeDue) h₃)

theorem wdogExpire {c : Nat} {e : Eng} (h : s.canon) : (s.wdogExpire c e).canon := by
  unfold State.wdogExpire
  extract_lets limit g idle
  exact Inert.ite h (canon_inert.abandon (canon_inert.modEng h))

theorem execPhaseTimerExpire {c : Nat} {e : Eng} (h : s.canon) : Goes State.canon (execPhaseTimerExpire c e s) := by
  unfold Machine.execPhaseTimerExpire
  dsimp only
  split
  · exact Goes.ite (Goes.next (canon_inert.phaseTrap h)) (Goes.next h)
  · exact Goes.next h

-- saves

theorem takeBlock {a : Nat} {t : State} (h : s.canon) (ht : s.takeBlock = some (a, t)) : t.canon := by
  unfold State.takeBlock at ht
  split at ht
  · cases ht
  · obtain ⟨-, rfl⟩ := Prod.mk.inj (Option.some.inj ht)
    exact h.of_eq rfl

theorem giveBlock {a : Nat} (h : s.canon) : (s.giveBlock a).canon := of_eq (canon_inert.partWords h) rfl

theorem foldl_wf {α : Type} {f : Memory → α → Memory} (l : List α) {m : Memory} (hf : ∀ m a, Memory.wf m = true → (f m a).wf = true)
    (h : m.wf = true) : (l.foldl f m).wf = true := by
  induction l generalizing m with
  | nil => exact h
  | cons a l ih => exact ih (hf m a h)

theorem partDone {a : Nat} {parts : List (Nat × Nat)} {m : Memory} (h : s.canon) (hm : m.wf = true) : (s.partDone a parts m).canon :=
  Inert.foldl _ (fun _ _ => canon_inert.wakeSpan) (h.of_mem (fun _ => hm) rfl)

theorem writeBlock {a : Nat} {k : Core} {count : Nat} {mat full gang : Bool} {g : Word} (h : s.canon) :
    (s.writeBlock a k count mat full gang g).canon := by
  unfold State.writeBlock
  extract_lets parts u m m₁ m₂ m₃ m₄ m₅ m₆ m₇ m₈ m₉ n₁ n₂ n₃ n₄ n₅
  have hu : u.canon := Inert.foldl _ (fun _ _ => canon_inert.partKey) h
  have hm : m.wf = true := hu.1
  have h₁ : m₁.wf = true := Memory.putWords_wf _ _ hm
  have h₂ : m₂.wf = true := Memory.writeN_wf _ _ h₁
  have h₃ : m₃.wf = true := foldl_wf _ (fun _ _ => Memory.putWords_wf _ _) h₂
  have h₄ : m₄.wf = true := foldl_wf _ (fun _ _ => Memory.writeN_wf _ _) h₃
  have h₅ : m₅.wf = true := foldl_wf _ (fun _ _ => Memory.writeN_wf _ _) h₄
  have h₆ : m₆.wf = true := Memory.writeN_wf _ _ h₅
  have h₇ : m₇.wf = true := foldl_wf _ (fun _ _ => Memory.writeN_wf _ _) h₆
  have h₈ : m₈.wf = true := Memory.putWords_wf _ _ h₇
  have h₉ : m₉.wf = true := foldl_wf _ (fun _ _ => Memory.writeN_wf _ _) h₈
  have g₁ : n₁.wf = true := foldl_wf _ (fun _ _ => Memory.writeN_wf _ _) h₉
  have g₂ : n₂.wf = true := Memory.writeN_wf _ _ g₁
  have g₃ : n₃.wf = true := Memory.writeN_wf _ _ g₂
  have g₄ : n₄.wf = true := Memory.writeN_wf _ _ g₃
  have g₅ : n₅.wf = true := Memory.writeN_wf _ _ g₄
  refine partDone hu ?_
  split
  · exact foldl_wf _ (fun _ _ => Memory.writeN_wf _ _) g₅
  · exact h₉

theorem holdCmds {slot : Nat} (h : s.canon) : (s.holdCmds slot).canon := canon_inert.modInfo (h.of_eq rfl)
theorem orphanCmds {slot : Nat} (h : s.canon) : (s.orphanCmds slot).canon := canon_inert.modInfo (h.of_eq rfl)

-- the choice of a task

theorem rotate {lvl ctx pos : Nat} {missed : Bool} (h : s.canon) : (s.rotate lvl ctx pos missed).canon := Inert.ite (h.of_eq rfl) (h.of_eq rfl)

theorem pickLevel {c n slot : Nat} {t : State} (h : s.canon) (ht : s.pickLevel c n = some (slot, t)) : t.canon := by
  induction n with
  | zero => cases ht
  | succ n ih =>
    unfold State.pickLevel at ht
    dsimp only at ht
    split at ht
    · cases ht
      exact h.rotate
    · exact ih ht

theorem execMakeResident {slot : Nat} (h : s.canon) : Goes State.canon (execMakeResident slot s) :=
  Goes.ite (Goes.next (canon_inert.modInfo h)) (Goes.next h)

theorem stageFault {slot : Nat} (h : s.canon) : (s.stageFault slot).1.canon := by
  have ha := canon_inert.access (w := s.whoAgent 0 (s.slotCtx slot) (s.slotLrec slot)) (buf := bitsOf (s.recWord slot 0x00) 0 16)
    (f := { need := .exec, es := 32, align := 8 }) (offs := [(bitsOf (s.recWord slot 0x00) 16 40 : Int)]) h
  unfold State.stageFault
  dsimp only
  generalize s.access (s.whoAgent 0 (s.slotCtx slot) (s.slotLrec slot)) (bitsOf (s.recWord slot 0x00) 0 16)
    { need := .exec, es := 32, align := 8 } [(bitsOf (s.recWord slot 0x00) 16 40 : Int)] = p at ha ⊢
  obtain ⟨u, r⟩ := p
  cases r with
  | error x => exact ha
  | ok es => exact canon_inert.homeRead (kid := (s.whoAgent 0 (s.slotCtx slot) (s.slotLrec slot)).kid.getD 0) ha

theorem stageOn {c slot : Nat} (h : s.canon) : (s.stageOn c slot).canon := by
  have hf := h.stageFault (slot := slot)
  unfold State.stageOn
  generalize s.stageFault slot = p at hf ⊢
  obtain ⟨u, bad⟩ := p
  cases bad with
  | none => exact canon_inert.setRecState (canon_inert.modCore hf)
  | some kind => exact canon_inert.post (canon_inert.modInfo (canon_inert.setRecState hf))

theorem choose {c : Nat} (h : s.canon) : (s.choose c).canon := by
  unfold State.choose
  extract_lets sched begun stage
  have hb : begun.canon := h.of_eq rfl
  have hs : ∀ {u : State} {slot : Nat}, u.canon → (stage u slot).canon := fun hu => Inert.ite hb hu.stageOn
  refine Inert.ite h ?_
  dsimp only
  split
  · split
    · exact Inert.ite (hs hb) hb
    · exact hb
  · split
    · exact hb
    · rename_i hp
      have hu := hb.pickLevel hp
      refine Inert.ite ?_ (hs hu)
      split
      · exact hs (hu.of_eq rfl)
      · exact hu.of_eq rfl

theorem ageTask {slot : Nat} (h : s.canon) : (s.ageTask slot).canon := by
  unfold State.ageTask
  split
  · exact Inert.ite (canon_inert.modInfo (canon_inert.setRecWord h)) h
  · exact h

theorem ageAll (h : s.canon) : s.ageAll.canon := Inert.foldl _ (fun _ _ => ageTask) h

end
end State.canon
end Sys2Proof.Machine
end

section
/-! SUPPORT. The canonical form under dispatch, the words of the reuse classes and how a task leaves its core (10 R173 to R182, 14 R263 to
R280, 18 R313 to R322). -/

namespace Sys2Proof.Machine.State.canon

section
variable {s : State}

theorem enterReady {slot : Nat} (h : s.canon) : (s.enterReady slot).canon := canon_inert.wake (canon_inert.putReady h)
theorem letReady {slot : Nat} (h : s.canon) : (s.letReady slot).canon := canon_inert.wake (canon_inert.putLet h)

-- dispatch

theorem readStreams {c : Nat} {t : RunTask} (h : s.canon) : (s.readStreams c t).canon := by
  have hc := canon_inert.code (c := c) (buf := t.cbuf.toNat) (off := t.coff) (n := 8) h
  unfold State.readStreams
  generalize s.code c t.cbuf.toNat t.coff 8 = p at hc ⊢
  obtain ⟨u, r⟩ := p
  cases r with
  | ok bs => exact canon_inert.modTask hc
  | error x => exact canon_inert.modTask hc

theorem bindCore {c slot : Nat} (h : s.canon) : (s.bindCore c slot).canon := by
  have hm : ((s.release c).acquireL1 c 3).canon := canon_inert.acquireL1 (canon_inert.release h)
  unfold State.bindCore
  exact Inert.ite (canon_inert.forget (canon_inert.modCore hm)) (canon_inert.modCore hm)

theorem recordRun {slot : Nat} (h : s.canon) : (s.recordRun slot).canon :=
  canon_inert.modInfo (canon_inert.setRecState (canon_inert.setRecWord (canon_inert.setRecWord h)))

theorem startFresh {c slot : Nat} {t : RunTask} (h : s.canon) : (s.startFresh c slot t).canon := by
  unfold State.startFresh
  extract_lets n regs eng s₁ s₂ s₃
  have h₁ : s₁.canon := canon_inert.modCore h
  have h₂ : s₂.canon := orphanCmds (h₁.of_eq rfl)
  have h₃ : s₃.canon := h₂.readStreams
  exact Inert.foldl _ (fun _ _ ht => canon_inert.modEng ht) h₃

theorem requeue {c slot no : Nat} {x : Cmd} (h : s.canon) : (s.requeue c slot no x).canon := by
  have hr := canon_inert.rangesOk (w := s.whoEng c) (rs := cmdRanges x.kind x.ops x.desc x.bo) h
  unfold State.requeue
  refine Inert.ite (canon_inert.setCmd h) ?_
  generalize s.rangesOk (s.whoEng c) (cmdRanges x.kind x.ops x.desc x.bo) = p at hr ⊢
  obtain ⟨u, r⟩ := p
  cases r with
  | none => exact canon_inert.modInfo (canon_inert.setCmd hr)
  | some f => exact canon_inert.modInfo (of_eq (canon_inert.post hr) rfl)

theorem requeueAll {c slot : Nat} (h : s.canon) : (s.requeueAll c slot).canon :=
  Inert.foldl _ (fun _ _ => requeue) (h.of_eq rfl)

theorem readCmds {slot block : Nat} (h : s.canon) : (s.readCmds slot block).canon := h.of_eq rfl

theorem findSect {c : Nat} {e : Eng} (h : s.canon) : (s.findSect c e).canon := canon_inert.modEng h

theorem startSaved {c slot : Nat} {t : RunTask} {own : Core} (h : s.canon) : (s.startSaved c slot t own).canon := by
  unfold State.startSaved
  extract_lets block k s₁ s₂ s₃
  have h₁ : s₁.canon := canon_inert.modCore h
  have h₂ : s₂.canon := Inert.foldl _ (fun _ _ => findSect) h₁.readStreams
  exact canon_inert.modInfo (giveBlock (requeueAll (readCmds h₂)))

theorem start {c slot : Nat} {gang : Option Nat} (h : s.canon) : (s.start c slot gang).canon := by
  have hr {f : Core → Core} : (((s.bindCore c slot).modCore c f).recordRun slot).canon := recordRun (canon_inert.modCore h.bindCore)
  unfold State.start
  dsimp only
  split
  · exact startSaved hr
  · exact startFresh hr

theorem startGang {u : List Nat × List Nat} (h : s.canon) : (s.startGang u).canon := by
  unfold State.startGang
  extract_lets n shape g sched s₁
  have h₁ : s₁.canon := h.of_eq rfl
  exact Inert.foldl _ (fun _ _ => start) h₁

theorem dispatch {c : Nat} (h : s.canon) : (s.dispatch c).canon := by
  unfold State.dispatch
  split
  · exact h
  · refine Inert.ite h ?_
    split
    · exact Inert.ite (Inert.ite h.startGang h) h.start
    · exact h.start

-- reuse classes

theorem entryOf {w : Who} {n : Nat} (h : s.canon) : (s.entryOf w n).1.canon := by
  have hb := canon_inert.visited.bufEntry (w := w) (n := n) h
  unfold State.entryOf
  refine Inert.ite_fst h (Inert.ite_fst h ?_)
  generalize s.bufEntry w n = p at hb ⊢
  obtain ⟨u, r⟩ := p
  cases r <;> exact hb

-- In the next three the body of the function replaces its name under an equation, and what it reads of memory becomes a variable before
-- the match on it: the kernel is not to evaluate the address.

theorem classWords {w : Who} {n : Nat} {p : State × Except Fail (List Word)} (h : s.canon) (hp : s.classWords w n = p) : p.1.canon := by
  have hl {va : Nat} := canon_inert.visited.locate (w := w) (l := 0) (i := 3) (n := .read) (va := va) h
  generalize hf : @State.classWords = f at hp
  delta State.classWords at hf
  subst hf
  beta_reduce at hp
  generalize w.btbase + 0x200000 + 64 * n = va at hp
  have hq := hl (va := va)
  generalize s.locate w 0 3 .read va = q at hq hp
  obtain ⟨u, r⟩ := q
  subst hp
  cases r with
  | error f => exact hq
  | ok x => exact canon_inert.homeRead (kid := w.kid.getD 0) hq

theorem judgeClass {w : Who} {sg : Nat} {ws : List Word} {p : State × ClassRead} (h : s.canon) (hp : s.judgeClass w sg ws = p) :
    p.1.canon := by
  generalize hf : @State.judgeClass = f at hp
  delta State.judgeClass at hf
  subst hf
  beta_reduce at hp
  obtain ⟨entry, he⟩ : ∃ f, f = @State.entryOf := ⟨_, rfl⟩
  obtain ⟨judge, hj⟩ : ∃ f, f = RClass.bad4 := ⟨_, rfl⟩
  have hentry : ∀ u n, State.canon u → (entry u w n).1.canon := fun _ _ hu => he ▸ hu.entryOf
  rw [← he, ← hj] at hp
  clear he hj
  subst hp
  dsimp only
  split
  · exact h
  · have hread := hentry _ ({ ws := ws } : RClass).kbuf (hentry _ ({ ws := ws } : RClass).lbuf
      (hentry _ ({ ws := ws } : RClass).abuf (hentry _ ({ ws := ws } : RClass).ebuf h)))
    refine Inert.ite_fst hread ?_
    split
    · exact hread
    · exact hread

theorem readClass {w : Who} {n sg : Nat} {p : State × ClassRead} (h : s.canon) (hp : s.readClass w n sg = p) : p.1.canon := by
  generalize hf : @State.readClass = f at hp
  delta State.readClass at hf
  subst hf
  beta_reduce at hp
  generalize hc : s.classWords w n = q at hp
  have hq := h.classWords hc
  obtain ⟨u, r⟩ := q
  cases r with
  | error f =>
    subst hp
    exact hq
  | ok ws => exact hq.judgeClass hp

theorem reuseSteps {a : Word} {fail : State → Nat → Eff} {ok : State → RClass → Eff} (hfail : ∀ u st, u.canon → (fail u st).All State.canon)
    (hok : ∀ u x, u.canon → (ok u x).All State.canon) (h : s.canon) : (s.reuseSteps a fail ok).All State.canon := by
  unfold State.reuseSteps
  refine Eff.All.ite (hfail _ _ h) (Eff.All.ite (hfail _ _ h) (Eff.All.ite (.wait h) (Eff.All.ite (.wait h) ?_)))
  generalize hp : s.readClass s.whoCur (s.lrecClass a.toNat) (s.lrecSg a.toNat) = p
  have hc := h.readClass hp
  obtain ⟨u, r⟩ := p
  cases r with
  | fault f => exact .fault hc
  | bad x n => exact hfail _ _ hc
  | ok x => exact hok _ _ hc

theorem giveScalar {d : SDst} {v : SVal} (h : s.canon) : (giveScalar d v s).All State.canon := .done (canon_inert.swr h)

theorem rchkEff {d : SDst} {a b : Word} (h : s.canon) : (rchkEff d a b s).All State.canon := by
  unfold Machine.rchkEff
  refine h.reuseSteps (fun _ _ hu => hu.giveScalar) (fun u x hu => ?_)
  split
  · exact hu.giveScalar
  · exact canon_inert.memEff (fun ps _ hv => giveScalar (canon_inert.loadPlaces hv)) hu

theorem invalidate {kid key buf off : Nat} (h : s.canon) : (s.invalidate kid key buf off).canon := by
  have hr : ((s.toHome s.cur.1 (lineOf key)).reach [lineOf key]).canon := canon_inert.reach (canon_inert.toHome h)
  unfold State.invalidate
  exact Inert.ite (canon_inert.memErr hr) (canon_inert.putHome hr)

theorem rinvThen {d : SDst} {a b : Word} (h : s.canon) : (rinvThen d a b s).All State.canon := by
  unfold Machine.rinvThen
  refine h.reuseSteps (fun _ _ hu => hu.giveScalar) (fun u x hu => ?_)
  dsimp only
  split
  · exact hu.giveScalar
  · exact canon_inert.memEff (fun ps _ hv => giveScalar (Inert.foldl _ (fun _ _ ht => invalidate (canon_inert.noteAtomic ht)) hv)) hu

theorem rinvEff {d : SDst} {a b : Word} (h : s.canon) : (rinvEff d a b s).All State.canon :=
  Eff.All.ite (rinvThen (canon_inert.releaseAt h)) (.wait (canon_inert.releaseAt h))

theorem lpatchEff {sel : Nat} {d : SDst} {a b : Word} (h : s.canon) : (lpatchEff sel d a b s).All State.canon :=
  Eff.All.ite (.wait h) (giveScalar (Inert.ite (canon_inert.patch h) h))

theorem larmEff {d : SDst} {a : Word} (h : s.canon) : (larmEff d a s).All State.canon := by
  unfold Machine.larmEff
  extract_lets c e st n u
  have hu : u.canon := canon_inert.releaseAt h
  have hd := canon_inert.readDbo (c := c) (n := n) (i := u.taskEv c { kind := 6, eng := engIdx e, pc := (u.eng c e).pc.toNat }) hu
  refine Eff.All.ite (.wait h) (Eff.All.ite h.giveScalar (Eff.All.ite (.wait hu) (Eff.All.ite hu.giveScalar ?_)))
  generalize u.readDbo c n (u.taskEv c { kind := 6, eng := engIdx e, pc := (u.eng c e).pc.toNat }) = p at hd ⊢
  obtain ⟨v, r⟩ := p
  have harm : ∀ {x y z}, ((v.acquireAt c e 3 0xF).armRecords n x y z).canon := canon_inert.armRecords (canon_inert.acquireAt hd)
  cases r with
  | fault x buf => exact .fault hd
  | held r => exact .wait hd
  | none => exact giveScalar harm
  | at_ key st => exact giveScalar harm

-- how a task leaves

theorem recordStop {c slot : Nat} {carry : Option Eng} {saved : Bool} (h : s.canon) : (s.recordStop c slot carry saved).canon := by
  unfold State.recordStop
  extract_lets eng s₁ s₂ s₃
  have h₁ : s₁.canon := canon_inert.setRecWord h
  have h₂ : s₂.canon := by
    cases carry with
    | none => exact h₁
    | some e => exact canon_inert.setRecWord (canon_inert.setRecWord h₁)
  exact canon_inert.setRecWord (canon_inert.setRecWord h₂)

theorem stopState {c slot : Nat} {f : Flow} (h : s.canon) : (s.stopState c slot f).canon := by
  unfold State.stopState
  split
  · have hw : ∀ {st r g}, ((s.setRecState slot st r).modInfo slot g).canon := canon_inert.modInfo (canon_inert.setRecState h)
    exact Inert.ite hw.enterReady hw
  · exact canon_inert.modInfo h.enterReady
  · exact Inert.ite (canon_inert.setRecState h) h.enterReady
  · exact h.enterReady

theorem coolDown (h : s.canon) : s.coolDown.canon := Inert.ite (h.of_eq rfl) h

theorem leaveCore {c : Nat} {gang : Option Nat} {ended : Bool} (h : s.canon) : (s.leaveCore c gang ended).canon := by
  have hc : ((s.modCore c Core.vacate).coolDown).canon := coolDown (canon_inert.modCore h)
  unfold State.leaveCore
  cases gang with
  | none => exact hc
  | some n => exact Inert.ite (canon_inert.modGang hc) (hc.of_eq rfl)

theorem writeBack {c : Nat} (h : s.canon) : (s.writeBack c).canon := by
  unfold State.writeBack
  split
  · exact h
  · split
    · exact h
    · exact Inert.ite h (Inert.ite (canon_inert.release h)
        (leaveCore (canon_inert.modInfo (stopState (recordStop (canon_inert.release h))))))

theorem execPreemptRequest {slot : Nat} (h : s.canon) : Goes State.canon (execPreemptRequest slot s) := by
  unfold Machine.execPreemptRequest
  split
  · exact Goes.next (canon_inert.requestCore h)
  · exact Goes.next h

theorem postFault {c : Nat} {d : Delivery} (h : s.canon) : (s.postFault c d).canon := Inert.ite h (canon_inert.post h)

theorem postFaults {c : Nat} (ds : List Delivery) (h : s.canon) : (ds.foldl (fun s d => s.postFault c d) s).canon :=
  Inert.foldl _ (fun _ _ => postFault) h

theorem saveTask {c : Nat} {t : RunTask} {why : SaveWhy} {block : Nat} (h : s.canon) : (s.saveTask c t why block).canon := by
  unfold State.saveTask
  extract_lets full carry g count mat k s₁ s₂ s₃ kept s₄ first s₅ s₆ page s₇
  have h₁ : s₁.canon := canon_inert.partWords h
  have h₂ : s₂.canon := h₁.writeBlock
  have h₃ : s₃.canon := Inert.foldl _ (fun _ _ => canon_inert.partWords) h₂
  have h₄ : s₄.canon := h₃.of_eq rfl
  have h₅ : s₅.canon := canon_inert.modInfo h₄.recordStop
  have h₆ : s₆.canon := h₅.holdCmds
  have h₇ : s₇.canon := by
    dsimp only [s₇]
    split
    · cases carry with
      | some f => exact h₆.stopState
      | none => exact h₆.enterReady
    · exact Inert.ite h₆.enterReady (canon_inert.modInfo (postFaults _ (canon_inert.setRecState h₆)))
  exact h₇.leaveCore

theorem killAway {slot : Nat} (h : s.canon) : (s.killAway slot).canon := by
  unfold State.killAway
  split
  · exact h
  · exact Inert.ite (canon_inert.freeSlot (Inert.ite (giveBlock (canon_inert.post h)) (canon_inert.post h))) (canon_inert.modInfo h)

theorem kill {slot : Nat} (h : s.canon) : (s.kill slot).canon := by
  unfold State.kill
  split
  · exact canon_inert.modTask h
  · exact h.killAway

theorem save {c : Nat} (h : s.canon) : (s.save c).canon := by
  unfold State.save
  split
  · exact h
  · split
    · exact h
    · have hr := canon_inert.release (c := c) h
      refine Inert.ite (canon_inert.modTask hr) ?_
      split
      · exact canon_inert.modTask hr
      · rename_i hb
        exact Inert.ite (killAway (saveTask (hr.takeBlock hb))) (saveTask (hr.takeBlock hb))

theorem addWaiter {w : Waiter} (h : s.canon) : (s.addWaiter w).canon := Inert.ite h (h.of_eq rfl)

theorem doneUpdate {c : Nat} {t : RunTask} (h : s.canon) : (s.doneUpdate c t).1.canon := by
  unfold State.doneUpdate
  split
  · exact h
  · rename_i i k r _
    extract_lets w buf off ev₀ ev clear kid
    have hclear : ∀ {u : State}, u.canon → (clear u).canon := fun hu => canon_inert.modInfo hu
    have ha := canon_inert.access (w := w) (buf := buf) (f := entryForm (.atomic false)) (offs := [(off : Int)]) h
    generalize s.access w buf (entryForm (.atomic false)) [(off : Int)] = p at ha ⊢
    obtain ⟨u, a⟩ := p
    cases a with
    | error x => exact Inert.ite_fst (addWaiter (canon_inert.post ha)) (hclear (canon_inert.post ha))
    | ok ps =>
      have hr := canon_inert.reach (ls := [lineOf (keyOf ps)]) ha
      exact Inert.ite_fst ha (Inert.ite_fst (hclear (canon_inert.memErr hr)) (hclear (Inert.ite (canon_inert.putHome hr) hr)))

theorem outputCredit {c : Nat} {t : RunTask} (h : s.canon) : (s.outputCredit c t).1.canon := by
  unfold State.outputCredit
  extract_lets o w i₀
  have hc {n : Nat} {i : EvInfo} := canon_inert.agentCredit (w := w) (source := 1) (buf := refBuf o) (off := refOff o) (n := n) (i := i) (tag := 0) h
  refine Inert.ite_fst h ?_
  split
  rename_i u r hx
  have hu : u.canon := by
    have hv : (u, r).1.canon := hx ▸ hc
    exact hv
  cases r with
  | waits => exact hu.addWaiter
  | _ => exact hu

theorem endTask {c : Nat} {t : RunTask} (h : s.canon) : (s.endTask c t).canon := canon_inert.freeSlot h.leaveCore

theorem taskEnd {c : Nat} (h : s.canon) : (s.taskEnd c).canon := by
  unfold State.taskEnd
  split
  · exact h
  · rename_i t _
    have hr := canon_inert.release (c := c) h
    refine Inert.ite h (Inert.ite hr (Inert.ite (endTask (canon_inert.post hr)) ?_))
    have hd := hr.doneUpdate (c := c) (t := t)
    generalize (s.release c).doneUpdate c t = p at hd ⊢
    obtain ⟨u, done⟩ := p
    refine Inert.ite hd ?_
    have ho := hd.outputCredit (c := c) (t := t)
    dsimp only at ho ⊢
    generalize u.outputCredit c t = q at ho ⊢
    obtain ⟨v, paid⟩ := q
    exact Inert.ite ho (endTask (postFaults _ ho))

theorem saveLate {slot : Nat} (h : s.canon) : (s.saveLate slot).canon := by
  unfold State.saveLate
  dsimp only
  split
  · rename_i t c _ _
    split
    · have hl : (if t.late then s else (s.post { s.taskEv c { kind := 11 } with core := 0 }).modInfo slot
          (fun t => { t with late := true })).canon := Inert.ite h (canon_inert.modInfo (canon_inert.post h))
      exact Inert.ite h (Inert.ite hl.kill hl)
    · exact h
  · exact h

end
end Sys2Proof.Machine.State.canon
end

section
/-! SUPPORT. The canonical form under the copy engines and the ferry engine (16 R287 to R299). -/

namespace Sys2Proof.Machine.State.canon

section
variable {s : State}

theorem withStor {x : Storage} (h : s.canon) : ({ s with stor := x } : State).canon := h
theorem withColl {x : Coll} (h : s.canon) : ({ s with coll := x } : State).canon := h

-- commands and their slots

theorem showCmd {n : Nat} {x : Cmd} {err : Nat} (h : s.canon) : (s.showCmd n x err).canon := canon_inert.modInfo h
theorem keepCmd {n : Nat} {x : Cmd} (h : s.canon) : (s.keepCmd n x).canon := showCmd (canon_inert.setCmd h)
theorem closeCmd {n : Nat} {x : Cmd} {st err : Nat} (h : s.canon) : (s.closeCmd n x st err).canon := showCmd (h.of_eq rfl)

theorem cmdPage {n : Nat} {x : Cmd} {i buf off : Nat} {posted landed : Bool} (h : s.canon) :
    (s.cmdPage n x i buf off posted landed).canon := by
  have hp {e : EvInfo} : (if posted then s else s.post e).canon := Inert.ite h (canon_inert.post h)
  unfold State.cmdPage
  dsimp only
  split
  · exact restall (keepCmd hp)
  · exact keepCmd hp

theorem cmdAbort {n : Nat} {x : Cmd} {g : Nat} {f : AccFault} {buf : Nat} (h : s.canon) : (s.cmdAbort n x g f buf).canon :=
  closeCmd (canon_inert.post h)

-- what a granule moves

theorem to_fst {α : Type} {x p : State × α} (h : x.1.canon) (hp : x = p) : p.1.canon := hp ▸ h

theorem lentTo {x : Cmd} {ps : List Place} (h : s.canon) : (s.lentTo x ps).canon := canon_inert.lentBy h

theorem rowIndex {w : Who} {x : Cmd} {lo hi : Nat} (h : s.canon) : (s.rowIndex w x lo hi).1.canon := by
  unfold State.rowIndex
  dsimp only
  generalize x.idxOffs lo hi = q
  obtain ⟨rows, offs⟩ := q
  refine Inert.ite_fst h ?_
  have ha := canon_inert.access (w := w) (buf := refBuf (RowDesc.of x.desc).idx) (f := idxForm) (offs := offs) h
  generalize s.access w (refBuf (RowDesc.of x.desc).idx) idxForm offs = p at ha ⊢
  obtain ⟨u, r⟩ := p
  cases r with
  | error f => exact ha
  | ok ps => exact Inert.ite_fst ha (canon_inert.homeRead (kid := w.kid.getD 0) (lentTo (x := x) (ps := ps.flatten) ha))

theorem unitOfCmd {w : Who} {x : Cmd} (h : s.canon) : (s.unitOfCmd w x).1.canon := by
  have ha := h.entryOf (w := w) (n := refBuf x.src)
  unfold State.unitOfCmd
  generalize s.entryOf w (refBuf x.src) = p at ha ⊢
  obtain ⟨u, a⟩ := p
  have hb := ha.entryOf (w := w) (n := refBuf x.dst)
  refine Inert.ite_fst ha ?_
  dsimp only at hb ⊢
  generalize u.entryOf w (refBuf x.dst) = q at hb ⊢
  obtain ⟨v, b⟩ := q
  dsimp only
  split
  · exact hb
  · exact hb

theorem markBad {ps : List Place} (h : s.canon) : (s.markBad ps).canon := Inert.foldl _ (fun _ _ ht => Inert.ite (ht.of_eq rfl) (ht.of_eq rfl)) h
theorem homePlaces {kid : Nat} {xs : List (Place × Byte)} (h : s.canon) : (s.homePlaces kid xs).canon := canon_inert.homeMasked h
theorem takePlaces {kid : Nat} {src : List Place} (h : s.canon) : (s.takePlaces kid src).1.canon := canon_inert.reach h

theorem putPlaces {kid : Nat} {dst : List Place} {bs : List (Byte × Bool)} (h : s.canon) : (s.putPlaces kid dst bs).canon :=
  h.homePlaces.markBad

theorem movePlaces {kid : Nat} {src dst : List Place} (h : s.canon) : (s.movePlaces kid src dst).1.canon :=
  putPlaces (h.takePlaces (kid := kid) (src := src))

theorem granulePlaces {w : Who} {x : Cmd} {t : Nat × Nat × Nat} {es lo hi : Nat} {units : List Nat} (h : s.canon) :
    (s.granulePlaces w x t es lo hi units).1.canon := by
  have hr := h.rowIndex (w := w) (x := x) (lo := lo) (hi := hi)
  unfold State.granulePlaces
  generalize s.rowIndex w x lo hi = p at hr ⊢
  obtain ⟨u, r⟩ := p
  cases r with
  | error f => exact hr
  | ok idx =>
    have ha := canon_inert.access (w := w) (buf := refBuf x.src) (f := { need := .read, es := es, align := es })
      (offs := (x.offs idx units).1) hr
    dsimp only at ha ⊢
    generalize u.access w (refBuf x.src) { need := .read, es := es, align := es } (x.offs idx units).1 = q at ha ⊢
    obtain ⟨v, a⟩ := q
    cases a with
    | error f => exact ha
    | ok src =>
      exact Inert.ite_fst ha (canon_inert.access ha)

theorem landTo {kid a b : Nat} {x : Cmd} {dst : List Place} {bs : List (Byte × Bool)} {ws : List Nat} (h : s.canon) :
    (((s.lentTo x dst).putPlaces kid dst bs).creditAhead a b ws).canon := canon_inert.creditAhead h.lentTo.putPlaces

theorem moveGranule {no i lo hi : Nat} {x : Cmd} {t : Nat × Nat × Nat} {sel : Nat → Bool} (h : s.canon) :
    (s.moveGranule no x i t lo hi sel).1.canon := by
  have hu := h.unitOfCmd (w := x.who s) (x := x)
  unfold State.moveGranule
  extract_lets w kid sel put known
  generalize s.unitOfCmd w x = p at hu ⊢
  obtain ⟨u, es⟩ := p
  have hput : ∀ {u : State} {dst bs}, u.canon → (put u dst bs).canon := fun hv => hv.landTo
  refine Inert.ite_fst hu (Inert.ite_fst hu ?_)
  extract_lets dst units
  have hg := hu.granulePlaces (w := w) (x := x) (t := t) (es := es) (lo := lo) (hi := hi) (units := units)
  dsimp only at hg
  generalize u.granulePlaces w x t es lo hi units = q at hg ⊢
  obtain ⟨v, r⟩ := q
  cases r with
  | error f =>
    cases f with
    | none => exact hg
    | some f => exact hg
  | ok ps =>
    refine Inert.ite_fst hg ?_
    extract_lets v'
    have hv : v'.canon := Inert.ite hg (hput hg)
    split
    rename_i y bs hy
    have hz : ∀ {dst}, (put y dst bs).canon := hput (to_fst (takePlaces hv.lentTo) hy)
    exact Inert.ite (canon_inert.memErr hz) hz

theorem coverAhead {no i g : Nat} {x : Cmd} (h : s.canon) : (s.coverAhead no x i g).canon := by
  unfold State.coverAhead
  extract_lets w
  have hk := canon_inert.boKey (w := w) (buf := refBuf x.bo) (off := refOff x.bo) (need := .atomic false) h
  generalize s.boKey w (refBuf x.bo) (refOff x.bo) (.atomic false) = p at hk ⊢
  obtain ⟨u, r⟩ := p
  cases r with
  | ok key => exact canon_inert.mapAllAhead hk
  | error f => exact hk

theorem creditCmd {no i n doneTo : Nat} {x : Cmd} {finished : Cmd → Bool} (h : s.canon) :
    (s.creditCmd no x i n doneTo finished).canon := by
  have hc := canon_inert.agentCredit (w := x.who s) (source := 3) (buf := refBuf x.bo) (off := refOff x.bo) (n := n)
    (i := x.ev { kind := 15 }) (tag := BitVec.ofNat 64 x.tag) (h.coverAhead (no := no) (x := x) (i := i) (g := doneTo - 1))
  unfold State.creditCmd
  generalize (s.coverAhead no x i (doneTo - 1)).agentCredit (x.who s) 3 (refBuf x.bo) (refOff x.bo) n (x.ev { kind := 15 })
    (BitVec.ofNat 64 x.tag) = p at hc ⊢
  obtain ⟨u, r⟩ := p
  cases r with
  | made => exact Inert.ite (closeCmd hc) (keepCmd hc)
  | held => exact keepCmd h
  | waits => exact cmdPage hc
  | refused a b => exact closeCmd hc

theorem runGranule {no i : Nat} {x : Cmd} {t : Nat × Nat × Nat} (h : s.canon) : (s.runGranule no x i t).canon := by
  unfold State.runGranule
  extract_lets lo hi ends
  refine Inert.ite (Inert.ite h.creditCmd h) (Inert.ite h (Inert.ite h.creditCmd ?_))
  have hm := h.moveGranule (no := no) (x := x) (i := i) (t := t) (lo := lo) (hi := hi) (sel := fun j => !x.parts.contains (i, j))
  generalize s.moveGranule no x i t lo hi (fun j => !x.parts.contains (i, j)) = p at hm ⊢
  obtain ⟨u, y, m⟩ := p
  cases m with
  | stays => exact hm
  | landed => exact creditCmd hm
  | fault f buf => exact Inert.ite (cmdPage hm) (cmdAbort hm)

theorem runWord {no i j : Nat} {x : Cmd} {t : Nat × Nat × Nat} (h : s.canon) : (s.runWord no x i t j).canon := by
  unfold State.runWord
  extract_lets lo hi
  refine Inert.ite h ?_
  have hm := h.moveGranule (no := no) (x := x) (i := i) (t := t) (lo := lo) (hi := hi) (sel := fun k => k == j)
  generalize s.moveGranule no x i t lo hi (fun k => k == j) = p at hm ⊢
  obtain ⟨u, y, m⟩ := p
  cases m with
  | stays => exact h
  | landed => exact Inert.ite (keepCmd hm) (keepCmd hm)
  | fault f buf => exact h

theorem queueAgain {no : Nat} {x : Cmd} (h : s.canon) : (s.queueAgain no x).canon := by
  unfold State.queueAgain
  split
  · exact Inert.ite h.requeue h
  · exact h

theorem execGranuleTransfer {cmd target : Nat} (h : s.canon) : Goes State.canon (execGranuleTransfer cmd target s) := by
  unfold Machine.execGranuleTransfer
  split
  · split
    · exact Goes.ite (Goes.next h.queueAgain) (Goes.next (Inert.ite h.runGranule h))
    · exact Goes.next h
  · exact Goes.next h

theorem granuleWord {cmd target word : Nat} (h : s.canon) : (s.granuleWord cmd target word).canon := by
  unfold State.granuleWord
  split
  · split
    · exact Inert.ite h.runWord h
    · exact h
  · exact h

theorem execGranuleRestart {cmd target : Nat} (h : s.canon) : Goes State.canon (execGranuleRestart cmd target s) := by
  unfold Machine.execGranuleRestart
  split
  · rename_i x _
    split
    · rename_i t _
      refine Goes.ite (Goes.next h) ?_
      extract_lets y after still y' after'
      have ha : after.canon := Inert.ite h.creditCmd h.runGranule
      have ha' : after'.canon := Inert.ite h.keepCmd ha
      refine Goes.ite (Goes.next h) (Goes.ite (Goes.next (queueAgain (canon_inert.setCmd h))) (Goes.next ?_))
      split
      · exact ha'.restall
      · exact ha'
    · exact Goes.next h
  · exact Goes.next h

-- the ferry engine

theorem flushLines {ls : List Nat} (h : s.canon) : (s.flushLines ls).canon := by
  unfold State.flushLines
  extract_lets u v stor
  have hu : u.canon := Inert.foldl _ (fun _ _ ht => Inert.foldl _ (fun _ _ hv => canon_inert.dropLine hv) ht) h
  have hv : v.canon := canon_inert.reach hu
  exact hv.of_eq rfl

theorem swapMarks {p q : Nat} (h : s.canon) : (s.swapMarks p q).canon := h.of_eq rfl

theorem swapFrames {p q : Nat} (h : s.canon) : (s.swapFrames p q).canon := by
  unfold State.swapFrames
  extract_lets bp bq u clean stor v
  have hu : u.canon := swapMarks (canon_inert.setMem (fun hm => Memory.writeN_wf _ _ (Memory.writeN_wf _ _ hm)) h)
  have hv : v.canon := hu.withStor
  exact canon_inert.wakes (canon_inert.dropAhead (canon_inert.dropAhead hv))

theorem ferryBad {x : Cmd} {fs : List Nat} (h : s.canon) : (s.ferryBad x fs).canon :=
  Inert.foldl _ (fun _ _ ht => Inert.ite (canon_inert.memErr ht) ht) h

theorem ferry {no : Nat} {x : Cmd} (h : s.canon) : (s.ferry no x).canon := by
  unfold State.ferry
  extract_lets u fs done held stor v y ls w stor' w' y'
  have hv : v.canon := Inert.ite h (keepCmd (withStor h))
  have hw : w.canon := hv.flushLines.ferryBad.swapFrames
  have hw' : w'.canon := hw.withStor
  exact Inert.ite h (Inert.ite h (Inert.ite h.creditCmd (Inert.ite h (Inert.ite hv (creditCmd hw'.keepCmd)))))

theorem execFerryExchange {cmd : Nat} (h : s.canon) : Goes State.canon (execFerryExchange cmd s) := by
  unfold Machine.execFerryExchange
  split
  · exact Goes.next h.ferry
  · exact Goes.next h

end
end Sys2Proof.Machine.State.canon
end

section
/-! SUPPORT. The canonical form under the collective engine and the steps of its programs (21 R350 to R362, 12 R389). -/

namespace Sys2Proof.Machine.State.canon

section
variable {s : State}

-- reading and writing as an agent

theorem agentRead {w : Who} {buf : Nat} {f : Form} {offs : List Int} (h : s.canon) : (s.agentRead w buf f offs).1.canon := by
  have ha := canon_inert.access (w := w) (buf := buf) (f := f) (offs := offs) h
  unfold State.agentRead
  refine Inert.ite_fst h ?_
  generalize s.access w buf f offs = p at ha ⊢
  obtain ⟨u, r⟩ := p
  cases r with
  | error x => exact ha
  | ok es => exact Inert.ite_fst ha (takePlaces (kid := w.kid.getD 0) ha)

theorem elemOf {w : Who} {buf : Nat} (h : s.canon) : (s.elemOf w buf).1.canon := h.entryOf
theorem inH {w : Who} {buf : Nat} (h : s.canon) : (s.inH w buf).1.canon := h.entryOf

theorem streamRead {w : Who} {buf off len : Nat} (h : s.canon) : (s.streamRead w buf off len).1.canon := by
  have he := h.elemOf (w := w) (buf := buf)
  unfold State.streamRead
  generalize s.elemOf w buf = p at he ⊢
  obtain ⟨t, es⟩ := p
  have hr := he.agentRead (w := w) (buf := buf) (f := streamForm .read es) (offs := offsFrom off es (len / es))
  dsimp only at hr ⊢
  generalize t.agentRead w buf (streamForm .read es) (offsFrom off es (len / es)) = q at hr ⊢
  obtain ⟨u, r⟩ := q
  cases r with
  | ok bs => exact hr
  | held => exact h
  | bad c => exact hr

theorem putBytes {w : Who} {ps : List Place} {bs : List (Byte × Bool)} (h : s.canon) : (s.putBytes w ps bs).1.canon :=
  Inert.ite_fst h (canon_inert.agentAhead h.putPlaces)

theorem agentWrite {w : Who} {buf : Nat} {f : Form} {offs : List Int} {bs : List (Byte × Bool)} (h : s.canon) :
    (s.agentWrite w buf f offs bs).1.canon := by
  have ha := canon_inert.access (w := w) (buf := buf) (f := f) (offs := offs) h
  unfold State.agentWrite
  refine Inert.ite_fst h ?_
  generalize s.access w buf f offs = p at ha ⊢
  obtain ⟨u, r⟩ := p
  cases r with
  | error x => exact ha
  | ok es => exact putBytes ha

theorem streamPlaces {w : Who} {buf off len : Nat} (h : s.canon) : (s.streamPlaces w buf off len).1.canon := by
  unfold State.streamPlaces
  split
  rename_i t es he
  refine Inert.ite_fst h ?_
  split
  rename_i u b hh
  have hu : u.canon := to_fst (inH (to_fst h.elemOf he)) hh
  split
  · rename_i v x ha
    have hv : v.canon := to_fst (canon_inert.access hu) ha
    exact hv
  · rename_i v x ha
    have hv : v.canon := to_fst (canon_inert.access hu) ha
    exact hv

theorem streamWrite {w : Who} {buf off : Nat} {bs : List (Byte × Bool)} (h : s.canon) : (s.streamWrite w buf off bs).1.canon := by
  have hp := h.streamPlaces (w := w) (buf := buf) (off := off) (len := bs.length)
  unfold State.streamWrite
  generalize s.streamPlaces w buf off bs.length = p at hp ⊢
  obtain ⟨u, r⟩ := p
  cases r with
  | ok ps => exact putBytes hp
  | held => exact hp
  | bad c => exact hp

theorem readWords {w : Who} {ref : Word} {off n : Nat} (h : s.canon) : (s.readWords w ref off n).1.canon := h.agentRead
theorem writeWords {w : Who} {ref : Word} {off : Nat} {ws : List Word} (h : s.canon) : (s.writeWords w ref off ws).1.canon := h.agentWrite

-- programs

theorem setProg {no : Nat} {p : Prog} (h : s.canon) : (s.setProg no p).canon := h.withColl
theorem showProg {no : Nat} {p : Prog} {st err : Nat} (h : s.canon) : (s.showProg no p st err).canon := canon_inert.modInfo h
theorem closeProg {no : Nat} {p : Prog} (h : s.canon) : (s.closeProg no p).canon := showProg h.withColl
theorem writeRec {p : Prog} (h : s.canon) : (s.writeRec p).1.canon := Inert.ite_fst h h.agentWrite

theorem creditProg {p : Prog} {amount : BoVal → Nat} (h : s.canon) : (s.creditProg p amount).1.canon := canon_inert.creditBy h

theorem stopBare {no cause : Nat} {p : Prog} (h : s.canon) : (s.stopBare no p cause).canon := by
  unfold State.stopBare
  extract_lets q
  have hw := h.writeRec (p := q)
  generalize s.writeRec q = r at hw ⊢
  obtain ⟨u, r⟩ := r
  cases r with
  | held => exact addWaiter (setProg hw)
  | ok a => exact closeProg hw
  | bad c => exact closeProg hw

theorem payAll {no : Nat} {p : Prog} {ns : List Nat} (h : s.canon) : (s.payAll no p ns).canon := by
  induction ns generalizing s p with
  | nil => exact Inert.ite h.setProg h.closeProg
  | cons n ns ih =>
    unfold State.payAll
    extract_lets amount got
    have hc := h.creditProg (p := p) (amount := amount)
    generalize s.creditProg p amount = q at hc ⊢
    obtain ⟨u, r⟩ := q
    cases r with
    | made => exact ih (showProg hc)
    | held => exact addWaiter (setProg hc)
    | waits => exact addWaiter (setProg hc)
    | refused a b => exact Inert.ite (closeProg hc) (stopBare hc)

theorem stopProg {no status cause : Nat} {p : Prog} (h : s.canon) : (s.stopProg no p status cause).canon := by
  unfold State.stopProg
  extract_lets q
  have hw := h.writeRec (p := q)
  generalize s.writeRec q = r at hw ⊢
  obtain ⟨u, r⟩ := r
  cases r with
  | held => exact addWaiter (setProg hw)
  | ok a => exact payAll hw
  | bad c => exact payAll hw

theorem retryProg {no : Nat} (h : s.canon) : (s.retryProg no).canon := by
  unfold State.retryProg
  split
  · exact h
  · exact Inert.ite h.stopBare (Inert.ite h.stopProg (Inert.ite h h.payAll))

-- messages, starting and fetching

theorem sendMsg {m : Msg} (h : s.canon) : (s.sendMsg m).canon := Inert.ite h.withColl h.withColl
theorem dropMsg {no : Nat} (h : s.canon) : (s.dropMsg no).canon := h.withColl
theorem putMsg {no : Nat} {m : Msg} (h : s.canon) : (s.putMsg no m).canon := h.withColl

theorem startProg {no : Nat} {p : Prog} (h : s.canon) : (s.startProg no p).canon := by
  unfold State.startProg
  extract_lets e old q stor
  exact showProg (setProg h)

theorem collStart {no : Nat} (h : s.canon) : (s.collStart no).canon := by
  unfold State.collStart
  split
  · exact h
  · rename_i p _
    have hr : (if p.hdr.isEmpty then s.readWords (p.who s) p.cbuf 0 24 else (s, .ok p.hdr)).1.canon := by
      split
      · exact h.readWords
      · exact h
    refine Inert.ite h ?_
    generalize (if p.hdr.isEmpty then s.readWords (p.who s) p.cbuf 0 24 else (s, .ok p.hdr)) = q at hr ⊢
    obtain ⟨u, r⟩ := q
    cases r with
    | held => exact hr
    | bad c => exact stopProg hr
    | ok ws => exact Inert.ite (setProg hr) (Inert.ite (startProg hr) (stopProg hr))

theorem fetchStep {no : Nat} (h : s.canon) : (s.fetchStep no).1.canon := by
  unfold State.fetchStep
  split
  · exact h
  · rename_i p _
    refine Inert.ite_fst h (Inert.ite_fst h.stopProg ?_)
    have hr := h.readWords (w := p.who s) (ref := p.cbuf) (off := 0xC0 + 16 * p.step) (n := 2)
    generalize s.readWords (p.who s) p.cbuf (0xC0 + 16 * p.step) 2 = q at hr ⊢
    obtain ⟨u, r⟩ := q
    cases r with
    | held => exact hr
    | bad c => exact stopProg hr
    | ok ws =>
      dsimp only
      split
      · exact withColl hr
      · exact stopProg hr

-- steps

theorem doStep {no : Nat} {i : Instr} {a : StepArgs} {f : State → Prog → State × StepEnd} (hf : ∀ p, (f s p).1.canon) (h : s.canon) :
    (s.doStep no i a f).canon := by
  unfold State.doStep
  split
  · exact h
  · rename_i p _
    refine Inert.ite h (Inert.ite h.stopProg ?_)
    have hp := hf p
    generalize f s p = q at hp ⊢
    obtain ⟨u, e⟩ := q
    cases e with
    | done q owe => exact payAll hp
    | stay q => exact setProg hp
    | stop q st c => exact stopProg hp

theorem xchg {p : Prog} {arr i n : Nat} (h : s.canon) : (s.xchg p arr i n).1.canon := Inert.ite_fst h h.readWords
theorem xchgPut {p : Prog} {arr : Nat} {ws : List Word} (h : s.canon) : (s.xchgPut p arr ws).1.canon := Inert.ite_fst h h.writeWords

theorem andThen {α : Type} {r : State × Got α} {p : Prog} {k : State → α → State × StepEnd} (hk : ∀ u x, u.canon → (k u x).1.canon)
    (hr : r.1.canon) : (andThen r p k).1.canon := by
  obtain ⟨u, r⟩ := r
  cases r with
  | ok x => exact hk u x hr
  | held => exact hr
  | bad c => exact hr

theorem sendAll {p : Prog} {dst buf : Nat} {c : Bool} {base len off : Nat} {gs : List (List (Byte × Bool))} (h : s.canon) :
    (s.sendAll p dst buf c base len off gs).canon := by
  induction gs generalizing s off with
  | nil => exact h
  | cons g gs ih => exact ih h.sendMsg

theorem noteBad {p : Prog} {ref : Word} {off : Nat} {bs : List (Byte × Bool)} (h : s.canon) : (s.noteBad p ref off bs).canon :=
  Inert.ite (canon_inert.memErr h) h

theorem sendBytes {p : Prog} {a : StepArgs} {peer len soff doff : Nat} (h : s.canon) : (s.sendBytes p a peer len soff doff).1.canon :=
  andThen (fun _ _ hu => hu.noteBad.sendAll) h.streamRead

theorem sendStep {p : Prog} {a : StepArgs} (h : s.canon) : (s.sendStep p a).1.canon := by
  unfold State.sendStep
  split
  · exact h
  · refine Inert.ite_fst h (Inert.ite_fst h ?_)
    split
    · exact andThen (fun _ _ hu => Inert.ite_fst hu (andThen (fun _ _ hv => andThen (fun _ _ hw => hw.sendBytes) hv.xchg) hu.xchg)) h.xchg
    · exact h.sendBytes

theorem recvLen {p : Prog} {a : StepArgs} {d : Nat} (h : s.canon) : (s.recvLen p a d).1.canon := by
  have hx := h.xchg (p := p) (arr := 1) (i := d) (n := 1)
  unfold State.recvLen
  refine Inert.ite_fst ?_ h
  generalize s.xchg p 1 d 1 = q at hx ⊢
  obtain ⟨u, r⟩ := q
  cases r with
  | ok n => exact hx
  | held => exact hx
  | bad c => exact hx

theorem recvStep {p : Prog} {a : StepArgs} (h : s.canon) : (s.recvStep p a).1.canon := by
  unfold State.recvStep
  split
  · exact h
  · exact Inert.ite_fst h (andThen (fun _ _ hu => Inert.ite_fst hu (Inert.ite_fst hu hu)) h.recvLen)

theorem setGen {comm rank slot g : Nat} (h : s.canon) : (s.setGen comm rank slot g).canon := h.withColl
theorem dropResults {comm rank slot : Nat} (h : s.canon) : (s.dropResults comm rank slot).canon := h.withColl

theorem pushStep {no : Nat} {p : Prog} {a : StepArgs} (h : s.canon) : (s.pushStep no p a).1.canon := by
  unfold State.pushStep
  refine Inert.ite_fst h (Inert.ite_fst h (Inert.ite_fst h ?_))
  split
  · exact h
  · exact Inert.ite_fst h (Inert.ite_fst h (Inert.ite_fst h (andThen (fun _ _ hu => withColl (sendMsg hu.noteBad)) h.streamRead)))

theorem maskPlaces {p : Prog} {n : Nat} (h : s.canon) : (s.maskPlaces p n).1.canon := by
  unfold State.maskPlaces
  refine Inert.ite_fst h ?_
  extract_lets w f offs
  refine Inert.ite_fst h ?_
  have hh := h.inH (w := w) (buf := refBuf p.mref)
  generalize s.inH w (refBuf p.mref) = q at hh ⊢
  obtain ⟨u, b⟩ := q
  have ha := canon_inert.access (w := w) (buf := refBuf p.mref) (f := f) (offs := offs) hh
  dsimp only at ha ⊢
  generalize u.access w (refBuf p.mref) f offs = z at ha ⊢
  obtain ⟨v, r⟩ := z
  cases r with
  | error x => exact ha
  | ok ps => exact ha

theorem writeMask {p : Prog} {ps : List Place} {mask : List Bool} (h : s.canon) : (s.writeMask p ps mask).canon :=
  canon_inert.agentAhead (canon_inert.homeMasked h)

theorem pullStep {no : Nat} {p : Prog} {a : StepArgs} (h : s.canon) : (s.pullStep no p a).1.canon := by
  unfold State.pullStep
  split
  · exact h
  · refine Inert.ite_fst h ?_
    split
    · exact h
    · split
      · exact Inert.ite_fst h.dropResults
          (andThen (fun _ _ hu => andThen (fun _ _ hv => withColl (setGen (dropResults hv.writeMask))) hu.streamWrite) h.maskPlaces)
      · exact h

theorem copyStep {p : Prog} {a : StepArgs} (h : s.canon) : (s.copyStep p a).1.canon := by
  unfold State.copyStep
  extract_lets w n off src dst next
  split
  rename_i u₁ x hx
  have h₁ : u₁.canon := to_fst h.entryOf hx
  split
  rename_i u₂ y hy
  have h₂ : u₂.canon := to_fst h₁.entryOf hy
  extract_lets unit
  clear_value unit
  split
  · exact h₂
  · extract_lets es offs
    split
    rename_i u₃ r hr
    have h₃ : u₃.canon := to_fst (canon_inert.access h₂) hr
    split
    · exact h₃
    · split
      rename_i u₄ z hz
      have h₄ : u₄.canon := to_fst (canon_inert.access h₃) hz
      split
      · exact h₄
      · split
        rename_i u₅ g hg
        have h₅ : u₅.canon := to_fst h₄.inH hg
        refine Inert.ite_fst h₅ (Inert.ite_fst h₅ ?_)
        split
        rename_i u₆ bad hb
        have h₆ : u₆.canon := to_fst h₅.movePlaces hb
        exact Inert.ite (canon_inert.memErr h₆) h₆

theorem waitStep {p : Prog} {a : StepArgs} (h : s.canon) : (s.waitStep p a).1.canon := Inert.ite_fst h h

theorem signalStep {p : Prog} {a : StepArgs} (h : s.canon) : (s.signalStep p a).1.canon := by
  unfold State.signalStep
  split
  · exact h
  · exact Inert.ite_fst h (Inert.ite_fst h h.sendMsg)

theorem skipLoop {p : Prog} {fuel j depth : Nat} (h : s.canon) : (s.skipLoop p fuel j depth).1.canon := by
  induction fuel generalizing s j depth with
  | zero => exact h
  | succ n ih =>
    have hr := h.readWords (w := p.who s) (ref := p.cbuf) (off := 0xC0 + 16 * j) (n := 2)
    unfold State.skipLoop
    generalize s.readWords (p.who s) p.cbuf (0xC0 + 16 * j) 2 = q at hr ⊢
    obtain ⟨u, r⟩ := q
    cases r with
    | held => exact hr
    | bad c => exact hr
    | ok ws =>
      dsimp only
      split
      · exact ih hr
      · split
        · cases depth with
          | zero => exact hr
          | succ d => exact ih hr
        · exact ih hr

theorem loopStep {p : Prog} {a : StepArgs} (h : s.canon) : (s.loopStep p a).1.canon := by
  unfold State.loopStep
  refine Inert.ite_fst h ?_
  split
  · exact andThen (fun _ _ hu => hu) h.skipLoop
  · exact h

theorem endlStep {p : Prog} (h : s.canon) : (s.endlStep p).1.canon := by
  unfold State.endlStep
  split
  · exact h
  · exact Inert.ite_fst h h

theorem sendVals {p : Prog} {body : Word → Traffic} {d : Nat} {ws : List Word} (h : s.canon) : (s.sendVals p body d ws).canon := by
  induction ws generalizing s d with
  | nil => exact h
  | cons w ws ih => exact ih h.sendMsg

theorem countStep {p : Prog} (h : s.canon) : (s.countStep p).1.canon := by
  unfold State.countStep
  split
  · exact Inert.ite_fst h (andThen (fun _ _ hu => hu.sendVals) h.xchg)
  · split
    · exact andThen (fun _ _ hu => hu) h.xchgPut
    · exact h

theorem pfxStep {p : Prog} (h : s.canon) : (s.pfxStep p).1.canon := by
  unfold State.pfxStep
  split
  · exact Inert.ite_fst h (andThen (fun _ _ hu => andThen (fun _ _ hv => Inert.ite_fst hv
      (andThen (fun _ _ hx => andThen (fun _ _ hy => hy.sendVals) hx.xchgPut) hv.xchgPut)) hu.xchg) h.xchg)
  · split
    · exact andThen (fun _ _ hu => hu) h.xchgPut
    · exact h

theorem endStep {p : Prog} (h : s.canon) : (s.endStep p).1.canon := Inert.ite_fst h (andThen (fun _ _ hu => hu) h.writeRec)

theorem execCollStepComplete {prog : Nat} (h : s.canon) : Goes State.canon (execCollStepComplete prog s) := by
  unfold Machine.execCollStepComplete
  extract_lets coll u
  have hu : u.canon := h.withColl
  split
  · exact Goes.next (doStep (fun _ => hu.sendStep) hu)
  · exact Goes.next (doStep (fun _ => hu.recvStep) hu)
  · exact Goes.next (doStep (fun _ => hu.pushStep) hu)
  · exact Goes.next (doStep (fun _ => hu.pullStep) hu)
  · exact Goes.next (doStep (fun _ => hu.copyStep) hu)
  · exact Goes.next (doStep (fun _ => hu.waitStep) hu)
  · exact Goes.next (doStep (fun _ => hu.signalStep) hu)
  · exact Goes.next (doStep (fun _ => hu.loopStep) hu)
  · exact Goes.next (doStep (fun _ => hu.countStep) hu)
  · exact Goes.next (doStep (fun _ => hu.pfxStep) hu)
  · exact Goes.next (doStep (fun _ => hu.endStep) hu)
  · exact Goes.next hu

theorem execCollTimeout {prog : Nat} (h : s.canon) : Goes State.canon (execCollTimeout prog s) := by
  unfold Machine.execCollTimeout
  split
  · exact Goes.ite (Goes.next h.stopProg) (Goes.next h)
  · exact Goes.next h

end
end Sys2Proof.Machine.State.canon
end

section
/-! SUPPORT. The canonical form under the effects of the control words and of the words of X (04 R67 to R83, 07, 08). -/

namespace Sys2Proof.Machine.State.canon

section
variable {s : State}

-- control words

theorem plainEff {h' : Hdr} {f : State → Eff} (hf : (f s).All State.canon) (h : s.canon) : (plainEff h' f s).All State.canon :=
  Eff.All.ite hf (.done h)

theorem callEff {t : Target} {g : Grp} (h : s.canon) : (callEff t g s).All State.canon := .done (canon_inert.modCur h)

theorem retEff (h : s.canon) : (retEff s).All State.canon := by
  unfold Machine.retEff
  split
  · exact .done (canon_inert.modCur h)
  · exact .done h

theorem loopEff {staged : Bool} {l m : Nat} {a : SSrc} {stop : BitVec 16} {g : Grp} (h : s.canon) :
    (loopEff staged l m a stop g s).All State.canon := Eff.All.ite (.done h) (.done (canon_inert.modCur h))

theorem brklEff {l : Nat} (h : s.canon) : (brklEff l s).All State.canon := by
  unfold Machine.brklEff
  split
  · exact .done (canon_inert.modCur h)
  · exact .done h

theorem suspendEff (h : s.canon) : (suspendEff s).All State.canon := by
  unfold Machine.suspendEff
  refine Eff.All.ite (.done h) (canon_inert.memEff (fun ps u hu => ?_) h)
  have hr : ((u.toHome u.cur.1 (lineOf (keyOf ps))).reach [lineOf (keyOf ps)]).canon := canon_inert.reach (canon_inert.toHome hu)
  exact Eff.All.ite (.done (canon_inert.memErr hr)) (.done hr)

theorem arm {line : Nat} (h : s.canon) : (s.arm line).canon := by
  unfold State.arm
  split
  · exact h
  · exact canon_inert.setRecWord (canon_inert.modInfo h)

theorem watchEff {m : MemOp} (h : s.canon) : (watchEff m s).All State.canon :=
  canon_inert.memEff (fun _ _ hu => .done hu.arm) h

theorem owe {d : Due} (h : s.canon) : (s.owe d).canon := canon_inert.modCur h
theorem tfenceEff {g : Grp} (h : s.canon) : (tfenceEff g s).All State.canon := Eff.All.ite (.done h) (.done h.owe)
theorem trapEff {code : BitVec 16} (h : s.canon) : (trapEff code s).All State.canon := .done h.owe

theorem quiesce {f : State → Eff} (hf : ∀ u, u.canon → (f u).All State.canon) (h : s.canon) : (s.quiesce f).All State.canon :=
  Eff.All.ite (.wait h) (Eff.All.ite (hf _ (canon_inert.perform h)) (.wait (canon_inert.perform h)))

theorem csrwEff {r : Csr} {a : Word} {g : Grp} (h : s.canon) : (csrwEff r a g s).All State.canon :=
  Eff.All.ite (h.quiesce (fun _ hu => .done (canon_inert.modCore hu))) (.done (canon_inert.modCur h))

theorem tlbinvEff {a b : Word} (h : s.canon) : (tlbinvEff a b s).All State.canon :=
  h.quiesce (fun _ hu => .done (canon_inert.modCore hu))

theorem bufinvEff {a : Word} (h : s.canon) : (bufinvEff a s).All State.canon :=
  Eff.All.ite (.fault h) (h.quiesce (fun _ hu => .done (canon_inert.modCore hu)))

-- words of X

theorem vecDone {d : VDst} {r : VVal × FlagSet} (h : s.canon) : (vecDone d r s).All State.canon := .done (canon_inert.vwr h)
theorem predDone {d : Fin 16} {r : PBits × FlagSet} (h : s.canon) : (predDone d r s).All State.canon := .done (canon_inert.pwr h)

theorem vqmxEff {h' : Hdr} {dt st : Ty} {mode : Rnd} {part : Nat} {d b : VDst} {a : VSrc} (h : s.canon) :
    (vqmxEff h' dt st mode part d b a s).All State.canon := .done (canon_inert.vwr (canon_inert.vwr h))

theorem vextsEff {h' : Hdr} {t : Ty} {lane : Nat} {d : SDst} {a : VSrc} (h : s.canon) : (vextsEff h' t lane d a s).All State.canon :=
  Eff.All.ite (.done (canon_inert.swr h)) (.done h)

theorem trnWrite {t : Ty} {act : List Bool} {src : List VVal} {d n c : Nat} (h : s.canon) : (s.trnWrite t act src d n c).canon := by
  induction n generalizing s c with
  | zero => exact h
  | succ n ih => exact ih (canon_inert.modCore h)

theorem vtrnEff {h' : Hdr} {t : Ty} {d a : Nat} (h : s.canon) : (vtrnEff h' t d a s).All State.canon := .done h.trnWrite
theorem scalarDone {d : SDst} {w : Word} (h : s.canon) : (scalarDone d w s).All State.canon := .done (canon_inert.swr h)

end
end Sys2Proof.Machine.State.canon
end

section
/-! SUPPORT. The canonical form under the reuse probe (14 R266 to R277). -/

namespace Sys2Proof.Machine.State.canon

section
variable {s : State}

-- what a probe reads

theorem keyElem {w : Who} {d : Desc} {es : Nat} {o : Int} (h : s.canon) : (s.keyElem w d es o).1.canon := by
  unfold State.keyElem
  split
  rename_i u r he
  have hu : u.canon := to_fst (canon_inert.visited.element h) he
  split
  · exact hu
  · exact Inert.ite_fst hu (canon_inert.reach hu)

theorem keyElems {w : Who} {d : Desc} {es : Nat} {early : Store (List Byte × Bool)} {os : List (Nat × Int)} (h : s.canon) :
    (s.keyElems w d es early os).1.canon := by
  induction os generalizing s with
  | nil => exact h
  | cons o os ih =>
    unfold State.keyElems
    split
    rename_i u r he
    have hu : u.canon := by
      split at he
      · exact to_fst h he
      · exact to_fst h.keyElem he
    split
    · exact hu
    · split
      rename_i v rest hv
      have hrest : v.canon := to_fst (ih hu) hv
      exact hrest

theorem reachAll {w : Who} {buf : Nat} {f : Form} {offs : List Int} (h : s.canon) : (s.reachAll w buf f offs).1.canon := by
  unfold State.reachAll
  refine Inert.ite_fst h ?_
  split
  rename_i u r ha
  have hu : u.canon := to_fst (canon_inert.access h) ha
  split
  · exact hu
  · exact Inert.ite_fst hu (canon_inert.reach hu)

theorem readKey {w : Who} {x : RClass} {tile : Nat} {early : Store (List Byte × Bool)} (h : s.canon) :
    (s.readKey w x tile early).1.canon := by
  unfold State.readKey
  extract_lets offs
  split
  rename_i u d hb
  have hu : u.canon := to_fst (canon_inert.visited.buffer h) hb
  split
  · exact hu
  · refine Inert.ite_fst hu (Inert.ite_fst hu ?_)
    split
    rename_i v ks hk
    have hv : v.canon := to_fst hu.keyElems hk
    split
    · exact hv
    · exact hv

theorem readReuse {w : Who} {x : RClass} {i loff : Nat} (h : s.canon) : (s.readReuse w x i loff).1.canon := by
  unfold State.readReuse
  extract_lets offs
  split
  · rename_i u he
    have hu : u.canon := to_fst h.reachAll he
    exact hu
  · rename_i u b o he
    have hu : u.canon := to_fst h.reachAll he
    exact hu
  · rename_i u b o he
    have hu : u.canon := to_fst h.reachAll he
    exact hu
  · rename_i u ep he
    have hu : u.canon := to_fst h.reachAll he
    split
    · rename_i v hl
      have hv : v.canon := to_fst hu.reachAll hl
      exact hv
    · rename_i v b o hl
      have hv : v.canon := to_fst hu.reachAll hl
      exact hv
    · rename_i v b o hl
      have hv : v.canon := to_fst hu.reachAll hl
      exact hv
    · rename_i v lp hl
      have hv : v.canon := to_fst hu.reachAll hl
      exact hv

theorem readThen {α : Type} {r : State × Reading α} {bad : State → Nat → Nat → State × Probed} {k : State → α → State × Probed}
    (hbad : ∀ u b o, u.canon → (bad u b o).1.canon) (hk : ∀ u a, u.canon → (k u a).1.canon) (hr : r.1.canon) :
    (readThen r bad k).1.canon := by
  obtain ⟨u, r⟩ := r
  cases r with
  | ok a => exact hk u a hr
  | held => exact hr
  | page b o => exact hr
  | bad b o => exact hbad u b o hr

theorem keepWord {slot : Nat} {w : Word} (h : s.canon) : (s.keepWord slot w).canon := canon_inert.modInfo h

theorem probeTile {slot c : Nat} {t : TaskInfo} {moved need : Bool} (h : s.canon) : (s.probeTile slot c t moved need).1.canon := by
  unfold State.probeTile
  extract_lets n tile k w cls ev alone kid
  have halone : ∀ {u x e}, State.canon u → (alone u x e).1.canon := fun hu => hu
  split
  rename_i u r hj
  have hu : u.canon := h.judgeClass hj
  split
  · exact hu
  · exact halone hu
  · split
    · exact halone hu
    · extract_lets eoff aoff loff ev₉ nine
      have hnine : ∀ v b o, State.canon v → (nine v b o).1.canon := fun _ _ _ hv => hv
      split
      rename_i v bad hr
      have hv : v.canon := to_fst (canon_inert.rangesOk hu) hr
      split
      · exact Inert.ite_fst hv (hnine _ _ _ hv)
      · refine readThen hnine (fun y e hy => ?_) hv.readReuse
        extract_lets z
        have hz : z.canon := Inert.ite hy hy.keepWord
        exact Inert.ite_fst hz (readThen hnine (fun _ _ h₁ => readThen (fun _ _ _ h₂ => h₂) (fun _ _ h₂ => h₂) h₁.readKey) hz.reachAll)

-- acting on a decision

theorem logBit {kid : Nat} {f : Found} {v : Bool} (h : s.canon) : (s.logBit kid f v).canon := by
  unfold State.logBit
  split
  · exact h
  · exact Inert.ite h (Inert.ite (canon_inert.memErr h) (canon_inert.putHome h))

theorem putEntry {kid : Nat} {keys : List Nat} {ws : List Word} (h : s.canon) : (s.putEntry kid keys ws).canon := canon_inert.putHome h

theorem postBarred {f : Found} {k : Nat} (h : s.canon) : (s.postBarred f k).canon := by
  unfold State.postBarred
  split
  · exact Inert.ite h (canon_inert.post h)
  · exact h

theorem actSkip {f : Found} (h : s.canon) : (s.actSkip f).1.canon := by
  unfold State.actSkip
  extract_lets w kid w0 u v o
  have hv : v.canon := h.putEntry.logBit
  refine Inert.ite_fst (canon_inert.freeSlot hv) ?_
  split
  rename_i y r hc
  have hy : y.canon := to_fst (canon_inert.agentCredit hv) hc
  split
  · exact hy
  · exact hy
  · exact canon_inert.freeSlot hy

theorem actCompute {f : Found} {k unit : Nat} (h : s.canon) : (s.actCompute f k unit).canon := by
  unfold State.actCompute
  extract_lets kid u v₀ v w
  have hu : u.canon := postBarred (Inert.foldl _ (fun _ _ ht => Inert.ite (canon_inert.countErr (canon_inert.post ht)) (canon_inert.post ht)) h)
  have hv : v.canon := by
    dsimp only [v]
    split
    · exact canon_inert.modInfo (putEntry (canon_inert.putHome hu))
    · exact hu
  have hw : w.canon := Inert.ite hv.logBit hv
  exact enterReady (canon_inert.modInfo hw)

-- the event

theorem startWord {slot : Nat} (h : s.canon) : (s.startWord slot).canon := by
  unfold State.startWord
  extract_lets n w
  split
  · exact h
  · split
    · exact h
    · split
      · rename_i u ps hr
        have hu : u.canon := to_fst h.reachAll hr
        exact Inert.ite hu hu.keepWord
      · exact h

theorem beginProbe {slots : List Nat} (h : s.canon) : (s.beginProbe slots).1.canon := by
  -- The read of the class is made a variable before the recursion is unfolded, so that the kernel does not evaluate its address.
  obtain ⟨read, hr⟩ : ∃ f, f = @State.classWords := ⟨_, rfl⟩
  have hread : ∀ {u : State} {w n p}, u.canon → read u w n = p → p.1.canon := fun hu hp => hu.classWords (hr ▸ hp)
  delta State.beginProbe State.beginProbe._f
  rw [← hr]
  clear hr
  induction slots generalizing s with
  | nil => exact h
  | cons slot rest ih =>
    refine Inert.ite_fst (ih h) (Inert.ite_fst h ?_)
    generalize hp : read s (s.whoAgent 0 (s.slotCtx slot) (s.slotLrec slot)) (s.lrecClass (s.slotLrec slot)) = p
    have hu := hread h hp
    obtain ⟨u, r⟩ := p
    cases r with
    | error e => exact hu
    | ok ws => exact ih (startWord (canon_inert.modInfo hu))

theorem probeAll {unit : Option (Nat × Bool)} {need : Bool} {tiles : List (Nat × Nat)} (h : s.canon) :
    (s.probeAll unit need tiles).1.canon := by
  obtain ⟨one, ho⟩ : ∃ f, f = @State.probeTile := ⟨_, rfl⟩
  have hone : ∀ {u : State} {slot c t moved p}, u.canon → one u slot c t moved need = p → p.1.canon :=
    fun hu hp => to_fst hu.probeTile (ho ▸ hp)
  delta State.probeAll State.probeAll._f
  rw [← ho]
  clear ho
  induction tiles generalizing s with
  | nil => exact h
  | cons x rest ih =>
    obtain ⟨slot, j⟩ := x
    show (match s.info slot with
      | none => (s, .ok [])
      | some t =>
        match one s slot _ t _ need with
        | (u, r) => match r with
          | .page buf off => (u, .error (some (slot, buf, off)))
          | .held => (u, .error none)
          | .found f => match (_ : State × Except (Option (Nat × Nat × Nat)) (List Found)) with
            | (v, fs) => (v, fs.map (fun xs => f :: xs)) : State × Except (Option (Nat × Nat × Nat)) (List Found)).1.canon
    split
    · exact h
    · rename_i t _
      split
      rename_i u r hp
      have hu : u.canon := hone h hp
      split
      · exact hu
      · exact hu
      · exact ih (hone h rfl)

theorem probeBoth {unit : Option (Nat × Bool)} {tiles : List (Nat × Nat)} (h : s.canon) : (s.probeBoth unit tiles).1.canon := by
  unfold State.probeBoth
  split
  · rename_i t fs hp
    have ht : t.canon := to_fst h.probeAll hp
    exact Inert.ite_fst ht h.probeAll
  · exact h.probeAll

theorem actAll {skip : Bool} {k unit : Nat} {fs : List Found} (h : s.canon) : (s.actAll skip k unit fs).canon := by
  induction fs generalizing s with
  | nil => exact h
  | cons f fs ih =>
    unfold State.actAll
    refine Inert.ite ?_ (ih h.actCompute)
    split
    · rename_i u hs
      have hu : u.canon := to_fst h.actSkip hs
      exact ih hu
    · rename_i u hs
      have hu : u.canon := to_fst h.actSkip hs
      exact ih (addWaiter (canon_inert.modInfo hu))

theorem probePage {slot sl buf off : Nat} (h : s.canon) : (s.probePage slot sl buf off).canon := addWaiter (canon_inert.post h)
theorem beginAll {tiles : List Nat} (h : s.canon) : (s.beginAll tiles).canon := Inert.foldl _ (fun _ _ ht => canon_inert.modInfo ht) h

theorem restartProbe {tiles : List Nat} (h : s.canon) : (s.restartProbe tiles).canon :=
  Inert.foldl _ (fun _ _ ht => canon_inert.modInfo ht) h

theorem probe {slot : Nat} (h : s.canon) : (s.probe slot).canon := by
  unfold State.probe
  extract_lets tiles
  refine Inert.ite h ?_
  split
  · rename_i u hb
    exact to_fst h.beginAll.beginProbe hb
  · rename_i u sl b o hb
    have hu : u.canon := to_fst h.beginAll.beginProbe hb
    exact hu.probePage
  · rename_i u hb
    have hu : u.canon := to_fst h.beginAll.beginProbe hb
    split
    · exact hu
    · split
      · rename_i t hp
        have ht : t.canon := to_fst hu.probeBoth hp
        exact ht
      · rename_i t sl b o hp
        have ht : t.canon := to_fst hu.probeBoth hp
        exact ht.probePage
      · rename_i t fs hp
        have ht : t.canon := to_fst hu.probeBoth hp
        exact Inert.ite ht.restartProbe ht.actAll

theorem probeRead {slot i : Nat} (h : s.canon) : (s.probeRead slot i).canon := by
  unfold State.probeRead
  extract_lets tiles
  refine Inert.ite h ?_
  split
  · rename_i u e hb
    exact to_fst h.beginAll.beginProbe hb
  · rename_i u hb
    have hu : u.canon := to_fst h.beginAll.beginProbe hb
    split
    · extract_lets c w offs
      split
      · refine Inert.ite hu ?_
        split
        · rename_i v x hk
          have hv : v.canon := to_fst hu.keyElem hk
          exact canon_inert.modInfo hv
        · exact hu
      · exact hu
    · exact hu

end
end Sys2Proof.Machine.State.canon
end

section
/-! SUPPORT. The canonical form under what arrives at the collective engine, the step sequencers, page service and the mechanisms of the
memory levels (21 R352 to R361, 10 R188 to R195, 18 R311 to R314, 11 R219 to R222). -/

namespace Sys2Proof.Machine.State.canon

section
variable {s : State}

theorem withSched {x : Sched} (h : s.canon) : ({ s with sched := x } : State).canon := h
theorem withHost {x : HostWin} (h : s.canon) : ({ s with host := x } : State).canon := h

-- contributions

theorem closeInst {comm slot : Nat} {x : Instance} {partly : Bool} (h : s.canon) : (s.closeInst comm slot x partly).canon := by
  unfold State.closeInst
  extract_lets n ty op count size mask
  split
  exact Inert.foldl _ (fun _ _ => sendMsg) h.withColl

theorem answerPush {m : Msg} {phase : Nat} (h : s.canon) : (s.answerPush m phase).canon := by
  unfold State.answerPush
  split
  · split
    · exact h.setProg
    · exact h
  · exact h

theorem lateAt {m : Msg} {slot gen : Nat} (h : s.canon) : (s.lateAt m slot gen).canon := h.setGen.dropResults.answerPush

theorem flush {comm slot : Nat} (h : s.canon) : (s.flush comm slot).canon := by
  unfold State.flush
  split
  · exact Inert.ite h.closeInst h
  · exact h

theorem contribute {no : Nat} {m : Msg} {slot gen : Nat} {sig : BitVec 32} {bytes : List Byte} {bad : List Nat} {tmo : Nat} (h : s.canon) :
    (s.contribute no m slot gen sig bytes bad tmo).canon := by
  have hf : ((s.dropMsg no).flush m.comm slot).canon := h.dropMsg.flush
  unfold State.contribute
  exact Inert.ite (lateAt hf.withColl) (Inert.ite hf.answerPush.closeInst hf.answerPush.withColl)

theorem execContribution {msg : Nat} (h : s.canon) : Goes State.canon (execContribution msg s) := by
  unfold Machine.execContribution
  split
  · split
    · exact Goes.next h.contribute
    · exact Goes.next h
  · exact Goes.next h

-- answers to a sender

theorem oweCredit {m : Msg} {n no : Nat} (h : s.canon) : (s.oweCredit m n no).canon := h.withColl

theorem creditSend {m : Msg} {n no : Nat} (h : s.canon) : (s.creditSend m n no).canon := by
  unfold State.creditSend
  split
  · exact h
  · refine Inert.ite h.oweCredit ?_
    split
    rename_i u r hc
    have hu : u.canon := to_fst h.creditProg hc
    split
    · exact hu.setProg.showProg
    · exact hu.oweCredit
    · exact hu.oweCredit.addWaiter
    · exact hu.stopBare

theorem countSent {m : Msg} {n : Nat} (h : s.canon) : (s.countSent m n).canon := by
  unfold State.countSent
  split
  · exact h.setProg
  · exact h

theorem failSend {m : Msg} {cause : Nat} (h : s.canon) : (s.failSend m cause).canon := by
  unfold State.failSend
  split
  · exact h.stopProg
  · exact h

theorem answer {m : Msg} {n : Nat} {c : Bool} {failed : Option Nat} (h : s.canon) : (s.answer m n c failed).canon := by
  unfold State.answer
  refine Inert.ite ?_ h.sendMsg
  split
  · exact h.failSend
  · exact Inert.ite h.countSent.creditSend h.countSent

-- arriving traffic

theorem handOver {no : Nat} {m : Msg} {f : Prog → Prog} (h : s.canon) : (s.handOver no m f).canon := by
  unfold State.handOver
  split
  · exact h.setProg.dropMsg
  · exact Inert.ite h h.dropMsg

theorem performWrite {no : Nat} {m : Msg} {buf off : Nat} {bytes : List Byte} {bad : List Nat} {c : Bool} {base len : Nat} (h : s.canon) :
    (s.performWrite no m buf off bytes bad c base len).canon := by
  unfold State.performWrite
  extract_lets w marked r n landed
  have hr : r.1.canon := by
    dsimp only [r]
    split
    · rename_i u _ hp
      have hu : u.canon := to_fst h.streamPlaces hp
      exact hu.streamWrite
    · rename_i u hp
      have hu : u.canon := to_fst h.streamPlaces hp
      exact hu
    · rename_i u _ hp
      have hu : u.canon := to_fst h.streamPlaces hp
      exact hu
  clear_value r
  obtain ⟨u, r⟩ := r
  cases r with
  | held => exact hr
  | bad cause => exact answer (dropMsg hr)
  | ok a => exact answer (handOver (putMsg hr))

theorem takeVal {no : Nat} {m : Msg} {wants : Instr → Bool} {barred : Prog → Bool} {f : Prog → Prog} (h : s.canon) :
    (s.takeVal no m wants barred f).canon := by
  unfold State.takeVal
  split
  · exact Inert.ite h.setProg.dropMsg h
  · exact Inert.ite h.dropMsg h

theorem answered {no k : Nat} {failed : Option Nat} (h : s.canon) : (s.answered no k failed).canon := by
  unfold State.answered
  extract_lets u coll v
  have hu : u.canon := h.dropMsg
  have hv : v.canon := hu.withColl
  split
  · exact hu
  · split
    · exact hv.failSend
    · exact Inert.ite hv.countSent.creditSend hv.countSent
    · exact hv

theorem arrive {no : Nat} {m : Msg} (h : s.canon) : (s.arrive no m).canon := by
  unfold State.arrive
  extract_lets may
  split
  · exact Inert.ite h.performWrite h
  · exact Inert.ite h.putMsg.handOver.answer h
  · exact h.handOver
  · exact h.handOver
  · exact Inert.ite h h.dropMsg.creditSend
  · exact h.takeVal
  · exact h.takeVal
  · exact h.dropMsg.answered.answerPush
  · exact h.dropMsg.answered.lateAt
  · exact h.answered
  · exact h.answered
  · exact h
  · exact h

theorem execPeerWrite {msg : Nat} (h : s.canon) : Goes State.canon (execPeerWrite msg s) := by
  unfold Machine.execPeerWrite
  split
  · exact Goes.next h.arrive
  · exact Goes.next h

theorem traffic {m : Msg} (h : s.canon) : (s.traffic m).canon := h.withColl

-- the step sequencers

theorem setSeq {no : Nat} {x : Seq} (h : s.canon) : (s.setSeq no x).canon := canon_inert.setSeq h
theorem seqEvent {no kind k : Nat} {x : Seq} (h : s.canon) : (s.seqEvent no kind k x).canon := canon_inert.post h
theorem seqDone {no : Nat} {x : Seq} (h : s.canon) : (s.seqDone no x).canon := h.setSeq.seqEvent

theorem seqWords {x : Seq} {ref : Word} {off es n : Nat} (h : s.canon) : (s.seqWords x ref off es n).1.canon := by
  unfold State.seqWords
  extract_lets w
  refine Inert.ite_fst h ?_
  split
  rename_i u r ha
  have hu : u.canon := to_fst (canon_inert.access h) ha
  split
  · exact hu
  · exact Inert.ite_fst hu (canon_inert.reach hu)

theorem seqEbo {x : Seq} {need : Need} (h : s.canon) : (s.seqEbo x need).1.canon := by
  unfold State.seqEbo
  refine Inert.ite_fst h ?_
  split
  rename_i u r hk
  have hu : u.canon := to_fst (canon_inert.boKey h) hk
  split
  · exact hu
  · exact Inert.ite_fst hu (canon_inert.reach hu)

theorem seqPage {no : Nat} {x : Seq} {buf off : Nat} (h : s.canon) : (s.seqPage no x buf off).canon :=
  addWaiter (setSeq (canon_inert.post h))

theorem seqThen {α : Type} {no : Nat} {x : Seq} {r : State × SeqRead α} {k : State → α → State} (hk : ∀ u a, u.canon → (k u a).canon)
    (hr : r.1.canon) : (State.seqThen no x r k).canon := by
  obtain ⟨u, r⟩ := r
  cases r with
  | ok a => exact hk u a hr
  | held => exact setSeq hr
  | page b o => exact seqPage hr
  | bad => exact setSeq hr

theorem seqArm {no : Nat} {x : Seq} {rec : Nat} (h : s.canon) : (s.seqArm no x rec).1.canon := by
  unfold State.seqArm
  extract_lets st
  refine Inert.ite_fst h.setSeq (Inert.ite_fst h.setSeq ?_)
  split
  · rename_i u hd
    have hu : u.canon := to_fst (canon_inert.readDbo h) hd
    exact canon_inert.armRecords hu.setSeq
  · rename_i u _ _ hd
    have hu : u.canon := to_fst (canon_inert.readDbo h) hd
    exact canon_inert.armRecords hu.setSeq
  · rename_i u _ hd
    have hu : u.canon := to_fst (canon_inert.readDbo h) hd
    exact hu.setSeq
  · rename_i u _ _ hd
    have hu : u.canon := to_fst (canon_inert.readDbo h) hd
    exact Inert.ite_fst hu.seqPage hu.setSeq

theorem armGraph {no fuel : Nat} (h : s.canon) : (s.armGraph no fuel).canon := by
  induction fuel generalizing s with
  | zero => exact canon_inert.modSeq h
  | succ n ih =>
    refine seqThen (fun u ids hu => ?_) h.seqWords
    split
    · rename_i v ha
      have hv : v.canon := to_fst hu.seqArm ha
      exact ih (canon_inert.modSeq hv)
    · rename_i v ha
      exact to_fst hu.seqArm ha

theorem loadRow {no : Nat} {x : Seq} {row : List Nat} (h : s.canon) : (s.loadRow no x row).canon := by
  unfold State.loadRow
  extract_lets w0 q
  refine Inert.ite h.setSeq (Inert.ite h.setSeq.seqEvent (seqThen (fun u key hu => ?_) h.seqEbo))
  exact armGraph (setSeq (canon_inert.boOp hu))

theorem seqStart {no : Nat} (h : s.canon) : (s.seqStart no).canon :=
  Inert.ite h (Inert.ite h.armGraph (Inert.ite h (Inert.ite (Inert.ite h.setSeq h) (Inert.ite h.setSeq (Inert.ite h.seqDone
    (seqThen (fun _ _ hu => hu.loadRow) h.seqWords))))))

theorem seqFlip {no : Nat} {x : Seq} (h : s.canon) : (s.seqFlip no x).canon :=
  seqThen (fun _ _ hu => Inert.ite (setSeq (Inert.ite hu (canon_inert.memErr hu))) (Inert.ite hu (Inert.ite hu.seqDone hu.setSeq))) h.seqEbo

theorem seqEnd {no : Nat} (h : s.canon) : (s.seqEnd no).canon := Inert.ite h (Inert.ite h.setSeq (Inert.ite h h.seqFlip))
theorem seqAbort {no : Nat} (h : s.canon) : (s.seqAbort no).canon := Inert.ite h.setSeq h.setSeq

theorem seqValid {ws : List Word} (h : s.canon) : (s.seqValid ws).1.canon := by
  unfold State.seqValid
  extract_lets x rows
  refine Inert.ite_fst h ?_
  split
  rename_i u bad hr
  have hu : u.canon := to_fst (canon_inert.rangesOk h) hr
  split
  · exact hu
  · exact hu

theorem seqBegin {no : Nat} {ws : List Word} (h : s.canon) : (s.seqBegin no ws).canon := h.setSeq

-- page service and the event ring

theorem wakeCmds {slot : Nat} (h : s.canon) : (s.wakeCmds slot).canon := by
  refine Inert.foldl _ (fun t x ht => ?_) h
  dsimp only
  split
  · exact restall (keepCmd ht)
  · exact keepCmd ht

theorem servePages {c : Nat} (h : s.canon) : (s.servePages c).canon := h.withStor

theorem resumeOn {c : Nat} {e : Eng} {t : RunTask} (h : s.canon) : (s.resumeOn c e t).canon := by
  unfold State.resumeOn
  extract_lets u left v
  have hu : u.canon := canon_inert.modEng (Inert.ite h.servePages h)
  have hv : v.canon := Inert.ite hu (canon_inert.modInfo hu)
  refine Inert.ite h ?_
  split
  · exact hv.restall
  · exact hv

theorem frplyResume {e : Eng} {slot : Nat} (h : s.canon) : (s.frplyResume e slot).canon := by
  unfold State.frplyResume
  extract_lets u
  have hu : u.canon := h.wakeCmds
  refine Inert.ite h ?_
  split
  · split
    · exact Inert.ite hu.resumeOn (Inert.ite (canon_inert.modInfo hu.servePages) hu)
    · exact hu
  · split
    · exact Inert.ite (enterReady (canon_inert.modInfo hu.servePages)) hu
    · exact hu
  · exact hu

theorem frplyKill {slot : Nat} (h : s.canon) : (s.frplyKill slot).canon := by
  unfold State.frplyKill
  extract_lets u
  have hu : u.canon := h.kill
  refine Inert.ite h ?_
  split
  · extract_lets v
    have hv : v.canon := Inert.foldl _ (fun _ _ ht => canon_inert.modEng ht) hu
    split
    · exact hv.restall
    · exact hv
  · exact hu

theorem drainAll (h : s.canon) : s.drainAll.canon :=
  Inert.foldl _ (fun _ _ ht => Inert.ite ht.killAway ht) (canon_inert.drainEvents h)

theorem setEvqBase {v : Word} (h : s.canon) : (s.setEvqBase v).canon := drainAll (h.of_eq rfl)
theorem setEvqHead {v : BitVec 32} (h : s.canon) : (s.setEvqHead v).canon := drainAll (h.of_eq rfl)

theorem paySkip {slot : Nat} (h : s.canon) : (s.paySkip slot).canon := by
  unfold State.paySkip
  extract_lets w o
  split
  rename_i u r hc
  have hu : u.canon := to_fst (canon_inert.agentCredit h) hc
  split
  · exact hu.addWaiter
  · exact hu.addWaiter
  · exact canon_inert.freeSlot hu

theorem retry {w : Waiter} (h : s.canon) : (s.retry w).canon := by
  unfold State.retry
  split
  · exact h.taskEnd
  · split
    · exact Inert.ite h.probe h.paySkip
    · exact h
  · exact Inert.ite h.seqEnd h.seqStart
  · exact h.retryProg
  · split
    · exact h.arrive
    · exact h

theorem execPageServiceRetry {idx : Nat} (h : s.canon) : Goes State.canon (execPageServiceRetry idx s) := by
  unfold Machine.execPageServiceRetry
  split
  · exact Goes.next h
  · exact Goes.next (Inert.ite h (retry h.withSched))

-- the mechanisms of the memory levels

theorem migrate {newv : BitVec 4} (h : s.canon) : (s.migrate newv).canon := Inert.ite h h.withHost
theorem startMove {u : Nat} (h : s.canon) : (s.startMove u).canon := Inert.ite h.withStor h
theorem unmoving {u : Nat} (h : s.canon) : (s.unmoving u).canon := h.withStor

theorem remapUnit (h : s.canon) : s.remapUnit.canon := by
  unfold State.remapUnit
  extract_lets u v host
  have hv : v.canon := unmoving (canon_inert.wakes h)
  exact Inert.ite h (Inert.ite hv.withHost hv.withHost)

theorem execPatrolScrub {line : Nat} (h : s.canon) : Goes State.canon (execPatrolScrub line s) :=
  Goes.ite (Goes.next (of_eq (canon_inert.rebuild h) rfl)) (Goes.next h)

theorem setCap {off : Nat} {w : Word} (h : s.canon) : (s.setCap off w).canon := h.withHost

theorem madeWith {off : Nat} {w : Word} (h : s.canon) : (s.madeWith off w).canon :=
  Inert.ite h (Inert.ite (Inert.ite h.setCap h) (Inert.ite (Inert.ite h.setCap h) (Inert.ite (Inert.ite h.setCap h)
    (Inert.ite h.setCap (Inert.ite h.setCap (Inert.ite h.setCap h))))))

theorem movePage {u v : Nat} (h : s.canon) : (s.movePage u v).canon := withStor (swapFrames (canon_inert.reach h))

theorem retireBundle {c layer b : Nat} (h : s.canon) : (s.retireBundle c layer b).canon := by
  unfold State.retireBundle
  extract_lets cap latent bank spares toHbm busy home stor u v lost left lat now stor' w
  have hu : u.canon := h.withStor
  have hv : v.canon := Inert.foldl _ (fun _ _ ht => ht.movePage) hu
  have hw : w.canon := hv.withStor
  exact Inert.ite h (canon_inert.post hw)

theorem bundleError {c layer b : Nat} (h : s.canon) : (s.bundleError c layer b).canon :=
  Inert.ite h (Inert.ite (retireBundle h.withStor) h.withStor)

end
end Sys2Proof.Machine.State.canon
end

section
/-! SUPPORT. The canonical form under the cryogenic controller, boot, the management port and the work queues (20 R335 to R346, 22 R371 to
R384). -/

namespace Sys2Proof.Machine.State.canon

section
variable {s : State}

theorem withCryo {x : Cryo} (h : s.canon) : ({ s with cryo := x } : State).canon := h
theorem withMgmt {x : Mgmt} (h : s.canon) : ({ s with mgmt := x } : State).canon := h

-- the cryogenic controller

theorem setBand {b : Nat} (h : s.canon) : (s.setBand b).canon := by
  unfold State.setBand
  extract_lets now lost back cryo u v w
  have hv : v.canon := Inert.foldl _ (fun _ _ ht => canon_inert.gateCore ht) h.withCryo
  have hw : w.canon := Inert.foldl _ (fun _ _ ht => canon_inert.restoreCore ht) hv
  exact Inert.ite h (Inert.ite (canon_inert.requestAll (canon_inert.holdSeqs hw)) (Inert.ite (canon_inert.freeSeqs hw) hw))

theorem setSt {n : Nat} (h : s.canon) : (s.setSt n).canon := h.withCryo
theorem bandEvent {b n k : Nat} (h : s.canon) : (s.bandEvent b n k).canon := canon_inert.post h
theorem toSafe (h : s.canon) : s.toSafe.canon := h.setBand.setSt.withCryo
theorem toWarmup (h : s.canon) : s.toWarmup.canon := canon_inert.requestAll (canon_inert.holdSeqs h.setSt.withCryo)

theorem retreat {b : Nat} {w : Nat × Therm} (h : s.canon) : (s.retreat b w).canon := by
  unfold State.retreat
  extract_lets before st cryo u v x
  have hv : v.canon := Inert.ite (setSt h.withCryo) h.withCryo
  have hx : x.canon := hv.setBand.bandEvent
  exact Inert.ite hx.toWarmup hx

theorem badCommand (h : s.canon) : s.badCommand.canon := h.withCryo
theorem cool (h : s.canon) : s.cool.canon := Inert.ite (coolDown (canon_inert.requestAll h.withCryo)) h.badCommand
theorem warm (h : s.canon) : s.warm.canon := Inert.ite h.toWarmup h.badCommand
theorem powerOffCmd (h : s.canon) : s.powerOffCmd.canon := Inert.ite h.withCryo h.badCommand
theorem abortCool (h : s.canon) : s.abortCool.canon := Inert.ite (setBand (setSt h.withCryo)) h.badCommand

theorem cryoCmd {n : Nat} (h : s.canon) : (s.cryoCmd n).canon := by
  unfold State.cryoCmd
  split
  · exact h.cool
  · exact h.warm
  · exact h.powerOffCmd
  · exact h.abortCool
  · exact h

theorem ask {host : Bool} {n : Nat} (h : s.canon) : (s.ask host n).canon := Inert.ite h.cryoCmd h.withCryo
theorem judgeAsked (h : s.canon) : s.judgeAsked.canon := Inert.foldl _ (fun _ _ ht => ht.cryoCmd) h.withCryo

theorem sample (h : s.canon) : s.sample.canon := by
  unfold State.sample
  extract_lets xs w band cryo u v
  have hv : v.canon := Inert.ite (retreat h.withCryo) (Inert.ite h.withCryo h.withCryo)
  exact Inert.ite h (judgeAsked (Inert.ite hv.toSafe hv))

theorem holdExpire (h : s.canon) : s.holdExpire.canon := by
  unfold State.holdExpire
  split
  · exact h
  · extract_lets new before w st cryo u v
    have hv : v.canon := Inert.ite (setSt h.withCryo) (Inert.ite (setSt h.withCryo) h.withCryo)
    exact Inert.ite h hv.setBand.bandEvent

theorem execTrainingDone {pass : Bool} (h : s.canon) : Goes State.canon (execTrainingDone pass s) :=
  Goes.ite (Goes.next h) (Goes.ite (Goes.next h.setSt) (Goes.next h.toSafe))

/-- What is outside the part keeps its form, and the supervisor store is emptied (20 R344). -/
theorem powerDown (h : s.canon) : s.powerDown.canon := ⟨Memory.filter_wf _ h.1, rfl⟩

theorem warmed (h : s.canon) : s.warmed.canon := by
  unfold State.warmed
  extract_lets u v
  have hu : u.canon := Inert.foldl _ (fun _ _ ht => canon_inert.release ht) h
  have hv : v.canon := hu.setBand
  exact Inert.ite h (Inert.ite hu (Inert.ite hv.powerDown hv.setSt))

theorem execWarmupDeadline (h : s.canon) : Goes State.canon (execWarmupDeadline s) := Goes.ite (Goes.next h.toSafe) (Goes.next h)
theorem execHeartbeatMiss (h : s.canon) : Goes State.canon (execHeartbeatMiss s) := Goes.ite (Goes.next h) (Goes.next h.toSafe)

-- boot, the management port and the memory keys

theorem bootWith {img : Image} (h : s.canon) : (s.bootWith img).canon := setSt h.withMgmt
theorem replyWith {ws : List Word} (h : s.canon) : (s.replyWith ws).canon := h.withMgmt

theorem execPowerUp {img : Image} (h : s.canon) : Goes State.canon (execPowerUp img s) :=
  Goes.ite (Goes.next h) (Goes.ite (Goes.next h.bootWith) (Goes.next h.withMgmt))

theorem execRecover {img : Image} (h : s.canon) : Goes State.canon (execRecover img s) := Goes.ite (Goes.next h.bootWith) (Goes.next h)
theorem execRdband (h : s.canon) : Goes State.canon (execRdband s) := Goes.ite (Goes.next h.replyWith) (Goes.next h)

theorem execRdpwr (h : s.canon) : Goes State.canon (execRdpwr s) := Goes.ite (Goes.next (replyWith (h.of_eq rfl))) (Goes.next h)
theorem execRderr (h : s.canon) : Goes State.canon (execRderr s) := Goes.ite (Goes.next (replyWith (h.of_eq rfl))) (Goes.next h)
theorem execCryo {cmd : BitVec 3} (h : s.canon) : Goes State.canon (execCryo cmd s) := Goes.ite (Goes.next h.ask) (Goes.next h)

theorem loadKey {k1 k2 : BitVec 256} {slot : Nat} {erase : Bool} (h : s.canon) : (s.loadKey k1 k2 slot erase).1.canon :=
  Inert.ite_fst h h.withMgmt

theorem execKeyld {sec : Bool} {k1 k2 : BitVec 256} {slot : BitVec 10} {erase : Bool} (h : s.canon) :
    Goes State.canon (execKeyld sec k1 k2 slot erase s) :=
  Goes.ite (Goes.next h.loadKey.replyWith) (Goes.next h)

theorem keyldGo {o : Origin} {slot : Nat} {erase : Bool} (h : s.canon) : (s.keyldGo o slot erase).canon :=
  Inert.ite h (Inert.ite h.withHost h.loadKey.withHost)

theorem execGetMeasurements {block : BitVec 8} {nonce : BitVec 256} (h : s.canon) : Goes State.canon (execGetMeasurements block nonce s) :=
  Goes.ite (Goes.next h.replyWith) (Goes.next h)

theorem execKeyExchange {peer : BitVec 256} (h : s.canon) : Goes State.canon (execKeyExchange peer s) :=
  Goes.ite (Goes.next (replyWith h.withMgmt)) (Goes.next h)

-- the work queues

theorem setWq {q : Nat} {w : Wq} (h : s.canon) : (s.setWq q w).canon := h.withHost
theorem sendMsix {v : Nat} (h : s.canon) : (s.sendMsix v).canon := h.withHost
theorem putMsix {r : Nat} {w : Word} (h : s.canon) : (s.putMsix r w).canon := Inert.ite h.withHost h.withHost
theorem haltWq {q e : Nat} (h : s.canon) : (s.haltWq q e).canon := h.setWq.sendMsix

theorem doorbell {o : Origin} {q tail : Nat} (h : s.canon) : (s.doorbell o q tail).canon :=
  Inert.ite h (Inert.ite h.setWq (Inert.ite h h.haltWq))

theorem wqEnable {o : Origin} {q : Nat} {on : Bool} (h : s.canon) : (s.wqEnable o q on).canon := Inert.ite h.setWq h
theorem wqRetry {o : Origin} {q : Nat} (h : s.canon) : (s.wqRetry o q).canon := Inert.ite h (Inert.ite h.setWq h.setWq)
theorem wqSkip {o : Origin} {q : Nat} (h : s.canon) : (s.wqSkip o q).canon := Inert.ite h (Inert.ite h.setWq h.setWq)
theorem acceptWq {q : Nat} (h : s.canon) : (s.acceptWq q).canon := h.setWq
theorem waitWq {q : Nat} (h : s.canon) : (s.waitWq q).canon := h.setWq
theorem waitPage {q b o : Nat} (h : s.canon) : (s.waitPage q b o).canon := setWq (Inert.ite h (canon_inert.post h))
theorem badRef {q b o : Nat} {f : Fail} (h : s.canon) : (s.badRef q f b o).canon := Inert.ite h.waitPage h.haltWq

theorem launchEntry {q : Nat} {r : BitVec 16} {sett : Bool} {tiles : BitVec 32} (h : s.canon) : (s.launchEntry q r sett tiles).canon := by
  unfold State.launchEntry
  extract_lets ctx rec_ n st u st'
  have hu : u.canon := Inert.ite (canon_inert.patch h) h
  refine Inert.ite h.waitWq (Inert.ite h.haltWq (Inert.ite hu.haltWq (Inert.ite hu.acceptWq ?_)))
  split
  · rename_i v hd
    have hv : v.canon := to_fst (canon_inert.readDbo hu) hd
    exact acceptWq (canon_inert.armRecords hv)
  · rename_i v _ _ hd
    have hv : v.canon := to_fst (canon_inert.readDbo hu) hd
    exact acceptWq (canon_inert.armRecords hv)
  · rename_i v _ hd
    have hv : v.canon := to_fst (canon_inert.readDbo hu) hd
    exact hv.waitWq
  · rename_i v _ _ hd
    have hv : v.canon := to_fst (canon_inert.readDbo hu) hd
    exact hv.badRef

theorem seqEntry {q : Nat} {n : BitVec 4} {ws : List Word} (h : s.canon) : (s.seqEntry q n ws).canon := by
  unfold State.seqEntry
  extract_lets no desc x
  refine Inert.ite h.waitWq (Inert.ite h.haltWq ?_)
  split
  · rename_i v _ hd
    have hv : v.canon := to_fst h.seqValid hd
    exact hv.seqBegin.acceptWq
  · rename_i v _ _ hd
    have hv : v.canon := to_fst h.seqValid hd
    exact hv.badRef
  · rename_i v hd
    have hv : v.canon := to_fst h.seqValid hd
    exact hv.haltWq

theorem copyOdd {w : Who} {src dst : Word} (h : s.canon) : (s.copyOdd w src dst).1.canon := by
  unfold State.copyOdd
  split
  rename_i u a ha
  have hu : u.canon := to_fst h.entryOf ha
  split
  rename_i v b hb
  have hv : v.canon := to_fst hu.entryOf hb
  split
  · exact hv
  · exact hv

theorem copyEntry {q : Nat} {src dst len bo : Word} (h : s.canon) : (s.copyEntry q src dst len bo).canon := by
  unfold State.copyEntry
  extract_lets w
  refine Inert.ite h.haltWq ?_
  split
  · rename_i u _ _ hr
    have hu : u.canon := to_fst (canon_inert.rangesOk h) hr
    exact hu.badRef
  · rename_i u hr
    have hu : u.canon := to_fst (canon_inert.rangesOk h) hr
    split
    rename_i v odd hc
    have hv : v.canon := to_fst hu.copyOdd hc
    exact Inert.ite hv.haltWq (acceptWq (canon_inert.addCmd hv))

theorem collEntry {q : Nat} {prog arg bo : Word} {rank nrank : BitVec 20} (h : s.canon) : (s.collEntry q prog arg bo rank nrank).canon := by
  unfold State.collEntry
  extract_lets w
  split
  · rename_i u _ _ hr
    have hu : u.canon := to_fst (canon_inert.rangesOk h) hr
    exact hu.badRef
  · rename_i u hr
    have hu : u.canon := to_fst (canon_inert.rangesOk h) hr
    split
    rename_i v d he
    have hv : v.canon := to_fst hu.entryOf he
    exact Inert.ite hv.haltWq (Inert.ite hv.waitWq (acceptWq (canon_inert.addProg hv)))

theorem wqObject {q : Nat} {bo : Word} {need : Need} {k : State → Nat → Nat → State} (hk : ∀ u kid key, u.canon → (k u kid key).canon)
    (h : s.canon) : (s.wqObject q bo need k).canon := by
  unfold State.wqObject
  extract_lets w
  refine Inert.ite h.waitWq ?_
  split
  · rename_i u _ hb
    have hu : u.canon := to_fst (canon_inert.boKey h) hb
    exact hu.badRef
  · rename_i u _ hb
    have hu : u.canon := to_fst (canon_inert.boKey h) hb
    exact Inert.ite hu.waitWq (hk _ _ _ (canon_inert.reach hu))

theorem waitboEntry {q : Nat} {bo : Word} {phase : Bool} (h : s.canon) : (s.waitboEntry q bo phase).canon :=
  wqObject (fun _ _ _ hu => Inert.ite (setWq (Inert.ite hu (canon_inert.memErr hu))) (Inert.ite hu.waitWq hu.acceptWq)) h

theorem signalEntry {q : Nat} {bo bytes : Word} {vector : BitVec 11} {msix : Bool} (h : s.canon) :
    (s.signalEntry q bo bytes vector msix).canon := by
  refine wqObject (fun u kid key hu => ?_) h
  extract_lets made v
  have hv : v.canon := canon_inert.boOp (canon_inert.creditAllAhead hu)
  exact acceptWq (Inert.ite hv.sendMsix hv)

theorem entry {i : Instr} {k : State → Nat → State} (hk : ∀ q, (k s q).canon) (h : s.canon) : (s.entry i k).canon := Inert.ite (hk _) h

theorem wqResume {q : Nat} (h : s.canon) : (s.wqResume q).canon := by
  unfold State.wqResume
  extract_lets w
  refine Inert.ite h ?_
  split
  · exact h.launchEntry
  · exact h.seqEntry
  · exact h.copyEntry
  · exact h.waitboEntry
  · exact h.signalEntry
  · exact h.collEntry
  · exact h

theorem readEntry {w : Wq} (h : s.canon) : (s.readEntry w).1.canon := Inert.ite_fst (canon_inert.reach h) (canon_inert.reach h)

theorem takeEntry (h : s.canon) : s.takeEntry.1.canon := by
  unfold State.takeEntry
  split
  · exact h
  · extract_lets host u
    have hu : u.canon := h.withHost
    split
    · rename_i v _ hr
      have hv : v.canon := to_fst hu.readEntry hr
      exact hv.haltWq
    · rename_i v _ hr
      have hv : v.canon := to_fst hu.readEntry hr
      exact hv.setWq

end
end Sys2Proof.Machine.State.canon
end

section
/-! SUPPORT. The canonical form under register writes, accesses from outside and the moves that are neither events nor engines (00 R5, R6,
11 R198, R220, R221, 13 R245 to R251, 22 R368 to R370). -/

namespace Sys2Proof.Machine.State.canon

section
variable {s : State}

-- the register window

theorem policyWrite {r : Nat} {val mask : Word} (h : s.canon) : (s.policyWrite r val mask).canon := by
  unfold State.policyWrite
  extract_lets host base b48
  have hb : ∀ old keep set, (base old keep set).canon := fun _ _ _ => Inert.ite h.withHost h
  clear_value base
  split
  · exact h.withHost
  · exact h.withHost
  · exact h.withHost
  · exact hb _ _ _
  · exact hb _ _ _
  · exact hb _ _ _
  · exact hb _ _ _
  · exact Inert.ite (of_eq h rfl) h
  · exact hb _ _ _
  · exact h.withHost
  · exact h.withHost
  · exact h

theorem keyWordWrite {o : Origin} {r : Nat} {val mask : Word} (h : s.canon) : (s.keyWordWrite o r val mask).canon :=
  Inert.ite h (Inert.ite h.withHost h.withHost)

theorem keyGoWrite {o : Origin} {val mask : Word} (h : s.canon) : (s.keyGoWrite o val mask).canon := Inert.ite h.keyldGo h

theorem wqWrite {o : Origin} {q i : Nat} {val mask : Word} (h : s.canon) : (s.wqWrite o q i val mask).canon := by
  unfold State.wqWrite
  extract_lets w old x old' x' u v
  have hu : u.canon := Inert.ite h.wqEnable h
  have hv : v.canon := Inert.ite hu.wqRetry hu
  clear_value v
  split
  · exact h.setWq
  · exact h.setWq
  · exact Inert.ite hv.wqSkip hv
  · exact h

theorem frplyWrite {v : Word} (h : s.canon) : (s.frplyWrite v).canon := by
  unfold State.frplyWrite
  split
  · exact h.frplyResume
  · exact h.frplyKill
  · exact h

theorem mapctlWrite {val mask : Word} (h : s.canon) : (s.mapctlWrite val mask).canon := Inert.ite (migrate h.withHost) h.withHost
theorem sndcntWrite {val mask : Word} (h : s.canon) : (s.sndcntWrite val mask).canon := h.withColl

theorem sqctlWrite {n : Nat} {val mask : Word} (h : s.canon) : (s.sqctlWrite n val mask).canon := by
  unfold State.sqctlWrite
  extract_lets u
  have hu : u.canon := Inert.ite h.seqAbort h
  exact Inert.ite (canon_inert.seqResume hu) hu

theorem holdtWrite {host : Bool} {val mask : Word} (h : s.canon) : (s.holdtWrite host val mask).canon := h.withCryo

theorem ownWrite {host : Bool} {r : Nat} {val mask : Word} (h : s.canon) : (s.ownWrite host r val mask).canon := by
  unfold State.ownWrite
  split
  · exact Inert.ite h.ask h
  · exact h.holdtWrite
  · exact Inert.ite h.withCryo h
  · exact h.mapctlWrite
  · exact h.setEvqBase
  · exact Inert.ite h.setEvqHead h
  · exact h.of_eq rfl
  · exact Inert.ite h.frplyWrite h
  · exact h.sndcntWrite
  · exact h.policyWrite

theorem regPut {o : Origin} {r : Nat} {val mask : Word} (h : s.canon) : (s.regPut o r val mask).canon :=
  Inert.ite h.ownWrite (Inert.ite h.keyWordWrite (Inert.ite h.keyGoWrite (Inert.ite (Inert.ite h.sqctlWrite h) (Inert.ite h.withHost
    (Inert.ite h.putMsix (Inert.ite h.wqWrite h))))))

theorem regWrite {o : Origin} {off size : Nat} {v : Word} (h : s.canon) : (s.regWrite o off size v).canon := by
  unfold State.regWrite
  split
  · exact h
  · exact Inert.ite h.regPut h

-- links and TDISP

theorem execSoundPortDown {port : Nat} (h : s.canon) : Goes State.canon (execSoundPortDown port s) := Goes.next (Inert.ite h.withMgmt h)
theorem execLinkRekey {link : Nat} (h : s.canon) : Goes State.canon (execLinkRekey link s) := Goes.next (Inert.ite h.withMgmt h)

theorem execTdispMessage {tdi : Nat} {run : Bool} (h : s.canon) : Goes State.canon (execTdispMessage tdi run s) :=
  Goes.next (Inert.ite h.withHost h)

-- accesses from outside

theorem answerWith {bs : Option (List Byte)} (h : s.canon) : (s.answerWith bs).canon := h.withHost

theorem outside {kid key : Nat} {op : ExtOp} (h : s.canon) : (s.outside kid key op).canon := by
  unfold State.outside
  extract_lets u
  have hu : u.canon := h.answerWith
  clear_value u
  split
  · exact canon_inert.reach hu
  · exact canon_inert.homeWrite hu
  · have hv : (u.rebuild (lineOf key)).canon := canon_inert.rebuild hu
    have hw : ((u.rebuild (lineOf key)).reach [lineOf key]).canon := canon_inert.reach hv
    exact Inert.ite hw (Inert.ite (canon_inert.putHome hw) (canon_inert.reduce hv))
  · have hv : (u.reach [lineOf key]).canon := canon_inert.reach hu
    exact Inert.ite (canon_inert.putHome hv) hv

theorem bar4 {o : Origin} {addr : Nat} {op : ExtOp} (h : s.canon) : (s.bar4 o addr op).canon :=
  Inert.ite h (Inert.ite h.answerWith (Inert.ite h (canon_inert.agentAhead h.outside)))

theorem peer {ctx pa : Nat} {op : ExtOp} (h : s.canon) : (s.peer ctx pa op).canon := by
  unfold State.peer
  extract_lets n
  split
  · exact Inert.ite h.answerWith h
  · exact Inert.ite h (canon_inert.agentAhead h.outside)

theorem performAt {c i : Nat} (h : s.canon) : (s.performAt c i).canon := by
  unfold State.performAt
  extract_lets wq
  split
  · exact h
  · exact Inert.ite h (canon_inert.performPend (canon_inert.modCore h))

-- what the outside and the firmware do

theorem fetched {x : State × Option Instr} (h : x.1.canon) : (State.fetched x).canon := by
  obtain ⟨u, i⟩ := x
  cases i with
  | none => exact h
  | some i => exact of_eq h rfl

theorem storeAt {a : Nat} {bs : List Byte} (h : s.canon) : (s.storeAt a bs).canon := canon_inert.agentAhead (canon_inert.homeWrite h)
theorem hostStore {a : Nat} {bs : List Byte} (h : s.canon) : (s.hostStore a bs).canon := Inert.ite h.storeAt h
theorem firmwareStore {a : Nat} {bs : List Byte} (h : s.canon) : (s.firmwareStore a bs).canon := Inert.ite h.storeAt h

theorem supLoad {off : Nat} {bs : List Byte} (h : s.canon) : (s.supLoad off bs).canon := by
  have hb : (s.supStore.writeN off bs).wf = true := Memory.writeN_wf off bs h.2
  exact Inert.ite ⟨h.1, hb⟩ h

theorem cleanCopy {unit copy : Nat} (h : s.canon) : (s.cleanCopy unit copy).canon :=
  Inert.ite (withStor (withStor (canon_inert.partWrite (canon_inert.reach h)))) h

theorem bankConflict {ch : Nat} (h : s.canon) : (s.bankConflict ch).canon := Inert.ite h.withHost h
theorem setUnit {unit dram : Nat} (h : s.canon) : (s.setUnit unit dram).canon := Inert.ite (unmoving h.withStor) h

-- errors of the storage

theorem sramError {key : Nat} (h : s.canon) : (s.sramError key).canon := Inert.ite h.withStor h

theorem l1Error {c line word : Nat} (h : s.canon) : (s.l1Error c line word).canon := by
  unfold State.l1Error
  split
  · exact Inert.ite (canon_inert.modCore h) h
  · exact h

theorem dramError {line : Nat} (h : s.canon) : (s.dramError line).canon := Inert.ite h.withStor (Inert.ite h.withStor h)

-- early reads, partial write-backs and results that land late

theorem readAhead {c : Nat} {e : Eng} {key : Nat} (h : s.canon) : (s.readAhead c e key).canon := by
  unfold State.readAhead
  extract_lets line base kid u v kind w a
  have hu : u.canon := canon_inert.lent h
  have hv : v.canon := Inert.ite (canon_inert.refetch hu) (canon_inert.reach hu)
  exact Inert.ite h (Inert.ite hv (canon_inert.modEng hv))

theorem evictPart {c line : Nat} {mask : Nibs} (h : s.canon) : (s.evictPart c line mask).canon := by
  unfold State.evictPart
  split
  · exact h
  · exact Inert.ite h (canon_inert.modCore (canon_inert.lineBytes h))

theorem torn {c : Nat} {e : Eng} (h : s.canon) : (s.torn c e).canon := canon_inert.modCore h
theorem withhold {t : State} {c : Nat} {e : Eng} (h : t.canon) : (s.withhold t c e).canon := Inert.ite h (canon_inert.modCore h)
theorem landLanes {c : Nat} {e : Eng} {reg : Nat} {mask : BitVec 256} (h : s.canon) : (s.landLanes c e reg mask).canon :=
  canon_inert.modCore h
theorem landWord {c : Nat} {e : Eng} {key : Nat} (h : s.canon) : (s.landWord c e key).canon := canon_inert.landWhere h

theorem noteWaits (h : s.canon) : s.noteWaits.canon := by
  refine Inert.foldl _ (fun t x ht => ?_) h
  split
  · exact Inert.ite ht (canon_inert.modInfo (canon_inert.memErr ht))
  · exact ht

-- links, images and keys

theorem joinPod {gang barrier : Nat} (h : s.canon) : (s.joinPod gang barrier).canon := Inert.ite (canon_inert.modGang h) h
theorem receive {m : Msg} (h : s.canon) : (s.receive m).canon := Inert.ite h.traffic h
theorem linkUse {l : Nat} (h : s.canon) : (s.linkUse l).canon := Inert.ite h.withMgmt h
theorem flashWrite {img : Image} (h : s.canon) : (s.flashWrite img).canon := Inert.ite h.withMgmt h
theorem peerKeys {pkg ctx : Nat} {refused : Bool} (h : s.canon) : (s.peerKeys pkg ctx refused).canon := h.withMgmt

theorem move {m : Move} (h : s.canon) : (s.move m).canon := by
  cases m with
  | run c e => exact h
  | ev i => exact h
  | collStep prog => exact fetched h.fetchStep
  | wqTake => exact fetched h.takeEntry
  | tick => exact h.tick.ageAll.noteWaits
  | wall us => exact h.of_eq rfl
  | sensor n kelvin valid => exact Inert.ite h.withCryo h
  | sramError key => exact h.sramError
  | l1Error core line word => exact h.l1Error
  | dramError line => exact h.dramError
  | hostStore addr bytes => exact h.hostStore
  | traffic m => exact h.receive
  | firmware bytes addr => exact h.firmwareStore
  | supLoad bytes off => exact h.supLoad
  | capacity reg v => exact h.madeWith
  | setIlv region mode => exact Inert.ite h.withStor h
  | setClean unit copy => exact h.cleanCopy
  | setUnit unit dram => exact h.setUnit
  | moving unit => exact h.startMove
  | joinPod gang barrier => exact h.joinPod
  | setPkg pod num => exact h.withMgmt
  | setReserve units => exact h.withStor
  | roDrop quad kid line => exact h.withStor
  | roSnap quad kid line => exact canon_inert.roSnap h
  | roServe quad kid line n view mask => exact canon_inert.roServe h
  | readAhead c e key => exact Inert.ite h.readAhead h
  | early c e => exact Inert.ite h (canon_inert.modEng h)
  | evictPart c line mask => exact h.evictPart
  | bankConflict ch => exact h.bankConflict
  | runTorn c e => exact h
  | landLanes c e reg mask => exact h.landLanes
  | landByte c e key => exact h.landWord
  | probeRead slot i => exact h.probeRead
  | reread c reg mask => exact Inert.ite (canon_inert.reread h) h
  | granuleWord cmd target word => exact h.granuleWord
  | linkUse l => exact h.linkUse
  | bundleError c layer b => exact h.bundleError
  | flashWrite img => exact h.flashWrite
  | peerKeys pkg ctx refused => exact h.peerKeys
  | tdiOwns tdi ctxs => exact Inert.ite h.withHost h

end
end Sys2Proof.Machine.State.canon
end

section
/-! Settled: every step keeps the canonical form of the package's memory and of the supervisor store (O7). -/

namespace Sys2Proof.Machine.State.canon

section
variable {s : State}

theorem word {i : Instr} {eff : Grp → State → Eff} (hi : Machine.exec i = performWord i eff)
    (heff : ∀ g u, u.canon → (eff g u).All State.canon) (h : s.canon) : Goes State.canon (Machine.exec i s) := by
  rw [hi]
  exact canon_inert.performWord heff h

theorem exec {i : Instr} (h : s.canon) : Goes State.canon (Machine.exec i s) := by
  cases i with
  | nop | brp | bkpt =>
    refine word rfl (fun _ _ hu => ?_) h
    exact .done hu
  | br | brc | yield | halt | sleep | eret =>
    refine word rfl (fun _ _ hu => ?_) h
    exact plainEff (.done hu) hu
  | call =>
    refine word rfl (fun _ _ hu => ?_) h
    exact plainEff hu.callEff hu
  | ret =>
    refine word rfl (fun _ _ hu => ?_) h
    exact plainEff hu.retEff hu
  | loop | loops =>
    refine word rfl (fun _ _ hu => ?_) h
    exact plainEff hu.loopEff hu
  | brkl =>
    refine word rfl (fun _ _ hu => ?_) h
    exact plainEff hu.brklEff hu
  | suspend =>
    refine word rfl (fun _ _ hu => ?_) h
    exact plainEff hu.suspendEff hu
  | watch =>
    refine word rfl (fun _ _ hu => ?_) h
    exact hu.watchEff
  | tfence =>
    refine word rfl (fun _ _ hu => ?_) h
    exact plainEff hu.tfenceEff hu
  | stampb =>
    refine word rfl (fun _ _ hu => ?_) h
    exact .done (canon_inert.modCore hu)
  | trap =>
    refine word rfl (fun _ _ hu => ?_) h
    exact plainEff hu.trapEff hu
  | csrr | add | addi | sub | mul | madd | mulh | mulhn | div | divn | rem | remn | and | andi | or | ori | xor | xori | andn | clz | popc |
  shl | shli | shr | shri | sra | srai | min | minn | max | maxn | cmp | sel | li | lih | bext | bins =>
    refine word rfl (fun _ _ hu => ?_) h
    exact canon_inert.scalarEff hu
  | csrw =>
    refine word rfl (fun _ _ hu => ?_) h
    exact plainEff hu.csrwEff hu
  | tlbinv =>
    refine word rfl (fun _ _ hu => ?_) h
    exact hu.tlbinvEff
  | bufinv =>
    refine word rfl (fun _ _ hu => ?_) h
    exact hu.bufinvEff
  | lds =>
    refine word rfl (fun _ _ hu => ?_) h
    exact canon_inert.ldsEff hu
  | sts =>
    refine word rfl (fun _ _ hu => ?_) h
    exact canon_inert.stsEff hu
  | cld =>
    refine word rfl (fun _ _ hu => ?_) h
    exact canon_inert.cldEff hu
  | amo =>
    refine word rfl (fun _ _ hu => ?_) h
    exact canon_inert.amoEff hu
  | cas =>
    refine word rfl (fun _ _ hu => ?_) h
    exact canon_inert.casEff hu
  | vld =>
    refine word rfl (fun _ _ hu => ?_) h
    exact canon_inert.vldEff hu
  | vlds =>
    refine word rfl (fun _ _ hu => ?_) h
    exact canon_inert.vldsEff hu
  | vldx =>
    refine word rfl (fun _ _ hu => ?_) h
    exact canon_inert.vldxEff hu
  | vldb =>
    refine word rfl (fun _ _ hu => ?_) h
    exact canon_inert.vldbEff hu
  | vst =>
    refine word rfl (fun _ _ hu => ?_) h
    exact canon_inert.vstEff hu
  | vsts =>
    refine word rfl (fun _ _ hu => ?_) h
    exact canon_inert.vstsEff hu
  | vstx =>
    refine word rfl (fun _ _ hu => ?_) h
    exact canon_inert.vstxEff hu
  | vstn =>
    refine word rfl (fun _ _ hu => ?_) h
    exact canon_inert.vstnEff hu
  | amov =>
    refine word rfl (fun _ _ hu => ?_) h
    exact canon_inert.amovEff hu
  | fence | lfence =>
    refine word rfl (fun _ _ hu => ?_) h
    exact canon_inert.fenceEff hu
  | barr =>
    refine word rfl (fun _ _ hu => ?_) h
    exact Eff.All.ite (canon_inert.barrEff hu) (.done hu)
  | boarm | boadd =>
    refine word rfl (fun _ _ hu => ?_) h
    exact canon_inert.boWordEff hu
  | bowait =>
    refine word rfl (fun _ _ hu => ?_) h
    exact canon_inert.bowaitEff hu
  | lpatch =>
    refine word rfl (fun _ _ hu => ?_) h
    exact hu.lpatchEff
  | larm =>
    refine word rfl (fun _ _ hu => ?_) h
    exact hu.larmEff
  | rchk =>
    refine word rfl (fun _ _ hu => ?_) h
    exact hu.rchkEff
  | rinv =>
    refine word rfl (fun _ _ hu => ?_) h
    exact hu.rinvEff
  | acpy | afill | agath | ascat | aferry | acoll =>
    refine word rfl (fun _ _ hu => ?_) h
    exact canon_inert.asyncEff hu
  | astat =>
    refine word rfl (fun _ _ hu => ?_) h
    exact canon_inert.astatEff hu
  | vadd | vsub | vmul | vmulh | vfma | vfms | vfnma | vmin | vmax | vabs | vneg | vrcp | vrsq | vsqrt | vexp2 | vlog2 | vsin | vcos | vtanh
  | vsig | vand | vor | vxor | vshl | vshr | vsra | vsel | vclassV | vradd | vrmax | vrmin | vscan | vcvt | vdqmx | vpack | vunpk | vldexp |
  vperm | vshuf | vbcst | vins | vcomp | vexpd | vpclr | vpchk =>
    refine word rfl (fun _ _ hu => ?_) h
    exact hu.vecDone
  | vcmp | vclassP | pand | por | pxor | pnot | pmov =>
    refine word rfl (fun _ _ hu => ?_) h
    exact hu.predDone
  | vqmx =>
    refine word rfl (fun _ _ hu => ?_) h
    exact hu.vqmxEff
  | vexts =>
    refine word rfl (fun _ _ hu => ?_) h
    exact hu.vextsEff
  | vtrn =>
    refine word rfl (fun _ _ hu => ?_) h
    exact hu.vtrnEff
  | pcnt | pfirst =>
    refine word rfl (fun _ _ hu => ?_) h
    exact hu.scalarDone
  | mcfg =>
    refine word rfl (fun _ _ hu => ?_) h
    exact canon_inert.mcfgEff hu
  | mldw =>
    refine word rfl (fun _ _ hu => ?_) h
    exact canon_inert.mldwEff hu
  | mswp =>
    refine word rfl (fun _ _ hu => ?_) h
    exact canon_inert.mswpEff hu
  | mlds =>
    refine word rfl (fun _ _ hu => ?_) h
    exact canon_inert.mldsEff hu
  | mma =>
    refine word rfl (fun _ _ hu => ?_) h
    exact canon_inert.mmaEff hu
  | mza =>
    refine word rfl (fun _ _ hu => ?_) h
    exact canon_inert.mzaEff hu
  | mdrn =>
    refine word rfl (fun _ _ hu => ?_) h
    exact canon_inert.mdrnEff hu
  | mkpr =>
    refine word rfl (fun _ _ hu => ?_) h
    exact canon_inert.mkprEff hu
  | mbswp =>
    refine word rfl (fun _ _ hu => ?_) h
    exact canon_inert.mbswpEff hu
  | matrixComplete => exact Goes.next h.completeMatrix
  | scheduleMiss => exact Goes.next h.miss
  | enterSection => exact h.execEnterSection
  | tokenPost => exact h.execTokenPost
  | bowaitComplete => exact h.execBowaitComplete
  | episodeComplete => exact Goes.ite (Goes.next h) (Goes.next h.episode)
  | podEpisodeComplete => exact Goes.ite (Goes.next h.episode) (Goes.next h)
  | batchApply => exact Goes.next (canon_inert.closeBatch h)
  | l1Evict => exact h.execL1Evict
  | choose => exact Goes.next (Inert.ite h h.choose)
  | makeResident => exact h.execMakeResident
  | dispatch => exact Goes.next (Inert.ite h h.dispatch)
  | agingRise => exact Goes.next h.ageTask
  | writeBack => exact Goes.next (Inert.ite h h.writeBack)
  | taskEnd => exact Goes.next (Inert.ite h h.taskEnd)
  | probeDecision => exact Goes.next (Inert.ite h h.probe)
  | watchdogExpire => exact Goes.next h.wdogExpire
  | phaseTimerExpire => exact h.execPhaseTimerExpire
  | preemptRequest => exact h.execPreemptRequest
  | save => exact Goes.next (Inert.ite h h.save)
  | savelate => exact Goes.next h.saveLate
  | granuleTransfer => exact h.execGranuleTransfer
  | granuleRestart => exact h.execGranuleRestart
  | ferryExchange => exact h.execFerryExchange
  | collProgramStart => exact Goes.next h.collStart
  | send => exact Goes.next (doStep (fun _ => h.sendStep) h)
  | recv => exact Goes.next (doStep (fun _ => h.recvStep) h)
  | pushred => exact Goes.next (doStep (fun _ => h.pushStep) h)
  | pull => exact Goes.next (doStep (fun _ => h.pullStep) h)
  | collCopy => exact Goes.next (doStep (fun _ => h.copyStep) h)
  | wait => exact Goes.next (doStep (fun _ => h.waitStep) h)
  | collSignal => exact Goes.next (doStep (fun _ => h.signalStep) h)
  | collLoop => exact Goes.next (doStep (fun _ => h.loopStep) h)
  | endl => exact Goes.next (doStep (fun _ => h.endlStep) h)
  | countx => exact Goes.next (doStep (fun _ => h.countStep) h)
  | pfxsum => exact Goes.next (doStep (fun _ => h.pfxStep) h)
  | collEnd => exact Goes.next (doStep (fun _ => h.endStep) h)
  | collStepComplete => exact h.execCollStepComplete
  | peerWrite => exact h.execPeerWrite
  | contribution => exact h.execContribution
  | flush => exact Goes.next h.flush
  | collTimeout => exact h.execCollTimeout
  | seqStepStart => exact Goes.ite (Goes.next (Inert.ite h h.seqStart)) (Goes.next h)
  | seqStepEnd => exact Goes.ite (Goes.next (Inert.ite h h.seqEnd)) (Goes.next h)
  | sqctlResume => exact Goes.ite (Goes.next (canon_inert.seqResume h)) (Goes.next h)
  | sqctlAbort => exact Goes.ite (Goes.next h.seqAbort) (Goes.next h)
  | frplyResume => exact Goes.next h.frplyResume
  | frplyKill => exact Goes.next h.frplyKill
  | evqbaseWrite => exact Goes.next h.setEvqBase
  | evqheadWrite => exact Goes.next h.setEvqHead
  | mapctlStart => exact Goes.next h.migrate
  | remapUnitMove => exact Goes.next h.remapUnit
  | hbmRebuild => exact Goes.ite (Goes.next (canon_inert.rebuild h)) (Goes.next h)
  | bundleRetire => exact Goes.next h.retireBundle
  | patrolScrub => exact h.execPatrolScrub
  | dramRefresh | flitRetry => exact Goes.next h
  | tempSample => exact Goes.next h.sample
  | holdTimerExpire => exact Goes.next h.holdExpire
  | cryoctlCool | cryoctlWarm | cryoctlPoweroff | cryoctlAbort => exact Goes.next h.ask
  | trainingDone => exact h.execTrainingDone
  | warmupComplete => exact Goes.next h.warmed
  | warmupDeadline => exact h.execWarmupDeadline
  | heartbeatMiss => exact h.execHeartbeatMiss
  | powerUp => exact h.execPowerUp
  | recover => exact h.execRecover
  | rdband => exact h.execRdband
  | rdpwr => exact h.execRdpwr
  | rderr => exact h.execRderr
  | cryo => exact h.execCryo
  | keyld => exact h.execKeyld
  | keyldInstall | keyldErase => exact Goes.next h.keyldGo
  | getMeasurements => exact h.execGetMeasurements
  | keyExchange => exact h.execKeyExchange
  | doorbell => exact Goes.next h.doorbell
  | wqctlEnable => exact Goes.next h.wqEnable
  | wqctlRetry => exact Goes.next h.wqRetry
  | wqctlSkip => exact Goes.next h.wqSkip
  | launch => exact Goes.next (entry (fun _ => h.launchEntry) h)
  | seq => exact Goes.next (entry (fun _ => h.seqEntry) h)
  | copy => exact Goes.next (entry (fun _ => h.copyEntry) h)
  | waitbo => exact Goes.next (entry (fun _ => h.waitboEntry) h)
  | signal => exact Goes.next (entry (fun _ => h.signalEntry) h)
  | coll => exact Goes.next (entry (fun _ => h.collEntry) h)
  | wqWaitEnd => exact Goes.next h.wqResume
  | pcieLinkDown | pcieLinkUp => exact Goes.next h.withHost
  | soundPortDown => exact h.execSoundPortDown
  | linkRekey => exact h.execLinkRekey
  | registerWrite => exact Goes.next h.regWrite
  | accessPerformed => exact Goes.next h.performAt
  | pageServiceRetry => exact h.execPageServiceRetry
  | bar4Access => exact Goes.next h.bar4
  | peerAccess => exact Goes.next h.peer
  | tdispMessage => exact h.execTdispMessage

theorem withheld {c : Nat} {e : Eng} {o : Host.Outcome State Fault Refusal} (ho : Goes State.canon o) :
    Goes State.canon (Machine.withheld c e s o) := by
  cases o with
  | next t => exact Goes.next (withhold (ho t rfl))
  | fault f => exact ho
  | refused r => exact ho

theorem runEngine (h : s.canon) : Goes State.canon (Machine.runEngine s) := by
  have hf : s.fetch.All State.canon := canon_inert.fetch h
  unfold Machine.runEngine
  generalize s.fetch = x at hf
  cases x with
  | own u => exact Goes.next hf
  | word i u => exact exec hf

theorem withCur {x : Nat × Eng} (h : s.canon) : ({ s with cur := x } : State).canon := h

theorem step (h : s.canon) : Goes State.canon (Machine.step s) := by
  unfold Machine.step
  split
  · exact Goes.ite (Goes.next h) h.runEngine
  · rename_i m ms _
    have hs : ({ s with agenda := ms } : State).canon := h.of_eq rfl
    refine Goes.ite (Goes.next hs) ?_
    split
    · exact hs.exec
    · exact Goes.ite (fun _ ht => nomatch ht) (runEngine (withCur hs))
    · exact Goes.ite (fun _ ht => nomatch ht) (withheld (runEngine (withCur (torn hs))))
    · exact Goes.next hs.move

end
end Sys2Proof.Machine.State.canon

namespace Sys2Proof.Machine

/-- Settles O7: each move, event and word keeps the form, since each writes memory through functions that keep it. -/
theorem canonKept : Obligations.CanonKept := by
  unfold Obligations.CanonKept
  intro s t h ht
  exact h.step t ht

end Sys2Proof.Machine
end
